-- ==== Sys2Proof/Word.lean ====
section
/-! DEFINITION. The word types of the Z4 and the sorted association list that holds sparse state. -/

namespace Sys2Proof

/-- One byte (spec/00 R3: memory is little-endian bytes). -/
abbrev Byte := BitVec 8
/-- A 32-bit register lane or word. -/
abbrev Word := BitVec 32
/-- A 64-bit value: a register pair, a stamp, a device register. -/
abbrev DWord := BitVec 64
/-- A 96-bit instruction word (R26). -/
abbrev IWord := BitVec 96
/-- A set of the 128 lanes of a skein; bit l stands for lane l. -/
abbrev LMask := BitVec 128
/-- The bytes of a 128-byte line; byte b is bits 8b+7..8b. -/
abbrev LineData := BitVec 1024
/-- A vector register: the words of lanes 0 to 127; a lane beyond the list reads 0. -/
abbrev VReg := List Word

/-- A sparse map from numbers, kept strictly ascending in its keys. -/
abbrev NMap (α : Type) := List (Nat × α)

/-- The entry of key `n`, if the map lists one. -/
def NMap.get? {α : Type} (m : NMap α) (n : Nat) : Option α :=
  match m with
  | [] => none
  | (k, a) :: r => if k = n then some a else NMap.get? r n

/-- The entry of key `n`, or `d`. -/
def NMap.getD {α : Type} (m : NMap α) (n : Nat) (d : α) : α := (NMap.get? m n).getD d

/-- The map with key `n` bound to `a`. -/
def NMap.insert {α : Type} (m : NMap α) (n : Nat) (a : α) : NMap α :=
  match m with
  | [] => [(n, a)]
  | (k, b) :: r => if n < k then (n, a) :: (k, b) :: r
                   else if n = k then (n, a) :: r
                   else (k, b) :: NMap.insert r n a

/-- The map without key `n`. -/
def NMap.erase {α : Type} (m : NMap α) (n : Nat) : NMap α :=
  match m with
  | [] => []
  | (k, b) :: r => if k = n then NMap.erase r n else (k, b) :: NMap.erase r n

/-- The keys of the map, ascending. -/
def NMap.keys {α : Type} (m : NMap α) : List Nat := m.map Prod.fst

end Sys2Proof
end

