-- ==== Sys2Proof/Syntax.lean ====
section
/-! DEFINITION. The instructions of the Z4 (spec/02 R27 to R45) and the device's own steps (the event rows of
spec/opcode_table.json), one constructor per row. An instruction carries its decoded operands; an event carries the unit
that acts and whatever comes from outside the package (host bytes, link check results, sensor values). -/

namespace Sys2Proof

/-- Integer type IT (02 Table 5): width and signedness. -/
inductive IType | n8 | n16 | n32 | n64 | i8 | i16 | i32 | i64
  deriving DecidableEq, Repr, Inhabited
/-- Access size AS (02 Table 5). -/
inductive ASize | n8 | n16 | n32 | n64 | i8 | i16 | n128
  deriving DecidableEq, Repr, Inhabited
/-- Rounding direction RM (02 Table 5). -/
inductive RMode | rne | rz | rm | rp
  deriving DecidableEq, Repr, Inhabited
/-- Wide float format FF (02 Table 5). -/
inductive FF | f64 | f32 | f16 | bf16
  deriving DecidableEq, Repr, Inhabited
/-- Integer width IW (02 Table 5). -/
inductive IWid | w8 | w16 | w32 | w64
  deriving DecidableEq, Repr, Inhabited
/-- Scope SC (02 Table 5). -/
inductive Scope | sk | bolt | clu | die | dev | pod | sys
  deriving DecidableEq, Repr, Inhabited
/-- Cache policy CP (02 Table 5). -/
inductive CPol | keep | byp | evf | strm
  deriving DecidableEq, Repr, Inhabited
/-- Integer comparison (R266). -/
inductive ICond | eq | ne | lt | le | gt | ge
  deriving DecidableEq, Repr, Inhabited
/-- Float comparison (R295). -/
inductive FCond | eq | ne | lt | le | gt | ge | nan | num
  deriving DecidableEq, Repr, Inhabited
/-- What IDX adds (R271). -/
inductive IdxWhat | lane | bolt | sub | grid
  deriving DecidableEq, Repr, Inhabited
/-- LPERM mode (R277). -/
inductive PermMode | idx | up | down | xor | rot
  deriving DecidableEq, Repr, Inhabited
/-- PCON combination with the destination its form takes (R279). -/
inductive PconForm | all (p : Nat) | any (p : Nat) | same (p : Nat) | ballot (k : Nat) | count (k : Nat)
  deriving DecidableEq, Repr, Inhabited
/-- LGRP form with its destination (R280). -/
inductive LgrpForm | set (v : Nat) | same (p : Nat)
  deriving DecidableEq, Repr, Inhabited
/-- KRED combination (R281). -/
inductive KredOp | add | min | max | and | or | xor
  deriving DecidableEq, Repr, Inhabited
/-- PSET combination (R283). -/
inductive PsetOp | and | or | xor | andn
  deriving DecidableEq, Repr, Inhabited
/-- PMOV form with its operands (R284). -/
inductive PmovForm | pv (v p : Nat) | vp (p v : Nat) | pack (v : Nat) | unpk (v : Nat)
  deriving DecidableEq, Repr, Inhabited
/-- LANEMASK relation (R282). -/
inductive LmRel | lt | le | gt | ge | eq
  deriving DecidableEq, Repr, Inhabited
/-- ATOM operation (R228). -/
inductive AtomOp | add | min | max | and | or | xor | exch | inc
  deriving DecidableEq, Repr, Inhabited
/-- FENCE kind (R229). -/
inductive FenceKind | acq | rel | ar | sc
  deriving DecidableEq, Repr, Inhabited
/-- COLL operation (R178). -/
inductive CollOp | sum | max | min | bcast | gath
  deriving DecidableEq, Repr, Inhabited
/-- PSTAT selection (R182). -/
inductive PstatWhat | free | filled | depth | state
  deriving DecidableEq, Repr, Inhabited
/-- ADPF selection (R332). -/
inductive AdpfWhat | both | am | bm
  deriving DecidableEq, Repr, Inhabited

/-- A source operand: vector register, uniform register, or the class-11 immediate (R28). -/
inductive Src | v (n : Nat) | k (n : Nat) | imm (w : Word)
  deriving DecidableEq, Repr, Inhabited
/-- A destination, an operand C, or an address operand: vector or uniform register (R29, R31, R32). -/
inductive VK | v (n : Nat) | k (n : Nat)
  deriving DecidableEq, Repr, Inhabited

/-- Guard and hint fields of a word (R27, R33, R36, R38). -/
structure Ctl where
  /-- guard predicate number, 0 to 7 -/
  guard : Nat
  /-- guard negate, bit 11 -/
  neg : Bool
  /-- bit 91: selects the header's second set flag -/
  second : Bool
  /-- bit 88: yield hint -/
  yieldHint : Bool
  /-- bits 90:89: retain hint, 0 to 3 -/
  retain : Nat
  deriving DecidableEq, Repr, Inhabited

/-- L-int (R43): type and `.sat`. -/
structure IMod where
  ty : IType
  sat : Bool
  deriving DecidableEq, Repr, Inhabited

/-- L-flt (R43): rounding and the four modifier bits; `m5` is `.sat` (F, D) or `.bf16` (H). -/
structure FMod where
  rm : RMode
  negA : Bool
  negB : Bool
  m4 : Bool
  m5 : Bool
  deriving DecidableEq, Repr, Inhabited

/-- A clause header (R34). -/
structure Header where
  /-- number of instructions, 1 to 8 -/
  len : Nat
  /-- wait mask over f0 to f11 -/
  wait : BitVec 12
  set1 : Option Nat
  set2 : Option Nat
  yieldHint : Bool
  deriving DecidableEq, Repr, Inhabited

/-- Row adapters of `mma.ad` (R316): register C and the layer slot. -/
structure AdRef where
  c : Nat
  layer : Nat
  deriving DecidableEq, Repr, Inhabited

/-- AtomicOps the host may send (18 Table 1). -/
inductive HostAtomicOp | fetchAdd | swap | cas
  deriving DecidableEq, Repr, Inhabited

/-- What a member's descriptor and its COLL say of a use of a group (R435, R436): package and block of each member. -/
structure GroupUse where
  op : CollOp := .sum
  members : List (Nat × Nat) := []
  channel : Nat := 0
  deriving DecidableEq, Repr, Inhabited

/-- A member's tile, or a result, on its way to another package (07 R178, 18 R436): the member, the format code, scale and shape under
which its bytes are read. -/
structure GroupTile where
  member : Nat
  fmt : Nat
  scale : Int
  rows : Nat
  cols : Nat
  bytes : List Byte
  /-- bytes of the whole of it, and where those given stand: a flit brings a part (R431) -/
  size : Nat := 0
  at_ : Nat := 0
  /-- the group as the sender has read it -/
  use : GroupUse := {}
  /-- the root's result, eighty bytes a value; or word of a mismatch -/
  result : Bool := false
  bad : Bool := false
  deriving DecidableEq, Repr, Inhabited

/-- What a request outside the package, or a read of the weight store, brings back: the bytes of the answer, the single-bit errors that
were corrected, and the 32-byte units that carry a wider error or come poisoned (R81, R426). -/
structure Answer where
  ext : List Byte
  corrected : Nat
  bad : List Nat
  deriving DecidableEq, Repr, Inhabited

/-- A request whose reply leaves its slice, and the errors found in the line as it was read (R81, R104). -/
structure SliceReply where
  req : Nat
  corrected : Nat
  bad : List Nat
  deriving DecidableEq, Repr, Inhabited

/-- A copy engine of a core, and, as it reads the weight store, the single-bit errors that were corrected and the units that turn out
poisoned (R81, R170). -/
structure EngineLine where
  eng : Nat
  corrected : Nat
  bad : List Nat
  deriving DecidableEq, Repr, Inhabited

/-- Which push commits: an operation of the core, or, with a plan for the core, the first one come to a pipe from its producer
package (R133, R140). -/
inductive PushRef
  | op (n : Nat)
  | home (pipe : Nat)
  deriving DecidableEq, Repr, Inhabited

/-- Attributes of a write from the host: relaxed ordering, and poisoned data (R250, R426). -/
structure TlpAttr where
  relaxed : Bool
  ep : Bool
  deriving DecidableEq, Repr, Inhabited

/-- A step of a ring that crosses packages (R157): package, its plan number, stage, and the pipe of that plan by which the ring leaves
the package, or none. -/
structure RingHop where
  pkg : Nat
  plan : Nat
  stage : Nat
  pipe : Option Nat
  deriving DecidableEq, Repr, Inhabited

/-- What a round along a declared ring is for (R157 to R160): to collect the candidate pipes, as home package and pipe number there;
to spill a tile of one; to end; to stop every plan of the ring for a cause. DEDUCED, log entry 63. -/
inductive RingPhase
  | collect (cands : List (Nat × Nat))
  | spill (home pipe : Nat)
  | done
  | stop (cause : Nat)
  deriving DecidableEq, Repr, Inhabited

/-- What a UALink flit from the pod carries (18 R431, R437, R438): pod-window transactions, pipe and group messages. -/
inductive PodMsg
  | write (pa : Nat) (bytes : List Byte)
  | read (pa len : Nat)
  | atomic (pa : Nat) (op : AtomOp) (ty : IType) (b : DWord)
  | compareSwap (pa : Nat) (ty : IType) (b c : DWord)
  | pipeLine (plan pipe slot index : Nat) (bytes : List Byte)
  | pipeCommit (plan pipe : Nat) (slots : List Nat)
  | credit (plan pipe filled : Nat)
  /-- initiator, least count, the receiver's pipe and its side (1: toward the consumer), and the way it has come -/
  | probe (pkg stage count pipe side : Nat) (hops : List RingHop)
  /-- a round along a declared ring, and the plan of the other side of a pipe has ended; by the receiver's pipe and its side -/
  | ring (hops : List RingHop) (first pos : Nat) (phase : RingPhase) (pipe side : Nat)
  | planEnded (pipe side : Nat)
  | pipeState (pipe : Nat) (close : Bool)
  /-- the home has applied a change; it has dropped a push of a discarded task; the C it sampled -/
  | pipeApplied (pipe : Nat)
  | pipeDrop (pipe slot : Nat)
  | pipeSample (pipe filled : Nat)
  | groupTile (group gen : Nat) (tile : GroupTile)
  /-- what a read, an atomic (its old value and its stamp) or a write brings back, by its address there, poisoned or not -/
  | reply (pa : Nat) (bytes : List Byte) (bad : Bool)
  | retireKey
  deriving DecidableEq, Repr, Inhabited

/-- One flit of a UALink port direction (R431 to R438). -/
structure UalFlit where
  dest : Nat
  vc : Nat
  msg : PodMsg
  /-- the package that sent it -/
  src : Nat := 0
  /-- its sequence number under its key (R437) -/
  seq : Nat := 0
  deriving DecidableEq, Repr, Inhabited

/-- The units that a part's fuses mark present, numbered as in its presence masks, and whether its second tier is attached by CXL (R1, R448). DEDUCED, log entry 46. -/
structure PartFuses where
  cores : BitVec 192
  slices : BitVec 64
  sram : BitVec 4
  hbmStacks : BitVec 12
  second : BitVec 4
  wstore : BitVec 4
  cxl : Bool
  deriving DecidableEq, Repr, Inhabited
/-- Presence masks and results that calibration delivers (19 R447). -/
structure CalResult where
  /-- every unit that no presence mask can leave out passed (19 Table 1, Failed) -/
  ok : Bool
  /-- SRAM dies that passed, by die -/
  sram : BitVec 4
  /-- slices that passed, bit 16d + s -/
  slices : BitVec 64
  /-- cores that passed, bit 48d + 4c + n -/
  cores : BitVec 192
  /-- HBM stacks that passed, bit 3d + i -/
  hbmStacks : BitVec 12
  /-- second-tier parts, by die -/
  second : BitVec 4
  /-- weight stores, by die -/
  wstore : BitVec 4
  /-- CXL.cache was negotiated on the host link -/
  cxlCache : Bool
  /-- what the part holds before any calibration loss (R1) -/
  part : PartFuses
  deriving DecidableEq, Repr, Inhabited

/-- The instructions and device steps of the Z4, one constructor per row of the opcode table. DEDUCED, log entry 20. -/
inductive Instr where
  -- clause header and control flow (ch. 14)
  | clauseIssue (h : Header)
  | nop
  | bra (c : Ctl) (tgt : Word)
  | brx (c : Ctl) (a : Nat)
  | setj (c : Ctl) (tgt : Word)
  | join (c : Ctl)
  | call (c : Ctl) (s8 : Nat) (tgt : Word)
  | callx (c : Ctl) (s8 a : Nat)
  | ret (c : Ctl)
  | exit (c : Ctl)
  | skeinEnd (core slot : Nat)
  | kill (c : Ctl)
  | yield (c : Ctl)
  | sleep (c : Ctl) (a : Src)
  | sleepExpiry (core slot path : Nat)
  | trap (c : Ctl) (code : BitVec 16)
  | brk (c : Ctl) (code : BitVec 16)
  | rte (c : Ctl)
  | stitch (c : Ctl) (d a : Nat) (t : Bool)
  -- integer, address, bit-field and lane instructions (ch. 11)
  | add (c : Ctl) (d : VK) (a b : Src) (m : IMod)
  | sub (c : Ctl) (d : VK) (a b : Src) (m : IMod)
  | addc (c : Ctl) (d : VK) (a b : Src) (p : Nat) (ty : IType)
  | subc (c : Ctl) (d : VK) (a b : Src) (p : Nat) (ty : IType)
  | mul (c : Ctl) (d : VK) (a b : Src) (m : IMod)
  | mulh (c : Ctl) (d : VK) (a b : Src) (m : IMod)
  | mad (c : Ctl) (d : VK) (a b : Src) (cc : VK) (m : IMod)
  | madw (c : Ctl) (d : VK) (a b : Src) (cc : VK) (m : IMod)
  | div (c : Ctl) (d : VK) (a b : Src) (m : IMod)
  | rem (c : Ctl) (d : VK) (a b : Src) (m : IMod)
  | min (c : Ctl) (d : VK) (a b : Src) (m : IMod)
  | max (c : Ctl) (d : VK) (a b : Src) (m : IMod)
  | abs (c : Ctl) (d : VK) (a : Src) (m : IMod)
  | neg (c : Ctl) (d : VK) (a : Src) (m : IMod)
  | shl (c : Ctl) (d : VK) (a b : Src) (m : IMod)
  | shr (c : Ctl) (d : VK) (a b : Src) (m : IMod)
  | sar (c : Ctl) (d : VK) (a b : Src) (m : IMod)
  | rot (c : Ctl) (d : VK) (a b : Src) (m : IMod)
  | cmp (c : Ctl) (p : Nat) (a b : Src) (cc : ICond) (m : IMod)
  | sel (c : Ctl) (d : VK) (a b : Src) (p : Nat) (ty : IType)
  | mov (c : Ctl) (d : VK) (a : Src) (wide : Bool)
  | movk (c : Ctl) (d a : Nat) (b : Src)
  | lea (c : Ctl) (d : VK) (a b : Src) (signed : Bool) (sh : Nat)
  | clz (c : Ctl) (d : VK) (a : Src) (m : IMod)
  | popc (c : Ctl) (d : VK) (a : Src) (m : IMod)
  | brev (c : Ctl) (d : VK) (a : Src) (m : IMod)
  | sad (c : Ctl) (d : VK) (a b : Src) (cc : VK) (m : IMod)
  | idx (c : Ctl) (d : VK) (a : Src) (what : IdxWhat)
  | and (c : Ctl) (d : VK) (a b : Src) (wide : Bool)
  | or (c : Ctl) (d : VK) (a b : Src) (wide : Bool)
  | xor (c : Ctl) (d : VK) (a b : Src) (wide : Bool)
  | not (c : Ctl) (d : VK) (a : Src) (wide : Bool)
  | tlut (c : Ctl) (d : VK) (a b : Src) (cc : VK) (tbl : BitVec 8)
  | bfx (c : Ctl) (d : VK) (a b : Src) (ty : IType)
  | bfi (c : Ctl) (d : VK) (a b : Src) (cc : VK) (ty : IType)
  | bpick (c : Ctl) (d : VK) (a b : Src) (cc : VK)
  | lperm (c : Ctl) (d : VK) (a b : Src) (mode : PermMode) (wide : Bool)
  | xchg (c : Ctl) (d : VK) (a b : Src)
  | pcon (c : Ctl) (f : PconForm) (a : Nat)
  | lgrp (c : Ctl) (f : LgrpForm) (a : Src) (wide : Bool)
  | kred (c : Ctl) (d a : Nat) (op : KredOp) (m : IMod)
  | pset (c : Ctl) (d a b : Nat) (op : PsetOp)
  | pmov (c : Ctl) (f : PmovForm)
  | lanemask (c : Ctl) (d : Nat) (rel : LmRel)
  -- floating point, conversions, special functions (ch. 12)
  | fadd (c : Ctl) (d : VK) (a b : Src) (m : FMod)
  | fmul (c : Ctl) (d : VK) (a b : Src) (m : FMod)
  | ffma (c : Ctl) (d : VK) (a b : Src) (cc : VK) (m : FMod)
  | fmnx (c : Ctl) (d : VK) (a b : Src) (isMax : Bool) (m : FMod)
  | fcmp (c : Ctl) (p : Nat) (a b : Src) (cc : FCond) (m : FMod)
  | fcls (c : Ctl) (p : Nat) (a b : Src) (m : FMod)
  | frnd (c : Ctl) (d : VK) (a : Src) (m : FMod)
  | fscl (c : Ctl) (d : VK) (a b : Src) (m : FMod)
  | dadd (c : Ctl) (d : VK) (a b : Src) (m : FMod)
  | dmul (c : Ctl) (d : VK) (a b : Src) (m : FMod)
  | dfma (c : Ctl) (d : VK) (a b : Src) (cc : VK) (m : FMod)
  | dmnx (c : Ctl) (d : VK) (a b : Src) (isMax : Bool) (m : FMod)
  | dcmp (c : Ctl) (p : Nat) (a b : Src) (cc : FCond) (m : FMod)
  | dcls (c : Ctl) (p : Nat) (a b : Src) (m : FMod)
  | drnd (c : Ctl) (d : VK) (a : Src) (m : FMod)
  | dscl (c : Ctl) (d : VK) (a b : Src) (m : FMod)
  | hadd (c : Ctl) (d : VK) (a b : Src) (m : FMod)
  | hmul (c : Ctl) (d : VK) (a b : Src) (m : FMod)
  | hfma (c : Ctl) (d : VK) (a b : Src) (cc : VK) (m : FMod)
  | hmnx (c : Ctl) (d : VK) (a b : Src) (isMax : Bool) (m : FMod)
  | hcmp (c : Ctl) (p : Nat) (a b : Src) (cc : FCond) (m : FMod)
  | hcls (c : Ctl) (p : Nat) (a b : Src) (m : FMod)
  | hrnd (c : Ctl) (d : VK) (a : Src) (m : FMod)
  | hscl (c : Ctl) (d : VK) (a b : Src) (m : FMod)
  | cvt (c : Ctl) (d : VK) (a : Src) (r : RMode) (dst src : FF)
  | cvtn (c : Ctl) (d : VK) (a : Src) (src : FF) (sat : Bool) (fs pos : Nat)
  | cvtw (c : Ctl) (d : VK) (a : Src) (dst : FF) (fs pos : Nat)
  | pack (c : Ctl) (d : VK) (a b : Src) (r : RMode) (sat bf : Bool)
  | unpk (c : Ctl) (d : VK) (a : Src) (bf : Bool)
  | cvti (c : Ctl) (d : VK) (a : Src) (r : RMode) (src : FF) (dst : IWid) (signed : Bool)
  | cvtf (c : Ctl) (d : VK) (a : Src) (r : RMode) (dst : FF) (src : IWid) (signed : Bool)
  | cvts (c : Ctl) (d : VK) (a : Src) (dst src : IType) (sat : Bool)
  | rcp (c : Ctl) (d : VK) (a : Src)
  | rsq (c : Ctl) (d : VK) (a : Src)
  | sqrt (c : Ctl) (d : VK) (a : Src)
  | ex2 (c : Ctl) (d : VK) (a : Src)
  | lg2 (c : Ctl) (d : VK) (a : Src)
  | sin (c : Ctl) (d : VK) (a : Src)
  | cos (c : Ctl) (d : VK) (a : Src)
  | tanh (c : Ctl) (d : VK) (a : Src)
  -- loads, stores, atomics, fences (ch. 09)
  | ld (c : Ctl) (d a : VK) (off : Word) (sz : ASize) (sc : Scope) (cp : CPol)
  | st (c : Ctl) (a b : VK) (off : Word) (sz : ASize) (sc : Scope) (cp : CPol) (ver : Bool)
  | ldb (c : Ctl) (d a : VK) (off : Word) (sc : Scope) (cp : CPol)
  | stb (c : Ctl) (a b : VK) (off : Word) (sc : Scope) (cp : CPol) (ver : Bool)
  | ldk (c : Ctl) (d a : Nat) (off : Word) (wide : Bool) (sc : Scope) (cp : CPol)
  | stk (c : Ctl) (a b : Nat) (off : Word) (wide : Bool) (sc : Scope) (cp : CPol)
  | ldp (c : Ctl) (d : Nat) (a : Nat) (off : Word) (sz : ASize) (peer : Nat)
  | stp (c : Ctl) (a : Nat) (b : VK) (off : Word) (sz : ASize) (peer : Nat)
  | ldw (c : Ctl) (d : Nat) (a : Nat) (off : Word) (sz : ASize)
  | atom (c : Ctl) (d a b : VK) (off : Word) (op : AtomOp) (ty : IType) (sc : Scope)
  | atomc (c : Ctl) (d a b cc : VK) (ty : IType) (sc : Scope)
  | fence (c : Ctl) (k : FenceKind) (sc : Scope)
  | cflush (c : Ctl) (a : Option VK) (off : Word) (sc : Scope)
  | cinv (c : Ctl) (a : Option VK) (off : Word) (sc : Scope)
  | pref (c : Ctl) (a : VK) (off : Word) (l2 : Bool)
  | seqr (c : Ctl) (d : VK)
  -- copy engines, tiles, pipes (ch. 07)
  | tload (c : Ctl) (d a pitch : Nat) (cp : CPol)
  | tstore (c : Ctl) (a b pitch : Nat) (cp : CPol)
  | tgather (c : Ctl) (d a b : Nat) (cp : CPol)
  | tscat (c : Ctl) (a b cc : Nat) (cp : CPol)
  | tpeer (c : Ctl) (d a peer : Nat)
  | tfill (c : Ctl) (d : Nat) (a : Src)
  | coll (c : Ctl) (d a b : Nat) (op : CollOp)
  | trel (c : Ctl) (d : Nat)
  | ppush (c : Ctl) (a q : Nat)
  | ppop (c : Ctl) (d q : Nat)
  | pstat (c : Ctl) (d q : Nat) (what : PstatWhat)
  | pclose (c : Ctl) (q : Nat)
  | preopen (c : Ctl) (q : Nat)
  | pwait (c : Ctl) (q : Nat) (filled : Bool)
  -- matrix unit (ch. 13)
  | mma (c : Ctl) (d a b : Nat) (last : Bool) (ad : Option AdRef)
  | mmac (c : Ctl) (d a b fs : Nat) (last : Bool) (ad : Option AdRef)
  | accz (c : Ctl) (d : Nat)
  | accl (c : Ctl) (d a : Nat)
  | accd (c : Ctl) (d a fs : Nat)
  | adpf (c : Ctl) (a b : Src) (what : AdpfWhat)
  -- barriers, waits, tasks, windows, special registers (ch. 16, 07, 08, 17)
  | barInit (c : Ctl) (d : Nat) (a : Src)
  | barArrive (c : Ctl) (d : Nat)
  | barWait (c : Ctl) (d : Nat)
  | waitc (c : Ctl) (a m : Nat)
  | baste (c : Ctl)
  | hem (c : Ctl)
  | taskPublication (core slot : Nat)
  | taskDiscard (core slot : Nat)
  | grow (c : Ctl) (n : Word)
  | shrink (c : Ctl) (n : Word)
  | sread (c : Ctl) (d : VK) (r : Nat)
  | swrite (c : Ctl) (a : Src) (r : Nat)
  -- memory-side steps (ch. 05, 09, 04)
  | loadReply (core slot op part : Nat) (ext : Answer)
  | writeAcknowledgement (req : Nat)
  | storeQueueEntryToL1 (core quarter : Nat)
  | requestPortSend (die port : Nat)
  | sliceAccept (slice : Nat)
  | sliceFillReturn (req : SliceReply)
  | hbmSlotService (ch : Nat) (corrected : Nat) (bad : List Nat)
  | dieLinkSlot (x : Nat)
  | dieLinkFlitArrival (x : Nat) (crcOk : Bool)
  | translationWalk (die index : Nat)
  | copyLineTransfer (core : Nat) (eng : EngineLine)
  | copyComplete (core op : Nat)
  | collResult (group gen : Nat) (remote : List GroupTile)
  -- pipes and plans (ch. 06)
  | pipePushReserve (plan pipe : Nat)
  | pipePopReserve (plan pipe : Nat)
  | pipePushCommit (core : Nat) (op : PushRef)
  | pipePopComplete (core op : Nat)
  | pipeCredit (plan pipe filled : Nat)
  | pipeSpillComplete (plan pipe : Nat)
  | planStart (plan : Nat)
  | planEnd (plan : Nat)
  | balancerSample
  | deadlockSample
  | deadlockProbe (pkg stage count plan atStage : Nat)
  | stageHalt (plan : Nat)
  -- queues, dispatch, bolts (ch. 16)
  | qtailWrite (q : Nat) (v : Word)
  | entryStart (q : Nat)
  | copyEntryComplete (q seq : Nat)
  | invalidationComplete (q seq : Nat)
  | entryComplete (q : Nat)
  | dispatchTurn (die : Nat)
  | boltEnd (core bolt : Nat)
  | gridComplete (grid : Nat)
  | wsGateEnter (die : Nat)
  | wsRefreshWindowEnd (die group : Nat)
  -- register pool (ch. 08)
  | registerRequestGrant (core : Nat)
  | registerDeadlockBreak (core : Nat)
  | headRequestTimeout (core : Nat)
  | granuleSpillComplete (core : Nat)
  | granuleRefill (core : Nat)
  -- matrix unit steps (ch. 13)
  | baseKStep (core slot : Nat)
  | hitLastTerms (core slot : Nat)
  | adapterChunkFill (core slot fill : Nat)
  | replayIdentifierWork (core slot : Nat)
  | matrixRetire (core slot : Nat)
  -- parks, saves, debug (ch. 17)
  | boltPark (core bolt : Nat)
  | boltStop (core bolt : Nat)
  | contextRestore (die grid : Nat)
  | thermalMigration (die : Nat)
  | stopreqWrite (q seq : Nat)
  | debugHalt
  | debugResume
  | debugSnapshot
  | debugReload
  | debugStep
  | debugPark
  -- commits (ch. 04, 05, 18)
  | chcommit
  | channelSlotCommitApply
  | fabcommit
  | fabricCommitApply
  | ualcommit
  | ualinkCommitApply
  | partcommit
  | partitionCommitApply
  -- UALink, attestation, host (ch. 18)
  | ualctlRoll (x : Nat)
  | keyAgreementComplete (x : Nat) (ok : Bool)
  | keyRetire (x : Nat)
  | ualinkFlitReceive (x : Nat) (tagOk : Bool) (epoch : Bool) (acked : Nat) (nacked : Option Nat) (flit : UalFlit)
  | ualinkPortChange (x : Nat) (up : Bool)
  | attctlRequest
  | attestationComplete (report : List Byte)
  | hostMemoryWrite (pa : Nat) (bytes : List Byte) (relaxed : TlpAttr)
  | hostMemoryRead (pa len : Nat)
  | hostAtomic (pa : Nat) (op : HostAtomicOp) (wide : Bool) (x y : DWord)
  | ualinkInboundWrite (vc : Nat)
  | registerWrite (off : Nat) (wide : Bool) (v : DWord)
  -- power and health (ch. 19)
  | resetRelease
  | firmwareVerifyDone (rsaOk slhOk : Bool) (version : BitVec 16)
  | calibrationDone (r : CalResult)
  | initialisationDone
  | sensorRefresh (temps : List (BitVec 8)) (pwr energy : DWord) (ages : List (BitVec 8 × Option Nat))
  | thermalTrip (sensor : Nat)
  | ageReplan (die : Nat)
  -- rows added by the reader
  | specialFunctionResult (core slot op : Nat)
  | sliceHitReply (req : SliceReply)
  | adapterEntriesRead (core slot : Nat)
  | ualinkPortSlot (x : Nat)
  | ualinkInboundReadAtomic (vc : Nat)
  | cxlCacheSnoop (pa : Nat)
  | pipeHomeStateChange (plan pipe : Nat)
  deriving DecidableEq, Repr, Inhabited

end Sys2Proof
end

