-- ==== Sys2Proof/WellFormed.lean ====
section
/-! DEFINITION. What decoding guarantees of an instruction (spec/02 R28 to R32, R35, R43 to R45): index limits, even pairs
and quadruples, the acceptance rules of operand classes, assigned modifier values. For an event: the unit it names exists. -/

namespace Sys2Proof

/-- Registers that a value of this integer type takes (R256). -/
def IType.regs : IType → Nat
  | .n64 | .i64 => 2
  | _ => 1
/-- Registers that an access of this size takes (R222). -/
def ASize.regs : ASize → Nat
  | .n64 => 2
  | .n128 => 4
  | _ => 1
/-- Registers that a value of this format takes (R285). -/
def FF.regs : FF → Nat
  | .f64 => 2
  | _ => 1
/-- Registers that an integer of this width takes (R305). -/
def IWid.regs : IWid → Nat
  | .w64 => 2
  | _ => 1
/-- The type has 32 or 64 bits (R267, R274). -/
def IType.is3264 : IType → Bool
  | .n32 | .n64 | .i32 | .i64 => true
  | _ => false
/-- The type has at most 32 bits (R262). -/
def IType.le32 : IType → Bool
  | .n64 | .i64 => false
  | _ => true
/-- The size is one a store may have (R222). -/
def ASize.storable : ASize → Bool
  | .i8 | .i16 => false
  | _ => true

/-- A group of `w` vector registers starting at `n`, `w` being 1, 2 or 4 (R28, R32). -/
def vOk (w n : Nat) : Bool := decide (n + w ≤ 256) && decide (n % w = 0)
/-- A group of `w` uniform registers starting at `n` (R28, R32). -/
def kOk (w n : Nat) : Bool := decide (n + w ≤ 64) && decide (n % w = 0)
/-- A predicate number. -/
def pOk (n : Nat) : Bool := decide (n < 8)

/-- The operand is a vector register. -/
def Src.isV : Src → Bool
  | .v _ => true
  | _ => false
/-- The operand is the immediate. -/
def Src.isImm : Src → Bool
  | .imm _ => true
  | _ => false
/-- The operand is a vector register. -/
def VK.isV : VK → Bool
  | .v _ => true
  | .k _ => false

/-- A source of `w` registers (R28, R32). -/
def srcOk (w : Nat) : Src → Bool
  | .v n => vOk w n
  | .k n => kOk w n
  | .imm _ => true
/-- A register operand of `w` registers. -/
def vkOk (w : Nat) : VK → Bool
  | .v n => vOk w n
  | .k n => kOk w n
/-- A destination: a uniform one only beside no vector source (R29). -/
def dstOk (w : Nat) (d : VK) (anyV : Bool) : Bool := vkOk w d && (d.isV || !anyV)
/-- At most one class-11 operand (R29). -/
def oneImm (a b : Src) : Bool := !(a.isImm && b.isImm)

/-- Guard and retain fields in their ranges. -/
def Ctl.ok (c : Ctl) : Bool := decide (c.guard < 8) && decide (c.retain < 4)

/-- The shape "D, A, B" with register counts of each. -/
def ok2 (wd wa wb : Nat) (c : Ctl) (d : VK) (a b : Src) : Bool :=
  c.ok && srcOk wa a && srcOk wb b && oneImm a b && dstOk wd d (a.isV || b.isV)
/-- The shape "D, A". -/
def ok1 (wd wa : Nat) (c : Ctl) (d : VK) (a : Src) : Bool :=
  c.ok && srcOk wa a && dstOk wd d a.isV
/-- The shape "D, A, B, C": the immediate holds operand C, so no class-11 operand (R29, R31). -/
def ok3 (wd wa wb wc : Nat) (c : Ctl) (d : VK) (a b : Src) (cc : VK) : Bool :=
  c.ok && srcOk wa a && srcOk wb b && !a.isImm && !b.isImm && vkOk wc cc && dstOk wd d (a.isV || b.isV || cc.isV)
/-- The shape "D, A, B, C p". -/
def ok2p (wd wa wb : Nat) (c : Ctl) (d : VK) (a b : Src) (p : Nat) : Bool :=
  c.ok && srcOk wa a && srcOk wb b && !a.isImm && !b.isImm && pOk p && dstOk wd d (a.isV || b.isV)
/-- The shape "D p, A, B", `np` consecutive predicates. -/
def okP (np wa wb : Nat) (c : Ctl) (p : Nat) (a b : Src) : Bool :=
  c.ok && srcOk wa a && srcOk wb b && oneImm a b && decide (p + np ≤ 8)

/-- The header passes item 1 of R35. -/
def Header.ok (h : Header) : Bool :=
  decide (1 ≤ h.len) && decide (h.len ≤ 8) &&
  (match h.set1 with | some f => decide (f < 12) | none => true) &&
  (match h.set2 with | some f => decide (f < 12) | none => true)

/-- The row-adapter operand and layer slot are in range. -/
def adOk : Option AdRef → Bool
  | none => true
  | some r => decide (r.c < 256) && decide (r.layer < 256)

/-- Wide type code of MOV, AND to NOT, LPERM, LGRP. -/
def wideRegs (wide : Bool) : Nat := if wide then 2 else 1

/-- Registers of special register `r` as SREAD reads it (R45). DEDUCED, log entry 14. -/
def sregRegs (r : Nat) : Nat := if r = 8 ∨ r = 9 ∨ r = 11 then 2 else 1
/-- Registers of special register `r` as SWRITE takes it (R408). -/
def sregWriteRegs (r : Nat) : Nat := if r = 9 ∨ r = 11 then 2 else 1

def coreOk (n : Nat) : Bool := decide (n < 192)
def slotOk (core slot : Nat) : Bool := decide (core < 192) && decide (slot < 64)
def dieOk (n : Nat) : Bool := decide (n < 4)
def portOk (n : Nat) : Bool := decide (n < 16)
def qOk (n : Nat) : Bool := decide (n < 65536)

/-- The instruction is one that decoding can give, or an event that names units the package has. DEDUCED, log entry 14. DEDUCED, log entry 20. -/
def Instr.wf : Instr → Bool
  | .clauseIssue h => h.ok
  | .nop => true
  | .bra c _ | .setj c _ | .join c | .ret c | .exit c | .kill c | .yield c | .trap c _ | .brk c _ | .rte c => c.ok
  | .brx c a => c.ok && vOk 1 a
  | .call c s8 _ => c.ok && decide (s8 < 30)
  | .callx c s8 a => c.ok && decide (s8 < 30) && vOk 1 a
  | .sleep c a => c.ok && srcOk 1 a
  | .stitch c d a _ => c.ok && pOk d && decide (a ≤ 253)
  | .add c d a b m | .sub c d a b m | .mul c d a b m | .mulh c d a b m | .div c d a b m | .rem c d a b m
  | .min c d a b m | .max c d a b m => ok2 m.ty.regs m.ty.regs m.ty.regs c d a b
  | .shl c d a b m | .shr c d a b m | .sar c d a b m | .rot c d a b m => ok2 m.ty.regs m.ty.regs 1 c d a b
  | .addc c d a b p ty | .subc c d a b p ty => ok2p ty.regs ty.regs ty.regs c d a b p
  | .mad c d a b cc m | .sad c d a b cc m => ok3 m.ty.regs m.ty.regs m.ty.regs m.ty.regs c d a b cc
  | .madw c d a b cc m => m.ty.le32 && ok3 2 1 1 2 c d a b cc
  | .abs c d a m | .neg c d a m | .clz c d a m | .popc c d a m | .brev c d a m => ok1 m.ty.regs m.ty.regs c d a
  | .cmp c p a b _ m => okP 1 m.ty.regs m.ty.regs c p a b
  | .sel c d a b p ty => ty.is3264 && ok2p ty.regs ty.regs ty.regs c d a b p
  | .mov c d a w => ok1 (wideRegs w) (wideRegs w) c d a
  | .movk c d a b => c.ok && kOk 1 d && vOk 1 a && srcOk 1 b
  | .lea c d a b _ sh => decide (sh < 8) && ok2 2 2 1 c d a b
  | .idx c d a _ => ok1 1 1 c d a
  | .and c d a b w | .or c d a b w | .xor c d a b w => ok2 (wideRegs w) (wideRegs w) (wideRegs w) c d a b
  | .not c d a w => ok1 (wideRegs w) (wideRegs w) c d a
  | .tlut c d a b cc _ => ok3 1 1 1 1 c d a b cc
  | .bfx c d a b ty => ty.is3264 && ok2 ty.regs ty.regs 1 c d a b
  | .bfi c d a b cc ty => ty.is3264 && ok3 ty.regs ty.regs ty.regs 1 c d a b cc
  | .bpick c d a b cc => ok3 1 1 1 1 c d a b cc
  | .lperm c d a b _ w => ok2 (wideRegs w) (wideRegs w) 1 c d a b
  | .xchg c d a b => ok2 1 1 1 c d a b
  | .pcon c f a => c.ok && pOk a && (match f with
      | .all p | .any p | .same p => pOk p
      | .ballot k => kOk 4 k
      | .count k => kOk 1 k)
  | .lgrp c f a w => c.ok && srcOk (wideRegs w) a && (match f with
      | .set v => vOk 4 v
      | .same p => pOk p)
  | .kred c d a _ m => c.ok && kOk m.ty.regs d && vOk m.ty.regs a
  | .pset c d a b _ => c.ok && pOk d && pOk a && pOk b
  | .pmov c f => c.ok && (match f with
      | .pv v p | .vp p v => vOk 1 v && pOk p
      | .pack v | .unpk v => vOk 1 v)
  | .lanemask c d _ => c.ok && vOk 1 d
  | .fadd c d a b _ | .fmul c d a b _ | .fmnx c d a b _ _ | .fscl c d a b _
  | .hadd c d a b _ | .hmul c d a b _ | .hmnx c d a b _ _ | .hscl c d a b _ => ok2 1 1 1 c d a b
  | .ffma c d a b cc _ | .hfma c d a b cc _ => ok3 1 1 1 1 c d a b cc
  | .fcmp c p a b _ _ | .fcls c p a b _ => okP 1 1 1 c p a b
  | .hcmp c p a b _ _ | .hcls c p a b _ => okP 2 1 1 c p a b
  | .frnd c d a _ | .hrnd c d a _ => ok1 1 1 c d a
  | .dadd c d a b _ | .dmul c d a b _ | .dmnx c d a b _ _ => ok2 2 2 2 c d a b
  | .dscl c d a b _ => ok2 2 2 1 c d a b
  | .dfma c d a b cc _ => ok3 2 2 2 2 c d a b cc
  | .dcmp c p a b _ _ => okP 1 2 2 c p a b
  | .dcls c p a b _ => okP 1 2 1 c p a b
  | .drnd c d a _ => ok1 2 2 c d a
  | .cvt c d a _ dst src => ok1 dst.regs src.regs c d a
  | .cvtn c d a src _ fs pos => decide (fs < 8) && decide (pos < 8) && ok1 1 src.regs c d a
  | .cvtw c d a dst fs pos => decide (fs < 8) && decide (pos < 8) && ok1 dst.regs 1 c d a
  | .pack c d a b _ _ _ => ok2 1 1 1 c d a b
  | .unpk c d a _ => ok1 2 1 c d a
  | .cvti c d a _ src dst _ => ok1 dst.regs src.regs c d a
  | .cvtf c d a _ dst src _ => ok1 dst.regs src.regs c d a
  | .cvts c d a dst src _ => ok1 dst.regs src.regs c d a
  | .rcp c d a | .rsq c d a | .sqrt c d a | .ex2 c d a | .lg2 c d a | .sin c d a | .cos c d a | .tanh c d a => ok1 1 1 c d a
  | .ld c d a _ sz _ _ => c.ok && vkOk 2 a && dstOk sz.regs d a.isV
  | .st c a b _ sz _ _ _ => c.ok && sz.storable && vkOk 2 a && vkOk sz.regs b
  | .ldb c d a _ _ _ => c.ok && vkOk 2 a && dstOk 1 d a.isV
  | .stb c a b _ _ _ _ => c.ok && vkOk 2 a && vkOk 1 b
  | .ldk c d a _ w _ _ => c.ok && kOk 2 a && kOk (wideRegs w) d
  | .stk c a b _ w _ _ => c.ok && kOk 2 a && kOk (wideRegs w) b
  | .ldp c d a _ sz peer => c.ok && vOk 1 a && vOk sz.regs d && decide (peer < 4)
  | .stp c a b _ sz peer => c.ok && sz.storable && vOk 1 a && vkOk sz.regs b && decide (peer < 4)
  | .ldw c d a _ sz => c.ok && vOk 1 a && vOk sz.regs d
  | .atom c d a b _ _ ty _ => c.ok && vkOk 2 a && vkOk ty.regs b && dstOk ty.regs d (a.isV || b.isV)
  | .atomc c d a b cc ty _ =>
      c.ok && vkOk 2 a && vkOk ty.regs b && vkOk ty.regs cc && dstOk ty.regs d (a.isV || b.isV || cc.isV)
  | .fence c _ _ => c.ok
  | .cflush c a _ _ | .cinv c a _ _ => c.ok && (match a with | some r => vkOk 2 r | none => true)
  | .pref c a _ _ => c.ok && vkOk 2 a
  | .seqr c d => c.ok && vkOk 2 d
  | .tload c d a p _ => c.ok && decide (d < 256) && kOk 2 a && kOk 1 p
  | .tstore c a b p _ => c.ok && decide (b < 256) && kOk 2 a && kOk 1 p
  | .tgather c d a b _ => c.ok && decide (d < 256) && kOk 2 a && vOk 1 b
  | .tscat c a b cc _ => c.ok && decide (b < 256) && kOk 2 a && vOk 1 cc
  | .tpeer c d a peer => c.ok && decide (d < 256) && decide (a < 256) && decide (peer < 4)
  | .tfill c d a => c.ok && decide (d < 256) && srcOk 1 a
  | .coll c d a b _ => c.ok && decide (d < 256) && decide (a < 256) && kOk 1 b
  | .trel c d => c.ok && decide (d < 256)
  | .ppush c a q => c.ok && decide (a < 256) && decide (q < 64)
  | .ppop c d q => c.ok && decide (d < 256) && decide (q < 64)
  | .pstat c d q _ => c.ok && kOk 1 d && decide (q < 64)
  | .pclose c q | .preopen c q | .pwait c q _ => c.ok && decide (q < 64)
  | .mma c d a b _ ad => c.ok && decide (d < 32) && decide (a < 256) && decide (b < 256) && adOk ad
  | .mmac c d a b fs _ ad => c.ok && decide (d < 32) && decide (a < 32) && decide (b < 256) && decide (fs < 8) && adOk ad
  | .accz c d => c.ok && decide (d < 32)
  | .accl c d a => c.ok && decide (d < 32) && decide (a < 256)
  | .accd c d a fs => c.ok && decide (d < 256) && decide (a < 32) && decide (fs < 8)
  | .adpf c a b _ => c.ok && srcOk 1 a && srcOk 1 b && oneImm a b
  | .barInit c d a => c.ok && decide (d < 24) && srcOk 1 a
  | .barArrive c d | .barWait c d => c.ok && decide (d < 24)
  | .waitc c a m => c.ok && decide (a < 8) && decide (m < 64)
  | .baste c | .hem c | .grow c _ | .shrink c _ => c.ok
  | .sread c d r => c.ok && decide (r < 13) && vkOk (sregRegs r) d
  | .swrite c a r => c.ok && decide (r < 13) && srcOk (sregWriteRegs r) a &&
      (match a with | .imm w => decide (w.toNat < 16777216) | _ => true)
  | .skeinEnd core slot | .sleepExpiry core slot _ | .taskPublication core slot | .taskDiscard core slot
  | .loadReply core slot _ _ _ | .baseKStep core slot | .hitLastTerms core slot | .adapterChunkFill core slot _
  | .replayIdentifierWork core slot | .matrixRetire core slot | .specialFunctionResult core slot _
  | .adapterEntriesRead core slot => slotOk core slot
  | .storeQueueEntryToL1 core quarter => coreOk core && decide (quarter < 4)
  | .requestPortSend die port => dieOk die && portOk port
  | .sliceAccept slice => decide (slice < 64)
  | .hbmSlotService ch _ _ => decide (ch < 384)
  | .dieLinkSlot x | .dieLinkFlitArrival x _ => portOk x
  | .translationWalk die _ | .dispatchTurn die | .wsGateEnter die | .contextRestore die _ | .thermalMigration die
  | .ageReplan die => dieOk die
  | .wsRefreshWindowEnd die g => dieOk die && decide (g < 32)
  | .copyLineTransfer core eng => coreOk core && decide (eng.eng < 4)
  | .copyComplete core _ | .pipePushCommit core (.op _) | .pipePopComplete core _ | .boltEnd core _
  | .registerRequestGrant core | .registerDeadlockBreak core | .headRequestTimeout core | .granuleSpillComplete core
  | .granuleRefill core | .boltPark core _ | .boltStop core _ => coreOk core
  | .collResult g gen _ => decide (g < 4096) && decide (gen < 4)
  | .qtailWrite q _ | .entryStart q | .copyEntryComplete q _ | .invalidationComplete q _ | .entryComplete q
  | .stopreqWrite q _ => qOk q
  | .ualctlRoll x | .keyAgreementComplete x _ | .keyRetire x | .ualinkFlitReceive x _ _ _ _ _ | .ualinkPortChange x _
  | .ualinkPortSlot x | .ualinkInboundWrite x | .ualinkInboundReadAtomic x => portOk x
  | .thermalTrip n => coreOk n
  | .registerWrite off wide _ => decide (off < 16777216) && decide (off % (if wide then 8 else 4) = 0)
  | .pipePushCommit _ (.home _) | .writeAcknowledgement _ | .sliceFillReturn _ | .sliceHitReply _ | .pipePushReserve _ _ | .pipePopReserve _ _
  | .pipeCredit _ _ _ | .pipeSpillComplete _ _ | .planStart _ | .planEnd _ | .balancerSample | .deadlockSample
  | .deadlockProbe _ _ _ _ _ | .stageHalt _ | .gridComplete _ | .debugHalt | .debugResume | .debugSnapshot | .debugReload
  | .debugStep | .debugPark | .chcommit | .channelSlotCommitApply | .fabcommit | .fabricCommitApply | .ualcommit
  | .ualinkCommitApply | .partcommit | .partitionCommitApply | .attctlRequest | .attestationComplete _
  | .hostMemoryWrite _ _ _ | .hostMemoryRead _ _ | .hostAtomic _ _ _ _ _ | .resetRelease | .firmwareVerifyDone _ _ _
  | .calibrationDone _ | .initialisationDone | .sensorRefresh _ _ _ _ | .cxlCacheSnoop _ | .pipeHomeStateChange _ _ => true

/-- The instruction is a word of code: it has an encoding (R27, R34). Events of the device have none. -/
def Instr.isCode : Instr → Bool
  | .skeinEnd .. | .sleepExpiry .. | .taskPublication .. | .taskDiscard .. | .loadReply .. | .baseKStep ..
  | .hitLastTerms .. | .adapterChunkFill .. | .replayIdentifierWork .. | .matrixRetire .. | .specialFunctionResult ..
  | .adapterEntriesRead .. | .storeQueueEntryToL1 .. | .requestPortSend .. | .sliceAccept .. | .hbmSlotService ..
  | .dieLinkSlot .. | .dieLinkFlitArrival .. | .translationWalk .. | .dispatchTurn .. | .wsGateEnter ..
  | .contextRestore .. | .thermalMigration .. | .ageReplan .. | .wsRefreshWindowEnd .. | .copyLineTransfer ..
  | .copyComplete .. | .pipePushCommit .. | .pipePopComplete .. | .boltEnd .. | .registerRequestGrant ..
  | .registerDeadlockBreak .. | .headRequestTimeout .. | .granuleSpillComplete .. | .granuleRefill .. | .boltPark ..
  | .boltStop .. | .collResult .. | .qtailWrite .. | .entryStart .. | .copyEntryComplete .. | .invalidationComplete ..
  | .entryComplete .. | .stopreqWrite .. | .ualctlRoll .. | .keyAgreementComplete .. | .keyRetire ..
  | .ualinkFlitReceive .. | .ualinkPortChange .. | .ualinkPortSlot .. | .ualinkInboundWrite ..
  | .ualinkInboundReadAtomic .. | .thermalTrip .. | .registerWrite .. | .writeAcknowledgement .. | .sliceFillReturn ..
  | .sliceHitReply .. | .pipePushReserve .. | .pipePopReserve .. | .pipeCredit .. | .pipeSpillComplete .. | .planStart ..
  | .planEnd .. | .balancerSample | .deadlockSample | .deadlockProbe .. | .stageHalt .. | .gridComplete .. | .debugHalt
  | .debugResume | .debugSnapshot | .debugReload | .debugStep | .debugPark | .chcommit | .channelSlotCommitApply
  | .fabcommit | .fabricCommitApply | .ualcommit | .ualinkCommitApply | .partcommit | .partitionCommitApply
  | .attctlRequest | .attestationComplete .. | .hostMemoryWrite .. | .hostMemoryRead .. | .hostAtomic ..
  | .resetRelease | .firmwareVerifyDone .. | .calibrationDone .. | .initialisationDone | .sensorRefresh ..
  | .cxlCacheSnoop .. | .pipeHomeStateChange .. => false
  | _ => true

end Sys2Proof
end

