-- ==== Sys2Proof/Decode.lean ====
section
/-! DEFINITION. The decoder of a 96-bit word (spec/02 R27 to R45), total on every word and rejecting by name, and after it
the encoder written from the same tables. The checks a whole clause adds (a header inside a clause, a control-flow word that
is not last, R35) are made where a clause is fetched. -/

namespace Sys2Proof

/-- Why a word is refused (R35). Each takes the illegal-instruction trap at the clause; the name says which check failed. -/
inductive DecodeErr
  | headerLength | headerFlag | reservedOpcode | operandClass | operandIndex | modifier | subOperation | specialRegister
  deriving DecidableEq, Repr, Inhabited

/-- A 10-bit operand field: class and index (R28). -/
structure Opnd where
  cls : BitVec 2
  ix : BitVec 8
  deriving DecidableEq, Repr, Inhabited

/-- The fields of an instruction word (R27 Table 1), reserved bits left out. -/
structure Fields where
  op : BitVec 8
  gp : BitVec 3
  gn : BitVec 1
  d : Opnd
  a : Opnd
  b : Opnd
  mod : BitVec 6
  fs : BitVec 3
  sub : BitVec 3
  imm : BitVec 32
  yieldHint : BitVec 1
  retain : BitVec 2
  second : BitVec 1
  deriving DecidableEq, Repr, Inhabited

/-- The fields of a word, at the bit positions of R27 Table 1. -/
def Fields.ofWord (w : IWord) : Fields :=
  { op := w.extractLsb' 0 8, gp := w.extractLsb' 8 3, gn := w.extractLsb' 11 1
    d := ⟨w.extractLsb' 20 2, w.extractLsb' 12 8⟩
    a := ⟨w.extractLsb' 30 2, w.extractLsb' 22 8⟩
    b := ⟨w.extractLsb' 40 2, w.extractLsb' 32 8⟩
    mod := w.extractLsb' 42 6, fs := w.extractLsb' 48 3, sub := w.extractLsb' 51 3
    imm := w.extractLsb' 56 32
    yieldHint := w.extractLsb' 88 1, retain := w.extractLsb' 89 2, second := w.extractLsb' 91 1 }

/-- The word of the fields, reserved bits zero (R27 Table 1). -/
def Fields.toWord (f : Fields) : IWord :=
  (0#4 ++ f.second ++ f.retain ++ f.yieldHint ++ f.imm ++ 0#2 ++ f.sub ++ f.fs ++ f.mod ++ f.b.cls ++ f.b.ix
    ++ f.a.cls ++ f.a.ix ++ f.d.cls ++ f.d.ix ++ f.gn ++ f.gp ++ f.op : BitVec 96)

/-- The result of decoding a part of a word. -/
abbrev Dec (α : Type) := Except DecodeErr α

/-- Refuse with `e` unless the condition holds. -/
def need (e : DecodeErr) (b : Bool) : Dec Unit := if b then .ok () else .error e

/-- The guard and hint fields (R33, R38). -/
def Fields.ctl (f : Fields) : Ctl :=
  { guard := f.gp.toNat, neg := f.gn == 1#1, second := f.second == 1#1, yieldHint := f.yieldHint == 1#1,
    retain := f.retain.toNat }

/-- Integer type codes (02 Table 5). -/
def IType.ofCode (n : Nat) : IType :=
  match n with
  | 0 => .n8 | 1 => .n16 | 2 => .n32 | 3 => .n64 | 4 => .i8 | 5 => .i16 | 6 => .i32 | _ => .i64
def IType.code : IType → Nat
  | .n8 => 0 | .n16 => 1 | .n32 => 2 | .n64 => 3 | .i8 => 4 | .i16 => 5 | .i32 => 6 | .i64 => 7
/-- Access size codes; 7 is unassigned (02 Table 5). -/
def ASize.ofCode (n : Nat) : Dec ASize :=
  match n with
  | 0 => .ok .n8 | 1 => .ok .n16 | 2 => .ok .n32 | 3 => .ok .n64 | 4 => .ok .i8 | 5 => .ok .i16 | 6 => .ok .n128
  | _ => .error .modifier
def ASize.code : ASize → Nat
  | .n8 => 0 | .n16 => 1 | .n32 => 2 | .n64 => 3 | .i8 => 4 | .i16 => 5 | .n128 => 6
/-- Rounding codes. -/
def RMode.ofCode (n : Nat) : RMode :=
  match n with
  | 0 => .rne | 1 => .rz | 2 => .rm | _ => .rp
def RMode.code : RMode → Nat
  | .rne => 0 | .rz => 1 | .rm => 2 | .rp => 3
/-- Float format codes. -/
def FF.ofCode (n : Nat) : FF :=
  match n with
  | 0 => .f64 | 1 => .f32 | 2 => .f16 | _ => .bf16
def FF.code : FF → Nat
  | .f64 => 0 | .f32 => 1 | .f16 => 2 | .bf16 => 3
/-- Integer width codes. -/
def IWid.ofCode (n : Nat) : IWid :=
  match n with
  | 0 => .w8 | 1 => .w16 | 2 => .w32 | _ => .w64
def IWid.code : IWid → Nat
  | .w8 => 0 | .w16 => 1 | .w32 => 2 | .w64 => 3
/-- Scope codes; 7 is unassigned. -/
def Scope.ofCode (n : Nat) : Dec Scope :=
  match n with
  | 0 => .ok .sk | 1 => .ok .bolt | 2 => .ok .clu | 3 => .ok .die | 4 => .ok .dev | 5 => .ok .pod | 6 => .ok .sys
  | _ => .error .modifier
def Scope.code : Scope → Nat
  | .sk => 0 | .bolt => 1 | .clu => 2 | .die => 3 | .dev => 4 | .pod => 5 | .sys => 6
/-- Cache policy codes. -/
def CPol.ofCode (n : Nat) : CPol :=
  match n with
  | 0 => .keep | 1 => .byp | 2 => .evf | _ => .strm
def CPol.code : CPol → Nat
  | .keep => 0 | .byp => 1 | .evf => 2 | .strm => 3
/-- Sub-operation codes of the integer comparisons (R266). -/
def ICond.ofCode (n : Nat) : Dec ICond :=
  match n with
  | 0 => .ok .eq | 1 => .ok .ne | 2 => .ok .lt | 3 => .ok .le | 4 => .ok .gt | 5 => .ok .ge | _ => .error .subOperation
def ICond.code : ICond → Nat
  | .eq => 0 | .ne => 1 | .lt => 2 | .le => 3 | .gt => 4 | .ge => 5
/-- Sub-operation codes of the float comparisons (R295). -/
def FCond.ofCode (n : Nat) : FCond :=
  match n with
  | 0 => .eq | 1 => .ne | 2 => .lt | 3 => .le | 4 => .gt | 5 => .ge | 6 => .nan | _ => .num
def FCond.code : FCond → Nat
  | .eq => 0 | .ne => 1 | .lt => 2 | .le => 3 | .gt => 4 | .ge => 5 | .nan => 6 | .num => 7
def IdxWhat.ofCode (n : Nat) : Dec IdxWhat :=
  match n with
  | 0 => .ok .lane | 1 => .ok .bolt | 2 => .ok .sub | 3 => .ok .grid | _ => .error .subOperation
def IdxWhat.code : IdxWhat → Nat
  | .lane => 0 | .bolt => 1 | .sub => 2 | .grid => 3
def PermMode.ofCode (n : Nat) : Dec PermMode :=
  match n with
  | 0 => .ok .idx | 1 => .ok .up | 2 => .ok .down | 3 => .ok .xor | 4 => .ok .rot | _ => .error .subOperation
def PermMode.code : PermMode → Nat
  | .idx => 0 | .up => 1 | .down => 2 | .xor => 3 | .rot => 4
def KredOp.ofCode (n : Nat) : Dec KredOp :=
  match n with
  | 0 => .ok .add | 1 => .ok .min | 2 => .ok .max | 3 => .ok .and | 4 => .ok .or | 5 => .ok .xor
  | _ => .error .subOperation
def KredOp.code : KredOp → Nat
  | .add => 0 | .min => 1 | .max => 2 | .and => 3 | .or => 4 | .xor => 5
def PsetOp.ofCode (n : Nat) : Dec PsetOp :=
  match n with
  | 0 => .ok .and | 1 => .ok .or | 2 => .ok .xor | 3 => .ok .andn | _ => .error .subOperation
def PsetOp.code : PsetOp → Nat
  | .and => 0 | .or => 1 | .xor => 2 | .andn => 3
def LmRel.ofCode (n : Nat) : Dec LmRel :=
  match n with
  | 0 => .ok .lt | 1 => .ok .le | 2 => .ok .gt | 3 => .ok .ge | 4 => .ok .eq | _ => .error .subOperation
def LmRel.code : LmRel → Nat
  | .lt => 0 | .le => 1 | .gt => 2 | .ge => 3 | .eq => 4
def AtomOp.ofCode (n : Nat) : AtomOp :=
  match n with
  | 0 => .add | 1 => .min | 2 => .max | 3 => .and | 4 => .or | 5 => .xor | 6 => .exch | _ => .inc
def AtomOp.code : AtomOp → Nat
  | .add => 0 | .min => 1 | .max => 2 | .and => 3 | .or => 4 | .xor => 5 | .exch => 6 | .inc => 7
def FenceKind.ofCode (n : Nat) : Dec FenceKind :=
  match n with
  | 0 => .ok .acq | 1 => .ok .rel | 2 => .ok .ar | 3 => .ok .sc | _ => .error .subOperation
def FenceKind.code : FenceKind → Nat
  | .acq => 0 | .rel => 1 | .ar => 2 | .sc => 3
def CollOp.ofCode (n : Nat) : Dec CollOp :=
  match n with
  | 0 => .ok .sum | 1 => .ok .max | 2 => .ok .min | 3 => .ok .bcast | 4 => .ok .gath | _ => .error .subOperation
def CollOp.code : CollOp → Nat
  | .sum => 0 | .max => 1 | .min => 2 | .bcast => 3 | .gath => 4
def PstatWhat.ofCode (n : Nat) : Dec PstatWhat :=
  match n with
  | 0 => .ok .free | 1 => .ok .filled | 2 => .ok .depth | 3 => .ok .state | _ => .error .subOperation
def PstatWhat.code : PstatWhat → Nat
  | .free => 0 | .filled => 1 | .depth => 2 | .state => 3
def AdpfWhat.ofCode (n : Nat) : Dec AdpfWhat :=
  match n with
  | 0 => .ok .both | 1 => .ok .am | 2 => .ok .bm | _ => .error .subOperation
def AdpfWhat.code : AdpfWhat → Nat
  | .both => 0 | .am => 1 | .bm => 2

/-- Bits of the modifier field as a number. -/
def Fields.modBits (f : Fields) (lo len : Nat) : Nat := (f.mod.toNat >>> lo) % 2 ^ len
/-- One bit of the modifier field. -/
def Fields.modBit (f : Fields) (i : Nat) : Bool := f.mod.getLsbD i
/-- IT of mod[2:0]. -/
def Fields.it (f : Fields) : IType := IType.ofCode (f.modBits 0 3)
/-- L-int of the modifier field. -/
def Fields.imod (f : Fields) : IMod := ⟨f.it, f.modBit 3⟩
/-- L-flt of the modifier field. -/
def Fields.fmod (f : Fields) : FMod :=
  ⟨RMode.ofCode (f.modBits 0 2), f.modBit 2, f.modBit 3, f.modBit 4, f.modBit 5⟩
/-- The wide bit of an opcode that takes only `.n32` and `.n64`. -/
def Fields.wide (f : Fields) : Dec Bool :=
  match f.modBits 0 3 with
  | 2 => .ok false
  | 3 => .ok true
  | _ => .error .modifier

/-- A source of `w` registers that may be the immediate (R28 to R30). -/
def Fields.src (f : Fields) (o : Opnd) (w : Nat) : Dec Src :=
  match o.cls.toNat with
  | 0 => if vOk w o.ix.toNat then .ok (.v o.ix.toNat) else .error .operandIndex
  | 1 => if kOk w o.ix.toNat then .ok (.k o.ix.toNat) else .error .operandIndex
  | 2 => .error .operandClass
  | _ => .ok (.imm f.imm)
/-- A source of `w` registers that may not be the immediate (R29). -/
def Fields.reg (f : Fields) (o : Opnd) (w : Nat) : Dec Src := do
  let s ← f.src o w
  need .operandClass (!s.isImm)
  .ok s
/-- A register operand of class 00 or 01. -/
def vk (o : Opnd) (w : Nat) : Dec VK :=
  match o.cls.toNat with
  | 0 => if vOk w o.ix.toNat then .ok (.v o.ix.toNat) else .error .operandIndex
  | 1 => if kOk w o.ix.toNat then .ok (.k o.ix.toNat) else .error .operandIndex
  | _ => .error .operandClass
/-- A destination: a uniform one only beside no vector source (R29). -/
def dst (o : Opnd) (w : Nat) (anyV : Bool) : Dec VK := do
  let d ← vk o w
  need .operandClass (d.isV || !anyV)
  .ok d
/-- An operand listed as a vector register. -/
def vreg (o : Opnd) (w : Nat) : Dec Nat := do
  need .operandClass (o.cls == 0#2)
  need .operandIndex (vOk w o.ix.toNat)
  .ok o.ix.toNat
/-- An operand listed as a uniform register. -/
def kreg (o : Opnd) (w : Nat) : Dec Nat := do
  need .operandClass (o.cls == 1#2)
  need .operandIndex (kOk w o.ix.toNat)
  .ok o.ix.toNat
/-- An operand of class 10 with index below `lim` (R28). -/
def listed (o : Opnd) (lim : Nat) : Dec Nat := do
  need .operandClass (o.cls == 2#2)
  need .operandIndex (decide (o.ix.toNat < lim))
  .ok o.ix.toNat
/-- Operand C, from imm[9:0] (R31). -/
def Fields.c (f : Fields) : Opnd := ⟨f.imm.extractLsb' 8 2, f.imm.extractLsb' 0 8⟩

/-- "D, A, B" with register counts. -/
def Fields.dec2 (f : Fields) (wd wa wb : Nat) (k : VK → Src → Src → Instr) : Dec Instr := do
  let a ← f.src f.a wa
  let b ← f.src f.b wb
  need .operandClass (oneImm a b)
  let d ← dst f.d wd (a.isV || b.isV)
  .ok (k d a b)
/-- "D, A". -/
def Fields.dec1 (f : Fields) (wd wa : Nat) (k : VK → Src → Instr) : Dec Instr := do
  let a ← f.src f.a wa
  let d ← dst f.d wd a.isV
  .ok (k d a)
/-- "D, A, B, C". -/
def Fields.dec3 (f : Fields) (wd wa wb wc : Nat) (k : VK → Src → Src → VK → Instr) : Dec Instr := do
  let a ← f.reg f.a wa
  let b ← f.reg f.b wb
  let cc ← vk f.c wc
  let d ← dst f.d wd (a.isV || b.isV || cc.isV)
  .ok (k d a b cc)
/-- "D, A, B, C p". -/
def Fields.dec2p (f : Fields) (wd wa wb : Nat) (k : VK → Src → Src → Nat → Instr) : Dec Instr := do
  let a ← f.reg f.a wa
  let b ← f.reg f.b wb
  let p ← listed f.c 8
  let d ← dst f.d wd (a.isV || b.isV)
  .ok (k d a b p)
/-- "D p, A, B", with `np` consecutive predicates written. -/
def Fields.decP (f : Fields) (np wa wb : Nat) (k : Nat → Src → Src → Instr) : Dec Instr := do
  let p ← listed f.d (9 - np)
  let a ← f.src f.a wa
  let b ← f.src f.b wb
  need .operandClass (oneImm a b)
  .ok (k p a b)
/-- The scope in mod[5:3]. -/
def Fields.scope (f : Fields) : Dec Scope := Scope.ofCode (f.modBits 3 3)
/-- The cache policy in sub[1:0]. -/
def Fields.cpSub (f : Fields) : CPol := CPol.ofCode (f.sub.toNat % 4)
/-- The cache policy in mod[1:0]. -/
def Fields.cpMod (f : Fields) : CPol := CPol.ofCode (f.modBits 0 2)
/-- The row adapters of an `.ad` form (R316): sub-operation 000 plain, 001 `.ad`. -/
def Fields.ad (f : Fields) : Dec (Option AdRef) :=
  match f.sub.toNat with
  | 0 => .ok none
  | 1 => do
    let c ← vreg f.c 1
    .ok (some ⟨c, (f.imm.extractLsb' 10 8).toNat⟩)
  | _ => .error .subOperation
/-- The size of a store: codes 100 and 101 are unassigned (R222). -/
def Fields.storeSize (f : Fields) : Dec ASize := do
  let sz ← ASize.ofCode (f.modBits 0 3)
  need .modifier sz.storable
  .ok sz
/-- CFLUSH and CINV: sub-operation 000 line, 001 all (R230). -/
def Fields.lineOrAll (f : Fields) : Dec (Option VK) :=
  match f.sub.toNat with
  | 0 => do
    let a ← vk f.a 2
    .ok (some a)
  | 1 => .ok none
  | _ => .error .subOperation
/-- A type of 32 or 64 bits. -/
def Fields.it3264 (f : Fields) : Dec IType := do
  need .modifier f.it.is3264
  .ok f.it
/-- The min or max bit of the MNX opcodes. -/
def Fields.isMax (f : Fields) : Dec Bool :=
  match f.sub.toNat with
  | 0 => .ok false
  | 1 => .ok true
  | _ => .error .subOperation
/-- The shift amount field of CALL: mod[4:0], 30 and 31 unassigned. -/
def Fields.callShift (f : Fields) : Dec Nat := do
  need .modifier (decide (f.modBits 0 5 < 30))
  .ok (f.modBits 0 5)

/-- A clause header word (R34), with the checks of R35 item 1. -/
def decodeHeader (w : IWord) : Dec Header := do
  let len := (w.extractLsb' 8 4).toNat
  need .headerLength (decide (1 ≤ len ∧ len ≤ 8))
  let f1 := (w.extractLsb' 25 4).toNat
  let f2 := (w.extractLsb' 30 4).toNat
  let v1 := w.getLsbD 24
  let v2 := w.getLsbD 29
  need .headerFlag ((!v1 || decide (f1 < 12)) && (!v2 || decide (f2 < 12)))
  .ok { len := len, wait := w.extractLsb' 12 12, set1 := if v1 then some f1 else none,
        set2 := if v2 then some f2 else none, yieldHint := w.getLsbD 34 }

/-- Opcodes 0x01 to 0x0F: control flow and STITCH (R44 Table 6). -/
def decodeControl (f : Fields) : Dec Instr :=
  let c := f.ctl
  match f.op.toNat with
  | 0x01 => .ok (.bra c f.imm)
  | 0x02 => do let a ← vreg f.a 1; .ok (.brx c a)
  | 0x03 => .ok (.setj c f.imm)
  | 0x04 => .ok (.join c)
  | 0x05 => do let s ← f.callShift; .ok (.call c s f.imm)
  | 0x06 => do let a ← vreg f.a 1; let s ← f.callShift; .ok (.callx c s a)
  | 0x07 => .ok (.ret c)
  | 0x08 => .ok (.exit c)
  | 0x09 => .ok (.yield c)
  | 0x0A => do let a ← f.src f.a 1; .ok (.sleep c a)
  | 0x0B => .ok (.trap c (f.imm.extractLsb' 0 16))
  | 0x0C => .ok (.rte c)
  | 0x0D => .ok (.brk c (f.imm.extractLsb' 0 16))
  | 0x0E => .ok (.kill c)
  | 0x0F => do
    let d ← listed f.d 8
    need .operandClass (f.a.cls == 0#2)
    need .operandIndex (decide (f.a.ix.toNat ≤ 253))
    .ok (.stitch c d f.a.ix.toNat (f.modBit 0))
  | _ => .error .reservedOpcode

/-- Opcodes 0x10 to 0x2B: integer arithmetic, shifts, compare, select, move, address. -/
def decodeInteger (f : Fields) : Dec Instr :=
  let c := f.ctl
  let m := f.imod
  let t := f.it
  let w := t.regs
  match f.op.toNat with
  | 0x10 => f.dec2 w w w (fun d a b => .add c d a b m)
  | 0x11 => f.dec2 w w w (fun d a b => .sub c d a b m)
  | 0x12 => f.dec2p w w w (fun d a b p => .addc c d a b p t)
  | 0x13 => f.dec2p w w w (fun d a b p => .subc c d a b p t)
  | 0x14 => f.dec2 w w w (fun d a b => .mul c d a b m)
  | 0x15 => f.dec2 w w w (fun d a b => .mulh c d a b m)
  | 0x16 => f.dec3 w w w w (fun d a b cc => .mad c d a b cc m)
  | 0x17 => do
    need .modifier t.le32
    f.dec3 2 1 1 2 (fun d a b cc => .madw c d a b cc m)
  | 0x18 => f.dec2 w w w (fun d a b => .div c d a b m)
  | 0x19 => f.dec2 w w w (fun d a b => .rem c d a b m)
  | 0x1A => f.dec2 w w w (fun d a b => .min c d a b m)
  | 0x1B => f.dec2 w w w (fun d a b => .max c d a b m)
  | 0x1C => f.dec1 w w (fun d a => .abs c d a m)
  | 0x1D => f.dec1 w w (fun d a => .neg c d a m)
  | 0x1E => f.dec2 w w 1 (fun d a b => .shl c d a b m)
  | 0x1F => f.dec2 w w 1 (fun d a b => .shr c d a b m)
  | 0x20 => f.dec2 w w 1 (fun d a b => .sar c d a b m)
  | 0x21 => f.dec2 w w 1 (fun d a b => .rot c d a b m)
  | 0x22 => do
    let cc ← ICond.ofCode f.sub.toNat
    f.decP 1 w w (fun p a b => .cmp c p a b cc m)
  | 0x23 => do
    let t ← f.it3264
    f.dec2p t.regs t.regs t.regs (fun d a b p => .sel c d a b p t)
  | 0x24 => do
    let wd ← f.wide
    f.dec1 (wideRegs wd) (wideRegs wd) (fun d a => .mov c d a wd)
  | 0x25 => do
    let d ← kreg f.d 1
    let a ← vreg f.a 1
    let b ← f.src f.b 1
    .ok (.movk c d a b)
  | 0x26 => do
    let sg ← (match f.modBits 0 3 with | 2 => (.ok false : Dec Bool) | 6 => .ok true | _ => .error .modifier)
    f.dec2 2 2 1 (fun d a b => .lea c d a b sg (f.modBits 3 3))
  | 0x27 => f.dec1 w w (fun d a => .clz c d a m)
  | 0x28 => f.dec1 w w (fun d a => .popc c d a m)
  | 0x29 => f.dec1 w w (fun d a => .brev c d a m)
  | 0x2A => f.dec3 w w w w (fun d a b cc => .sad c d a b cc m)
  | 0x2B => do
    let k ← IdxWhat.ofCode f.sub.toNat
    f.dec1 1 1 (fun d a => .idx c d a k)
  | _ => .error .reservedOpcode

/-- Opcodes 0x2C to 0x3B: logic, bit fields, lane operations, predicates. -/
def decodeLane (f : Fields) : Dec Instr :=
  let c := f.ctl
  match f.op.toNat with
  | 0x2C => do let w ← f.wide; f.dec2 (wideRegs w) (wideRegs w) (wideRegs w) (fun d a b => .and c d a b w)
  | 0x2D => do let w ← f.wide; f.dec2 (wideRegs w) (wideRegs w) (wideRegs w) (fun d a b => .or c d a b w)
  | 0x2E => do let w ← f.wide; f.dec2 (wideRegs w) (wideRegs w) (wideRegs w) (fun d a b => .xor c d a b w)
  | 0x2F => do let w ← f.wide; f.dec1 (wideRegs w) (wideRegs w) (fun d a => .not c d a w)
  | 0x30 => f.dec3 1 1 1 1 (fun d a b cc => .tlut c d a b cc (f.sub.extractLsb' 0 2 ++ f.mod))
  | 0x31 => do let t ← f.it3264; f.dec2 t.regs t.regs 1 (fun d a b => .bfx c d a b t)
  | 0x32 => do let t ← f.it3264; f.dec3 t.regs t.regs t.regs 1 (fun d a b cc => .bfi c d a b cc t)
  | 0x33 => f.dec3 1 1 1 1 (fun d a b cc => .bpick c d a b cc)
  | 0x34 => do
    let md ← PermMode.ofCode f.sub.toNat
    let w ← f.wide
    f.dec2 (wideRegs w) (wideRegs w) 1 (fun d a b => .lperm c d a b md w)
  | 0x35 => f.dec2 1 1 1 (fun d a b => .xchg c d a b)
  | 0x36 => do
    let a ← listed f.a 8
    let fm ← (match f.sub.toNat with
      | 0 => do let p ← listed f.d 8; Except.ok (PconForm.all p)
      | 1 => do let p ← listed f.d 8; Except.ok (PconForm.any p)
      | 2 => do let p ← listed f.d 8; Except.ok (PconForm.same p)
      | 3 => do let k ← kreg f.d 4; Except.ok (PconForm.ballot k)
      | 4 => do let k ← kreg f.d 1; Except.ok (PconForm.count k)
      | _ => Except.error DecodeErr.subOperation : Dec PconForm)
    .ok (.pcon c fm a)
  | 0x37 => do
    let w ← f.wide
    let a ← f.src f.a (wideRegs w)
    let fm ← (match f.sub.toNat with
      | 0 => do let v ← vreg f.d 4; Except.ok (LgrpForm.set v)
      | 1 => do let p ← listed f.d 8; Except.ok (LgrpForm.same p)
      | _ => Except.error DecodeErr.subOperation : Dec LgrpForm)
    .ok (.lgrp c fm a w)
  | 0x38 => do
    let op ← KredOp.ofCode f.sub.toNat
    let d ← kreg f.d f.it.regs
    let a ← vreg f.a f.it.regs
    .ok (.kred c d a op f.imod)
  | 0x39 => do
    let op ← PsetOp.ofCode f.sub.toNat
    let d ← listed f.d 8
    let a ← listed f.a 8
    let b ← listed f.b 8
    .ok (.pset c d a b op)
  | 0x3A => do
    let fm ← (match f.sub.toNat with
      | 0 => do let v ← vreg f.d 1; let p ← listed f.a 8; Except.ok (PmovForm.pv v p)
      | 1 => do let p ← listed f.d 8; let v ← vreg f.a 1; Except.ok (PmovForm.vp p v)
      | 2 => do let v ← vreg f.d 1; Except.ok (PmovForm.pack v)
      | 3 => do let v ← vreg f.a 1; Except.ok (PmovForm.unpk v)
      | _ => Except.error DecodeErr.subOperation : Dec PmovForm)
    .ok (.pmov c fm)
  | 0x3B => do
    let r ← LmRel.ofCode f.sub.toNat
    let d ← vreg f.d 1
    .ok (.lanemask c d r)
  | _ => .error .reservedOpcode

/-- Opcodes 0x3C to 0x53: single, double and packed-half arithmetic. -/
def decodeFloat (f : Fields) : Dec Instr :=
  let c := f.ctl
  let m := f.fmod
  let cc := FCond.ofCode f.sub.toNat
  match f.op.toNat with
  | 0x3C => f.dec2 1 1 1 (fun d a b => .fadd c d a b m)
  | 0x3D => f.dec2 1 1 1 (fun d a b => .fmul c d a b m)
  | 0x3E => f.dec3 1 1 1 1 (fun d a b cc => .ffma c d a b cc m)
  | 0x3F => do let x ← f.isMax; f.dec2 1 1 1 (fun d a b => .fmnx c d a b x m)
  | 0x40 => f.decP 1 1 1 (fun p a b => .fcmp c p a b cc m)
  | 0x41 => f.decP 1 1 1 (fun p a b => .fcls c p a b m)
  | 0x42 => f.dec1 1 1 (fun d a => .frnd c d a m)
  | 0x43 => f.dec2 1 1 1 (fun d a b => .fscl c d a b m)
  | 0x44 => f.dec2 2 2 2 (fun d a b => .dadd c d a b m)
  | 0x45 => f.dec2 2 2 2 (fun d a b => .dmul c d a b m)
  | 0x46 => f.dec3 2 2 2 2 (fun d a b cc => .dfma c d a b cc m)
  | 0x47 => do let x ← f.isMax; f.dec2 2 2 2 (fun d a b => .dmnx c d a b x m)
  | 0x48 => f.decP 1 2 2 (fun p a b => .dcmp c p a b cc m)
  | 0x49 => f.decP 1 2 1 (fun p a b => .dcls c p a b m)
  | 0x4A => f.dec1 2 2 (fun d a => .drnd c d a m)
  | 0x4B => f.dec2 2 2 1 (fun d a b => .dscl c d a b m)
  | 0x4C => f.dec2 1 1 1 (fun d a b => .hadd c d a b m)
  | 0x4D => f.dec2 1 1 1 (fun d a b => .hmul c d a b m)
  | 0x4E => f.dec3 1 1 1 1 (fun d a b cc => .hfma c d a b cc m)
  | 0x4F => do let x ← f.isMax; f.dec2 1 1 1 (fun d a b => .hmnx c d a b x m)
  | 0x50 => f.decP 2 1 1 (fun p a b => .hcmp c p a b cc m)
  | 0x51 => f.decP 2 1 1 (fun p a b => .hcls c p a b m)
  | 0x52 => f.dec1 1 1 (fun d a => .hrnd c d a m)
  | 0x53 => f.dec2 1 1 1 (fun d a b => .hscl c d a b m)
  | _ => .error .reservedOpcode

/-- Opcodes 0x54 to 0x63: conversions and special functions. -/
def decodeConvert (f : Fields) : Dec Instr :=
  let c := f.ctl
  let r := RMode.ofCode (f.modBits 0 2)
  let f01 := FF.ofCode (f.modBits 0 2)
  let f23 := FF.ofCode (f.modBits 2 2)
  let f45 := FF.ofCode (f.modBits 4 2)
  let w45 := IWid.ofCode (f.modBits 4 2)
  let sg := f.sub.getLsbD 0
  match f.op.toNat with
  | 0x54 => f.dec1 f23.regs f45.regs (fun d a => .cvt c d a r f23 f45)
  | 0x55 => f.dec1 1 f01.regs (fun d a => .cvtn c d a f01 (f.modBit 2) f.fs.toNat f.sub.toNat)
  | 0x56 => f.dec1 f01.regs 1 (fun d a => .cvtw c d a f01 f.fs.toNat f.sub.toNat)
  | 0x57 => f.dec2 1 1 1 (fun d a b => .pack c d a b r (f.modBit 2) (f.modBit 5))
  | 0x58 => f.dec1 2 1 (fun d a => .unpk c d a (f.modBit 5))
  | 0x59 => f.dec1 w45.regs f23.regs (fun d a => .cvti c d a r f23 w45 sg)
  | 0x5A => f.dec1 f23.regs w45.regs (fun d a => .cvtf c d a r f23 w45 sg)
  | 0x5B => f.dec1 f.it.regs (IType.ofCode f.sub.toNat).regs
      (fun d a => .cvts c d a f.it (IType.ofCode f.sub.toNat) (f.modBit 3))
  | 0x5C => f.dec1 1 1 (fun d a => .rcp c d a)
  | 0x5D => f.dec1 1 1 (fun d a => .rsq c d a)
  | 0x5E => f.dec1 1 1 (fun d a => .sqrt c d a)
  | 0x5F => f.dec1 1 1 (fun d a => .ex2 c d a)
  | 0x60 => f.dec1 1 1 (fun d a => .lg2 c d a)
  | 0x61 => f.dec1 1 1 (fun d a => .sin c d a)
  | 0x62 => f.dec1 1 1 (fun d a => .cos c d a)
  | 0x63 => f.dec1 1 1 (fun d a => .tanh c d a)
  | _ => .error .reservedOpcode

/-- Opcodes 0x64 to 0x73: loads, stores, atomics, fences, cache maintenance. -/
def decodeMemory (f : Fields) : Dec Instr :=
  let c := f.ctl
  let off := f.imm
  match f.op.toNat with
  | 0x64 => do
    let sz ← ASize.ofCode (f.modBits 0 3)
    let sc ← f.scope
    let a ← vk f.a 2
    let d ← dst f.d sz.regs a.isV
    .ok (.ld c d a off sz sc f.cpSub)
  | 0x65 => do
    let sz ← f.storeSize
    let sc ← f.scope
    let a ← vk f.a 2
    let b ← vk f.b sz.regs
    .ok (.st c a b off sz sc f.cpSub (f.sub.getLsbD 2))
  | 0x66 => do
    let sc ← f.scope
    let a ← vk f.a 2
    let d ← dst f.d 1 a.isV
    .ok (.ldb c d a off sc f.cpSub)
  | 0x67 => do
    let sc ← f.scope
    let a ← vk f.a 2
    let b ← vk f.b 1
    .ok (.stb c a b off sc f.cpSub (f.sub.getLsbD 2))
  | 0x68 => do
    let w ← f.wide
    let sc ← f.scope
    let a ← kreg f.a 2
    let d ← kreg f.d (wideRegs w)
    .ok (.ldk c d a off w sc f.cpSub)
  | 0x69 => do
    let sz ← ASize.ofCode (f.modBits 0 3)
    let a ← vreg f.a 1
    let d ← vreg f.d sz.regs
    .ok (.ldp c d a off sz (f.sub.toNat % 4))
  | 0x6A => do
    let sz ← f.storeSize
    let a ← vreg f.a 1
    let b ← vk f.b sz.regs
    .ok (.stp c a b off sz (f.sub.toNat % 4))
  | 0x6B => do
    let sz ← ASize.ofCode (f.modBits 0 3)
    let a ← vreg f.a 1
    let d ← vreg f.d sz.regs
    .ok (.ldw c d a off sz)
  | 0x6C => do
    let sc ← f.scope
    let a ← vk f.a 2
    let b ← vk f.b f.it.regs
    let d ← dst f.d f.it.regs (a.isV || b.isV)
    .ok (.atom c d a b off (AtomOp.ofCode f.sub.toNat) f.it sc)
  | 0x6D => do
    let sc ← f.scope
    let a ← vk f.a 2
    let b ← vk f.b f.it.regs
    let cc ← vk f.c f.it.regs
    let d ← dst f.d f.it.regs (a.isV || b.isV || cc.isV)
    .ok (.atomc c d a b cc f.it sc)
  | 0x6E => do
    let k ← FenceKind.ofCode f.sub.toNat
    let sc ← f.scope
    .ok (.fence c k sc)
  | 0x6F => do let a ← f.lineOrAll; let sc ← f.scope; .ok (.cflush c a off sc)
  | 0x70 => do let a ← f.lineOrAll; let sc ← f.scope; .ok (.cinv c a off sc)
  | 0x71 => do let x ← f.isMax; let a ← vk f.a 2; .ok (.pref c a off x)
  | 0x72 => do
    let w ← f.wide
    let sc ← f.scope
    let a ← kreg f.a 2
    let b ← kreg f.b (wideRegs w)
    .ok (.stk c a b off w sc f.cpSub)
  | 0x73 => do let d ← vk f.d 2; .ok (.seqr c d)
  | _ => .error .reservedOpcode

/-- Opcodes 0x74 to 0x81: copies and pipes. -/
def decodeTile (f : Fields) : Dec Instr :=
  let c := f.ctl
  match f.op.toNat with
  | 0x74 => do let d ← listed f.d 256; let a ← kreg f.a 2; let p ← kreg f.c 1; .ok (.tload c d a p f.cpMod)
  | 0x75 => do let a ← kreg f.a 2; let b ← listed f.b 256; let p ← kreg f.c 1; .ok (.tstore c a b p f.cpMod)
  | 0x76 => do let d ← listed f.d 256; let a ← kreg f.a 2; let b ← vreg f.b 1; .ok (.tgather c d a b f.cpMod)
  | 0x77 => do let a ← kreg f.a 2; let b ← listed f.b 256; let x ← vreg f.c 1; .ok (.tscat c a b x f.cpMod)
  | 0x78 => do let d ← listed f.d 256; let a ← listed f.a 256; .ok (.tpeer c d a (f.sub.toNat % 4))
  | 0x79 => do let d ← listed f.d 256; let a ← f.src f.a 1; .ok (.tfill c d a)
  | 0x7A => do
    let op ← CollOp.ofCode f.sub.toNat
    let d ← listed f.d 256
    let a ← listed f.a 256
    let b ← kreg f.b 1
    .ok (.coll c d a b op)
  | 0x7B => do let d ← listed f.d 256; .ok (.trel c d)
  | 0x7C => do let a ← listed f.a 256; let q ← listed f.b 64; .ok (.ppush c a q)
  | 0x7D => do let d ← listed f.d 256; let q ← listed f.a 64; .ok (.ppop c d q)
  | 0x7E => do let k ← PstatWhat.ofCode f.sub.toNat; let d ← kreg f.d 1; let q ← listed f.a 64; .ok (.pstat c d q k)
  | 0x7F => do let q ← listed f.a 64; .ok (.pclose c q)
  | 0x80 => do let x ← f.isMax; let q ← listed f.a 64; .ok (.pwait c q x)
  | 0x81 => do let q ← listed f.a 64; .ok (.preopen c q)
  | _ => .error .reservedOpcode

/-- Opcodes 0x82 to 0x8F: matrix unit, barriers, waits, tasks, windows, special registers. -/
def decodeMatrix (f : Fields) : Dec Instr :=
  let c := f.ctl
  match f.op.toNat with
  | 0x82 => do
    let ad ← f.ad
    let d ← listed f.d 32
    let a ← listed f.a 256
    let b ← listed f.b 256
    .ok (.mma c d a b (f.modBit 0) ad)
  | 0x83 => do
    let ad ← f.ad
    let d ← listed f.d 32
    let a ← listed f.a 32
    let b ← listed f.b 256
    .ok (.mmac c d a b f.fs.toNat (f.modBit 0) ad)
  | 0x84 => do let d ← listed f.d 32; .ok (.accz c d)
  | 0x85 => do let d ← listed f.d 32; let a ← listed f.a 256; .ok (.accl c d a)
  | 0x86 => do let d ← listed f.d 256; let a ← listed f.a 32; .ok (.accd c d a f.fs.toNat)
  | 0x87 => do
    let k ← AdpfWhat.ofCode f.sub.toNat
    let a ← f.src f.a 1
    let b ← f.src f.b 1
    need .operandClass (oneImm a b)
    .ok (.adpf c a b k)
  | 0x88 => do
    let d ← listed f.d 24
    match f.sub.toNat with
    | 0 => do let a ← f.src f.a 1; .ok (.barInit c d a)
    | 1 => .ok (.barArrive c d)
    | 2 => .ok (.barWait c d)
    | _ => .error .subOperation
  | 0x89 => do let a ← listed f.a 8; .ok (.waitc c a (f.imm.extractLsb' 0 6).toNat)
  | 0x8A => .ok (.baste c)
  | 0x8B => .ok (.hem c)
  | 0x8C => .ok (.grow c f.imm)
  | 0x8D => .ok (.shrink c f.imm)
  | 0x8E => do
    let r := (f.imm.extractLsb' 0 8).toNat
    need .specialRegister (decide (r < 13))
    let d ← vk f.d (sregRegs r)
    .ok (.sread c d r)
  | 0x8F => do
    let r := (f.imm.extractLsb' 0 8).toNat
    need .specialRegister (decide (r < 13))
    let a ← f.src f.a (sregWriteRegs r)
    .ok (.swrite c (match a with | .imm _ => .imm (f.imm >>> 8) | x => x) r)
  | _ => .error .reservedOpcode

/-- The instruction that the fields of a word other than a header name (R42 Table 4). -/
def decodeFields (f : Fields) : Dec Instr :=
  let n := f.op.toNat
  if n < 0x10 then decodeControl f
  else if n < 0x2C then decodeInteger f
  else if n < 0x3C then decodeLane f
  else if n < 0x54 then decodeFloat f
  else if n < 0x64 then decodeConvert f
  else if n < 0x74 then decodeMemory f
  else if n < 0x82 then decodeTile f
  else if n < 0x90 then decodeMatrix f
  else if n < 0xF0 then .error .reservedOpcode
  else .ok .nop

/-- The instruction of a word: a header (major opcode 0x00, R34) or an instruction (R27). DEDUCED, log entry 14. -/
def decodeWord (w : IWord) : Dec Instr :=
  if w.extractLsb' 0 8 = 0#8 then (decodeHeader w).map .clauseIssue
  else decodeFields (Fields.ofWord w)

/-- The little-endian number of a list of bytes (R3). -/
def leNat (bs : List Byte) : Nat :=
  match bs with
  | [] => 0
  | b :: r => b.toNat + 256 * leNat r

/-- The low `n` bytes of a number, lowest first (R3). -/
def leBytes (n x : Nat) : List Byte :=
  match n with
  | 0 => []
  | m + 1 => BitVec.ofNat 8 x :: leBytes m (x / 256)

/-- Decode from the 12 bytes of a word in memory (R26). -/
def decodeBytes (bs : List Byte) : Dec Instr := decodeWord (BitVec.ofNat 96 (leNat (bs.take 12)))

/-- The instruction the decoder reads from the word whose bits are `w` (bit 0 the least significant bit of the first byte). -/
def decodeTableWord (_nbits w : Nat) : Option Instr :=
  match decodeBytes (leBytes 12 w) with
  | .ok i => some i
  | .error _ => none

/-! The encoder (R27, R34, R44). -/

/-- Operand field of a register operand. -/
def VK.enc : VK → Opnd
  | .v n => ⟨0#2, BitVec.ofNat 8 n⟩
  | .k n => ⟨1#2, BitVec.ofNat 8 n⟩
/-- Operand field of a source. -/
def Src.enc : Src → Opnd
  | .v n => ⟨0#2, BitVec.ofNat 8 n⟩
  | .k n => ⟨1#2, BitVec.ofNat 8 n⟩
  | .imm _ => ⟨3#2, 0#8⟩
/-- Operand field of a vector register. -/
def encV (n : Nat) : Opnd := ⟨0#2, BitVec.ofNat 8 n⟩
/-- Operand field of a uniform register. -/
def encK (n : Nat) : Opnd := ⟨1#2, BitVec.ofNat 8 n⟩
/-- Operand field of class 10. -/
def encX (n : Nat) : Opnd := ⟨2#2, BitVec.ofNat 8 n⟩
/-- The unused operand field. -/
def enc0 : Opnd := ⟨0#2, 0#8⟩
/-- The immediate field of an instruction with sources `a` and `b`. -/
def immOf (a b : Src) : BitVec 32 :=
  match a, b with
  | .imm w, _ => w
  | _, .imm w => w
  | _, _ => 0#32
/-- Operand C in the immediate (R31). -/
def immC (o : Opnd) : BitVec 32 := (0#22 ++ o.cls ++ o.ix : BitVec 32)

/-- The word fields with guard, hints and opcode filled in. -/
def Ctl.fields (c : Ctl) (op : Nat) : Fields :=
  { op := BitVec.ofNat 8 op, gp := BitVec.ofNat 3 c.guard, gn := BitVec.ofBool c.neg, d := enc0, a := enc0, b := enc0
    mod := 0#6, fs := 0#3, sub := 0#3, imm := 0#32, yieldHint := BitVec.ofBool c.yieldHint
    retain := BitVec.ofNat 2 c.retain, second := BitVec.ofBool c.second }

/-- L-int. -/
def IMod.enc (m : IMod) : BitVec 6 := BitVec.ofNat 6 (m.ty.code + (if m.sat then 8 else 0))
/-- IT alone. -/
def IType.enc (t : IType) : BitVec 6 := BitVec.ofNat 6 t.code
/-- L-flt. -/
def FMod.enc (m : FMod) : BitVec 6 :=
  (BitVec.ofBool m.m5 ++ BitVec.ofBool m.m4 ++ BitVec.ofBool m.negB ++ BitVec.ofBool m.negA ++ BitVec.ofNat 2 m.rm.code : BitVec 6)
/-- `.n32` or `.n64`. -/
def wideEnc (w : Bool) : BitVec 6 := if w then 3#6 else 2#6
/-- L-mem. -/
def memEnc (asCode : Nat) (sc : Scope) : BitVec 6 := BitVec.ofNat 6 (asCode + 8 * sc.code)

def enc2 (c : Ctl) (op : Nat) (d : VK) (a b : Src) (m : BitVec 6) (sub : Nat) : Fields :=
  { c.fields op with d := d.enc, a := a.enc, b := b.enc, mod := m, sub := BitVec.ofNat 3 sub, imm := immOf a b }
def enc1 (c : Ctl) (op : Nat) (d : VK) (a : Src) (m : BitVec 6) (sub : Nat) : Fields :=
  { c.fields op with d := d.enc, a := a.enc, mod := m, sub := BitVec.ofNat 3 sub, imm := immOf a a }
def enc3 (c : Ctl) (op : Nat) (d : VK) (a b : Src) (cc : Opnd) (m : BitVec 6) : Fields :=
  { c.fields op with d := d.enc, a := a.enc, b := b.enc, mod := m, imm := immC cc }
def encP (c : Ctl) (op p : Nat) (a b : Src) (m : BitVec 6) (sub : Nat) : Fields :=
  { c.fields op with d := encX p, a := a.enc, b := b.enc, mod := m, sub := BitVec.ofNat 3 sub, imm := immOf a b }
/-- Fields of an instruction with no operand but the immediate. -/
def encI (c : Ctl) (op : Nat) (imm : BitVec 32) : Fields := { c.fields op with imm := imm }
/-- The min or max, line or all, and similar one-bit sub-operations. -/
def bitSub (b : Bool) : BitVec 3 := if b then 1#3 else 0#3
/-- Layer slot and operand C of an `.ad` form. -/
def adImm : Option AdRef → BitVec 32
  | none => 0#32
  | some r => (0#14 ++ BitVec.ofNat 8 r.layer ++ 0#2 ++ BitVec.ofNat 8 r.c : BitVec 32)

/-- The fields of an instruction; `none` for a header, which has its own layout, and for the device's events. -/
def encodeFields : Instr → Option Fields
  | .nop => some ⟨0xF0#8, 0#3, 0#1, enc0, enc0, enc0, 0#6, 0#3, 0#3, 0#32, 0#1, 0#2, 0#1⟩
  | .bra c t => some (encI c 0x01 t)
  | .brx c a => some { c.fields 0x02 with a := encV a }
  | .setj c t => some (encI c 0x03 t)
  | .join c => some (c.fields 0x04)
  | .call c s t => some { c.fields 0x05 with mod := BitVec.ofNat 6 s, imm := t }
  | .callx c s a => some { c.fields 0x06 with mod := BitVec.ofNat 6 s, a := encV a }
  | .ret c => some (c.fields 0x07)
  | .exit c => some (c.fields 0x08)
  | .yield c => some (c.fields 0x09)
  | .sleep c a => some { c.fields 0x0A with a := a.enc, imm := immOf a a }
  | .trap c x => some (encI c 0x0B (x.setWidth 32))
  | .rte c => some (c.fields 0x0C)
  | .brk c x => some (encI c 0x0D (x.setWidth 32))
  | .kill c => some (c.fields 0x0E)
  | .stitch c d a t => some { c.fields 0x0F with d := encX d, a := encV a, mod := if t then 1#6 else 0#6 }
  | .add c d a b m => some (enc2 c 0x10 d a b m.enc 0)
  | .sub c d a b m => some (enc2 c 0x11 d a b m.enc 0)
  | .addc c d a b p t => some (enc3 c 0x12 d a b (encX p) t.enc)
  | .subc c d a b p t => some (enc3 c 0x13 d a b (encX p) t.enc)
  | .mul c d a b m => some (enc2 c 0x14 d a b m.enc 0)
  | .mulh c d a b m => some (enc2 c 0x15 d a b m.enc 0)
  | .mad c d a b cc m => some (enc3 c 0x16 d a b cc.enc m.enc)
  | .madw c d a b cc m => some (enc3 c 0x17 d a b cc.enc m.enc)
  | .div c d a b m => some (enc2 c 0x18 d a b m.enc 0)
  | .rem c d a b m => some (enc2 c 0x19 d a b m.enc 0)
  | .min c d a b m => some (enc2 c 0x1A d a b m.enc 0)
  | .max c d a b m => some (enc2 c 0x1B d a b m.enc 0)
  | .abs c d a m => some (enc1 c 0x1C d a m.enc 0)
  | .neg c d a m => some (enc1 c 0x1D d a m.enc 0)
  | .shl c d a b m => some (enc2 c 0x1E d a b m.enc 0)
  | .shr c d a b m => some (enc2 c 0x1F d a b m.enc 0)
  | .sar c d a b m => some (enc2 c 0x20 d a b m.enc 0)
  | .rot c d a b m => some (enc2 c 0x21 d a b m.enc 0)
  | .cmp c p a b cc m => some (encP c 0x22 p a b m.enc cc.code)
  | .sel c d a b p t => some (enc3 c 0x23 d a b (encX p) t.enc)
  | .mov c d a w => some (enc1 c 0x24 d a (wideEnc w) 0)
  | .movk c d a b => some { c.fields 0x25 with d := encK d, a := encV a, b := b.enc, imm := immOf b b }
  | .lea c d a b sg sh => some (enc2 c 0x26 d a b (BitVec.ofNat 6 ((if sg then 6 else 2) + 8 * sh)) 0)
  | .clz c d a m => some (enc1 c 0x27 d a m.enc 0)
  | .popc c d a m => some (enc1 c 0x28 d a m.enc 0)
  | .brev c d a m => some (enc1 c 0x29 d a m.enc 0)
  | .sad c d a b cc m => some (enc3 c 0x2A d a b cc.enc m.enc)
  | .idx c d a k => some (enc1 c 0x2B d a 0#6 k.code)
  | .and c d a b w => some (enc2 c 0x2C d a b (wideEnc w) 0)
  | .or c d a b w => some (enc2 c 0x2D d a b (wideEnc w) 0)
  | .xor c d a b w => some (enc2 c 0x2E d a b (wideEnc w) 0)
  | .not c d a w => some (enc1 c 0x2F d a (wideEnc w) 0)
  | .tlut c d a b cc t => some { enc3 c 0x30 d a b cc.enc (t.extractLsb' 0 6) with sub := (0#1 ++ t.extractLsb' 6 2 : BitVec 3) }
  | .bfx c d a b t => some (enc2 c 0x31 d a b t.enc 0)
  | .bfi c d a b cc t => some (enc3 c 0x32 d a b cc.enc t.enc)
  | .bpick c d a b cc => some (enc3 c 0x33 d a b cc.enc 0#6)
  | .lperm c d a b md w => some (enc2 c 0x34 d a b (wideEnc w) md.code)
  | .xchg c d a b => some (enc2 c 0x35 d a b 0#6 0)
  | .pcon c f a =>
    some (match f with
      | .all p => { c.fields 0x36 with d := encX p, a := encX a, sub := 0#3 }
      | .any p => { c.fields 0x36 with d := encX p, a := encX a, sub := 1#3 }
      | .same p => { c.fields 0x36 with d := encX p, a := encX a, sub := 2#3 }
      | .ballot k => { c.fields 0x36 with d := encK k, a := encX a, sub := 3#3 }
      | .count k => { c.fields 0x36 with d := encK k, a := encX a, sub := 4#3 })
  | .lgrp c f a w =>
    some (match f with
      | .set v => { c.fields 0x37 with d := encV v, a := a.enc, mod := wideEnc w, sub := 0#3, imm := immOf a a }
      | .same p => { c.fields 0x37 with d := encX p, a := a.enc, mod := wideEnc w, sub := 1#3, imm := immOf a a })
  | .kred c d a op m => some { c.fields 0x38 with d := encK d, a := encV a, mod := m.enc, sub := BitVec.ofNat 3 op.code }
  | .pset c d a b op => some { c.fields 0x39 with d := encX d, a := encX a, b := encX b, sub := BitVec.ofNat 3 op.code }
  | .pmov c f =>
    some (match f with
      | .pv v p => { c.fields 0x3A with d := encV v, a := encX p, sub := 0#3 }
      | .vp p v => { c.fields 0x3A with d := encX p, a := encV v, sub := 1#3 }
      | .pack v => { c.fields 0x3A with d := encV v, sub := 2#3 }
      | .unpk v => { c.fields 0x3A with a := encV v, sub := 3#3 })
  | .lanemask c d r => some { c.fields 0x3B with d := encV d, sub := BitVec.ofNat 3 r.code }
  | .fadd c d a b m => some (enc2 c 0x3C d a b m.enc 0)
  | .fmul c d a b m => some (enc2 c 0x3D d a b m.enc 0)
  | .ffma c d a b cc m => some (enc3 c 0x3E d a b cc.enc m.enc)
  | .fmnx c d a b x m => some (enc2 c 0x3F d a b m.enc x.toNat)
  | .fcmp c p a b cc m => some (encP c 0x40 p a b m.enc cc.code)
  | .fcls c p a b m => some (encP c 0x41 p a b m.enc 0)
  | .frnd c d a m => some (enc1 c 0x42 d a m.enc 0)
  | .fscl c d a b m => some (enc2 c 0x43 d a b m.enc 0)
  | .dadd c d a b m => some (enc2 c 0x44 d a b m.enc 0)
  | .dmul c d a b m => some (enc2 c 0x45 d a b m.enc 0)
  | .dfma c d a b cc m => some (enc3 c 0x46 d a b cc.enc m.enc)
  | .dmnx c d a b x m => some (enc2 c 0x47 d a b m.enc x.toNat)
  | .dcmp c p a b cc m => some (encP c 0x48 p a b m.enc cc.code)
  | .dcls c p a b m => some (encP c 0x49 p a b m.enc 0)
  | .drnd c d a m => some (enc1 c 0x4A d a m.enc 0)
  | .dscl c d a b m => some (enc2 c 0x4B d a b m.enc 0)
  | .hadd c d a b m => some (enc2 c 0x4C d a b m.enc 0)
  | .hmul c d a b m => some (enc2 c 0x4D d a b m.enc 0)
  | .hfma c d a b cc m => some (enc3 c 0x4E d a b cc.enc m.enc)
  | .hmnx c d a b x m => some (enc2 c 0x4F d a b m.enc x.toNat)
  | .hcmp c p a b cc m => some (encP c 0x50 p a b m.enc cc.code)
  | .hcls c p a b m => some (encP c 0x51 p a b m.enc 0)
  | .hrnd c d a m => some (enc1 c 0x52 d a m.enc 0)
  | .hscl c d a b m => some (enc2 c 0x53 d a b m.enc 0)
  | .cvt c d a r dst src => some (enc1 c 0x54 d a (BitVec.ofNat 6 (r.code + 4 * dst.code + 16 * src.code)) 0)
  | .cvtn c d a src sat fs pos =>
    some { enc1 c 0x55 d a (BitVec.ofNat 6 (src.code + (if sat then 4 else 0))) pos with fs := BitVec.ofNat 3 fs }
  | .cvtw c d a dst fs pos => some { enc1 c 0x56 d a (BitVec.ofNat 6 dst.code) pos with fs := BitVec.ofNat 3 fs }
  | .pack c d a b r sat bf =>
    some (enc2 c 0x57 d a b (BitVec.ofNat 6 (r.code + (if sat then 4 else 0) + (if bf then 32 else 0))) 0)
  | .unpk c d a bf => some (enc1 c 0x58 d a (BitVec.ofNat 6 (if bf then 32 else 0)) 0)
  | .cvti c d a r src dst sg =>
    some (enc1 c 0x59 d a (BitVec.ofNat 6 (r.code + 4 * src.code + 16 * dst.code)) sg.toNat)
  | .cvtf c d a r dst src sg =>
    some (enc1 c 0x5A d a (BitVec.ofNat 6 (r.code + 4 * dst.code + 16 * src.code)) sg.toNat)
  | .cvts c d a dst src sat => some (enc1 c 0x5B d a (BitVec.ofNat 6 (dst.code + (if sat then 8 else 0))) src.code)
  | .rcp c d a => some (enc1 c 0x5C d a 0#6 0)
  | .rsq c d a => some (enc1 c 0x5D d a 0#6 0)
  | .sqrt c d a => some (enc1 c 0x5E d a 0#6 0)
  | .ex2 c d a => some (enc1 c 0x5F d a 0#6 0)
  | .lg2 c d a => some (enc1 c 0x60 d a 0#6 0)
  | .sin c d a => some (enc1 c 0x61 d a 0#6 0)
  | .cos c d a => some (enc1 c 0x62 d a 0#6 0)
  | .tanh c d a => some (enc1 c 0x63 d a 0#6 0)
  | .ld c d a off sz sc cp =>
    some { c.fields 0x64 with d := d.enc, a := a.enc, mod := memEnc sz.code sc, sub := BitVec.ofNat 3 cp.code, imm := off }
  | .st c a b off sz sc cp v =>
    some { c.fields 0x65 with a := a.enc, b := b.enc, mod := memEnc sz.code sc, sub := BitVec.ofNat 3 (cp.code + (if v then 4 else 0)), imm := off }
  | .ldb c d a off sc cp =>
    some { c.fields 0x66 with d := d.enc, a := a.enc, mod := memEnc 0 sc, sub := BitVec.ofNat 3 cp.code, imm := off }
  | .stb c a b off sc cp v =>
    some { c.fields 0x67 with a := a.enc, b := b.enc, mod := memEnc 0 sc, sub := BitVec.ofNat 3 (cp.code + (if v then 4 else 0)), imm := off }
  | .ldk c d a off w sc cp =>
    some { c.fields 0x68 with d := encK d, a := encK a, mod := memEnc (if w then 3 else 2) sc, sub := BitVec.ofNat 3 cp.code, imm := off }
  | .ldp c d a off sz p =>
    some { c.fields 0x69 with d := encV d, a := encV a, mod := BitVec.ofNat 6 sz.code, sub := BitVec.ofNat 3 p, imm := off }
  | .stp c a b off sz p =>
    some { c.fields 0x6A with a := encV a, b := b.enc, mod := BitVec.ofNat 6 sz.code, sub := BitVec.ofNat 3 p, imm := off }
  | .ldw c d a off sz => some { c.fields 0x6B with d := encV d, a := encV a, mod := BitVec.ofNat 6 sz.code, imm := off }
  | .atom c d a b off op t sc =>
    some { c.fields 0x6C with d := d.enc, a := a.enc, b := b.enc, mod := memEnc t.code sc, sub := BitVec.ofNat 3 op.code, imm := off }
  | .atomc c d a b cc t sc =>
    some { c.fields 0x6D with d := d.enc, a := a.enc, b := b.enc, mod := memEnc t.code sc, imm := immC cc.enc }
  | .fence c k sc => some { c.fields 0x6E with mod := memEnc 0 sc, sub := BitVec.ofNat 3 k.code }
  | .cflush c a off sc =>
    some { c.fields 0x6F with a := (match a with | some r => r.enc | none => enc0), mod := memEnc 0 sc, sub := bitSub a.isNone, imm := off }
  | .cinv c a off sc =>
    some { c.fields 0x70 with a := (match a with | some r => r.enc | none => enc0), mod := memEnc 0 sc, sub := bitSub a.isNone, imm := off }
  | .pref c a off l2 => some { c.fields 0x71 with a := a.enc, sub := bitSub l2, imm := off }
  | .stk c a b off w sc cp =>
    some { c.fields 0x72 with a := encK a, b := encK b, mod := memEnc (if w then 3 else 2) sc, sub := BitVec.ofNat 3 cp.code, imm := off }
  | .seqr c d => some { c.fields 0x73 with d := d.enc }
  | .tload c d a p cp =>
    some { c.fields 0x74 with d := encX d, a := encK a, mod := BitVec.ofNat 6 cp.code, imm := immC (encK p) }
  | .tstore c a b p cp =>
    some { c.fields 0x75 with a := encK a, b := encX b, mod := BitVec.ofNat 6 cp.code, imm := immC (encK p) }
  | .tgather c d a b cp =>
    some { c.fields 0x76 with d := encX d, a := encK a, b := encV b, mod := BitVec.ofNat 6 cp.code }
  | .tscat c a b x cp =>
    some { c.fields 0x77 with a := encK a, b := encX b, mod := BitVec.ofNat 6 cp.code, imm := immC (encV x) }
  | .tpeer c d a p => some { c.fields 0x78 with d := encX d, a := encX a, sub := BitVec.ofNat 3 p }
  | .tfill c d a => some { c.fields 0x79 with d := encX d, a := a.enc, imm := immOf a a }
  | .coll c d a b op =>
    some { c.fields 0x7A with d := encX d, a := encX a, b := encK b, sub := BitVec.ofNat 3 op.code }
  | .trel c d => some { c.fields 0x7B with d := encX d }
  | .ppush c a q => some { c.fields 0x7C with a := encX a, b := encX q }
  | .ppop c d q => some { c.fields 0x7D with d := encX d, a := encX q }
  | .pstat c d q k => some { c.fields 0x7E with d := encK d, a := encX q, sub := BitVec.ofNat 3 k.code }
  | .pclose c q => some { c.fields 0x7F with a := encX q }
  | .pwait c q x => some { c.fields 0x80 with a := encX q, sub := bitSub x }
  | .preopen c q => some { c.fields 0x81 with a := encX q }
  | .mma c d a b l ad =>
    some { c.fields 0x82 with d := encX d, a := encX a, b := encX b, mod := if l then 1#6 else 0#6, sub := bitSub ad.isSome, imm := adImm ad }
  | .mmac c d a b fs l ad =>
    some { c.fields 0x83 with d := encX d, a := encX a, b := encX b, mod := if l then 1#6 else 0#6, fs := BitVec.ofNat 3 fs, sub := bitSub ad.isSome, imm := adImm ad }
  | .accz c d => some { c.fields 0x84 with d := encX d }
  | .accl c d a => some { c.fields 0x85 with d := encX d, a := encX a }
  | .accd c d a fs => some { c.fields 0x86 with d := encX d, a := encX a, fs := BitVec.ofNat 3 fs }
  | .adpf c a b k =>
    some { c.fields 0x87 with a := a.enc, b := b.enc, sub := BitVec.ofNat 3 k.code, imm := immOf a b }
  | .barInit c d a => some { c.fields 0x88 with d := encX d, a := a.enc, imm := immOf a a }
  | .barArrive c d => some { c.fields 0x88 with d := encX d, sub := 1#3 }
  | .barWait c d => some { c.fields 0x88 with d := encX d, sub := 2#3 }
  | .waitc c a m => some { c.fields 0x89 with a := encX a, imm := BitVec.ofNat 32 m }
  | .baste c => some (c.fields 0x8A)
  | .hem c => some (c.fields 0x8B)
  | .grow c n => some (encI c 0x8C n)
  | .shrink c n => some (encI c 0x8D n)
  | .sread c d r => some { c.fields 0x8E with d := d.enc, imm := BitVec.ofNat 32 r }
  | .swrite c a r =>
    some { c.fields 0x8F with a := a.enc, imm := (match a with | .imm w => (w.extractLsb' 0 24 ++ BitVec.ofNat 8 r : BitVec 32) | _ => BitVec.ofNat 32 r) }
  | _ => none

/-- The word of a clause header (R34 Table 3). -/
def encodeHeader (h : Header) : IWord :=
  (0#61 ++ BitVec.ofBool h.yieldHint ++ BitVec.ofNat 4 (h.set2.getD 0) ++ BitVec.ofBool h.set2.isSome
    ++ BitVec.ofNat 4 (h.set1.getD 0) ++ BitVec.ofBool h.set1.isSome ++ h.wait ++ BitVec.ofNat 4 h.len ++ 0#8 : BitVec 96)

/-- The word of an instruction; an event of the device has none. DEDUCED, log entry 14. -/
def encode : Instr → Option IWord
  | .clauseIssue h => some (encodeHeader h)
  | i => (encodeFields i).map Fields.toWord

end Sys2Proof
end

