-- ==== Sys2Proof/Config.lean ====
section
/-! DEFINITION. What an implementation fixes (fused values) and the values the spec leaves free. A free value is an opaque
constant: nothing can evaluate it, so a claim about it holds whatever it is. Each is named in notes/assumptions. -/

namespace Sys2Proof

/-- One move of the machine: which agent acts next. -/
inductive Move
  /-- An issue slot of a quarter of a core; `ready` lists the (slot, path) pairs that pipeline timing lets issue. -/
  | slot (core quarter : Nat) (ready : List (Nat × Nat))
  /-- A step of the device: a row of the opcode table that has no encoding. -/
  | event (i : Instr)
  /-- The reference count advances by one (R101). -/
  | tick
  deriving DecidableEq, Repr, Inhabited

/-- A special function that is faithfully rounded (R75). -/
inductive FaithFn | ex2 | lg2 | sin | cos | tanh
  deriving DecidableEq, Repr, Inhabited

namespace Config

/-- Free: the order in which the agents of the package move is given by no rule (DESIGN CHOICE, log entry 4). -/
opaque freeMove : Nat → Move
/-- Free: which of the two bracketing binary32 values a faithful function returns (R75, log entry 10). DESIGN CHOICE, log entry 10. -/
opaque pickUpper : FaithFn → Word → Bool
/-- Free: the bytes of a device-private context region (R421, log entry 17): the n-th byte the device writes there. DESIGN CHOICE, log entry 17. -/
opaque freeByte : Nat → Byte

/-- The cores that the part's fuses mark present (R14, R448; DESIGN CHOICE, log entry 1). -/
def coresPresent : BitVec 192 := BitVec.allOnes 192
/-- The slices present, bit 16d + s (R118). DESIGN CHOICE, log entry 1. -/
def slicesPresent : BitVec 64 := BitVec.allOnes 64
/-- The SRAM dies present (R118). DESIGN CHOICE, log entry 1. -/
def sramPresent : BitVec 4 := BitVec.allOnes 4
/-- The HBM4E stacks present, bit 3d + s (19 Table 2). DESIGN CHOICE, log entry 1. -/
def stacksPresent : BitVec 12 := BitVec.allOnes 12
/-- The second-tier ranges present, by die (19 Table 2). DESIGN CHOICE, log entry 1. -/
def secondPresent : BitVec 4 := BitVec.allOnes 4
/-- The weight stores present, by die (19 Table 2). DESIGN CHOICE, log entry 1. -/
def wstorePresent : BitVec 4 := BitVec.allOnes 4
/-- The second tier's configuration: true for CXL (19 Table 2). DESIGN CHOICE, log entry 1. -/
def secondIsCxl : Bool := false
/-- RATED: the highest clock n of a held partition (R442). DESIGN CHOICE, log entry 1. -/
def ratedMax : Nat := 144
/-- The fused minimum security version of firmware (R439). DESIGN CHOICE, log entry 1. -/
def fwMinimum : Nat := 0
/-- This package's number in the pod (R79; DESIGN CHOICE, log entry 1). -/
def packageNumber : Nat := 0

end Config
end Sys2Proof
end

