-- ==== Sys2Proof/Machine/State.lean ====
section
/-! DEFINITION. The state of the package as plain data: every piece of state the spec gives the machine, the reasons a step
can stop, and the state after reset. Maps are strictly ascending association lists, so equal states are equal data. -/

namespace Sys2Proof.Machine

/-- Why a step stops. -/
inductive Fault
  /-- An instruction word is executed while the cursor names no path of a resident skein. Raised by the issue prelude of
  every instruction word. Safe: the spec gives an instruction no meaning outside a skein. -/
  | noIssuer
  deriving DecidableEq, Repr, Inhabited

/-- Why a step is refused. -/
inductive Refusal
  /-- The instruction has no meaning in the model. Raised by no arm that has a meaning. Safe. -/
  | notModelled (mnemonic : String)
  deriving DecidableEq, Repr, Inhabited

/-- A trap in the course of being taken (R399, R400, R401). -/
structure TrapInfo where
  code : Nat
  detail : Nat := 0
  lane : Nat := 0
  /-- first faulting virtual address, word 1 of the detail block -/
  va : Nat := 0
  /-- word 3 of the detail block -/
  word3 : DWord := 0
  deriving DecidableEq, Repr, Inhabited

/-- A register window (R193). -/
structure Win where
  base : Nat
  size : Nat
  deriving DecidableEq, Repr, Inhabited

/-- A register of a skein by its storage: globals are keys 0 to 15, window position x is key 16 + x (R190, R193). -/
inductive RegRef | v (key : Nat) | k (n : Nat) | p (n : Nat)
  deriving DecidableEq, Repr, Inhabited

/-- A register result ready to be written. -/
inductive RegWrite
  | v (key : Nat) (lanes : LMask) (data : VReg) (poison : Bool)
  | k (n : Nat) (w : Word) (poison : Bool)
  | p (n : Nat) (lanes bits : LMask)
  deriving DecidableEq, Repr, Inhabited

/-- The clause a path holds: its words from memory, the set flags of its header, and the offset of the next word (R35). -/
structure Clause where
  words : List IWord
  pos : Nat
  set1 : Option Nat
  set2 : Option Nat
  deriving DecidableEq, Repr, Inhabited

/-- An entry of the reconvergence stack (R340). `tops` lists, for each frame record that was the top record of some lane of
E at SETJ, that record and those lanes; a lane in none had no record. -/
inductive StkEntry
  | join (pc : Nat) (expected arrived : LMask) (win : Win) (tops : List (Nat × LMask))
  | pend (pc : Nat) (lanes : LMask) (win : Win)
  deriving DecidableEq, Repr, Inhabited

/-- A frame record (R348): shift, caller window size, call mask, arrived mask, and the callee's base. -/
structure FrameRec where
  id : Nat
  shift : Nat
  callerW : Nat
  base : Nat
  call : LMask
  arrived : LMask
  deriving DecidableEq, Repr, Inhabited

/-- One depth of a STITCH in progress (R357 to R367): the groups still to run in ascending word order. -/
structure StLevel where
  set : LMask
  pd : Nat
  trapIllegal : Bool
  groups : List (Nat × LMask)
  illegal : LMask
  deriving DecidableEq, Repr, Inhabited

/-- What a path waits for at issue. -/
inductive WaitKind
  | tile (core t : Nat) (source : Bool) | accs (l : List Nat) | pipeFree (plan pipe : Nat) | pipeFilled (plan pipe : Nat) | barrier (b : Nat)
  | register | other
  deriving DecidableEq, Repr, Inhabited

/-- A path of a skein (14 Table 1). -/
structure Path where
  /-- PC of the current or next clause header -/
  pc : Nat := 0
  clause : Option Clause := none
  mask : LMask := 0
  win : Win := ⟨0, 8⟩
  /-- flag f has the operation o incomplete, for each pair (f, o) (R36, R37) -/
  flagOps : List (Nat × Nat) := []
  age : Nat := 0
  /-- the core clock at which a SLEEP ends (R352) -/
  sleep : Option Nat := none
  /-- asked to be passed over in the next issue slot (R38, R352) -/
  yielded : Bool := false
  own : List StkEntry := []
  stitch : List StLevel := []
  /-- words found not permitted by the STITCH in progress: lane, depth, condition (R359) -/
  illegalWords : List (Nat × Nat × Nat) := []
  /-- the STITCH in progress: its operation number -/
  stitchOp : Option Nat := none
  /-- what the path waits for at issue, the reference count since which it waits for that, and the one since which the instruction in hand
  has waited at issue -/
  wait : Option (WaitKind × Nat × Nat) := none
  /-- no watchpoint match for the next instruction (17 Table 1, code 0x2B) -/
  watchPass : Bool := false
  deriving DecidableEq, Repr, Inhabited

/-- One line of a load: where its bytes come from. -/
structure LoadPart where
  line : Nat
  /-- bytes already found in the store queue or the L1 (R216) -/
  found : LMask
  data : LineData
  /-- the slice request that brings the rest -/
  req : Option Nat
  arrived : Bool
  /-- poison of the four 32-byte units as returned (R220) -/
  poison : BitVec 4
  /-- the L1 receives the line (R217) -/
  allocate : Bool
  /-- its line has become too old to receive: the line's clean bytes leave the L1 instead (R238) -/
  dropped : Bool := false
  /-- the bytes found that every access of the load takes: those of the store queue and the L1's dirty ones (R216, R242) -/
  strong : LMask := 0
  /-- the filled line is its set's first victim (R217) -/
  firstVictim : Bool
  deriving DecidableEq, Repr, Inhabited

/-- One element a load delivers: the lane (none for a uniform read), the line and the byte offset in it. -/
structure LoadElem where
  lane : Option Nat
  part : Nat
  off : Nat
  /-- the core held every byte that its access needs of its 16-byte unit: it takes them all (R216, R242) -/
  whole : Bool := true
  deriving DecidableEq, Repr, Inhabited

/-- A slice atomic of one lane (R228). -/
structure AtomReq where
  op : AtomOp
  isCas : Bool
  ty : IType
  off : Nat
  b : DWord
  c : DWord
  deriving DecidableEq, Repr, Inhabited

/-- How far a fence, flush or scoped atomic has come (R229, R230): stage 0 waits for loads and the store queue, 1 for the
writes it sent, 2 is released, 3 is complete. -/
structure Progress where
  stage : Nat := 0
  /-- requests it waits for -/
  waits : List Nat := []
  /-- earlier loads of the path -/
  loads : List Nat := []
  /-- an acquire waits for the inbound writes that arrived before this number, once it has begun (09 Table 3) -/
  inbound : Option Nat := none
  /-- the lines that CFLUSH and CINV act on, once they have begun -/
  lines : List Nat := []
  deriving DecidableEq, Repr, Inhabited

/-- What an outstanding operation of a skein still has to do. -/
inductive OpBody
  /-- a result of DIV, REM or a special function, written by SPECIAL_FUNCTION_RESULT -/
  | result (ws : List RegWrite)
  /-- a load: lines, elements, element size in bytes, sign extension, destination registers lowest word first -/
  | load (parts : List LoadPart) (elems : List LoadElem) (size : Nat) (signed : Bool) (dst : List RegRef)
  /-- an LDW: lane and offset of each read (R102) -/
  | weight (elems : List (Nat × Nat)) (size : Nat) (signed : Bool) (dst : List RegRef)
  /-- a written-through store: entries not yet accepted at a slice (R221) -/
  | store (left : Nat)
  /-- an atomic: one request per lane, in ascending lane order; results come back in `got`, with their poison -/
  | atomic (todo : List (Nat × Nat × AtomReq)) (left : Nat) (scope : Scope) (got : List (Nat × DWord × Bool)) (ty : IType)
      (dst : List RegRef) (sent : Bool) (pg : Progress)
  /-- a FENCE in progress -/
  | fence (kind : FenceKind) (scope : Scope) (pg : Progress)
  /-- CFLUSH or CINV in progress: its lines, or every line -/
  | flush (invalidate : Bool) (scope : Scope) (lines : Option (List Nat)) (pg : Progress)
  /-- SEQR: waits for every earlier write of the skein to be acknowledged; `mark` is the number of the first request that came
  after the operations it waits for -/
  | seqr (dst : List RegRef) (lanes : LMask) (mark : Nat)
  /-- PSTAT: the query on its way to the pipe's home -/
  | pstat (k : Nat) (plan pipe : Nat) (what : PstatWhat)
  /-- PCLOSE or PREOPEN: the change on its way to the pipe's home -/
  | change
  /-- a copy-engine operation, held in the core's copy queue -/
  | copy
  /-- the matrix instruction in progress -/
  | matrix
  /-- ADPF: what it asks for, before its table entry has been read; chunk fills still to come -/
  | adpf (entry : Option (Nat × Nat × AdpfWhat)) (fills : List Nat)
  /-- the STITCH in progress -/
  | stitch
  deriving DecidableEq, Repr, Inhabited

/-- Latency class of an operation (R36). -/
inductive OpClass | special | memory | async | collective
  deriving DecidableEq, Repr, Inhabited

/-- An incomplete operation of a skein. -/
structure Op where
  cls : OpClass
  path : Nat
  /-- registers it still has to write -/
  pend : List RegRef := []
  /-- it came from a word of a STITCH -/
  fromStitch : Bool := false
  counter : Option Nat := none
  /-- it has a register result and memory class (a load in the sense of R229) -/
  isLoad : Bool := false
  /-- it accesses a type-10 page (R222) -/
  device : Bool := false
  body : OpBody
  deriving DecidableEq, Repr, Inhabited

/-- An entry of a store queue (R215). -/
structure SqEntry where
  line : Nat
  mask : LMask
  data : LineData
  /-- written through to the slice instead of merged into the L1 (R217) -/
  through : Bool
  firstVictim : Bool
  policy : CPol
  /-- the access is to a type-10 page: it reaches the device when it leaves the queue (R222) -/
  device : Bool
  /-- the operation that completes when the entry is accepted at its slice -/
  op : Option Nat
  /-- reference count at which it entered its queue -/
  entered : Nat
  /-- reference count at which its store was translated (R96) -/
  made : Nat := 0
  deriving DecidableEq, Repr, Inhabited

/-- A pending report of a faulted copy (R170). -/
structure CopyFault where
  cls : Nat
  tile : Nat
  code : Nat
  va : Nat
  lines : Nat
  op : Nat
  deriving DecidableEq, Repr, Inhabited

/-- A deferred matrix fault (R329). -/
structure MatFault where
  code : Nat
  ident : Nat
  layer : Nat
  va : Nat
  deriving DecidableEq, Repr, Inhabited

/-- Fields of an adapter-table entry (R321). -/
structure AdEntry where
  ident : Nat
  aBase : Nat
  bBase : Nat
  nBlocks : Nat
  kBlocks : Nat
  alpha : Word
  rank : Nat
  fmt : Nat
  deriving DecidableEq, Repr, Inhabited

/-- A chunk of an adapter matrix by its tag (R120). -/
structure ChunkTag where
  ctx : Nat
  ident : Nat
  layer : Nat
  isB : Bool
  chunk : Nat
  deriving DecidableEq, Repr, Inhabited

/-- A chunk fill under way (R121). -/
structure ChunkFill where
  id : Nat
  tag : ChunkTag
  va : Nat
  lines : Nat
  /-- the skein slot and the operation that asked for it -/
  slot : Nat
  op : Nat
  /-- an invalidation has dropped the chunks of its context meanwhile: it is not placed (R121) -/
  stale : Bool := false
  deriving DecidableEq, Repr, Inhabited

/-- Which matrix instruction is in progress. -/
inductive MatKind
  | mma (d a b : Nat) (last : Bool)
  | mmac (d a b fs : Nat) (last : Bool)
  | accz (d : Nat)
  | accl (d a : Nat)
  | accd (d a fs : Nat)
  deriving DecidableEq, Repr, Inhabited

/-- The matrix instruction in progress of a skein (R313, R327). -/
structure MatOp where
  op : Nat
  kind : MatKind
  pc : Nat
  issued : Nat
  /-- the `.ad` form: layer slot, K block and N block (R322) -/
  ad : Option (Nat × Nat × Nat)
  /-- the adapter entries have been read and the lookup made (R323) -/
  looked : Bool
  entries : List AdEntry
  steps : Nat
  replayBit : Bool
  slots : List Nat
  /-- chunk fills it waits for -/
  fills : List Nat
  /-- identifiers in the order in which their last fills ended (R316) -/
  order : List Nat := []
  /-- chunks served directly from memory without allocation -/
  direct : List (ChunkTag × List Byte)
  /-- a fault that waits to be reported, and whether the work has stopped for it -/
  fault : Option MatFault
  /-- issued in handler mode -/
  handler : Bool
  /-- a handler has written V = 0: RTE abandons it (R330) -/
  abandon : Bool
  deriving DecidableEq, Repr, Inhabited

/-- What a trap keeps of the interrupted stream (R401). -/
structure Frame where
  paths : NMap Path
  trapPath : Nat
  stack : List StkEntry
  records : List FrameRec
  deep : Nat × Nat := (0, 0)
  /-- the paths that had issued the operations then in progress, by operation (R233) -/
  opPaths : NMap Nat := []
  deriving DecidableEq, Repr, Inhabited

/-- An access of a core to a skein's section of its context area that comes before the skein issues again: an entry of the reconvergence
stack or a frame record that an instruction of a path at a PC spills or fills (R340), or a trap's detail block (R401). -/
inductive ControlMove
  | spill (va path pc : Nat)
  | fill (va path pc : Nat)
  | detail (ws : List DWord)
  deriving DecidableEq, Repr, Inhabited

/-- Whether a skein runs. -/
inductive RunState
  | running
  /-- halted by a debug command, at its stop point (R423) -/
  | halted
  /-- halted at a BRK; its trap frame is kept (R406) -/
  | haltedBrk
  /-- a debug Step lets it issue one instruction -/
  | stepping
  /-- stopped on the way to a save, a park or a host stop (R415) -/
  | stopped
  /-- every lane has exited (R350) -/
  | exited
  /-- the skein has ended and returned its granules -/
  | ended
  deriving DecidableEq, Repr, Inhabited

/-- The publication of a task (R188): its lines in windows are being written and the homes of its pipes told; all that is done, since a
reference count; it is published, and answers of homes on other dies are to come (R139). -/
inductive Publish
  | begun
  | ready (since : Nat)
  | told
  deriving DecidableEq, Repr, Inhabited

/-- A skein resident in a slot of a core. DESIGN CHOICE, log entry 34. -/
structure Skein where
  bolt : Nat
  index : Nat
  /-- age for issue choice: dispatch or restore order (R392) -/
  born : Nat := 0
  run : RunState := .running
  paths : NMap Path := []
  stack : List StkEntry := []
  records : List FrameRec := []
  nextRec : Nat := 1
  /-- stack entries and frame records that lie in the context area: the deepest ones (R340) -/
  deep : Nat × Nat := (0, 0)
  exited : LMask := 0
  /-- vector registers: globals under 0 to 15, window positions x under 16 + x; absent reads zero -/
  vregs : NMap VReg := []
  kregs : NMap Word := []
  preds : NMap LMask := []
  lk : VReg := []
  /-- poison marks (R220), with the lanes whose bytes were poisoned -/
  vmarks : NMap LMask := []
  kmarks : List Nat := []
  /-- G, the globals count rounded up (R194) -/
  globals : Nat := 0
  /-- granules of 8 window positions that are spilled, by number (R202, R204) -/
  spilled : List Nat := []
  /-- evicted by a deadlock break: issues nothing until refilled (R206) -/
  evicted : Bool := false
  counters : List Nat := [0, 0, 0, 0, 0, 0, 0, 0]
  ops : NMap Op := []
  sq : List SqEntry := []
  sqWait : List SqEntry := []
  lastStamp : DWord := 0
  taskCount : Nat := 0
  taskId : Nat := 0
  taskOpen : Bool := false
  /-- number under which the slices hold the versions of the open task -/
  taskKey : Nat := 0
  /-- versions of the open task: line, byte mask, bytes (R187) -/
  versions : NMap (LMask × LineData) := []
  /-- pushes and pops of the open task: plan, pipe, slot tag, in copy-completion order; true for a push -/
  held : List (Bool × Nat × Nat × Nat) := []
  mat : Option MatOp := none
  faultInfo : DWord := 0
  frame : Option Frame := none
  /-- words 1 to 3 of the detail block of the trap frame kept (R401, R420) -/
  detail : List DWord := []
  /-- accesses to its context area still to be made, oldest first (R340, R401) -/
  control : List ControlMove := []
  /-- the top of the skein at its last exit, whose granules it holds until it ends (R350); and the path and PC of that exit -/
  heldTop : Nat := 0
  exitAt : Nat × Nat := (0, 0)
  /-- the trap at which the skein halted for the debug interface or waits to be parked -/
  trap : Option TrapInfo := none
  /-- a fatal trap struck: its FAULTINFO, detail words and time, for the fault record (R404, R413) -/
  fatal : Option (DWord × DWord × DWord × DWord × Nat × DWord) := none
  copyFaults : List CopyFault := []
  barLast : NMap Nat := []
  /-- quarter ageing counter (R392) -/
  qage : Nat := 0
  hemWaiting : Bool := false
  /-- a debug Step has issued a matrix instruction, which runs to its next boundary (R423) -/
  stepMat : Bool := false
  /-- how far the publication of its task has come (R188) -/
  publish : Option Publish := none
  discarding : Bool := false
  killed : Bool := false
  deriving DecidableEq, Repr, Inhabited

/-- A rendezvous point (R393). -/
structure Rendezvous where
  init : Bool := false
  expected : Nat := 0
  arrived : List Nat := []
  phase : Nat := 0
  deriving DecidableEq, Repr, Inhabited

/-- Why a bolt is being stopped (R415). -/
inductive StopKind
  | save | planHalt | park | host
  deriving DecidableEq, Repr, Inhabited

/-- A bolt resident on a core. -/
structure Bolt where
  grid : Nat
  block : Nat
  slots : List Nat
  points : NMap Rendezvous := []
  /-- accumulator tiles allotted, by store number (R195, R389) -/
  accs : List Nat := []
  /-- tile table entries declared -/
  tiles : List Nat := []
  started : Nat := 0
  stop : Option StopKind := none
  /-- after the save, restore on this core only (R396) -/
  dest : Option Nat := none
  collUses : NMap Nat := []
  snapshot : Bool := false
  /-- the acquire before its first clause is done (R247) -/
  acquired : Bool := true
  /-- the acquire before its first clause waits for the inbound writes that arrived before this number (R247) -/
  acqMark : Nat := 0
  /-- writes that the release at its end or stop waits for, once begun (R247, R416) -/
  release : Option (List Nat) := none
  /-- its context, or its event word, has been written: the first private byte, and the first condition met (R385, R420, R475) -/
  written : Option (Nat × Option (Nat × Nat)) := none
  deriving DecidableEq, Repr, Inhabited

/-- State of a tile (R164). -/
inductive TileState | empty | filling | ready | draining
  deriving DecidableEq, Repr, Inhabited

/-- A tile table entry (R164). -/
structure TileEntry where
  state : TileState := .empty
  poison : Bool := false
  present : Bool := false
  faulted : Bool := false
  cols : Nat := 1
  rows : Nat := 1
  /-- allotment in 128-byte units -/
  size : Nat := 1
  base : Nat := 0
  slot : Nat := 0
  useSlot : Bool := false
  fmt : Nat := 0
  /-- matrix instructions that hold the tile (R311) -/
  holds : Nat := 0
  /-- copies of other cores that read the tile (R177) -/
  peerReads : Nat := 0
  deriving DecidableEq, Repr, Inhabited

/-- An accumulator tile with its side buffer and row tags (R309); absent elements are +0. -/
structure AccTile where
  elems : NMap Word := []
  side : NMap Word := []
  tags : NMap Nat := []
  busy : Option (Nat × Nat) := none
  deriving DecidableEq, Repr, Inhabited

/-- A line of the L1 (R214). -/
structure L1Line where
  data : LineData
  valid : LMask
  dirty : LMask
  used : Nat
  firstVictim : Bool
  deriving DecidableEq, Repr, Inhabited

/-- A translation-cache entry: one page of a context (R93). -/
structure TlbEntry where
  ctx : Nat
  va : Nat
  size : Nat
  pa : Nat
  type : Nat
  x : Bool
  w : Bool
  /-- partition of the descriptor that the walk used (R88, R96) -/
  part : Nat := 8
  deriving DecidableEq, Repr, Inhabited

/-- An agent of the device that reads lines or waits for a walk: it names what the line or the walk is for. -/
inductive Agent
  /-- the loads, stores and atomics of a skein -/
  | skein (core slot : Nat)
  /-- clause fetch of a path -/
  | fetch (core slot path : Nat)
  /-- the frame map, for a call of a path (R196) -/
  | frame (core slot path : Nat)
  /-- a copy of a core's engines -/
  | copy (core op : Nat)
  /-- a prefetch that waits for its translation; into the slice only (R231) -/
  | prefetch (core : Nat) (l2 : Bool) (va : Nat)
  /-- adapter table reads of a skein, and a chunk fill of a core -/
  | adapter (core slot : Nat)
  | chunk (core fill : Nat)
  /-- register spill and fill, control-stack entries and detail blocks, by core and skein slot; saves and restores, by grid and block -/
  | pool (core slot : Nat)
  | control (core slot : Nat)
  | context (grid block : Nat)
  /-- the queue front end: records of entries of queue q, as 65,536 + q its descriptor, as 131,072 + q its ring; the copy entry
  engine, a dispatcher that looks at a grid's blocks, a pipe's spill engine -/
  | front (q : Nat)
  | entry (q seq : Nat)
  | dispatcher (die grid : Nat)
  | spill (plan pipe : Nat)
  /-- a collective group descriptor read for a skein -/
  | coll (core slot : Nat)
  /-- a walk, by its number -/
  | walk (id : Nat)
  /-- the system port: accesses of the host (an arrival number) and of the pod -/
  | host (num : Nat)
  | pod (num : Nat)
  /-- a record of the fault ring or of the event ring (R412), telemetry, attestation -/
  | record (id : Nat)
  | telemetry
  | attest
  deriving DecidableEq, Repr, Inhabited

/-- A line that a read of an agent has brought (R106): its bytes and the poison of its four units. -/
structure AgentLine where
  agent : Agent
  line : Nat
  data : LineData
  poison : BitVec 4
  /-- of an atomic: the stamp of its acknowledgement -/
  stamp : DWord := 0
  deriving DecidableEq, Repr, Inhabited

/-- Kinds of walk (R91). -/
inductive WalkKind | read | write | fetch | copyRead
  deriving DecidableEq, Repr, Inhabited

/-- A fault that a walk left for the access that missed, with the level at which the walk stopped (R91). -/
structure WalkFault where
  agent : Agent
  ctx : Nat
  page : Nat
  kind : WalkKind
  code : Nat
  level : Nat
  deriving DecidableEq, Repr, Inhabited

/-- Copy-engine operations (07 Table 3). -/
inductive CopyKind
  | tload | tstore | tgather | tscat | tpeer (core tile : Nat) | tfill (v : Word) | coll (group gen member : Nat) (op : CollOp)
  | ppush (plan pipe slot : Nat) | ppop (plan pipe : Nat) (slot : Nat) (spilled : Bool)
  deriving DecidableEq, Repr, Inhabited

/-- One row of a copy: its memory address, or none for a row that is not moved to or from memory. -/
structure CopyRow where
  row : Nat
  va : Option Nat
  deriving DecidableEq, Repr, Inhabited

/-- A copy in the queue of a core (R170). -/
structure Copy where
  op : Nat
  slot : Nat
  kind : CopyKind
  tile : Nat
  /-- the tile read by COLL when it differs from D -/
  tileA : Nat
  policy : CPol
  ctx : Nat
  rows : List CopyRow
  /-- next line of the operation -/
  next : Nat
  total : Nat
  engine : Option Nat
  poison : Bool
  faultCode : Nat
  faultVa : Nat
  linesDone : Nat
  /-- lines and parts of lines that have come and are not yet in the tile, by piece, with their poison -/
  got : NMap (LineData × BitVec 4) := []
  /-- pieces of rows in the tile store or dropped, and pieces that met a fault -/
  landed : List Nat := []
  bad : List Nat := []
  inTask : Bool
  /-- the last line has been moved -/
  moved : Bool
  issued : Nat
  /-- reference count of the last line moved -/
  lastLine : Option Nat := none
  /-- reference count at which every line had been moved; the commit or completion is on its way to another die's pipe controller, or
  the controller has performed it (R139) -/
  movedAt : Nat := 0
  told : Bool := false
  closed : Bool := false
  deriving DecidableEq, Repr, Inhabited

/-- A register request (R203). -/
structure RegRequest where
  slot : Nat
  path : Nat
  /-- the top its grant reaches, and the spilled granules it needs filled -/
  top : Nat
  fills : List Nat
  since : Nat
  /-- phase of the core when it was queued (R205) -/
  phase : Nat := 0
  granted : Bool
  deriving DecidableEq, Repr, Inhabited

/-- A core (R15). DESIGN CHOICE, log entry 2. -/
structure Core where
  skeins : NMap Skein := []
  bolts : NMap Bolt := []
  nextBolt : Nat := 1
  l1 : NMap L1Line := []
  l1clock : Nat := 0
  tlb : List TlbEntry := []
  tiles : NMap TileEntry := []
  tileBytes : NMap Byte := []
  accs : NMap AccTile := []
  copyq : List Copy := []
  /-- chunk fills under way (R121) -/
  chunkFills : List ChunkFill := []
  regReqs : List RegRequest := []
  /-- granule spills the arbiter has ordered: slot, position -/
  spillQ : List (Nat × Nat) := []
  /-- the writes of the first spill ordered have been sent -/
  spillSent : Bool := false
  /-- frame-map entries held, most recently used first: map, entry PC, frame (R196) -/
  mapCache : List (Nat × Nat × Nat) := []
  /-- core clock in which the L1 last took a store-queue entry of each quarter (R215) -/
  sqTaken : NMap Nat := []
  /-- core clocks times 144 -/
  phase : Nat := 0
  /-- clock setting n of 25 n MHz in force -/
  clockN : Nat := 144
  regSpill : Nat := 0
  regFill : Nat := 0
  regBreak : Nat := 0
  /-- the head request for which the bound of R205 has run out: its slot, path and time -/
  headTimeout : Option (Nat × Nat × Nat) := none
  deriving DecidableEq, Repr, Inhabited

/-- A line held by a slice (R104): tags only; the value of every line is kept once, in `State.mem`. -/
structure SliceLine where
  line : Nat
  dirty : Bool
  used : Nat
  firstVictim : Bool
  owner : Nat
  deriving DecidableEq, Repr, Inhabited

/-- What a pinned way holds (R130, R187). -/
inductive Pinned
  | slotLine (plan pipe index : Nat)
  | version (task line : Nat)
  deriving DecidableEq, Repr, Inhabited

/-- An adapter-cache entry (R119, R120). -/
structure AdChunk where
  tag : ChunkTag
  slice : Nat
  set : Nat
  bytes : List Byte
  used : Nat
  /-- running matrix instructions that use it (R324) -/
  users : List (Nat × Nat)
  deriving DecidableEq, Repr, Inhabited

/-- A slice (R104 to R116). Ways are keyed by 16 × set + way. DESIGN CHOICE, log entry 2. -/
structure Slice where
  lines : NMap SliceLine := []
  pins : NMap Pinned := []
  seq : Nat := 0
  /-- reference count of the last acceptance (R112) -/
  lastAccept : Option Nat := none
  /-- recency counter of R104 -/
  recency : Nat := 0
  deriving DecidableEq, Repr, Inhabited

/-- A counter message of a pipe, between a core and the pipe's home on another die (R139): for a path, or for an operation. -/
inductive PipeMsg
  /-- a push or a pop asks for a slot or a tile; the home has granted it -/
  | ask (core slot path : Nat) (push : Bool)
  | grant (core slot path : Nat) (push : Bool)
  /-- the last line of a push has been accepted; the tile of a pop has been written -/
  | commit (core op : Nat)
  | popped (core op : Nat)
  /-- PSTAT: the query and its answer -/
  | query (core slot op : Nat)
  | answer (core slot op value : Nat)
  /-- PCLOSE and PREOPEN: the change, and that the home has applied it -/
  | change (core slot op : Nat) (close : Bool)
  | changed (core slot op : Nat)
  /-- the commit or completion of a copy has been performed -/
  | finished (core op : Nat)
  /-- the task of a skein is published or discarded with what it holds of the pipe; the home has published it -/
  | task (core slot : Nat)
  | taskDone (core slot : Nat)
  deriving DecidableEq, Repr, Inhabited

/-- What a request does at its slice. -/
inductive ReqKind
  /-- a read of the line; the bytes its requester needs -/
  | read (need : LMask)
  /-- a write of the masked bytes, merged under R104 -/
  | write (mask : LMask) (data : LineData)
  | atomic (a : AtomReq)
  /-- prefetch into the slice only (R231) -/
  | prefetch
  /-- write the line to its memory (CFLUSH at `.sys`, R230) -/
  | clean
  /-- a line of a pipe slot, by its index n of R130: written, or read; `num` names the slot, as line `i` of it -/
  | slotWrite (slot i : Nat) (data : LineData)
  | slotRead (slot i : Nat)
  /-- a counter message of a pipe between dies (R139) -/
  | msg (m : PipeMsg)
  deriving DecidableEq, Repr, Inhabited

/-- Who is answered when a request completes. -/
inductive ReqOwner
  | load (core slot op part : Nat)
  | store (core slot op : Nat)
  /-- an L1 line's dirty bytes; the skein whose fence or flush caused it, if one did (R232) -/
  | writeback (core : Nat) (slot : Option Nat)
  | atomic (core slot op lane : Nat)
  | prefetch (core : Nat)
  /-- a piece of a copy of a core's engines -/
  | copy (core op piece : Nat)
  /-- a line that an agent reads, or writes -/
  | agent (a : Agent)
  | system
  deriving DecidableEq, Repr, Inhabited

/-- Where a request is. -/
inductive Stage
  /-- at the request port of its cluster, not yet sent -/
  | port
  /-- in a first-stage router buffer of the requester's die (R108, R111) -/
  | net1
  /-- in a second-stage router buffer there, at the input of the slice or proxy -/
  | net2
  /-- at the proxy's egress toward the home die (R109) -/
  | egress
  /-- in a flit on the die link -/
  | link
  /-- at the die-link ingress of the home die -/
  | ingress
  /-- in a first-stage and a second-stage router buffer of the home die -/
  | home1
  | home2
  /-- accepted: its line is held, the reply leaves at the given clock -/
  | accepted (replyDue : Nat)
  /-- accepted, missed: waits for its memory -/
  | miss
  /-- its memory has been read: fill returns at the given clock -/
  | fill (due : Nat)
  /-- reply in a first-stage router buffer of the home die's reply network -/
  | reply
  /-- reply in the second-stage router buffer at a die-link port of the home die -/
  | replyPort
  /-- reply waiting at the egress of the home die -/
  | replyEgress
  | replyLink
  /-- reply at the die-link ingress of the requester's die -/
  | replyIngress
  /-- reply at the proxy slice of the requester's die, in a first-stage router buffer -/
  | proxy
  /-- reply at the requester's port -/
  | done
  /-- outside the package: at the host or at another package -/
  | remote
  deriving DecidableEq, Repr, Inhabited

/-- A request on its way to its slice, and its reply on the way back. -/
structure Req where
  id : Nat
  kind : ReqKind
  who : ReqOwner
  line : Nat
  policy : CPol
  /-- partition 0 to 7, or 8 (R84) -/
  owner : Nat
  /-- the plan and pipe whose traffic it is (R124) -/
  pipe : Option (Nat × Nat) := none
  /-- die and port of the requester -/
  die : Nat
  port : Nat
  homeDie : Nat
  homeSlice : Nat
  stage : Stage
  /-- reference count at which it reached its present stage -/
  since : Nat
  /-- slice queue entry taken from the owner's reservation (R116) -/
  reservedEntry : Bool
  way : Nat
  rdata : LineData
  rpoison : BitVec 4
  rold : DWord
  stamp : DWord
  /-- reference count at which its slice accepted it (R112) -/
  took : Nat := 0
  /-- 32-byte units of its line that it, or a write accepted after it, has covered whole (R81) -/
  fresh : BitVec 4 := 0
  deriving DecidableEq, Repr, Inhabited

/-- A record of a ring whose writes are not all accepted (R412): its ring (true for the fault ring), its units, the writes left. -/
structure RingRecord where
  id : Nat
  fault : Bool
  units : Nat
  left : Nat
  deriving DecidableEq, Repr, Inhabited

/-- Class of die-link traffic (R124). -/
inductive LinkClass | pipe (plan pipe : Nat) | part (p : Nat) | unreserved
  deriving DecidableEq, Repr, Inhabited

/-- A flit on a die-link direction: requests and replies it carries, the times it has failed. -/
structure Flit where
  cls : LinkClass
  reqs : List Nat
  /-- reference counts of its first and of its last send -/
  sent : Nat
  last : Nat
  fails : Nat
  deriving DecidableEq, Repr, Inhabited

/-- A die-link direction, numbered 4 × from + to (R122). -/
structure DieLink where
  flight : List Flit := []
  resend : List Flit := []
  retries : Nat := 0
  failed : Bool := false
  /-- reference count of the last slot used -/
  lastSlot : Option Nat := none
  deriving DecidableEq, Repr, Inhabited

/-- A walk to be made (R93): for an agent, filling the L1 TLB of a core if it has one (R474); its table reads are served as
traffic of an owner (R84). -/
structure WalkReq where
  id : Nat
  agent : Agent
  core : Option Nat
  ctx : Nat
  va : Nat
  kind : WalkKind
  owner : Nat
  deriving DecidableEq, Repr, Inhabited

/-- A walk-cache entry (R93): a table pointer at a level. -/
structure WalkCacheEntry where
  ctx : Nat
  level : Nat
  index : Nat
  base : Nat
  deriving DecidableEq, Repr, Inhabited

/-- Weight-store gate (R100). -/
inductive GateState | free | read | write
  deriving DecidableEq, Repr, Inhabited

/-- A request at a weight-store gate: a grid as reader, or a copy entry (queue, sequence) as writer. -/
structure GateReq where
  grid : Option Nat
  queue : Nat
  seq : Nat
  since : Nat
  deriving DecidableEq, Repr, Inhabited

/-- A die: its L2 TLB, walker, weight-store gate, ageing, errors, balancer moves. DESIGN CHOICE, log entry 2. -/
structure Die where
  tlb : List TlbEntry := []
  walkCache : List WalkCacheEntry := []
  walks : List WalkReq := []
  walkFaults : List WalkFault := []
  gate : GateState := .free
  gateReaders : List Nat := []
  /-- requests waiting at the gate, in the order they will enter -/
  gateQueue : List GateReq := []
  gateWriter : Option (Nat × Nat) := none
  /-- reference count of the last request each port sent (R466) -/
  portSent : NMap Nat := []
  corrected : Nat := 0
  maxClk : Nat := 144
  replan : Option Nat := none
  /-- the last turn of its dispatcher (R390) -/
  lastTurn : Option Nat := none
  wear : Nat := 0
  /-- a balancer move (plan, donor, recipient, core) or a migration (core, bolt, destination) in progress -/
  move : Option (Nat × Nat × Nat × Nat) := none
  /-- reference count of the balancer sample that last made a move on the die (R151) -/
  balMoved : Option Nat := none
  migration : Option (Nat × Nat × Nat) := none
  /-- reference count of the last migration decision (R396) -/
  migTurn : Option Nat := none
  deriving DecidableEq, Repr, Inhabited

/-- An HBM4E channel: line transfers waiting (request, or a victim write-back), slot maps (R83, R86). -/
structure Channel where
  /-- victims to write back: owner, line, reference count of the eviction -/
  victims : List (Nat × Nat × Nat) := []
  slots : NMap Word := []
  shadow : NMap Word := []
  lastSlot : Nat := 0
  deriving DecidableEq, Repr, Inhabited

/-- Slot of a pipe (R132). -/
inductive SlotState | free | writing | held | filled | reading | retained
  deriving DecidableEq, Repr, Inhabited

/-- A pipe slot with its tile bytes and their poison. -/
structure PipeSlot where
  state : SlotState := .free
  bytes : List Byte := []
  poison : Bool := false
  /-- the number by which the producer package names a push under way (R140) -/
  tag : Option Nat := none
  deriving DecidableEq, Repr, Inhabited

/-- A tile in the queue of a pipe: its slot, or its spill slot. -/
structure PipeTile where
  spilled : Bool
  slot : Nat
  /-- reserved by a pop or retained by a task -/
  taken : Bool
  /-- the tile carries poison (R81) -/
  poison : Bool
  deriving DecidableEq, Repr, Inhabited

/-- A pipe's open, closed, exhausted and stopped states (R136). -/
inductive PipeState | opened | closed | exhausted | stopped
  deriving DecidableEq, Repr, Inhabited

/-- A waiting operation at a pipe's home: core, slot, path, arrival, port. -/
structure PipeWait where
  core : Nat
  slot : Nat
  path : Nat
  since : Nat
  port : Nat
  granted : Option (Nat × Bool)
  deriving DecidableEq, Repr, Inhabited

/-- A state change at the home, or at the mirror of a producer package (R136, R184): the core, slot and operation that completes with
it, none when a stage has completed; and whether it has been sent on to the home. -/
structure PipeChange where
  who : Option (Nat × Nat × Nat)
  close : Bool
  sent : Bool := false
  deriving DecidableEq, Repr, Inhabited

/-- What has come for a pipe's home from the producer package (R140): the push is named by its number there. -/
inductive PipeIn
  | line (tag index : Nat) (bytes : List Byte)
  | commit (tags : List Nat)
  | drop (tag : Nat)
  | state (close : Bool)
  deriving DecidableEq, Repr, Inhabited

/-- A pipe of a plan (R129 to R140). -/
structure Pipe where
  fmt : Nat
  useSlot : Bool
  fslot : Nat
  rows : Nat
  cols : Nat
  depth : Nat
  tileBytes : Nat
  lines : Nat
  homeDie : Nat
  slices : Nat
  producer : Nat
  consumer : Nat
  remote : Bool
  /-- on a remote pipe: true when the home is on this package -/
  homeHere : Bool
  remotePkg : Nat
  remotePipe : Nat
  vc : Nat
  free : Nat
  filled : Nat
  spilled : Nat
  /-- credit mirror of a producer package, and the C of the last credit -/
  mirror : Nat
  mirrorFilled : Nat
  state : PipeState := .opened
  slots : NMap PipeSlot := []
  queue : List PipeTile := []
  pushWaits : List PipeWait := []
  popWaits : List PipeWait := []
  changes : List PipeChange := []
  /-- what has come from the producer package, in order, with the reference count of its arrival -/
  inbox : List (PipeIn × Nat) := []
  /-- on a producer package: the C that the home last sampled (R150) -/
  sample : Nat := 0
  /-- a spill in flight: pipe slot, spill slot; and how far it has come: 0 begun, 1 the slot's lines are being read, 2 the tile is
  being written, 3 its writes have been accepted -/
  spill : Option (Nat × Nat) := none
  /-- reference count at which the writes of the spill were all accepted -/
  spillSince : Nat := 0
  spillStep : Nat := 0
  /-- the plan of the other package has ended (R156) -/
  otherEnded : Bool := false
  /-- reference count of the last operation performed by the home (R135) -/
  lastOp : Option Nat := none
  deriving DecidableEq, Repr, Inhabited

/-- A stage of a plan (R144) with its running state. -/
structure Stage0 where
  launch : Nat
  grid : Nat
  maxShare : List Nat
  minShare : List Nat
  initShare : List Nat
  share : List Nat
  /-- cores taken that join the share once their bolts have left (R148) -/
  joining : List Nat
  /-- class of the last samples: 0 neither, 1 starved, 2 pressed, with the count -/
  cls : Nat
  clsCount : Nat
  /-- consecutive blocked periods (R156) -/
  blocked : Nat
  edges : List Nat
  halted : Bool
  done : Bool
  deriving DecidableEq, Repr, Inhabited

/-- States of a plan (06 Table 8). -/
inductive PlanState | waiting | running | stopping | ended
  deriving DecidableEq, Repr, Inhabited

/-- A declared ring or stranded stage of a plan: its stages on this package, the cause, and, if it crosses packages, all its hops from
a crossing on (R156, R157). -/
structure DeclaredRing where
  stages : List Nat
  cause : Nat
  hops : List RingHop := []
  deriving DecidableEq, Repr, Inhabited

/-- A round along the hops of a cross-package ring: the hop at which it began, the hop it has come to, its purpose, and the pipe by
which it came. DEDUCED, log entry 63. -/
structure RingLap where
  hops : List RingHop
  first : Nat
  pos : Nat
  phase : RingPhase
  pipe : Nat
  deriving DecidableEq, Repr, Inhabited

/-- A probe that has arrived (R157): its initiator, the least count, the plan and stage it has come to, and its way. -/
structure Probe where
  pkg : Nat
  stage : Nat
  count : Nat
  plan : Nat
  atStage : Nat
  hops : List RingHop
  deriving DecidableEq, Repr, Inhabited

/-- A plan (R142 to R163). -/
structure Plan where
  queue : Nat
  seq : Nat
  part : Nat
  prio : Nat
  drainStop : Bool
  spillBase : Nat
  spillCtx : Nat
  spillUnits : Nat
  podWindow : Nat
  balance : Bool
  residency : Nat
  hyst : Nat
  fullT : Nat
  emptyT : Nat
  record : Nat
  ctx : Nat
  stages : NMap Stage0
  pipes : NMap Pipe
  sched : NMap Nat
  state : PlanState := .waiting
  stopCause : Nat := 0
  stopOrder : List Nat := []
  stopNow : Option Nat := none
  spillUsed : List Nat := []
  /-- consecutive periods in which an edge has joined two blocked stages, under 64 × from + to (R156) -/
  edgeAge : NMap Nat := []
  /-- rings declared and still to be acted on; the stages of those acted on; the round of the one whose tile is spilled (R156, R158) -/
  declared : List DeclaredRing := []
  acting : List Nat := []
  /-- the event record of its stop, whose writes its end waits for (R162, R463) -/
  finalRecord : Option Nat := none
  spillLap : Option RingLap := none
  /-- rounds of cross-package rings that have come and wait (R157) -/
  laps : List RingLap := []
  /-- reference counts of the last balancer sample and the last deadlock sample -/
  balanced : Option Nat := none
  sampled : Option Nat := none
  /-- tiles discarded when the plan ended (R149) -/
  discarded : Nat := 0
  deriving DecidableEq, Repr, Inhabited

/-- A tile declaration of a launch record (16 Table 6). -/
structure TileDecl where
  entry : Nat
  cols : Nat
  rows : Nat
  size : Nat
  slot : Nat
  useSlot : Bool
  fmt : Nat
  deriving DecidableEq, Repr, Inhabited

/-- A launch record as read (16 Table 5). -/
structure Launch where
  codeBase : Nat := 0
  handler : Nat := 0
  argBase : Nat := 0
  adTable : Nat := 0
  eventArray : Nat := 0
  ctxArea : Nat := 0
  mapCount : Nat := 1
  mapOff : Nat := 0
  stride : Nat := 0
  backing : Nat := 0
  ctx : Nat := 0
  weight : Bool := false
  skeins : Nat := 1
  globals : Nat := 0
  lanes : Nat := 128
  argWords : Nat := 0
  boltQuota : Nat := 0
  accums : Nat := 0
  accQuota : Nat := 0
  tileQuota : Nat := 0
  granQuota : Nat := 0
  entryPc : Nat := 0
  fslots : List Word := []
  handles : List Nat := []
  ranges : List (Nat × Nat) := []
  decls : List TileDecl := []
  args : List Word := []
  /-- frame of the entry kernel -/
  frame : Nat := 8
  deriving DecidableEq, Repr, Inhabited

/-- A stage grid that runs (R379). -/
structure Grid where
  launch : Launch
  queue : Nat
  seq : Nat
  /-- plan number and stage, for a stage of a plan -/
  plan : Option (Nat × Nat)
  part : Nat
  prio : Nat
  started : Nat
  /-- undispatched blocks by die -/
  todo : NMap (List Nat)
  /-- saved bolts: block, die, and the core it must go to -/
  saved : List (Nat × Nat × Option Nat)
  running : Nat
  /-- context, event array, queue and sequence of a block-wise wait (R376) -/
  blockwise : Option (Nat × Nat × Nat × Nat)
  failed : Bool
  stopped : Bool
  boltsStopped : Nat
  done : Bool
  /-- reference count at which its last bolt ended or was parked -/
  lastEnd : Option Nat
  /-- the last reference count at which an undispatched bolt of a stage could have been dispatched (R154) -/
  lastRoom : Option Nat := none
  deriving DecidableEq, Repr, Inhabited

/-- The state of a saved bolt as its context area holds it in the device's own formats (R420, R421). The device alone reads
those formats: the model keeps them as data beside the memory image of the regions the spec lays out. DESIGN CHOICE, log entry 18. -/
structure SavedBolt where
  grid : Nat
  block : Nat
  bolt : Bolt
  skeins : NMap Skein
  decls : NMap TileEntry
  /-- number of the first free byte of its device-private regions -/
  priv : Nat
  /-- reference count at which it was saved (R154) -/
  savedAt : Nat := 0
  /-- its stage has been stopped: its tasks are to be discarded, and it is not restored (R161) -/
  dropping : Bool := false
  /-- the core and bolt number into which it is being restored (R417) -/
  into : Option (Nat × Nat) := none
  deriving DecidableEq, Repr, Inhabited

/-- A work queue entry that has been read (R374). -/
inductive EntryState | waiting | running | done
  deriving DecidableEq, Repr, Inhabited

structure QEntry where
  seq : Nat
  words : List DWord
  state : EntryState
  failed : Bool
  /-- the grid or plan it started -/
  work : Nat
  /-- progress of a copy entry, in bytes -/
  moved : Nat
  /-- fields of the queue descriptor under which it was read (R372) -/
  part : Nat
  prio : Nat
  doneAddr : Nat
  /-- an invalidation that has begun: when, with the number of the next request then, and the entries it dropped; and the requests it
  waits for, once the L1 lines have been written back (R96) -/
  began : Option (Nat × Nat) := none
  dropped : List TlbEntry := []
  waits : Option (List Nat) := none
  deriving DecidableEq, Repr, Inhabited

/-- A work queue (R370 to R373). -/
structure WorkQueue where
  tail : Nat := 0
  head : Nat := 0
  nextSeq : Nat := 1
  entries : List QEntry := []
  completed : Nat := 0
  sticky : Bool := false
  ringBase : Nat := 0
  ringBits : Nat := 0
  part : Nat := 8
  prio : Nat := 0
  doneAddr : Nat := 0
  /-- the value of a write to QTAIL for which the descriptor is being read (R372) -/
  asked : Option Nat := none
  deriving DecidableEq, Repr, Inhabited

/-- A use of a collective group in progress on this package (R178, R251). -/
structure CollUse where
  group : Nat
  gen : Nat
  op : CollOp
  /-- package and block of each member, as the first local member read them -/
  members : List (Nat × Nat)
  channel : Nat
  /-- tiles received from members on other packages -/
  got : List GroupTile
  /-- the members read different descriptors -/
  mismatch : Bool
  deriving DecidableEq, Repr, Inhabited

/-- A transmit key of a UALink port direction (R438): its epoch bit and the flits sealed under it. -/
structure UalKey where
  epoch : Bool
  sealed : Nat
  deriving DecidableEq, Repr, Inhabited

/-- A flit in the replay buffer (R437): as sealed, the sends that failed in a row, and whether it waits to be resent. -/
structure UalSent where
  flit : UalFlit
  epoch : Bool
  fails : Nat
  again : Bool
  deriving DecidableEq, Repr, Inhabited

/-- A flit that has failed to arrive `fails` times, or that has come, and the epoch it was sealed under. -/
structure RxItem where
  epoch : Bool
  flit : UalFlit
  came : Bool
  fails : Nat
  deriving DecidableEq, Repr, Inhabited

/-- A UALink port (R431 to R438). DESIGN CHOICE, log entry 2. -/
structure UalPort where
  up : Bool := false
  failed : Bool := false
  agreementFailed : Bool := false
  roll : Bool := false
  waiting : Bool := false
  keys : List UalKey := []
  /-- receive keys by epoch bit -/
  rxKeys : List Bool := []
  tagFails : Nat := 0
  resends : Nat := 0
  /-- flits that have been refused, or that wait behind one of their channel, in the order of arrival (R432, R437) -/
  rxLine : List RxItem := []
  txQueue : List UalFlit := []
  /-- the replay buffer: sent and not yet acknowledged, oldest first -/
  unacked : List UalSent := []
  slotCount : Nat := 0
  deriving DecidableEq, Repr, Inhabited

/-- A request the device sends to the host (R428): on CXL.cache or as PCIe, and what it asks. -/
inductive HostKind
  /-- a write, sent poisoned or not (EP of R426) -/
  | write (pa : Nat) (bytes : List Byte) (ep : Bool)
  | read (pa len : Nat)
  | atomic (pa : Nat) (a : AtomReq)
  deriving DecidableEq, Repr, Inhabited
structure HostTlp where
  cxl : Bool
  kind : HostKind
  deriving DecidableEq, Repr, Inhabited

/-- An inbound write waiting in the system port (R248): its arrival number, what of it is still to perform, and whether it
carries the relaxed-ordering attribute. -/
structure InboundWrite where
  num : Nat
  pa : Nat
  bytes : List Byte
  relaxed : Bool
  vc : Nat
  /-- it arrived poisoned (EP); its next line request has been sent -/
  ep : Bool := false
  sent : Bool := false
  /-- of a write from the pod: the package that sent it, and its address as it came -/
  src : Nat := 0
  start : Nat := 0
  deriving DecidableEq, Repr, Inhabited

/-- A read or atomic from the pod waiting at the system port. -/
structure InboundRead where
  num : Nat
  msg : PodMsg
  vc : Nat
  /-- the package that asks -/
  src : Nat := 0
  deriving DecidableEq, Repr, Inhabited

/-- A read or an atomic from the host on its way to its slices (R427): its arrival number, address, length, and the atomic. -/
structure HostRead where
  num : Nat
  pa : Nat
  len : Nat
  atomic : Option AtomReq
  deriving DecidableEq, Repr, Inhabited

/-- A data watchpoint (17 Table 4). -/
structure Watch where
  w0 : DWord := 0
  w1 : DWord := 0
  w2 : DWord := 1
  deriving DecidableEq, Repr, Inhabited

/-- Power-up phases (19 Table 1). -/
inductive Phase | verify | calibrate | initialise | ready | failed
  deriving DecidableEq, Repr, Inhabited

/-- Registers of the device register block with a shadow: the value in force and the shadow. -/
structure Shadowed where
  now : DWord
  next : DWord
  deriving DecidableEq, Repr, Inhabited

/-- The device register block and presence of the package (ch. 04, 05, 16 to 19). DESIGN CHOICE, log entry 2. -/
structure Device where
  phase : Phase := .verify
  calLoss : Bool := false
  trip : Bool := false
  cores : BitVec 192 := Config.coresPresent
  slices : BitVec 64 := Config.slicesPresent
  sram : BitVec 4 := Config.sramPresent
  hbmStacks : BitVec 12 := Config.stacksPresent
  second : BitVec 4 := Config.secondPresent
  /-- the second tier's configuration: CXL expanders, else LPDDR6 (R82, 19 Table 2) -/
  secondCxl : Bool := Config.secondIsCxl
  wstore : BitVec 4 := Config.wstorePresent
  cxlCache : Bool := true
  fwstat : DWord := 0
  ctxBase : Nat := 0
  /-- reference count of the CHCOMMIT write that waits to be applied; the other commits likewise -/
  chCommit : Option Nat := none
  chRefused : Bool := false
  slown : Shadowed := ⟨0xFFFFFFFFFFFFFFFF, 0xFFFFFFFFFFFFFFFF⟩
  slqres : Shadowed := ⟨0, 0⟩
  slway : Shadowed := ⟨0xFFFFFFFFFFFFFFFF, 0xFFFFFFFFFFFFFFFF⟩
  adpcfg : Shadowed := ⟨0xFFFFFFFF00000001, 0xFFFFFFFF00000001⟩
  fabCommit : Option Nat := none
  fabRefused : Bool := false
  /-- DLOWN(x, w) under key 32x + w; absent words are unreserved -/
  dlown : NMap Word := []
  dlownNext : NMap Word := []
  qtBase : Nat := 0
  migcfg : DWord := 0x0A5F31
  fltqBase : DWord := 0
  fltqTail : Nat := 0
  fltqHead : Nat := 0
  fltLost : Nat := 0
  evtqBase : DWord := 0
  evtqTail : Nat := 0
  evtqHead : Nat := 0
  evtLost : Nat := 0
  dbgcfg : BitVec 2 := 0
  stopReq : DWord := 0
  watch : NMap Watch := []
  monitor : NMap (DWord × DWord) := []
  dbgsel : DWord := 0
  dbgcmd : Nat := 0
  /-- a Step command has let its skein go on, and has not taken effect yet (R423) -/
  dbgBegun : Bool := false
  dbgRefused : Bool := false
  hostPath : Bool := false
  partClk : NMap DWord := []
  partClkNext : NMap DWord := []
  partCore : NMap (BitVec 192) := []
  partCoreNext : NMap (BitVec 192) := []
  partCommit : Option Nat := none
  partRefused : Bool := false
  ualvcown : Shadowed := ⟨0xFFFFFFFFFFFFFFFF, 0xFFFFFFFFFFFFFFFF⟩
  ualslot : NMap Word := []
  ualslotNext : NMap Word := []
  ualCommit : Option Nat := none
  ualRefused : Bool := false
  grpBase : Nat := 0
  attRequest : Bool := false
  attNonce : NMap DWord := []
  attBuf : Nat := 0
  /-- the writes of the report have been sent (R440) -/
  attSent : Bool := false
  telBase : DWord := 0
  telSeq : DWord := 0
  /-- the next of the three steps of writing the telemetry block, or 0 (R452) -/
  telStep : Nat := 0
  /-- reference count of the last refresh (R449) -/
  refreshed : Option Nat := none
  throttle : Nat := 105
  temps : NMap Nat := []
  pwr : DWord := 0
  energy : DWord := 0
  deriving DecidableEq, Repr, Inhabited

/-- Which path an instruction word acts on, and the group of a STITCH word (R360). DESIGN CHOICE, log entry 9. -/
structure Cursor where
  core : Nat
  slot : Nat
  path : Nat
  lanes : Option LMask
  deriving DecidableEq, Repr, Inhabited

/-- The state of the package. -/
structure State where
  /-- reference count (R101) -/
  clock : Nat
  dev : Device
  /-- bytes of HBM4E, second tier and weight store by physical address; an unlisted address reads 0 (R445) -/
  mem : List Host.Cell
  /-- poisoned 32-byte units by number, ascending (R81) -/
  poison : List Nat
  cores : NMap Core
  slices : NMap Slice
  adCache : List AdChunk
  dies : NMap Die
  channels : NMap Channel
  reqs : List Req
  /-- lines that reads of agents without a register have brought -/
  lines : List AgentLine
  /-- records of the fault and event rings on their way to their slices, oldest first (R412) -/
  records : List RingRecord
  links : NMap DieLink
  /-- context descriptors as the device last read them (R88) -/
  descs : NMap (DWord × DWord)
  queues : NMap WorkQueue
  grids : NMap Grid
  plans : NMap Plan
  savedBolts : List SavedBolt
  /-- plans of other packages that have ended before the plan here that they share a pipe with was read: package, channel, pipe here, side
  (R156) -/
  endNotices : List (Nat × Nat × Nat × Nat)
  collUses : List CollUse
  ports : NMap UalPort
  /-- inbound host-link writes, then inbound UALink writes, reads and atomics (R248) -/
  hostBuf : List InboundWrite
  podBuf : List InboundWrite
  podReads : List InboundRead
  /-- reads and atomics of the host that have not been answered -/
  hostReads : List HostRead
  /-- answers the device gave the host and the pod: bytes of reads, old values of atomics, with their poison bit -/
  hostReplies : List (List Byte × Bool)
  /-- requests the device has sent to the host over the host window, oldest first -/
  hostSent : List HostTlp
  snoops : Nat
  /-- MSI-X vectors raised, oldest first (R430) -/
  msix : List Nat
  /-- probes that have arrived and not been taken (R157) -/
  probes : List Probe
  /-- credits that have arrived for pipes of this package's producer stages: package, virtual channel, pipe, C (R140) -/
  credits : List (Nat × Nat × Nat × Nat)
  /-- the model's own: which path an instruction word acts on, which agents move next, fresh numbers -/
  cur : Option Cursor
  schedule : List Move
  moves : Nat
  freeCtr : Nat
  nextId : Nat
  deriving DecidableEq, Repr, Inhabited

/-- The state when reset is released (R445): phase Verify, every counter at zero, no work, nothing cached. DESIGN CHOICE, log entry 1. DESIGN CHOICE, log entry 2. -/
def State.reset : State :=
  { clock := 0, dev := {}, mem := [], poison := [], cores := [], slices := [], adCache := [], dies := [], channels := []
    reqs := [], lines := [], records := [], links := [], descs := [], queues := [], grids := [], plans := [], savedBolts := [], endNotices := [], collUses := [], ports := []
    hostBuf := [], podBuf := [], podReads := [], hostReads := [], hostReplies := [], hostSent := [], snoops := 0, msix := [], probes := []
    credits := []
    cur := none, schedule := [], moves := 0, freeCtr := 0, nextId := 1 }

end Sys2Proof.Machine
end

