-- ==== Sys2Proof/Machine/Bits.lean ====
section
/-! DEFINITION. Sets of lanes, bytes of a line, and vector registers as lists: the small operations every meaning shares. -/

namespace Sys2Proof.Machine

/-- The number of `n` bits whose bit i is `f i`. -/
def bitsOf : (n : Nat) → (Nat → Bool) → BitVec n
  | 0, _ => 0#0
  | n + 1, f => BitVec.cons (f n) (bitsOf n f)

/-- The lane set of a predicate. -/
def lmask (f : Nat → Bool) : LMask := bitsOf 128 f
/-- All 128 lanes. -/
def allLanes : LMask := BitVec.allOnes 128
/-- The numbers 0 to 127, ascending. -/
def laneList : List Nat := List.range 128
/-- The lanes of a set, ascending. -/
def lanesOf (m : LMask) : List Nat := laneList.filter (fun l => m.getLsbD l)
/-- The lowest lane of a set (0 for none). -/
def lowest (m : LMask) : Nat := (lanesOf m).headD 0
/-- `a` without `b`. -/
def without (a b : LMask) : LMask := a &&& ~~~b
/-- `a` is contained in `b`. -/
def within (a b : LMask) : Bool := decide (a &&& ~~~b = 0)
/-- The set holding one lane. -/
def oneLane (l : Nat) : LMask := BitVec.ofNat 128 (2 ^ l)
/-- The number of lanes of a set. -/
def laneCount (m : LMask) : Nat := (lanesOf m).length

/-- The word of lane `l`. -/
def vlane (v : VReg) (l : Nat) : Word := v.getD l 0
/-- The register whose lanes in `act` come from `new` and whose other lanes keep `old` (R9). -/
def vmerge (act : LMask) (old : VReg) (new : Nat → Word) : VReg :=
  laneList.map (fun l => if act.getLsbD l then new l else vlane old l)
/-- The register of a function of the lane. -/
def vofFn (f : Nat → Word) : VReg := laneList.map f

/-- The bits of the bytes that a byte mask names. -/
def byteMask (m : LMask) : LineData := bitsOf 1024 (fun i => m.getLsbD (i / 8))
/-- `old` with the bytes of `m` taken from `new`. -/
def mergeLine (old : LineData) (m : LMask) (new : LineData) : LineData :=
  (old &&& ~~~byteMask m) ||| (new &&& byteMask m)
/-- Byte `b` of a line. -/
def lineByte (d : LineData) (b : Nat) : Byte := d.extractLsb' (8 * b) 8
/-- `n` bytes of a line from byte `b`, lowest first. -/
def lineBytes (d : LineData) (b n : Nat) : List Byte := (List.range n).map (fun i => lineByte d (b + i))
/-- The line whose bytes from `b` are `bs`, other bytes zero. -/
def lineOf (b : Nat) (bs : List Byte) : LineData := BitVec.ofNat 1024 (leNat bs * 2 ^ (8 * b))
/-- The mask of `n` bytes from byte `b`. -/
def maskBytes (b n : Nat) : LMask := BitVec.ofNat 128 ((2 ^ n - 1) * 2 ^ b)
/-- `n` bytes from byte `b` of a line as a number. -/
def lineNat (d : LineData) (b n : Nat) : Nat := d.toNat / 2 ^ (8 * b) % 2 ^ (8 * n)

/-- The 32-byte units of a line that a byte mask covers completely (R81). -/
def unitsCovered (m : LMask) : BitVec 4 := bitsOf 4 (fun u => decide (m.extractLsb' (32 * u) 32 = BitVec.allOnes 32))
/-- The 32-byte units of a line that a byte mask touches. -/
def unitsTouched (m : LMask) : BitVec 4 := bitsOf 4 (fun u => decide (m.extractLsb' (32 * u) 32 ≠ 0))

/-- Ascending list of numbers: insert. -/
def sortedInsert (n : Nat) : List Nat → List Nat
  | [] => [n]
  | k :: r => if n < k then n :: k :: r else if n = k then k :: r else k :: sortedInsert n r
/-- Stable insertion sort by a key. -/
def insertBy {α : Type} (f : α → Nat) (a : α) : List α → List α
  | [] => [a]
  | b :: r => if f a < f b then a :: b :: r else b :: insertBy f a r
def sortBy {α : Type} (f : α → Nat) (l : List α) : List α := l.foldl (fun acc a => insertBy f a acc) []
/-- The first element with the least key. -/
def leastBy {α : Type} (f : α → Nat) : List α → Option α
  | [] => none
  | a :: r => match leastBy f r with
    | none => some a
    | some b => if f a ≤ f b then some a else some b
/-- The list without repeats, first occurrences kept. -/
def dedup {α : Type} [DecidableEq α] (l : List α) : List α :=
  l.foldl (fun acc a => if a ∈ acc then acc else acc ++ [a]) []
/-- Replace the elements that satisfy `p`. -/
def mapIf {α : Type} (p : α → Bool) (f : α → α) (l : List α) : List α := l.map (fun a => if p a then f a else a)
/-- The position of the first element that satisfies `p`. -/
def findIdx? {α : Type} (p : α → Bool) : List α → Option Nat
  | [] => none
  | a :: r => if p a then some 0 else (findIdx? p r).map (· + 1)
/-- Ceiling division. -/
def cdiv (a b : Nat) : Nat := (a + b - 1) / b
/-- Bits `lo` to `lo + n - 1` of a number. -/
def field (x lo n : Nat) : Nat := x / 2 ^ lo % 2 ^ n
/-- Bit `i` of a number. -/
def bitAt (x i : Nat) : Bool := decide (x / 2 ^ i % 2 = 1)
/-- Update a map entry that exists. -/
def nupdate {α : Type} (m : NMap α) (n : Nat) (f : α → α) : NMap α :=
  m.map (fun e => if e.1 = n then (e.1, f e.2) else e)

end Sys2Proof.Machine
end

