-- ==== Sys2Proof/Machine/Mem.lean ====
section
/-! DEFINITION. Physical memory: the byte store and its canonical form, the physical map, the home slice and channel of an
address, poison, slice tags, the write stamp, and the records a slice write can cause (spec/04, spec/05, spec/17 R411 to R414). -/

namespace Sys2Proof.Machine

/-- The byte at an address; an unlisted address reads 0 (R445). DESIGN CHOICE, log entry 3. -/
def memGet (m : List Host.Cell) (a : Nat) : Byte :=
  match m with
  | [] => 0
  | (k, b) :: r => if k = a then b else memGet r a

/-- Memory without a listed address. -/
def memErase (m : List Host.Cell) (a : Nat) : List Host.Cell :=
  match m with
  | [] => []
  | (k, b) :: r => if k = a then memErase r a else (k, b) :: memErase r a

/-- Memory with a nonzero byte listed at an address. -/
def memPut (m : List Host.Cell) (a : Nat) (v : Byte) : List Host.Cell :=
  match m with
  | [] => [(a, v)]
  | (k, b) :: r => if k < a then (k, b) :: memPut r a v else if k = a then (a, v) :: r else (a, v) :: (k, b) :: r

/-- Memory with one byte written; writing 0 removes the entry. DESIGN CHOICE, log entry 3. -/
def memSet (m : List Host.Cell) (a : Nat) (v : Byte) : List Host.Cell :=
  if v = 0 then memErase m a else memPut m a v

/-- The canonical form: addresses strictly rising from `lo`, no entry equal to what an unlisted address reads as. -/
def memWfFrom (lo : Nat) : List Host.Cell → Bool
  | [] => true
  | (k, b) :: r => decide (lo ≤ k) && decide (b ≠ 0) && memWfFrom (k + 1) r
/-- The canonical form of memory. DESIGN CHOICE, log entry 3. -/
def Memory.wf (m : List Host.Cell) : Bool := memWfFrom 0 m

/-- `n` bytes from an address. -/
def memBytes (m : List Host.Cell) (a n : Nat) : List Byte := (List.range n).map (fun i => memGet m (a + i))
/-- Write a list of bytes from an address. -/
def memWrite (m : List Host.Cell) (a : Nat) (bs : List Byte) : List Host.Cell :=
  match bs with
  | [] => m
  | b :: r => memWrite (memSet m a b) (a + 1) r
/-- Write the masked bytes of a line. -/
def memWriteMask (m : List Host.Cell) (line : Nat) (mask : LMask) (d : LineData) : List Host.Cell :=
  (lanesOf mask).foldl (fun m b => memSet m (128 * line + b) (lineByte d b)) m

/-- What stands at a physical address (R77, R79). -/
inductive Region | hbm (die : Nat) | second (die : Nat) | wstore (die off : Nat) | regs (off : Nat) | host
  | pod (pkg addr : Nat) | hole
  deriving DecidableEq, Repr, Inhabited

/-- The physical map of R77 (Table 1), with the weight store beyond 192 MiB a hole (R78). -/
def regionOf (pa : Nat) : Region :=
  if pa < 0xC000000000 then .hbm (pa / 0x3000000000)
  else if pa < 0x10000000000 then .hole
  else if pa < 0x20000000000 then .second ((pa - 0x10000000000) / 0x4000000000)
  else if pa < 0x20040000000 then
    (if (pa - 0x20000000000) % 0x10000000 < 0xC000000 then
      .wstore ((pa - 0x20000000000) / 0x10000000) ((pa - 0x20000000000) % 0x10000000) else .hole)
  else if pa < 0x2000000000000 then .hole
  else if pa < 0x2000001000000 then .regs (pa - 0x2000000000000)
  else if pa < 0x4000000000000 then .hole
  else if pa < 0x8000000000000 then .host
  else if pa < 0x10000000000000 then .pod ((pa - 0x8000000000000) / 0x20000000000) (pa % 0x20000000000)
  else .hole

/-- The weight-store aperture, with its parts beyond 192 MiB (R77, R78). -/
def inAperture (pa : Nat) : Bool := decide (0x20000000000 ≤ pa) && decide (pa < 0x20040000000)
/-- The memory of the region is present (R78, R79, R448). -/
def regionPresent (s : State) (pa : Nat) : Bool :=
  match regionOf pa with
  | .hbm d => s.dev.hbmStacks.getLsbD (3 * d + pa % 0x3000000000 / 0x1000000000)
  | .second d => s.dev.second.getLsbD d
  | .wstore d _ => s.dev.wstore.getLsbD d
  | .regs _ | .host => true
  | .pod pkg addr => decide (pkg ≤ 575) && (decide (addr < 0xC000000000) || (decide (0x10000000000 ≤ addr) && decide (addr < 0x20000000000)))
  | .hole => false

/-- HBM4E or second tier: the lines that slices hold (R106). -/
def isMain (pa : Nat) : Bool := match regionOf pa with | .hbm _ | .second _ => true | _ => false
/-- The home die of an address of HBM4E or of the second tier (R106). -/
def homeDie (pa : Nat) : Nat := match regionOf pa with | .hbm d | .second d => d | .wstore d _ => d | _ => 0

/-- The fold of R107 step 1 over the line number. -/
def fold107 (pa : Nat) : Nat := (List.range 10).foldl (fun a j => a ^^^ (pa / 2 ^ (7 + 4 * j) % 16)) 0
/-- The order in which R107 step 2 tries slices. -/
def order107 : List Nat := [0, 8, 4, 12, 2, 10, 6, 14, 1, 9, 5, 13, 3, 11, 7, 15]
/-- The slice of a die that stands for an index: the first present of R107 step 2. -/
def pickSlice (s : State) (die idx : Nat) : Nat :=
  (order107.find? (fun m => s.dev.slices.getLsbD (16 * die + (idx ^^^ m)))).elim idx (fun m => idx ^^^ m)
/-- The package number of the home slice of an address (R106, R107, R14). -/
def homeSlice (s : State) (pa : Nat) : Nat := 16 * homeDie pa + pickSlice s (homeDie pa) (fold107 pa)

/-- The package channel number of an HBM4E address (R80). -/
def channelOf (pa : Nat) : Nat :=
  let o := pa % 0x3000000000
  let u := o % 0x1000000000
  96 * (pa / 0x3000000000) + 32 * (o / 0x1000000000) +
    (field u 8 5 ^^^ field u 13 5 ^^^ field u 18 5 ^^^ field u 23 5 ^^^ field u 28 5 ^^^ field u 33 3)

/-- The die of a core (R14). -/
def dieOf (core : Nat) : Nat := core / 48
/-- The cluster of a core within its die: its request port (R14, R108). -/
def portOf (core : Nat) : Nat := core % 48 / 4
/-- The partition of a core, or 8 (R24, R442). -/
def partOf (s : State) (core : Nat) : Nat :=
  ((List.range 8).find? (fun p => ((NMap.get? s.dev.partClk p).getD 0x9000).getLsbD 0 &&
    ((NMap.get? s.dev.partCore p).getD 0).getLsbD core)).getD 8

/-- The bytes of a line at its home (R113). -/
def lineRead (s : State) (line : Nat) : LineData := BitVec.ofNat 1024 (leNat (memBytes s.mem (128 * line) 128))
/-- The poisoned 32-byte units of a line (R81). -/
def linePoison (s : State) (line : Nat) : BitVec 4 := bitsOf 4 (fun u => decide (4 * line + u ∈ s.poison))

/-- Ways of each slice of a die (R104, R105). -/
def waysOf (s : State) (die : Nat) : Nat := if s.dev.sram.getLsbD die then 16 else 8
/-- Ways that hold general lines (R119). -/
def generalWays (s : State) (die : Nat) : Nat :=
  if s.dev.adpcfg.now.getLsbD 0 then waysOf s die - 2 else waysOf s die
/-- Nibble `i` of an owner word. -/
def nibble (x i : Nat) : Nat := x / 16 ^ i % 16
/-- The ways in which an owner may allocate (R116). -/
def allowedWays (s : State) (die owner : Nat) : List Nat :=
  let w := s.dev.slway.now.toNat
  let all := List.range (generalWays s die)
  let own := all.filter (fun i => nibble w i = owner)
  if owner < 8 ∧ own ≠ [] then own else all.filter (fun i => nibble w i = 15)

/-- The slice record of a package slice. -/
def sliceOf (s : State) (n : Nat) : Slice := NMap.getD s.slices n {}
def setSlice (s : State) (n : Nat) (sl : Slice) : State := { s with slices := NMap.insert s.slices n sl }
/-- The way that holds a line, as 16 × set + way. -/
def sliceFind (sl : Slice) (line : Nat) : Option Nat := (sl.lines.find? (fun e => e.2.line = line)).map Prod.fst
/-- The way of a set that a new line of an owner takes (R104): a free one, else the first victim, else the least recent. -/
def sliceVictim (s : State) (n owner line : Nat) : Option Nat :=
  let sl := sliceOf s n
  let set := line % 8192
  let ways := ((allowedWays s (n / 16) owner).map (fun w => 16 * set + w)).filter (fun k => (NMap.get? sl.pins k).isNone)
  match ways.find? (fun k => (NMap.get? sl.lines k).isNone) with
  | some k => some k
  | none => leastBy (fun k => match NMap.get? sl.lines k with
      | some l => if l.firstVictim then 0 else l.used + 1
      | none => 0) ways
/-- Whether a policy allocates on a miss (R171). -/
def CPolAlloc : CPol → Bool | .byp => false | _ => true
/-- Write back the victim of a way (R104, R116). DEDUCED, log entry 38. -/
def evictWay (s : State) (n k : Nat) : State :=
  let sl := sliceOf s n
  match NMap.get? sl.lines k with
  | none => s
  | some l =>
    let s := setSlice s n { sl with lines := NMap.erase sl.lines k }
    match regionOf (128 * l.line) with
    | .hbm _ =>
      if l.dirty then
        let c := channelOf (128 * l.line)
        { s with channels := NMap.insert s.channels c { NMap.getD s.channels c {} with victims := (NMap.getD s.channels c {}).victims ++ [(l.owner, l.line, s.clock)] } }
      else s
    | _ => s
/-- A way is to be pinned: the line it holds leaves, once its victim can be held (R116). -/
def clearWay (s : State) (n k : Nat) : State :=
  match NMap.get? (sliceOf s n).lines k with
  | none => s
  | some l =>
    let waiting := (s.channels.flatMap (fun c => c.2.victims)).filter (fun v => decide (v.1 = l.owner) && decide (homeSlice s (128 * v.2.1) = n))
    if l.dirty ∧ 16 ≤ waiting.length then s else evictWay s n k
/-- The way holds no line. -/
def wayClear (s : State) (n k : Nat) : Bool := (NMap.get? (sliceOf s n).lines k).isNone
/-- Access a line at its home slice's tags: recency, policy, allocation (R104, R171). Answers the way, if the line is held after. -/
def sliceTouch (s : State) (line owner : Nat) (pol : CPol) (write : Bool) : Option Nat × State :=
  let n := homeSlice s (128 * line)
  let sl := sliceOf s n
  match sliceFind sl line with
  | some k =>
    let fv := fun (l : SliceLine) => match pol with | .strm => true | .byp => l.firstVictim | _ => false
    let sl := { sl with recency := sl.recency + 1, lines := nupdate sl.lines k (fun l => { l with used := (match pol with | .byp => l.used | _ => sl.recency + 1), firstVictim := fv l, dirty := l.dirty || write }) }
    (some k, setSlice s n sl)
  | none =>
    if CPolAlloc pol then
      match sliceVictim s n owner line with
      | none => (none, s)
      | some k =>
        let s := evictWay s n k
        let sl := sliceOf s n
        let nl : SliceLine := { line := line, dirty := write, used := sl.recency + 1, firstVictim := (match pol with | .keep => false | _ => true), owner := owner }
        (some k, setSlice s n { sl with recency := sl.recency + 1, lines := NMap.insert sl.lines k nl })
    else (none, s)

/-- The MSI-X vectors raised (R430). -/
def raiseMsix (s : State) (v : Nat) : State := { s with msix := s.msix ++ [v] }

/-- Poison marks after a masked write: a unit written whole is cleared (R81). -/
def poisonAfter (p : List Nat) (line : Nat) (mask : LMask) : List Nat :=
  p.filter (fun u => !(decide (u / 4 = line) && (unitsCovered mask).getLsbD (u % 4)))
/-- What the requests for a line still read there says nothing of the units that a write covers whole (R81). -/
def coverUnits (l : List Req) (line : Nat) (mask : LMask) : List Req :=
  mapIf (fun (q : Req) => decide (q.line = line) && q.pipe.isNone) (fun q => { q with fresh := q.fresh ||| unitsCovered mask }) l
/-- The value effect of a masked write at its home (R81, R104, R113). -/
def rawWrite (s : State) (line : Nat) (mask : LMask) (d : LineData) : State :=
  { s with mem := memWriteMask s.mem line mask d, poison := poisonAfter s.poison line mask, reqs := coverUnits s.reqs line mask }

/-- Send a request to the host on the path HOSTCFG selects (R428); atomics always travel over CXL.io or PCIe. -/
def hostSend (s : State) (k : HostKind) : State :=
  let cxl := match k with
    | .atomic _ _ => false
    | _ => s.dev.hostPath && s.dev.cxlCache
  { s with hostSent := s.hostSent ++ [⟨cxl, k⟩] }

/-! Requests (R106, R108). -/

/-- Put a request for a line at the request port of its sender (R106, R108, R466). Host-window lines are ordered at a slice of
the requesting die; pod-window lines leave the package. -/
def postReq (s : State) (kind : ReqKind) (who : ReqOwner) (line : Nat) (pol : CPol) (owner die port : Nat) : Nat × State :=
  let pa := 128 * line
  let hd := if isMain pa then homeDie pa else die
  let id := s.nextId
  let r : Req :=
    { id := id, kind := kind, who := who, line := line, policy := pol, owner := owner, die := die, port := port, homeDie := hd
      homeSlice := 16 * hd + pickSlice s hd (fold107 pa), stage := .port, since := s.clock, reservedEntry := false, way := 0
      rdata := 0, rpoison := 0, rold := 0, stamp := 0 }
  (id, { s with reqs := s.reqs ++ [r], nextId := id + 1 })
def reqOf (s : State) (id : Nat) : Option Req := s.reqs.find? (fun r => r.id = id)
def updReq (s : State) (id : Nat) (f : Req → Req) : State := { s with reqs := mapIf (fun r => r.id = id) f s.reqs }
def dropReq (s : State) (id : Nat) : State := { s with reqs := s.reqs.filter (fun r => r.id ≠ id) }
/-- Cut bytes at line boundaries. -/
def lineCuts (pa : Nat) (bs : List Byte) : Nat → List (Nat × List Byte)
  | 0 => []
  | k + 1 => if bs = [] then [] else
    (pa, bs.take (128 - pa % 128)) :: lineCuts (pa + (128 - pa % 128)) (bs.drop (128 - pa % 128)) k
/-- An address that a line request may name: memory behind slices, the host window or the pod window (R106). -/
def behindSlices (pa : Nat) : Bool := match regionOf pa with | .hbm _ | .second _ | .host | .pod _ _ => true | _ => false
/-- An agent without a store queue writes bytes within one line (spills, records, copies): a request of its port to the line's
home slice, in the slots of its owner (R84, R106, R108, R114). -/
def engineWrite (s : State) (who : ReqOwner) (die port owner : Nat) (pol : CPol) (pa : Nat) (bs : List Byte) : State :=
  if behindSlices pa && regionPresent s pa then
    (postReq s (.write (maskBytes (pa % 128) bs.length) (lineOf (pa % 128) bs)) who (pa / 128) pol owner die port).2
  else s
/-- The same, with poison: the poisoned units of the bytes travel with them (R81). -/
def engineWriteP (s : State) (who : ReqOwner) (die port owner : Nat) (pol : CPol) (pa : Nat) (bs : List Byte) (bad : BitVec 4) : State :=
  let id := s.nextId
  updReq (engineWrite s who die port owner pol pa bs) id (fun r => { r with rpoison := bad })
/-- Units of a line become poisoned (R81). -/
def addPoison (s : State) (line : Nat) (bad : BitVec 4) : State :=
  { s with poison := (List.range 4).foldl (fun p u => if bad.getLsbD u then sortedInsert (4 * line + u) p else p) s.poison }
/-- Write bytes of several lines at consecutive physical addresses. -/
def engineWrites (s : State) (who : ReqOwner) (die port owner : Nat) (pa : Nat) (bs : List Byte) : State :=
  (lineCuts pa bs (bs.length + 1)).foldl (fun s e => engineWrite s who die port owner .keep e.1 e.2) s

/-- The number of records of a ring, or none when none are written (R412). -/
def ringSize (base : DWord) : Option Nat :=
  let n := base.toNat % 32
  if 4 ≤ n ∧ n ≤ 16 then some (2 ^ n) else none
/-- The base address of a ring (R412). -/
def ringBase (base : DWord) : Nat := base.toNat / 4096 % 2 ^ 40 * 4096
/-- Bytes of a list of 64-bit words. -/
def wordBytes (ws : List DWord) : List Byte := ws.flatMap (fun w => leBytes 8 w.toNat)

/-- One byte of the CRC-64 of the ECMA-182 polynomial (R421). DEDUCED, log entry 91. -/
def crcByte (c : Nat) (b : Byte) : Nat :=
  (List.range 8).foldl (fun c _ => if 2 ^ 63 ≤ c then (2 * c % 2 ^ 64) ^^^ 0x42F0E1EBA9EA3693 else 2 * c) (c ^^^ (b.toNat * 2 ^ 56))
/-- The CRC-64 of a list of bytes (R421). DEDUCED, log entry 91. -/
def crc64 (bs : List Byte) : Nat := bs.foldl crcByte 0
/-- A region of the device's own format ends in its check word (R421). DEDUCED, log entry 91. -/
def withCheck (bs : List Byte) : List Byte := bs ++ leBytes 8 (crc64 bs)
/-- The check word of a region holds (R421). DEDUCED, log entry 91. -/
def checkOk (bs : List Byte) : Bool := decide (leNat (bs.drop (bs.length - 8)) = crc64 (bs.take (bs.length - 8)))

/-- The requests of an agent that have not been accepted at their slices (R112). -/
def Req.onWay (r : Req) : Bool :=
  match r.stage with | .port | .net1 | .net2 | .egress | .link | .ingress | .home1 | .home2 => true | _ => false
/-- Units of a ring's records that are not yet in its tail. DESIGN CHOICE, log entry 77. -/
def ringPending (s : State) (fault : Bool) : Nat := ((s.records.filter (fun r => r.fault == fault)).map RingRecord.units).sum
/-- The tail of a ring passes each of its records whose writes are all accepted, in order, and raises the ring's MSI-X vector (R412,
R430). DESIGN CHOICE, log entry 77. -/
def settleRecords (s : State) : Nat → State
  | 0 => s
  | k + 1 =>
    match s.records.find? (fun r => decide (r.left = 0) && decide (((s.records.find? (fun q => q.fault == r.fault)).map RingRecord.id) = some r.id)) with
    | none => s
    | some r =>
      let s := { s with records := s.records.filter (fun q => q.id ≠ r.id) }
      let d := s.dev
      let s := if r.fault then { s with dev := { d with fltqTail := (d.fltqTail + r.units) % 2 ^ 32 } }
        else { s with dev := { d with evtqTail := (d.evtqTail + r.units) % 2 ^ 32 } }
      settleRecords (raiseMsix s (if r.fault then 0 else 1)) k
/-- A write of a record has been accepted (R412). DESIGN CHOICE, log entry 77. -/
def recordAccepted (s : State) (id : Nat) : State :=
  let s := { s with records := mapIf (fun (r : RingRecord) => r.id = id) (fun r => { r with left := r.left - 1 }) s.records }
  settleRecords s (s.records.length + 1)
/-- Write the units of a record of a ring: each is a request of the system port to its slice; the tail follows their acceptance (R412).
A record that does not fit is dropped and counted. DESIGN CHOICE, log entry 77. -/
def ringRecord (s : State) (fault : Bool) (units : List (List DWord)) : State :=
  let d := s.dev
  let base := if fault then d.fltqBase else d.evtqBase
  let tail := (if fault then d.fltqTail else d.evtqTail) + ringPending s fault
  match ringSize base with
  | none => s
  | some n =>
    if (tail + units.length + 2 ^ 32 - (if fault then d.fltqHead else d.evtqHead)) % 2 ^ 32 > n then
      if fault then { s with dev := { d with fltLost := min (d.fltLost + 1) (2 ^ 32 - 1) } }
      else { s with dev := { d with evtLost := min (d.evtLost + 1) (2 ^ 32 - 1) } }
    else
      let id := s.nextId
      let places := (units.zip (List.range units.length)).map (fun u => (ringBase base + 64 * ((tail + u.2) % n), wordBytes u.1))
      let reach := places.filter (fun e => behindSlices e.1 && regionPresent s e.1)
      let s := { s with nextId := id + 1, records := s.records ++ [⟨id, fault, units.length, reach.length⟩] }
      let s := reach.foldl (fun s e => engineWrite s (.agent (.record id)) 0 15 8 .keep e.1 e.2) s
      settleRecords s (s.records.length + 1)
/-- Write a fault record of eight words (R412, R413). -/
def faultRecord (s : State) (ws : List DWord) : State := ringRecord s true [ws]
/-- Write an event record of several 64-byte units (R412, R414). -/
def eventUnits (s : State) (units : List (List DWord)) : State := ringRecord s false units
/-- The first unit of an event record (R414): header, then the payload words 0x18 to 0x38. -/
def eventHead (s : State) (ty cause units q seq : Nat) (payload : List Nat) : List DWord :=
  [BitVec.ofNat 64 (ty * 2 ^ 56 + cause % 256 * 2 ^ 48 + units * 2 ^ 40), BitVec.ofNat 64 (q * 2 ^ 48 + seq), BitVec.ofNat 64 s.clock] ++
    (List.range 5).map (fun i => BitVec.ofNat 64 (payload.getD i 0))
/-- A one-unit event record (R414). -/
def eventRecord (s : State) (ty cause q seq : Nat) (payload : List Nat) : State :=
  eventUnits s [eventHead s ty cause 1 q seq payload]

/-- The stamp a slice gives the next write it accepts (R114). -/
def nextStamp (n seq : Nat) : DWord := BitVec.ofNat 64 (n * 2 ^ 58 + (seq + 1) % 2 ^ 48)
/-- The address monitor of R411: an event record for each range that holds the line. DEDUCED, log entry 30. -/
def monitorWrite (s : State) (line n port : Nat) (stamp : DWord) : State :=
  (List.range 4).foldl (fun s j =>
    let m := NMap.getD s.dev.monitor j (0, 0)
    let b := m.1.toNat / 128 % 2 ^ 45
    if m.1.getLsbD 0 && decide (b ≤ line) && decide (line < b + m.2.toNat % 2 ^ 32) then
      eventRecord s 7 j 0 0 [stamp.toNat, port + 256 * n, 128 * line]
    else s) s
/-- A slice accepts a write: the value effect, the stamp, the monitor (R104, R113, R114, R411). DEDUCED, log entry 30. -/
def sliceWrite (s : State) (line : Nat) (mask : LMask) (d : LineData) (port : Nat) : DWord × State :=
  let n := homeSlice s (128 * line)
  let sl := sliceOf s n
  let stamp := nextStamp n sl.seq
  let s := rawWrite (setSlice s n { sl with seq := (sl.seq + 1) % 2 ^ 48 }) line mask d
  (stamp, monitorWrite s line n port stamp)

/-- Read bytes at a physical address in the value store. -/
def devRead (s : State) (pa n : Nat) : List Byte := memBytes s.mem pa n

end Sys2Proof.Machine
end

