-- ==== Sys2Proof/Machine/Translate.lean ====
section
/-! DEFINITION. Virtual addresses, translation contexts, the table walk, the translation caches and the permitted uses of each
page type (spec/04 R87 to R94, R474). -/

namespace Sys2Proof.Machine

/-- Trap codes of 17 Table 1 that address checks raise. -/
def tcNonCanonical : Nat := 0x18
def tcHole : Nat := 0x1C
def tcTranslation : Nat := 0x1D
def tcTableFormat : Nat := 0x1E
def tcPermission : Nat := 0x1F
def tcMemory : Nat := 0x20

/-- Bits [63:57] equal bit 56 (R87). -/
def canonical (a : Nat) : Bool := decide (a / 2 ^ 56 % 256 = 0) || decide (a / 2 ^ 56 % 256 = 255)
/-- The 57-bit virtual address of a 64-bit value (R87). -/
def va57 (a : Nat) : Nat := a % 2 ^ 57

/-- A translated address with its page type. -/
structure Xl where
  pa : Nat
  type : Nat
  deriving DecidableEq, Repr, Inhabited

/-- Free bytes for what stands outside the package (host memory, other packages): numbered by the state's counter. DESIGN CHOICE, log entry 17. -/
def freeBytes (s : State) (n : Nat) : List Byte × State :=
  ((List.range n).map (fun i => Config.freeByte (s.freeCtr + i)), { s with freeCtr := s.freeCtr + n })
/-- The page size of a leaf at a level (04 Table 4). -/
def pageSize (level : Nat) : Nat := if level = 1 then 2 ^ 30 else if level = 2 then 2 ^ 21 else 2 ^ 16
/-- The index of an address at a level (04 Table 4). -/
def levelIndex (va level : Nat) : Nat :=
  if level = 0 then field va 39 18 else if level = 1 then field va 30 9 else if level = 2 then field va 21 9 else field va 16 5
/-- The part of an address that tags a walk-cache entry of a level. -/
def levelTag (va level : Nat) : Nat := if level = 0 then va / 2 ^ 39 else if level = 1 then va / 2 ^ 30 else va / 2 ^ 21

/-- A context descriptor passes the checks of R88. -/
def descOk (d : DWord × DWord) : Bool :=
  d.1.getLsbD 0 && decide (field d.1.toNat 1 5 ≤ 18) && decide (field d.1.toNat 6 2 = 0) && decide (field d.1.toNat 52 12 = 0) &&
  decide (field d.2.toNat 0 4 ≤ 8) && decide (d.2.toNat / 16 = 0)
/-- The partition field of a descriptor. -/
def descPart (d : DWord × DWord) : Nat := field d.2.toNat 0 4
/-! Lines that agents read (R106, R108). -/

/-- A line for an agent: what its request has brought; else the request is made, and there is nothing yet. What stands behind no slice
is read at once. DESIGN CHOICE, log entry 76. -/
def lineGet (s : State) (a : Agent) (pa die port owner : Nat) (pol : CPol := .keep) : Option (LineData × BitVec 4) × State :=
  match s.lines.find? (fun l => decide (l.agent = a) && decide (l.line = pa / 128)) with
  | some l => (some (l.data, l.poison), s)
  | none =>
    if behindSlices pa then
      if s.reqs.any (fun r => decide (r.who = .agent a) && decide (r.line = pa / 128) && (match r.kind with | .read _ => true | _ => false)) then (none, s)
      else (none, (postReq s (.read allLanes) (.agent a) (pa / 128) pol owner die port).2)
    else (some (lineRead s (pa / 128), linePoison s (pa / 128)), s)
/-- An agent has what it needed: the lines it read and the faults its walks left are forgotten, and what is still on its way comes to
nobody. -/
def endAgent (s : State) (a : Agent) : State :=
  { s with lines := s.lines.filter (fun l => decide (l.agent ≠ a))
           reqs := mapIf (fun (r : Req) => decide (r.who = .agent a) && (match r.kind with | .read _ | .slotRead _ _ => true | _ => false)) (fun r => { r with who := .system }) s.reqs
           dies := s.dies.map (fun e => (e.1, { e.2 with walkFaults := e.2.walkFaults.filter (fun f => decide (f.agent ≠ a))
                                                         walks := mapIf (fun w => w.agent = a) (fun w => { w with agent := .walk w.id }) e.2.walks })) }
/-- The agent that reads a structure, and the owner of its requests (R84). -/
abbrev Reader := Agent × Nat
/-- Bytes within one line, read by requests; nothing while they are on their way. DESIGN CHOICE, log entry 76. -/
def readIn (s : State) (rd : Reader) (die pa n : Nat) : Option (List Byte) × State :=
  match lineGet s rd.1 pa die 15 rd.2 with
  | (some (d, _), s) => (some ((List.range n).map (fun i => lineByte d (pa % 128 + i))), s)
  | (none, s) => (none, s)
/-- The device's physical read of a structure: the bytes, or nothing while they are on their way. -/
def readOut (s : State) (rd : Reader) (die pa : Nat) (n : Nat) : Nat → Option (List Byte) × State
  | 0 => (some [], s)
  | k + 1 =>
    if n = 0 then (some [], s) else
    let here := min n (128 - pa % 128)
    let (x, s) := readIn s rd die pa here
    let (y, s) := readOut s rd die (pa + here) (n - here) k
    (x.bind (fun a => y.map (fun b => a ++ b)), s)

/-! Descriptors and walks. -/

/-- Read a descriptor from the context table (R88): a table in absent memory holds none. DEDUCED, log entry 23. DEDUCED, log entry 24. -/
def readDesc (s : State) (rd : Reader) (die ctx : Nat) : Option (DWord × DWord) × State :=
  let pa := s.dev.ctxBase + 16 * ctx
  if !regionPresent s pa then (some (0, 0), s) else
  let (b, s) := readIn s rd die pa 16
  (b.map (fun b => (BitVec.ofNat 64 (leNat (b.take 8)), BitVec.ofNat 64 (leNat (b.drop 8)))), s)
/-- The descriptor a walk uses: the one the device last read, else the table's (R88). DEDUCED, log entry 24. -/
def useDesc (s : State) (rd : Reader) (die ctx : Nat) : Option (DWord × DWord) × State :=
  match NMap.get? s.descs ctx with
  | some d => (some d, s)
  | none =>
    match readDesc s rd die ctx with
    | (some d, s) => (some d, { s with descs := NMap.insert s.descs ctx d })
    | (none, s) => (none, s)

/-- The loop of R91 from a level, with the walk cache of a die: a translation, a fault with the level at which the walk stopped, or
nothing while a table line is on its way. A table entry in absent memory or in a hole is a physical-hole fault (R78). DEDUCED, log entry 23. DEDUCED, log entry 21. -/
def walkFrom (s : State) (rd : Reader) (die ctx va : Nat) (kind : WalkKind) (level base : Nat) : Nat → Option (Except (Nat × Nat) TlbEntry) × State
  | 0 => (some (.error (tcTranslation, level)), s)
  | k + 1 =>
    let dd := NMap.getD s.dies die {}
    match dd.walkCache.find? (fun e => e.ctx = ctx ∧ e.level = level ∧ level < 3 ∧ e.index = levelTag va level) with
    | some e => walkFrom s rd die ctx va kind (level + 1) e.base k
    | none =>
      let pa := base + 8 * levelIndex va level
      if !regionPresent s pa then (some (.error (tcHole, level)), s) else
      match readIn s rd die pa 8 with
      | (none, s) => (none, s)
      | (some bs, s) =>
        let e := leNat bs
        let addr := field e 8 44 * 256
        let stop := fun (c : Nat) => (some (Except.error (c, level)), s)
        if !bitAt e 0 then stop tcTranslation
        else if field e 52 4 ≠ 0 ∨ field e 6 2 ≠ 0 then stop tcTableFormat
        else if !bitAt e 1 then
          if level = 3 then stop tcTableFormat
          else
            let dd := NMap.getD s.dies die {}
            let wc := ({ ctx := ctx, level := level, index := levelTag va level, base := addr } : WalkCacheEntry) :: dd.walkCache
            walkFrom { s with dies := NMap.insert s.dies die { dd with walkCache := wc.take 256 } } rd die ctx va kind (level + 1) addr k
        else if level = 0 then stop tcTableFormat
        else if addr % pageSize level ≠ 0 then stop tcTableFormat
        else if kind = .write ∧ !bitAt e 2 then stop tcPermission
        else if kind = .fetch ∧ (!bitAt e 3 ∨ field e 4 2 ≠ 0) then stop tcPermission
        else (some (.ok { ctx := ctx, va := va / pageSize level * pageSize level, size := pageSize level, pa := addr, type := field e 4 2, x := bitAt e 3, w := bitAt e 2 }), s)

/-- The walk of R91; a descriptor in absent memory or in a hole is a physical-hole fault (R78). DEDUCED, log entry 21. DEDUCED, log entry 23. -/
def walk (s : State) (rd : Reader) (die ctx va : Nat) (kind : WalkKind) : Option (Except (Nat × Nat) TlbEntry) × State :=
  if (NMap.get? s.descs ctx).isNone && !regionPresent s (s.dev.ctxBase + 16 * ctx) then (some (.error (tcHole, 0)), s) else
  match useDesc s rd die ctx with
  | (none, s) => (none, s)
  | (some d, s) =>
    if !descOk d then (some (.error (tcTranslation, 0)), s)
    else if field va 39 18 ≥ 2 ^ field d.1.toNat 1 5 then (some (.error (tcTranslation, 0)), s)
    else match walkFrom s rd die ctx va kind 0 (field d.1.toNat 8 44 * 256) 5 with
      | (some (.ok e), s) => (some (.ok { e with part := descPart d }), s)
      | r => r

/-- The entry of a translation cache that covers an address (R93). DESIGN CHOICE, log entry 22. -/
def tlbFind (l : List TlbEntry) (ctx va : Nat) : Option TlbEntry :=
  l.find? (fun e => e.ctx = ctx ∧ e.va ≤ va ∧ va < e.va + e.size)
/-- The page base is not one that its type may name (R91): a weight-store aperture, or, for types 00 and 01, the register block. -/
def baseBad (e : TlbEntry) : Bool :=
  decide (e.type ≠ 3) && (inAperture e.pa || (decide (e.type < 2) && (match regionOf e.pa with | .regs _ => true | _ => false)))
/-- The result a held entry gives (R91). -/
def tlbAccess (e : TlbEntry) (va : Nat) (kind : WalkKind) : Except Nat Xl :=
  if kind = .write ∧ !e.w then .error tcPermission
  else if baseBad e then .error tcPermission
  else if kind = .fetch ∧ (!e.x ∨ e.type ≠ 0) then .error tcPermission
  else .ok ⟨e.pa + (va - e.va), e.type⟩

/-- Fill the caches after a walk (R93): the L2 TLB of the die, and the L1 TLB of the core. DESIGN CHOICE, log entry 22. -/
def tlbFill (s : State) (core : Option Nat) (die : Nat) (e : TlbEntry) : State :=
  let dd := NMap.getD s.dies die {}
  let s := { s with dies := NMap.insert s.dies die { dd with tlb := (e :: dd.tlb.filter (fun x => x ≠ e)).take 16384 } }
  match core with
  | some c => { s with cores := nupdate s.cores c (fun cr => { cr with tlb := (e :: cr.tlb.filter (fun x => x ≠ e)).take 192 }) }
  | none => s

/-- The entry that the caches an agent uses hold for an address: the L1 TLB of its core, then the L2 TLB of its die (R93, R474). -/
def tlbLook (s : State) (core : Option Nat) (die ctx va : Nat) : Option TlbEntry :=
  ((core.bind (fun c => tlbFind (NMap.getD s.cores c {}).tlb ctx va)).or (tlbFind (NMap.getD s.dies die {}).tlb ctx va))
/-- An entry found in the L2 TLB goes to the L1 TLB too. -/
def tlbUse (s : State) (core : Option Nat) (die ctx va : Nat) : State :=
  match core with
  | none => s
  | some c => match tlbFind (NMap.getD s.cores c {}).tlb ctx va with
    | some _ => s
    | none => match tlbFind (NMap.getD s.dies die {}).tlb ctx va with
      | some e => tlbFill s core die e
      | none => s
/-- What the caches, or the fault that a walk left, give an agent for an address (R91, R93). -/
def tlbResult (s : State) (a : Agent) (core : Option Nat) (die ctx va : Nat) (kind : WalkKind) : Option (Except Nat Xl) :=
  match tlbLook s core die ctx va with
  | some e => some (tlbAccess e va kind)
  | none => ((NMap.getD s.dies die {}).walkFaults.find? (fun f => f.agent = a ∧ f.ctx = ctx ∧ f.page = va / 65536 ∧ f.kind = kind)).map (fun f => .error f.code)
/-- Ask the die's walker for a page (R93). -/
def postWalk (s : State) (a : Agent) (core : Option Nat) (die owner ctx va : Nat) (kind : WalkKind) : State :=
  let dd := NMap.getD s.dies die {}
  let page := va / 65536 * 65536
  if dd.walks.any (fun w => decide (w.agent = a) && decide (w.ctx = ctx) && decide (w.va = page) && decide (w.kind = kind)) then s
  else
    let w : WalkReq := { id := s.nextId, agent := a, core := core, ctx := ctx, va := page, kind := kind, owner := owner }
    { s with nextId := s.nextId + 1, dies := NMap.insert s.dies die { dd with walks := dd.walks ++ [w] } }
/-- Translate for an agent: what the caches give, or a walk asked for and nothing yet (R93, R474). -/
def translate (s : State) (a : Agent) (core : Option Nat) (die owner ctx va : Nat) (kind : WalkKind) : Option (Except Nat Xl) × State :=
  match tlbResult s a core die ctx va kind with
  | some r => (some r, tlbUse s core die ctx va)
  | none => (none, postWalk s a core die owner ctx va kind)
/-- What an access is, for the permitted uses of R91, R223 and R228; an atomic that the host window may take, or not. -/
inductive Use | plain (size : Nat) | other | copyRead | fetch | atomic (hostOk : Bool)
  deriving DecidableEq, Repr, Inhabited

/-- The permitted uses of a page type, then the hole check of R78 (R91, R223). -/
def useCheck (s : State) (die : Nat) (x : Xl) (u : Use) : Except Nat Xl :=
  let hole := fun (y : Xl) => if regionPresent s y.pa then Except.ok y else .error tcHole
  match x.type with
  | 3 => match u with
    | .copyRead => if x.pa < 0xC000000 then hole ⟨0x20000000000 + 0x10000000 * die + x.pa, 3⟩ else .error tcHole
    | _ => .error tcPermission
  | 2 => match u with
    | .plain size =>
      if size ≤ 8 then
        match regionOf x.pa with
        | .regs _ => if size = 4 ∨ size = 8 then .ok x else .error tcPermission
        | .wstore _ _ => .error tcPermission
        | _ => hole x
      else .error tcPermission
    | _ => .error tcPermission
  | _ => match regionOf x.pa with
    | .regs _ | .wstore _ _ => .error tcPermission
    | .host => if u = .atomic false then .error tcPermission else hole x
    | _ => hole x

/-- Translate and check for an agent, from a 64-bit address value (R87, R91, R78); nothing while a walk is under way. -/
def access (s : State) (a : Agent) (core : Option Nat) (die owner ctx va : Nat) (kind : WalkKind) (u : Use) : Option (Except Nat Xl) × State :=
  if !canonical va then (some (.error tcNonCanonical), s)
  else match translate s a core die owner ctx (va57 va) kind with
    | (some (.ok x), s) => (some (useCheck s die x u), s)
    | (some (.error c), s) => (some (.error c), s)
    | (none, s) => (none, s)
/-- One line of a region that an agent reads or writes: its address, its length, its translation or trap code. -/
structure VLine where
  va : Nat
  len : Nat
  res : Except Nat Xl

/-- Translate the lines of a region; nothing while a walk is under way. -/
def virtMap (s : State) (a : Agent) (core : Option Nat) (die owner ctx va n : Nat) (kind : WalkKind) : Nat → Option (List VLine) × State
  | 0 => (some [], s)
  | k + 1 =>
    if n = 0 then (some [], s) else
    let here := min n (128 - va % 128)
    let (x, s) := access s a core die owner ctx va kind .other
    let (y, s) := virtMap s a core die owner ctx ((va + here) % 2 ^ 64) (n - here) kind k
    (x.bind (fun r => y.map (fun l => ⟨va, here, r⟩ :: l)), s)
/-- The request port of an agent: its core's cluster, for register and control-stack spills and fills too, or the system port (R108).
DESIGN CHOICE, log entry 92. -/
def agentPort (core : Option Nat) : Nat := core.elim 15 portOf
/-- Read the translated lines of a region in order: the bytes, or the first trap code with its address; nothing while a line is on its
way. -/
def readLines (s : State) (a : Agent) (die port owner : Nat) : List VLine → Option (Except (Nat × Nat) (List Byte)) × State
  | [] => (some (.ok []), s)
  | l :: r =>
    match l.res with
    | .error c =>
      let (y, s) := readLines s a die port owner r
      (y.map (fun _ => .error (c, l.va)), s)
    | .ok x =>
      let (d, s) := lineGet s a x.pa die port owner
      let (y, s) := readLines s a die port owner r
      (d.bind (fun d => y.map (fun e =>
        if unitsTouched (maskBytes (x.pa % 128) l.len) &&& d.2 ≠ 0 then .error (tcMemory, l.va)
        else match e with
          | .ok bs => .ok ((List.range l.len).map (fun i => lineByte d.1 (x.pa % 128 + i)) ++ bs)
          | .error c => .error c)), s)
/-- Read bytes through a context by requests to the home slices: the bytes, or the first trap code with its address (R474); nothing
while a walk or a line is on its way. The agent keeps the lines, for further reads of one operation. -/
def virtPeek (s : State) (a : Agent) (core : Option Nat) (die owner ctx va n fuel : Nat) : Option (Except (Nat × Nat) (List Byte)) × State :=
  match virtMap s a core die owner ctx va n .read fuel with
  | (none, s) => (none, s)
  | (some ls, s) => readLines s a die (agentPort core) owner ls
/-- The same, where the read is the agent's whole operation. -/
def virtRead (s : State) (a : Agent) (core : Option Nat) (die owner ctx va n fuel : Nat) : Option (Except (Nat × Nat) (List Byte)) × State :=
  match virtPeek s a core die owner ctx va n fuel with
  | (none, s) => (none, s)
  | (some r, s) => (some r, endAgent s a)
/-- The first trap code of a region's lines, with its address. -/
def firstLineBad (ls : List VLine) : Option (Nat × Nat) :=
  ls.findSome? (fun l => match l.res with | .error c => some (c, l.va) | .ok _ => none)
/-- Send the writes of the lines that translate. -/
def writeLines (s : State) (a : Agent) (die port owner : Nat) : List VLine → List Byte → State
  | [], _ => s
  | l :: r, bs =>
    let s := match l.res with
      | .ok x => engineWrite s (.agent a) die port owner .keep x.pa (bs.take l.len)
      | .error _ => s
    writeLines s a die port owner r (bs.drop l.len)
/-- Write bytes through a context by requests to the home slices; lines that meet a condition are not written, and the first condition
with its address is answered (R475); nothing while a walk is under way. -/
def virtWrite (s : State) (a : Agent) (core : Option Nat) (die owner ctx va : Nat) (bs : List Byte) (fuel : Nat) : Option (Option (Nat × Nat)) × State :=
  match virtMap s a core die owner ctx va bs.length .write fuel with
  | (none, s) => (none, s)
  | (some ls, s) => (some (firstLineBad ls), endAgent (writeLines s a die (agentPort core) owner ls bs) a)
/-- A write of an agent has not been accepted at its slice (R112). -/
def agentBusy (s : State) (a : Agent) : Bool := s.reqs.any (fun r => decide (r.who = .agent a) && r.onWay)
/-- Fuel that covers a region of n bytes. -/
def lineFuel (n : Nat) : Nat := n / 128 + 2

end Sys2Proof.Machine
end

