-- ==== Sys2Proof/Machine/Ops.lean ====
section
/-! DEFINITION. The shared operations of a skein: registers and windows, the instruction in hand and its active set, the
checks made when it issues, its retirement, taking a trap and returning from one (spec/00 R8 to R10, 02 R33, R36, 08 R190 to
R202, 17 R398 to R409). -/

namespace Sys2Proof.Machine

/-- What an instruction answers. -/
abbrev Out := Host.Outcome State Fault Refusal

/-! Records by number. -/

def coreOf (s : State) (n : Nat) : Core := NMap.getD s.cores n {}
def setCore (s : State) (n : Nat) (c : Core) : State := { s with cores := NMap.insert s.cores n c }
def updCore (s : State) (n : Nat) (f : Core → Core) : State := setCore s n (f (coreOf s n))
def skeinOf (s : State) (core slot : Nat) : Option Skein := NMap.get? (coreOf s core).skeins slot
def setSkein (s : State) (core slot : Nat) (sk : Skein) : State :=
  updCore s core (fun c => { c with skeins := NMap.insert c.skeins slot sk })
/-- Change a skein that is resident. -/
def updSkein (s : State) (core slot : Nat) (f : Skein → Skein) : State :=
  match skeinOf s core slot with
  | some sk => setSkein s core slot (f sk)
  | none => s
def updPathSk (sk : Skein) (p : Nat) (f : Path → Path) : Skein := { sk with paths := nupdate sk.paths p f }
def updPath (s : State) (core slot p : Nat) (f : Path → Path) : State := updSkein s core slot (fun sk => updPathSk sk p f)
def boltOf (s : State) (core bolt : Nat) : Option Bolt := NMap.get? (coreOf s core).bolts bolt
def updBolt (s : State) (core bolt : Nat) (f : Bolt → Bolt) : State :=
  updCore s core (fun c => { c with bolts := nupdate c.bolts bolt f })
def gridOf (s : State) (core bolt : Nat) : Option Grid := (boltOf s core bolt).bind (fun b => NMap.get? s.grids b.grid)
def updGrid (s : State) (g : Nat) (f : Grid → Grid) : State := { s with grids := nupdate s.grids g f }
/-- The launch record of a skein's grid (R378). -/
def launchOf (s : State) (core bolt : Nat) : Launch := ((gridOf s core bolt).map Grid.launch).getD {}
/-- The skein's slot issues on this quarter (R15). -/
def quarterOf (slot : Nat) : Nat := slot / 16

/-! Registers. -/

/-- Storage of vector register `n` under a window: a global, or position base + n − 16 (R193). -/
def vkey (w : Win) (n : Nat) : Nat := if n < 16 then n else w.base + n
/-- The vector register is a global of the skein or lies in the window (R194). DEDUCED, log entry 106. -/
def vOkIn (globals : Nat) (w : Win) (n : Nat) : Bool := decide (n < globals) || (decide (16 ≤ n) && decide (n < 16 + w.size))
def vget (sk : Skein) (key : Nat) : VReg := NMap.getD sk.vregs key []
def kget (sk : Skein) (n : Nat) : Word := NMap.getD sk.kregs n 0
/-- Predicate `n`; p7 reads true in every lane (R190). -/
def pget (sk : Skein) (n : Nat) : LMask := if n = 7 then allLanes else NMap.getD sk.preds n 0

/-- Mark or unmark a vector register after a write of the lanes `act`, of which `bad` carried poison (R220). DEDUCED, log entry 16. -/
def markV (marks : NMap LMask) (key : Nat) (act bad : LMask) : NMap LMask :=
  if bad = 0 then NMap.erase marks key else NMap.insert marks key (without (NMap.getD marks key 0) act ||| bad)
/-- Write the lanes `act` of a vector register (R9); a write without poison clears its mark (R220). -/
def vput (sk : Skein) (key : Nat) (act : LMask) (f : Nat → Word) (bad : LMask := 0) : Skein :=
  if act = 0 then sk else
  { sk with vregs := NMap.insert sk.vregs key (vmerge act (vget sk key) f), vmarks := markV sk.vmarks key act bad }
/-- Write a uniform register. -/
def kput (sk : Skein) (n : Nat) (w : Word) (bad : Bool := false) : Skein :=
  { sk with kregs := NMap.insert sk.kregs n w, kmarks := if bad then sortedInsert n sk.kmarks else sk.kmarks.filter (fun k => k ≠ n) }
/-- Write the lanes `act` of a predicate; p7 ignores writes (R190). -/
def pput (sk : Skein) (n : Nat) (act bits : LMask) : Skein :=
  if n = 7 then sk else { sk with preds := NMap.insert sk.preds n (without (pget sk n) act ||| (bits &&& act)) }
/-- Make one register result. -/
def applyWrite (sk : Skein) : RegWrite → Skein
  | .v key lanes data poison => vput sk key lanes (vlane data) (if poison then lanes else 0)
  | .k n w poison => kput sk n w poison
  | .p n lanes bits => pput sk n lanes bits

/-! Windows and the register stack (R193, R202). -/

def entryWin : StkEntry → Win
  | .join _ _ _ w _ => w
  | .pend _ _ w => w
def pathWins (pa : Path) : List Win := pa.win :: pa.own.map entryWin
def recWin (r : FrameRec) : Win := ⟨r.base - r.shift, r.callerW⟩
/-- The windows of the live frames (R193), those of a trap frame included. -/
def liveWins (sk : Skein) : List Win :=
  sk.paths.flatMap (fun e => pathWins e.2) ++ sk.stack.map entryWin ++ sk.records.map recWin ++
  (match sk.frame with
   | none => []
   | some f => f.paths.flatMap (fun e => pathWins e.2) ++ f.stack.map entryWin ++ f.records.map recWin)
/-- The skein's top (R193). -/
def topOf (sk : Skein) : Nat := (liveWins sk).foldl (fun t w => max t (w.base + w.size)) 0
/-- Positions from the top upward are released: their contents are discarded (R193, R201). -/
def releaseAbove (sk : Skein) : Skein :=
  let t := topOf sk
  { sk with vregs := sk.vregs.filter (fun e => decide (e.1 < 16 + t)), vmarks := sk.vmarks.filter (fun e => decide (e.1 < 16 + t))
            spilled := sk.spilled.filter (fun g => decide (8 * g < t)) }
/-- Granules a skein holds until it has ended, those of its last window too (R202, R350). DEDUCED, log entry 90. -/
def granulesOf (sk : Skein) : Nat := if sk.run = .ended then 0 else sk.globals / 8 + max (topOf sk) sk.heldTop / 8 - sk.spilled.length
/-- Free granules of a core's register pool (R202). -/
def freeGranules (c : Core) : Nat := 256 - (c.skeins.map (fun e => granulesOf e.2)).foldl (· + ·) 0
/-- Registers with a write still pending from an operation of a slow class (R36, R201). -/
def pendRegs (sk : Skein) : List RegRef := sk.ops.flatMap (fun e => e.2.pend)
/-- A write is pending to a position from `lo` upward (R201). -/
def pendAbove (sk : Skein) (lo : Nat) : Bool :=
  (pendRegs sk).any (fun r => match r with | .v k => decide (16 + lo ≤ k) | _ => false)

/-! Registers an instruction names. -/

/-- The registers an instruction reads and writes, by name. -/
structure RU where
  rv : List Nat := []
  wv : List Nat := []
  rk : List Nat := []
  wk : List Nat := []
  rp : List Nat := []
  wp : List Nat := []
  deriving DecidableEq, Repr, Inhabited

/-- The storage it reads and writes under a window. -/
def RU.refs (u : RU) (w : Win) : List RegRef :=
  (u.rv ++ u.wv).map (fun n => .v (vkey w n)) ++ (u.rk ++ u.wk).map .k ++ (u.rp ++ u.wp).map .p

/-! The instruction in hand. -/

/-- Where an instruction word acts: the cursor's path, its lanes and PC. -/
structure Ctx where
  core : Nat
  slot : Nat
  path : Nat
  sk : Skein
  pa : Path
  /-- the running lanes; in a STITCH word the lanes of its group (R360) -/
  lanes : LMask
  /-- the active set of R9 -/
  act : LMask
  pc : Nat
  /-- STITCH depth of a word, else 0 -/
  depth : Nat
  deriving DecidableEq, Repr, Inhabited

/-- The PC of the instruction a path issues next (R26). -/
def pathPc (pa : Path) : Nat := match pa.clause with | some c => (pa.pc + 1 + c.pos) % 2 ^ 32 | none => pa.pc

/-- The instruction in hand, if the cursor names a path of a resident skein. DESIGN CHOICE, log entry 9. -/
def ctxOf (s : State) : Option Ctx :=
  match s.cur with
  | none => none
  | some cu =>
    match skeinOf s cu.core cu.slot with
    | none => none
    | some sk =>
      match NMap.get? sk.paths cu.path with
      | none => none
      | some pa =>
        let run := without pa.mask sk.exited
        some { core := cu.core, slot := cu.slot, path := cu.path, sk := sk, pa := pa, lanes := (cu.lanes.getD run), act := 0
               pc := pathPc pa, depth := if cu.lanes.isSome then pa.stitch.length else 0 }

def Ctx.inWord (x : Ctx) : Bool := decide (0 < x.depth)
def Ctx.die (x : Ctx) : Nat := dieOf x.core
/-- Apply a change to the skein of the instruction in hand. -/
def onSkein (x : Ctx) (f : Skein → Skein) (s : State) : State := updSkein s x.core x.slot f
def onPath (x : Ctx) (f : Path → Path) (s : State) : State := updPath s x.core x.slot x.path f
def Ctx.launch (x : Ctx) (s : State) : Launch := launchOf s x.core x.sk.bolt

/-- Step a path past the instruction of its clause; past the clause it falls through to the next header (R336). -/
def advancePath (pa : Path) : Path :=
  match pa.clause with
  | none => pa
  | some c =>
    if c.pos + 1 < c.words.length then { pa with clause := some { c with pos := c.pos + 1 } }
    else { pa with pc := (pa.pc + c.words.length + 1) % 2 ^ 32, clause := none }
/-- Drop the STITCH group in hand of the innermost level (R361). -/
def dropGroup (pa : Path) : Path :=
  match pa.stitch with
  | [] => pa
  | l :: r => { pa with stitch := { l with groups := l.groups.drop 1 } :: r }
/-- The instruction has issued: the path goes on to the next instruction, or the STITCH to its next word. -/
def retire (x : Ctx) (s : State) : State :=
  onPath x (fun pa => { (if x.inWord then dropGroup pa else advancePath pa) with wait := none, watchPass := false }) s
/-- The instruction waits at issue: it has no effect, and is tried again in a later slot. The time since it first waited stands, whatever it
waits for. -/
def stall (x : Ctx) (w : WaitKind) (s : State) : State :=
  onPath x (fun pa => { pa with wait := match pa.wait with
    | some (v, t, first) => some (w, if v = w then t else s.clock, first)
    | none => some (w, s.clock, s.clock) }) s
/-- The reference count since which the instruction in hand has waited at issue; now, if it has not. DEDUCED, log entry 95. -/
def Ctx.waitedSince (x : Ctx) (s : State) : Nat := (x.pa.wait.map (fun w => w.2.2)).getD s.clock

/-! Completion of operations (R36, R37). -/

/-- An operation is complete: its flags and its counter count it no more. -/
def finishOpSk (sk : Skein) (op : Nat) : Skein :=
  match NMap.get? sk.ops op with
  | none => sk
  | some o =>
    let drop := fun (pa : Path) => { pa with flagOps := pa.flagOps.filter (fun f => f.2 ≠ op) }
    let ctr := match o.counter with
      | some c => sk.counters.set c (sk.counters.getD c 0 - 1)
      | none => sk.counters
    { sk with ops := NMap.erase sk.ops op, counters := ctr, paths := sk.paths.map (fun e => (e.1, drop e.2))
              frame := sk.frame.map (fun f => { f with paths := f.paths.map (fun e => (e.1, drop e.2)) }) }

/-- Loads in flight that meet a condition are too old to fill the L1 when they return. DEDUCED, log entry 26. -/
def staleFills (s : State) (core : Nat) (p : LoadPart → Bool) : State :=
  updCore s core (fun c => { c with skeins := c.skeins.map (fun e => (e.1, { e.2 with ops := e.2.ops.map (fun o =>
    (o.1, match o.2.body with
      | .load parts el sz sg dst => { o.2 with body := .load (mapIf p (fun p => { p with dropped := true }) parts) el sz sg dst }
      | _ => o.2)) })) })
/-- Loads and prefetches in flight for lines that meet a condition no longer allocate. A fill that left its slice before an acquire, a
write-back, a written-through store or an atomic of the core does not bring older bytes back (R229, R238). DEDUCED, log entry 26. DEDUCED, log entry 53. -/
def dropFillsIf (s : State) (core : Nat) (p : Nat → Bool) : State :=
  let s := staleFills s core (fun q => p q.line)
  { s with reqs := s.reqs.map (fun (r : Req) => if r.who = .prefetch core ∧ p r.line then
      { r with kind := (match r.kind with | .read _ => .prefetch | k => k) } else r) }
/-- The same for all lines, or for one. DEDUCED, log entry 26. DEDUCED, log entry 53. -/
def dropFills (s : State) (core : Nat) (line : Option Nat) : State := dropFillsIf s core (fun l => decide (line = none) || decide (line = some l))

/-! Traps. -/

/-- The area of a block in its grid's context areas (R379). -/
def ctxAreaOf (l : Launch) (block : Nat) : Nat :=
  let b0 := (l.ranges.filter (fun r => r.2 ≠ 0)).foldl (fun m r => min m r.1) (2 ^ 32)
  l.ctxArea + 65536 * l.stride * (block - b0)
/-- The section of a skein in its context area (R420). -/
def skeinSection (l : Launch) (block index : Nat) : Nat :=
  0x200000 + ctxAreaOf l block + index * (65536 * (1 + cdiv l.backing 16))

/-- FAULTINFO (17 Table 2). DEDUCED, log entry 55. -/
def faultInfoOf (t : TrapInfo) (task : Bool) (depth path pc : Nat) : DWord :=
  BitVec.ofNat 64 (t.code % 256 * 2 ^ 56 + t.detail % 256 * 2 ^ 48 + t.lane % 128 * 2 ^ 41 + (if task then 2 ^ 40 else 0) +
    depth % 4 * 2 ^ 38 + path % 2 * 2 ^ 37 + pc % 2 ^ 32)
/-- Traps that are fatal by 17 Table 1. -/
def fatalCode (c : Nat) : Bool := c == 0x38 || c == 0x39 || c == 0x3A

/-- A fatal trap: the skein issues no more and its bolt is to be parked (R404). DEDUCED, log entry 56. -/
def takeFatal (core slot : Nat) (finfo w1 w3 : DWord) (s : State) : State :=
  match skeinOf s core slot with
  | none => s
  | some sk =>
    let sk' := { sk with faultInfo := finfo, run := .stopped, control := []
                         fatal := some (finfo, w1, BitVec.ofNat 64 sk.taskId, w3, if sk.frame.isSome then 1 else 0, BitVec.ofNat 64 s.clock) }
    updBolt (setSkein s core slot sk') core sk.bolt (fun b => { b with stop := some .park })

/-- On entry to a handler, operations of the other path of the skein precede nothing the handler issues (R233, R401). -/
def asideOps (path : Nat) (ops : NMap Op) : NMap Op :=
  ops.map (fun e => (e.1, if e.2.path = path ∨ e.2.path = 2 then e.2 else { e.2 with path := 3 }))
/-- After the handler, the operations that were in progress at the trap are again those of the paths that issued them, and the handler's
own are the trapping path's (R233, R403). -/
def backOps (f : Frame) (ops : NMap Op) : NMap Op := ops.map (fun e => (e.1, { e.2 with path := NMap.getD f.opPaths e.1 f.trapPath }))
/-- Offset of the detail block of a skein in virtual memory (R401, R420). -/
def detailVa (s : State) (core slot : Nat) (sk : Skein) : Nat :=
  0x800 + skeinSection (launchOf s core sk.bolt) (((boltOf s core sk.bolt).map Bolt.block).getD 0) sk.index
/-- TAKE A TRAP on a path: FAULTINFO, then the handler or, for a fatal trap, the park (R398 to R404). The handler issues once its detail
block has been written (R401, R475). -/
def trapAt (core slot path pc depth : Nat) (t : TrapInfo) (s : State) : State :=
  match skeinOf s core slot with
  | none => s
  | some sk =>
    let finfo := faultInfoOf t sk.taskOpen depth path pc
    let w1 : DWord := BitVec.ofNat 64 t.va
    -- a STITCH that stops for a trap counts as complete (R367)
    let sk := match (NMap.get? sk.paths path).bind Path.stitchOp with
      | some o => updPathSk (finishOpSk sk o) path (fun pa => { pa with stitchOp := none })
      | none => sk
    let s := setSkein s core slot sk
    let l := launchOf s core sk.bolt
    if fatalCode t.code || decide (l.handler = 0) || sk.frame.isSome then takeFatal core slot finfo w1 t.word3 s
    else match NMap.get? sk.paths path with
      | none => s
      | some pa =>
        let h : Path := { pc := (l.handler - l.codeBase) / 12 % 2 ^ 32, mask := without pa.mask sk.exited, win := pa.win, flagOps := pa.flagOps }
        let ws := [w1, BitVec.ofNat 64 sk.taskId, t.word3]
        updSkein s core slot (fun q => { q with
          faultInfo := finfo, detail := ws, control := q.control ++ [.detail (finfo :: ws)], ops := asideOps path q.ops
          frame := some { paths := sk.paths.map (fun e => (e.1, { e.2 with wait := none, sleep := none })), trapPath := path, stack := sk.stack, records := sk.records
                          deep := sk.deep, opPaths := sk.ops.map (fun e => (e.1, e.2.path)) }
          paths := [(path, h)], stack := [], records := [], deep := (0, 0) })
/-- A detail block that cannot be written: the handler is not entered, and the trap is the register-spill fault (R475). DEDUCED, log entry 56. -/
def detailFails (core slot : Nat) (cond : Nat × Nat) (s : State) : State :=
  let s := updSkein s core slot (fun sk => match sk.frame with
    | none => sk
    | some f => { sk with paths := f.paths, stack := f.stack, records := f.records, deep := f.deep, ops := backOps f sk.ops, frame := none })
  match skeinOf s core slot with
  | none => s
  | some sk => takeFatal core slot (BitVec.ofNat 64 (0x39 * 2 ^ 56 + cond.1 * 2 ^ 48 + sk.faultInfo.toNat % 2 ^ 41)) (BitVec.ofNat 64 cond.2) 0 s

/-- The instruction in hand traps (precision I): it has no other effect (R10, R398). -/
def trapX (x : Ctx) (t : TrapInfo) (s : State) : State := trapAt x.core x.slot x.path x.pc x.depth t (onPath x (fun pa => { pa with wait := none }) s)

/-- The flag that a header slot selects for a word (R36). -/
def selectedFlag (pa : Path) (second : Bool) : Option Nat :=
  match pa.clause with
  | some c => if second then c.set2 else c.set1
  | none => none

/-- RETURN FROM A TRAP: the trap frame is restored; the trapping path keeps the handler's flags, and a STITCH it stopped in
selects its flag afresh (R403, R367). -/
def rteSk (sk : Skein) (f : Frame) (path : Nat) (newOp : Nat) : Skein :=
  let flags := ((NMap.get? sk.paths path).map Path.flagOps).getD []
  let back := fun (e : Nat × Path) =>
    if e.1 = f.trapPath then
      let second := match e.2.clause with
        | some c => (c.words.getD c.pos 0).getLsbD 91
        | none => false
      let again := match selectedFlag e.2 second with
        | some fl => [(fl, newOp)]
        | none => []
      if e.2.stitch ≠ [] then (e.1, { e.2 with flagOps := flags ++ again, stitchOp := some newOp }) else (e.1, { e.2 with flagOps := flags })
    else e
  let resumed := f.paths.any (fun e => decide (e.1 = f.trapPath) && decide (e.2.stitch ≠ []))
  let ops := if resumed then NMap.insert (backOps f sk.ops) newOp { cls := .collective, path := f.trapPath, body := .stitch } else backOps f sk.ops
  releaseAbove { sk with paths := f.paths.map back, stack := f.stack, records := f.records, deep := f.deep, frame := none, ops := ops }

/-! The checks made when an instruction issues. -/

/-- How a guard acts (R9, R343). -/
inductive GuardKind | lane | any | coll
  deriving DecidableEq, Repr, Inhabited

/-- The conditions of an instruction that the shared issue check covers. DEDUCED, log entry 80. -/
structure Checks where
  guard : GuardKind := .lane
  /-- illegal-convergence while the skein is dual-path (R312, R393) -/
  single : Bool := false
  /-- illegal-convergence unless all 128 lanes are active (R312) -/
  full : Bool := false
  /-- accumulator indices it names (R195) -/
  accs : List Nat := []
  /-- checks on what its registers hold rank before those on their marks and are made by the instruction itself (R344) -/
  lateMarks : Bool := false
  /-- it raises no trap for its registers (R231, R232, R332): with one outside its window it does nothing. DEDUCED, log entry 80. -/
  quiet : Bool := false
  /-- a mark counts in an active lane only (R219, R288, R366) -/
  activeMarks : Bool := false

/-- What the issue check decides. -/
inductive Gate | skip | wait (w : WaitKind) | trap (t : TrapInfo) | go (act : LMask)
  deriving DecidableEq, Repr, Inhabited

/-- The lanes of the path in which the guard holds (R9, R33). -/
def guardLanes (x : Ctx) (c : Ctl) : LMask := x.lanes &&& (if c.neg then ~~~pget x.sk c.guard else pget x.sk c.guard)
/-- Accumulator tiles allotted to the skein's bolt (R195). -/
def boltAccs (s : State) (core bolt : Nat) : List Nat := ((boltOf s core bolt).map Bolt.accs).getD []
/-- The lowest lane in which a source register is marked, if one is: in an active lane, or, of an instruction whose rule says so, in any
(R219, R220, R259, R288, R366). DEDUCED, log entry 13. DEDUCED, log entry 16. -/
def markedLane (x : Ctx) (u : RU) (act : LMask) (activeOnly : Bool) : Option Nat :=
  let vs := u.rv.filterMap (fun n => (NMap.get? x.sk.vmarks (vkey x.pa.win n)).bind (fun m =>
    if m &&& act ≠ 0 then some (lowest (m &&& act)) else if activeOnly || x.inWord then none else some (lowest m)))
  let ks := u.rk.filterMap (fun n => if n ∈ x.sk.kmarks then some (lowest act) else none)
  leastBy id (vs ++ ks)
/-- The operation came from a word of the STITCH that a path has in hand; those of one that a trap interrupted are its own (R361, R367). -/
def wordOp (sk : Skein) (path : Nat) (e : Nat × Op) : Bool :=
  e.2.fromStitch && decide (e.2.path = path) && !(sk.frame.any (fun f => (NMap.get? f.opPaths e.1).isSome))
/-- A register it names has a write pending from a word of the STITCH in hand (R361). -/
def wordBusy (x : Ctx) (u : RU) : Bool :=
  let refs := u.refs x.pa.win
  x.inWord && x.sk.ops.any (fun e => wordOp x.sk x.path e && e.2.pend.any (fun r => decide (r ∈ refs)))
/-- The pending-read condition of the debug mode (R409); words of a STITCH are exempt. DEDUCED, log entry 13. DEDUCED, log entry 15. -/
def pendingRead (x : Ctx) (u : RU) (s : State) : Bool :=
  s.dev.dbgcfg.getLsbD 0 && !x.inWord && (pendRegs x.sk).any (fun r => decide (r ∈ u.refs x.pa.win))

/-- Guard, convergence, window and accumulator checks: the conditions that rest on no register value (R9, R194, R195, R312). DEDUCED, log entry 13. -/
def gate1 (k : Checks) (u : RU) (c : Ctl) (x : Ctx) (s : State) : Gate :=
  let a := guardLanes x c
  if a = 0 then .skip
  else if k.guard = .coll ∧ a ≠ x.lanes ∧ x.depth = 0 then .trap { code := 0x02 }
  else if k.single ∧ x.sk.paths.length ≠ 1 then .trap { code := 0x02 }
  else if k.full ∧ a ≠ allLanes then .trap { code := 0x02 }
  else if (u.rv ++ u.wv).any (fun n => !vOkIn x.sk.globals x.pa.win n) then (if k.quiet then .skip else .trap { code := 0x03 })
  else if k.accs.any (fun n => decide ((boltAccs s x.core x.sk.bolt).length ≤ n)) then .trap { code := 0x04 }
  else .go a
/-- Interlock, pending-read and poison checks (R361, R409, R220). DEDUCED, log entry 13. -/
def gate2 (u : RU) (x : Ctx) (s : State) (activeOnly : Bool) : Gate :=
  if wordBusy x u then .wait .register
  else if pendingRead x u s then .trap { code := 0x2A }
  else match markedLane x u x.act activeOnly with
    | some l => .trap { code := 0x20, lane := l }
    | none => .go x.act

/-- The checks of an instruction's registers: of one that raises no trap, the interlock alone; of one with a later check of marks,
all but the marks. DEDUCED, log entry 80. DEDUCED, log entry 106. -/
def gateLast (k : Checks) (u : RU) (x : Ctx) (s : State) : Gate :=
  if k.quiet then (if wordBusy x u then .wait .register else .go x.act)
  else match gate2 u x s k.activeMarks with
    | .trap t => if k.lateMarks ∧ t.code = 0x20 then .go x.act else .trap t
    | g => g
/-- Issue an instruction: its context, its checks, then its effect on the active set. `early` gives the traps that rest on no
register value and rank before pending-read. DEDUCED, log entry 11. DEDUCED, log entry 13. DESIGN CHOICE, log entry 71. -/
def issue (k : Checks) (u : RU) (c : Ctl) (early : Ctx → State → Option TrapInfo) (body : Ctx → State → State) (s : State) : Out :=
  match ctxOf s with
  | none => .fault .noIssuer
  | some x =>
    match gate1 k u c x s with
    | .skip => .next (retire x s)
    | .wait w => .next (stall x w s)
    | .trap t => .next (trapX x t s)
    | .go a =>
      let x := { x with act := a }
      match early x s with
      | some t => .next (trapX x t s)
      | none =>
        match gateLast k u x s with
        | .skip => .next (retire x s)
        | .wait w => .next (stall x w s)
        | .trap t => .next (trapX x t s)
        | .go _ => .next (body x s)

/-- No trap ranks before pending-read beyond the shared checks. -/
def noEarly (_ : Ctx) (_ : State) : Option TrapInfo := none

/-! Events of the device. -/

/-- An event: a step of a device agent. It always answers a next state. DESIGN CHOICE, log entry 4. -/
def event (f : State → State) (s : State) : Out := .next (f s)

end Sys2Proof.Machine
end

