-- ==== Sys2Proof/Machine/Operands.lean ====
section
/-! DEFINITION. Operand forms: how every instruction reads its sources and writes its results (spec/02 R28 to R32, 11 R256,
R257), and which registers it names. -/

namespace Sys2Proof.Machine

/-! Values of integer types (03 R52 to R54). -/

/-- Width n of an integer type. -/
def itWidth : IType → Nat
  | .n8 | .i8 => 8
  | .n16 | .i16 => 16
  | .n32 | .i32 => 32
  | .n64 | .i64 => 64
/-- The type is signed. -/
def itSigned : IType → Bool
  | .i8 | .i16 | .i32 | .i64 => true
  | _ => false
/-- The low `n` bits of a value read under a signedness. -/
def readInt (n : Nat) (signed : Bool) (w : Nat) : Int :=
  if signed then Int.bmod (Int.ofNat w) (2 ^ n) else Int.ofNat (w % 2 ^ n)
/-- WrapInt of R54. -/
def wrapInt (ty : IType) (x : Int) : Int := if itSigned ty then Int.bmod x (2 ^ itWidth ty) else x % (2 ^ itWidth ty : Int)
/-- Min(T) and Max(T). -/
def itMin (ty : IType) : Int := if itSigned ty then -(2 ^ (itWidth ty - 1) : Int) else 0
def itMax (ty : IType) : Int := if itSigned ty then 2 ^ (itWidth ty - 1) - 1 else 2 ^ itWidth ty - 1
/-- SatInt of R54. -/
def satInt (ty : IType) (x : Int) : Int := if x < itMin ty then itMin ty else if itMax ty < x then itMax ty else x
/-- The register bits of an integer: extended to 32 or 64 bits (R53). -/
def intBits (x : Int) : DWord := BitVec.ofInt 64 x

/-! Sources. -/

/-- A pair of words. -/
def pairOf (lo hi : Word) : DWord := BitVec.ofNat 64 (lo.toNat + hi.toNat * 2 ^ 32)
def loWord (d : DWord) : Word := d.setWidth 32
def hiWord (d : DWord) : Word := (d >>> 32).setWidth 32
/-- Lane `l` of vector register `n` of the instruction's path. -/
def vRead (x : Ctx) (n l : Nat) : Word := vlane (vget x.sk (vkey x.pa.win n)) l
/-- A source of one register in a lane (R257). -/
def srcWord (x : Ctx) (o : Src) (l : Nat) : Word :=
  match o with
  | .v n => vRead x n l
  | .k n => kget x.sk n
  | .imm w => w
/-- A register operand of one register in a lane. -/
def vkWord (x : Ctx) (o : VK) (l : Nat) : Word :=
  match o with
  | .v n => vRead x n l
  | .k n => kget x.sk n
/-- A source pair in a lane; an immediate is sign- or zero-extended (R30). -/
def srcPair (x : Ctx) (signed : Bool) (o : Src) (l : Nat) : DWord :=
  match o with
  | .v n => pairOf (vRead x n l) (vRead x (n + 1) l)
  | .k n => pairOf (kget x.sk n) (kget x.sk (n + 1))
  | .imm w => if signed then w.signExtend 64 else w.setWidth 64
def vkPair (x : Ctx) (o : VK) (l : Nat) : DWord :=
  match o with
  | .v n => pairOf (vRead x n l) (vRead x (n + 1) l)
  | .k n => pairOf (kget x.sk n) (kget x.sk (n + 1))
/-- The raw bits of a value operand of an integer type (R256). -/
def srcBits (x : Ctx) (ty : IType) (o : Src) (l : Nat) : DWord :=
  if ty.regs = 2 then srcPair x (itSigned ty) o l else (srcWord x o l).setWidth 64
def vkBits (x : Ctx) (ty : IType) (o : VK) (l : Nat) : DWord :=
  if ty.regs = 2 then vkPair x o l else (vkWord x o l).setWidth 64
/-- A value operand read under T (R53). -/
def srcInt (x : Ctx) (ty : IType) (o : Src) (l : Nat) : Int := readInt (itWidth ty) (itSigned ty) (srcBits x ty o l).toNat
def vkInt (x : Ctx) (ty : IType) (o : VK) (l : Nat) : Int := readInt (itWidth ty) (itSigned ty) (vkBits x ty o l).toNat
/-- The n-bit pattern of a value operand. -/
def srcPat (x : Ctx) (ty : IType) (o : Src) (l : Nat) : Nat := (srcBits x ty o l).toNat % 2 ^ itWidth ty
/-- The lane an instruction reads for a value that it takes once: the lowest active lane (R257). DEDUCED, log entry 12. -/
def oneOf (x : Ctx) : Nat := lowest x.act

/-! Destinations. -/

/-- Write one register: every active lane of a vector register, or a uniform register once, from the lowest active lane (R9,
R257). -/
def putWord (x : Ctx) (sk : Skein) (d : VK) (f : Nat → Word) : Skein :=
  if x.act = 0 then sk else
  match d with
  | .v n => vput sk (vkey x.pa.win n) x.act f
  | .k n => kput sk n (f (oneOf x))
/-- Write a register pair. -/
def putPair (x : Ctx) (sk : Skein) (d : VK) (f : Nat → DWord) : Skein :=
  let up := match d with | .v n => VK.v (n + 1) | .k n => .k (n + 1)
  putWord x (putWord x sk d (fun l => loWord (f l))) up (fun l => hiWord (f l))
/-- Write `w` registers, 1 or 2. DEDUCED, log entry 12. -/
def putVK (x : Ctx) (sk : Skein) (w : Nat) (d : VK) (f : Nat → DWord) : Skein :=
  if w = 2 then putPair x sk d f else putWord x sk d (fun l => loWord (f l))
/-- Write the active lanes of a predicate. -/
def putP (x : Ctx) (sk : Skein) (p : Nat) (f : Nat → Bool) : Skein := pput sk p x.act (lmask f)

/-- The results of a destination as register writes to be made later (R36). -/
def delayed (x : Ctx) (w : Nat) (d : VK) (f : Nat → DWord) : List RegWrite :=
  match d with
  | .v n => RegWrite.v (vkey x.pa.win n) x.act (vofFn (fun l => loWord (f l))) false ::
      (if w = 2 then [RegWrite.v (vkey x.pa.win (n + 1)) x.act (vofFn (fun l => hiWord (f l))) false] else [])
  | .k n => RegWrite.k n (loWord (f (oneOf x))) false :: (if w = 2 then [RegWrite.k (n + 1) (hiWord (f (oneOf x))) false] else [])

/-! Registers an instruction names. -/

/-- `w` registers from `n`. -/
def regGroup (w n : Nat) : List Nat := (List.range w).map (n + ·)
def useR (w : Nat) : Src → RU
  | .v n => { rv := regGroup w n }
  | .k n => { rk := regGroup w n }
  | .imm _ => {}
def useVK (w : Nat) : VK → RU
  | .v n => { rv := regGroup w n }
  | .k n => { rk := regGroup w n }
def useW (w : Nat) : VK → RU
  | .v n => { wv := regGroup w n }
  | .k n => { wk := regGroup w n }
def useP (l : List Nat) : RU := { rp := l }
def useWP (l : List Nat) : RU := { wp := l }
def RU.and (a b : RU) : RU :=
  { rv := a.rv ++ b.rv, wv := a.wv ++ b.wv, rk := a.rk ++ b.rk, wk := a.wk ++ b.wk, rp := a.rp ++ b.rp, wp := a.wp ++ b.wp }
def use2 (wd wa wb : Nat) (d : VK) (a b : Src) : RU := ((useW wd d).and (useR wa a)).and (useR wb b)
def use1 (wd wa : Nat) (d : VK) (a : Src) : RU := (useW wd d).and (useR wa a)
def use3 (wd wa wb wc : Nat) (d : VK) (a b : Src) (cc : VK) : RU := (use2 wd wa wb d a b).and (useVK wc cc)
def useCmp (np wa wb p : Nat) (a b : Src) : RU := ((useWP (regGroup np p)).and (useR wa a)).and (useR wb b)

/-- The registers a code instruction reads and writes, by the operand table (02 Table 6). -/
def Instr.use : Instr → RU
  | .brx _ a | .callx _ _ a => { rv := [a] }
  | .sleep _ a => useR 1 a
  | .stitch _ d a _ => { rv := regGroup 3 a, wp := [d] }
  | .add _ d a b m | .sub _ d a b m | .mul _ d a b m | .mulh _ d a b m | .div _ d a b m | .rem _ d a b m | .min _ d a b m
  | .max _ d a b m => use2 m.ty.regs m.ty.regs m.ty.regs d a b
  | .shl _ d a b m | .shr _ d a b m | .sar _ d a b m | .rot _ d a b m => use2 m.ty.regs m.ty.regs 1 d a b
  | .addc _ d a b p ty | .subc _ d a b p ty => (use2 ty.regs ty.regs ty.regs d a b).and { rp := [p], wp := [p] }
  | .mad _ d a b cc m | .sad _ d a b cc m => use3 m.ty.regs m.ty.regs m.ty.regs m.ty.regs d a b cc
  | .madw _ d a b cc _ => use3 2 1 1 2 d a b cc
  | .abs _ d a m | .neg _ d a m | .clz _ d a m | .popc _ d a m | .brev _ d a m => use1 m.ty.regs m.ty.regs d a
  | .cmp _ p a b _ m => useCmp 1 m.ty.regs m.ty.regs p a b
  | .sel _ d a b p ty => (use2 ty.regs ty.regs ty.regs d a b).and (useP [p])
  | .mov _ d a w | .not _ d a w => use1 (wideRegs w) (wideRegs w) d a
  | .movk _ d a b => { rv := [a], wk := [d] : RU }.and (useR 1 b)
  | .lea _ d a b _ _ => use2 2 2 1 d a b
  | .idx _ d a _ => use1 1 1 d a
  | .and _ d a b w | .or _ d a b w | .xor _ d a b w => use2 (wideRegs w) (wideRegs w) (wideRegs w) d a b
  | .tlut _ d a b cc _ => use3 1 1 1 1 d a b cc
  | .bfx _ d a b ty => use2 ty.regs ty.regs 1 d a b
  | .bfi _ d a b cc ty => use3 ty.regs ty.regs ty.regs 1 d a b cc
  | .bpick _ d a b cc => use3 1 1 1 1 d a b cc
  | .lperm _ d a b _ w => use2 (wideRegs w) (wideRegs w) 1 d a b
  | .xchg _ d a b => use2 1 1 1 d a b
  | .pcon _ f a => (useP [a]).and (match f with
      | .all p | .any p | .same p => useWP [p]
      | .ballot k => { wk := regGroup 4 k }
      | .count k => { wk := [k] })
  | .lgrp _ f a w => (useR (wideRegs w) a).and (match f with
      | .set v => { wv := regGroup 4 v }
      | .same p => useWP [p])
  | .kred _ d a _ m => { rv := regGroup m.ty.regs a, wk := regGroup m.ty.regs d }
  | .pset _ d a b _ => { rp := [a, b], wp := [d] }
  | .pmov _ f => (match f with
      | .pv v p => { wv := [v], rp := [p] }
      | .vp p v => { rv := [v], wp := [p] }
      | .pack v => { wv := [v], rp := List.range 7 }
      | .unpk v => { rv := [v], wp := List.range 7 })
  | .lanemask _ d _ => { wv := [d] }
  | .fadd _ d a b _ | .fmul _ d a b _ | .fmnx _ d a b _ _ | .fscl _ d a b _ | .hadd _ d a b _ | .hmul _ d a b _
  | .hmnx _ d a b _ _ | .hscl _ d a b _ | .pack _ d a b _ _ _ => use2 1 1 1 d a b
  | .ffma _ d a b cc _ | .hfma _ d a b cc _ => use3 1 1 1 1 d a b cc
  | .fcmp _ p a b _ _ | .fcls _ p a b _ => useCmp 1 1 1 p a b
  | .hcmp _ p a b _ _ | .hcls _ p a b _ => useCmp 2 1 1 p a b
  | .frnd _ d a _ | .hrnd _ d a _ => use1 1 1 d a
  | .dadd _ d a b _ | .dmul _ d a b _ | .dmnx _ d a b _ _ => use2 2 2 2 d a b
  | .dscl _ d a b _ => use2 2 2 1 d a b
  | .dfma _ d a b cc _ => use3 2 2 2 2 d a b cc
  | .dcmp _ p a b _ _ => useCmp 1 2 2 p a b
  | .dcls _ p a b _ => useCmp 1 2 1 p a b
  | .drnd _ d a _ => use1 2 2 d a
  | .cvt _ d a _ dst src => use1 dst.regs src.regs d a
  | .cvtn _ d a src _ _ _ => (use1 1 src.regs d a).and (useVK 1 d)
  | .cvtw _ d a dst _ _ => use1 dst.regs 1 d a
  | .unpk _ d a _ => use1 2 1 d a
  | .cvti _ d a _ src dst _ => use1 dst.regs src.regs d a
  | .cvtf _ d a _ dst src _ => use1 dst.regs src.regs d a
  | .cvts _ d a dst src _ => use1 dst.regs src.regs d a
  | .rcp _ d a | .rsq _ d a | .sqrt _ d a | .ex2 _ d a | .lg2 _ d a | .sin _ d a | .cos _ d a | .tanh _ d a => use1 1 1 d a
  | .ld _ d a _ sz _ _ => (useW sz.regs d).and (useVK 2 a)
  | .st _ a b _ sz _ _ _ => (useVK 2 a).and (useVK sz.regs b)
  | .ldb _ d a _ _ _ => (useW 1 d).and (useVK 2 a)
  | .stb _ a b _ _ _ _ => (useVK 2 a).and (useVK 1 b)
  | .ldk _ d a _ w _ _ => { rk := regGroup 2 a, wk := regGroup (wideRegs w) d }
  | .stk _ a b _ w _ _ => { rk := regGroup 2 a ++ regGroup (wideRegs w) b }
  | .ldp _ d a _ sz _ | .ldw _ d a _ sz => { rv := [a], wv := regGroup sz.regs d }
  | .stp _ a b _ sz _ => { rv := [a] : RU }.and (useVK sz.regs b)
  | .atom _ d a b _ _ ty _ => ((useW ty.regs d).and (useVK 2 a)).and (useVK ty.regs b)
  | .atomc _ d a b cc ty _ => (((useW ty.regs d).and (useVK 2 a)).and (useVK ty.regs b)).and (useVK ty.regs cc)
  | .cflush _ a _ _ | .cinv _ a _ _ => (match a with | some r => useVK 2 r | none => {})
  | .pref _ a _ _ => useVK 2 a
  | .seqr _ d => useW 2 d
  | .tload _ _ a p _ => { rk := [a, a + 1, p] }
  | .tstore _ a _ p _ => { rk := [a, a + 1, p] }
  | .tgather _ _ a b _ => { rk := [a, a + 1], rv := [b] }
  | .tscat _ a _ cc _ => { rk := [a, a + 1], rv := [cc] }
  | .tfill _ _ a => useR 1 a
  | .coll _ _ _ b _ => { rk := [b] }
  | .pstat _ d _ _ => { wk := [d] }
  | .mma _ _ _ _ _ ad | .mmac _ _ _ _ _ _ ad => (match ad with | some r => { rv := [r.c] } | none => {})
  | .adpf _ a b _ => (useR 1 a).and (useR 1 b)
  | .barInit _ _ a => useR 1 a
  | .sread _ d r => useW (sregRegs r) d
  | .swrite _ a r => useR (sregWriteRegs r) a
  | _ => {}
/-- An instruction of ch. 12, for which a mark counts in an active lane only (R288). -/
def Instr.isFloat : Instr → Bool
  | .fadd .. | .fmul .. | .ffma .. | .fmnx .. | .fcmp .. | .fcls .. | .frnd .. | .fscl .. | .dadd .. | .dmul .. | .dfma .. | .dmnx .. | .dcmp ..
  | .dcls .. | .drnd .. | .dscl .. | .hadd .. | .hmul .. | .hfma .. | .hmnx .. | .hcmp .. | .hcls .. | .hrnd .. | .hscl .. | .cvt .. | .cvtn ..
  | .cvtw .. | .pack .. | .unpk .. | .cvti .. | .cvtf .. | .cvts .. | .rcp .. | .rsq .. | .sqrt .. | .ex2 .. | .lg2 .. | .sin .. | .cos ..
  | .tanh .. => true
  | _ => false

end Sys2Proof.Machine
end

