-- ==== Sys2Proof/Machine/Flags.lean ====
section
/-! DEFINITION. Completion flags, counters and incomplete operations (spec/02 R36, R37, 08 R191), and the conditions that
instructions compute into predicates: carries, integer comparisons, float comparisons (spec/11 R261, R266). -/

namespace Sys2Proof.Machine

/-- The flag an instruction selects; a word of a STITCH selects none (R36, R360). -/
def flagOf (x : Ctx) (c : Ctl) : Option Nat := if x.inWord then none else selectedFlag x.pa c.second
/-- A flag counts up to 32 incomplete operations (R36). -/
def flagRoom (x : Ctx) (c : Ctl) : Bool :=
  match flagOf x c with
  | some f => decide ((x.pa.flagOps.filter (fun e => e.1 = f)).length < 32)
  | none => true
/-- A counter stays at or below 127 (R191). -/
def counterRoom (x : Ctx) (n : Nat) : Bool := decide (x.sk.counters.getD n 0 < 127)

/-- Begin an operation of a slow class: it gets a number, counts on its flag and its counter, and pends its results. -/
def beginOp (x : Ctx) (c : Ctl) (o : Op) (s : State) : Nat × State :=
  let id := s.nextId
  let o := { o with path := x.path, fromStitch := x.inWord }
  let s := { s with nextId := id + 1 }
  (id, onSkein x (fun sk =>
    let sk := { sk with ops := NMap.insert sk.ops id o, counters := match o.counter with
      | some n => sk.counters.set n (sk.counters.getD n 0 + 1)
      | none => sk.counters }
    match flagOf x c with
    | some f => updPathSk sk x.path (fun pa => { pa with flagOps := pa.flagOps ++ [(f, id)] })
    | none => sk) s)
/-- An operation has completed. -/
def finishOp (s : State) (core slot op : Nat) : State := updSkein s core slot (fun sk => finishOpSk sk op)
def opOf (s : State) (core slot op : Nat) : Option Op := (skeinOf s core slot).bind (fun sk => NMap.get? sk.ops op)
def setOp (s : State) (core slot op : Nat) (o : Op) : State :=
  updSkein s core slot (fun sk => { sk with ops := NMap.insert sk.ops op o })
/-- Flags pending in a path's copy (R36). -/
def flagPending (pa : Path) (f : Nat) : Bool := pa.flagOps.any (fun e => decide (e.1 = f))
/-- Every flag of a wait mask is clear (R36). -/
def waitMet (pa : Path) (m : BitVec 12) : Bool := (List.range 12).all (fun f => !m.getLsbD f || !flagPending pa f)
/-- The registers a slow instruction still has to write (R36). -/
def pendOf (x : Ctx) (u : RU) : List RegRef := u.wv.map (fun n => .v (vkey x.pa.win n)) ++ u.wk.map .k

/-- Carry out of an n-bit sum, borrow out of an n-bit difference (R261). -/
def carryOut (n ua ub ci : Nat) : Bool := decide (2 ^ n ≤ ua + ub + ci)
def borrowOut (ua ub ci : Nat) : Bool := decide (ua < ub + ci)
/-- An integer comparison (R266). -/
def intCond (cc : ICond) (a b : Int) : Bool :=
  match cc with
  | .eq => decide (a = b)
  | .ne => decide (a ≠ b)
  | .lt => decide (a < b)
  | .le => decide (a ≤ b)
  | .gt => decide (b < a)
  | .ge => decide (b ≤ a)

end Sys2Proof.Machine
end

