-- ==== Sys2Proof/Machine/Requests.lean ====
section
/-! DEFINITION. The core's side of the memory system: slice requests, the L1 data cache, the store queue, and the progress of
fences, flushes, scoped atomics and SEQR (spec/09 R214 to R217, R228 to R232, 10 R238, R239). -/

namespace Sys2Proof.Machine

/-! Requests. -/

/-- A request of a core, from the request port of its cluster. -/
def postCore (s : State) (kind : ReqKind) (who : ReqOwner) (line : Nat) (pol : CPol) (core : Nat) : Nat × State :=
  postReq s kind who line pol (partOf s core) (dieOf core) (portOf core)
/-- The request changes a location. -/
def Req.isWrite (r : Req) : Bool := match r.kind with | .write _ _ | .atomic _ => true | _ => false
/-- The core a request belongs to. -/
def ReqOwner.core : ReqOwner → Option Nat
  | .load c _ _ _ | .store c _ _ | .writeback c _ | .atomic c _ _ _ | .prefetch c | .copy c _ _ => some c
  | .agent _ | .system => none
/-- The skein whose last stamp the acknowledgement overwrites (R232). -/
def ReqOwner.skein : ReqOwner → Option (Nat × Nat)
  | .store c k _ | .atomic c k _ _ => some (c, k)
  | .writeback c (some k) => some (c, k)
  | _ => none

/-! The L1 (R214). -/

/-- The set of a line. -/
def l1Set (line : Nat) : Nat := line % 128
def updL1 (s : State) (core : Nat) (f : NMap L1Line → NMap L1Line) : State := updCore s core (fun c => { c with l1 := f c.l1 })
/-- Write back the dirty bytes of a line and leave it clean (R214). DEDUCED, log entry 21. -/
def writeBackLine (s : State) (core : Nat) (slot : Option Nat) (line : Nat) : State :=
  match NMap.get? (coreOf s core).l1 line with
  | none => s
  | some e =>
    if e.dirty = 0 then s else
    let (_, s) := postCore s (.write e.dirty e.data) (.writeback core slot) line .keep core
    dropFills (updL1 s core (fun l => NMap.insert l line { e with dirty := 0 })) core (some line)
/-- Write back every line, ascending (R229). -/
def writeBackAll (s : State) (core : Nat) (slot : Option Nat) : State :=
  (NMap.keys (coreOf s core).l1).foldl (fun s l => writeBackLine s core slot l) s
/-- Clear the clean bytes of a line; a line without valid bytes is gone. -/
def cleanOut (l : NMap L1Line) (line : Nat) : NMap L1Line :=
  match NMap.get? l line with
  | none => l
  | some e => if e.valid &&& e.dirty = 0 then NMap.erase l line else NMap.insert l line { e with valid := e.valid &&& e.dirty }
/-- The acquire action on the L1: every valid mask becomes the dirty mask (09 Table 3). -/
def acquireL1 (s : State) (core : Nat) : State :=
  dropFills (updL1 s core (fun l => (NMap.keys l).foldl cleanOut l)) core none
/-- Make room in the set of a line, writing back the victim's dirty bytes (R214, R217). Where no line of a full set is its first victim, the
line filled or merged longest ago leaves, and a load that hits counts as no use. DESIGN CHOICE, log entry 99. -/
def l1Room (s : State) (core line : Nat) : State :=
  let l1 := (coreOf s core).l1
  if (NMap.get? l1 line).isSome then s else
  let same := l1.filter (fun e => l1Set e.1 = l1Set line)
  if same.length < 16 then s else
  match leastBy (fun (e : Nat × L1Line) => if e.2.firstVictim then 0 else e.2.used + 1) same with
  | none => s
  | some v => updL1 (writeBackLine s core none v.1) core (fun l => NMap.erase l v.1)
/-- Change or allocate a line, as the most recently used of its set. DEDUCED, log entry 38. -/
def l1Put (s : State) (core line : Nat) (f : L1Line → L1Line) : State :=
  let s := l1Room s core line
  updCore s core (fun c =>
    let old := NMap.getD c.l1 line { data := 0, valid := 0, dirty := 0, used := 0, firstVictim := false }
    { c with l1clock := c.l1clock + 1, l1 := NMap.insert c.l1 line { f old with used := c.l1clock } })
/-- A fill replaces every byte of the line that is not dirty (R238). DEDUCED, log entry 26. -/
def l1Fill (s : State) (core line : Nat) (d : LineData) (first : Bool) : State :=
  l1Put s core line (fun e => { e with data := mergeLine d e.dirty e.data, valid := allLanes, firstVictim := first })
/-- A written-back entry merges its bytes (R215). DEDUCED, log entry 38. -/
def l1Merge (s : State) (core : Nat) (e : SqEntry) : State :=
  l1Put s core e.line (fun l => { l with data := mergeLine l.data e.mask e.data, valid := l.valid ||| e.mask, dirty := l.dirty ||| e.mask, firstVictim := e.firstVictim })
/-- A written-through entry updates the bytes of a present line and clears their dirty bits (R215). DEDUCED, log entry 38. -/
def l1Through (s : State) (core : Nat) (e : SqEntry) : State :=
  dropFills (updL1 s core (fun l => nupdate l e.line (fun x =>
    { x with data := mergeLine x.data (e.mask &&& x.valid) e.data, dirty := without x.dirty e.mask }))) core (some e.line)

/-! Where a load finds its bytes (R216). -/

/-- The bytes of a line that the skein's own store queue holds, the youngest entry winning. -/
def sqBytes (q : List SqEntry) (line : Nat) : LMask × LineData :=
  q.foldl (fun a e => if e.line = line then (a.1 ||| e.mask, mergeLine a.2 e.mask e.data) else a) (0, 0)
/-- Bytes of a line found in the core: the store queue, then the L1's valid bytes, or only its dirty ones. -/
def foundBytes (s : State) (core : Nat) (sk : Skein) (line : Nat) (dirtyOnly : Bool) : LMask × LineData :=
  let q := sqBytes sk.sq line
  match NMap.get? (coreOf s core).l1 line with
  | none => q
  | some e =>
    let m := if dirtyOnly then e.dirty else e.valid
    (q.1 ||| m, mergeLine (mergeLine 0 m e.data) q.1 q.2)
/-- The bytes found that a load takes whatever else it needs: those of the skein's store queue and the L1's dirty ones (R216). -/
def strongBytes (s : State) (core : Nat) (sk : Skein) (line : Nat) : LMask :=
  (sqBytes sk.sq line).1 ||| ((NMap.get? (coreOf s core).l1 line).map L1Line.dirty).getD 0
/-- A fill has come to the L1: loads of the line that the slice accepted before it are too old to fill after it (R238). DEDUCED, log entry 26. -/
def fillNewer (s : State) (core line took : Nat) : State :=
  staleFills s core (fun p => decide (p.line = line) && (p.req.bind (reqOf s)).any (fun r => !r.onWay && decide (r.took < took)))

/-! Fences and what waits on memory (R229, R230, R232). -/

/-- Scopes in ascending order. -/
def scopeRank : Scope → Nat | .sk => 0 | .bolt => 1 | .clu => 2 | .die => 3 | .dev => 4 | .pod => 5 | .sys => 6
/-- The operation precedes what the path issues now: its own, or one from before the skein split (R233). -/
def Op.ofPath (o : Op) (path : Nat) : Bool := decide (o.path = path) || decide (o.path = 2)
/-- The incomplete loads of a path (R229). -/
def pathLoads (sk : Skein) (path : Nat) : List Nat := (sk.ops.filter (fun e => e.2.isLoad && e.2.ofPath path)).map Prod.fst
def loadsBack (sk : Skein) (l : List Nat) : Bool := l.all (fun o => (NMap.get? sk.ops o).isNone)
/-- A write that a release at a scope waits for (09 Table 3). -/
def releaseWaits (scope : Scope) (r : Req) : Bool :=
  r.isWrite && (match regionOf (128 * r.line) with
    | .host => r.onWay || decide (scope = .sys)
    | .pod _ _ => decide (5 ≤ scopeRank scope)
    | _ => r.onWay)
/-- None of the requests still holds a release back. -/
def waitsDone (s : State) (scope : Scope) (l : List Nat) : Bool :=
  s.reqs.all (fun r => !(decide (r.id ∈ l) && releaseWaits scope r))
/-- The writes the skeins of a core have sent, and those of its copies that are complete: of a copy under way none, which WAITC orders
(R244, 09 Table 3). -/
def coreWrites (s : State) (core : Nat) : List Nat :=
  (s.reqs.filter (fun r => r.isWrite && decide (r.who.core = some core) && (match r.who with
    | .copy _ op _ => (coreOf s core).copyq.all (fun c => decide (c.op ≠ op))
    | _ => true))).map Req.id
/-- The release actions, one stage at a time. -/
def releaseStep (s : State) (core slot : Nat) (sk : Skein) (scope : Scope) (pg : Progress) : Progress × State :=
  if pg.stage = 0 then
    if loadsBack sk pg.loads && (decide (scope = .sk) || decide (sk.sq = [] ∧ sk.sqWait = [])) then
      if 2 ≤ scopeRank scope then
        let s := writeBackAll s core (some slot)
        ({ pg with stage := 1, waits := coreWrites s core }, s)
      else ({ pg with stage := 2 }, s)
    else (pg, s)
  else if pg.stage = 1 then (if waitsDone s scope pg.waits then { pg with stage := 2 } else pg, s)
  else (pg, s)
/-- The inbound writes that had arrived before a number, and that an acquire at a scope waits for, have been performed at their slices
(R229, R248). -/
def inboundDone (s : State) (scope : Scope) (mark : Nat) : Bool :=
  (decide (scopeRank scope < 5) || s.podBuf.all (fun w => decide (mark ≤ w.num))) && (decide (scope ≠ .sys) || s.hostBuf.all (fun w => decide (mark ≤ w.num)))
/-- What arrived before an acquire that begins now. -/
def inboundMark (s : State) (pg : Progress) : Progress := match pg.inbound with | some _ => pg | none => { pg with inbound := some s.nextId }
/-- The acquire actions, once every earlier load has returned. -/
def acquireStep (s : State) (core : Nat) (sk : Skein) (scope : Scope) (pg : Progress) : Progress × State :=
  if pg.stage = 2 ∧ loadsBack sk pg.loads then
    let pg := inboundMark s pg
    if inboundDone s scope (pg.inbound.getD 0) then ({ pg with stage := 3 }, if 2 ≤ scopeRank scope then acquireL1 s core else s)
    else (pg, s)
  else (pg, s)
/-- A FENCE advances; the flag says it is complete. -/
def fenceStep (s : State) (core slot : Nat) (sk : Skein) (k : FenceKind) (scope : Scope) (pg : Progress) : Bool × Progress × State :=
  let (pg, s) := if k = .acq then (if pg.stage < 2 then { pg with stage := 2 } else pg, s) else
    let (p, s) := releaseStep s core slot sk scope pg
    releaseStep s core slot sk scope p
  if k = .rel then (decide (2 ≤ pg.stage), pg, s)
  else
    let (pg, s) := acquireStep s core sk scope pg
    (decide (pg.stage = 3), pg, s)
/-- CFLUSH and CINV advance (R230): the lines are fixed when they begin. -/
def flushStep (s : State) (core slot : Nat) (sk : Skein) (inv : Bool) (scope : Scope) (lines : Option (List Nat)) (pg : Progress) :
    Bool × Progress × State :=
  let pg := if inv then inboundMark s pg else pg
  let (pg, s) :=
    if pg.stage = 0 ∧ sk.sq = [] ∧ sk.sqWait = [] ∧ (!inv ∨ inboundDone s scope (pg.inbound.getD 0)) then
      let ls := lines.getD (NMap.keys (coreOf s core).l1)
      let s := ls.foldl (fun s l => writeBackLine s core (some slot) l) s
      ({ pg with stage := 1, waits := coreWrites s core, lines := ls }, s)
    else (pg, s)
  let (pg, s) :=
    if pg.stage = 1 ∧ waitsDone s .dev pg.waits then
      if inv then ({ pg with stage := 3 }, dropFills (updL1 s core (fun l => (match lines with | some _ => pg.lines | none => NMap.keys l).foldl cleanOut l)) core none)
      else if scope = .sys then
        let r := (pg.lines.filter (fun l => isMain (128 * l))).foldl (fun (a : List Nat × State) l =>
          let (id, s) := postCore a.2 .clean (.prefetch core) l .byp core
          (a.1 ++ [id], s)) (([] : List Nat), s)
        ({ pg with stage := 2, waits := r.1 }, r.2)
      else ({ pg with stage := 3 }, s)
    else (pg, s)
  let pg := if pg.stage = 2 ∧ s.reqs.all (fun r => !decide (r.id ∈ pg.waits)) then { pg with stage := 3 } else pg
  (decide (pg.stage = 3), pg, s)
/-- Write a value of several registers, lowest word first, in some lanes or in uniform registers; the lanes of `bad` carry
poison (R220). -/
def writeResultsN (sk : Skein) (dst : List RegRef) (lanes bad : LMask) (v : Nat → Nat) : Skein :=
  (dst.zip (List.range dst.length)).foldl (fun sk e => match e.1 with
    | .v key => vput sk key lanes (fun l => BitVec.ofNat 32 (v l / 2 ^ (32 * e.2))) bad
    | .k n => kput sk n (BitVec.ofNat 32 (v (lowest lanes) / 2 ^ (32 * e.2))) (decide (bad ≠ 0))
    | .p _ => sk) sk
def writeResults (sk : Skein) (dst : List RegRef) (lanes bad : LMask) (v : Nat → DWord) : Skein :=
  writeResultsN sk dst lanes bad (fun l => (v l).toNat)
/-- The old value an atomic answers, extended under its type (R228). -/
def atomResult (ty : IType) (v : DWord) : DWord := intBits (readInt (itWidth ty) (itSigned ty) v.toNat)
/-- An atomic advances: release at a wider scope, its store queue and its lines written back, its requests sent, and, when all
have answered, the acquire and the results (R228). -/
def atomicStep (s : State) (core slot op : Nat) (sk : Skein) (todo : List (Nat × Nat × AtomReq)) (left : Nat) (scope : Scope)
    (got : List (Nat × DWord × Bool)) (ty : IType) (dst : List RegRef) (sent : Bool) (pg : Progress) : Bool × OpBody × State :=
  if sent then
    if left ≠ 0 then (false, .atomic todo left scope got ty dst sent pg, s) else
    let (pg, s) := if scope = .sk then ({ pg with stage := 3 }, s) else acquireStep s core sk scope { pg with stage := 2 }
    if pg.stage = 3 then
      let lanes := lmask (fun l => got.any (fun g => decide (g.1 = l)))
      let v := fun l => atomResult ty ((got.find? (fun g => g.1 = l)).elim 0 (fun g => g.2.1))
      let bad := lmask (fun l => got.any (fun g => decide (g.1 = l) && g.2.2))
      (true, .atomic todo left scope got ty dst sent pg, updSkein s core slot (fun sk => writeResults sk dst lanes bad v))
    else (false, .atomic todo left scope got ty dst sent pg, s)
  else
    let (pg, s) := if scope = .sk then ({ pg with stage := 2 }, s) else
      let (p, s) := releaseStep s core slot sk scope pg
      releaseStep s core slot sk scope p
    if pg.stage = 2 ∧ sk.sq = [] ∧ sk.sqWait = [] then
      -- the write-back of the atomic's own line is none of those whose stamp the skein keeps (R232)
      let s := (dedup (todo.map (fun t => t.2.1))).foldl (fun s l => writeBackLine s core none l) s
      let s := todo.foldl (fun s t => (postCore s (.atomic t.2.2) (.atomic core slot op t.1) t.2.1 .keep core).2) s
      (false, .atomic todo left scope got ty dst true pg, s)
    else (false, .atomic todo left scope got ty dst false pg, s)
/-- No operation before SEQR can still send a write, or wait for the acknowledgement of one (R232). DEDUCED, log entry 37. -/
def seqrAlone (sk : Skein) (op : Nat) : Bool :=
  sk.ops.all (fun o => decide (op ≤ o.1) || (match o.2.body with
    | .atomic _ _ _ _ _ _ _ _ | .store _ | .fence _ _ _ | .flush _ _ _ _ => false
    | _ => true))
/-- Every write whose acknowledgement SEQR waits for has been acknowledged (R232). DEDUCED, log entry 37. -/
def seqrDone (s : State) (core slot : Nat) (sk : Skein) (op mark : Nat) : Bool :=
  seqrAlone sk op && s.reqs.all (fun r => decide (r.who ≠ .writeback core (some slot)) || decide (mark ≤ r.id))

/-- One operation of a skein advances as far as it can. -/
def pokeOp (core slot : Nat) (s : State) (op : Nat) : State :=
  match skeinOf s core slot with
  | none => s
  | some sk =>
    match NMap.get? sk.ops op with
    | none => s
    | some o =>
      let close := fun (done : Bool) (b : OpBody) (s : State) =>
        if done then finishOp s core slot op else setOp s core slot op { o with body := b }
      match o.body with
      | .fence k sc pg =>
        let (d, pg, s) := fenceStep s core slot sk k sc pg
        close d (.fence k sc pg) s
      | .flush inv sc ls pg =>
        let (d, pg, s) := flushStep s core slot sk inv sc ls pg
        close d (.flush inv sc ls pg) s
      | .atomic todo left sc got ty dst sent pg =>
        let (d, b, s) := atomicStep s core slot op sk todo left sc got ty dst sent pg
        close d b s
      | .seqr dst lanes mark =>
        if seqrDone s core slot sk op mark then
          finishOp (updSkein s core slot (fun sk => writeResults sk dst lanes 0 (fun _ => sk.lastStamp))) core slot op
        else if seqrAlone sk op then s
        else setOp s core slot op { o with body := .seqr dst lanes s.nextId }
      | _ => s
/-- Every operation of a core that waits on memory advances. -/
def pokeCore (s : State) (core : Nat) : State :=
  (coreOf s core).skeins.foldl (fun (s : State) (e : Nat × Skein) => (NMap.keys e.2.ops).foldl (pokeOp core e.1) s) s
/-- Every core's operations advance. -/
def pokeAll (s : State) : State := (NMap.keys s.cores).foldl pokeCore s

/-- Before a bolt's first clause its core performs the acquire actions at `.sys`; they wait for the inbound writes that were there at its
admission (R247). -/
def drainAcquire (s : State) : State :=
  s.cores.foldl (fun (s : State) e =>
    let due := fun (b : Bolt) => !b.acquired && inboundDone s .sys b.acqMark
    if e.2.bolts.any (fun b => due b.2) then
      updCore (acquireL1 s e.1) e.1 (fun c => { c with bolts := c.bolts.map (fun b => (b.1, if due b.2 then { b.2 with acquired := true } else b.2)) })
    else s) s
/-- An inbound write has been performed: the acquires that waited for it go on (R229, R247). -/
def bufferMoved (s : State) : State := drainAcquire (pokeAll s)

/-- A walk for a prefetch has ended with a translation: the prefetch is sent, if its address may be (R231). -/
def sendPrefetch (s : State) (core : Nat) (l2 : Bool) (x : Xl) : State :=
  match useCheck s (dieOf core) x .other with
  | .ok y => if isMain y.pa then (postCore s (if l2 || decide (y.type = 1) then .prefetch else .read allLanes) (.prefetch core) (y.pa / 128) .keep core).2 else s
  | .error _ => s

/-! Issue conditions that memory puts on later instructions. -/

/-- An incomplete FENCE or scoped atomic of the path holds the instruction back; `rel` for those a release holds back, `acq` for
those an acquire holds back (R229, R228). -/
def fenceBlocks (x : Ctx) (rel acq : Bool) : Bool :=
  x.sk.ops.any (fun e => e.2.ofPath x.path && (match e.2.body with
    | .fence k _ pg => (rel && decide (k ≠ .acq) && decide (pg.stage < 2)) || (acq && decide (k ≠ .rel))
    | .atomic _ _ sc _ _ _ sent _ => decide (sc ≠ .sk) && ((rel && !sent) || acq)
    | _ => false))
/-- The instruction cannot issue yet: entries of a store still wait for the queue, or a fence holds it (R215, R229). -/
def memHeld (x : Ctx) (rel acq : Bool) : Bool := decide (x.sk.sqWait ≠ []) || fenceBlocks x rel acq

end Sys2Proof.Machine
end

