-- ==== Sys2Proof/Machine/Fabric.lean ====
section
/-! DEFINITION. Events between cores and memory: request ports, routers, slices, HBM4E channels, die links, table walks and write
acknowledgements (spec/05, spec/04 R83 to R85, R93). -/

namespace Sys2Proof.Machine

/-- Runs of consecutive bytes of a mask: offset and bytes, ascending. -/
def maskRuns (m : LMask) (d : LineData) : List (Nat × List Byte) :=
  (lanesOf m).foldl (fun (acc : List (Nat × List Byte)) b =>
    match acc.getLast? with
    | some r => if r.1 + r.2.length = b then acc.dropLast ++ [(r.1, r.2 ++ [lineByte d b])] else acc ++ [(b, [lineByte d b])]
    | none => [(b, [lineByte d b])]) []

/-! UALink send side (R432, R433). -/

/-- The virtual channel of pod-window traffic of an owner: the lowest channel it owns, else 0. -/
def podChannel (s : State) (owner : Nat) : Nat :=
  if owner = 8 then 0 else ((List.range 16).find? (fun v => v ≠ 0 ∧ nibble s.dev.ualvcown.now.toNat v = owner)).getD 0
/-- Ports that are Up and not Failed, ascending. DEDUCED, log entry 50. -/
def upPorts (s : State) : List Nat := (s.ports.filter (fun e => e.2.up && !e.2.failed)).map Prod.fst
/-- The port that carries channel `v` to package `n`. DEDUCED, log entry 50. -/
def podPort (s : State) (n v : Nat) : Option Nat :=
  let u := upPorts s
  if u = [] then none else u[(n + v) % u.length]?
/-- Queue a flit for another package at its port; while no port is Up it waits at port 0, from where UALINK_PORT_CHANGE moves it. -/
def podSend (s : State) (f : UalFlit) : State :=
  let p := (podPort s f.dest f.vc).getD 0
  let x := NMap.getD s.ports p {}
  { s with ports := NMap.insert s.ports p { x with txQueue := x.txQueue ++ [{ f with src := Config.packageNumber }] } }
/-- The flits of a pod-window request. -/
def podFlits (s : State) (r : Req) : List UalFlit :=
  match regionOf (128 * r.line) with
  | .pod pkg addr =>
    let mk := fun m => ({ dest := pkg, vc := podChannel s r.owner, msg := m } : UalFlit)
    match r.kind with
    | .write m d => (maskRuns m d).map (fun e => mk (.write (addr + e.1) e.2))
    | .read need => (maskRuns need 0).map (fun e => mk (.read (addr + e.1) e.2.length))
    | .atomic a => [mk (if a.isCas then .compareSwap (addr + a.off) a.ty a.b a.c else .atomic (addr + a.off) a.op a.ty a.b)]
    | _ => []
  | _ => []

/-! The networks (R108 to R111, R466). Requests and replies pass two router stages; a buffer of a stage holds 4 for each pair of
output and owner. -/

/-- Die-link direction from die a to die b (R118). -/
def linkDir (a b : Nat) : Nat := 4 * a + b
/-- The port by which a request enters its home die's network (R108). -/
def inPort (r : Req) : Nat := if r.homeDie = r.die then r.port else 12 + (if r.die < r.homeDie then r.die else r.die - 1)
/-- A counter message of a pipe uses the egress buffers and the die links only (R139). -/
def Req.isMsg (r : Req) : Bool := match r.kind with | .msg _ => true | _ => false
/-- The first-stage and second-stage request buffers: false on the requester's die, true on the home die after a die link (R109). -/
def Req.hop1 (r : Req) : Option Bool := match r.stage with | .net1 => some false | .home1 => some true | _ => none
def Req.hop2 (r : Req) : Option Bool := if r.isMsg then none else match r.stage with | .net2 => some false | .home2 => some true | _ => none
/-- The die, the input port and the slice index of a passage of the request network: its home slice, or the proxy (R109). -/
def hopDie (r : Req) (h : Bool) : Nat := if h then r.homeDie else r.die
def hopPort (r : Req) (h : Bool) : Nat := if h then inPort r else r.port
def hopSlice (s : State) (r : Req) (h : Bool) : Nat :=
  if h || decide (r.homeDie = r.die) then r.homeSlice % 16 else pickSlice s r.die (r.homeSlice % 16)
/-- Room in the first-stage buffer of a passage. DEDUCED, log entry 68. -/
def netRoom1 (s : State) (r : Req) (h : Bool) : Bool :=
  decide ((s.reqs.filter (fun q => match q.hop1 with
    | some g => decide (hopDie q g = hopDie r h) && decide (hopPort q g = hopPort r h) && decide (q.owner = r.owner) && decide (hopSlice s q g / 4 = hopSlice s r h / 4)
    | none => false)).length < 4)
/-- Room in the second-stage buffer of a passage. DEDUCED, log entry 68. -/
def netRoom2 (s : State) (r : Req) (h : Bool) : Bool :=
  decide ((s.reqs.filter (fun q => match q.hop2 with
    | some g => decide (hopDie q g = hopDie r h) && decide (hopSlice s q g = hopSlice s r h) && decide (hopPort q g / 4 = hopPort r h / 4) && decide (q.owner = r.owner)
    | none => false)).length < 4)
/-- The reply buffers: true at the home die, false at the requester's die. -/
def Req.back1 (r : Req) : Option Bool := match r.stage with | .reply => some true | .proxy => some false | _ => none
def Req.back2 (r : Req) : Option Bool := if r.isMsg then none else match r.stage with | .replyPort => some true | .done => some false | _ => none
/-- The port a passage of the reply network leads to: the requester's, or the die link's. -/
def backPort (r : Req) (h : Bool) : Nat := if h then inPort r else r.port
/-- Room in the first-stage and in the second-stage reply buffer. DEDUCED, log entry 68. -/
def backRoom1 (s : State) (r : Req) (h : Bool) : Bool :=
  decide ((s.reqs.filter (fun q => match q.back1 with
    | some g => decide (hopDie q g = hopDie r h) && decide (hopSlice s q g = hopSlice s r h) && decide (backPort q g / 4 = backPort r h / 4) && decide (q.owner = r.owner)
    | none => false)).length < 4)
/-- The second-stage buffer of the reply network has room for a reply (R111). DEDUCED, log entry 68. -/
def backRoom2 (s : State) (r : Req) (h : Bool) : Bool :=
  decide ((s.reqs.filter (fun q => match q.back2 with
    | some g => decide (hopDie q g = hopDie r h) && decide (hopSlice s q g / 4 = hopSlice s r h / 4) && decide (backPort q g = backPort r h) && decide (q.owner = r.owner)
    | none => false)).length < 4)

/-! Die-link egress (R111, R122, R124, R126). -/

/-- Class of an owner's traffic, and of a request (R124). -/
def ownerClass (o : Nat) : LinkClass := if o < 8 then .part o else .unreserved
def Req.cls (r : Req) : LinkClass := match r.pipe with | some e => .pipe e.1 e.2 | none => ownerClass r.owner
/-- A request or reply that carries a line needs a flit of its own (R122). -/
def Req.carriesLine (r : Req) : Bool :=
  match r.stage, r.kind with
  | .replyPort, .read _ | .replyEgress, .read _ | .replyPort, .slotRead _ _ | .replyEgress, .slotRead _ _ => true
  | .replyPort, _ | .replyEgress, _ => false
  | _, .write _ _ | _, .slotWrite _ _ _ => true
  | _, _ => false
/-- The direction whose egress a request or reply waits at. -/
def egressDir (r : Req) : Option Nat :=
  match r.stage with
  | .egress => some (linkDir r.die r.homeDie)
  | .replyEgress => some (linkDir r.homeDie r.die)
  | _ => none
/-- What waits at the egress of a direction in a class, oldest first. DEDUCED, log entry 67. -/
def egressItems (s : State) (x : Nat) (cls : LinkClass) : List Req :=
  sortBy (fun r => r.since) (s.reqs.filter (fun r => decide (egressDir r = some x) && decide (r.cls = cls)))
/-- The next flit: one line, or up to five headers (R122). DEDUCED, log entry 67. -/
def flitItems : List Req → List Req
  | [] => []
  | r :: rest => if r.carriesLine then [r] else r :: ((rest.takeWhile (fun q => !q.carriesLine)).take 4)
/-- The flits that a queue of requests and replies makes. -/
def flitCount : Nat → List Req → Nat
  | 0, _ => 0
  | k + 1, l => if l = [] then 0 else 1 + flitCount k (l.drop (flitItems l).length)
/-- A die-link egress holds 32 flits of a class. -/
def egressRoom (s : State) (x : Nat) (r : Req) : Bool :=
  let l := egressItems s x r.cls ++ [r]
  decide (flitCount l.length l ≤ 32)

/-! Movement. -/

/-- A reply has come to its requester's port: an agent or a copy engine takes its line at once, and nobody keeps the acknowledgement of an agent's write
or of a pipe's slot line. -/
def absorb (s : State) (r : Req) : State :=
  match r.who, r.kind with
  | .agent a, .read _ => { dropReq s r.id with lines := s.lines ++ [⟨a, r.line, r.rdata, r.rpoison, 0⟩] }
  | .agent a, .slotRead _ i => { dropReq s r.id with lines := s.lines ++ [⟨a, i, r.rdata, r.rpoison, 0⟩] }
  | .copy core op piece, .read _ | .copy core op piece, .slotRead _ _ =>
    updCore (dropReq s r.id) core (fun c => { c with copyq := mapIf (fun k => k.op = op) (fun k => { k with got := NMap.insert k.got piece (r.rdata, r.rpoison) }) c.copyq })
  | .agent a, .atomic x => { dropReq s r.id with lines := s.lines ++ [⟨a, r.line, lineOf x.off (leBytes (itWidth x.ty / 8) r.rold.toNat), r.rpoison, r.stamp⟩] }
  | .agent _, .write _ _ | .copy _ _ _, .write _ _ | .system, _ => dropReq s r.id
  | _, .slotWrite _ _ _ => dropReq s r.id
  | _, _ => s
/-- A reply or an acknowledgement is at its requester's port now. -/
def arrive (s : State) (r : Req) : State :=
  let q := { r with stage := .done, since := s.clock }
  absorb { s with reqs := s.reqs.filter (fun x => x.id ≠ r.id) ++ [q] } q
/-- An older request or reply of the same port, home slice, owner and die-link class waits in the same buffer: they keep their order (R110). -/
def behindOlder (s : State) (r : Req) : Bool :=
  (s.reqs.takeWhile (fun q => q.id ≠ r.id)).any (fun q => decide (q.stage = r.stage) && decide (q.die = r.die) && decide (q.port = r.port) &&
    decide (q.homeSlice = r.homeSlice) && decide (q.owner = r.owner) && decide (q.cls = r.cls))
/-- One request or reply moves on where the next buffer has room (R110, R111). DEDUCED, log entry 68. -/
def advanceReq (s : State) (id : Nat) : State :=
  match reqOf s id with
  | none => s
  | some r =>
    let go := fun (st : Stage) => updReq s id (fun q => { q with stage := st, since := s.clock })
    if behindOlder s r then s else
    match r.stage with
    | .net1 => if netRoom2 s r false then go .net2 else s
    | .net2 => if r.homeDie ≠ r.die ∧ egressRoom s (linkDir r.die r.homeDie) { r with stage := .egress } then go .egress else s
    | .ingress => if netRoom1 s r true then go .home1 else s
    | .home1 => if netRoom2 s r true then go .home2 else s
    | .reply => if r.homeDie = r.die then (if backRoom2 s r false then arrive s r else s) else if backRoom2 s r true then go .replyPort else s
    | .replyPort => if egressRoom s (linkDir r.homeDie r.die) { r with stage := .replyEgress } then go .replyEgress else s
    | .replyIngress => if backRoom1 s r false then go .proxy else s
    | .proxy => if backRoom2 s r false then arrive s r else s
    | _ => s
/-- Requests and replies move on, oldest first, as far as buffers have room. DEDUCED, log entry 68. -/
def advanceNet (s : State) : State :=
  s.reqs.foldl (fun s r => advanceReq (advanceReq s r.id) r.id) s
/-- The port can send the request now. DEDUCED, log entry 68. -/
def canSend (s : State) (r : Req) : Bool :=
  match regionOf (128 * r.line), r.pipe with
  | .pod pkg _, none => (podPort s pkg (podChannel s r.owner)).isSome
  | _, _ => netRoom1 s r false
/-- What an acceptance means to a record of a ring (R412). -/
def noteAccept (s : State) (r : Req) : State := match r.who with | .agent (.record id) => recordAccepted s id | _ => s
/-- REQUEST_PORT_SEND: the port sends its oldest request whose buffer has room, one per reference clock (R466). -/
def execRequestPortSend (die port : Nat) (s : State) : Out :=
  event (fun s =>
    let dd := NMap.getD s.dies die {}
    if NMap.get? dd.portSent port = some s.clock then s else
    match s.reqs.find? (fun r => decide (r.stage = .port) && decide (r.die = die) && decide (r.port = port) && canSend s r) with
    | none => s
    | some r =>
      let s := { s with dies := NMap.insert s.dies die { dd with portSent := NMap.insert dd.portSent port s.clock } }
      match regionOf (128 * r.line), r.pipe with
      | .pod _ _, none => noteAccept ((podFlits s r).foldl podSend (updReq s r.id (fun q => { q with stage := .remote, since := s.clock }))) r
      | _, _ =>
        if r.isMsg then updReq s r.id (fun q => { q with stage := .net2, since := s.clock })
        else advanceNet (updReq s r.id (fun q => { q with stage := .net1, since := s.clock }))) s

/-! Slices (R104, R112 to R116). -/

/-- The request holds an entry of its slice's queue (R112). -/
def Req.queued (r : Req) : Bool :=
  match r.stage with
  | .accepted _ | .miss | .fill _ => true
  | .remote => decide (regionOf (128 * r.line) = .host)
  | _ => false
/-- Which kind of queue entry is free for an owner: one of its reserved entries, an unreserved one, or none (R116). -/
def entryFor (s : State) (n owner : Nat) : Option Bool :=
  let held := s.reqs.filter (fun r => decide (r.homeSlice = n) && r.queued)
  let res := fun p => nibble s.dev.slqres.now.toNat p
  let total := (List.range 8).foldl (fun a p => a + res p) 0
  if owner < 8 ∧ (held.filter (fun r => r.reservedEntry && decide (r.owner = owner))).length < res owner then some true
  else if (held.filter (fun r => !r.reservedEntry)).length < 32 - total then some false
  else none
/-- A dirty victim can be held: fewer than 16 of its owner wait from the slice (R116). -/
def victimRoom (s : State) (n owner line : Nat) : Bool :=
  match sliceVictim s n owner line with
  | none => true
  | some k => match NMap.get? (sliceOf s n).lines k with
    | none => true
    | some l => !l.dirty || decide (((s.channels.flatMap (fun c => c.2.victims)).filter (fun v => decide (v.1 = l.owner) && decide (homeSlice s (128 * v.2.1) = n))).length < 16)
/-- The new value of an atomic (R228). -/
def atomNew (a : AtomReq) (old : Nat) : Nat :=
  let n := itWidth a.ty
  let pat := 2 ^ n
  let b := a.b.toNat % pat
  let o := readInt n (itSigned a.ty) old
  let v := readInt n (itSigned a.ty) b
  if a.isCas then (if old = b then a.c.toNat % pat else old)
  else match a.op with
    | .add => (old + b) % pat
    | .min => if v < o then b else old
    | .max => if o < v then b else old
    | .and => old &&& b
    | .or => old ||| b
    | .xor => old ^^^ b
    | .exch => b
    | .inc => if v ≤ o then 0 else (old + 1) % pat
/-- What a slice answers after acceptance: the hit time of its way, or the trip to memory. -/
def afterAccept (s : State) (hit : Bool) (way line : Nat) : Stage :=
  if hit then .accepted (s.clock + (if way % 16 < 8 then 14 else 16))
  else match regionOf (128 * line) with
    | .hbm _ => .miss
    | _ => .fill (s.clock + (if s.dev.secondCxl then 420 else 230))
/-- The units of its line that a request covers whole. -/
def Req.covers (r : Req) : BitVec 4 := match r.kind with | .write m _ => unitsCovered m | _ => 0
/-- A slice performs a request of main memory (R104, R113, R114). A line whose fill has not returned yet is held already: a later request for it
hits, and the request that began the fill carries the wait. DESIGN CHOICE, log entry 98. -/
def performMain (s : State) (r : Req) : State :=
  let n := r.homeSlice
  let hit := (sliceFind (sliceOf s n) r.line).isSome
  let put := fun (hit : Bool) (way : Nat) (f : Req → Req) (s : State) =>
    updReq s r.id (fun q => { f q with stage := afterAccept s hit way r.line, since := s.clock, way := way })
  match r.kind with
  | .read _ =>
    let (w, s) := sliceTouch s r.line r.owner r.policy false
    put hit (w.getD 0) (fun q => { q with rdata := lineRead s r.line, rpoison := linePoison s r.line }) s
  | .prefetch =>
    let (w, s) := sliceTouch s r.line r.owner r.policy false
    put hit (w.getD 0) id s
  | .write m d =>
    let (w, s) := sliceTouch s r.line r.owner r.policy true
    let (st, s) := sliceWrite s r.line m d (inPort r)
    let s := addPoison s r.line (r.rpoison &&& unitsTouched m)
    put (hit || (decide (m = allLanes) && decide (r.policy ≠ .byp))) (w.getD 0) (fun q => { q with stamp := st }) s
  | .atomic a =>
    let (w, s) := sliceTouch s r.line r.owner r.policy true
    let size := itWidth a.ty / 8
    let old := lineNat (lineRead s r.line) a.off size
    let bad := decide (unitsTouched (maskBytes a.off size) &&& linePoison s r.line ≠ 0)
    let (st, s) := sliceWrite s r.line (maskBytes a.off size) (lineOf a.off (leBytes size (atomNew a old))) (inPort r)
    put hit (w.getD 0) (fun q => { q with rold := BitVec.ofNat 64 old, rpoison := if bad then 15 else 0, stamp := st }) s
  | .clean =>
    let sl := sliceOf s n
    match sliceFind sl r.line with
    | some k =>
      let dirty := ((NMap.get? sl.lines k).map SliceLine.dirty).getD false
      put (!dirty) k id (setSlice s n { sl with lines := nupdate sl.lines k (fun l => { l with dirty := false }) })
    | none => put true 0 id s
  | .slotWrite _ _ _ | .slotRead _ _ | .msg _ => s
/-- A pipe of a plan. -/
def pipeOf (s : State) (plan pipe : Nat) : Option Pipe := (NMap.get? s.plans plan).bind (fun p => NMap.get? p.pipes pipe)
def updPipe (s : State) (plan pipe : Nat) (f : Pipe → Pipe) : State :=
  { s with plans := nupdate s.plans plan (fun p => { p with pipes := nupdate p.pipes pipe f }) }
/-- Bytes `at_` onward of a slot replaced. -/
def putSlot (sl : PipeSlot) (at_ : Nat) (bs : List Byte) : PipeSlot :=
  let old := sl.bytes ++ List.replicate (at_ + bs.length - sl.bytes.length) 0
  { sl with bytes := old.take at_ ++ bs ++ old.drop (at_ + bs.length) }
/-- The home slice of line i of slot j of a pipe, by its place among the pipe's home slices (R130). -/
def slotSlice (s : State) (p : Pipe) (slot i : Nat) : Nat :=
  let hs := (List.range 16).filter (fun k => p.slices.testBit k && s.dev.slices.getLsbD (16 * p.homeDie + k))
  16 * p.homeDie + hs.getD ((slot * p.lines + i) % max 1 hs.length) 0
/-- A slice performs a read or write of a pinned slot line; a write is stamped (R113, R114, R130). DEDUCED, log entry 52. -/
def performSlot (s : State) (r : Req) : State :=
  let n := r.homeSlice
  let sl := sliceOf s n
  match r.pipe with
  | none => s
  | some (plan, pipe) =>
    let index := fun (slot i : Nat) => ((pipeOf s plan pipe).map (fun p => slot * p.lines + i)).getD 0
    let way := fun (slot i : Nat) => ((sl.pins.find? (fun e => decide (e.2 = .slotLine plan pipe (index slot i)))).map Prod.fst).getD 0
    match r.kind with
    | .slotWrite slot i d =>
      let s := setSlice s n { sl with seq := (sl.seq + 1) % 2 ^ 48 }
      let s := updPipe s plan pipe (fun p => { p with slots := NMap.insert p.slots slot (putSlot (NMap.getD p.slots slot {}) (128 * i) (lineBytes d 0 128)) })
      updReq s r.id (fun q => { q with stage := afterAccept s true (way slot i) 0, since := s.clock, way := way slot i, stamp := nextStamp n sl.seq })
    | .slotRead slot i =>
      let x := ((pipeOf s plan pipe).map (fun p => NMap.getD p.slots slot {})).getD {}
      let d := lineOf 0 ((x.bytes.drop (128 * i)).take 128)
      updReq s r.id (fun q => { q with stage := afterAccept s true (way slot i) 0, since := s.clock, way := way slot i, rdata := d, rpoison := if x.poison then 15 else 0 })
    | _ => s
/-- The host address of a byte of a line of the host window (R428). -/
def hostAddr (line off : Nat) : Nat := (128 * line + off) % 2 ^ 50
/-- A host-window request passes its ordering slice, which stamps a write or an atomic, to the system port and the host (R106, R114, R411,
R428). A run of bytes with poison leaves as a poisoned write (R426). -/
def performHost (s : State) (r : Req) : State :=
  let sl := sliceOf s r.homeSlice
  let st := nextStamp r.homeSlice sl.seq
  let pass := fun (s : State) => updReq s r.id (fun q => { q with stage := .remote, since := s.clock })
  let stamped := fun (s : State) =>
    let s := setSlice s r.homeSlice { sl with seq := (sl.seq + 1) % 2 ^ 48 }
    updReq (monitorWrite (pass s) r.line r.homeSlice (inPort r) st) r.id (fun q => { q with stamp := st })
  match r.kind with
  | .write m d => (maskRuns m d).foldl (fun s e =>
      hostSend s (.write (hostAddr r.line e.1) e.2 (decide (unitsTouched (maskBytes e.1 e.2.length) &&& r.rpoison ≠ 0)))) (stamped s)
  | .read need => (maskRuns need 0).foldl (fun s e => hostSend s (.read (hostAddr r.line e.1) e.2.length)) (pass s)
  | .atomic a => hostSend (stamped s) (.atomic (hostAddr r.line a.off) a)
  | _ => dropReq s r.id
/-- The request a slice takes in this clock: the oldest of the clock's owner, else the oldest unreserved one (R112, R115). DESIGN CHOICE, log entry 5. -/
def acceptChoice (s : State) (n : Nat) : Option Req :=
  let waiting := fun o => leastBy (fun r => 16 * r.since + inPort r) (s.reqs.filter (fun r => r.hop2.any (fun h => h || decide (r.homeDie = r.die)) && decide (r.homeSlice = n) && decide (r.owner = o)))
  let o := nibble s.dev.slown.now.toNat (s.clock % 16)
  (if o < 8 then waiting o else none).or (waiting 8)
/-- The request needs no victim, or its victim can be held (R116). -/
def sliceFits (s : State) (slice : Nat) (r : Req) : Bool :=
  r.pipe.isSome || !isMain (128 * r.line) || (sliceFind (sliceOf s slice) r.line).isSome || decide (r.policy = .byp) || victimRoom s slice r.owner r.line
/-- SLICE_ACCEPT (R112 to R116). -/
def execSliceAccept (slice : Nat) (s : State) : Out :=
  event (fun s =>
    let s := advanceNet s
    let sl := sliceOf s slice
    if sl.lastAccept = some s.clock then s else
    match acceptChoice s slice with
    | none => s
    | some r =>
      match entryFor s slice r.owner with
      | none => s
      | some res =>
        if sliceFits s slice r then
          let s := setSlice s slice { sl with lastAccept := some s.clock }
          let r := { r with reservedEntry := res, took := s.clock, fresh := r.covers }
          let s := updReq s r.id (fun _ => r)
          let s := if r.pipe.isSome then performSlot s r else if isMain (128 * r.line) then performMain s r else performHost s r
          let s := noteAccept (advanceNet s) r
          match r.who.core with
          | some c => pokeCore s c
          | none => s
        else s) s
/-- The reply leaves the slice into its reply network where a buffer has room (R109, R111, R112). Nobody waits for the replies of
prefetches into a slice and of flushes. -/
def replyOut (s : State) (r : Req) : State :=
  match r.kind with
  | .prefetch => dropReq s r.id
  | .clean =>
    let s := dropReq s r.id
    match r.who.core with
    | some c => pokeCore s c
    | none => s
  | _ =>
    if backRoom1 s r true then advanceReq (advanceReq (updReq s r.id (fun q => { q with stage := .reply, since := s.clock })) r.id) r.id else s
/-- Of the 32-byte units read with an error, those that no write has covered whole since stay poisoned (R81). -/
def staysBad (r : Req) (hit : List Nat) : List Nat := hit.filter (fun u => !(decide (u / 4 = r.line) && r.fresh.getLsbD (u % 4)))
/-- The 32-byte units `bad` of the line turn out poisoned as it is read from an array or from memory, and `corrected` single-bit errors
were corrected (R81, R104). -/
def eccOn (s : State) (r : Req) (die corrected : Nat) (bad : List Nat) : State :=
  let hit := bad.filter (fun u => u / 4 = r.line)
  let dd : Die := NMap.getD s.dies die {}
  let s := { s with poison := (staysBad r hit).foldl (fun p u => sortedInsert u p) s.poison, dies := NMap.insert s.dies die { dd with corrected := dd.corrected + corrected } }
  updReq s r.id (fun q => { q with rpoison := q.rpoison ||| bitsOf 4 (fun u => decide (4 * r.line + u ∈ hit)) })
/-- An error of a slice array in a pinned slot line poisons its tile (R81, R104). -/
def eccSlot (s : State) (r : Req) (bad : List Nat) : State :=
  match r.pipe, r.kind with
  | some (plan, pipe), .slotRead slot _ =>
    if bad = [] then s else
    updReq (updPipe s plan pipe (fun p => { p with slots := nupdate p.slots slot (fun x => { x with poison := true }) })) r.id (fun q => { q with rpoison := 15 })
  | _, _ => s
/-- SLICE_HIT_REPLY (R112); the slice's arrays are read with ECC (R104). DESIGN CHOICE, log entry 7. -/
def execSliceHitReply (req : SliceReply) (s : State) : Out :=
  event (fun s => match reqOf s req.req with
    | some r => match r.stage with
      | .accepted due =>
        if due ≤ s.clock then
          let s := if r.pipe.isSome then eccSlot s r req.bad else if isMain (128 * r.line) then eccOn s r r.homeDie req.corrected req.bad else s
          replyOut s ((reqOf s req.req).getD r)
        else s
      | _ => s
    | none => s) s
/-- SLICE_FILL_RETURN (R104, R112); second-tier memory is read with ECC, and an expander may return poison (R81, R429). DESIGN CHOICE, log entry 7. -/
def execSliceFillReturn (req : SliceReply) (s : State) : Out :=
  event (fun s => match reqOf s req.req with
    | some r => match r.stage with
      | .fill due =>
        if due ≤ s.clock then
          let s := match regionOf (128 * r.line) with
            | .second _ => eccOn s r r.homeDie req.corrected req.bad
            | _ => s
          replyOut s ((reqOf s req.req).getD r)
        else s
      | _ => s
    | none => s) s

/-! HBM4E channels (R83 to R85, R81). -/

/-- The number of the 10.24 ns slot at a reference count, and the count at which a slot begins. DESIGN CHOICE, log entry 5. -/
def hbmSlot (clock : Nat) : Nat := clock * 125 / 4608
def hbmStart (slot : Nat) : Nat := cdiv (slot * 4608) 125
/-- Owner of a slot of a channel (R84, R86). -/
def slotOwner (c : Channel) (slot : Nat) : Nat := nibble (NMap.getD c.slots (slot / 8) 0xFFFFFFFF).toNat (slot % 8)
/-- A transfer waiting at a channel: a request, or a victim. -/
inductive Transfer | req (id : Nat) | victim (owner line since : Nat)
  deriving DecidableEq, Repr, Inhabited
/-- The transfers of an owner that wait at a channel since before the slot began, oldest first. -/
def transfers (s : State) (ch owner start : Nat) : List Transfer :=
  let rs := (s.reqs.filter (fun r => decide (r.stage = .miss) && decide (channelOf (128 * r.line) = ch) && decide (r.owner = owner) && decide (r.since ≤ start))).map (fun r => (r.since, Transfer.req r.id))
  let vs := ((NMap.getD s.channels ch {}).victims.filter (fun v => decide (v.1 = owner) && decide (v.2.2 ≤ start))).map (fun v => (v.2.2, Transfer.victim v.1 v.2.1 v.2.2))
  (sortBy Prod.fst (rs ++ vs)).map Prod.snd
/-- Serve one transfer. -/
def serveTransfer (ch : Nat) (s : State) (t : Transfer) : State :=
  match t with
  | .req id => updReq s id (fun r => { r with stage := .fill (match r.kind with | .write _ _ => (if r.policy = .byp then s.clock else s.clock + 150) | .clean => s.clock | _ => s.clock + 150) })
  | .victim o l t0 => { s with channels := nupdate s.channels ch (fun c => { c with victims := c.victims.erase (o, l, t0) }) }
/-- The request reads the line of a unit from memory. -/
def readsUnit (r : Req) (u : Nat) : Bool := decide (r.line = u / 4) && (match r.kind with | .clean => false | .write _ _ => decide (r.policy ≠ .byp) | _ => true)
/-- HBM_SLOT_SERVICE: at a slot's start up to 8 transfers of the slot's owner, or of unreserved traffic if it has none; `corrected`
single-bit errors were corrected, and the 32-byte units `bad` of lines read carry a wider error (R81, R83 to R85). -/
def execHbmSlotService (ch : Nat) (corrected : Nat) (bad : List Nat) (s : State) : Out :=
  event (fun s =>
    let c := NMap.getD s.channels ch {}
    let slot := hbmSlot s.clock
    if slot % 128 = 0 ∨ slot ≤ c.lastSlot then s else
    let o := slotOwner c (slot % 128)
    let own := if o < 8 then transfers s ch o (hbmStart slot) else []
    let ts := (if own = [] then transfers s ch 8 (hbmStart slot) else own).take 8
    let s := { s with channels := NMap.insert s.channels ch { c with lastSlot := slot } }
    let ids := ts.filterMap (fun t => match t with | .req id => some id | .victim _ _ _ => none)
    let hit := bad.filter (fun u => s.reqs.any (fun r => decide (r.id ∈ ids) && readsUnit r u))
    let s := ts.foldl (serveTransfer ch) s
    let s : State := { s with
      poison := (hit.filter (fun u => s.reqs.any (fun r => decide (r.id ∈ ids) && readsUnit r u && decide (staysBad r [u] = [u])))).foldl (fun p u => sortedInsert u p) s.poison
      reqs := s.reqs.map (fun (r : Req) => if r.id ∈ ids then { r with rpoison := r.rpoison ||| bitsOf 4 (fun u => decide (4 * r.line + u ∈ hit)) } else r) }
    let d := ch / 96
    let dd : Die := NMap.getD s.dies d {}
    { s with dies := NMap.insert s.dies d { dd with corrected := dd.corrected + corrected } }) s

/-! Die links (R122 to R127). -/

/-- Owner of a slot of a direction (R123). DESIGN CHOICE, log entry 5. -/
def linkOwner (s : State) (x slot : Nat) : Nat := nibble (NMap.getD s.dev.dlown (32 * x + slot / 8) 0xFFFFFFFF).toNat (slot % 8)
/-- The plan and pipe to which a running plan's schedule assigns a slot of a direction (R124). -/
def linkPipe (s : State) (x slot : Nat) : Option (Nat × Nat) :=
  s.plans.findSome? (fun e => if e.2.state = .running ∨ e.2.state = .stopping then (NMap.get? e.2.sched (256 * x + slot)).map (fun p => (e.1, p)) else none)
/-- The partition of a class's traffic, or 8: a pipe counts with its plan (R125). -/
def classOwner (s : State) : LinkClass → Nat
  | .pipe pl _ => ((NMap.get? s.plans pl).map Plan.part).getD 8
  | .part p => p
  | .unreserved => 8
/-- A class that a slot may carry, by the list of R125: the assigned pipe, the slot's owner, unreserved traffic. -/
def slotTakes (s : State) (x slot item : Nat) (cls : LinkClass) : Bool :=
  if item = 0 then decide ((linkPipe s x slot).map (fun e => LinkClass.pipe e.1 e.2) = some cls)
  else if item = 1 then decide (linkOwner s x slot < 8) && decide (classOwner s cls = linkOwner s x slot)
  else decide (classOwner s cls = 8)
/-- What waits for an item of the list: a flit to be resent, or the class of the oldest request or reply at the egress. DEDUCED, log entry 67. -/
def linkPick (s : State) (x slot item : Nat) : Option (Flit ⊕ LinkClass) :=
  match (NMap.getD s.links x {}).resend.find? (fun f => slotTakes s x slot item f.cls) with
  | some f => some (.inl f)
  | none => (leastBy (fun (r : Req) => r.since) (s.reqs.filter (fun r => decide (egressDir r = some x) && slotTakes s x slot item r.cls))).map (fun r => .inr r.cls)
/-- DIE_LINK_SLOT: the oldest flit of the first item of R125 that has one, a flit to be resent first (R127). DEDUCED, log entry 67. -/
def execDieLinkSlot (x : Nat) (s : State) : Out :=
  event (fun s =>
    let l := NMap.getD s.links x {}
    if l.failed ∨ l.lastSlot = some s.clock ∨ x / 4 = x % 4 ∨ 16 ≤ x then s else
    let slot := s.clock % 256
    match ((linkPick s x slot 0).or (linkPick s x slot 1)).or (linkPick s x slot 2) with
    | none => s
    | some (.inl f) => { s with links := NMap.insert s.links x { l with lastSlot := some s.clock, resend := l.resend.erase f, flight := l.flight ++ [{ f with last := s.clock }] } }
    | some (.inr cls) =>
      let ids := (flitItems (egressItems s x cls)).map Req.id
      let s : State := { s with links := NMap.insert s.links x { l with lastSlot := some s.clock, flight := l.flight ++ [{ cls := cls, reqs := ids, sent := s.clock, last := s.clock, fails := 0 }] } }
      advanceNet { s with reqs := s.reqs.map (fun (r : Req) => if r.id ∈ ids then { r with stage := if r.stage = .egress then .link else .replyLink, since := s.clock } else r) }) s
/-- Where a request or reply stands once its flit has arrived: at the ingress of its die, or, for a counter message,
at the pipe controller or the core it goes to (R109, R139). -/
def afterLink (r : Req) : Stage :=
  if r.isMsg then .done else if r.stage = .link then .ingress else .replyIngress
/-- DIE_LINK_FLIT_ARRIVAL: the next flit of its class arrives 24 clocks after its slot began; a bad CRC refuses it (R126, R127). DESIGN CHOICE, log entry 19. DEDUCED, log entry 67. -/
def execDieLinkFlitArrival (x : Nat) (crcOk : Bool) (s : State) : Out :=
  event (fun s =>
    let l := NMap.getD s.links x {}
    match l.flight.find? (fun f => decide (f.last + 24 ≤ s.clock) && (l.flight ++ l.resend).all (fun g => decide (g.cls ≠ f.cls) || decide (f.sent ≤ g.sent))) with
    | none => s
    | some f =>
      if crcOk then
        let s : State := { s with links := NMap.insert s.links x { l with flight := l.flight.erase f } }
        let came := (s.reqs.filter (fun (r : Req) => r.id ∈ f.reqs)).map (fun (r : Req) => { r with stage := afterLink r, since := s.clock })
        advanceNet { s with reqs := s.reqs.filter (fun r => r.id ∉ f.reqs) ++ came }
      else if f.fails = 3 then
        let s : State := { s with links := NMap.insert s.links x { l with flight := l.flight.erase f, resend := l.resend ++ [{ f with fails := 4 }], failed := true } }
        eventRecord s 5 0 0 0 [x]
      else
        { s with links := NMap.insert s.links x { l with flight := l.flight.erase f, resend := l.resend ++ [{ f with fails := f.fails + 1 }], retries := min (l.retries + 1) (2 ^ 32 - 1) } }) s

/-! Walks and acknowledgements. -/

/-- TRANSLATION_WALK: one of the 16 walks in flight of a die reads its next table entries, or ends with a translation or a fault
(R91, R93). DEDUCED, log entry 21. -/
def execTranslationWalk (die index : Nat) (s : State) : Out :=
  event (fun s =>
    match ((NMap.getD s.dies die {}).walks.take 16)[index]? with
    | none => s
    | some w =>
      match walk s (.walk w.id, w.owner) die w.ctx w.va w.kind with
      | (none, s) => s
      | (some r, s) =>
        let s := endAgent s (.walk w.id)
        let dd := NMap.getD s.dies die {}
        let s := { s with dies := NMap.insert s.dies die { dd with walks := dd.walks.filter (fun v => v.id ≠ w.id) } }
        match r, w.agent with
        | .ok e, .prefetch c l2 va =>
          let s := tlbFill s w.core die e
          match tlbAccess e va w.kind with
          | .ok x => sendPrefetch s c l2 x
          | .error _ => s
        | .ok e, _ => tlbFill s w.core die e
        | .error _, .prefetch _ _ _ | .error _, .walk _ => s
        | .error (c, level), a =>
          let dd := NMap.getD s.dies die {}
          { s with dies := NMap.insert s.dies die { dd with walkFaults := dd.walkFaults ++ [{ agent := a, ctx := w.ctx, page := w.va / 65536, kind := w.kind, code := c, level := level }] } }) s
/-- Replies from one slice to one port for one owner are taken in order (R110). -/
def replyTurn (s : State) (r : Req) : Bool :=
  match s.reqs.find? (fun q => decide (q.stage = .done) && decide (q.homeSlice = r.homeSlice) && decide (q.die = r.die) && decide (q.port = r.port) && decide (q.owner = r.owner)) with
  | some q => decide (q.id = r.id)
  | none => true
/-- An entry of a store is done: the store completes with its last (R221). -/
def storeEntryDone (s : State) (core slot op : Nat) : State :=
  match opOf s core slot op with
  | some o => match o.body with
    | .store left => if left ≤ 1 then finishOp s core slot op else setOp s core slot op { o with body := .store (left - 1) }
    | _ => s
  | none => s
/-- An acknowledgement carries its stamp to the skein (R232). -/
def takeStamp (s : State) (who : ReqOwner) (stamp : DWord) : State :=
  match who.skein with
  | some (c, k) => updSkein s c k (fun sk => { sk with lastStamp := stamp })
  | none => s
/-- Acknowledgements of writes and atomics that have come to a skein together are taken in ascending slice number (R232). -/
def ackTurn (s : State) (r : Req) : Bool :=
  s.reqs.all (fun q => decide (q.stage ≠ .done) || decide (q.since ≠ r.since) || q.who.skein.isNone || decide (q.who.skein ≠ r.who.skein) || decide (r.homeSlice ≤ q.homeSlice) ||
    !replyTurn s q || (match q.kind with | .write _ _ | .atomic _ => false | _ => true))
/-- WRITE_ACKNOWLEDGEMENT: from a slice, from another package's slice, or from the host (R221, R232). -/
def execWriteAcknowledgement (req : Nat) (s : State) : Out :=
  event (fun s => match reqOf s req with
    | none => s
    | some r =>
      let ready := match r.kind with
        | .write _ _ => (decide (r.stage = .done) && replyTurn s r && ackTurn s r) || decide (r.stage = .remote)
        | _ => false
      if !ready then s else
      let s := dropReq s req
      let s := if r.stage = .done then takeStamp s r.who r.stamp
        else match regionOf (128 * r.line) with
          | .host => takeStamp s r.who r.stamp
          | .pod _ _ => let (b, s) := freeBytes s 8
            takeStamp s r.who (BitVec.ofNat 64 (leNat b))
          | _ => s
      let s := match r.who with
        | .store c k op => storeEntryDone s c k op
        | _ => s
      match r.who.core with
      | some c => pokeCore s c
      | none => s) s

end Sys2Proof.Machine
end

