-- ==== Sys2Proof/Machine/Fmt.lean ====
section
/-! DEFINITION. Number formats: exact values, decoding and the rounding functions of spec/03 R55 to R72. -/

namespace Sys2Proof.Machine

/-- The value of a code: NaN, an infinity, or (−1)^neg × m × 2^e exactly; a zero keeps its sign. -/
inductive FVal | nan | inf (neg : Bool) | fin (neg : Bool) (m : Nat) (e : Int)
  deriving DecidableEq, Repr, Inhabited

/-! Wide formats (03 Table 2). -/

/-- Exponent bits, trailing significand bits, bias. -/
def ffE : FF → Nat | .f64 => 11 | .f32 => 8 | .f16 => 5 | .bf16 => 8
def ffT : FF → Nat | .f64 => 52 | .f32 => 23 | .f16 => 10 | .bf16 => 7
def ffWidth (f : FF) : Nat := 1 + ffE f + ffT f
def ffBias (f : FF) : Nat := 2 ^ (ffE f - 1) - 1
/-- The exponent of the lowest significand bit of a subnormal. -/
def ffMin (f : FF) : Int := 1 - (ffBias f : Int) - (ffT f : Int)
/-- The magnitude code of infinity. -/
def ffInf (f : FF) : Nat := (2 ^ ffE f - 1) * 2 ^ ffT f
def ffSign (f : FF) : Nat := 2 ^ (ffE f + ffT f)
/-- The canonical NaN (R57). DEDUCED, log entry 69. -/
def ffNan (f : FF) : Nat := ffInf f + 2 ^ (ffT f - 1)
def signCode (neg : Bool) (bit mag : Nat) : Nat := if neg then bit + mag else mag

/-- The value of a code of a wide format (R55, R56). -/
def ffDecode (f : FF) (c : Nat) : FVal :=
  let neg := decide (ffSign f ≤ c % 2 ^ ffWidth f)
  let mag := c % ffSign f
  let e := mag / 2 ^ ffT f
  let t := mag % 2 ^ ffT f
  if e = 2 ^ ffE f - 1 then (if t = 0 then .inf neg else .nan)
  else if e = 0 then .fin neg t (ffMin f)
  else .fin neg (2 ^ ffT f + t) (ffMin f + e - 1)

/-! Rounding. -/

/-- The lower of the two neighbours of m × 2^e among the magnitudes of a format with `t` trailing bits and least bit 2^q, as a
magnitude code without upper bound, and where the value stands between the neighbours: 0 on the lower, 1 below the middle,
2 in the middle, 3 above it (R69, the grid of R70). -/
def gridFloor (t : Nat) (q : Int) (m : Nat) (e : Int) : Nat × Nat :=
  if m = 0 then (0, 0) else
  let len := Nat.log2 m + 1
  let top := e + len - 1
  let u := if top - t < q then q else top - t
  let code := fun k => (u - q).toNat * 2 ^ t + k
  if u ≤ e then (code (m * 2 ^ (e - u).toNat), 0)
  else
    let sh := min (u - e).toNat (len + 2)
    let k := m / 2 ^ sh
    let r := m % 2 ^ sh
    (code k, if r = 0 then 0 else if 2 * r < 2 ^ sh then 1 else if 2 * r = 2 ^ sh then 2 else 3)
/-- The neighbour a direction chooses. -/
def roundCode (dirn : RMode) (neg : Bool) (g : Nat × Nat) : Nat :=
  let up := match dirn with
    | .rne => decide (g.2 = 3) || (decide (g.2 = 2) && decide (g.1 % 2 = 1))
    | .rz => false
    | .rm => neg && decide (g.2 ≠ 0)
    | .rp => !neg && decide (g.2 ≠ 0)
  if up then g.1 + 1 else g.1
/-- What an overflow becomes (R69). -/
def overflowCode (f : FF) (dirn : RMode) (neg : Bool) : Nat :=
  match dirn with
  | .rne => ffInf f
  | .rz => ffInf f - 1
  | .rm => if neg then ffInf f else ffInf f - 1
  | .rp => if neg then ffInf f - 1 else ffInf f
/-- RoundF64, RoundF32, RoundF16, RoundBF16 (R69): the code. DEDUCED, log entry 69. -/
def roundFF (f : FF) (dirn : RMode) : FVal → Nat
  | .nan => ffNan f
  | .inf neg => signCode neg (ffSign f) (ffInf f)
  | .fin neg m e =>
    let c := roundCode dirn neg (gridFloor (ffT f) (ffMin f) m e)
    signCode neg (ffSign f) (if ffInf f ≤ c then overflowCode f dirn neg else c)
/-- `.sat` on a result (R290): an infinity becomes the largest finite value. -/
def satCode (f : FF) (sat : Bool) (c : Nat) : Nat := if sat ∧ c % ffSign f = ffInf f then c - 1 else c

/-- RoundIntegral in the value domain (R72, R297): a zero result keeps the sign. -/
def roundIntegral (dirn : RMode) : FVal → FVal
  | .fin neg m e =>
    if 0 ≤ e then .fin neg m e
    else
      let sh := min (-e).toNat (Nat.log2 m + 3)
      let r := m % 2 ^ sh
      .fin neg (roundCode dirn neg (m / 2 ^ sh, if r = 0 then 0 else if 2 * r < 2 ^ sh then 1 else if 2 * r = 2 ^ sh then 2 else 3)) 0
  | v => v
/-- ConvInt (R72). -/
def convInt (dirn : RMode) (ty : IType) (v : FVal) : Int :=
  match roundIntegral dirn v with
  | .nan => 0
  | .inf neg => if neg then itMin ty else itMax ty
  | .fin neg m e =>
    let mag : Int := if m = 0 then 0 else if 200 ≤ e then (2 : Int) ^ 200 else (m * 2 ^ e.toNat : Nat)
    satInt ty (if neg then -mag else mag)

/-! Exact arithmetic. -/

/-- The signed integer of a finite value at exponent `e0`. -/
def fInt (neg : Bool) (m : Nat) (e e0 : Int) : Int :=
  let k : Int := (m * 2 ^ (e - e0).toNat : Nat)
  if neg then -k else k
/-- The sum of two values, exact, with the signs of R292 and R293; `down` stands for the direction `.rm`. -/
def fAdd (down : Bool) : FVal → FVal → FVal
  | .nan, _ | _, .nan => .nan
  | .inf a, .inf b => if a = b then .inf a else .nan
  | .inf a, _ => .inf a
  | _, .inf b => .inf b
  | .fin a ma ea, .fin b mb eb =>
    if ma = 0 ∧ mb = 0 then .fin (if a = b then a else down) 0 0
    else if ma = 0 then .fin b mb eb
    else if mb = 0 then .fin a ma ea
    else
      let e0 := min ea eb
      let s := fInt a ma ea e0 + fInt b mb eb e0
      if s = 0 then .fin down 0 0 else .fin (decide (s < 0)) s.natAbs e0
/-- The product of two values, exact (R292). -/
def fMul : FVal → FVal → FVal
  | .nan, _ | _, .nan => .nan
  | .inf a, .inf b => .inf (a != b)
  | .inf a, .fin b m _ => if m = 0 then .nan else .inf (a != b)
  | .fin a m _, .inf b => if m = 0 then .nan else .inf (a != b)
  | .fin a ma ea, .fin b mb eb => .fin (a != b) (ma * mb) (ea + eb)
/-- A value times 2^k (R68, R298). -/
def fScale (k : Int) : FVal → FVal
  | .fin n m e => .fin n m (e + k)
  | v => v
/-- Numeric order; false when either is NaN, and zeros of both signs are equal (R295). -/
def fLt : FVal → FVal → Bool
  | .nan, _ | _, .nan => false
  | .inf a, .inf b => a && !b
  | .inf a, _ => a
  | _, .inf b => !b
  | .fin a ma ea, .fin b mb eb =>
    if ma = 0 then !b && decide (mb ≠ 0)
    else if mb = 0 then a
    else if a ≠ b then a
    else decide (fInt a ma ea (min ea eb) < fInt b mb eb (min ea eb))
/-- An integer as a value (R72). -/
def fOfInt (x : Int) : FVal := .fin (decide (x < 0)) x.natAbs 0

/-! Narrow formats (R58 to R62, R65). -/

/-- A narrow format: its width, precision, signedness and domain. -/
structure Narrow where
  k : Nat
  p : Nat
  unsigned : Bool
  ext : Bool
  deriving DecidableEq, Repr, Inhabited

/-- A format code (03 Table 7). -/
inductive FmtCode | unbound | wide (f : FF) | narrow (n : Narrow) | unassigned
  deriving DecidableEq, Repr, Inhabited
/-- Read a format code (R65). -/
def fmtOf (c : Nat) : FmtCode :=
  if c = 0 then .unbound else if c = 1 then .wide .f32 else if c = 2 then .wide .f16 else if c = 3 then .wide .bf16
  else if c / 128 = 1 ∧ !bitAt c 3 ∧ c % 8 ≠ 0 ∧ (!bitAt c 6 ∨ c % 8 ≤ 3) ∧ c < 256 then
    .narrow ⟨if bitAt c 6 then 4 else 8, c % 8, bitAt c 5, bitAt c 4⟩
  else .unassigned
/-- Bits of an element of a format (R64). -/
def fmtBits : FmtCode → Nat
  | .wide f => ffWidth f
  | .narrow n => n.k
  | _ => 0

/-- Trailing bits, least exponent, NaN code, largest finite magnitude code, magnitude code of +∞. -/
def Narrow.t (f : Narrow) : Nat := f.p - 1
def Narrow.q (f : Narrow) : Int := 1 - (2 ^ (f.k - f.p - 1) : Nat) - (f.t : Int)
def Narrow.nan (f : Narrow) : Nat := if f.unsigned then 2 ^ f.k - 1 else 2 ^ (f.k - 1)
def Narrow.inf (f : Narrow) : Nat := if f.unsigned then 2 ^ f.k - 2 else 2 ^ (f.k - 1) - 1
def Narrow.maxFin (f : Narrow) : Nat := if f.ext then f.inf - 1 else f.inf
/-- The value of a code (R58, R59). -/
def narrowDecode (f : Narrow) (c : Nat) : FVal :=
  let neg := !f.unsigned && bitAt c (f.k - 1)
  let mag := if f.unsigned then c % 2 ^ f.k else c % 2 ^ (f.k - 1)
  if c % 2 ^ f.k = f.nan then .nan
  else if f.ext ∧ mag = f.inf then .inf neg
  else if mag / 2 ^ f.t = 0 then .fin neg mag f.q
  else .fin neg (2 ^ f.t + mag % 2 ^ f.t) (f.q + (mag / 2 ^ f.t : Nat) - 1)
/-- The code of a sign and a magnitude code. -/
def narrowCode (f : Narrow) (neg : Bool) (mag : Nat) : Nat := if neg ∧ !f.unsigned then 2 ^ (f.k - 1) + mag else mag
/-- RoundNarrow (R70). -/
def roundNarrow (f : Narrow) (sat : Bool) (v : FVal) : Nat :=
  let far := fun (neg : Bool) =>
    if f.unsigned ∧ neg then (if sat then 0 else f.nan)
    else if sat then narrowCode f neg f.maxFin
    else if f.ext then narrowCode f neg f.inf else f.nan
  match v with
  | .nan => f.nan
  | .inf neg => far neg
  | .fin neg m e =>
    let g := roundCode .rne neg (gridFloor f.t f.q m e)
    if g = 0 then 0 else if f.unsigned ∧ neg ∨ f.maxFin < g then far neg else narrowCode f neg g
/-- DrainNarrow (R71). -/
def drainNarrow (f : Narrow) (v : FVal) : Nat :=
  match v with
  | .nan => f.nan
  | .inf neg => if f.unsigned ∧ neg then 0 else if f.ext then narrowCode f neg f.inf else narrowCode f neg f.maxFin
  | .fin neg m e =>
    if f.unsigned ∧ neg then 0 else
    let g := (gridFloor f.t f.q m e).1
    if g = 0 then 0 else narrowCode f neg (min g f.maxFin)

/-! Format slots (R66, R68). -/

/-- The format and scale of a slot word. -/
def slotFmt (w : Word) : FmtCode × Int := (fmtOf (field w.toNat 0 8), readInt 8 true (field w.toNat 8 8))
/-- Slot fsN of a launch. -/
def launchSlot (l : Launch) (n : Nat) : FmtCode × Int := slotFmt (l.fslots.getD n 0)
/-- Decode a code of a format. -/
def fmtDecode (f : FmtCode) (c : Nat) : FVal :=
  match f with
  | .wide w => ffDecode w c
  | .narrow n => narrowDecode n c
  | _ => .nan
/-- Drain into a format (R71): toward zero. -/
def fmtDrain (f : FmtCode) (v : FVal) : Nat :=
  match f with
  | .wide w => roundFF w .rz v
  | .narrow n => drainNarrow n v
  | _ => 0

/-! Operands of the float instructions (R285, R30). -/

/-- A binary32 code widened exactly to binary64; a NaN stays a NaN with its significand bits at the top (R30). -/
def widen64 (w : Word) : DWord :=
  match ffDecode .f32 w.toNat with
  | .nan => BitVec.ofNat 64 (signCode (w.getLsbD 31) (ffSign .f64) (ffInf .f64 + w.toNat % 2 ^ 23 * 2 ^ 29))
  | v => BitVec.ofNat 64 (roundFF .f64 .rne v)
/-- The code of a source in a wide format. DEDUCED, log entry 69. -/
def srcF (x : Ctx) (f : FF) (o : Src) (l : Nat) : Nat :=
  match f with
  | .f64 => (match o with
    | .imm w => widen64 w
    | o => srcPair x false o l).toNat
  | .f32 => (srcWord x o l).toNat
  | _ => (srcWord x o l).toNat % 2 ^ 16
def vkF (x : Ctx) (f : FF) (o : VK) (l : Nat) : Nat :=
  match f with
  | .f64 => (vkPair x o l).toNat
  | .f32 => (vkWord x o l).toNat
  | _ => (vkWord x o l).toNat % 2 ^ 16
/-- Sign modifiers on a code (R289): absolute value first, then negation. -/
def signMods (f : FF) (abs neg : Bool) (c : Nat) : Nat :=
  let c := if abs then c % ffSign f else c % 2 ^ ffWidth f
  if neg then (if ffSign f ≤ c then c - ffSign f else c + ffSign f) else c

end Sys2Proof.Machine
end

