-- ==== Sys2Proof/Machine/Memory.lean ====
section
/-! DEFINITION. Loads, stores, atomics, fences and cache maintenance at issue, opcodes 0x64 to 0x73 (spec/09, spec/17 R410). -/

namespace Sys2Proof.Machine

/-! Addresses. -/

/-- Bytes of an access size. -/
def sizeOf8 : ASize → Nat | .n8 | .i8 => 1 | .n16 | .i16 => 2 | .n32 => 4 | .n64 => 8 | .n128 => 16
def sizeSigned : ASize → Bool | .i8 | .i16 => true | _ => false
/-- The effective address of a lane: the pair plus the sign-extended offset (R218). -/
def eaOf (x : Ctx) (a : VK) (off : Word) (l : Nat) : Nat := (vkPair x a l + off.signExtend 64).toNat
/-- The addresses of the active lanes, ascending. -/
def laneEas (x : Ctx) (a : VK) (off : Word) : List (Nat × Nat) := (lanesOf x.act).map (fun l => (l, eaOf x a off l))
/-- The address of the lowest active lane alone, for an access made once. -/
def oneEa (x : Ctx) (a : VK) (off : Word) : List (Nat × Nat) := [(oneOf x, eaOf x a off (oneOf x))]

/-- What an access is, for its checks. -/
structure Access where
  kind : WalkKind
  use : Use
  size : Nat
  align : Nat
  /-- a release, an acquire holds it back (R229) -/
  rel : Bool
  acq : Bool
  /-- watched as a read, as a write (17 Table 4) -/
  reads : Bool
  writes : Bool
  deriving DecidableEq, Repr, Inhabited

/-- An access that has passed its checks: lane, virtual address, translation. -/
abbrev Passed := List (Nat × Nat × Xl)
/-- Whether an access that has passed them can begin, or waits, or meets a trap of its own. -/
inductive Room | ready | wait | trap (t : TrapInfo)
  deriving DecidableEq, Repr, Inhabited
/-- An access that needs room and no more. -/
def gateIf (p : Passed → State → Bool) (xs : Passed) (s : State) : Room × State := (if p xs s then .ready else .wait, s)

/-- What the translation caches, or a walk's fault, give a skein for an address (R91, R93). -/
def lookupVa (s : State) (core slot ctx va : Nat) (kind : WalkKind) : Option (Except Nat Xl) :=
  tlbResult s (.skein core slot) (some core) (dieOf core) ctx va kind
/-- Forget the walk faults left for a skein. -/
def clearWalkFaults (s : State) (core slot : Nat) : State := endAgent s (.skein core slot)
/-- The first trap of R219 that some lane meets, among codes chosen by `p`, with the lowest such lane. DEDUCED, log entry 25. -/
def firstFault (p : Nat → Bool) (l : List (Nat × Nat × Except Nat Xl)) : Option TrapInfo :=
  (leastBy (fun t => t.1) (l.filter (fun e => match e.2.2 with | .error c => p c | .ok _ => false))).bind (fun e =>
    match e.2.2 with
    | .error c => some { code := c, lane := e.1, va := e.2.1 }
    | .ok _ => none)
/-- The lowest lane whose address meets a condition. -/
def laneWith (p : Nat → Bool) (code : Nat) (l : List (Nat × Nat)) : Option TrapInfo :=
  (leastBy Prod.fst (l.filter (fun e => p e.2))).map (fun e => { code := code, lane := e.1, va := e.2 })

/-! Data watchpoints (R253, R410). -/

/-- Watchpoint `i` matches an access of the skein to `size` bytes at an address. -/
def watchHits (s : State) (x : Ctx) (reads writes : Bool) (i va size : Nat) : Bool :=
  let w := NMap.getD s.dev.watch i {}
  let base := field w.w0.toNat 4 53 * 16
  let l := x.launch s
  w.w0.getLsbD 0 && ((reads && w.w0.getLsbD 1) || (writes && w.w0.getLsbD 2)) && decide (field w.w1.toNat 32 12 = l.ctx) &&
  (w.w2.getLsbD 0 || decide (some (w.w2.toNat / 2 ^ 32) = (boltOf s x.core x.sk.bolt).map Bolt.block)) &&
  decide (va57 va < base + 16 * (w.w1.toNat % 2 ^ 32)) && decide (base < va57 va + size)
/-- The lowest lane that watchpoint `i` matches. DEDUCED, log entry 29. -/
def watchLane (s : State) (x : Ctx) (reads writes : Bool) (size i : Nat) (l : List (Nat × Nat)) : Option (Nat × Nat) :=
  leastBy Prod.fst (l.filter (fun e => watchHits s x reads writes i e.2 size))
/-- The fault record of a skein (R413): detail words, then queue, place, clock and flags. -/
def skeinRecord (s : State) (core slot : Nat) (ws : List DWord) (clock : Nat) (flags : Nat) : State :=
  match skeinOf s core slot with
  | none => s
  | some sk =>
    let g := gridOf s core sk.bolt
    let blk := ((boltOf s core sk.bolt).map Bolt.block).getD 0
    faultRecord s (ws ++ [BitVec.ofNat 64 ((g.elim 0 Grid.queue) * 2 ^ 48 + g.elim 0 Grid.seq),
      BitVec.ofNat 64 (blk * 2 ^ 32 + core * 2 ^ 24 + slot * 2 ^ 18), BitVec.ofNat 64 clock, BitVec.ofNat 64 flags])
/-- Watchpoints with Action 1 write their records; the first with Action 0 traps (R410). DEDUCED, log entry 29. -/
def watchCheck (s : State) (x : Ctx) (reads writes : Bool) (size : Nat) (l : List (Nat × Nat)) : Option TrapInfo × State :=
  if x.pa.watchPass then (none, s) else
  let hits := (List.range 8).filterMap (fun i => (watchLane s x reads writes size i l).map (fun e => (i, e)))
  let traps := hits.filter (fun h => !(NMap.getD s.dev.watch h.1 {}).w0.getLsbD 3)
  match leastBy (fun h => h.2.1) traps with
  | some h => (some { code := 0x2B, detail := h.1, lane := h.2.1, va := h.2.2 }, s)
  | none => (none, hits.foldl (fun s h =>
      let t : TrapInfo := { code := 0x2B, detail := h.1, lane := h.2.1, va := h.2.2 }
      skeinRecord s x.core x.slot [faultInfoOf t x.sk.taskOpen x.depth x.path x.pc, BitVec.ofNat 64 t.va, BitVec.ofNat 64 x.sk.taskId, 0] s.clock
        ((if x.sk.frame.isSome then 1 else 0) + 2)) s)
/-- A watchpoint trap: on return the instruction meets no match (17 Table 1). DEDUCED, log entry 29. -/
def trapWatch (x : Ctx) (t : TrapInfo) (s : State) : State := trapX x t (onPath x (fun pa => { pa with watchPass := true }) s)

/-! The checks of an access (R219) and its start. -/

/-- Check an access in the order of R219, wait for what it needs, and go on. `bases` are the addresses checked for form and
alignment, `acc` the lanes' accesses. `room` says whether the instruction can begin; only then are its watchpoints matched (R410).
DEDUCED, log entry 25. -/
def memAccess (x : Ctx) (c : Ctl) (k : Access) (bases acc : List (Nat × Nat)) (room : Passed → State → Room × State)
    (go : Passed → State → State) (s : State) : State :=
  if memHeld x k.rel k.acq then stall x .other s else
  let ctx := (x.launch s).ctx
  match laneWith (fun a => !canonical a) tcNonCanonical (bases ++ acc) with
  | some t => trapX x t s
  | none => match laneWith (fun a => decide (a % k.align ≠ 0)) 0x19 bases with
    | some t => trapX x t s
    | none =>
      let found := acc.map (fun e => (e.1, e.2, lookupVa s x.core x.slot ctx (va57 e.2) k.kind))
      match found.find? (fun e => e.2.2.isNone) with
      | some e => stall x .other (postWalk s (.skein x.core x.slot) (some x.core) x.die (partOf s x.core) ctx (va57 e.2.1) k.kind)
      | none =>
        let s := clearWalkFaults s x.core x.slot
        let s := acc.foldl (fun s e => tlbUse s (some x.core) x.die ctx (va57 e.2)) s
        let xs := found.map (fun e => (e.1, e.2.1, match e.2.2 with
          | some (.ok y) => useCheck s x.die y k.use
          | some (.error n) => .error n
          | none => .error tcTranslation))
        match (firstFault (fun n => n != tcHole) xs).or (firstFault (fun n => n == tcHole) xs) with
        | some t => trapX x t s
        | none =>
          let ok : Passed := xs.filterMap (fun e => match e.2.2 with | .ok y => some (e.1, e.2.1, y) | .error _ => none)
          if !flagRoom x c then stall x .other s
          else match room ok s with
            | (.wait, s) => stall x .other s
            | (.trap t, s) => trapX x t s
            | (.ready, s) => match watchCheck s x k.reads k.writes k.size acc with
              | (some t, s) => trapWatch x t s
              | (none, s) => go ok s

/-- A load of the path to the line is outstanding (R238). -/
def lineHeld (x : Ctx) (line : Nat) : Bool :=
  x.sk.ops.any (fun e => e.2.ofPath x.path && (match e.2.body with
    | .load ps _ _ _ _ => ps.any (fun p => decide (p.line = line) && p.req.isSome && !p.arrived)
    | _ => false))
/-- An earlier access of the skein to a type-10 page is incomplete (R222). DEDUCED, log entry 39. -/
def deviceBusy (x : Ctx) : Bool :=
  x.sk.ops.any (fun e => e.2.device) || (x.sk.sq ++ x.sk.sqWait).any (fun e => e.device)
def isDevice (xs : Passed) : Bool := xs.any (fun e => decide (e.2.2.type = 2))

/-! Loads. -/

/-- The access takes the L1 path of 09 Table 1. -/
def usesL1 (sc : Scope) (cp : CPol) (y : Xl) : Bool :=
  decide (scopeRank sc ≤ 1) && decide (cp ≠ .byp) && decide (y.type = 0) && isMain y.pa
/-- The policy at the slice: type-01 pages bypass (R217). -/
def slicePol (cp : CPol) (y : Xl) : CPol := if y.type = 1 then .byp else cp
def firstOf : CPol → Bool | .evf | .strm => true | _ => false
/-- A load's room: no outstanding request of the path to its lines; a type-10 access waits for the one before. -/
def loadRoom (x : Ctx) (xs : Passed) (_ : State) : Bool :=
  !(xs.any (fun e => lineHeld x (e.2.2.pa / 128))) && !(isDevice xs && deviceBusy x)
/-- The part of a load for one line: what the core holds, and a slice request for the rest (R216, R217). -/
def loadPart (x : Ctx) (op : Nat) (sc : Scope) (cp : CPol) (size : Nat) (xs : Passed) (s : State) (ix : Nat) (line : Nat) : LoadPart × State :=
  let mine := xs.filter (fun e => e.2.2.pa / 128 = line)
  let need := mine.foldl (fun m e => m ||| maskBytes (e.2.2.pa % 128) size) 0
  let y := (mine.headD (0, 0, ⟨0, 0⟩)).2.2
  let l1 := usesL1 sc cp y
  let have_ := foundBytes s x.core x.sk line (!l1)
  let part : LoadPart :=
    { line := line, found := have_.1, data := have_.2, req := none, arrived := false, poison := 0, allocate := false, firstVictim := firstOf cp
      strong := strongBytes s x.core x.sk line }
  if within need have_.1 then (part, s)
  else match regionOf y.pa with
    | .regs _ => ({ part with found := 0 }, s)
    | _ =>
      let (id, s) := postCore s (.read need) (.load x.core x.slot op ix) line (slicePol cp y) x.core
      ({ part with req := some id, allocate := l1 }, s)
/-- The core holds every byte that the access `grp` of a lane needs of that lane's 16-byte unit: then the lane takes them all from
the core, so that no unit of an access mixes clean bytes of the L1 with bytes of the slice (R216, R242). -/
def wholeUnit (parts : List LoadPart) (size : Nat) (grp : Nat → Nat) (xs : Passed) (e : Nat × Nat × Xl) : Bool :=
  xs.all (fun f => decide (grp f.1 ≠ grp e.1) || decide (f.2.2.pa / 16 ≠ e.2.2.pa / 16) ||
    (parts.find? (fun p => p.line = f.2.2.pa / 128)).any (fun p => within (maskBytes (f.2.2.pa % 128) size) p.found))
/-- Begin a load of `size` bytes an element; `grp` names the access that a lane belongs to: its own, or its block's. -/
def beginLoad (x : Ctx) (c : Ctl) (sc : Scope) (cp : CPol) (size : Nat) (signed : Bool) (dst : List RegRef) (lane : Nat → Option Nat)
    (grp : Nat → Nat) (xs : Passed) (s : State) : State :=
  let op := s.nextId
  let lines := dedup ((sortBy (fun e => e.1) xs).map (fun e => e.2.2.pa / 128))
  let s := { s with nextId := op + 1 }
  let r := (lines.zip (List.range lines.length)).foldl (fun (a : List LoadPart × State) e =>
    let (p, s) := loadPart x op sc cp size xs a.2 e.2 e.1
    (a.1 ++ [p], s)) (([] : List LoadPart), s)
  -- a uniform destination takes the word of the lowest active lane alone (R222)
  let own := xs.filter (fun e => (lane e.1).isSome || decide (e.1 = oneOf x))
  let elems := own.map (fun e => { lane := lane e.1, part := (findIdx? (fun l => l = e.2.2.pa / 128) lines).getD 0, off := e.2.2.pa % 128
                                   whole := wholeUnit r.1 size grp xs e : LoadElem })
  let id2 := r.2.nextId
  let (_, s) := beginOp x c { cls := .memory, path := x.path, isLoad := true, device := isDevice xs, pend := dst, body := .load r.1 elems size signed dst } { r.2 with nextId := op }
  retire x { s with nextId := max id2 s.nextId }
/-- The register references of a destination of `w` registers. -/
def dstRefs (x : Ctx) (d : VK) (w : Nat) : List RegRef :=
  match d with
  | .v n => (List.range w).map (fun i => .v (vkey x.pa.win (n + i)))
  | .k n => (List.range w).map (fun i => .k (n + i))
/-- The lane an element is written to: every active lane its own, or once for a uniform destination. -/
def dstLane (d : VK) (l : Nat) : Option Nat := match d with | .v _ => some l | .k _ => none
/-- LD (R222). -/
def execLd (c : Ctl) (d a : VK) (off : Word) (sz : ASize) (sc : Scope) (cp : CPol) (s : State) : Out :=
  issue { activeMarks := true } (Instr.use (.ld c d a off sz sc cp)) c noEarly (fun x s =>
    let n := sizeOf8 sz
    let acc := match d with | .v _ => laneEas x a off | .k _ => oneEa x a off
    memAccess x c { kind := .read, use := .plain n, size := n, align := n, rel := false, acq := true, reads := true, writes := false } acc acc (gateIf (loadRoom x))
      (beginLoad x c sc cp n (sizeSigned sz) (dstRefs x d sz.regs) (dstLane d) id) s) s

/-- The block address of a group of 32 lanes (R224). -/
def blockBase (x : Ctx) (a : VK) (off : Word) (g : Nat) : Option (Nat × Nat) :=
  ((lanesOf x.act).find? (fun l => l / 32 = g)).map (fun l => (l, eaOf x a off l))
def blockBases (x : Ctx) (a : VK) (off : Word) : List (Nat × Nat) := (List.range 4).filterMap (blockBase x a off)
/-- The words of the active lanes in their groups' blocks. -/
def blockWords (x : Ctx) (a : VK) (off : Word) : List (Nat × Nat) :=
  (lanesOf x.act).filterMap (fun l => (blockBase x a off (l / 32)).map (fun b => (l, (b.2 + 4 * (l % 32)) % 2 ^ 64)))
/-- LDB (R224). -/
def execLdb (c : Ctl) (d a : VK) (off : Word) (sc : Scope) (cp : CPol) (s : State) : Out :=
  issue { activeMarks := true } (Instr.use (.ldb c d a off sc cp)) c noEarly (fun x s =>
    memAccess x c { kind := .read, use := .other, size := 4, align := 16, rel := false, acq := true, reads := true, writes := false }
      (blockBases x a off) (blockWords x a off) (gateIf (loadRoom x)) (beginLoad x c sc cp 4 false (dstRefs x d 1) (dstLane d) (· / 32)) s) s
/-- LDK (R225). -/
def execLdk (c : Ctl) (d a : Nat) (off : Word) (wide : Bool) (sc : Scope) (cp : CPol) (s : State) : Out :=
  issue { guard := .coll, activeMarks := true } (Instr.use (.ldk c d a off wide sc cp)) c noEarly (fun x s =>
    let n := if wide then 8 else 4
    let acc := oneEa x (.k a) off
    memAccess x c { kind := .read, use := .other, size := n, align := n, rel := false, acq := true, reads := true, writes := false } acc acc (gateIf (loadRoom x))
      (beginLoad x c sc cp n false (dstRefs x (.k d) (wideRegs wide)) (dstLane (.k d)) id) s) s

/-! Stores. -/

/-- The bytes of one element of `size` bytes from registers B. -/
def storeBytes (x : Ctx) (b : VK) (size l : Nat) : List Byte :=
  let w := match b with
    | .v n => (List.range 4).map (fun i => if 4 * i < size then vRead x (n + i) l else 0)
    | .k n => (List.range 4).map (fun i => if 4 * i < size then kget x.sk (n + i) else 0)
  leBytes size (w.foldr (fun r acc => r.toNat + acc * 2 ^ 32) 0)
/-- Merge the lanes' bytes by line, in the order of the lowest lane that touches each; a higher lane wins a byte (R215, R222). -/
def storeLines (x : Ctx) (b : VK) (size : Nat) (xs : Passed) : List (Nat × LMask × LineData × Xl) :=
  let lines := dedup ((sortBy (fun e => e.1) xs).map (fun e => e.2.2.pa / 128))
  lines.map (fun line =>
    let mine := (sortBy (fun e => e.1) xs).filter (fun e => e.2.2.pa / 128 = line)
    let md := mine.foldl (fun (a : LMask × LineData) e =>
      let m := maskBytes (e.2.2.pa % 128) size
      (a.1 ||| m, mergeLine a.2 m (lineOf (e.2.2.pa % 128) (storeBytes x b size e.1)))) (0, 0)
    (line, md.1, md.2, (mine.headD (0, 0, ⟨0, 0⟩)).2.2))
/-- Entries move from the waiting part of a store into its queue of 32 (R215). -/
def enterQueue (sk : Skein) : Skein :=
  { sk with sq := sk.sq ++ sk.sqWait.take (32 - sk.sq.length), sqWait := sk.sqWait.drop (32 - sk.sq.length) }
/-- A way is pinned by a version of a task (R187). DESIGN CHOICE, log entry 87. -/
def pinVersion (s : State) (n k task line : Nat) : State := setSlice s n { sliceOf s n with pins := NMap.insert (sliceOf s n).pins k (.version task line) }
/-- The ways that the new versions of a store will pin are cleared, one for each line; it waits until all of them are (R116, R187). The
second state looks ahead: in it the ways are pinned already. -/
def versionRoom (x : Ctx) (s : State) (lines : List Nat) : Bool × State :=
  let r := lines.foldl (fun (a : Bool × State × State) line =>
    if (NMap.get? x.sk.versions line).isSome || !isMain (128 * line) then a else
    let n := homeSlice a.2.2 (128 * line)
    match sliceVictim a.2.2 n (partOf a.2.2 x.core) line with
    | none => a
    | some k =>
      let ahead := clearWay a.2.2 n k
      (a.1 && wayClear ahead n k, clearWay a.2.1 n k, pinVersion ahead n k x.sk.taskKey line)) (true, s, s)
  (r.1, r.2.1)
/-- A version of the open task takes the bytes of a line; it pins a way of the home slice, if one that it may take is not pinned (R187).
DESIGN CHOICE, log entry 87. -/
def addVersion (x : Ctx) (s : State) (line : Nat) (mask : LMask) (d : LineData) : State :=
  let old := NMap.getD x.sk.versions line (0, 0)
  let fresh := (NMap.get? x.sk.versions line).isNone
  let s := onSkein x (fun sk =>
    let o := NMap.getD sk.versions line old
    { sk with versions := NMap.insert sk.versions line (o.1 ||| mask, mergeLine o.2 mask d) }) s
  if fresh ∧ isMain (128 * line) then
    let n := homeSlice s (128 * line)
    match sliceVictim s n (partOf s x.core) line with
    | some k => pinVersion (evictWay s n k) n k x.sk.taskKey line
    | none => s
  else s
/-- Whether a store can begin: a type-10 access waits for the one before (R222), and versions need their place (R187). -/
def storeGate (x : Ctx) (b : VK) (size : Nat) (ver : Bool) (xs : Passed) (s : State) : Room × State :=
  if isDevice xs && deviceBusy x then (.wait, s)
  else if ver ∧ x.sk.taskOpen then
    let lines := (storeLines x b size xs).map Prod.fst
    if 2048 < (dedup (NMap.keys x.sk.versions ++ lines)).length then (.trap { code := 0x38 }, s)
    else
      let r := versionRoom x s lines
      (if r.1 then .ready else .wait, r.2)
  else (.ready, s)
/-- Begin a store (R215, R217, R222); `ver` inside a task writes versions (R186, R187). -/
def beginStore (x : Ctx) (c : Ctl) (b : VK) (sc : Scope) (cp : CPol) (size : Nat) (ver : Bool) (xs : Passed) (s : State) : State :=
  let lines := storeLines x b size xs
  if ver ∧ x.sk.taskOpen then retire x (lines.foldl (fun s e => addVersion x s e.1 e.2.1 e.2.2.1) s)
  else
    let op := s.nextId
    let through := fun (y : Xl) => !usesL1 sc cp y
    let ents := lines.map (fun e =>
      { line := e.1, mask := e.2.1, data := e.2.2.1, through := through e.2.2.2, firstVictim := firstOf cp
        policy := slicePol cp e.2.2.2, device := decide (e.2.2.2.type = 2), op := none, entered := s.clock, made := s.clock : SqEntry })
    let room := 32 - x.sk.sq.length
    -- what keeps the operation open: written-through entries, and written-back ones that have not entered
    let ents := (ents.zip (List.range ents.length)).map (fun e => if e.1.through || decide (room ≤ e.2) then { e.1 with op := some op } else e.1)
    let left := (ents.filter (fun e => e.op.isSome)).length
    let s := if left = 0 then s else
      (beginOp x c { cls := .memory, path := x.path, device := isDevice xs, body := .store left } s).2
    retire x (onSkein x (fun sk => enterQueue { sk with sqWait := sk.sqWait ++ ents }) s)
/-- ST (R222). -/
def execSt (c : Ctl) (a b : VK) (off : Word) (sz : ASize) (sc : Scope) (cp : CPol) (ver : Bool) (s : State) : Out :=
  issue { activeMarks := true } (Instr.use (.st c a b off sz sc cp ver)) c noEarly (fun x s =>
    let n := sizeOf8 sz
    memAccess x c { kind := .write, use := .plain n, size := n, align := n, rel := true, acq := true, reads := false, writes := true }
      (laneEas x a off) (laneEas x a off) (storeGate x b n ver) (beginStore x c b sc cp n ver) s) s
/-- STB (R224). -/
def execStb (c : Ctl) (a b : VK) (off : Word) (sc : Scope) (cp : CPol) (ver : Bool) (s : State) : Out :=
  issue { activeMarks := true } (Instr.use (.stb c a b off sc cp ver)) c noEarly (fun x s =>
    memAccess x c { kind := .write, use := .other, size := 4, align := 16, rel := true, acq := true, reads := false, writes := true }
      (blockBases x a off) (blockWords x a off) (storeGate x b 4 ver) (beginStore x c b sc cp 4 ver) s) s
/-- STK (R225). -/
def execStk (c : Ctl) (a b : Nat) (off : Word) (wide : Bool) (sc : Scope) (cp : CPol) (s : State) : Out :=
  issue { guard := .coll, activeMarks := true } (Instr.use (.stk c a b off wide sc cp)) c noEarly (fun x s =>
    let n := if wide then 8 else 4
    let acc := oneEa x (.k a) off
    memAccess x c { kind := .write, use := .other, size := n, align := n, rel := true, acq := true, reads := false, writes := true } acc acc (storeGate x (.k b) n false)
      (beginStore x c (.k b) sc cp n false) s) s

/-! The peer window and the weight store (R226, R227). -/

/-- The core that LDP, STP and TPEER name: core N of the skein's cluster. -/
def peerCore (x : Ctx) (n : Nat) : Nat := x.core / 4 * 4 + n
/-- The core exists on this part (R14, R448). -/
def corePresent (s : State) (core : Nat) : Bool := s.dev.cores.getLsbD core
/-- The peer addresses of the active lanes. -/
def peerEas (x : Ctx) (a : Nat) (off : Word) : List (Nat × Nat) := (lanesOf x.act).map (fun l => (l, (vRead x a l + off).toNat))
def tileOf (s : State) (core e : Nat) : TileEntry := NMap.getD (coreOf s core).tiles e {}
def tilePresent (s : State) (core e : Nat) : Bool := corePresent s core && (tileOf s core e).present
/-- The traps of LDP and STP: alignment, peer-range, peer-absent (R219, R226). -/
def peerCheck (s : State) (p size : Nat) (acc : List (Nat × Nat)) : Option TrapInfo :=
  (laneWith (fun a => decide (a % 2 ^ 19 % size ≠ 0)) 0x19 acc).or
  ((laneWith (fun a => decide (2 ^ 27 ≤ a) || (tilePresent s p (field a 19 8) &&
      decide (128 * (tileOf s p (field a 19 8)).size < a % 2 ^ 19 + size))) 0x1A acc).or
   (laneWith (fun a => !tilePresent s p (field a 19 8)) 0x1B acc))
/-- The byte address in the peer's tile store. -/
def peerByte (s : State) (p a : Nat) : Nat := (tileOf s p (field a 19 8)).base * 128 + a % 2 ^ 19
def tileByte (s : State) (core a : Nat) : Byte := NMap.getD (coreOf s core).tileBytes a 0
/-- Write bytes of a tile store; a zero byte is not listed. -/
def putTileBytes (m : NMap Byte) (a : Nat) : List Byte → NMap Byte
  | [] => m
  | b :: r => putTileBytes (if b = 0 then NMap.erase m a else NMap.insert m a b) (a + 1) r
/-- Write bytes of a core’s tile store. DEDUCED, log entry 28. -/
def setTileBytes (s : State) (core a : Nat) (bs : List Byte) : State := updCore s core (fun c => { c with tileBytes := putTileBytes c.tileBytes a bs })
def tileRead (s : State) (core a n : Nat) : List Byte := (List.range n).map (fun i => tileByte s core (a + i))
/-- A load whose bytes are in hand: one part per lane, delivered later by LOAD_REPLY. DEDUCED, log entry 28. -/
def beginTaken (x : Ctx) (c : Ctl) (size : Nat) (signed : Bool) (dst : List RegRef) (vals : List (Nat × List Byte)) (s : State) : State :=
  let parts := vals.map (fun e => { line := 0, found := allLanes, data := lineOf 0 e.2, req := none, arrived := false, poison := 0, allocate := false, firstVictim := false : LoadPart })
  let elems := (vals.zip (List.range vals.length)).map (fun e => { lane := some e.1.1, part := e.2, off := 0 : LoadElem })
  retire x (beginOp x c { cls := .memory, path := x.path, isLoad := true, pend := dst, body := .load parts elems size signed dst } s).2
/-- LDP (R226): the peer's tile store is read at issue (DEDUCED, log entry 28). -/
def execLdp (c : Ctl) (d : Nat) (a : Nat) (off : Word) (sz : ASize) (peer : Nat) (s : State) : Out :=
  issue { activeMarks := true } (Instr.use (.ldp c d a off sz peer)) c noEarly (fun x s =>
    if memHeld x false true then stall x .other s else
    let acc := peerEas x a off
    match peerCheck s (peerCore x peer) (sizeOf8 sz) acc with
    | some t => trapX x t s
    | none =>
      if !flagRoom x c then stall x .other s else
      match watchCheck s x true false (sizeOf8 sz) acc with
      | (some t, s) => trapWatch x t s
      | (none, s) => beginTaken x c (sizeOf8 sz) (sizeSigned sz) (dstRefs x (.v d) sz.regs)
          (acc.map (fun e => (e.1, tileRead s (peerCore x peer) (peerByte s (peerCore x peer) e.2) (sizeOf8 sz)))) s) s
/-- The completion of an STP: an operation of memory class, which selects a flag; LOAD_REPLY brings its acknowledgement (R36, R226). DEDUCED, log entry 28. -/
def beginPeerStore (x : Ctx) (c : Ctl) (s : State) : State :=
  let part : LoadPart := { line := 0, found := allLanes, data := 0, req := none, arrived := false, poison := 0, allocate := false, firstVictim := false }
  retire x (beginOp x c { cls := .memory, path := x.path, body := .load [part] [] 0 false [] } s).2
/-- STP (R226): the peer's tile store is written at issue, lanes ascending (DEDUCED, log entry 28). -/
def execStp (c : Ctl) (a : Nat) (b : VK) (off : Word) (sz : ASize) (peer : Nat) (s : State) : Out :=
  issue { activeMarks := true } (Instr.use (.stp c a b off sz peer)) c noEarly (fun x s =>
    if memHeld x true true then stall x .other s else
    let acc := peerEas x a off
    match peerCheck s (peerCore x peer) (sizeOf8 sz) acc with
    | some t => trapX x t s
    | none =>
      if !flagRoom x c then stall x .other s else
      match watchCheck s x false true (sizeOf8 sz) acc with
      | (some t, s) => trapWatch x t s
      | (none, s) =>
        let s := acc.foldl (fun s e => setTileBytes s (peerCore x peer) (peerByte s (peerCore x peer) e.2) (storeBytes x b (sizeOf8 sz) e.1)) s
        beginPeerStore x c s) s
/-- The skein's grid holds its die's weight-store gate as a reader (R100, R227). -/
def holdsGate (s : State) (x : Ctx) : Bool :=
  match boltOf s x.core x.sk.bolt with
  | some b => decide (b.grid ∈ (NMap.getD s.dies x.die {}).gateReaders)
  | none => false
/-- LDW (R227). DEDUCED, log entry 74. -/
def execLdw (c : Ctl) (d : Nat) (a : Nat) (off : Word) (sz : ASize) (s : State) : Out :=
  issue { activeMarks := true } (Instr.use (.ldw c d a off sz)) c noEarly (fun x s =>
    if memHeld x false true then stall x .other s else
    let n := sizeOf8 sz
    let acc := peerEas x a off
    match (laneWith (fun w => decide (w % n ≠ 0)) 0x19 acc).or
      ((laneWith (fun w => decide (0xC000000 < w + n) || !s.dev.wstore.getLsbD x.die) tcHole acc).or
       (if holdsGate s x then none else some { code := tcPermission, lane := oneOf x, va := (acc.headD (0, 0)).2 })) with
    | some t => trapX x t s
    | none =>
      if !flagRoom x c then stall x .other s else
      match watchCheck s x true false n acc with
      | (some t, s) => trapWatch x t s
      | (none, s) =>
        retire x (beginOp x c { cls := .memory, path := x.path, isLoad := true, pend := dstRefs x (.v d) sz.regs
                                body := .weight acc n (sizeSigned sz) (dstRefs x (.v d) sz.regs) } s).2) s

/-! Atomics, fences, cache maintenance. -/

/-- The atomics that host-window accesses may be (R228). -/
def hostAtomicOk (op : Option AtomOp) (ty : IType) : Bool :=
  decide (32 ≤ itWidth ty) && (match op with | none | some .add | some .exch => true | _ => false)
/-- Check and begin an atomic. -/
def atomicGo (x : Ctx) (c : Ctl) (d a : VK) (off : Word) (op : Option AtomOp) (ty : IType) (sc : Scope) (b cv : Nat → DWord) (s : State) : State :=
  let n := itWidth ty / 8
  let acc := laneEas x a off
  memAccess x c { kind := .write, use := .atomic (hostAtomicOk op ty), size := n, align := n, rel := true, acq := true, reads := true, writes := true } acc acc (gateIf (fun _ _ => true))
    (fun xs s =>
      let todo := xs.map (fun e => (e.1, e.2.2.pa / 128, { op := op.getD .exch, isCas := op.isNone, ty := ty, off := e.2.2.pa % 128, b := b e.1, c := cv e.1 : AtomReq }))
      let (_, s) := beginOp x c { cls := .memory, path := x.path, isLoad := true, pend := dstRefs x d ty.regs
                                  body := .atomic todo todo.length sc [] ty (dstRefs x d ty.regs) false { loads := pathLoads x.sk x.path } } s
      pokeCore (retire x s) x.core) s
/-- ATOM (R228). -/
def execAtom (c : Ctl) (d a b : VK) (off : Word) (op : AtomOp) (ty : IType) (sc : Scope) (s : State) : Out :=
  issue { activeMarks := true } (Instr.use (.atom c d a b off op ty sc)) c noEarly (fun x s => atomicGo x c d a off (some op) ty sc (fun l => vkBits x ty b l) (fun _ => 0) s) s
/-- ATOMC (R228). -/
def execAtomc (c : Ctl) (d a b cc : VK) (ty : IType) (sc : Scope) (s : State) : Out :=
  issue { activeMarks := true } (Instr.use (.atomc c d a b cc ty sc)) c noEarly (fun x s => atomicGo x c d a 0 none ty sc (fun l => vkBits x ty b l) (fun l => vkBits x ty cc l) s) s
/-- FENCE (R229). -/
def execFence (c : Ctl) (k : FenceKind) (sc : Scope) (s : State) : Out :=
  issue { guard := .any } {} c noEarly (fun x s =>
    if memHeld x false true || !flagRoom x c then stall x .other s
    else
      let (_, s) := beginOp x c { cls := .memory, path := x.path, body := .fence k sc { loads := pathLoads x.sk x.path } } s
      pokeCore (retire x s) x.core) s
/-- CFLUSH and CINV: the lines of the active lanes, or every line (R230). -/
def flushGo (x : Ctx) (c : Ctl) (inv : Bool) (a : Option VK) (off : Word) (sc : Scope) (s : State) : State :=
  let go := fun (lines : Option (List Nat)) (s : State) =>
    if scopeRank sc ≤ 1 then retire x s
    else pokeCore (retire x (beginOp x c { cls := .memory, path := x.path, body := .flush inv sc lines {} } s).2) x.core
  match a with
  | none => if memHeld x false true || !flagRoom x c then stall x .other s else go none s
  | some r => memAccess x c { kind := .read, use := .other, size := 1, align := 1, rel := false, acq := true, reads := false, writes := false }
      (laneEas x r off) (laneEas x r off) (gateIf (fun _ _ => true)) (fun xs s => go (some (dedup (xs.map (fun e => e.2.2.pa / 128)))) s) s
/-- CFLUSH (R230). -/
def execCflush (c : Ctl) (a : Option VK) (off : Word) (sc : Scope) (s : State) : Out :=
  issue { guard := if a.isSome then .lane else .any, activeMarks := true } (Instr.use (.cflush c a off sc)) c noEarly (fun x s => flushGo x c false a off sc s) s
/-- CINV (R230). -/
def execCinv (c : Ctl) (a : Option VK) (off : Word) (sc : Scope) (s : State) : Out :=
  issue { guard := if a.isSome then .lane else .any, activeMarks := true } (Instr.use (.cinv c a off sc)) c noEarly (fun x s => flushGo x c true a off sc s) s
/-- A lane's address registers are marked (R220). -/
def addrMarked (x : Ctx) (a : VK) (l : Nat) : Bool :=
  match a with
  | .v n => [n, n + 1].any (fun m => ((NMap.get? x.sk.vmarks (vkey x.pa.win m)).getD 0).getLsbD l)
  | .k n => [n, n + 1].any (fun m => decide (m ∈ x.sk.kmarks))
/-- The lines of a prefetch, lowest lane first: lanes that would fault are dropped. -/
def prefLines (x : Ctx) (a : VK) (off : Word) : List Nat :=
  dedup (((laneEas x a off).filter (fun e => canonical e.2 && !addrMarked x a e.1)).map (fun e => va57 e.2 / 128 * 128))
/-- PREF (R231): it raises no trap, and no instruction waits for it; a line without a translation waits for its walk. DEDUCED, log entry 80. -/
def execPref (c : Ctl) (a : VK) (off : Word) (l2 : Bool) (s : State) : Out :=
  issue { quiet := true } (Instr.use (.pref c a off l2)) c noEarly (fun x s =>
    if memHeld x false true then stall x .other s else
    retire x ((prefLines x a off).foldl (fun s va =>
      let ag := Agent.prefetch x.core l2 va
      match translate s ag (some x.core) x.die (partOf s x.core) (x.launch s).ctx va .read with
      | (some (.ok y), s) => sendPrefetch s x.core l2 y
      | (_, s) => s) s)) s
/-- SEQR (R232). DEDUCED, log entry 37. DEDUCED, log entry 80. -/
def execSeqr (c : Ctl) (d : VK) (s : State) : Out :=
  issue { quiet := true } (Instr.use (.seqr c d)) c noEarly (fun x s =>
    if memHeld x false true || !flagRoom x c then stall x .other s
    else
      let refs := dstRefs x d 2
      pokeCore (retire x (beginOp x c { cls := .memory, path := x.path, isLoad := true, pend := refs, body := .seqr refs x.act s.nextId } s).2) x.core) s

end Sys2Proof.Machine
end

