-- ==== Sys2Proof/Machine/Regs.lean ====
section
/-! DEFINITION. The device register block: what every register reads as, and the fields a write sets (spec/00 R5, R6, 04 Table 2,
05 Tables 2 and 3, 08 Table 5, 16 Table 2, 17 Tables 4 and 10, 18 Table 4, 19 Table 2). Writes that start something are in
Machine/Host.lean. -/

namespace Sys2Proof.Machine

/-- The device accepts work (R445); a thermal trip ends that (R450). -/
def devReady (s : State) : Bool := decide (s.dev.phase = .ready) && !s.dev.trip
def phaseCode : Phase → Nat | .verify => 0 | .calibrate => 1 | .initialise => 2 | .ready => 3 | .failed => 4
/-- DEVSTAT (19 Table 2). -/
def devstat (d : Device) : Nat :=
  (if d.trip then 128 else 0) + 16 * phaseCode d.phase + (if d.calLoss then 4 else 0) + (if d.phase = .ready then 1 else 0)
/-- SLCAP(d) (05 Table 3). -/
def slcap (s : State) (d : Nat) : Nat :=
  waysOf s d * 2 ^ 24 + (if s.dev.sram.getLsbD d then 2 ^ 16 else 0) + (s.dev.slices.toNat / 2 ^ (16 * d)) % 2 ^ 16
def memcap (d : Device) : Nat :=
  (if d.secondCxl then 2 ^ 20 else 0) + d.wstore.toNat * 2 ^ 16 + d.second.toNat * 2 ^ 12 + d.hbmStacks.toNat
/-- A commit register: refused in bit 1, pending in bit 0. -/
def commitBits (pending : Option Nat) (refused : Bool) : Nat := (if refused then 2 else 0) + (if pending.isSome then 1 else 0)
/-- UALCTL(x) (18 Table 4). -/
def ualctl (p : UalPort) : Nat :=
  let cur := p.keys.getLast?
  (if p.agreementFailed then 128 else 0) + (if p.up then 64 else 0) + (if p.failed then 32 else 0) +
  (if (cur.map UalKey.sealed).getD 0 ≥ 2 ^ 48 then 16 else 0) + (if p.keys.length = 2 then 8 else 0) +
  (if (cur.map UalKey.epoch).getD false then 4 else 0) + (if p.waiting then 2 else 0) + (if p.roll then 1 else 0)
def ageReg (d : Die) : Nat := d.maxClk * 2 ^ 24 + (if d.replan.isSome then 2 ^ 16 else 0) + d.wear
def gateCode : GateState → Nat | .free => 0 | .read => 1 | .write => 2
/-- DBGSTAT (17 Table 10). -/
def dbgstat (s : State) : Nat :=
  let core := field s.dev.dbgsel.toNat 24 8
  let slot := field s.dev.dbgsel.toNat 18 6
  let st := match skeinOf s core slot with
    | none => (0, 0)
    | some sk => ((match sk.run with | .halted | .stepping => 2 | .haltedBrk => 3 | _ => 1), ((boltOf s core sk.bolt).map Bolt.block).getD 0)
  st.2 * 2 ^ 32 + st.1 * 2 ^ 12 + (if s.dev.dbgRefused then 8 else 0)
/-- The stack of a package channel is present (R448). -/
def chPresent (s : State) (c : Nat) : Bool := s.dev.hbmStacks.getLsbD (c / 32)
/-- Two 32-bit registers that share an aligned 8-byte unit. -/
def two (f : Nat → Nat) (w : Nat) : Nat := f w + f (w + 1) * 2 ^ 32
/-- A 32-bit shadow word with its reset value. -/
def shadowWord (m : NMap Word) (k reset : Nat) : Nat := ((NMap.get? m k).map BitVec.toNat).getD reset
/-- CHSLOT(c, w) as written. -/
def chslot (s : State) (c w : Nat) : Nat := if c < 384 ∧ chPresent s c then shadowWord (NMap.getD s.channels c {}).shadow w 0xFFFFFFFF else 0xFFFFFFFF
/-- DLOWN(x, w) as written; directions from a die to itself name no link (R118). -/
def dlownWord (s : State) (x w : Nat) : Nat := if x / 4 = x % 4 then 0xFFFFFFFF else shadowWord s.dev.dlownNext (32 * x + w) 0xFFFFFFFF

/-- What the aligned 8 bytes at an offset read as once the device is ready. -/
def regValue (s : State) (o : Nat) : Nat :=
  let d := s.dev
  let port := fun x => NMap.getD s.ports x {}
  if o < 0x1000 then 0
  else if o < 0x2000 then
    if o = 0x1000 then d.ctxBase
    else if o = 0x1010 then commitBits d.chCommit d.chRefused
    else if 0x1020 ≤ o ∧ o < 0x1040 then
      let e := NMap.getD s.dies ((o - 0x1020) / 8) {}
      e.gateReaders.length * 256 + gateCode e.gate
    else if o = 0x1100 then d.qtBase
    else if o = 0x1108 then d.migcfg.toNat
    else if o = 0x1200 then d.fltqBase.toNat else if o = 0x1208 then d.fltqTail else if o = 0x1210 then d.fltqHead else if o = 0x1218 then d.fltLost
    else if o = 0x1220 then d.evtqBase.toNat else if o = 0x1228 then d.evtqTail else if o = 0x1230 then d.evtqHead else if o = 0x1238 then d.evtLost
    else if o = 0x1240 then d.dbgcfg.toNat
    else if o = 0x1248 then d.stopReq.toNat
    else if o = 0x1260 then d.dbgsel.toNat
    else if o = 0x1268 then d.dbgcmd
    else if o = 0x1270 then dbgstat s
    else if 0x1300 ≤ o ∧ o < 0x1400 then
      let w := NMap.getD d.watch ((o - 0x1300) / 32) {}
      if o % 32 = 0 then w.w0.toNat else if o % 32 = 8 then w.w1.toNat else if o % 32 = 16 then w.w2.toNat else 0
    else if 0x1400 ≤ o ∧ o < 0x1440 then
      let m := NMap.getD d.monitor ((o - 0x1400) / 16) (0, 0)
      if o % 16 = 0 then m.1.toNat else m.2.toNat
    else 0
  else if o < 0x8000 then two (fun w => chslot s ((o - 0x2000) / 64) w) ((o - 0x2000) % 64 / 4)
  else if o < 0xA000 then
    if o < 0x8020 then slcap s ((o - 0x8000) / 8)
    else if o = 0x8040 then d.slown.next.toNat else if o = 0x8048 then d.slqres.next.toNat else if o = 0x8050 then d.slway.next.toNat
    else if o = 0x8058 then d.adpcfg.next.toNat
    else if o = 0x8060 then commitBits d.fabCommit d.fabRefused
    else if 0x8100 ≤ o ∧ o < 0x8300 then (sliceOf s ((o - 0x8100) / 8)).seq
    else if 0x8400 ≤ o ∧ o < 0x8C00 then two (fun w => dlownWord s ((o - 0x8400) / 128) w) ((o - 0x8400) % 128 / 4)
    else if 0x8C00 ≤ o ∧ o < 0x8C80 then (if (o - 0x8C00) / 8 / 4 = (o - 0x8C00) / 8 % 4 then 0 else (NMap.getD s.links ((o - 0x8C00) / 8) {}).retries)
    else 0
  else if o < 0xC000 then
    if o = 0xA000 then (if d.hostPath then 1 else 0)
    else if 0xA100 ≤ o ∧ o < 0xA300 then
      let p := (o - 0xA100) / 64
      let w := (o - 0xA100) % 64 / 8
      if w = 0 then (NMap.getD d.partClkNext p 0x9000).toNat
      else if w ≤ 3 then (NMap.getD d.partCoreNext p 0).toNat / 2 ^ (64 * (w - 1)) % 2 ^ 64 else 0
    else if o = 0xA300 then commitBits d.partCommit d.partRefused
    else if o = 0xA308 then Config.ratedMax
    else if o = 0xA400 then d.ualvcown.next.toNat
    else if 0xA408 ≤ o ∧ o < 0xA428 then two (fun w => shadowWord d.ualslotNext w 0) ((o - 0xA408) / 4)
    else if o = 0xA430 then commitBits d.ualCommit d.ualRefused
    else if 0xA500 ≤ o ∧ o < 0xA600 then
      let p := port ((o - 0xA500) / 16)
      if o % 16 = 0 then ualctl p else p.tagFails * 2 ^ 32 + p.resends
    else if o = 0xA600 then d.grpBase
    else if o = 0xA700 then (if d.attRequest then 1 else 0)
    else if 0xA708 ≤ o ∧ o < 0xA728 then (NMap.getD d.attNonce ((o - 0xA708) / 8) 0).toNat
    else if o = 0xA730 then d.attBuf
    else if o = 0xA740 then d.fwstat.toNat
    else 0
  else if o < 0x10000 then
    if o = 0xC000 then devstat d
    else if 0xC010 ≤ o ∧ o < 0xC028 then d.cores.toNat / 2 ^ (64 * ((o - 0xC010) / 8)) % 2 ^ 64
    else if o = 0xC028 then memcap d
    else if o = 0xC030 then d.telBase.toNat
    else if o = 0xC038 then d.throttle
    else if 0xC100 ≤ o ∧ o < 0xC700 then NMap.getD d.temps ((o - 0xC100) / 8) 0
    else if o = 0xC800 then d.pwr.toNat
    else if o = 0xC808 then d.energy.toNat
    else if 0xC810 ≤ o ∧ o < 0xC830 then ageReg (NMap.getD s.dies ((o - 0xC810) / 8) {})
    else 0
  else if 0x40000 ≤ o ∧ o < 0x40000 + 32 * 192 then
    let c := coreOf s ((o - 0x40000) / 32)
    if o % 32 = 0 then c.regSpill else if o % 32 = 8 then c.regFill else if o % 32 = 16 then c.regBreak else 0
  else if 0x100000 ≤ o ∧ o < 0x200000 then
    let q := NMap.getD s.queues ((o - 0x100000) / 16) {}
    if o % 16 = 0 then q.tail else q.head
  else 0
/-- Registers that can be read before Ready (R446). -/
def earlyReg (o : Nat) : Bool := o == 0xC000 || o == 0xA740 || o == 0xA308 || (0xC010 ≤ o && o < 0xC030)
/-- Read the aligned 8 bytes at an offset (R446, R450). DEDUCED, log entry 39. -/
def regRead64 (s : State) (o : Nat) : Nat :=
  if s.dev.trip then (if o = 0xC000 then regValue s o else 0)
  else if s.dev.phase = .ready then regValue s o else if earlyReg o then regValue s o else 0
/-- Read 4 or 8 naturally aligned bytes (R427). -/
def regRead (s : State) (off size : Nat) : List Byte := leBytes size (regRead64 s (off / 8 * 8) / 2 ^ (8 * (off % 8)))

/-- The bits of the aligned 8 bytes that a write of 4 or 8 bytes covers, and their values. -/
def writeBits (off : Nat) (wide : Bool) (v : DWord) : DWord × DWord :=
  if wide then (BitVec.allOnes 64, v) else
  let sh := 8 * (off % 8 / 4 * 4)
  (BitVec.ofNat 64 (0xFFFFFFFF * 2 ^ sh), BitVec.ofNat 64 (v.toNat % 2 ^ 32 * 2 ^ sh))
/-- A register after a write: writable fields under the mask take the value, others stay (R5, R6). -/
def fieldWrite (old fields mask v : DWord) : DWord := (old &&& ~~~(fields &&& mask)) ||| (v &&& fields &&& mask)
/-- Bits lo to hi set. -/
def bitRange (lo hi : Nat) : DWord := BitVec.ofNat 64 (2 ^ (hi + 1) - 2 ^ lo)
/-- Set the two 32-bit words of an aligned unit in a shadow map. -/
def shadowWrite (m : NMap Word) (base k : Nat) (mask v : DWord) : NMap Word :=
  let put := fun (m : NMap Word) (i sh : Nat) =>
    if field mask.toNat sh 32 = 0 then m else NMap.insert m (base + k + i) (BitVec.ofNat 32 (field v.toNat sh 32))
  put (put m 0 0) 1 32

/-- Set the plain writable fields of a register; `none` for a register whose write starts something. -/
def regSet (s : State) (o : Nat) (mask v : DWord) : Option State :=
  let d := s.dev
  let old := BitVec.ofNat 64 (regValue s o)
  let fw := fun fields => fieldWrite old fields mask v
  let dev := fun (x : Device) => some { s with dev := x }
  if o = 0x1000 then dev { d with ctxBase := (fw (bitRange 16 51)).toNat }
  else if o = 0x1100 then dev { d with qtBase := (fw (bitRange 16 51)).toNat }
  else if o = 0x1108 then dev { d with migcfg := fw (bitRange 4 23 ||| 1) }
  else if o = 0x1200 then dev { d with fltqBase := fw (bitRange 12 51 ||| bitRange 0 4) }
  else if o = 0x1210 then dev { d with fltqHead := (fw (bitRange 0 31)).toNat }
  else if o = 0x1220 then dev { d with evtqBase := fw (bitRange 12 51 ||| bitRange 0 4) }
  else if o = 0x1230 then dev { d with evtqHead := (fw (bitRange 0 31)).toNat }
  else if o = 0x1240 then dev { d with dbgcfg := (fw 3).setWidth 2 }
  else if o = 0x1260 then dev { d with dbgsel := fw (bitRange 18 31) }
  else if o = 0x1270 then dev { d with dbgRefused := d.dbgRefused && !(mask &&& v).getLsbD 3 }
  else if 0x1300 ≤ o ∧ o < 0x1400 then
    let i := (o - 0x1300) / 32
    let w := NMap.getD d.watch i {}
    if o % 32 = 0 then dev { d with watch := NMap.insert d.watch i { w with w0 := fw (bitRange 0 56) } }
    else if o % 32 = 8 then dev { d with watch := NMap.insert d.watch i { w with w1 := fw (bitRange 0 43) } }
    else if o % 32 = 16 then dev { d with watch := NMap.insert d.watch i { w with w2 := fw (bitRange 32 63 ||| 1) } }
    else some s
  else if 0x1400 ≤ o ∧ o < 0x1440 then
    let j := (o - 0x1400) / 16
    let m := NMap.getD d.monitor j (0, 0)
    if o % 16 = 0 then dev { d with monitor := NMap.insert d.monitor j (fw (bitRange 7 51 ||| 1), m.2) }
    else dev { d with monitor := NMap.insert d.monitor j (m.1, fw (bitRange 0 31)) }
  else if 0x2000 ≤ o ∧ o < 0x8000 then
    let c := (o - 0x2000) / 64
    if chPresent s c then
      let ch := NMap.getD s.channels c {}
      some { s with channels := NMap.insert s.channels c { ch with shadow := shadowWrite ch.shadow 0 ((o - 0x2000) % 64 / 4) mask v } }
    else some s
  else if o = 0x8040 then dev { d with slown := { d.slown with next := fw (bitRange 0 63) } }
  else if o = 0x8048 then dev { d with slqres := { d.slqres with next := fw (bitRange 0 31) } }
  else if o = 0x8050 then dev { d with slway := { d.slway with next := fw (bitRange 0 63) } }
  else if o = 0x8058 then dev { d with adpcfg := { d.adpcfg with next := fw (bitRange 32 63 ||| 1) } }
  else if 0x8400 ≤ o ∧ o < 0x8C00 then
    let x := (o - 0x8400) / 128
    if x / 4 = x % 4 then some s else dev { d with dlownNext := shadowWrite d.dlownNext (32 * x) ((o - 0x8400) % 128 / 4) mask v }
  else if o = 0xA000 then dev { d with hostPath := (fw 1).getLsbD 0 }
  else if 0xA100 ≤ o ∧ o < 0xA300 then
    let p := (o - 0xA100) / 64
    let w := (o - 0xA100) % 64 / 8
    if w = 0 then dev { d with partClkNext := NMap.insert d.partClkNext p (fw (bitRange 8 15 ||| 1)) }
    else if w ≤ 3 then
      let all := (NMap.getD d.partCoreNext p 0).toNat
      let sh := 64 * (w - 1)
      dev { d with partCoreNext := NMap.insert d.partCoreNext p (BitVec.ofNat 192 (all - field all sh 64 * 2 ^ sh + (fw (bitRange 0 63)).toNat * 2 ^ sh)) }
    else some s
  else if o = 0xA400 then dev { d with ualvcown := { d.ualvcown with next := fw (bitRange 0 63) } }
  else if 0xA408 ≤ o ∧ o < 0xA428 then dev { d with ualslotNext := shadowWrite d.ualslotNext 0 ((o - 0xA408) / 4) mask v }
  else if o = 0xA600 then dev { d with grpBase := (fw (bitRange 17 51)).toNat }
  else if 0xA708 ≤ o ∧ o < 0xA728 then dev { d with attNonce := NMap.insert d.attNonce ((o - 0xA708) / 8) (fw (bitRange 0 63)) }
  else if o = 0xA730 then dev { d with attBuf := (fw (bitRange 16 51)).toNat }
  else if o = 0xC030 then dev { d with telBase := fw (bitRange 8 51 ||| 1) }
  else if o = 0xC038 then
    let t := (fw (bitRange 0 7)).toNat
    if 60 ≤ t ∧ t ≤ 110 then dev { d with throttle := t } else some s
  else if o = 0x1010 ∨ o = 0x1248 ∨ o = 0x1268 ∨ o = 0x8060 ∨ o = 0xA300 ∨ o = 0xA430 ∨ (0xA500 ≤ o ∧ o < 0xA600) ∨ o = 0xA700 ∨
    (0x100000 ≤ o ∧ o < 0x200000) then none
  else some s

end Sys2Proof.Machine
end

