-- ==== Sys2Proof/Machine/Replies.lean ====
section
/-! DEFINITION. LOAD_REPLY: the data of a load, of the lanes of an atomic, of an LDW, of a PSTAT or of a prefetch returns (spec/09 R216, R220,
R227, R228, R231). -/

namespace Sys2Proof.Machine

/-- Registers keep the marks they had: a load is one write, so its later parts clear no mark that an earlier part made (R220). DEDUCED, log entry 16. -/
def keepMarks (dst : List RegRef) (old sk : Skein) : Skein :=
  dst.foldl (fun sk r => match r with
    | .v key => match NMap.get? old.vmarks key with
      | some m => { sk with vmarks := NMap.insert sk.vmarks key (NMap.getD sk.vmarks key 0 ||| m) }
      | none => sk
    | .k n => if n ∈ old.kmarks then { sk with kmarks := sortedInsert n (sk.kmarks.filter (fun k => k ≠ n)) } else sk
    | .p _ => sk) sk
/-- The bytes of a part that an element takes from the core (R216). -/
def LoadPart.own (p : LoadPart) (e : LoadElem) : LMask := if e.whole then p.found else p.found &&& p.strong
/-- The elements of one part of a load are written to their registers: each byte from the core or from the line that has come (R216). A lane is
poisoned when a byte of it came poisoned (R220). -/
def deliver (sk : Skein) (act : List LoadElem) (size : Nat) (signed : Bool) (dst : List RegRef) (p : LoadPart) (line : LineData) (poison : BitVec 4) : Skein :=
  let val := fun (e : LoadElem) =>
    let v := lineNat (mergeLine line (p.own e) p.data) e.off size
    if signed then (BitVec.ofInt 32 (readInt (8 * size) true v)).toNat else v
  let bad := fun (e : LoadElem) => decide (unitsTouched (without (maskBytes e.off size) (p.own e)) &&& poison ≠ 0)
  let lanes := lmask (fun l => act.any (fun e => decide (e.lane = some l)))
  let badL := lmask (fun l => act.any (fun e => decide (e.lane = some l) && bad e))
  let pick := fun l => (act.find? (fun e => e.lane = some l)).elim 0 val
  let sk := if lanes = 0 then sk else writeResultsN sk dst lanes badL pick
  match act.find? (fun e => e.lane.isNone) with
  | some e => writeResultsN sk dst 1 (if bad e then 1 else 0) (fun _ => val e)
  | none => sk
/-- The 128 bytes of a line of the device register block. -/
def regLine (s : State) (pa : Nat) : LineData :=
  match regionOf pa with
  | .regs off => lineOf 0 ((List.range 16).flatMap (fun i => regRead s (off + 8 * i) 8))
  | _ => 0
/-- The line of a part comes to the L1 (R238): it fills the line, or, poisoned or too old to fill it, takes the clean bytes out, so that no
later load finds bytes older than these. DEDUCED, log entry 26. -/
def partFill (s : State) (core : Nat) (p : LoadPart) (line : LineData) (poison : BitVec 4) (took : Nat) : State :=
  if !p.allocate then s
  else if p.dropped || decide (poison ≠ 0) then updL1 s core (fun l => cleanOut l p.line)
  else fillNewer (l1Fill s core p.line line p.firstVictim) core p.line took
/-- A part of a load is delivered: the slice's bytes merged with those found (R216); the L1 takes the slice's line alone (R238). The load
completes with its last part. DEDUCED, log entry 26. DEDUCED, log entry 27. -/
def partDone (s : State) (core slot op : Nat) (o : Op) (parts : List LoadPart) (elems : List LoadElem) (size : Nat) (signed : Bool) (dst : List RegRef)
    (i : Nat) (p : LoadPart) (line : LineData) (poison : BitVec 4) (took : Nat) : State :=
  let more := parts.any (fun q => q.arrived)
  let s := updSkein s core slot (fun sk =>
    let new := deliver sk (elems.filter (fun e => e.part = i)) size signed dst p line poison
    if more then keepMarks dst sk new else new)
  let parts := parts.set i { p with arrived := true }
  -- the fill may make other parts of the load too old to fill
  let s := partFill (setOp s core slot op { o with body := .load parts elems size signed dst }) core p line poison took
  if parts.all (fun q => q.arrived) then finishOp s core slot op else s
/-- A bank group of the weight store is in its refresh window (R101). DESIGN CHOICE, log entry 7. DEDUCED, log entry 74. -/
def inRefresh (clock w : Nat) : Bool :=
  let g := w / 0x600000
  decide (8192 * g ≤ clock % 262144) && decide (clock % 262144 < 2048 + 8192 * g)
/-- The address of a weight-store offset of a die (R77). -/
def wsAddr (die w : Nat) : Nat := 0x20000000000 + 0x10000000 * die + w
/-- An LDW delivers all its lanes once no earlier LDW of the skein is outstanding and no lane's group is in refresh (R102). DEDUCED, log entry 74. -/
def weightReply (s : State) (core slot op : Nat) (elems : List (Nat × Nat)) (size : Nat) (signed : Bool) (dst : List RegRef) (corrected : Nat) (bad : List Nat) : State :=
  let earlier := ((skeinOf s core slot).map Skein.ops |>.getD []).any (fun e => decide (e.1 < op) && (match e.2.body with
    | .weight _ _ _ _ => true
    | _ => false))
  if earlier || elems.any (fun e => inRefresh s.clock e.2) then s else
  -- the weight store is read with ECC (R81)
  let hit := bad.filter (fun u => elems.any (fun e => decide (wsAddr (dieOf core) e.2 / 32 = u)))
  let dd : Die := NMap.getD s.dies (dieOf core) {}
  let s : State := { s with poison := hit.foldl (fun p u => sortedInsert u p) s.poison
                            dies := NMap.insert s.dies (dieOf core) { dd with corrected := dd.corrected + corrected } }
  let val := fun l => match elems.find? (fun e => e.1 = l) with
    | some e =>
      let v := leNat (devRead s (wsAddr (dieOf core) e.2) size)
      if signed then (BitVec.ofInt 32 (readInt (8 * size) true v)).toNat else v
    | none => 0
  let lanes := lmask (fun l => elems.any (fun e => decide (e.1 = l)))
  let bad := lmask (fun l => elems.any (fun e => decide (e.1 = l) && decide (wsAddr (dieOf core) e.2 / 32 ∈ s.poison)))
  finishOp (updSkein s core slot (fun sk => writeResultsN sk dst lanes bad val)) core slot op
/-- The bytes an atomic read are poisoned, by the units that hold them (R81, R220). -/
def Req.atomBad (r : Req) : Bool :=
  match r.kind with
  | .atomic a => decide (unitsTouched (maskBytes a.off (itWidth a.ty / 8)) &&& r.rpoison ≠ 0)
  | _ => false
/-- One lane of an atomic has answered: the L1's clean bytes of its line are dropped (R228). -/
def atomicReply (s : State) (core slot op : Nat) (o : Op) (r : Req) (old : DWord) (bad : Bool) (lane : Nat) : State :=
  match o.body with
  | .atomic todo left sc got ty dst sent pg =>
    let s := dropFills (updL1 (dropReq s r.id) core (fun l => cleanOut l r.line)) core (some r.line)
    pokeCore (setOp s core slot op { o with body := .atomic todo (left - 1) sc (got ++ [(lane, old, bad)]) ty dst sent pg }) core
  | _ => s
/-- A prefetched line comes back to the L1 (R231), unless it may no longer allocate. -/
def prefetchReply (s : State) (core id : Nat) : State :=
  match reqOf s id with
  | some r => if r.who = .prefetch core ∧ r.stage = .done ∧ replyTurn s r then
      let s := dropReq s id
      match r.kind with
      | .read _ => if r.rpoison = 0 then fillNewer (l1Fill s core r.line r.rdata false) core r.line r.took else s
      | _ => s
    else s
  | none => s
/-- The answer of the host or of another package to a request comes in: the line's bytes, or an atomic's old value and stamp, with the
poisoned units of the line (R81, R220, R426). A host-window answer returns through its ordering slice (R106). DEDUCED, log entry 27. -/
def answerRemote (s : State) (r : Req) (ext : List Byte) (bad : List Nat) : State :=
  let enough := match r.kind with
    | .atomic _ => (match regionOf (128 * r.line) with | .host => decide (8 ≤ ext.length) | _ => decide (16 ≤ ext.length))
    | .read _ => decide (ext.length = 128)
    | _ => false
  if r.stage ≠ .remote ∨ !enough then s else
  let q := { r with rdata := lineOf 0 ext, rpoison := bitsOf 4 (fun u => decide (4 * r.line + u ∈ bad)), rold := BitVec.ofNat 64 (leNat (ext.take 8))
                    stamp := (match regionOf (128 * r.line) with | .host => r.stamp | _ => BitVec.ofNat 64 (leNat ((ext.drop 8).take 8))) }
  let s := updReq s r.id (fun _ => q)
  match regionOf (128 * r.line) with
  | .host => if backRoom1 s q true then advanceReq (advanceReq (updReq s r.id (fun q => { q with stage := .reply, since := s.clock })) r.id) r.id else updReq s r.id (fun _ => r)
  | _ => arrive s q
def pipeStateCode : PipeState → Nat | .opened => 0 | .closed => 1 | .exhausted => 2 | .stopped => 3
/-- What PSTAT reads (R136, R137): the home's counters, or on a producer package the mirror's. The spilled tiles are counted at the home
alone, so that the depth read on a producer package is that of the descriptor. DESIGN CHOICE, log entry 102. -/
def pstatValue (p : Pipe) (what : PstatWhat) : Nat :=
  match what with
  | .free => if p.homeHere then p.free else p.mirror
  | .filled => if p.homeHere then p.filled else p.mirrorFilled
  | .depth => p.depth + p.spilled
  | .state => pipeStateCode p.state
/-- Post a counter message of a pipe from one die to another (R139): it goes to the egress toward that die. -/
def postMsg (s : State) (m : PipeMsg) (plan pipe fromDie toDie : Nat) : State :=
  let id := s.nextId
  let r : Req :=
    { id := id, kind := .msg m, who := .system, line := 0, policy := .keep, owner := ((NMap.get? s.plans plan).map Plan.part).getD 8
      pipe := some (plan, pipe), die := fromDie, port := 15, homeDie := toDie, homeSlice := 16 * toDie, stage := .net2, since := s.clock
      reservedEntry := false, way := 0, rdata := 0, rpoison := 0, rold := 0, stamp := 0 }
  advanceReq { s with reqs := s.reqs ++ [r], nextId := id + 1 } id
/-- A counter message that has arrived. -/
def msgAt (s : State) (p : PipeMsg → Bool) : Option Req :=
  s.reqs.find? (fun r => decide (r.stage = .done) && (match r.kind with | .msg m => p m | _ => false))
/-- The die of a pipe's home, or, on a producer package, of its mirror, from a core's place: none when the core is on that die (R139, R140). -/
def farHome (p : Pipe) (core : Nat) : Bool := decide (dieOf core ≠ p.homeDie)
/-- PSTAT's value: read where the query is; from another die, by a query and its answer over the die link (R137, R182). DEDUCED, log entry 52. -/
def pstatReply (s : State) (core slot op k plan pipe : Nat) (what : PstatWhat) : State :=
  match pipeOf s plan pipe with
  | none => s
  | some p =>
    let done := fun (v : Nat) (s : State) => finishOp (updSkein s core slot (fun sk => kput sk k (BitVec.ofNat 32 v))) core slot op
    if !farHome p core then done (pstatValue p what) s
    else match msgAt s (fun m => match m with | .answer c k o _ => decide ((c, k, o) = (core, slot, op)) | _ => false) with
      | some r => (match r.kind with
        | .msg (.answer _ _ _ v) => done v (dropReq s r.id)
        | _ => s)
      | none => match msgAt s (fun m => decide (m = .query core slot op)) with
        | some r => postMsg (dropReq s r.id) (.answer core slot op (pstatValue p what)) plan pipe p.homeDie (dieOf core)
        | none => s
/-- LOAD_REPLY. `ext` holds what the host or another package returned, with its poison, and the ECC errors of what is read. An operation that is no skein's is the number of a request that waits outside the package, or of a prefetch. DEDUCED, log entry 15. DEDUCED, log entry 27. -/
def execLoadReply (core slot op part : Nat) (ext : Answer) (s : State) : Out :=
  event (fun s => match opOf s core slot op with
    | none => match reqOf s op with
      | some r => if r.stage = .remote then answerRemote s r ext.ext ext.bad else prefetchReply s core op
      | none => s
    | some o => match o.body with
      | .load parts elems size signed dst =>
        match parts[part]? with
        | none => s
        | some p =>
          if p.arrived then s else
          match p.req with
          | none =>
            let data := match regionOf (128 * p.line) with | .regs _ => regLine s (128 * p.line) | _ => p.data
            pokeCore (partDone s core slot op o parts elems size signed dst part p data 0 0) core
          | some id => match reqOf s id with
            | none => s
            | some r =>
              if r.stage = .done ∧ replyTurn s r then
                pokeCore (partDone (dropReq s id) core slot op o parts elems size signed dst part p r.rdata r.rpoison r.took) core
              else answerRemote s r ext.ext ext.bad
      | .weight elems size signed dst => pokeCore (weightReply s core slot op elems size signed dst ext.corrected ext.bad) core
      | .atomic _ _ _ _ _ _ _ _ =>
        match s.reqs.find? (fun r => r.who = .atomic core slot op part) with
        | none => s
        | some r =>
          if r.stage = .done ∧ replyTurn s r ∧ ackTurn s r then atomicReply (takeStamp s r.who r.stamp) core slot op o r r.rold r.atomBad part
          else answerRemote s r ext.ext ext.bad
      | .pstat k plan pipe what => pstatReply s core slot op k plan pipe what
      | .copy => match s.reqs.find? (fun r => r.who = .copy core op part ∧ r.stage = .remote) with
        | some r => answerRemote s r ext.ext ext.bad
        | none => s
      | _ => s) s

end Sys2Proof.Machine
end

