-- ==== Sys2Proof/Machine/MatState.lean ====
section
/-! DEFINITION. The matrix instruction in progress of a skein: what it holds, how it stops, resumes and ends, and PROGIDX
(spec/13 R310 to R313, R327 to R330). -/

namespace Sys2Proof.Machine

/-- Tile-store tiles a matrix instruction holds (R311). -/
def heldTiles : MatKind → List Nat
  | .mma _ a b _ => [a, b]
  | .mmac _ _ b _ _ => [b]
  | .accl _ a => [a]
  | .accz _ | .accd _ _ _ => []
/-- The instruction has boundaries between its issue and its retirement (R328). -/
def hasSteps : MatKind → Bool
  | .mma _ _ _ _ | .mmac _ _ _ _ _ => true
  | _ => false
/-- A trap has stopped the instruction: it goes on after RTE (R328). -/
def matStopped (sk : Skein) (m : MatOp) : Bool := sk.frame.isSome && !m.handler && hasSteps m.kind
/-- The unit may work on the instruction: a stop of the skein or of its bolt takes effect at its next boundary; ACCZ, ACCL and ACCD run to
retirement (R328). -/
def matRuns (s : State) (core : Nat) (sk : Skein) (m : MatOp) : Bool :=
  !hasSteps m.kind || (!matStopped sk m && (match sk.run with | .running | .stepping | .exited => true | _ => false) &&
    ((boltOf s core sk.bolt).map (fun b => b.stop.isNone)).getD true)
/-- A boundary of the matrix instruction that a debug Step let run: the skein halts again (R328, R423). -/
def endStep (sk : Skein) : Skein := if sk.stepMat then { sk with run := .halted, stepMat := false } else sk
/-- Holds, busy states and chunk uses of the skein's matrix instruction end; its operation is complete (R316). -/
def endMatrix (s : State) (core slot : Nat) : State :=
  match (skeinOf s core slot).bind Skein.mat with
  | none => s
  | some m =>
    let s := updCore s core (fun c => { c with
      tiles := (heldTiles m.kind).foldl (fun ts t => nupdate ts t (fun e => { e with holds := e.holds - 1 })) c.tiles
      accs := c.accs.map (fun e => (e.1, if e.2.busy = some (slot, m.op) then { e.2 with busy := none } else e.2)) })
    let s : State := { s with adCache := s.adCache.map (fun e => { e with users := e.users.filter (fun u => u ≠ (core, slot)) }) }
    finishOp (updSkein s core slot (fun sk => endStep { sk with mat := none })) core slot m.op
/-- RTE resumes the instruction, with its table entries and chunks to be found again, or abandons it; one that the handler issued is from
now on the interrupted stream's (R328, R330). DEDUCED, log entry 59. -/
def resumeMatrix (s : State) (core slot : Nat) : State :=
  match (skeinOf s core slot).bind Skein.mat with
  | none => s
  | some m =>
    if m.abandon then endMatrix s core slot
    else if m.handler || !hasSteps m.kind then updSkein s core slot (fun sk => { sk with mat := some { m with handler := false } })
    else updSkein s core slot (fun sk => { sk with mat := some { m with looked := m.ad.isNone, fills := [], order := [], direct := [], fault := none } })
/-- PROGIDX (R327). -/
def progIdx (sk : Skein) : DWord :=
  match sk.mat with
  | none => 0
  | some m => BitVec.ofNat 64 (m.steps * 2 ^ 60 + (if m.abandon then 0 else 2 ^ 59) + (if m.replayBit then 2 ^ 58 else 0) +
      m.slots.getD 2 0 * 2 ^ 32 + m.slots.getD 1 0 * 2 ^ 16 + m.slots.getD 0 0)
/-- A handler writes PROGIDX of the instruction its trap stopped (R330). DEDUCED, log entry 59. -/
def setProgIdx (v : DWord) (m : MatOp) : MatOp :=
  let n := v.toNat
  { m with steps := min (field n 60 4) 8, abandon := !bitAt n 59, replayBit := bitAt n 58, slots := [field n 0 16, field n 16 16, field n 32 16] }

end Sys2Proof.Machine
end

