-- ==== Sys2Proof/Machine/Fetch.lean ====
section
/-! DEFINITION. Fetching a clause, its checks, and its issue (spec/02 R34 to R39, 17 R398), and the choice of the path that
issues (spec/14 R342, 16 R391, R392). -/

namespace Sys2Proof.Machine

/-- Read code bytes for a path through the core's translation, by requests to the home slices: the bytes, or the trap code and address
(R26, R91); nothing while a walk or a line is on its way. DEDUCED, log entry 23. DESIGN CHOICE, log entry 76. -/
def fetchBytes (s : State) (core slot path ctx a n : Nat) : Nat → Option (Except (Nat × Nat) (List Byte)) × State
  | 0 => (some (.ok []), s)
  | k + 1 =>
    if n = 0 then (some (.ok []), s) else
    let here := min n (128 - a % 128)
    let ag := Agent.fetch core slot path
    match access s ag (some core) (dieOf core) (partOf s core) ctx a .fetch .fetch with
    | (none, s) => (none, s)
    | (some (.error c), s) => (some (.error (c, a)), s)
    | (some (.ok x), s) =>
      match lineGet s ag x.pa (dieOf core) (portOf core) (partOf s core) with
      | (none, s) => (none, s)
      | (some d, s) =>
        match fetchBytes s core slot path ctx ((a + here) % 2 ^ 64) (n - here) k with
        | (some (.ok r), s) => (some (.ok (lineBytes d.1 (x.pa % 128) here ++ r)), s)
        | (e, s) => (e, s)
/-- A path has its clause, or takes a trap: what its fetch held is forgotten. -/
def endFetch (s : State) (core slot path : Nat) : State := endAgent s (.fetch core slot path)
/-- The words of a run of bytes. -/
def wordsOf (n : Nat) (bs : List Byte) : List IWord :=
  (List.range n).map (fun i => BitVec.ofNat 96 (leNat ((bs.drop (12 * i)).take 12)))
/-- The byte address of the word at a PC (R26). -/
def codeAddr (l : Launch) (pc : Nat) : Nat := (l.codeBase + 12 * pc) % 2 ^ 64
/-- A fault on the fetch of a clause (17 Table 2: Detail bit [54]). -/
def fetchFault (e : Nat × Nat) : TrapInfo := { code := e.1, detail := 0x40, va := e.2 }
/-- The word is a control-flow instruction, which stands last in its clause (R35). -/
def controlWord (w : IWord) : Bool := decide (1 ≤ (w.extractLsb' 0 8).toNat) && decide ((w.extractLsb' 0 8).toNat ≤ 0x0E)
/-- A word passes item 2 of R35. -/
def wordOk (w : IWord) (last : Bool) : Bool :=
  decide (w.extractLsb' 0 8 ≠ 0) && (match decodeWord w with | .ok _ => true | .error _ => false) && (last || !controlWord w)
/-- The offset of the first word of a clause that fails its checks (R35). -/
def firstBad (ws : List IWord) (k : Nat) : Option Nat :=
  match ws with
  | [] => none
  | w :: r => if wordOk w r.isEmpty then firstBad r (k + 1) else some k

/-- What the fetch of a header gives: the header, or a state in which the path trapped or waits for its code. -/
inductive HeaderFetch | header (h : Header) (s : State) | done (s : State)

/-- Fetch the clause header at a path's PC (R35 item 1, R39). -/
def fetchHeader (core slot path : Nat) (s : State) : HeaderFetch :=
  match skeinOf s core slot with
  | none => .done s
  | some sk =>
    match NMap.get? sk.paths path with
    | none => .done s
    | some pa =>
      let l := launchOf s core sk.bolt
      match fetchBytes s core slot path l.ctx (codeAddr l pa.pc) 12 4 with
      | (none, s) => .done (updPath s core slot path (fun pa => { pa with wait := some (.other, s.clock, s.clock) }))
      | (some (.error e), s) => .done (trapAt core slot path pa.pc 0 (fetchFault e) (endFetch s core slot path))
      | (some (.ok bs), s) =>
        let w : IWord := BitVec.ofNat 96 (leNat bs)
        if w.extractLsb' 0 8 ≠ 0 then .done (trapAt core slot path pa.pc 0 { code := 0x01 } (endFetch s core slot path))
        else match decodeHeader w with
          | .ok h => .header h s
          | .error _ => .done (trapAt core slot path pa.pc 0 { code := 0x01 } (endFetch s core slot path))

/-- CLAUSE_ISSUE: the rest of the clause is fetched and checked, and the clause starts once every flag of the wait mask is
clear (R35, R36). `stopped` gives a deferred fault of a stopped matrix instruction that the wait would wait for (R329). -/
def clauseIssueWith (stopped : Ctx → BitVec 12 → State → Option (TrapInfo × State)) (h : Header) (s : State) : Out :=
  match ctxOf s with
  | none => .fault .noIssuer
  | some x =>
    let l := x.launch s
    match fetchBytes s x.core x.slot x.path l.ctx (codeAddr l (x.pa.pc + 1)) (12 * h.len) 4 with
    | (none, s) => .next (stall x .other s)
    | (some (.error e), s) => .next (trapX x (fetchFault e) (endFetch s x.core x.slot x.path))
    | (some (.ok bs), s) =>
      let ws := wordsOf h.len bs
      match firstBad ws 1 with
      | some k => .next (trapX x { code := 0x01, detail := k } (endFetch s x.core x.slot x.path))
      | none =>
        if waitMet x.pa h.wait then
          .next (onPath x (fun pa => { pa with clause := some { words := ws, pos := 0, set1 := h.set1, set2 := h.set2 }, wait := none }) (endFetch s x.core x.slot x.path))
        else match stopped x h.wait s with
          | some (t, s) => .next (trapX x t (endFetch s x.core x.slot x.path))
          | none => .next (stall x .other s)

/-! The choice of the issuing path. -/

/-- A reservation of the path has been made at a pipe's home, and its push or pop has not issued yet. -/
def reserved (s : State) (core slot path : Nat) : Bool :=
  s.plans.any (fun pl => pl.2.pipes.any (fun e => (e.2.pushWaits ++ e.2.popWaits).any (fun w =>
    w.granted.isSome && decide (w.core = core) && decide (w.slot = slot) && decide (w.path = path))))
/-- A path may issue: its skein runs, is not evicted, and the path has running lanes and does not sleep (R206, R342, R352). A push or pop
that has reserved issues whatever its skein or its bolt comes to, and its skein issues nothing else before it (R133, R161, R180, R415). -/
def mayIssue (s : State) (core slot path : Nat) : Bool :=
  match skeinOf s core slot with
  | none => false
  | some sk => match NMap.get? sk.paths path with
    | none => false
    | some pa => !s.dev.trip && decide (sk.control = []) && pa.sleep.isNone && !(sk.frame.isSome && sk.mat.any (fun m => !m.handler && !hasSteps m.kind)) && decide (without pa.mask sk.exited ≠ 0) &&
        (reserved s core slot path || (sk.paths.all (fun p => !reserved s core slot p.1) &&
          (sk.run == .running || (sk.run == .stepping && !sk.stepMat && decide (sk.paths.head?.map Prod.fst = some path))) && !sk.evicted &&
          sk.spilled.all (fun g => decide (8 * g + 8 ≤ pa.win.base) || decide (pa.win.base + pa.win.size ≤ 8 * g)) &&
          ((boltOf s core sk.bolt).map (fun b => b.acquired && b.stop.isNone)).getD true))
/-- The skein's rank by age: dispatch or restore order, then slot (R392). DEDUCED, log entry 72. -/
def ageKey (s : State) (core slot : Nat) : Nat := ((skeinOf s core slot).map Skein.born).getD 0 * 64 + slot
/-- The priority level of a skein's grid (R390). -/
def prioOf (s : State) (core slot : Nat) : Nat :=
  ((skeinOf s core slot).bind (fun sk => gridOf s core sk.bolt)).elim 0 Grid.prio
def pathOf (s : State) (core slot path : Nat) : Option Path := (skeinOf s core slot).bind (fun sk => NMap.get? sk.paths path)
/-- Choose between the ready paths of one skein (R342, R392 item 3). DEDUCED, log entry 72. -/
def choosePath (s : State) (core slot : Nat) (ps : List Nat) : Option Nat :=
  leastBy (fun p => 64 * (31 - ((pathOf s core slot p).map Path.age).getD 0) + p) ps
/-- Choose the path that issues among the ready ones (R392). DEDUCED, log entry 72. -/
def chooseIssue (s : State) (core : Nat) (ready : List (Nat × Nat)) : Option (Nat × Nat) :=
  let slots := dedup (ready.map Prod.fst)
  let pick := fun (sl : Nat) (r : List (Nat × Nat)) => (choosePath s core sl ((r.filter (fun e => e.1 = sl)).map Prod.snd)).map (fun p => (sl, p))
  let starved := slots.filter (fun sl => decide (63 ≤ ((skeinOf s core sl).map Skein.qage).getD 0))
  match leastBy (ageKey s core) starved with
  | some sl => pick sl ready
  | none =>
    let eager := ready.filter (fun e => !((pathOf s core e.1 e.2).map Path.yielded).getD false)
    let r := if eager = [] then ready else eager
    match leastBy (fun sl => (127 - prioOf s core sl) * 2 ^ 64 + ageKey s core sl) (dedup (r.map Prod.fst)) with
    | some sl => pick sl r
    | none => none
/-- Ageing after an issue slot of a quarter (R342, R392). -/
def ageAfter (core q : Nat) (ready : List (Nat × Nat)) (slot path : Nat) (s : State) : State :=
  updCore s core (fun c => { c with skeins := c.skeins.map (fun e =>
    if quarterOf e.1 ≠ q then e
    else if e.1 = slot then
      (e.1, { e.2 with qage := 0, paths := e.2.paths.map (fun p =>
        if p.1 = path then (p.1, { p.2 with age := 0 })
        else if (slot, p.1) ∈ ready then (p.1, { p.2 with age := min 31 (p.2.age + 1) }) else p) })
    else if ready.any (fun r => decide (r.1 = e.1)) then (e.1, { e.2 with qage := min 63 (e.2.qage + 1) })
    else e) })
/-- The next issue slot of the quarter has come: requests to be passed over end (R352). DEDUCED, log entry 31. -/
def clearYields (core q : Nat) (s : State) : State :=
  updCore s core (fun c => { c with skeins := c.skeins.map (fun e =>
    if quarterOf e.1 = q then (e.1, { e.2 with paths := e.2.paths.map (fun p => (p.1, { p.2 with yielded := false })) }) else e) })
/-- A skein that a debug Step let issue halts again once the instruction has issued, or, for a matrix instruction with steps, at its next
boundary; a clause header is no instruction (R423). DEDUCED, log entry 31. -/
def afterIssue (core slot path : Nat) (before s : State) : State :=
  if ((pathOf before core slot path).bind Path.clause).isNone then s else
  let begun := fun (sk : Skein) => sk.mat.any (fun m => hasSteps m.kind && decide (((skeinOf before core slot).bind Skein.mat).map MatOp.op ≠ some m.op))
  updSkein s core slot (fun sk =>
    if sk.run = .stepping ∧ ((NMap.get? sk.paths path).bind Path.wait).isNone then
      (if begun sk then { sk with stepMat := true } else { sk with run := .halted })
    else sk)

end Sys2Proof.Machine
end

