-- ==== Sys2Proof/Machine/Stitch.lean ====
section
/-! DEFINITION. STITCH: lane-computed instruction words (spec/15 R355 to R367). -/

namespace Sys2Proof.Machine

/-- The condition of R358 that forbids a word, if one does: 1 its opcode, 2 its fields, 3 its registers. -/
def wordCond (x : Ctx) (w : IWord) : Option Nat :=
  let op := (w.extractLsb' 0 8).toNat
  if 0xF0 ≤ op then none
  else if !((decide (0x10 ≤ op) && decide (op ≤ 0x65)) || (decide (op = 0x0F) && decide (x.depth = 0))) then some 1
  else match decodeWord w with
    | .error _ => some 2
    | .ok i => if ((Instr.use i).rv ++ (Instr.use i).wv).all (vOkIn x.sk.globals x.pa.win) then none else some 3
/-- The word a lane supplies (R357). -/
def laneWord (x : Ctx) (a l : Nat) : IWord :=
  BitVec.ofNat 96 ((vRead x a l).toNat + (vRead x (a + 1) l).toNat * 2 ^ 32 + (vRead x (a + 2) l).toNat * 2 ^ 64)
/-- The lanes of a set grouped by word, in ascending order of the words (R357, R361). -/
def wordGroups (x : Ctx) (a : Nat) : NMap LMask :=
  (lanesOf x.act).foldl (fun g l => let w := (laneWord x a l).toNat; NMap.insert g w (NMap.getD g w 0 ||| oneLane l)) []
/-- Begin a STITCH: group the words, set apart those that are not permitted (R356 to R359, R363). -/
def stitchBegin (d a : Nat) (t : Bool) (x : Ctx) : List StLevel × List (Nat × Nat × Nat) :=
  let gs := wordGroups x a
  let cond := fun (g : Nat × LMask) => wordCond x (BitVec.ofNat 96 g.1)
  let bad := gs.filter (fun g => (cond g).isSome)
  let arm := t || x.pa.stitch.any StLevel.trapIllegal
  let lv : StLevel := { set := x.act, pd := d, trapIllegal := t, groups := gs.filter (fun g => (cond g).isNone), illegal := bad.foldl (fun m g => m ||| g.2) 0 }
  (lv :: x.pa.stitch, if arm then bad.flatMap (fun g => (lanesOf g.2).map (fun l => (l, x.depth + 1, (cond g).getD 0))) else [])
/-- STITCH (R355 to R357, R363): the words are read once; each later issue slot of the path runs the next word. -/
def execStitch (c : Ctl) (d a : Nat) (t : Bool) (s : State) : Out :=
  issue { guard := .coll, activeMarks := true } (Instr.use (.stitch c d a t)) c noEarly (fun x s =>
    if !flagRoom x c then stall x .other s
    else
      let (lv, ill) := stitchBegin d a t x
      if x.inWord then onPath x (fun pa => { pa with stitch := lv, illegalWords := pa.illegalWords ++ ill, wait := none }) s
      else
        let (id, s) := beginOp x c { cls := .collective, path := x.path, body := .stitch } s
        onPath x (fun pa => { pa with stitch := lv, illegalWords := ill, stitchOp := some id, wait := none }) s) s

/-- The innermost STITCH has run its words: it writes pD and retires once they have completed (R359, R363, R364). -/
def stitchRetire (x : Ctx) (s : State) : State :=
  match x.pa.stitch with
  | [] => s
  | lv :: up =>
    if x.sk.ops.any (wordOp x.sk x.path) then stall x .other s
    else
      let sk := pput x.sk lv.pd lv.set lv.illegal
      match up with
      | _ :: _ => setSkein s x.core x.slot (updPathSk sk x.path (fun pa => { dropGroup { pa with stitch := up } with wait := none }))
      | [] =>
        let sk := match x.pa.stitchOp with | some o => finishOpSk sk o | none => sk
        let sk := updPathSk sk x.path (fun pa => { advancePath { pa with stitch := [], illegalWords := [], stitchOp := none } with wait := none, watchPass := false })
        let s := setSkein s x.core x.slot sk
        match leastBy (fun e => e.1) x.pa.illegalWords with
        | none => s
        | some (l, depth, cond) => trapAt x.core x.slot x.path x.pc depth { code := 0x28, detail := cond, lane := l } s

/-- What the path issues next: a word of its clause, or of the STITCH in hand with the lanes of its group. -/
inductive NextWord | word (w : IWord) (lanes : Option LMask) | stitchEnd | none
  deriving DecidableEq, Repr, Inhabited
/-- The next word of a path that holds a clause (R35, R361). -/
def nextWord (pa : Path) (c : Clause) : NextWord :=
  match pa.stitch with
  | [] => match c.words[c.pos]? with
    | some w => .word w Option.none
    | Option.none => .none
  | lv :: _ => match lv.groups with
    | g :: _ => .word (BitVec.ofNat 96 g.1) (some g.2)
    | [] => .stitchEnd

end Sys2Proof.Machine
end

