-- ==== Sys2Proof/Machine/Reports.lean ====
section
/-! DEFINITION. Deferred faults and the points where a skein takes them: copy faults (spec/07 R170) and faults of `.ad`
matrix instructions (spec/13 R329). -/

namespace Sys2Proof.Machine

/-- The report of a copy as a trap: the copy fault with its cause, tile, first faulting address and lines done (R170), or a
watchpoint match, whose number stands above the code (R410). DEDUCED, log entry 57. -/
def copyFaultTrap (f : CopyFault) : TrapInfo :=
  if f.code % 256 = 0x2B then { code := 0x2B, detail := f.code / 256, va := f.va }
  else { code := 0x21, detail := f.code, va := f.va, word3 := BitVec.ofNat 64 (f.tile % 256 * 2 ^ 24 + f.lines % 2 ^ 32 * 2 ^ 32) }
/-- The first unreported copy fault that a condition picks. DEDUCED, log entry 57. -/
def pendingCopyFault (sk : Skein) (p : CopyFault → Bool) : Option CopyFault := sk.copyFaults.find? p
/-- A copy fault once taken is not taken again (R399). -/
def dropCopyFault (f : CopyFault) (sk : Skein) : Skein := { sk with copyFaults := sk.copyFaults.filter (fun g => g ≠ f) }
/-- The deferred matrix fault as a trap (R329, 17 Table 2: Detail bit [55]). -/
def matFaultTrap (f : MatFault) : TrapInfo :=
  { code := f.code, detail := if 0x18 ≤ f.code ∧ f.code ≤ 0x20 then 0x80 else 0, va := f.va
    word3 := BitVec.ofNat 64 (f.ident % 2 ^ 16 + f.layer % 2 ^ 8 * 2 ^ 16) }
/-- The deferred fault of the matrix instruction in progress that is not yet reported (R329). -/
def pendingMatFault (sk : Skein) : Option MatFault := sk.mat.bind MatOp.fault
def dropMatFault (sk : Skein) : Skein := { sk with mat := sk.mat.map (fun m => { m with fault := none }) }
/-- Take a deferred fault at the instruction in hand, if one is due there: first the copy fault, then the matrix fault. DEDUCED, log entry 57. -/
def reportAt (x : Ctx) (p : CopyFault → Bool) (mat : Bool) (s : State) : Option State :=
  match pendingCopyFault x.sk p with
  | some f => some (trapX x (copyFaultTrap f) (onSkein x (dropCopyFault f) s))
  | none =>
    if mat then match pendingMatFault x.sk with
      | some f => some (trapX x (matFaultTrap f) (onSkein x dropMatFault s))
      | none => none
    else none
/-- A fault of the matrix instruction in progress is unreported, and the tile is one it holds (R329). -/
def matTile (sk : Skein) (t : Nat) : Bool := sk.mat.elim false (fun m => m.fault.isSome && decide (t ∈ heldTiles m.kind))
/-- The clause waits on the flag of a matrix instruction that a fault has stopped (R329). -/
def stoppedMatrix (x : Ctx) (m : BitVec 12) (s : State) : Option (TrapInfo × State) :=
  match x.sk.mat, pendingMatFault x.sk with
  | some o, some f =>
    if x.pa.flagOps.any (fun e => decide (e.2 = o.op) && m.getLsbD e.1) then some (matFaultTrap f, onSkein x dropMatFault s) else none
  | _, _ => none

/-- CLAUSE_ISSUE (R35, R36, R329). -/
def execClauseIssue (h : Header) (s : State) : Out := clauseIssueWith stoppedMatrix h s

end Sys2Proof.Machine
end

