-- ==== Sys2Proof/Machine/CopyTile.lean ====
section
/-! DEFINITION. Tiles and copy engines: TLOAD, TSTORE, TGATHER, TSCAT, TPEER, TFILL and TREL at issue, and the events
COPY_LINE_TRANSFER and COPY_COMPLETE (spec/07 R164 to R177). -/

namespace Sys2Proof.Machine

/-! The tile table. -/

def updTile (s : State) (core t : Nat) (f : TileEntry → TileEntry) : State :=
  updCore s core (fun c => { c with tiles := NMap.insert c.tiles t (f (NMap.getD c.tiles t {})) })
/-- The format and scale of an entry under a launch's slots; format code 0 is a byte tile (R165). -/
def entryFmt (l : Launch) (e : TileEntry) : FmtCode × Int := if e.useSlot then launchSlot l e.slot else (fmtOf e.fmt, 0)
/-- Element width w (R165). -/
def entryW (l : Launch) (e : TileEntry) : Nat :=
  match (entryFmt l e).1 with
  | .unbound | .unassigned => 8
  | f => fmtBits f
/-- Row bytes and tile bytes (R165). -/
def rowBytes (l : Launch) (e : TileEntry) : Nat := e.cols * entryW l e / 8
def tileSize (l : Launch) (e : TileEntry) : Nat := e.rows * rowBytes l e
/-- The bolt declares the entry (R167). -/
def declared (s : State) (x : Ctx) (t : Nat) : Bool := ((boltOf s x.core x.sk.bolt).map (fun b => decide (t ∈ b.tiles))).getD false
/-- Tile-allotment: some named entry is undeclared (R167, R172). -/
def allotEarly (ts : List Nat) (x : Ctx) (s : State) : Option TrapInfo := if ts.all (declared s x) then none else some { code := 0x05 }
/-- The bytes of a tile. -/
def tileBytesOf (s : State) (core t n : Nat) : List Byte := tileRead s core ((tileOf s core t).base * 128) n

/-! The issue rule (R169). -/

/-- The tile may be read as a source, or written as a destination. -/
def tileFree (e : TileEntry) (source : Bool) : Bool :=
  match e.state with
  | .ready => source || decide (e.holds = 0)
  | .empty => !source && decide (e.holds = 0)
  | _ => false
/-- The skein that has waited longest at issue, of those that wait on a tile of a core, issues first when the tile allows its operand; the
lower slot wins a tie. A TPEER of another core of the cluster waits on the same tile (R175). DEDUCED, log entry 95. -/
def tileTurn (s : State) (x : Ctx) (core t : Nat) : Bool :=
  let mine := x.waitedSince s
  s.cores.all (fun k => k.2.skeins.all (fun e => (decide (k.1 = x.core) && decide (e.1 = x.slot)) || e.2.run != .running || e.2.paths.all (fun p => match p.2.wait with
    | some (.tile c u src, _, since) => !(decide (c = core) && decide (u = t)) || !tileFree (tileOf s core t) src || decide (mine < since) ||
        (decide (mine = since) && decide (192 * x.slot + x.core < 192 * e.1 + k.1))
    | _ => true)))
/-- The first tile operand that makes the instruction wait: entry and role. A tile in both roles must be ready, and not held (R311). -/
def tileWait (s : State) (x : Ctx) (src dst : List Nat) : Option (Nat × Bool) :=
  ((src.map (fun t => (t, true))) ++ dst.map (fun t => (t, false))).find?
    (fun e => !tileFree (tileOf s x.core e.1) e.2 || !tileTurn s x x.core e.1)
/-- Poison of a source tile (R169, R314): it traps before any wait. -/
def tilePoison (s : State) (core : Nat) (src : List Nat) : Bool := src.any (fun t => (tileOf s core t).poison)

/-! Copies. -/

/-- The queue of a core has a place, and the skein's counter and flag have room (R170). -/
def copyRoom (s : State) (x : Ctx) (c : Ctl) (ctr : Nat) : Bool :=
  decide ((coreOf s x.core).copyq.length < 64) && counterRoom x ctr && flagRoom x c
/-- Put a copy into the core's queue (R170). -/
def beginCopy (x : Ctx) (c : Ctl) (ctr : Nat) (mk : Copy → Copy) (s : State) : State :=
  let (op, s) := beginOp x c { cls := .async, path := x.path, counter := some ctr, body := .copy } s
  let base : Copy :=
    { op := op, slot := x.slot, kind := .tload, tile := 0, tileA := 0, policy := .keep, ctx := (x.launch s).ctx, rows := [], next := 0, total := 0
      engine := none, poison := false, faultCode := 0, faultVa := 0, linesDone := 0, inTask := x.sk.taskOpen
      moved := false, issued := s.clock }
  updCore s x.core (fun k => { k with copyq := k.copyq ++ [mk base] })
/-- An inbound operation issues: the tile goes filling (R168). -/
def startFill (s : State) (core t : Nat) : State := updTile s core t (fun e => { e with state := .filling, poison := false, faulted := false })
/-- An outbound copy issues: the tile goes draining. -/
def startDrain (s : State) (core t : Nat) : State := updTile s core t (fun e => { e with state := .draining })

/-- Pieces of a row in memory: row, address, offset in the row, length; cut at lines. -/
def rowPieces (row va rb : Nat) : List (Nat × Option Nat × Nat × Nat) :=
  let rec go : Nat → Nat → List (Nat × Option Nat × Nat × Nat)
    | 0, _ => []
    | k + 1, off => if rb ≤ off then [] else
      let a := (va + off) % 2 ^ 64
      let n := min (rb - off) (128 - a % 128)
      (row, some a, off, n) :: go k (off + n)
  go (rb / 128 + 2) 0
/-- The pieces of a copy, in order. -/
def copyPieces (c : Copy) (rb : Nat) : List (Nat × Option Nat × Nat × Nat) :=
  c.rows.flatMap (fun r => match r.va with
    | some va => rowPieces r.row va rb
    | none => [(r.row, none, 0, rb)])

/-- What a memory copy checks and does when it issues. -/
def memCopy (x : Ctx) (c : Ctl) (kind : CopyKind) (ctr t : Nat) (inbound : Bool) (pol : CPol) (rows : List CopyRow) (addrs : List (Nat × Nat))
    (extra : Option TrapInfo) (s : State) : State :=
  match reportAt x (fun f => decide (f.tile = t)) (matTile x.sk t) s with
  | some s => s
  | none =>
    match (laneWith (fun a => !canonical a) tcNonCanonical addrs).or extra with
    | some tr => trapX x { tr with lane := 0 } s
    | none =>
      if !inbound && tilePoison s x.core [t] then trapX x { code := 0x20 } s
      else if memHeld x true true || !copyRoom s x c ctr then stall x .other s
      else match tileWait s x (if inbound then [] else [t]) (if inbound then [t] else []) with
        | some w => stall x (.tile x.core w.1 w.2) s
        | none =>
          let rb := rowBytes (x.launch s) (tileOf s x.core t)
          let s := if inbound then startFill s x.core t else startDrain s x.core t
          retire x (beginCopy x c ctr (fun k =>
            let k := { k with kind := kind, tile := t, tileA := t, policy := pol, rows := rows }
            { k with total := (copyPieces k rb).length }) s)

/-- Tile-type of TLOAD and TSTORE: rows beyond 8,192 bytes (R173). -/
def longRows (t : Nat) (x : Ctx) (s : State) : Option TrapInfo :=
  (allotEarly [t] x s).or (if 8192 < rowBytes (x.launch s) (tileOf s x.core t) then some { code := 0x0E } else none)
/-- The rows of TLOAD and TSTORE, pitch bytes apart (R173). -/
def pitchRows (s : State) (x : Ctx) (t a pitch : Nat) : List CopyRow :=
  let va := pairOf (kget x.sk a) (kget x.sk (a + 1))
  (List.range (tileOf s x.core t).rows).map (fun r => ⟨r, some (va + (kget x.sk pitch).signExtend 64 * BitVec.ofNat 64 r).toNat⟩)
/-- Alignment of TLOAD and TSTORE. -/
def pitchAlign (x : Ctx) (a pitch : Nat) : Option TrapInfo :=
  let va := (pairOf (kget x.sk a) (kget x.sk (a + 1))).toNat
  if va % 16 ≠ 0 ∨ (kget x.sk pitch).toNat % 16 ≠ 0 then some { code := 0x19, va := va } else none
/-- TLOAD (R173). -/
def execTload (c : Ctl) (d a pitch : Nat) (cp : CPol) (s : State) : Out :=
  issue { guard := .coll } (Instr.use (.tload c d a pitch cp)) c (longRows d) (fun x s =>
    memCopy x c .tload 0 d true cp (pitchRows s x d a pitch) [(0, (pairOf (kget x.sk a) (kget x.sk (a + 1))).toNat)] (pitchAlign x a pitch) s) s
/-- TSTORE (R173). -/
def execTstore (c : Ctl) (a b pitch : Nat) (cp : CPol) (s : State) : Out :=
  issue { guard := .coll } (Instr.use (.tstore c a b pitch cp)) c (longRows b) (fun x s =>
    memCopy x c .tstore 0 b false cp (pitchRows s x b a pitch) [(0, (pairOf (kget x.sk a) (kget x.sk (a + 1))).toNat)] (pitchAlign x a pitch) s) s
/-- Tile-type of TGATHER and TSCAT: more than 128 rows (R174). -/
def manyRows (t : Nat) (x : Ctx) (s : State) : Option TrapInfo :=
  (allotEarly [t] x s).or (if 128 < (tileOf s x.core t).rows then some { code := 0x0E } else none)
/-- The address of row r of TGATHER and TSCAT. -/
def gatherVa (x : Ctx) (a b r : Nat) : Nat := (pairOf (kget x.sk a) (kget x.sk (a + 1)) + (vRead x b r).setWidth 64).toNat
/-- The active rows with their addresses. -/
def activeRows (s : State) (x : Ctx) (t a b : Nat) : List (Nat × Nat) :=
  ((List.range (tileOf s x.core t).rows).filter (fun r => x.act.getLsbD r)).map (fun r => (r, gatherVa x a b r))
/-- TGATHER (R174): rows of inactive lanes become zero. DEDUCED, log entry 55. -/
def execTgather (c : Ctl) (d a b : Nat) (cp : CPol) (s : State) : Out :=
  issue { guard := .coll } (Instr.use (.tgather c d a b cp)) c (manyRows d) (fun x s =>
    let act := activeRows s x d a b
    let rows := (List.range (tileOf s x.core d).rows).map (fun r => ⟨r, if x.act.getLsbD r then some (gatherVa x a b r) else none⟩)
    memCopy x c .tgather 4 d true cp rows act (laneWith (fun v => decide (v % 16 ≠ 0)) 0x19 act) s) s
/-- TSCAT (R174): rows of inactive lanes write no memory. DEDUCED, log entry 55. -/
def execTscat (c : Ctl) (a b cc : Nat) (cp : CPol) (s : State) : Out :=
  issue { guard := .coll } (Instr.use (.tscat c a b cc cp)) c (manyRows b) (fun x s =>
    let act := activeRows s x b a cc
    memCopy x c .tscat 4 b false cp (act.map (fun r => ⟨r.1, some r.2⟩)) act (laneWith (fun v => decide (v % 16 ≠ 0)) 0x19 act) s) s

/-- Two entries have equal format, slot, rows and columns (R175). -/
def sameShape (a b : TileEntry) : Bool :=
  decide (a.fmt = b.fmt) && decide (a.slot = b.slot) && decide (a.useSlot = b.useSlot) && decide (a.rows = b.rows) && decide (a.cols = b.cols)
/-- TPEER (R175). DEDUCED, log entry 88. -/
def execTpeer (c : Ctl) (d a peer : Nat) (s : State) : Out :=
  issue { guard := .coll } {} c (allotEarly [d]) (fun x s =>
    let p := peerCore x peer
    let own := decide (p = x.core)
    match reportAt x (fun f => decide (f.tile = d) || (own && decide (f.tile = a))) (matTile x.sk d || (own && matTile x.sk a)) s with
    | some s => s
    | none =>
      if tilePresent s p a && !sameShape (tileOf s p a) (tileOf s x.core d) then trapX x { code := 0x0E } s
      else if !tilePresent s p a then trapX x { code := 0x1B } s
      else if memHeld x true true || !copyRoom s x c 1 then stall x .other s
      else match tileWait s x (if own && decide (a = d) then [d] else []) [d] with
        | some w => stall x (.tile x.core w.1 w.2) s
        | none =>
          if (tileOf s p a).state ≠ .ready || !tileTurn s x p a then stall x (.tile p a true) s
          else
            let size := tileSize (x.launch s) (tileOf s x.core d)
            let bad := (tileOf s p a).poison
            let self := own && decide (a = d)
            let s := if self then s else updTile s p a (fun e => { e with state := .draining, peerReads := e.peerReads + 1 })
            retire x (beginCopy x c 1 (fun k => { k with kind := .tpeer p a, tile := d, tileA := a, poison := bad, total := max 1 (cdiv size 128) })
              (startFill s x.core d))) s
/-- TFILL (R176). -/
def execTfill (c : Ctl) (d : Nat) (a : Src) (s : State) : Out :=
  issue { guard := .coll } (Instr.use (.tfill c d a)) c (allotEarly [d]) (fun x s =>
    match reportAt x (fun f => decide (f.tile = d)) (matTile x.sk d) s with
    | some s => s
    | none =>
      if memHeld x true true || !copyRoom s x c 0 then stall x .other s
      else match tileWait s x [] [d] with
        | some w => stall x (.tile x.core w.1 w.2) s
        | none =>
          let size := tileSize (x.launch s) (tileOf s x.core d)
          retire x (beginCopy x c 0 (fun k => { k with kind := .tfill (srcWord x a (oneOf x)), tile := d, tileA := d, total := max 1 (cdiv size 128) })
            (startFill s x.core d))) s
/-- A tile goes empty (R168). -/
def emptyTile (s : State) (core t : Nat) : State := updTile s core t (fun e => { e with state := .empty, poison := false, faulted := false })
/-- TREL (R177). -/
def execTrel (c : Ctl) (d : Nat) (s : State) : Out :=
  issue { guard := .coll } {} c (allotEarly [d]) (fun x s =>
    match reportAt x (fun f => decide (f.tile = d)) (matTile x.sk d) s with
    | some s => s
    | none =>
      match (tileOf s x.core d).state with
      | .filling => trapX x { code := 0x10 } s
      | .draining => stall x (.tile x.core d false) s
      | .empty => retire x s
      | .ready =>
        if (tileOf s x.core d).holds ≠ 0 ∨ (tileOf s x.core d).peerReads ≠ 0 then stall x (.tile x.core d false) s
        else match tileWait s x [] [d] with
          | some w => stall x (.tile x.core w.1 w.2) s
          | none => retire x (emptyTile s x.core d)) s

/-! The engines (R170). -/

/-- The element bytes of TFILL over a tile. -/
def fillByte (w : Nat) (v : Word) (i : Nat) : Byte :=
  if w = 4 then BitVec.ofNat 8 (v.toNat % 16 * 17) else BitVec.ofNat 8 (v.toNat / 2 ^ (8 * (i % (w / 8))))
/-- A piece of a copy met a fault: the first one is kept. -/
def copyFail (c : Copy) (code va : Nat) : Copy := if c.faultCode = 0 then { c with faultCode := code, faultVa := va } else c
/-- Change a copy in its core's queue. -/
def updCopy (s : State) (core op : Nat) (f : Copy → Copy) : State :=
  updCore s core (fun c => { c with copyq := mapIf (fun k => k.op = op) f c.copyq })
/-- The context a skein's checks need when no instruction is in hand. -/
def engineCtx (s : State) (core slot : Nat) : Option Ctx :=
  (skeinOf s core slot).map (fun sk => { core := core, slot := slot, path := 0, sk := sk, pa := {}, lanes := 0, act := 0, pc := 0, depth := 0 })
/-- The counter class of a copy (07 Table 3). -/
def copyClass : CopyKind → Nat
  | .tload | .tstore | .tfill _ => 0
  | .tpeer _ _ => 1
  | .ppush _ _ _ => 2
  | .ppop _ _ _ _ => 3
  | .tgather | .tscat => 4
  | .coll _ _ _ _ => 5
/-- Watchpoints on a line of a copy: recorded, or left to be reported where a copy fault would be (R410). -/
def watchCopy (s : State) (core : Nat) (c : Copy) (write : Bool) (va n : Nat) : State :=
  match engineCtx s core c.slot with
  | none => s
  | some x =>
    match watchCheck s x (!write) write n [(0, va)] with
    | (none, s) => s
    | (some t, s) =>
      updSkein s core c.slot (fun sk =>
        if sk.copyFaults.any (fun f => decide (f.op = c.op) && decide (f.code % 256 = 0x2B)) then sk
        else { sk with copyFaults := sk.copyFaults ++ [⟨copyClass c.kind, c.tile, 0x2B + 256 * t.detail, va, c.linesDone, c.op⟩] })
/-- The copy's grid may read the weight store (R227). -/
def gateOk (s : State) (core slot : Nat) : Bool :=
  match engineCtx s core slot with
  | some x => holdsGate s x
  | none => false
/-- A piece of a copy has been sent, or has met a fault and will not be. -/
def pieceSent (s : State) (core op : Nat) : State := updCopy s core op (fun k => { k with next := k.next + 1, lastLine := some s.clock })
def pieceBad (s : State) (core op code va : Nat) : State :=
  pieceSent (updCopy s core op (fun k => { copyFail k code va with bad := k.bad ++ [k.next] })) core op
/-- A request of a copy engine for a line of memory or of a window, from its cluster's port (R106, R170). -/
def postCopy (s : State) (core : Nat) (c : Copy) (kind : ReqKind) (pa : Nat) : State :=
  (postCore s kind (.copy core c.op c.next) (pa / 128) c.policy core).2
/-- A line's piece is asked for, or read from the weight store. Nothing, while it must wait. The weight store is read with ECC: `e`
gives the corrected errors and names 32-byte units found poisoned (R81). -/
def inPiece (s : State) (core : Nat) (c : Copy) (e : EngineLine) (p : Nat × Option Nat × Nat × Nat) : State :=
  match p.2.1 with
  | none => pieceSent (updCopy s core c.op (fun k => { k with got := NMap.insert k.got k.next (0, 0) })) core c.op
  | some va =>
    match access s (.copy core c.op) (some core) (dieOf core) (partOf s core) c.ctx va .read .copyRead with
    | (none, s) => s
    | (some (.error code), s) => pieceBad s core c.op code va
    | (some (.ok y), s) =>
      if y.type = 3 ∧ !gateOk s core c.slot then pieceBad s core c.op tcPermission va
      else if y.type = 3 ∧ inRefresh s.clock (y.pa % 0x10000000) then s
      else
        let s := watchCopy s core c false va p.2.2.2
        if y.type = 3 then
          let line := y.pa / 128
          let dd : Die := NMap.getD s.dies (dieOf core) {}
          let s : State := { s with poison := (e.bad.filter (fun u => u / 4 = line)).foldl (fun q u => sortedInsert u q) s.poison
                                    dies := NMap.insert s.dies (dieOf core) { dd with corrected := dd.corrected + e.corrected } }
          pieceSent (updCopy s core c.op (fun k => { k with got := NMap.insert k.got k.next (lineRead s line, linePoison s line) })) core c.op
        else pieceSent (postCopy s core c (.read (maskBytes (y.pa % 128) p.2.2.2)) y.pa) core c.op
/-- A piece of a tile row is sent to its slice (R170, R114). -/
def outPiece (s : State) (core : Nat) (c : Copy) (rb : Nat) (p : Nat × Option Nat × Nat × Nat) : State :=
  match p.2.1 with
  | none => pieceSent s core c.op
  | some va =>
    match access s (.copy core c.op) (some core) (dieOf core) (partOf s core) c.ctx va .write .other with
    | (none, s) => s
    | (some (.error code), s) => pieceBad s core c.op code va
    | (some (.ok y), s) =>
      let bs := tileRead s core ((tileOf s core c.tile).base * 128 + p.1 * rb + p.2.2.1) p.2.2.2
      let s := watchCopy s core c true va p.2.2.2
      pieceSent (postCopy s core c (.write (maskBytes (y.pa % 128) bs.length) (lineOf (y.pa % 128) bs)) y.pa) core c.op
/-- The rows whose pieces have all come reach the tile store, unless a line of the row met a fault: a skipped row keeps its old bytes
and gives the tile no poison (R168, R170). -/
def landRows (s : State) (core : Nat) (c : Copy) (rb : Nat) : State :=
  let ps := (copyPieces c rb).zip (List.range c.total)
  let has := fun (i : Nat) => (NMap.get? c.got i).isSome
  let rows := (dedup (ps.map (fun e => e.1.1))).filter (fun r =>
    let mine := ps.filter (fun e => e.1.1 = r)
    mine.any (fun e => decide (e.2 ∉ c.landed)) && mine.all (fun e => has e.2 || decide (e.2 ∈ c.bad)))
  rows.foldl (fun s r =>
    let mine := ps.filter (fun e => e.1.1 = r)
    let ok := mine.all (fun e => has e.2)
    let off := fun (e : (Nat × Option Nat × Nat × Nat) × Nat) => (e.1.2.1.getD 0) % 128
    let bytes := mine.flatMap (fun e => match e.1.2.1 with
      | some _ => lineBytes ((NMap.getD c.got e.2 (0, 0)).1) (off e) e.1.2.2.2
      | none => List.replicate rb 0)
    let sick := mine.any (fun e => decide (unitsTouched (maskBytes (off e) e.1.2.2.2) &&& (NMap.getD c.got e.2 (0, 0)).2 ≠ 0))
    let s := if ok then setTileBytes s core ((tileOf s core c.tile).base * 128 + r * rb) bytes else s
    updCopy s core c.op (fun k => { k with landed := k.landed ++ mine.map Prod.snd, linesDone := k.linesDone + (mine.filter (fun e => has e.2)).length
                                           poison := k.poison || (ok && sick) })) s
/-- The lines of a pop that have come reach the tile store (R181). -/
def landLines (s : State) (core : Nat) (c : Copy) (size : Nat) : State :=
  c.got.foldl (fun s e =>
    if e.1 ∈ c.landed then s else
    let n := min 128 (size - 128 * e.1)
    let s := setTileBytes s core ((tileOf s core c.tile).base * 128 + 128 * e.1) (lineBytes e.2.1 0 n)
    updCopy s core c.op (fun k => { k with landed := k.landed ++ [e.1], linesDone := k.linesDone + 1, poison := k.poison || decide (e.2.2 ≠ (0 : BitVec 4)) })) s
/-- A line that a copy wrote has not been accepted at its slice, here or on another package (07 Table 3). -/
def copyWriting (s : State) (core op : Nat) : Bool :=
  s.reqs.any (fun r => (match r.who with | .copy c o _ => decide (c = core) && decide (o = op) | _ => false) &&
    (match r.kind with | .write _ _ | .slotWrite _ _ _ => r.onWay || (decide (r.stage = .remote) && decide (regionOf (128 * r.line) ≠ .host)) | _ => false))
/-- Copy one 128-byte part of a tile inside a cluster. -/
def peerPiece (s : State) (core : Nat) (c : Copy) (p t size : Nat) : State :=
  let n := min 128 (size - 128 * c.next)
  let bs := tileRead s p ((tileOf s p t).base * 128 + 128 * c.next) n
  let s := setTileBytes s core ((tileOf s core c.tile).base * 128 + 128 * c.next) bs
  updCopy s core c.op (fun k => { k with next := k.next + 1, linesDone := k.linesDone + 1, lastLine := some s.clock })

/-- A request of a copy engine for a line of a pipe slot, in the pipe's die-link class (R130, R139). -/
def postSlot (s : State) (core : Nat) (c : Copy) (plan pipe : Nat) (p : Pipe) (kind : ReqKind) (slot : Nat) : State :=
  let n := slotSlice s p slot c.next
  let r : Req :=
    { id := s.nextId, kind := kind, who := .copy core c.op c.next, line := 0, policy := .keep, owner := partOf s core, pipe := some (plan, pipe)
      die := dieOf core, port := portOf core, homeDie := p.homeDie, homeSlice := n, stage := .port, since := s.clock, reservedEntry := false
      way := 0, rdata := 0, rpoison := 0, rold := 0, stamp := 0 }
  { s with reqs := s.reqs ++ [r], nextId := s.nextId + 1 }
/-- One line of a push: to the slot at its home slice, zero beyond the tile (R129, R180); to another package as a flit (R140). -/
def pushPiece (s : State) (core : Nat) (c : Copy) (plan pipe slot size : Nat) : State :=
  match pipeOf s plan pipe with
  | none => s
  | some p =>
    let n := min 128 (size - 128 * c.next)
    let bs := tileRead s core ((tileOf s core c.tile).base * 128 + 128 * c.next) n ++ List.replicate (128 - n) 0
    let s := if p.homeHere then postSlot s core c plan pipe p (.slotWrite slot c.next (lineOf 0 bs)) slot
      else podSend s { dest := p.remotePkg, vc := p.vc, msg := .pipeLine plan p.remotePipe slot c.next bs }
    pieceSent (updCopy s core c.op (fun k => { k with linesDone := k.linesDone + 1 })) core c.op
/-- The address of a spill slot of a plan (R158). -/
def spillVa (p : Plan) (u : Nat) : Nat := p.spillBase + 16384 * u
/-- One line of a pop: from the slot, or from the tile's spill slot in memory (R181). -/
def popPiece (s : State) (core : Nat) (c : Copy) (plan pipe slot : Nat) (spilled : Bool) : State :=
  match NMap.get? s.plans plan, pipeOf s plan pipe with
  | some pl, some p =>
    if spilled then
      let va := spillVa pl slot + 128 * c.next
      match access s (.copy core c.op) (some core) (dieOf core) (partOf s core) pl.spillCtx va .read .other with
      | (none, s) => s
      | (some (.error code), s) => pieceBad s core c.op code va
      | (some (.ok y), s) => pieceSent (postCopy s core c (.read allLanes) y.pa) core c.op
    else pieceSent (postSlot s core c plan pipe p (.slotRead slot c.next) slot) core c.op
  | _, _ => s
/-- The engine's copy: the one it has, else the first in the queue that no engine has taken. DEDUCED, log entry 21. DEDUCED, log entry 58. -/
def engineCopy (q : List Copy) (eng : Nat) : Option Copy :=
  (q.find? (fun c => c.engine = some eng ∧ !c.moved)).or (q.find? (fun c => c.engine = none ∧ !c.moved))
/-- Every line of a copy has been moved: each piece sent, and landed or accepted. -/
def copyMoved (s : State) (core : Nat) (c : Copy) : Bool :=
  decide (c.total ≤ c.next) && (match c.kind with
    | .tload | .tgather | .ppop _ _ _ _ => (List.range c.total).all (fun i => decide (i ∈ c.landed) || decide (i ∈ c.bad))
    | .tstore | .tscat | .ppush _ _ _ => !copyWriting s core c.op
    | _ => true)
/-- The next line of an engine's operation is sent or moved. DEDUCED, log entry 21. -/
def sendPiece (s : State) (core : Nat) (c : Copy) (el : EngineLine) : State :=
  let bolt := ((skeinOf s core c.slot).map Skein.bolt).getD 0
  let l := launchOf s core bolt
  let e := tileOf s core c.tile
  let rb := rowBytes l e
  let size := tileSize l e
  if c.total ≤ c.next then s else
  let moved := fun (s : State) => pieceSent (updCopy s core c.op (fun k => { k with linesDone := k.linesDone + 1 })) core c.op
  match c.kind with
  | .tload | .tgather => match (copyPieces c rb)[c.next]? with
    | some p => inPiece s core c el p
    | none => s
  | .tstore | .tscat => match (copyPieces c rb)[c.next]? with
    | some p => outPiece s core c rb p
    | none => s
  | .tpeer p t => peerPiece s core c p t size
  | .tfill v =>
    let n := min 128 (size - 128 * c.next)
    let bs := (List.range n).map (fun i => fillByte (entryW l e) v (128 * c.next + i))
    moved (setTileBytes s core (e.base * 128 + 128 * c.next) bs)
  | .ppush plan pipe slot => pushPiece s core c plan pipe slot size
  | .ppop plan pipe slot sp => popPiece s core c plan pipe slot sp
  | .coll _ _ _ _ => moved s
/-- What has come for an engine's operation reaches the tile store; an operation whose lines have all been moved leaves its engine. DEDUCED, log entry 58. -/
def landPieces (s : State) (core : Nat) (c : Copy) : State :=
  let l := launchOf s core (((skeinOf s core c.slot).map Skein.bolt).getD 0)
  let e := tileOf s core c.tile
  let s := match c.kind with
    | .tload | .tgather => landRows s core c (rowBytes l e)
    | .ppop _ _ _ _ => landLines s core c (tileSize l e)
    | .tstore | .tscat => updCopy s core c.op (fun k => { k with linesDone := k.next - k.bad.length })
    | _ => s
  updCopy s core c.op (fun k => if copyMoved s core k then { k with moved := true, engine := none, movedAt := s.clock } else k)
/-- COPY_LINE_TRANSFER (R170): one line of the engine's operation is sent, and what has come back lands; `eng` gives the
errors met in the weight store (R81). DEDUCED, log entry 58. -/
def execCopyLineTransfer (core : Nat) (eng : EngineLine) (s : State) : Out :=
  event (fun s =>
    if 4 ≤ eng.eng then s else
    match engineCopy (coreOf s core).copyq eng.eng with
    | none => s
    | some c =>
      let s := updCopy s core c.op (fun k => { k with engine := some eng.eng })
      let c := { c with engine := some eng.eng }
      let s := if c.lastLine = some s.clock then s else sendPiece s core c eng
      match (coreOf s core).copyq.find? (fun k => k.op = c.op) with
      | some c => landPieces s core c
      | none => s) s
/-- A copy leaves its queue: its counter falls, and a fault waits to be reported (R170). DEDUCED, log entry 58. DESIGN CHOICE, log entry 89. -/
def closeCopy (s : State) (core : Nat) (c : Copy) : State :=
  let s := updCore s core (fun k => { k with copyq := k.copyq.filter (fun q => q.op ≠ c.op) })
  let s := endAgent (finishOp s core c.slot c.op) (.copy core c.op)
  if c.faultCode = 0 then s else
  updSkein s core c.slot (fun sk => if sk.killed then sk else { sk with copyFaults := sk.copyFaults ++ [⟨copyClass c.kind, c.tile, c.faultCode, c.faultVa, c.linesDone, c.op⟩] })
/-- The inbound operation of a tile completes (R168). -/
def fillDone (s : State) (core t : Nat) (poison fault : Bool) : State :=
  updTile s core t (fun e => { e with state := .ready, poison := poison, faulted := fault })
/-- The outbound copy of a tile completes; a fault marks the tile (R168, R170). -/
def drainDone (s : State) (core t : Nat) (fault : Bool) : State :=
  updTile s core t (fun e => { e with state := .ready, faulted := e.faulted || fault })
/-- While the plan of a copy's stage stops, the stage's copies complete in issue order (R161). -/
def haltTurn (s : State) (core : Nat) (c : Copy) : Bool :=
  let gridAt := fun (n slot : Nat) => ((skeinOf s n slot).bind (fun sk => boltOf s n sk.bolt)).map Bolt.grid
  let g := gridAt core c.slot
  let stopping := ((g.bind (fun gn => NMap.get? s.grids gn)).bind Grid.plan).any (fun p => decide ((NMap.get? s.plans p.1).map Plan.state = some .stopping))
  !stopping || s.cores.all (fun e => e.2.copyq.all (fun k => decide (c.op ≤ k.op) || decide (gridAt e.1 k.slot ≠ g)))
/-- COPY_COMPLETE (R170). -/
def execCopyComplete (core op : Nat) (s : State) : Out :=
  event (fun s => match (coreOf s core).copyq.find? (fun c => c.op = op) with
    | none => s
    | some c =>
      if !c.moved || !haltTurn s core c then s else
      let bad := decide (c.faultCode ≠ 0)
      match c.kind with
      | .tload | .tgather | .tfill _ => closeCopy (fillDone s core c.tile c.poison bad) core c
      | .tstore | .tscat => closeCopy (drainDone s core c.tile bad) core c
      | .tpeer p t =>
        let s := if p = core ∧ t = c.tile then s else updTile s p t (fun e => { e with state := .ready, peerReads := e.peerReads - 1 })
        closeCopy (fillDone s core c.tile c.poison bad) core c
      | _ => s) s

end Sys2Proof.Machine
end

