-- ==== Sys2Proof/Machine/Matrix.lean ====
section
/-! DEFINITION. The matrix unit: MMA, MMAC, ACCZ, ACCL, ACCD and ADPF at issue, and the unit's own steps (spec/13 R309 to R332,
spec/03 R71 to R74, spec/05 R119 to R121). -/

namespace Sys2Proof.Machine

/-! Accumulator tiles (R309). -/

/-- The store number of accumulator index `n` of a bolt (R195). -/
def accStore (s : State) (core bolt n : Nat) : Nat := (boltAccs s core bolt).getD n 0
def accOf (s : State) (core n : Nat) : AccTile := NMap.getD (coreOf s core).accs n {}
def updAcc (s : State) (core n : Nat) (f : AccTile → AccTile) : State :=
  updCore s core (fun c => { c with accs := NMap.insert c.accs n (f (NMap.getD c.accs n {})) })
/-- The code of an element; +0 where none is listed. -/
def elemAt (m : NMap Word) (i j : Nat) : Word := NMap.getD m (64 * i + j) 0
def accVal (m : NMap Word) (i j : Nat) : FVal := ffDecode .f32 (elemAt m i j).toNat
/-- The 64 × 64 elements of a function, +0 unlisted. -/
def elemsOf (f : Nat → Nat → Word) : NMap Word :=
  (List.range 4096).filterMap (fun k => let w := f (k / 64) (k % 64); if w = 0 then none else some (k, w))
/-- RoundF32 to nearest, as a code and as a value (R69). -/
def roundW (v : FVal) : Word := BitVec.ofNat 32 (roundFF .f32 .rne v)
def rounded (v : FVal) : FVal := ffDecode .f32 (roundFF .f32 .rne v)
/-- The sum of exact terms; an exact zero is +0 (R74). -/
def sumVals (l : List FVal) : FVal := l.foldl (fAdd false) (.fin false 0 0)

/-! Tile elements (R64, R68, R165). -/

/-- The code of element (r, j) among the bytes of a tile. -/
def codeAt (bytes : List Byte) (cols w r j : Nat) : Nat :=
  let bit := (r * cols + j) * w
  if w = 4 then ((bytes.getD (bit / 8) 0).toNat / 2 ^ (bit % 8)) % 16
  else leNat ((bytes.drop (bit / 8)).take (w / 8))
/-- The scaled value of a code of a tile's format (R68). -/
def scaledAt (fs : FmtCode × Int) (bytes : List Byte) (cols r j : Nat) : FVal :=
  fScale fs.2 (fmtDecode fs.1 (codeAt bytes cols (fmtBits fs.1) r j))
/-- The format of an entry is one that a conversion accepts (R165). -/
def plainFmt (f : FmtCode) : Bool := match f with | .wide _ | .narrow _ => true | _ => false
/-- Conv of R317: the code of acc × 2^(−e) in the slot's format, toward zero (R71). -/
def convCode (fs : FmtCode × Int) (v : FVal) : Nat := fmtDrain fs.1 (fScale (-fs.2) v)

/-! Shapes (R315). -/

/-- A slot's format can be drained into (R317, R320). -/
def drainable (fs : FmtCode × Int) : Bool := match fs.1 with
  | .wide .f64 => false
  | .wide _ | .narrow _ => true
  | _ => false
/-- K of a product of the greater width W, and the span of a k-step (R73). -/
def kOf (w : Nat) : Nat := 2048 / w
def shapeIs (l : Launch) (e : TileEntry) (rows cols : Nat) : Bool := plainFmt (entryFmt l e).1 && decide (e.rows = rows) && decide (e.cols = cols)
/-- W of an instruction: the greater width of A's and B's elements. -/
def widthOf (s : State) (core : Nat) (l : Launch) : MatKind → Nat
  | .mma _ a b _ => max (entryW l (tileOf s core a)) (entryW l (tileOf s core b))
  | .mmac _ _ b fs _ => max (fmtBits (launchSlot l fs).1) (entryW l (tileOf s core b))
  | _ => 32
/-- The accumulator indices of the A range of an MMAC (R317). -/
def aRange (s : State) (core : Nat) (l : Launch) (k : MatKind) : List Nat :=
  match k with
  | .mmac _ a _ _ _ => (List.range (kOf (widthOf s core l k) / 64)).map (a + ·)
  | _ => []
/-- Accumulator indices an instruction names: D, A of ACCD, and the A range (R310). -/
def accNames (s : State) (core : Nat) (l : Launch) (k : MatKind) : List Nat :=
  match k with
  | .mma d _ _ _ | .accz d | .accl d _ => [d]
  | .mmac d _ _ _ _ => d :: aRange s core l k
  | .accd _ a _ => [a]

/-! Issue. -/

/-- The row tags and the layer, K block and N block that vC gives (R322). -/
def adRows (x : Ctx) (c : Nat) : NMap Nat :=
  (List.range 64).filterMap (fun i => let n := (vRead x c i).toNat % 65536; if n = 0 then none else some (i, n))
def adBlocks (x : Ctx) (r : AdRef) : Nat × Nat × Nat := (r.layer, (vRead x r.c 64).toNat % 65536, (vRead x r.c 64).toNat / 65536)
/-- The instruction's turn among the skeins that wait on an accumulator tile: the longest wait at issue, then the lower slot (R310). DEDUCED,
log entry 95. -/
def accTurn (s : State) (x : Ctx) (n : Nat) : Bool :=
  let mine := x.waitedSince s
  (coreOf s x.core).skeins.all (fun e => decide (e.1 = x.slot) || e.2.run != .running || e.2.paths.all (fun p => match p.2.wait with
    | some (.accs l, _, since) => !decide (n ∈ l) || decide (mine < since) || (decide (mine = since) && decide (x.slot < e.1))
    | _ => true))
/-- Issue a matrix instruction whose traps have passed: it waits for its tiles, its accumulators and the one before (R310, R311,
R313), then begins. -/
def beginMatrix (x : Ctx) (c : Ctl) (kind : MatKind) (ad : Option AdRef) (s : State) : State :=
  let l := x.launch s
  let src := heldTiles kind
  let dst := match kind with | .accd d _ _ => [d] | _ => []
  let accs := (accNames s x.core l kind).map (accStore s x.core x.sk.bolt)
  if tilePoison s x.core src then trapX x { code := 0x20 } s
  else if accs.any (fun n => (accOf s x.core n).busy.isSome || !accTurn s x n) then stall x (.accs accs) s
  else if x.sk.mat.isSome || !counterRoom x 6 || !flagRoom x c then stall x .other s
  else match tileWait s x src dst with
    | some w => stall x (.tile x.core w.1 w.2) s
    | none =>
        let (op, s) := beginOp x c { cls := .async, path := x.path, counter := some 6, body := .matrix } s
        let m : MatOp :=
          { op := op, kind := kind, pc := x.pc, issued := s.clock, ad := ad.map (adBlocks x), looked := ad.isNone, entries := [], steps := 0
            replayBit := false, slots := [0, 0, 0], fills := [], direct := [], fault := none, handler := x.sk.frame.isSome, abandon := false }
        let s := onSkein x (fun sk => { sk with mat := some m }) s
        let s := src.foldl (fun s t => updTile s x.core t (fun e => { e with holds := e.holds + 1 })) s
        let s := dst.foldl (fun s t => startFill s x.core t) s
        let s := accs.foldl (fun s n => updAcc s x.core n (fun a => { a with busy := some (x.slot, op) })) s
        let s := match ad with
          | some r => updAcc s x.core (accs.headD 0) (fun a => { a with tags := adRows x r.c })
          | none => s
        retire x s
/-- A fault still unreported is taken at the next matrix instruction, and a copy fault at an instruction that names its tile (R329,
R170). -/
def matrixGo (x : Ctx) (c : Ctl) (kind : MatKind) (ad : Option AdRef) (s : State) : State :=
  let ts := heldTiles kind ++ (match kind with | .accd d _ _ => [d] | _ => [])
  match reportAt x (fun f => decide (f.tile ∈ ts)) true s with
  | some s => s
  | none => beginMatrix x c kind ad s
/-- Traps 3 to 5 of R314 that MMA raises. -/
def mmaEarly (a b : Nat) (x : Ctx) (s : State) : Option TrapInfo :=
  let l := x.launch s
  let k := kOf (widthOf s x.core l (.mma 0 a b false))
  (allotEarly [a, b] x s).or (if shapeIs l (tileOf s x.core a) 64 k && shapeIs l (tileOf s x.core b) k 64 then none else some { code := 0x0E })
/-- MMA (R316). -/
def execMma (c : Ctl) (d a b : Nat) (last : Bool) (ad : Option AdRef) (s : State) : Out :=
  issue { guard := .coll, full := true, accs := [d] } (Instr.use (.mma c d a b last ad)) c (mmaEarly a b)
    (fun x s => matrixGo x c (.mma d a b last) ad s) s
/-- Traps 2 to 5 of R314 that MMAC raises: its A range lies in the allotment and leaves D out. -/
def mmacEarly (d a b fs : Nat) (x : Ctx) (s : State) : Option TrapInfo :=
  let l := x.launch s
  let kind : MatKind := .mmac d a b fs false
  let range := aRange s x.core l kind
  if range.any (fun n => decide ((boltAccs s x.core x.sk.bolt).length ≤ n) || decide (n = d)) then some { code := 0x04 }
  else (allotEarly [b] x s).or
    (if !drainable (launchSlot l fs) then some { code := 0x12 }
     else if shapeIs l (tileOf s x.core b) (kOf (widthOf s x.core l kind)) 64 then none else some { code := 0x0E })
/-- MMAC (R317). -/
def execMmac (c : Ctl) (d a b fs : Nat) (last : Bool) (ad : Option AdRef) (s : State) : Out :=
  issue { guard := .coll, full := true, accs := [d, a] } (Instr.use (.mmac c d a b fs last ad)) c (mmacEarly d a b fs)
    (fun x s => matrixGo x c (.mmac d a b fs last) ad s) s
/-- ACCZ (R318). -/
def execAccz (c : Ctl) (d : Nat) (s : State) : Out :=
  issue { guard := .coll, full := true, accs := [d] } {} c noEarly (fun x s => matrixGo x c (.accz d) none s) s
/-- ACCL (R319). -/
def execAccl (c : Ctl) (d a : Nat) (s : State) : Out :=
  issue { guard := .coll, full := true, accs := [d] } {} c (fun x s => (allotEarly [a] x s).or
      (if shapeIs (x.launch s) (tileOf s x.core a) 64 64 then none else some { code := 0x0E }))
    (fun x s => matrixGo x c (.accl d a) none s) s
/-- An entry matches a slot (R320). -/
def slotMatches (l : Launch) (e : TileEntry) (fs : Nat) : Bool :=
  if e.useSlot then decide (e.slot = fs)
  else decide (e.fmt = field (l.fslots.getD fs 0).toNat 0 8) && decide ((launchSlot l fs).2 = 0)
/-- ACCD (R320). -/
def execAccd (c : Ctl) (d a fs : Nat) (s : State) : Out :=
  issue { guard := .coll, full := true, accs := [a] } {} c (fun x s =>
      let l := x.launch s
      let e := tileOf s x.core d
      (allotEarly [d] x s).or (if !drainable (launchSlot l fs) then some { code := 0x12 }
        else if e.rows = 64 ∧ e.cols = 64 ∧ slotMatches l e fs then none else some { code := 0x0E }))
    (fun x s => matrixGo x c (.accd d a fs) none s) s

/-! The adapter cache (R119, R120). -/

def adOn (s : State) : Bool := s.dev.adpcfg.now.getLsbD 0
/-- The sets that serve an owner: its own, else the shared ones (R120). -/
def adSets (s : State) (owner : Nat) : List Nat :=
  let g := fun p => (List.range 32).filter (fun i => decide (nibble (s.dev.adpcfg.now.toNat / 2 ^ 32) (i / 4) = p))
  if owner < 8 ∧ g owner ≠ [] then g owner else g 15
/-- The slice of a die, and the set, that hold a chunk (R120). -/
def adPlace (s : State) (die owner : Nat) (t : ChunkTag) : Option (Nat × Nat) :=
  let g := adSets s owner
  if g = [] ∨ !adOn s then none else
  let idx := nibble t.ident 0 ^^^ nibble t.ident 1 ^^^ nibble t.ident 2 ^^^ nibble t.ident 3 ^^^ nibble t.layer 0 ^^^ nibble t.layer 1 ^^^ t.chunk % 16
  let k := field t.chunk 4 5 ^^^ t.layer % 32 ^^^ (if t.isB then 16 else 0)
  some (16 * die + pickSlice s die idx, g.getD (k % g.length) 0)
/-- The entry of a chunk where the requester's owner has its place (R120). -/
def adFind (s : State) (die owner : Nat) (t : ChunkTag) : Option AdChunk :=
  (adPlace s die owner t).bind (fun p => s.adCache.find? (fun e => decide (e.tag = t) && decide (e.slice = p.1) && decide (e.set = p.2)))
/-- Place a filled chunk, in a free entry or over the least recently used one that no running instruction uses; none when it is
not allocated (R119, R324). A chunk that is there already stays as it was filled. -/
def adPut (s : State) (die owner : Nat) (t : ChunkTag) (bytes : List Byte) (users : List (Nat × Nat)) : Option State :=
  match adPlace s die owner t with
  | none => none
  | some (sl, set) =>
    let now := (s.adCache.map AdChunk.used).foldl max 0 + 1
    let at_ := fun (e : AdChunk) => decide (e.tag = t) && decide (e.slice = sl) && decide (e.set = set)
    if s.adCache.any at_ then some { s with adCache := mapIf at_ (fun e => { e with users := dedup (e.users ++ users), used := now }) s.adCache } else
    let rest := s.adCache
    let same := rest.filter (fun e => decide (e.slice = sl) && decide (e.set = set))
    let new : AdChunk := { tag := t, slice := sl, set := set, bytes := bytes, used := now, users := users }
    if same.length < 16 then some { s with adCache := rest ++ [new] }
    else match leastBy AdChunk.used (same.filter (fun e => decide (e.users = []))) with
      | none => none
      | some v => some { s with adCache := rest.filter (fun e => e ≠ v) ++ [new] }
/-- Drop the chunks of a context, or of all; a running instruction keeps the bytes it uses, and a fill on the way serves the instruction that
began it alone (R121). -/
def adDrop (s : State) (ctx : Option Nat) : State :=
  let go := fun (e : AdChunk) => decide (ctx = none) || decide (ctx = some e.tag.ctx)
  let s := (s.adCache.filter go).foldl (fun s e => e.users.foldl (fun s u =>
    updSkein s u.1 u.2 (fun sk => { sk with mat := sk.mat.map (fun m => { m with direct := m.direct ++ [(e.tag, e.bytes)] }) })) s) s
  { s with
    adCache := s.adCache.filter (fun e => !go e)
    cores := s.cores.map (fun c => (c.1, { c.2 with chunkFills := mapIf (fun f => decide (ctx = none) || decide (ctx = some f.tag.ctx)) (fun f => { f with stale := true }) c.2.chunkFills })) }

/-! Table entries and chunks (R321 to R325). -/

def rankOf (code : Nat) : Nat := 8 * 2 ^ code
/-- Bytes of an element of an adapter matrix. -/
def adBytes (e : AdEntry) : Nat := if e.fmt = 1 then 4 else 2
def adFF (e : AdEntry) : FF := if e.fmt = 1 then .f32 else if e.fmt = 2 then .f16 else .bf16
/-- Size of the A or B matrix of an entry. -/
def adSize (e : AdEntry) (isB : Bool) : Nat := 64 * (if isB then e.nBlocks else e.kBlocks) * e.rank * adBytes e
/-- Read the header of an adapter table, layers and identifiers, through the core's L1 TLB (R474). -/
def readHeader (s : State) (a : Agent) (core ctx table : Nat) : Option (Except (Nat × Nat) (Option (Nat × Nat))) × State :=
  let (r, s) := virtPeek s a (some core) (dieOf core) (partOf s core) ctx table 32 3
  (r.map (fun r => r.map (fun bs =>
    let h := leNat bs
    if h % 65536 = 1 ∧ h / 2 ^ 40 = 0 then some (field h 32 8 + 1, field h 16 16) else none)), s)
/-- Read the entry of an identifier; none where it breaks R323. -/
def readEntry (s : State) (a : Agent) (core ctx table ident layer layers : Nat) : Option (Except (Nat × Nat) (Option AdEntry)) × State :=
  let (r, s) := virtPeek s a (some core) (dieOf core) (partOf s core) ctx (table + 32 + 32 * ((ident - 1) * layers + layer)) 32 3
  (r.map (fun r => r.map (fun bs =>
    let w := fun i => leNat ((bs.drop (8 * i)).take 8)
    let e : AdEntry := { ident := ident, aBase := w 0, bBase := w 1, nBlocks := field (w 2) 48 16, kBlocks := field (w 2) 32 16
                         alpha := BitVec.ofNat 32 (w 2), rank := rankOf (field (w 3) 8 2), fmt := field (w 3) 0 8 }
    if bitAt (w 3) 10 && decide (1 ≤ e.fmt) && decide (e.fmt ≤ 3) && decide (w 0 % 128 = 0) && decide (w 1 % 128 = 0) && decide (w 3 / 2 ^ 11 = 0) then some e else none)), s)
/-- Read and check the entries of identifiers, ascending; the first fault counts (R323). The reads overlap (R331); nothing while one is
under way. An adapter-table fault reports the address 0. DESIGN CHOICE, log entry 97. -/
def readEntries (s : State) (a : Agent) (core ctx table layer layers count : Nat) (fits : AdEntry → Bool) : List Nat → Option (Except MatFault (List AdEntry)) × State
  | [] => (some (.ok []), s)
  | n :: r =>
    let bad := fun (c va : Nat) => (Except.error ({ code := c, ident := n, layer := layer, va := va } : MatFault))
    if count < n ∨ layers ≤ layer then (some (bad 0x22 0), s) else
    let (e, s) := readEntry s a core ctx table n layer layers
    let (rest, s) := readEntries s a core ctx table layer layers count fits r
    (e.bind (fun e => match e with
      | .error c => some (bad c.1 c.2)
      | .ok none => some (bad 0x22 0)
      | .ok (some e) => if !fits e then some (bad 0x22 0) else rest.map (fun x => x.map (fun es => e :: es))), s)
/-- Chunk numbers of a run of bytes. -/
def chunksOf (lo n : Nat) : List Nat := (List.range ((lo + n - 1) / 4096 + 1 - lo / 4096)).map (lo / 4096 + ·)
/-- The chunks an instruction needs of an entry (R324). -/
def needChunks (ctx layer kappa nu k : Nat) (last : Bool) (e : AdEntry) : List ChunkTag :=
  let row := e.rank * adBytes e
  let a := (chunksOf (kappa * k * row) (k * row)).map (fun c => ({ ctx := ctx, ident := e.ident, layer := layer, isB := false, chunk := c } : ChunkTag))
  let b := if last then dedup ((List.range e.rank).flatMap (fun r => chunksOf ((r * 64 * e.nBlocks + 64 * nu) * adBytes e) (64 * adBytes e))) else []
  a ++ b.map (fun c => ({ ctx := ctx, ident := e.ident, layer := layer, isB := true, chunk := c } : ChunkTag))
/-- Every chunk of a matrix of an entry. -/
def allChunks (ctx layer : Nat) (isB : Bool) (e : AdEntry) : List ChunkTag :=
  (chunksOf 0 (adSize e isB)).map (fun c => ({ ctx := ctx, ident := e.ident, layer := layer, isB := isB, chunk := c } : ChunkTag))
/-- The fill of a chunk: address and lines (R121). -/
def fillFor (e : AdEntry) (t : ChunkTag) (id slot op : Nat) : ChunkFill :=
  { id := id, tag := t, va := (if t.isB then e.bBase else e.aBase) + 4096 * t.chunk, lines := cdiv (min 4096 (adSize e t.isB - 4096 * t.chunk)) 128, slot := slot, op := op }
/-- Begin the fills of chunks; answers their numbers. -/
def beginFills (s : State) (core slot op : Nat) (l : List (AdEntry × ChunkTag)) : List Nat × State :=
  let fs := (l.zip (List.range l.length)).map (fun e => fillFor e.1.1 e.1.2 (s.nextId + e.2) slot op)
  (fs.map ChunkFill.id, updCore { s with nextId := s.nextId + l.length } core (fun c => { c with chunkFills := c.chunkFills ++ fs }))

/-- The table and the context of a skein's launch. -/
def matLaunch (s : State) (core : Nat) (sk : Skein) : Launch := launchOf s core sk.bolt
/-- Accumulator D of a matrix instruction, by store number. -/
def dOf (s : State) (core : Nat) (sk : Skein) (k : MatKind) : Nat :=
  accStore s core sk.bolt (match k with | .mma d _ _ _ | .mmac d _ _ _ _ | .accz d | .accl d _ => d | .accd _ a _ => a)
def isLast : MatKind → Bool | .mma _ _ _ l | .mmac _ _ _ _ l => l | _ => false
/-- The distinct nonzero identifiers of an accumulator's rows, ascending. -/
def identsOf (t : AccTile) : List Nat := t.tags.foldl (fun l e => if e.2 = 0 then l else sortedInsert e.2 l) []
/-- The chunk is at hand: in the cache, or served directly. -/
def haveChunk (s : State) (core : Nat) (m : MatOp) (t : ChunkTag) : Bool := (adFind s (dieOf core) (partOf s core) t).isSome || m.direct.any (fun d => decide (d.1 = t))
def chunkBytes (s : State) (core : Nat) (m : MatOp) (t : ChunkTag) : List Byte :=
  match m.direct.find? (fun d => decide (d.1 = t)) with
  | some d => d.2
  | none => ((adFind s (dieOf core) (partOf s core) t).map AdChunk.bytes).getD []
/-- Every chunk of an identifier that the instruction needs is at hand. -/
def identReady (s : State) (core ctx : Nat) (m : MatOp) (k ident : Nat) : Bool :=
  match m.ad, m.entries.find? (fun e => decide (e.ident = ident)) with
  | some (layer, kap, nu), some e => (needChunks ctx layer kap nu k (isLast m.kind) e).all (haveChunk s core m)
  | _, _ => false

/-- The running instruction uses the chunks that it has found (R324). -/
def useChunks (s : State) (core slot : Nat) (ts : List ChunkTag) : State :=
  let now := (s.adCache.map AdChunk.used).foldl max 0 + 1
  let hits := ts.filterMap (adFind s (dieOf core) (partOf s core))
  { s with adCache := mapIf (fun e => decide (e ∈ hits)) (fun e => { e with users := dedup (e.users ++ [(core, slot)]), used := now }) s.adCache }
/-- Read the entries of an `.ad` instruction and look its chunks up: hits, misses, replay identifiers (R323 to R325, R328). Nothing
happens while a read is under way. With Steps and Replay at 0 the slots are chosen afresh, whatever a handler has written there. DESIGN
CHOICE, log entry 96. -/
def lookUp (s : State) (core slot : Nat) (sk : Skein) (m : MatOp) (layer kap nu : Nat) : State :=
  let l := matLaunch s core sk
  let a : Agent := .adapter core slot
  let k := kOf (widthOf s core l m.kind)
  let ids := identsOf (accOf s core (dOf s core sk m.kind))
  let put := fun (m : MatOp) (s : State) => endAgent (updSkein s core slot (fun sk => { sk with mat := some m })) a
  let stop := fun (f : MatFault) (s : State) => updSkein (put { m with fault := some f } s) core slot endStep
  match ids with
  | [] => put { m with looked := true } s
  | n :: _ =>
    if l.adTable = 0 then stop { code := 0x22, ident := n, layer := layer, va := 0 } s else
    match readHeader s a core l.ctx l.adTable with
    | (none, s) => s
    | (some (.error e), s) => stop { code := e.1, ident := n, layer := layer, va := e.2 } s
    | (some (.ok none), s) => stop { code := 0x22, ident := n, layer := layer, va := 0 } s
    | (some (.ok (some (layers, count))), s) =>
      let fits := fun (e : AdEntry) => decide ((kap + 1) * k ≤ 64 * e.kBlocks) && (!isLast m.kind || decide (nu + 1 ≤ e.nBlocks))
      match readEntries s a core l.ctx l.adTable layer layers count fits ids with
      | (none, s) => s
      | (some (.error f), s) => stop f s
      | (some (.ok es), s) =>
        let need := fun e => needChunks l.ctx layer kap nu k (isLast m.kind) e
        let missing := es.filter (fun e => !(need e).all (haveChunk s core m))
        let todo := es.flatMap (fun e => ((need e).filter (fun t => !haveChunk s core m t)).map (fun t => (e, t)))
        let s := useChunks s core slot (es.flatMap need)
        let fresh := decide (m.steps = 0) && !m.replayBit
        let three := ((missing.map AdEntry.ident).take 3 ++ [0, 0, 0]).take 3
        let (fills, s) := beginFills s core slot m.op todo
        put { m with looked := true, entries := es, slots := if fresh then three else m.slots, fills := fills, order := [] } s
/-- The entry that ADPF names, if it meets no condition of R323; nothing while a read is under way. -/
def adpfEntry (s : State) (a : Agent) (core : Nat) (l : Launch) (ident layer : Nat) : Option (Option AdEntry) × State :=
  if ident = 0 ∨ l.adTable = 0 then (some none, s) else
  match readHeader s a core l.ctx l.adTable with
  | (some (.ok (some (layers, count))), s) => match readEntries s a core l.ctx l.adTable layer layers count (fun _ => true) [ident] with
    | (some (.ok [e]), s) => (some (some e), s)
    | (some _, s) => (some none, s)
    | (none, s) => (none, s)
  | (some _, s) => (some none, s)
  | (none, s) => (none, s)
/-- An ADPF goes on to the fills of its chunks once its table entry has been read; without one it is complete (R332). -/
def adpfStep (core slot : Nat) (s : State) (op : Nat) : State :=
  match skeinOf s core slot, opOf s core slot op with
  | some sk, some o => match o.body with
    | .adpf (some (ident, layer, what)) _ =>
      let l := matLaunch s core sk
      let a : Agent := .chunk core op
      match adpfEntry s a core l ident layer with
      | (none, s) => s
      | (some e, s) =>
        let s := endAgent s a
        let tags := e.elim [] (fun e => (if what = .bm then [] else allChunks l.ctx layer false e) ++ (if what = .am then [] else allChunks l.ctx layer true e))
        let todo := tags.filter (fun t => decide ((adPlace s (dieOf core) (partOf s core) t).isSome) && decide ((adFind s (dieOf core) (partOf s core) t).isNone))
        let (ids, s) := beginFills s core slot op (todo.filterMap (fun t => e.map (fun e => (e, t))))
        if ids = [] then finishOp s core slot op else setOp s core slot op { o with body := .adpf none ids }
    | _ => s
  | _, _ => s
/-- ADAPTER_ENTRIES_READ (R323 to R325, R332): table entries for the matrix instruction in progress, and for ADPFs. -/
def execAdapterEntriesRead (core slot : Nat) (s : State) : Out :=
  event (fun s => match skeinOf s core slot with
    | none => s
    | some sk =>
      let s := match sk.mat with
        | none => s
        | some m => match m.ad with
          | none => s
          | some (layer, kap, nu) => if m.looked || m.fault.isSome || !matRuns s core sk m then s else lookUp s core slot sk m layer kap nu
      (NMap.keys sk.ops).foldl (adpfStep core slot) s) s

/-- A fill has ended for the instruction or the ADPF that asked for it. -/
def fillEnded (s : State) (core : Nat) (f : ChunkFill) (fault : Option MatFault) (direct : Option (List Byte)) : State :=
  let left := ((coreOf s core).chunkFills.filter (fun g => decide (g.slot = f.slot) && decide (g.op = f.op) && decide (g.tag.ident = f.tag.ident))).isEmpty
  let s := updSkein s core f.slot (fun sk => (if fault.isSome ∧ sk.mat.any (fun m => decide (m.op = f.op)) then endStep else id) { sk with mat := sk.mat.map (fun m =>
    if m.op = f.op ∧ f.id ∈ m.fills then
      { m with fills := m.fills.filter (fun i => i ≠ f.id), direct := m.direct ++ (direct.toList.map (fun b => (f.tag, b)))
               order := if left then m.order ++ [f.tag.ident] else m.order, fault := m.fault.or fault }
    else m) })
  match opOf s core f.slot f.op with
  | some o => match o.body with
    | .adpf none l =>
      let l := l.filter (fun i => i ≠ f.id)
      if l = [] then finishOp s core f.slot f.op else setOp s core f.slot f.op { o with body := .adpf none l }
    | _ => s
  | none => s
/-- ADAPTER_CHUNK_FILL: the lines of a chunk are read through their home slices; once they have come the chunk is placed, or served
directly (R121, R324, R329, R332). -/
def execAdapterChunkFill (core slot fill : Nat) (s : State) : Out :=
  event (fun s => match (coreOf s core).chunkFills.find? (fun f => decide (f.id = fill) && decide (f.slot = slot)) with
    | none => s
    | some f =>
      match virtRead s (.chunk core fill) (some core) (dieOf core) (partOf s core) f.tag.ctx f.va (128 * f.lines) (f.lines + 1) with
      | (none, s) => s
      | (some r, s) =>
        let s := updCore s core (fun c => { c with chunkFills := c.chunkFills.filter (fun g => g.id ≠ fill) })
        match r with
        | .error e => fillEnded s core f (some { code := e.1, ident := f.tag.ident, layer := f.tag.layer, va := e.2 }) none
        | .ok bs =>
          let uses := ((skeinOf s core slot).bind Skein.mat).elim false (fun m => decide (m.op = f.op))
          match if f.stale then none else adPut s (dieOf core) (partOf s core) f.tag bs (if uses then [(core, slot)] else []) with
          | some s => fillEnded s core f none none
          | none => fillEnded s core f none (some bs)) s

/-! Units of work (R316, R317, R326). -/

/-- The scaled values of the A operand: a tile, or the down-converted A range (R316, R317). -/
def aVal (s : State) (core : Nat) (sk : Skein) (l : Launch) (kind : MatKind) : Nat → Nat → FVal :=
  match kind with
  | .mma _ a _ _ =>
    let e := tileOf s core a
    let bytes := tileBytesOf s core a (tileSize l e)
    fun i k => scaledAt (entryFmt l e) bytes e.cols i k
  | .mmac _ a _ fs _ =>
    let f := launchSlot l fs
    fun i k => fScale f.2 (fmtDecode f.1 (convCode f (accVal (accOf s core (accStore s core sk.bolt (a + k / 64))).elems i (k % 64))))
  | _ => fun _ _ => .nan
/-- The scaled values of the B operand. -/
def bVal (s : State) (core : Nat) (l : Launch) (kind : MatKind) : Nat → Nat → FVal :=
  match kind with
  | .mma _ _ b _ | .mmac _ _ b _ _ =>
    let e := tileOf s core b
    let bytes := tileBytesOf s core b (tileSize l e)
    fun k j => scaledAt (entryFmt l e) bytes e.cols k j
  | _ => fun _ _ => .nan
/-- acc + RoundF32(t), rounded (R74). DESIGN CHOICE, log entry 83. -/
def accStep (acc : FVal) (t : FVal) : Word := roundW (fAdd false acc (rounded t))
/-- An element of an adapter matrix: row-major index `n` of the matrix. -/
def adElem (bytes : Nat → List Byte) (e : AdEntry) (n : Nat) : FVal :=
  let o := n * adBytes e
  ffDecode (adFF e) (leNat (((bytes (o / 4096)).drop (o % 4096)).take (adBytes e)))
/-- The chunks of an entry's matrix, by number. -/
def adChunks (s : State) (core ctx : Nat) (m : MatOp) (layer : Nat) (isB : Bool) (e : AdEntry) (c : Nat) : List Byte :=
  chunkBytes s core m { ctx := ctx, ident := e.ident, layer := layer, isB := isB, chunk := c }
/-- AdapterStep on a row's entries of the side buffer (R326). -/
def adapterStep (av : Nat → Nat → FVal) (bytes : Nat → List Byte) (e : AdEntry) (kap k i st : Nat) (side : NMap Word) : NMap Word :=
  let span := k / 8
  (List.range e.rank).foldl (fun h r =>
    let t := sumVals ((List.range span).map (fun q => fMul (av i (st * span + q)) (adElem bytes e ((kap * k + st * span + q) * e.rank + r))))
    NMap.insert h (64 * i + r) (accStep (accVal h i r) t)) side
/-- AdapterLast on a row: the accumulator's row, and the cleared side buffer (R326). -/
def adapterLast (bytes : Nat → List Byte) (e : AdEntry) (nu i : Nat) (t : AccTile) : AccTile :=
  let u := fun j => fMul (ffDecode .f32 e.alpha.toNat)
    (sumVals ((List.range e.rank).map (fun r => fMul (accVal t.side i r) (adElem bytes e (r * 64 * e.nBlocks + 64 * nu + j)))))
  { t with elems := (List.range 64).foldl (fun m j => NMap.insert m (64 * i + j) (accStep (accVal t.elems i j) (u j))) t.elems
           side := t.side.filter (fun h => decide (h.1 / 64 ≠ i)) }
/-- Drop listed +0 elements. -/
def normAcc (t : AccTile) : AccTile := { t with elems := t.elems.filter (fun e => e.2 ≠ 0), side := t.side.filter (fun e => e.2 ≠ 0) }
/-- The rows of an identifier. -/
def rowsOf (t : AccTile) (ident : Nat) : List Nat := (List.range 64).filter (fun i => decide (NMap.getD t.tags i 0 = ident))
/-- The hit identifiers: the nonzero ones that are no replay identifier (R325). -/
def hitIds (t : AccTile) (m : MatOp) : List Nat := (identsOf t).filter (fun n => n ∉ m.slots)
/-- A piece of adapter work on each row of some identifiers. -/
def overRows (m : MatOp) (ids : List Nat) (t : AccTile) (f : AdEntry → Nat → AccTile → AccTile) : AccTile :=
  ids.foldl (fun t n => match m.entries.find? (fun e => decide (e.ident = n)) with
    | some e => (rowsOf t n).foldl (fun t i => f e i t) t
    | none => t) t
/-- One base k-step (R316, R317, R74). -/
def kStep (s : State) (core : Nat) (sk : Skein) (m : MatOp) : AccTile :=
  let l := matLaunch s core sk
  let k := kOf (widthOf s core l m.kind)
  let span := k / 8
  let av := aVal s core sk l m.kind
  let bv := bVal s core l m.kind
  let t := accOf s core (dOf s core sk m.kind)
  let prod := fun i j => sumVals ((List.range span).map (fun q => fMul (av i (m.steps * span + q)) (bv (m.steps * span + q) j)))
  let t := { t with elems := elemsOf (fun i j => accStep (accVal t.elems i j) (prod i j)) }
  match m.ad with
  | none => t
  | some (layer, kap, _) =>
    normAcc (overRows m (hitIds t m) t (fun e i t => { t with side := adapterStep av (adChunks s core l.ctx m layer false e) e kap k i m.steps t.side }))
/-- Change D and the instruction after a unit of work. -/
def afterUnit (s : State) (core slot : Nat) (sk : Skein) (m : MatOp) (t : AccTile) (f : MatOp → MatOp) : State :=
  updSkein (updAcc s core (dOf s core sk m.kind) (fun _ => t)) core slot (fun sk => endStep { sk with mat := some (f m) })
/-- The matrix instruction that the unit may work on. -/
def matReady (s : State) (core slot : Nat) : Option (Skein × MatOp) :=
  match skeinOf s core slot with
  | none => none
  | some sk => match sk.mat with
    | none => none
    | some m => if matRuns s core sk m && m.looked then some (sk, m) else none
/-- Every chunk that the hit identifiers need is at hand. -/
def hitsReady (s : State) (core : Nat) (sk : Skein) (m : MatOp) : Bool :=
  let l := matLaunch s core sk
  m.ad.isNone || (hitIds (accOf s core (dOf s core sk m.kind)) m).all (identReady s core l.ctx m (kOf (widthOf s core l m.kind)))
/-- The replay identifier to be worked off next: one of no row, or with its chunks at hand, in the order fills completed; its slot (R316,
R330). -/
def replaySlot (s : State) (core : Nat) (sk : Skein) (m : MatOp) : Option (Nat × Nat) :=
  let l := matLaunch s core sk
  let t := accOf s core (dOf s core sk m.kind)
  let ready := fun (z : Nat) => decide (z ≠ 0) && (decide (rowsOf t z = []) || identReady s core l.ctx m (kOf (widthOf s core l m.kind)) z)
  let rank := fun (z : Nat) => (findIdx? (fun y => decide (y = z)) m.order).elim 0 (fun i => i + 1)
  (leastBy (fun (e : Nat × Nat) => 4 * rank e.2 + e.1) (((List.range m.slots.length).zip m.slots).filter (fun e => ready e.2)))
/-- The units of work of the matrix unit. -/
inductive MatUnit | base | hits | replay (i z : Nat) | retire
  deriving DecidableEq, Repr, Inhabited
/-- The unit of work that the instruction has ready (R316, R318 to R320, R325). -/
def unitOf (s : State) (core : Nat) (sk : Skein) (m : MatOp) : Option MatUnit :=
  if !hasSteps m.kind then some .retire
  else if m.steps < 8 then (if hitsReady s core sk m then some .base else none)
  else if m.ad.isNone then some .retire
  else if !m.replayBit then (if hitsReady s core sk m then some .hits else none)
  else if m.slots.all (fun z => decide (z = 0)) then some .retire
  else (replaySlot s core sk m).map (fun e => .replay e.1 e.2)
/-- The unit of work a skein's matrix instruction may start: the oldest ready one of its quarter by issue time (R313). -/
def matUnit (s : State) (core slot : Nat) : Option (Skein × MatOp × MatUnit) :=
  match matReady s core slot with
  | none => none
  | some (sk, m) => match unitOf s core sk m with
    | none => none
    | some u =>
      if (coreOf s core).skeins.all (fun e => decide (quarterOf e.1 ≠ quarterOf slot) || decide (e.1 = slot) || (match matReady s core e.1 with
          | some (k, n) => decide (m.op < n.op) || (unitOf s core k n).isNone
          | none => true)) then some (sk, m, u) else none
/-- BASE_K_STEP (R316, R325). DEDUCED, log entry 59. -/
def execBaseKStep (core slot : Nat) (s : State) : Out :=
  event (fun s => match matUnit s core slot with
    | some (sk, m, .base) => afterUnit s core slot sk m (kStep s core sk m) (fun m =>
        { m with steps := m.steps + 1, replayBit := m.replayBit || (m.ad.isSome && decide (m.steps = 7) && !isLast m.kind) })
    | _ => s) s
/-- HIT_LAST_TERMS: the `.last` terms of the hit rows, then Replay (R316). DEDUCED, log entry 59. -/
def execHitLastTerms (core slot : Nat) (s : State) : Out :=
  event (fun s => match matUnit s core slot with
    | some (sk, m, .hits) => match m.ad with
      | none => s
      | some (layer, _, nu) =>
        let l := matLaunch s core sk
        let t := accOf s core (dOf s core sk m.kind)
        let t := if isLast m.kind then normAcc (overRows m (hitIds t m) t (fun e i t => adapterLast (adChunks s core l.ctx m layer true e) e nu i t)) else t
        afterUnit s core slot sk m t (fun m => { m with replayBit := true })
    | _ => s) s
/-- The whole adapter work of a replay identifier's rows (R316). -/
def replayWork (s : State) (core : Nat) (sk : Skein) (m : MatOp) (layer kap nu ident : Nat) (t : AccTile) : AccTile :=
  let l := matLaunch s core sk
  let k := kOf (widthOf s core l m.kind)
  let av := aVal s core sk l m.kind
  normAcc (overRows m [ident] t (fun e i t =>
    let t := (List.range 8).foldl (fun (t : AccTile) st => { t with side := adapterStep av (adChunks s core l.ctx m layer false e) e kap k i st t.side }) t
    if isLast m.kind then adapterLast (adChunks s core l.ctx m layer true e) e nu i t else t))
/-- REPLAY_IDENTIFIER_WORK: an identifier slot whose chunks are at hand, or that names no row, is worked off (R316, R330). DEDUCED, log entry 59. -/
def execReplayIdentifierWork (core slot : Nat) (s : State) : Out :=
  event (fun s => match matUnit s core slot with
    | some (sk, m, .replay i z) => match m.ad with
      | none => s
      | some (layer, kap, nu) =>
        let t := accOf s core (dOf s core sk m.kind)
        afterUnit s core slot sk m (if rowsOf t z = [] then t else replayWork s core sk m layer kap nu z t) (fun m => { m with slots := m.slots.set i 0 })
    | _ => s) s
/-- The bytes of a 64 × 64 tile of codes of a width. -/
def packTile (w : Nat) (code : Nat → Nat → Nat) : List Byte :=
  if w = 4 then (List.range 2048).map (fun b => BitVec.ofNat 8 (code (b / 32) (b % 32 * 2) + 16 * code (b / 32) (b % 32 * 2 + 1)))
  else (List.range 4096).flatMap (fun n => leBytes (w / 8) (code (n / 64) (n % 64)))
/-- The effect of ACCZ, ACCL and ACCD, made at retirement (R318 to R320). -/
def accWork (s : State) (core : Nat) (sk : Skein) (m : MatOp) : State :=
  let l := matLaunch s core sk
  match m.kind with
  | .accz _ => updAcc s core (dOf s core sk m.kind) (fun t => { t with elems := [], side := [], tags := [] })
  | .accl _ a =>
    let e := tileOf s core a
    let bytes := tileBytesOf s core a (tileSize l e)
    updAcc s core (dOf s core sk m.kind) (fun t => { t with elems := elemsOf (fun i j => roundW (scaledAt (entryFmt l e) bytes e.cols i j)) })
  | .accd d _ fs =>
    let t := accOf s core (dOf s core sk m.kind)
    let bs := packTile (fmtBits (launchSlot l fs).1) (fun i j => convCode (launchSlot l fs) (accVal t.elems i j))
    fillDone (setTileBytes s core ((tileOf s core d).base * 128) bs) core d false false
  | _ => s
/-- MATRIX_RETIRE (R316, R318 to R320): every unit of work is done. DEDUCED, log entry 59. -/
def execMatrixRetire (core slot : Nat) (s : State) : Out :=
  event (fun s => match matUnit s core slot with
    | some (sk, m, .retire) => endMatrix (accWork s core sk m) core slot
    | _ => s) s

/-! ADPF. -/

/-- ADPF (R332): its table entry is read after its issue; it raises no trap for its registers. DEDUCED, log entry 80. -/
def execAdpf (c : Ctl) (a b : Src) (what : AdpfWhat) (s : State) : Out :=
  issue { guard := .coll, quiet := true } (Instr.use (.adpf c a b what)) c noEarly (fun x s =>
    if !counterRoom x 7 || !flagRoom x c then stall x .other s
    else
      let ident := (srcWord x a (oneOf x)).toNat % 65536
      let layer := (srcWord x b (oneOf x)).toNat % 256
      retire x (beginOp x c { cls := .async, path := x.path, counter := some 7, body := .adpf (some (ident, layer, what)) [] } s).2) s

end Sys2Proof.Machine
end

