-- ==== Sys2Proof/Machine/Pipes.lean ====
section
/-! DEFINITION. Pipes: PPUSH, PPOP, PSTAT, PWAIT, PCLOSE and PREOPEN at issue, and what a pipe's home does (spec/06 R129 to
R141, 07 R179 to R184). -/

namespace Sys2Proof.Machine

/-! Handles, directions, types (R172, R179). -/

/-- The plan, the stage and the pipe that a handle names: the launch record binds it and the grid is a stage of a plan that has
not ended (R172, R378). -/
def pipeBind (s : State) (x : Ctx) (q : Nat) : Option (Nat × Nat × Nat × Pipe) :=
  (gridOf s x.core x.sk.bolt).bind (fun g => g.plan.bind (fun ps => (NMap.get? s.plans ps.1).bind (fun p =>
    let n := g.launch.handles.getD q 255
    if p.state = .running ∨ p.state = .stopping then (NMap.get? p.pipes n).map (fun pp => (ps.1, ps.2, n, pp)) else none)))
/-- The stage is the pipe's producer, or its consumer, on this package. -/
def isProducer (p : Pipe) (st : Nat) : Bool := decide (p.producer = st) && !(p.remote && p.homeHere)
def isConsumer (p : Pipe) (st : Nat) : Bool := decide (p.consumer = st) && p.homeHere
/-- A tile's entry matches a pipe's type (R179). -/
def tileMatches (l : Launch) (e : TileEntry) (p : Pipe) : Bool :=
  let slotIs := fun (n c : Nat) => decide (field (l.fslots.getD n 0).toNat 0 8 = c) && decide (field (l.fslots.getD n 0).toNat 8 8 = 0)
  decide (e.rows = p.rows) && decide (e.cols = p.cols) &&
  (match e.useSlot, p.useSlot with
   | true, true => decide (e.slot = p.fslot)
   | false, false => decide (e.fmt = p.fmt)
   | true, false => slotIs e.slot p.fmt
   | false, true => slotIs p.fslot e.fmt)
/-- Traps 3 to 6 of R172; `push` says the direction that the instruction needs, if it needs one. -/
def pipeEarly (q : Nat) (push : Option Bool) (ts : List Nat) (x : Ctx) (s : State) : Option TrapInfo :=
  (allotEarly ts x s).or (match pipeBind s x q with
    | none => some { code := 0x0B }
    | some (_, st, _, p) =>
      if (match push with | some true => !isProducer p st | some false => !isConsumer p st | none => false) then some { code := 0x0C }
      else if ts.any (fun t => !tileMatches (x.launch s) (tileOf s x.core t) p) then some { code := 0x0D }
      else none)

/-! Counters (06 Table 2). -/

/-- A slot is writing or held. -/
def pushOpen (p : Pipe) : Bool := p.slots.any (fun e => decide (e.2.state = .writing) || decide (e.2.state = .held))
/-- Nothing is left in a closed pipe: at the home C = 0; on a producer package every credit is back and the last one carried C = 0. -/
def nothingLeft (p : Pipe) : Bool :=
  !pushOpen p && (if p.homeHere then decide (p.filled = 0) else decide (p.mirror = p.depth) && decide (p.mirrorFilled = 0))
/-- A closed pipe with nothing filled, writing or held is exhausted, and no longer is once a tile has come back (R136, R189). DEDUCED, log entry 54. -/
def settlePipe (s : State) (plan pipe : Nat) : State :=
  updPipe s plan pipe (fun p =>
    if p.state = .closed ∧ nothingLeft p then { p with state := .exhausted }
    else if p.state = .exhausted ∧ !nothingLeft p then { p with state := .closed }
    else p)
/-- F rises by k; a home that serves another package sends as many credits, each with the current C (R140). -/
def raiseFree (s : State) (plan pipe k : Nat) : State :=
  match pipeOf s plan pipe with
  | none => s
  | some p =>
    if p.homeHere then
      let s := updPipe s plan pipe (fun p => { p with free := p.free + k })
      if p.remote then (List.range k).foldl (fun s _ => podSend s { dest := p.remotePkg, vc := p.vc, msg := .credit plan p.remotePipe p.filled }) s else s
    else updPipe s plan pipe (fun p => { p with mirror := p.mirror + k })
/-- The slot's number is free: the lowest (R132). DEDUCED, log entry 51. -/
def freeSlot (p : Pipe) : Nat := ((List.range p.depth).find? (fun j => decide ((NMap.getD p.slots j {}).state = .free))).getD 0
/-- A push has reserved: a free slot becomes writing. DEDUCED, log entry 51. -/
def reservePush (p : Pipe) (slot : Nat) : Pipe :=
  let p := if p.homeHere then { p with free := p.free - 1 } else { p with mirror := p.mirror - 1 }
  { p with slots := NMap.insert p.slots slot { state := .writing } }
/-- The tile of a slot is committed: it joins the queue's tail. -/
def commitSlot (p : Pipe) (slot : Nat) : Pipe :=
  let sl := NMap.getD p.slots slot {}
  { p with filled := p.filled + 1, slots := NMap.insert p.slots slot { sl with state := .filled, tag := none }
           queue := p.queue ++ [{ spilled := false, slot := slot, taken := false, poison := sl.poison }] }
/-- Committed pushes, together: at the home, or by one message from a producer package, whose slot numbers are then free again (R140, R188). -/
def commitPush (s : State) (plan pipe : Nat) (slots : List Nat) : State :=
  match pipeOf s plan pipe with
  | none => s
  | some p =>
    if slots = [] then s else
    let s := if p.homeHere then updPipe s plan pipe (fun p => slots.foldl commitSlot p)
      else podSend (updPipe s plan pipe (fun p => { p with slots := slots.foldl NMap.erase p.slots })) { dest := p.remotePkg, vc := p.vc, msg := .pipeCommit plan p.remotePipe slots }
    settlePipe s plan pipe
def sameTile (spilled : Bool) (slot : Nat) (t : PipeTile) : Bool := (t.spilled == spilled) && decide (t.slot = slot)
/-- The popped tile leaves the pipe: its slot is free, or its spill slot is released (06 Table 2). -/
def releaseTile (s : State) (plan pipe slot : Nat) (spilled : Bool) : State :=
  let s := updPipe s plan pipe (fun p => { p with queue := p.queue.filter (fun t => !sameTile spilled slot t) })
  if spilled then
    let s := updPipe s plan pipe (fun p => { p with spilled := p.spilled - 1 })
    { s with plans := nupdate s.plans plan (fun p => { p with spillUsed := p.spillUsed.filter (fun u => u ≠ slot) }) }
  else raiseFree (updPipe s plan pipe (fun p => { p with slots := NMap.erase p.slots slot })) plan pipe 1
/-- A reserved or retained tile returns to its place in the queue. DEDUCED, log entry 54. -/
def returnTile (s : State) (plan pipe slot : Nat) (spilled : Bool) : State :=
  settlePipe (updPipe s plan pipe (fun p =>
    { p with filled := p.filled + 1, queue := mapIf (sameTile spilled slot) (fun t => { t with taken := false }) p.queue
             slots := if spilled then p.slots else NMap.insert p.slots slot { NMap.getD p.slots slot {} with state := .filled } })) plan pipe
/-- A slot that a push had reserved becomes free before a line of it was sent. -/
def unreserve (s : State) (plan pipe slot : Nat) : State :=
  settlePipe (raiseFree (updPipe s plan pipe (fun p => { p with slots := NMap.erase p.slots slot })) plan pipe 1) plan pipe
/-- A slot that a discarded task held becomes free (06 Table 2): the home of another package is told, and its credit comes back (R140). -/
def freePush (s : State) (plan pipe slot : Nat) : State :=
  match pipeOf s plan pipe with
  | none => s
  | some p =>
    if p.homeHere then unreserve s plan pipe slot
    else settlePipe (podSend (updPipe s plan pipe (fun p => { p with slots := NMap.erase p.slots slot })) { dest := p.remotePkg, vc := p.vc, msg := .pipeDrop p.remotePipe slot }) plan pipe
def stampHome (s : State) (plan pipe : Nat) : State := updPipe s plan pipe (fun p => { p with lastOp := some s.clock })

/-! Counter messages (R139). -/

/-- A counter message of a pipe, anywhere on its way; and one that has arrived. -/
def msgOf (s : State) (plan pipe : Nat) (m : PipeMsg) : Option Req :=
  s.reqs.find? (fun r => decide (r.pipe = some (plan, pipe)) && decide (r.kind = .msg m))
def msgHere (s : State) (plan pipe : Nat) (m : PipeMsg) : Option Req :=
  s.reqs.find? (fun r => decide (r.pipe = some (plan, pipe)) && decide (r.kind = .msg m) && decide (r.stage = .done))
/-- A message from a core's die to the pipe's home, or back. -/
def toHome (s : State) (m : PipeMsg) (plan pipe : Nat) (p : Pipe) (core : Nat) : State := postMsg s m plan pipe (dieOf core) p.homeDie
def toCore (s : State) (m : PipeMsg) (plan pipe : Nat) (p : Pipe) (core : Nat) : State := postMsg s m plan pipe p.homeDie (dieOf core)

/-! Waiting operations. -/

def waitOf (x : Ctx) (w : PipeWait) : Bool := decide (w.core = x.core) && decide (w.slot = x.slot) && decide (w.path = x.path)
/-- The operation's path still waits there. -/
def waitLive (s : State) (k : WaitKind) (w : PipeWait) : Bool :=
  match ((skeinOf s w.core w.slot).bind (fun sk => NMap.get? sk.paths w.path)).bind Path.wait with
  | some (v, _) => decide (v = k)
  | none => false
/-- The waiting operation to serve next: the oldest, then the lowest port. -/
def nextWait (s : State) (k : WaitKind) (l : List PipeWait) : Option PipeWait :=
  leastBy (fun w => 64 * w.since + w.port) (l.filter (fun w => decide (w.granted = none) && waitLive s k w))
/-- Change a list of waits where it names a wait. -/
def setWait (w : PipeWait) (g : Nat × Bool) (l : List PipeWait) : List PipeWait := mapIf (fun v => decide (v = w)) (fun v => { v with granted := some g }) l
def Pipe.waits (p : Pipe) (push : Bool) : List PipeWait := if push then p.pushWaits else p.popWaits
/-- The skein has asked the home; what the home has reserved for it, once the answer is there (R139). -/
def asked (s : State) (x : Ctx) (plan pipe : Nat) (p : Pipe) (push : Bool) : Bool :=
  (p.waits push).any (waitOf x) || (msgOf s plan pipe (.ask x.core x.slot x.path push)).isSome
def grantFor (s : State) (x : Ctx) (plan pipe : Nat) (p : Pipe) (push : Bool) : Option (Nat × Bool) :=
  match ((p.waits push).find? (waitOf x)).bind PipeWait.granted with
  | some g => if !farHome p x.core || (msgHere s plan pipe (.grant x.core x.slot x.path push)).isSome then some g else none
  | none => none
/-- The skein asks the home: at once on its die, else by a message. -/
def askHome (s : State) (x : Ctx) (plan pipe : Nat) (p : Pipe) (push : Bool) : State :=
  if farHome p x.core then toHome s (.ask x.core x.slot x.path push) plan pipe p x.core
  else
    let w : PipeWait := { core := x.core, slot := x.slot, path := x.path, since := s.clock, port := portOf x.core, granted := none }
    updPipe s plan pipe (fun p => if push then { p with pushWaits := p.pushWaits ++ [w] } else { p with popWaits := p.popWaits ++ [w] })
/-- The ask is over: it has issued, or the instruction has trapped. -/
def endAsk (x : Ctx) (plan pipe : Nat) (push : Bool) (s : State) : State :=
  let s := updPipe s plan pipe (fun p => if push then { p with pushWaits := p.pushWaits.filter (fun w => !waitOf x w) } else { p with popWaits := p.popWaits.filter (fun w => !waitOf x w) })
  { s with reqs := s.reqs.filter (fun r => r.kind ≠ .msg (.ask x.core x.slot x.path push) ∧ r.kind ≠ .msg (.grant x.core x.slot x.path push)) }
/-- Asks that have come to the home from other dies wait there from their arrival on (R135). -/
def takeAsks (s : State) (plan pipe : Nat) : State :=
  let here := s.reqs.filter (fun r => decide (r.pipe = some (plan, pipe)) && decide (r.stage = .done) && (match r.kind with | .msg (.ask _ _ _ _) => true | _ => false))
  here.foldl (fun s r => match r.kind with
    | .msg (.ask core slot path push) =>
      let w : PipeWait := { core := core, slot := slot, path := path, since := r.since, port := inPort r, granted := none }
      updPipe (dropReq s r.id) plan pipe (fun p => if push then { p with pushWaits := p.pushWaits ++ [w] } else { p with popWaits := p.popWaits ++ [w] })
    | _ => s) s
/-- Forget what a skein has asked of the pipes and no home has reserved (R161, R415); what has been reserved issues (`mayIssue`). DEDUCED, log entry 52. -/
def dropPipeWaits (core slot : Nat) (s : State) : State :=
  let mine := fun (w : PipeWait) => decide (w.core = core) && decide (w.slot = slot) && w.granted.isNone
  let s : State := { s with reqs := s.reqs.filter (fun r => match r.kind with
    | .msg (.ask c k _ _) => !(decide (c = core) && decide (k = slot))
    | _ => true) }
  s.plans.foldl (fun s pl => pl.2.pipes.foldl (fun s e =>
    updPipe s pl.1 e.1 (fun p => { p with pushWaits := p.pushWaits.filter (fun w => !mine w), popWaits := p.popWaits.filter (fun w => !mine w) })) s) s
def closedPipe (p : Pipe) : Bool := decide (p.state = .closed) || decide (p.state = .exhausted)

/-! Instructions. -/

/-- What a push or pop that has reserved still waits for: an operation in progress on its tile. -/
def grantWait (s : State) (x : Ctx) (t : Nat) (source : Bool) : Option (Nat × Bool) :=
  if (tileOf s x.core t).state = .empty then none else tileWait s x (if source then [t] else []) (if source then [] else [t])
/-- PPUSH (R180): the skein asks the home for a slot and, once it is reserved, issues the copy. -/
def execPpush (c : Ctl) (a q : Nat) (s : State) : Out :=
  issue { guard := .coll } {} c (pipeEarly q (some true) [a]) (fun x s =>
    match pipeBind s x q with
    | none => s
    | some (pl, _, n, p) =>
      match grantFor s x pl n p true with
      | some g =>
        if memHeld x true true || !copyRoom s x c 2 then stall x .other s
        else match grantWait s x a true with
          | some w => stall x (.tile x.core w.1 w.2) s
          | none => retire x (beginCopy x c 2 (fun k => { k with kind := .ppush pl n g.1, tile := a, tileA := a, total := p.lines }) (startDrain (endAsk x pl n true s) x.core a))
      | none => match reportAt x (fun f => decide (f.tile = a)) (matTile x.sk a) s with
      | some s => s
      | none =>
        if ((p.waits true).find? (waitOf x)).bind PipeWait.granted ≠ none then stall x (.pipeFree pl n) s
        else if closedPipe p then trapX x { code := 0x0F } (endAsk x pl n true s)
        else if tilePoison s x.core [a] then trapX x { code := 0x20 } (endAsk x pl n true s)
        else if asked s x pl n p true then stall x (.pipeFree pl n) s
        else if memHeld x true true || !copyRoom s x c 2 then stall x .other s
        else match tileWait s x [a] [] with
          | some w => stall x (.tile x.core w.1 w.2) s
          | none => stall x (.pipeFree pl n) (askHome s x pl n p true)) s
/-- The tile is being spilled (R158). -/
def spilling (p : Pipe) (slot : Nat) : Bool := decide (p.spill.map Prod.fst = some slot)
/-- PPOP (R181): the skein asks the home for the head tile; on an exhausted pipe it retires with an empty tile. -/
def execPpop (c : Ctl) (d q : Nat) (s : State) : Out :=
  issue { guard := .coll } {} c (pipeEarly q (some false) [d]) (fun x s =>
    match pipeBind s x q with
    | none => s
    | some (pl, _, n, p) =>
      match grantFor s x pl n p false with
      | some g =>
        if memHeld x true true || !copyRoom s x c 3 || (!g.2 && spilling p g.1) then stall x .other s
        else match grantWait s x d false with
          | some w => stall x (.tile x.core w.1 w.2) s
          | none => retire x (beginCopy x c 3 (fun k => { k with kind := .ppop pl n g.1 g.2, tile := d, tileA := d, total := p.lines }) (startFill (endAsk x pl n false s) x.core d))
      | none => match reportAt x (fun f => decide (f.tile = d)) (matTile x.sk d) s with
      | some s => s
      | none =>
        match tileWait s x [] [d] with
        | some w => stall x (.tile x.core w.1 w.2) s
        | none =>
          if ((p.waits false).find? (waitOf x)).bind PipeWait.granted ≠ none then stall x (.pipeFilled pl n) s
          else if p.state = .exhausted then if memHeld x true true then stall x .other s else retire x (emptyTile (endAsk x pl n false s) x.core d)
          else if asked s x pl n p false then stall x (.pipeFilled pl n) s
          else if memHeld x true true || !copyRoom s x c 3 then stall x .other s
          else stall x (.pipeFilled pl n) (askHome s x pl n p false)) s
/-- PSTAT (R182): the query goes to the home; LOAD_REPLY brings its answer. -/
def execPstat (c : Ctl) (d q : Nat) (what : PstatWhat) (s : State) : Out :=
  issue { guard := .coll } (Instr.use (.pstat c d q what)) c (pipeEarly q none []) (fun x s =>
    match pipeBind s x q with
    | none => s
    | some (pl, _, n, p) =>
      if memHeld x false true || !flagRoom x c then stall x .other s
      else
        let (op, s) := beginOp x c { cls := .memory, path := x.path, pend := [.k d], isLoad := true, body := .pstat d pl n what } s
        retire x (if farHome p x.core then toHome s (.query x.core x.slot op) pl n p x.core else s)) s
/-- PWAIT (R183). -/
def execPwait (c : Ctl) (q : Nat) (filled : Bool) (s : State) : Out :=
  issue { guard := .coll } {} c (pipeEarly q none []) (fun x s =>
    match pipeBind s x q with
    | none => s
    | some (pl, _, n, p) =>
      let met := if filled then decide (0 < pstatValue p .filled) || decide (p.state = .exhausted)
        else decide (0 < pstatValue p .free) || closedPipe p
      if memHeld x false false || !flagRoom x c then stall x .other s
      else if met && decide (p.state ≠ .stopped) then retire x s
      else stall x (if filled then .pipeFilled pl n else .pipeFree pl n) s) s
/-- PCLOSE and PREOPEN: the change goes to the home; the operation completes once the home has applied it (R36, R184). -/
def changePipe (c : Ctl) (q : Nat) (close : Bool) (s : State) : Out :=
  issue { guard := .coll } {} c (pipeEarly q (some true) []) (fun x s =>
    match pipeBind s x q with
    | none => s
    | some (pl, _, n, p) =>
      if memHeld x false false || !flagRoom x c then stall x .other s
      else
        let (op, s) := beginOp x c { cls := .collective, path := x.path, body := .change } s
        retire x (if farHome p x.core then toHome s (.change x.core x.slot op close) pl n p x.core
          else updPipe s pl n (fun p => { p with changes := p.changes ++ [{ who := some (x.core, x.slot, op), close := close }] }))) s
/-- PCLOSE (R184). -/
def execPclose (c : Ctl) (q : Nat) (s : State) : Out := changePipe c q true s
/-- PREOPEN (R184). -/
def execPreopen (c : Ctl) (q : Nat) (s : State) : Out := changePipe c q false s

/-! The home: at most one operation of a pipe in a reference clock, in order of arrival (R135). -/

/-- The home performs at most one operation per pipe in each reference clock (R135). DEDUCED, log entry 52. -/
def homeTurn (s : State) (p : Pipe) : Bool := decide (p.lastOp ≠ some s.clock)
/-- The rank of an operation: arrival, then kind (0 commit, 1 completion, 2 pop, 3 push), then port. -/
def opKey (arrival kind port : Nat) : Nat := (4 * arrival + kind) * 16 + port
/-- When, and by which port, the commit or completion of a copy has come to the home; none while it is on its way or performed. -/
def copyArrival (s : State) (plan pipe : Nat) (p : Pipe) (core : Nat) (c : Copy) (push : Bool) : Option (Nat × Nat) :=
  if !c.moved || c.closed || !haltTurn s core c then none
  else if !farHome p core then some (c.movedAt, portOf core)
  else (msgHere s plan pipe (if push then .commit core c.op else .popped core c.op)).map (fun r => (r.since, inPort r))
/-- The rank of a copy's commit or completion at a pipe. -/
def copyKey (s : State) (plan pipe : Nat) (p : Pipe) (core : Nat) (c : Copy) : Option Nat :=
  match c.kind with
  | .ppush pl n _ => if pl = plan ∧ n = pipe then (copyArrival s plan pipe p core c true).map (fun a => opKey a.1 0 a.2) else none
  | .ppop pl n _ _ => if pl = plan ∧ n = pipe then (copyArrival s plan pipe p core c false).map (fun a => opKey a.1 1 a.2) else none
  | _ => none
/-- The slot of the home that a push of the producer package names. -/
def tagSlot (p : Pipe) (tag : Nat) : Option Nat := (p.slots.find? (fun e => decide (e.2.tag = some tag))).map Prod.fst
/-- The rank of what has come first from the producer package: a commit, or the first line of a push. -/
def inboxKey (p : Pipe) : Option Nat :=
  match p.inbox.head? with
  | some (.commit _, t) | some (.drop _, t) => some (opKey t 0 15)
  | some (.line tag _ _, t) => if (tagSlot p tag).isNone && decide (0 < p.free) then some (opKey t 3 15) else none
  | _ => none
/-- A push can reserve (R135), and the wait it serves; a pop likewise with its tile. -/
def pushNext (s : State) (plan pipe : Nat) (p : Pipe) : Option PipeWait :=
  if p.state ≠ .opened ∨ pstatValue p .free = 0 then none else nextWait s (.pipeFree plan pipe) p.pushWaits
def popNext (s : State) (plan pipe : Nat) (p : Pipe) : Option (PipeTile × PipeWait) :=
  if p.state = .stopped then none else
  (p.queue.find? (fun t => !t.taken)).bind (fun t => (nextWait s (.pipeFilled plan pipe) p.popWaits).map (fun w => (t, w)))
/-- The ranks of the publications of tasks that hold something of the pipe, as commits (R188). -/
def taskKeys (s : State) (plan pipe : Nat) : List Nat :=
  s.cores.flatMap (fun c => c.2.skeins.filterMap (fun e => match e.2.publish with
    | some (.ready t) => if e.2.held.any (fun h => decide (h.2.1 = plan) && decide (h.2.2.1 = pipe)) then some (opKey t 0 (portOf c.1)) else none
    | _ => none))
/-- The rank of a spill step whose lines have all been written: with the push reservations of its clock, at the system port. DESIGN
CHOICE, log entry 103. -/
def spillKey (p : Pipe) : Nat := opKey p.spillSince 3 15
/-- The ranks of the operations that the home could perform now. DEDUCED, log entry 52. -/
def homeKeys (s : State) (plan pipe : Nat) (p : Pipe) : List Nat :=
  (if p.spill.isSome ∧ p.spillStep = 3 then [spillKey p] else []) ++ taskKeys s plan pipe ++ s.cores.flatMap (fun c => c.2.copyq.filterMap (copyKey s plan pipe p c.1)) ++ (inboxKey p).toList ++
  ((popNext s plan pipe p).map (fun e => opKey e.2.since 2 e.2.port)).toList ++ ((pushNext s plan pipe p).map (fun w => opKey w.since 3 w.port)).toList
/-- It is the operation's turn at the home (R135). -/
def myTurn (s : State) (plan pipe : Nat) (p : Pipe) (key : Nat) : Bool := homeTurn s p && (homeKeys s plan pipe p).all (fun k => decide (key ≤ k))

/-- Close or reopen a pipe (R136, R184). -/
def setPipeState (s : State) (plan pipe : Nat) (close : Bool) : State :=
  settlePipe (updPipe s plan pipe (fun p =>
    if close then (if p.state = .opened then { p with state := .closed } else p)
    else if closedPipe p then { p with state := .opened } else p)) plan pipe
/-- The instruction of a change completes: at once on the home's die, else by a message (R139, R184). -/
def endChange (s : State) (plan pipe : Nat) (p : Pipe) (h : PipeChange) : State :=
  match h.who with
  | none => s
  | some (core, slot, op) => if farHome p core then toCore s (.changed core slot op) plan pipe p core else finishOp s core slot op
/-- Changes that have come from other dies join those of the home's own. -/
def takeChanges (s : State) (plan pipe : Nat) : State :=
  let here := s.reqs.filter (fun r => decide (r.pipe = some (plan, pipe)) && decide (r.stage = .done) && (match r.kind with | .msg (.change _ _ _ _) => true | _ => false))
  here.foldl (fun s r => match r.kind with
    | .msg (.change core slot op close) =>
      updPipe (dropReq s r.id) plan pipe (fun p => { p with changes := p.changes ++ [{ who := some (core, slot, op), close := close }] })
    | _ => s) s
/-- The first change that the home has not been sent. -/
def nextChange (p : Pipe) : Option PipeChange := p.changes.find? (fun h => !h.sent)
/-- Apply the first change. A producer package passes it on to the home, a close only once no push is left that has reserved and has not
committed or been held: those complete normally (R184). DEDUCED, log entry 54. -/
def applyChange (s : State) (plan pipe : Nat) (p : Pipe) : State :=
  match nextChange p with
  | none => s
  | some h =>
    let s := setPipeState s plan pipe h.close
    if p.homeHere then endChange (updPipe s plan pipe (fun p => { p with changes := p.changes.erase h })) plan pipe p h
    else if h.close && p.slots.any (fun e => decide (e.2.state = .writing)) then s
    else podSend (updPipe s plan pipe (fun p => { p with changes := (p.changes.filter (fun k => k.sent)) ++ { h with sent := true } :: (p.changes.filter (fun k => !k.sent)).erase h }))
      { dest := p.remotePkg, vc := p.vc, msg := .pipeState p.remotePipe h.close }
/-- PIPE_HOME_STATE_CHANGE (R136, R184): what has come is applied; an answer that has come to the issuing die completes its instruction. -/
def execPipeHomeStateChange (plan pipe : Nat) (s : State) : Out :=
  event (fun s =>
    match s.reqs.find? (fun r => decide (r.pipe = some (plan, pipe)) && decide (r.stage = .done) && (match r.kind with | .msg (.changed _ _ _) => true | _ => false)) with
    | some r => (match r.kind with
      | .msg (.changed core slot op) => finishOp (dropReq s r.id) core slot op
      | _ => s)
    | none =>
      let s := takeChanges s plan pipe
      match pipeOf s plan pipe with
      | none => s
      | some p => match p.inbox with
        | (.state close, _) :: r =>
          podSend (setPipeState (updPipe s plan pipe (fun p => { p with inbox := r })) plan pipe close) { dest := p.remotePkg, vc := p.vc, msg := .pipeApplied p.remotePipe }
        | _ => applyChange s plan pipe p) s
/-- A stage has completed: each pipe whose producer it is closes (R136). -/
def closeStagePipe (s : State) (plan pipe : Nat) (p : Pipe) : State :=
  if p.homeHere then setPipeState s plan pipe true
  else updPipe s plan pipe (fun p => { p with changes := p.changes ++ [{ who := none, close := true }] })

/-- A line of a pipe slot goes to its home slice from the system port: one that has come from another package (R106, R140). -/
def postLine (s : State) (plan pipe : Nat) (p : Pipe) (slot i : Nat) (bs : List Byte) : State :=
  let r : Req :=
    { id := s.nextId, kind := .slotWrite slot i (lineOf 0 bs), who := .system, line := 0, policy := .keep
      owner := ((NMap.get? s.plans plan).map Plan.part).getD 8, pipe := some (plan, pipe), die := p.homeDie, port := 15, homeDie := p.homeDie
      homeSlice := slotSlice s p slot i, stage := .port, since := s.clock, reservedEntry := false, way := 0, rdata := 0, rpoison := 0, rold := 0, stamp := 0 }
  { s with reqs := s.reqs ++ [r], nextId := s.nextId + 1 }
/-- The first thing that has come from the producer package is a line: a new push takes a slot, a line goes to its slice. -/
def inboxLine (s : State) (plan pipe : Nat) (p : Pipe) : State :=
  match p.inbox with
  | (.line tag i bs, t) :: r => match tagSlot p tag with
    | some j => postLine (updPipe s plan pipe (fun p => { p with inbox := r })) plan pipe p j i bs
    | none =>
      if p.free = 0 ∨ !myTurn s plan pipe p (opKey t 3 15) then s else
      let j := freeSlot p
      stampHome (postLine (updPipe s plan pipe (fun p =>
        { p with inbox := r, free := p.free - 1, slots := NMap.insert p.slots j { state := .writing, tag := some tag } })) plan pipe p j i bs) plan pipe
  | _ => s
/-- Lines of a slot that its slices have not yet accepted. -/
def slotWriting (s : State) (plan pipe slot : Nat) : Bool :=
  s.reqs.any (fun r => decide (r.pipe = some (plan, pipe)) && r.onWay && (match r.kind with | .slotWrite k _ _ => decide (k = slot) | _ => false))
/-- The first thing that has come from the producer package is a commit, of all the slots a task held at once, or the end of a push of a
discarded task (R188). -/
def inboxCommit (s : State) (plan pipe : Nat) (p : Pipe) : State :=
  match p.inbox with
  | (m, t) :: r =>
    let tags := match m with | .commit tags => tags | .drop tag => [tag] | _ => []
    let js := tags.filterMap (tagSlot p)
    if tags = [] ∨ js.length ≠ tags.length ∨ js.any (slotWriting s plan pipe) || !myTurn s plan pipe p (opKey t 0 15) then s else
    let s := stampHome (updPipe s plan pipe (fun p => { p with inbox := r })) plan pipe
    match m with
    | .commit _ => settlePipe (updPipe s plan pipe (fun p => js.foldl commitSlot p)) plan pipe
    | _ => js.foldl (fun s j => unreserve s plan pipe j) s
  | [] => s
/-- The home answers a core on another die (R139). -/
def answerGrant (s : State) (plan pipe : Nat) (p : Pipe) (w : PipeWait) (push : Bool) : State :=
  if farHome p w.core then toCore s (.grant w.core w.slot w.path push) plan pipe p w.core else s
/-- PIPE_PUSH_RESERVE (06 Table 2): the oldest waiting push takes a free slot, or a credit of the mirror; at the home of another package's
pushes, a line that has come takes its place. DEDUCED, log entry 51. DEDUCED, log entry 52. -/
def execPipePushReserve (plan pipe : Nat) (s : State) : Out :=
  event (fun s =>
    let s := takeAsks s plan pipe
    match pipeOf s plan pipe with
    | none => s
    | some p =>
      if p.remote && p.homeHere then inboxLine s plan pipe p else
      match pushNext s plan pipe p with
      | none => s
      | some w =>
        if !myTurn s plan pipe p (opKey w.since 3 w.port) then s else
        let slot := freeSlot p
        answerGrant (stampHome (updPipe s plan pipe (fun p => { reservePush p slot with pushWaits := setWait w (slot, false) p.pushWaits })) plan pipe) plan pipe p w true) s
/-- PIPE_POP_RESERVE (R134): the oldest waiting pop takes the oldest unreserved tile. -/
def execPipePopReserve (plan pipe : Nat) (s : State) : Out :=
  event (fun s =>
    let s := takeAsks s plan pipe
    match pipeOf s plan pipe with
    | none => s
    | some p => match popNext s plan pipe p with
      | none => s
      | some (t, w) =>
        if !myTurn s plan pipe p (opKey w.since 2 w.port) then s else
        let s := updPipe s plan pipe (fun p =>
          { p with filled := p.filled - 1, queue := mapIf (sameTile t.spilled t.slot) (fun t => { t with taken := true }) p.queue
                   slots := if t.spilled then p.slots else NMap.insert p.slots t.slot { NMap.getD p.slots t.slot {} with state := .reading }
                   popWaits := setWait w (t.slot, t.spilled) p.popWaits })
        answerGrant (settlePipe (stampHome s plan pipe) plan pipe) plan pipe p w false) s
/-- The copy of an engine that has moved its last line. -/
def movedCopy (s : State) (core op : Nat) : Option Copy := (coreOf s core).copyq.find? (fun c => decide (c.op = op) && c.moved)
/-- The home performs the commit or completion of a copy when its turn comes; from another die it travels there by a message, and the
answer closes the copy (R135, R139). -/
def performAt (s : State) (core : Nat) (c : Copy) (plan pipe : Nat) (push : Bool) (act close : State → State) : State :=
  match pipeOf s plan pipe with
  | none => close s
  | some p =>
    if !haltTurn s core c then s
    else if c.closed then match msgHere s plan pipe (.finished core c.op) with
      | some r => close (dropReq s r.id)
      | none => s
    else
      let m : PipeMsg := if push then .commit core c.op else .popped core c.op
      match copyKey s plan pipe p core c with
      | none => if c.told then s else toHome (updCopy s core c.op (fun k => { k with told := true })) m plan pipe p core
      | some key =>
        if !myTurn s plan pipe p key then s else
        let s := act (stampHome s plan pipe)
        match msgHere s plan pipe m with
        | some r => toCore (updCopy (dropReq s r.id) core c.op (fun k => { k with closed := true })) (.finished core c.op) plan pipe p core
        | none => close s
/-- PIPE_PUSH_COMMIT (R133): the slot is filled, or held inside the task that was open when the push issued. Of a plan's pipe
the home performs the commit of a push from the producer package (R140). DEDUCED, log entry 52. -/
def execPipePushCommit (core : Nat) (op : PushRef) (s : State) : Out :=
  event (fun s => match op with
  | .home pipe => ((pipeOf s core pipe).map (inboxCommit s core pipe)).getD s
  | .op n => match movedCopy s core n with
    | none => s
    | some c => match c.kind with
      | .ppush plan pipe slot =>
        performAt s core c plan pipe true (fun s =>
          if c.inTask then
            let s := updPipe s plan pipe (fun p => { p with slots := NMap.insert p.slots slot { NMap.getD p.slots slot {} with state := .held } })
            updSkein s core c.slot (fun sk => { sk with held := sk.held ++ [(true, plan, pipe, slot)] })
          else commitPush s plan pipe [slot]) (fun s => closeCopy (drainDone s core c.tile false) core c)
      | _ => s) s
/-- PIPE_POP_COMPLETE (R133): the slot is free or retained, and the tile is ready. -/
def execPipePopComplete (core op : Nat) (s : State) : Out :=
  event (fun s => match movedCopy s core op with
    | none => s
    | some c => match c.kind with
      | .ppop plan pipe slot sp =>
        performAt s core c plan pipe false (fun s =>
          if c.inTask then
            let s := if sp then s else updPipe s plan pipe (fun p => { p with slots := NMap.insert p.slots slot { NMap.getD p.slots slot {} with state := .retained } })
            updSkein s core c.slot (fun sk => { sk with held := sk.held ++ [(false, plan, pipe, 2 * slot + (if sp then 1 else 0))] })
          else releaseTile s plan pipe slot sp) (fun s => closeCopy (fillDone s core c.tile c.poison (decide (c.faultCode ≠ 0))) core c)
      | _ => s) s

/-! Between packages (R140). -/

/-- The running plan whose pipe of that number is the other end of a package's pipe: package, channel, pipe number here, side. DEDUCED, log entry 52. -/
def remotePipe (s : State) (src vc pipe : Nat) (home : Bool) : Option Nat :=
  (s.plans.find? (fun e => decide (e.2.state = .running ∨ e.2.state = .stopping) &&
    ((NMap.get? e.2.pipes pipe).map (fun p => p.remote && (p.homeHere == home) && decide (p.vc = vc) && decide (p.remotePkg = src))).getD false)).map Prod.fst
/-- PIPE_CREDIT (R140): a credit reaches the mirror, with the C it carries; one that comes before the plan runs waits for it. DEDUCED, log entry 52. -/
def execPipeCredit (plan pipe filled : Nat) (s : State) : Out :=
  event (fun s => match pipeOf s plan pipe with
    | none => s
    | some p =>
      let e := (p.remotePkg, p.vc, pipe, filled)
      if s.credits.find? (fun k => decide ((k.1, k.2.1, k.2.2.1) = (e.1, e.2.1, e.2.2.1))) ≠ some e ∨ remotePipe s p.remotePkg p.vc pipe false ≠ some plan then s else
      settlePipe (updPipe { s with credits := s.credits.erase e } plan pipe (fun p =>
        if p.mirror < p.depth then { p with mirror := p.mirror + 1, mirrorFilled := filled } else p)) plan pipe) s
/-- A line, a commit, a drop or a state change from the producer package waits its turn at the home. -/
def recvPipe (s : State) (src vc pipe : Nat) (m : PipeIn) : State :=
  match remotePipe s src vc pipe true with
  | none => s
  | some pl => updPipe s pl pipe (fun p => { p with inbox := p.inbox ++ [(m, s.clock)] })
/-- A credit from the home reaches the package; PIPE_CREDIT counts it. -/
def recvCredit (s : State) (src vc pipe filled : Nat) : State := { s with credits := s.credits ++ [(src, vc, pipe, filled)] }
/-- The home has applied the first change that was sent to it (R184). -/
def recvApplied (s : State) (src vc pipe : Nat) : State :=
  match (remotePipe s src vc pipe false).bind (fun pl => (pipeOf s pl pipe).map (fun p => (pl, p))) with
  | none => s
  | some (pl, p) => match p.changes.find? (fun h => h.sent) with
    | some h => endChange (updPipe s pl pipe (fun p => { p with changes := p.changes.erase h })) pl pipe p h
    | none => s
/-- The C that the home has sampled (R150). -/
def recvSample (s : State) (src vc pipe filled : Nat) : State :=
  match remotePipe s src vc pipe false with
  | none => s
  | some pl => updPipe s pl pipe (fun p => { p with sample := filled })

end Sys2Proof.Machine
end

