-- ==== Sys2Proof/Machine/Tasks.lean ====
section
/-! DEFINITION. Tile tasks, barriers, WAITC and the special registers: BASTE, HEM, BAR, WAITC, SREAD, SWRITE and the events
TASK_PUBLICATION and TASK_DISCARD (spec/07 R185 to R189, 16 R393 to R395, 17 R407, R408, 08 R192). -/

namespace Sys2Proof.Machine

/-! Tile tasks. -/

/-- TASKID of a new task (R185). -/
def taskIdOf (core slot count : Nat) : Nat := core * 2 ^ 24 + slot * 2 ^ 18 + count
/-- BASTE (R185). -/
def execBaste (c : Ctl) (s : State) : Out :=
  issue { guard := .coll, single := true } {} c (fun x _ => if x.sk.taskOpen then some { code := 0x0A } else none) (fun x s =>
    let n := if x.sk.taskCount = 262143 then 1 else x.sk.taskCount + 1
    let key := s.nextId
    retire x (onSkein x (fun sk => { sk with taskCount := n, taskId := taskIdOf x.core x.slot n, taskOpen := true, taskKey := key }) { s with nextId := key + 1 })) s
/-- The task holds, or will hold once a copy of it ends, a slot of a pipe that crosses packages (R246). -/
def holdsRemote (s : State) (core slot : Nat) (sk : Skein) : Bool :=
  let far := fun (pl n : Nat) => ((pipeOf s pl n).map Pipe.remote).getD false
  sk.held.any (fun h => far h.2.1 h.2.2.1) || (coreOf s core).copyq.any (fun c => decide (c.slot = slot) && c.inTask && (match c.kind with
    | .ppush pl n _ | .ppop pl n _ _ => far pl n
    | _ => false))
/-- HEM (R188, R246): the release begins, and the path waits for the publication. -/
def execHem (c : Ctl) (s : State) : Out :=
  issue { guard := .coll, single := true } {} c (fun x _ => if x.sk.taskOpen then none else some { code := 0x0A }) (fun x s =>
    if x.sk.hemWaiting || memHeld x true false || !flagRoom x c then stall x .other s
    else
      let op := s.nextId
      let rel : Op := { cls := .collective, path := x.path, body := .fence .rel (if holdsRemote s x.core x.slot x.sk then .pod else .dev) { loads := pathLoads x.sk x.path } }
      let s : State := { s with nextId := op + 1 }
      pokeCore (stall x .other (onSkein x (fun sk => { sk with hemWaiting := true, ops := NMap.insert sk.ops op rel }) s)) x.core) s
/-- Versions of a task lose their pinned ways (R187). -/
def unpinVersions (s : State) (key : Nat) : State :=
  { s with slices := s.slices.map (fun e => (e.1, { e.2 with pins := e.2.pins.filter (fun p => match p.2 with
    | .version k _ => decide (k ≠ key)
    | _ => true) })) }
/-- The bytes of a version of a line of main memory are written over it (R188, R114); the core's own L1 keeps no clean bytes of it.
DEDUCED, log entry 53. -/
def publishLine (core : Nat) (s : State) (v : Nat × LMask × LineData) : DWord × State :=
  let (_, s) := sliceTouch s v.1 (partOf s core) .keep true
  let (st, s) := sliceWrite s v.1 v.2.1 v.2.2 (portOf core)
  (st, dropFills (updL1 s core (fun l => cleanOut l v.1)) core (some v.1))
/-- A version of a line of a window is written by a request whose acknowledgement the skein takes, one of a device page through its store
queue: both before the publication point, so that nobody sees the rest of the task without them (R188, R232). DEDUCED, log entry 53. -/
def publishWindow (core slot : Nat) (s : State) (v : Nat × LMask × LineData) : State :=
  match regionOf (128 * v.1) with
  | .regs _ => updSkein s core slot (fun sk => { sk with sq := sk.sq ++ [{ line := v.1, mask := v.2.1, data := v.2.2, through := true, firstVictim := false
                                                                           policy := .keep, device := true, op := none, entered := s.clock }] })
  | _ => (postCore s (.write v.2.1 v.2.2) (.writeback core (some slot)) v.1 .keep core).2
/-- The pipes of which a task holds slots or tiles; and those whose home is on another die. -/
def heldPipes (sk : Skein) : List (Nat × Nat) := dedup (sk.held.map (fun h => (h.2.1, h.2.2.1)))
def farPipes (s : State) (core : Nat) (sk : Skein) : List (Nat × Nat) := (heldPipes sk).filter (fun e => (pipeOf s e.1 e.2).any (fun p => farHome p core))
/-- The homes on other dies are told that a task ends; the word has come to all of them; it is forgotten (R139). DEDUCED, log entry 52. -/
def tellHomes (s : State) (core slot : Nat) (sk : Skein) : State :=
  (farPipes s core sk).foldl (fun s e => match msgOf s e.1 e.2 (.task core slot), pipeOf s e.1 e.2 with
    | none, some p => toHome s (.task core slot) e.1 e.2 p core
    | _, _ => s) s
def homesTold (s : State) (core slot : Nat) (sk : Skein) : Bool := (farPipes s core sk).all (fun e => (msgHere s e.1 e.2 (.task core slot)).isSome)
def forgetTask (s : State) (core slot : Nat) : State := { s with reqs := s.reqs.filter (fun r => r.kind ≠ .msg (.task core slot)) }
/-- At a pipe's home, in one operation: the held slots are committed, the retained tiles are released (06 Table 2, R135). -/
def publishPipe (held : List (Bool × Nat × Nat × Nat)) (s : State) (e : Nat × Nat) : State :=
  let mine := held.filter (fun h => decide ((h.2.1, h.2.2.1) = e))
  let s := commitPush s e.1 e.2 ((mine.filter (fun h => h.1)).map (fun h => h.2.2.2))
  let s := (mine.filter (fun h => !h.1)).foldl (fun s h => releaseTile s e.1 e.2 (h.2.2.2 / 2) (decide (h.2.2.2 % 2 = 1))) s
  stampHome s e.1 e.2
/-- The skein's task is no longer open (R188, R189). -/
def closeTask (sk : Skein) : Skein := { sk with taskOpen := false, taskId := 0, versions := [], held := [], hemWaiting := false, publish := none, discarding := false }
/-- A copy that the task issued is still under way (R188). -/
def taskCopies (s : State) (core slot : Nat) : Bool := (coreOf s core).copyq.any (fun c => decide (c.slot = slot) && c.inTask)
/-- The HEM has released and waited for the task's copies: its lines of windows are written, and its pipes' homes told (R188). -/
def beginPublish (core slot : Nat) (s : State) : State :=
  match skeinOf s core slot with
  | none => s
  | some sk =>
    let releasing := sk.ops.any (fun e => match e.2.body with | .fence _ _ _ => true | _ => false)
    if !sk.hemWaiting || sk.publish.isSome || releasing || taskCopies s core slot then s
    else
      let s := (sk.versions.filter (fun v => !isMain (128 * v.1))).foldl (publishWindow core slot) s
      tellHomes (updSkein s core slot (fun sk => { sk with publish := some .begun })) core slot sk
/-- A version of a window has not been written yet. -/
def windowLeft (s : State) (core slot : Nat) (sk : Skein) : Bool :=
  sk.versions.any (fun v => !isMain (128 * v.1)) &&
    (decide (sk.sq ≠ []) || decide (sk.sqWait ≠ []) || s.reqs.any (fun r => decide (r.who = .writeback core (some slot))))
/-- The task can be published as soon as its turn comes at every home. -/
def readyPublish (core slot : Nat) (s : State) : State :=
  match skeinOf s core slot with
  | none => s
  | some sk =>
    if sk.publish ≠ some .begun ∨ windowLeft s core slot sk ∨ homesTold s core slot sk = false then s
    else updSkein s core slot (fun sk => { sk with publish := some (.ready s.clock) })
/-- The publication point: every pipe and every line of main memory at once; the homes on other dies answer (R139, R188). DEDUCED, log entry 53. -/
def publishTask (core slot : Nat) (s : State) : State :=
  match skeinOf s core slot with
  | none => s
  | some sk => match sk.publish with
    | some (.ready t) =>
      if !(heldPipes sk).all (fun e => (pipeOf s e.1 e.2).all (fun p => myTurn s e.1 e.2 p (opKey t 0 (portOf core)))) then s
      else
        let far := farPipes s core sk
        let s := (heldPipes sk).foldl (publishPipe sk.held) (forgetTask s core slot)
        let s := far.foldl (fun s e => match pipeOf s e.1 e.2 with
          | some p => toCore s (.taskDone core slot) e.1 e.2 p core
          | none => s) s
        -- acknowledgements that arrive together are applied in ascending slice number (R232)
        let r := (sk.versions.filter (fun v => isMain (128 * v.1))).foldl (fun (a : Option DWord × State) v =>
          let (st, s) := publishLine core a.2 v
          (some (a.1.elim st (fun o => if o.toNat < st.toNat then st else o)), s)) ((none : Option DWord), s)
        unpinVersions (updSkein r.2 core slot (fun sk =>
          { closeTask sk with lastStamp := r.1.getD sk.lastStamp, hemWaiting := true, publish := some .told })) sk.taskKey
    | _ => s
/-- The HEM completes once every home on another die has answered. DEDUCED, log entry 52. -/
def endPublish (core slot : Nat) (s : State) : State :=
  match skeinOf s core slot with
  | none => s
  | some sk =>
    if sk.publish ≠ some .told ∨ s.reqs.any (fun r => decide (r.kind = .msg (.taskDone core slot)) && decide (r.stage ≠ .done)) then s
    else updSkein { s with reqs := s.reqs.filter (fun r => r.kind ≠ .msg (.taskDone core slot)) } core slot (fun sk =>
      { sk with hemWaiting := false, publish := none, paths := sk.paths.map (fun e => (e.1, { advancePath e.2 with wait := none, watchPass := false })) })
/-- TASK_PUBLICATION: the publication point of a HEM (R188). DEDUCED, log entry 53. -/
def execTaskPublication (core slot : Nat) (s : State) : Out :=
  event (fun s => endPublish core slot (publishTask core slot (readyPublish core slot (beginPublish core slot s)))) s
/-- A held slot becomes free, a retained tile returns to its place (06 Table 2). DEDUCED, log entry 54. -/
def discardHeld (s : State) (h : Bool × Nat × Nat × Nat) : State :=
  if h.1 then freePush s h.2.1 h.2.2.1 h.2.2.2 else returnTile s h.2.1 h.2.2.1 (h.2.2.2 / 2) (decide (h.2.2.2 % 2 = 1))
/-- The discard row of 06 Table 2, at each pipe's home; the versions are dropped (R189). DEDUCED, log entry 54. -/
def discardTask (s : State) (core slot : Nat) (sk : Skein) : State :=
  let s := (heldPipes sk).foldl (fun s e => stampHome s e.1 e.2) (sk.held.foldl discardHeld s)
  unpinVersions (updSkein s core slot closeTask) sk.taskKey
/-- TASK_DISCARD: the task of a skein that a fatal trap, a KILL or a plan stop has struck (R189). DEDUCED, log entry 54. -/
def execTaskDiscard (core slot : Nat) (s : State) : Out :=
  event (fun s => match skeinOf s core slot with
    | none => s
    | some sk =>
      -- a park, a plan halt and a host stop of the bolt discard the tasks of all its skeins (R161, R404, R419)
      let stopped := match (boltOf s core sk.bolt).bind Bolt.stop with | some .save | none => false | _ => true
      if !sk.taskOpen || !(sk.discarding || sk.fatal.isSome || stopped) || taskCopies s core slot || sk.publish.isSome then s
      else
        let s := tellHomes s core slot sk
        if !homesTold s core slot sk || !(heldPipes sk).all (fun e => (pipeOf s e.1 e.2).all (homeTurn s)) then s
        else discardTask (forgetTask s core slot) core slot sk) s

/-! Barriers (R393). -/

def pointOf (s : State) (x : Ctx) (d : Nat) : Rendezvous := ((boltOf s x.core x.sk.bolt).map (fun b => NMap.getD b.points d {})).getD {}
def setPoint (s : State) (x : Ctx) (d : Nat) (p : Rendezvous) : State := updBolt s x.core x.sk.bolt (fun b => { b with points := NMap.insert b.points d p })
/-- A skein of the bolt waits at the point. -/
def waiterAt (s : State) (x : Ctx) (d : Nat) : Bool :=
  (coreOf s x.core).skeins.any (fun e => decide (e.2.bolt = x.sk.bolt) && e.2.paths.any (fun p => decide (p.2.wait.map Prod.fst = some (.barrier d))))
/-- BAR init (R393). -/
def execBarInit (c : Ctl) (d : Nat) (a : Src) (s : State) : Out :=
  issue { guard := .coll, single := true } (Instr.use (.barInit c d a)) c noEarly (fun x s =>
    let p := pointOf s x d
    let n := (srcWord x a (oneOf x)).toNat
    if (p.init && (decide (p.arrived ≠ []) || waiterAt s x d)) || decide (n < 1) || decide ((x.launch s).skeins < n) then trapX x { code := 0x13 } s
    else retire x (setPoint s x d { init := true, expected := n, arrived := [], phase := 0 })) s
/-- The waiters at a point whose phase count has come to `phase` are released: the BAR wait is complete of those whose last arrival lies below
it (R393). -/
def releasePoint (x : Ctx) (d phase : Nat) (s : State) : State :=
  updCore s x.core (fun c => { c with skeins := c.skeins.map (fun e =>
    if e.2.bolt = x.sk.bolt && (NMap.get? e.2.barLast d).all (fun n => decide (n < phase)) then (e.1, { e.2 with paths := e.2.paths.map (fun p =>
      if p.2.wait.map Prod.fst = some (.barrier d) then (p.1, { advancePath p.2 with wait := none, watchPass := false }) else p) }) else e) })
/-- BAR arrive (R393): the release at `.bolt` comes first. -/
def execBarArrive (c : Ctl) (d : Nat) (s : State) : Out :=
  issue { guard := .coll, single := true } {} c noEarly (fun x s =>
    let p := pointOf s x d
    if !p.init then trapX x { code := 0x13 } s
    else if x.sk.index ∈ p.arrived then trapX x { code := 0x14 } s
    else if memHeld x true true || decide (pathLoads x.sk x.path ≠ []) || decide (x.sk.sq ≠ []) then stall x .other s
    else
      let s := onSkein x (fun sk => { sk with barLast := NMap.insert sk.barLast d p.phase }) s
      let arrived := p.arrived ++ [x.sk.index]
      if arrived.length = p.expected then retire x (releasePoint x d (p.phase + 1) (setPoint s x d { p with arrived := [], phase := p.phase + 1 }))
      else retire x (setPoint s x d { p with arrived := arrived })) s
/-- BAR wait (R393): it completes at once for a skein that never arrived. -/
def execBarWait (c : Ctl) (d : Nat) (s : State) : Out :=
  issue { guard := .coll, single := true } {} c noEarly (fun x s =>
    let p := pointOf s x d
    if !p.init then trapX x { code := 0x13 } s
    else match NMap.get? x.sk.barLast d with
      | some n => if n < p.phase then retire x s else stall x (.barrier d) s
      | none => retire x s) s

/-! WAITC (R395). -/

/-- WAITC: it takes a pending copy fault of its class, and for c6 a deferred matrix fault if its wait includes the instruction (R170,
R329). -/
def execWaitc (c : Ctl) (a m : Nat) (s : State) : Out :=
  issue { guard := .any } {} c noEarly (fun x s =>
    match reportAt x (fun f => decide (f.cls = a)) (decide (a = 6) && decide (m < x.sk.counters.getD 6 0)) s with
    | some s => s
    | none => if x.sk.counters.getD a 0 ≤ m then retire x s else stall x .other s) s

/-! Special registers (R192, R407, R408). -/

/-- The slot of the bolt's skein of index 0. -/
def firstSlot (s : State) (x : Ctx) : Nat := (((coreOf s x.core).skeins.find? (fun e => decide (e.2.bolt = x.sk.bolt) && decide (e.2.index = 0))).map Prod.fst).getD x.slot
/-- The value of a special register in a lane. -/
def sregValue (s : State) (x : Ctx) (r l : Nat) : DWord :=
  let n := fun (v : Nat) => BitVec.ofNat 64 v
  match r with
  | 0 => n l
  | 1 => n (x.slot * 256 + x.sk.index)
  | 2 => n (firstSlot s x)
  | 3 => n (quarterOf x.slot)
  | 4 => n x.core
  | 5 => n (x.core / 4)
  | 6 => n x.die
  | 7 => n (partOf s x.core)
  | 8 => n s.clock
  | 9 => progIdx x.sk
  | 10 => n x.sk.taskId
  | 11 => x.sk.faultInfo
  | _ => (vlane x.sk.lk l).setWidth 64
/-- SREAD (R407). -/
def execSread (c : Ctl) (d : VK) (r : Nat) (s : State) : Out :=
  issue {} (Instr.use (.sread c d r)) c noEarly (fun x s => retire x (onSkein x (fun sk => putVK x sk (sregRegs r) d (sregValue s x r)) s)) s
/-- The value an SWRITE writes: an immediate is its bits [31:8], which the decoder hands over (R408). -/
def swriteValue (x : Ctx) (a : Src) (r l : Nat) : DWord :=
  match a with
  | .imm w => w.setWidth 64
  | a => if sregWriteRegs r = 2 then srcPair x false a l else (srcWord x a l).setWidth 64
/-- SWRITE (R408, R330): of PROGIDX it waits for a matrix instruction that runs to retire, one that the handler issued too. -/
def execSwrite (c : Ctl) (a : Src) (r : Nat) (s : State) : Out :=
  issue {} (Instr.use (.swrite c a r)) c noEarly (fun x s =>
    if r = 12 then
      retire x (onSkein x (fun sk => { sk with lk := vmerge x.act sk.lk (fun l => (swriteValue x a r l).setWidth 32) }) s)
    else if (r = 9 ∨ r = 11) ∧ x.sk.frame.isSome then
      let v := swriteValue x a r (oneOf x)
      if r = 11 then retire x (onSkein x (fun sk => { sk with faultInfo := v &&& ~~~(0x1F00000000 : DWord) }) s)
      else match x.sk.mat with
        | none => retire x s
        | some m =>
          if matStopped x.sk m then retire x (onSkein x (fun sk => { sk with mat := some (setProgIdx v m) }) s)
          else stall x .other s
    else trapX x { code := 0x29 } s) s

end Sys2Proof.Machine
end

