-- ==== Sys2Proof/Machine/Collective.lean ====
section
/-! DEFINITION. Collective groups: COLL at issue and the event COLL_RESULT (spec/07 R178, 18 R435, R436, 10 R251). -/

namespace Sys2Proof.Machine

/-! Group descriptors (R435). -/

/-- A valid group as a member's COLL reads it. -/
structure GroupDesc where
  ctx : Nat
  channel : Nat
  /-- package and block of each member -/
  members : List (Nat × Nat)
  deriving DecidableEq, Repr, Inhabited

/-- The 64-bit words of a list of bytes. -/
def words64 (bs : List Byte) : List Nat := (List.range (bs.length / 8)).map (fun i => leNat ((bs.drop (8 * i)).take 8))
/-- Read a group's descriptor and member list at the slices (R435): nothing while a line is on its way; no group when V = 0 or a reserved
field is nonzero. DEDUCED, log entry 39. -/
def readGroup (s : State) (core slot g : Nat) : Option (Option GroupDesc) × State :=
  let rd : Reader := (Agent.coll core slot, partOf s core)
  match readOut s rd (dieOf core) (s.dev.grpBase + 32 * g) 32 3 with
  | (none, s) => (none, s)
  | (some bs, s) =>
    let w := fun i => (words64 bs).getD i 0
    if !(bitAt (w 1) 32 && decide (w 0 / 2 ^ 52 = 0) && decide (w 0 % 8 = 0) && decide (w 1 / 2 ^ 33 = 0) && decide (field (w 1) 12 4 = 0) && decide (w 2 = 0) && decide (w 3 = 0)) then
      (some none, s)
    else
      let n := field (w 1) 0 12 + 1
      match readOut s rd (dieOf core) (field (w 0) 3 49 * 8) (8 * n) (lineFuel (8 * n)) with
      | (none, s) => (none, s)
      | (some ms, s) =>
        let ms := words64 ms
        if ms.all (fun e => decide (field e 10 22 = 0)) then
          (some (some { ctx := field (w 1) 20 12, channel := field (w 1) 16 4, members := ms.map (fun e => (e % 1024, e / 2 ^ 32)) }), s)
        else (some none, s)
/-- A UALink channel may carry traffic of a partition, or of none (R434, R436). -/
def channelOk (s : State) (v part : Nat) : Bool :=
  decide (v ≠ 0) && (if part < 8 then decide (nibble s.dev.ualvcown.now.toNat v = part) else decide (8 ≤ nibble s.dev.ualvcown.now.toNat v))
/-- The use is allowed: the bolt's member number, or none when it is refused (R436). -/
def memberOf (s : State) (d : GroupDesc) (l : Launch) (block part : Nat) : Option Nat :=
  let far := d.members.any (fun m => decide (m.1 ≠ Config.packageNumber))
  if d.ctx ≠ l.ctx ∨ (far ∧ !channelOk s d.channel part) then none
  else findIdx? (fun m => decide (m = (Config.packageNumber, block))) d.members

/-! COLL at issue. -/

def reduces : CollOp → Bool | .sum | .max | .min => true | _ => false
/-- The format code of an entry (R165). -/
def entryCode (l : Launch) (e : TileEntry) : Nat := if e.useSlot then field (l.fslots.getD e.slot 0).toNat 0 8 else e.fmt
/-- Traps 3 and 6 of R172 that rest on no register value. -/
def collEarly (d a : Nat) (op : CollOp) (x : Ctx) (s : State) : Option TrapInfo :=
  let l := x.launch s
  let ea := tileOf s x.core a
  let ed := tileOf s x.core d
  (allotEarly [a, d] x s).or
    (if (reduces op && !(plainFmt (entryFmt l ea).1 && plainFmt (entryFmt l ed).1)) ||
        !(decide (entryCode l ea = entryCode l ed) && decide (ea.cols = ed.cols) && (decide (op = .gath) || decide (ea.rows = ed.rows))) then some { code := 0x0E } else none)
/-- Uses of a group by a bolt that are outstanding (R178). -/
def collOutstanding (s : State) (core bolt g : Nat) : List Copy :=
  (coreOf s core).copyq.filter (fun c => decide (((skeinOf s core c.slot).map Skein.bolt) = some bolt) && (match c.kind with
    | .coll h _ _ _ => decide (h = g)
    | _ => false))
/-- The use as this package's members have read it. -/
def CollUse.desc (u : CollUse) : GroupUse := { op := u.op, members := u.members, channel := u.channel }
/-- A member's tile as other packages see it, under the group that its COLL has read. -/
def groupTileOf (l : Launch) (e : TileEntry) (m : Nat) (bs : List Byte) (u : GroupUse) : GroupTile :=
  { member := m, fmt := entryCode l e, scale := (entryFmt l e).2, rows := e.rows, cols := e.cols, bytes := bs, size := bs.length, use := u }
/-- A message of a group leaves in flits of at most 512 of its bytes (R431). DESIGN CHOICE, log entry 60. -/
def groupSend (s : State) (dest vc g gen : Nat) (t : GroupTile) : State :=
  (List.range (max 1 (cdiv t.bytes.length 512))).foldl (fun s i =>
    podSend s { dest := dest, vc := vc, msg := .groupTile g gen { t with bytes := (t.bytes.drop (512 * i)).take 512, at_ := 512 * i } }) s
/-- The member's tile goes to the packages that form the result (R436); of a bcast's other members goes the mark that they have issued
their use, without which it does not complete (R252). DEDUCED, log entry 60. -/
def sendTile (s : State) (d : GroupDesc) (g gen : Nat) (op : CollOp) (t : GroupTile) : State :=
  let away := (dedup (d.members.map Prod.fst)).filter (fun p => p ≠ Config.packageNumber)
  let root := (d.members.headD (0, 0)).1
  let dests := match op with
    | .gath | .bcast => away
    | _ => away.filter (fun p => p = root)
  let t := if op = .bcast ∧ t.member ≠ 0 then { t with bytes := [], size := 0 } else t
  dests.foldl (fun s p => groupSend s p d.channel g gen t) s
/-- Packets of the member's last use with that generation have not all been acknowledged (R178, R251). DEDUCED, log entry 60. -/
def packetsOut (s : State) (g gen m : Nat) : Bool :=
  s.ports.any (fun e => (e.2.txQueue ++ e.2.unacked.map UalSent.flit).any (fun f => match f.msg with
    | .groupTile h k t => decide (h = g) && decide (k = gen) && decide (t.member = m)
    | _ => false))
/-- A use begins on this package, or a further member joins it. -/
def joinUse (s : State) (d : GroupDesc) (g gen : Nat) (op : CollOp) : State :=
  if s.collUses.any (fun u => decide (u.group = g) && decide (u.gen = gen)) then
    { s with collUses := mapIf (fun u => decide (u.group = g) && decide (u.gen = gen)) (fun u =>
        if u.members = [] then { u with op := op, members := d.members, channel := d.channel }
        else { u with mismatch := u.mismatch || decide (u.op ≠ op) || decide (u.members ≠ d.members) || decide (u.channel ≠ d.channel) }) s.collUses }
  else { s with collUses := s.collUses ++ [{ group := g, gen := gen, op := op, members := d.members, channel := d.channel, got := [], mismatch := false }] }
/-- A refused use: D is ready with Faulted set, and the copy fault with cause 0x1F is pending (R436). -/
def refuseUse (x : Ctx) (d : Nat) (s : State) : State :=
  let s := fillDone s x.core d false true
  let id := s.nextId
  let s : State := { s with nextId := id + 1 }
  retire x (onSkein x (fun sk => { sk with copyFaults := sk.copyFaults ++ [⟨5, d, 0x1F, 0, 0, id⟩] }) s)
/-- COLL (R178, R251, R436): the group's descriptor is read first. -/
def execColl (c : Ctl) (d a b : Nat) (op : CollOp) (s : State) : Out :=
  issue { guard := .coll } (Instr.use (.coll c d a b op)) c (collEarly d a op) (fun x s =>
    match reportAt x (fun f => decide (f.tile = a) || decide (f.tile = d)) (matTile x.sk a || matTile x.sk d) s with
    | some s => s
    | none =>
      let g := (kget x.sk b).toNat % 4096
      match readGroup s x.core x.slot g with
      | (none, s) => stall x .other s
      | (some desc, s) =>
        let l := x.launch s
        let block := ((boltOf s x.core x.sk.bolt).map Bolt.block).getD 0
        let done := fun (s : State) => endAgent s (.coll x.core x.slot)
        match desc, desc.bind (fun e => memberOf s e l block (partOf s x.core)) with
        | some e, some m =>
          let source := op ≠ .bcast ∨ m = 0
          let srcs := if source then [a] else []
          let n := NMap.getD (((boltOf s x.core x.sk.bolt).map Bolt.collUses).getD []) g 0
          let gen := n % 4
          if op = .gath ∧ (tileOf s x.core d).rows ≠ e.members.length * (tileOf s x.core a).rows then trapX x { code := 0x0E } (done s)
          else if 4 ≤ (collOutstanding s x.core x.sk.bolt g).length then trapX x { code := 0x11 } (done s)
          else if tilePoison s x.core srcs then trapX x { code := 0x20 } (done s)
          else if memHeld x true true || !copyRoom s x c 5 || packetsOut s g gen m then stall x .other s
          else match tileWait s x srcs [d] with
            | some w => stall x (.tile x.core w.1 w.2) s
            | none =>
              let size := tileSize l (tileOf s x.core a)
              let s := sendTile (done s) e g gen op (groupTileOf l (tileOf s x.core a) m (tileBytesOf s x.core a size) { op := op, members := e.members, channel := e.channel })
              let s := joinUse s e g gen op
              let s := updBolt s x.core x.sk.bolt (fun b => { b with collUses := NMap.insert b.collUses g (n + 1) })
              let s := if source ∧ a ≠ d then startDrain s x.core a else s
              retire x (beginCopy x c 5 (fun k => { k with kind := .coll g gen m op, tile := d, tileA := a, total := if source then max 1 (cdiv size 128) else 0 })
                (startFill s x.core d))
        | _, _ =>
          if !flagRoom x c || !counterRoom x 5 then stall x .other s
          else match tileWait s x [] [d] with
            | some w => stall x (.tile x.core w.1 w.2) s
            | none => refuseUse x d (done s)) s

/-! COLL_RESULT. -/

/-- A local member of a use: its core, copy and launch. -/
def localMembers (s : State) (g gen : Nat) : List (Nat × Nat × Copy × Launch) :=
  s.cores.flatMap (fun c => c.2.copyq.filterMap (fun k => match k.kind with
    | .coll h e m _ => if h = g ∧ e = gen then some (m, c.1, k, launchOf s c.1 (((skeinOf s c.1 k.slot).map Skein.bolt).getD 0)) else none
    | _ => none))
/-- The larger, or the smaller, of two values; the first of equals; NaN if either is NaN (R178). -/
def pickVal (larger : Bool) (a b : FVal) : FVal :=
  if a = .nan ∨ b = .nan then .nan else if (if larger then fLt a b else fLt b a) then b else a
/-- The result of a reduction over the members' values, in member order. -/
def reduceVals (op : CollOp) (l : List FVal) : FVal :=
  match op with
  | .sum => sumVals l
  | .max => match l with | [] => .nan | a :: r => r.foldl (pickVal true) a
  | _ => match l with | [] => .nan | a :: r => r.foldl (pickVal false) a
/-- The stored code of a value: Round of x × 2^(−e) (R178). -/
def storeCode (fs : FmtCode × Int) (v : FVal) : Nat :=
  match fs.1 with
  | .wide f => roundFF f .rne (fScale (-fs.2) v)
  | .narrow f => roundNarrow f false (fScale (-fs.2) v)
  | _ => 0
/-- The bytes of a tile of codes. -/
def packCodes (w rows cols : Nat) (code : Nat → Nat → Nat) : List Byte :=
  if w = 4 then (List.range (rows * cols / 2)).map (fun b => BitVec.ofNat 8 (code (2 * b / cols) (2 * b % cols) + 16 * code ((2 * b + 1) / cols) ((2 * b + 1) % cols)))
  else (List.range (rows * cols)).flatMap (fun n => leBytes (w / 8) (code (n / cols) (n % cols)))
/-- A value of a result as the root sends it, exactly: its kind, then its magnitude in units of 2^(−320). DEDUCED, log entry 60. -/
def exactBytes (v : FVal) : List Byte :=
  leBytes 80 (match v with
    | .nan => 4
    | .inf n => 2 + n.toNat
    | .fin n m e => n.toNat + 256 * (m * 2 ^ (e + 320).toNat))
/-- The value that such bytes stand for. DEDUCED, log entry 60. -/
def exactVal (bs : List Byte) : FVal :=
  let v := leNat bs
  match v % 256 with
  | 4 => .nan
  | 3 => .inf true
  | 2 => .inf false
  | k => .fin (decide (k = 1)) (v / 256) (-320)
/-- A local member's tile A. -/
def localTile (s : State) (u : CollUse) (e : Nat × Nat × Copy × Launch) : GroupTile :=
  let t := tileOf s e.2.1 e.2.2.1.tileA
  groupTileOf e.2.2.2 t e.1 (tileBytesOf s e.2.1 e.2.2.1.tileA (tileSize e.2.2.2 t)) u.desc
/-- This package forms the result: of a reduction, the root's alone (R436). -/
def formsHere (u : CollUse) : Bool := !reduces u.op || decide ((u.members.headD (0, 0)).1 = Config.packageNumber)
/-- A message has come whole. -/
def tileWhole (t : GroupTile) : Bool := decide (t.size ≤ t.bytes.length)
/-- The tile of a member: a local member's tile A, or what its package has sent; of a reduction formed elsewhere, the root's result. -/
def memberTile (s : State) (u : CollUse) (loc : List (Nat × Nat × Copy × Launch)) (msgs : List GroupTile) (m : Nat) : Option GroupTile :=
  if !formsHere u then msgs.find? (fun t => t.result && tileWhole t) else
  match loc.find? (fun e => e.1 = m) with
  | some e => some (localTile s u e)
  | none => msgs.find? (fun t => decide (t.member = m) && !t.result && tileWhole t)
/-- The members from which something must have come before a use completes here: every member, or the root's result. -/
def neededMembers (u : CollUse) : List Nat := if formsHere u then List.range u.members.length else [0]
/-- The members whose tiles the result is made from here. -/
def sourceMembers (u : CollUse) : List Nat := if u.op = .bcast then [0] else neededMembers u
/-- The scaled value of an element of a member's tile (R68). -/
def memberVal (cols : Nat) (t : GroupTile) (r j : Nat) : FVal := scaledAt (fmtOf t.fmt, t.scale) t.bytes cols r j
/-- The exact elements of a reduction (R178). -/
def reducedAt (u : CollUse) (tiles : NMap GroupTile) (cols r j : Nat) : FVal := reduceVals u.op (tiles.map (fun t => memberVal cols t.2 r j))
/-- The bytes of a result in a format, each element rounded once: a byte tile is copied, every other element converted (R68, R178). DEDUCED,
log entry 60. -/
def resultBytes (u : CollUse) (tiles : NMap GroupTile) (fs : FmtCode × Int) (w rows cols : Nat) : List Byte :=
  let tile := fun m => (NMap.get? tiles m).getD default
  match u.op with
  | .gath | .bcast =>
    if !plainFmt fs.1 then (if u.op = .bcast then (tile 0).bytes else (List.range u.members.length).flatMap (fun m => (tile m).bytes))
    else packCodes w rows cols (fun r j => let n := max 1 (tile 0).rows
      storeCode fs (memberVal cols (tile (r / n)) (r % n) j))
  | _ =>
    if formsHere u then packCodes w rows cols (fun r j => storeCode fs (reducedAt u tiles cols r j))
    else packCodes w rows cols (fun r j => storeCode fs (exactVal (((tile 0).bytes.drop (80 * (r * cols + j))).take 80)))
/-- A member's copy ends: D is ready, A is ready again, the counter falls. -/
def closeColl (s : State) (core : Nat) (k : Copy) (bad : Bool) : State :=
  let s := if (tileOf s core k.tileA).state = .draining ∧ k.tileA ≠ k.tile then drainDone s core k.tileA false else s
  closeCopy (fillDone s core k.tile false bad) core k
/-- The tiles have one format and shape. -/
def sameTiles (a b : GroupTile) : Bool := decide (a.fmt = b.fmt) && decide (a.rows = b.rows) && decide (a.cols = b.cols)
/-- An earlier use of the group by a member is outstanding: uses of one member complete in issue order (R251). -/
def earlierUse (s : State) (g : Nat) (e : Nat × Nat × Copy × Launch) : Bool :=
  (coreOf s e.2.1).copyq.any (fun k => decide (k.op < e.2.2.1.op) && (match k.kind with | .coll h _ m _ => decide (h = g) && decide (m = e.1) | _ => false))
/-- The root's package sends the exact result of a reduction to every other package (R436). DEDUCED, log entry 60. -/
def sendResult (s : State) (u : CollUse) (group gen : Nat) (tiles : NMap GroupTile) : State :=
  let t := (NMap.get? tiles 0).getD default
  let bs := (List.range (t.rows * t.cols)).flatMap (fun n => exactBytes (reducedAt u tiles t.cols (n / t.cols) (n % t.cols)))
  ((dedup (u.members.map Prod.fst)).filter (fun p => p ≠ Config.packageNumber)).foldl (fun s p =>
    groupSend s p u.channel group gen { t with member := 0, result := true, bytes := bs, size := bs.length }) s
/-- Word of a mismatch goes to the packages that wait for a result from here, or that do not hear from its members otherwise (R178, R435).
DEDUCED, log entry 60. -/
def sendMismatch (s : State) (u : CollUse) (group gen : Nat) (msgs : List GroupTile) : State :=
  let mine := u.members.map Prod.fst
  let named := dedup ((u.members ++ msgs.flatMap (fun t => t.use.members)).map Prod.fst)
  let dests := if reduces u.op && formsHere u then named else if msgs.any GroupTile.bad then [] else named.filter (fun p => p ∉ mine)
  (dests.filter (fun p => p ≠ Config.packageNumber)).foldl (fun s p =>
    groupSend s p u.channel group gen { member := 0, fmt := 0, scale := 0, rows := 0, cols := 0, bytes := [], use := u.desc, result := true, bad := true }) s
/-- What is left of the messages once a use has taken the first of each member, and the first result: the rest belong to the use of the same
generation that follows (R251). DEDUCED, log entry 60. -/
def laterMsgs (l : List GroupTile) : List GroupTile :=
  (l.foldl (fun (a : List (Nat × Bool) × List GroupTile) t =>
    if (t.member, t.result) ∈ a.1 then (a.1, a.2 ++ [t]) else ((t.member, t.result) :: a.1, a.2)) ([], [])).2
/-- COLL_RESULT: every local member has sent its tile, and what the other packages send has come in flits, or is in `remote`; or word of a
mismatch has come (R178, R251, R252, R436). DEDUCED, log entry 60. -/
def execCollResult (group gen : Nat) (remote : List GroupTile) (s : State) : Out :=
  event (fun s => match s.collUses.find? (fun u => decide (u.group = group) && decide (u.gen = gen)) with
    | none => s
    | some u =>
      let loc := localMembers s group gen
      let here := (List.range u.members.length).filter (fun m => decide ((u.members.getD m (0, 0)).1 = Config.packageNumber))
      if here = [] || here.any (fun m => (loc.find? (fun e => decide (e.1 = m) && e.2.2.1.moved)).isNone) || loc.any (earlierUse s group) then s else
      let msgs := u.got ++ remote
      let told := msgs.any GroupTile.bad || (!formsHere u && msgs.any (fun t => decide (t.member = 0) && !t.result))
      let all := (neededMembers u).filterMap (fun m => (memberTile s u loc msgs m).map (fun b => (m, b)))
      if !told && decide (all.length < (neededMembers u).length) then s else
      let tiles := all.filter (fun t => decide (t.1 ∈ sourceMembers u))
      let one := (all.map Prod.snd).all (fun t => decide (t.use = u.desc) && loc.all (fun e => sameTiles (localTile s u e) t))
      let bad := told || u.mismatch || !one || msgs.any (fun t => decide (t.use ≠ u.desc))
      let result := fun (e : Nat × Nat × Copy × Launch) =>
        let ed := tileOf s e.2.1 e.2.2.1.tile
        resultBytes u tiles (entryFmt e.2.2.2 ed) (entryW e.2.2.2 ed) ed.rows ed.cols
      let results := loc.map (fun e => (e, result e))
      let later := laterMsgs u.got
      let s : State := { s with collUses := s.collUses.filter (fun v => v ≠ u) ++ (if later = [] then [] else [{ u with members := [], got := later, mismatch := false }]) }
      let s := if bad then sendMismatch (eventRecord s 6 0 0 0 [group + gen * 2 ^ 16]) u group gen msgs else s
      let s := if reduces u.op && formsHere u && !bad then sendResult s u group gen tiles else s
      results.foldl (fun s r =>
        let s := if bad then s else setTileBytes s r.1.2.1 ((tileOf s r.1.2.1 r.1.2.2.1.tile).base * 128) r.2
        closeColl s r.1.2.1 r.1.2.2.1 bad) s) s
/-- A part of a member's tile, or of the root's result, arrives from another package (R431, R436). DEDUCED, log entry 60. -/
def gotPart (l : List GroupTile) (t : GroupTile) : List GroupTile :=
  if t.at_ = 0 then l ++ [t]
  else match findIdx? (fun (g : GroupTile) => decide (g.member = t.member) && decide (g.result = t.result) && decide (g.bytes.length = t.at_) && !tileWhole g) l with
    | some i => l.modify i (fun g => { g with bytes := g.bytes ++ t.bytes })
    | none => l
/-- A message of a group joins those of its use, which it begins if no member here has issued it (R251). DEDUCED, log entry 60. -/
def recvGroupTile (s : State) (g gen : Nat) (t : GroupTile) : State :=
  if s.collUses.any (fun u => decide (u.group = g) && decide (u.gen = gen)) then
    { s with collUses := mapIf (fun u => decide (u.group = g) && decide (u.gen = gen)) (fun u => { u with got := gotPart u.got t }) s.collUses }
  else { s with collUses := s.collUses ++ [{ group := g, gen := gen, op := .sum, members := [], channel := 0, got := gotPart [] t, mismatch := false }] }

end Sys2Proof.Machine
end

