-- ==== Sys2Proof/Machine/Reconverge.lean ====
section
/-! DEFINITION. Divergence and reconvergence: groups, the reconvergence stack, frame records, release (spec/14 R334 to R341,
R346 to R350). -/

namespace Sys2Proof.Machine

/-- A group of lanes: next PC, lanes, window (R336). -/
abbrev Group := Nat × LMask × Win
/-- The header that follows the clause in hand: H + n + 1 (R336). -/
def fallThrough (pa : Path) : Nat := (pa.pc + (pa.clause.elim 0 (fun c => c.words.length)) + 1) % 2 ^ 32
/-- H + Tgt (R44). -/
def target (pa : Path) (tgt : Word) : Nat := ((BitVec.ofNat 32 pa.pc) + tgt).toNat
/-- A path at a new PC, with its running lanes and window. -/
def goto (pa : Path) (g : Group) : Path := { pa with pc := g.1, mask := g.2.1, win := g.2.2, clause := none, wait := none, watchPass := false }
/-- The skein has one path (R335). DEDUCED, log entry 32. -/
def singlePath (sk : Skein) : Bool := decide (sk.paths.length = 1)
/-- The part of the stack a path pushes on: its own part, or the whole stack of a single-path skein. -/
def partOfPath (sk : Skein) (p : Nat) : List StkEntry :=
  if singlePath sk then sk.stack else ((NMap.get? sk.paths p).map Path.own).getD []
def setPart (sk : Skein) (p : Nat) (l : List StkEntry) : Skein :=
  if singlePath sk then { sk with stack := l } else updPathSk sk p (fun pa => { pa with own := l })
def pushEntry (p : Nat) (sk : Skein) (e : StkEntry) : Skein := setPart sk p (e :: partOfPath sk p)
/-- Entries held, in the common part and both own parts (R340). -/
def entryCount (sk : Skein) : Nat := sk.stack.length + (sk.paths.map (fun e => e.2.own.length)).foldl (· + ·) 0
/-- The running lanes of a path. -/
def running (sk : Skein) (p : Nat) : LMask := ((NMap.get? sk.paths p).map (fun pa => without pa.mask sk.exited)).getD 0
/-- Groups in ascending order of PC; of two with one PC the one listed first comes first (R336). -/
def sortGroups (gs : List Group) : List Group := sortBy (fun g => g.1) (gs.filter (fun g => g.2.1 ≠ 0))
def pendOfGroup (g : Group) : StkEntry := .pend g.1 g.2.1 g.2.2

/-- Move the lanes of a path to their groups (R336, R337). With no group the path is emptied. -/
def transfer (sk : Skein) (p : Nat) (groups : List Group) (branch : Bool) : Skein :=
  match sortGroups groups with
  | [] => updPathSk sk p (fun pa => { (if pa.clause.isSome then advancePath pa else pa) with mask := 0, clause := none, wait := none })
  | [g] => updPathSk sk p (fun pa => goto pa g)
  | g :: r =>
    if branch && singlePath sk then
      match NMap.get? sk.paths p, r.getLast? with
      | some pa, some gn =>
        let p0 := { goto pa g with own := [] }
        let p1 := { goto pa gn with own := (r.dropLast.map pendOfGroup).reverse, age := 0 }
        { sk with paths := [(0, p0), (1, p1)], ops := sk.ops.map (fun e => (e.1, { e.2 with path := 2 })) }
      | _, _ => sk
    else r.foldl (fun sk g => pushEntry p sk (pendOfGroup g)) (updPathSk sk p (fun pa => goto pa g))
/-- Pending entries that a transfer pushes (R337, R340). -/
def pushesOf (sk : Skein) (groups : List Group) (branch : Bool) : Nat :=
  let n := (sortGroups groups).length
  if branch && singlePath sk then n - 2 else n - 1

/-- The lanes of an entry that are still expected: E less the exited lanes. -/
def entryDone (exited : LMask) : StkEntry → Bool
  | .join _ e a _ _ => within (without e exited) a
  | .pend _ _ _ => false
/-- The path ends: its flags merge into the other path, whose own part joins the common part (R339). DEDUCED, log entry 32. -/
def endPath (sk : Skein) (p : Nat) : Skein :=
  match NMap.get? sk.paths p, sk.paths.find? (fun e => e.1 ≠ p) with
  | some pa, some (q, qa) =>
    { sk with paths := [(q, { qa with flagOps := qa.flagOps ++ pa.flagOps.filter (fun f => f ∉ qa.flagOps), own := [] })]
              stack := qa.own ++ sk.stack, ops := sk.ops.map (fun e => (e.1, { e.2 with path := q })) }
  | _, _ => sk
/-- An emptied path takes the top entry of its part: a pending entry runs, a complete join entry resumes, an incomplete one
holds it; a path of a dual-path skein with an empty own part ends (R339). Answers none when nothing changes. DEDUCED, log entry 33. -/
def popOnce (sk : Skein) (p : Nat) : Option Skein :=
  match NMap.get? sk.paths p with
  | none => none
  | some _ =>
    if running sk p ≠ 0 then none else
    match partOfPath sk p with
    | [] => if singlePath sk then none else some (endPath sk p)
    | .pend pc m w :: r => some (updPathSk (setPart sk p r) p (fun pa => goto pa (pc, without m sk.exited, w)))
    | .join pc e a w _ :: r =>
      if within (without e sk.exited) a then some (updPathSk (setPart sk p r) p (fun pa => goto pa (pc, without a sk.exited, w)))
      else none

/-- Release lanes to a path: they run if it has none, else they are pushed so that the lowest target pops first (R341). DEDUCED, log entry 33. -/
def release (sk : Skein) (p : Nat) (groups : List Group) : Skein :=
  let p := if (NMap.get? sk.paths p).isSome then p else (sk.paths.head?.map Prod.fst).getD 0
  let gs := sortGroups groups
  if running sk p = 0 then
    match gs with
    | [] => sk
    | g :: r => r.foldl (fun sk g => pushEntry p sk (pendOfGroup g)) (updPathSk sk p (fun pa => goto pa g))
  else gs.reverse.foldl (fun sk g => pushEntry p sk (pendOfGroup g)) sk
/-- Remove the first complete join entry of a list; its release group. -/
def takeJoin (exited : LMask) : List StkEntry → Option (List Group × List StkEntry)
  | [] => none
  | e :: r =>
    if entryDone exited e then
      match e with
      | .join pc _ a w _ => some ([(pc, without a exited, w)], r)
      | .pend .. => some ([], r)
    else (takeJoin exited r).map (fun t => (t.1, e :: t.2))
/-- Lanes grouped by their link register (R349). -/
def lkGroups (sk : Skein) (m : LMask) (w : Win) : List Group :=
  ((lanesOf m).foldl (fun (g : NMap LMask) l => NMap.insert g (vlane sk.lk l).toNat (NMap.getD g (vlane sk.lk l).toNat 0 ||| oneLane l)) []).map (fun e => (e.1, e.2, w))
/-- One completion of R341: the first complete entry, from the top of each part downward, else the newest complete record. DEDUCED, log entry 33. -/
def completeOnce (sk : Skein) (p : Nat) : Option Skein :=
  let own := sk.paths.findSome? (fun e => (takeJoin sk.exited e.2.own).map (fun t => (e.1, t)))
  match own with
  | some (q, gs, r) => some (release (updPathSk sk q (fun pa => { pa with own := r })) p gs)
  | none =>
    match takeJoin sk.exited sk.stack with
    | some (gs, r) => some (release { sk with stack := r } p gs)
    | none =>
      match sk.records.find? (fun r => within (without r.call sk.exited) r.arrived) with
      | some r => some (release { sk with records := sk.records.filter (fun q => q.id ≠ r.id) } p
          (lkGroups sk (without r.arrived sk.exited) (recWin r)))
      | none => none
/-- Pop and complete until nothing changes: R339 for the path first, then R341, then the other path (R339, R341). DEDUCED, log entry 33. -/
def settle (p : Nat) : Nat → Skein → Skein
  | 0, sk => sk
  | k + 1, sk =>
    match popOnce sk p with
    | some sk => settle p k sk
    | none => match completeOnce sk p with
      | some sk => settle p k sk
      | none => match sk.paths.findSome? (fun e => popOnce sk e.1) with
        | some sk => settle p k sk
        | none => sk
/-- Fuel that covers every entry, record and path a skein can hold (R340). -/
def settleFuel : Nat := 1100

/-- The top frame record of a lane: the newest that lists it (R348). -/
def topRecord (sk : Skein) (l : Nat) : Option Nat := (sk.records.find? (fun r => r.call.getLsbD l)).map FrameRec.id
/-- The record identities that SETJ keeps for its lanes (R340). -/
def topsOf (sk : Skein) (m : LMask) : List (Nat × LMask) :=
  (sk.records.map (fun r => (r.id, lmask (fun l => m.getLsbD l && decide (topRecord sk l = some r.id))))).filter (fun t => t.2 ≠ 0)
/-- The record that a join entry keeps for a lane. -/
def keptTop (tops : List (Nat × LMask)) (l : Nat) : Option Nat := (tops.find? (fun t => t.2.getLsbD l)).map Prod.fst

/-- The path's view of the stack: its own part, then the common part (R347). -/
def topJoin (sk : Skein) (p : Nat) : Option StkEntry :=
  let own := if singlePath sk then [] else ((NMap.get? sk.paths p).map Path.own).getD []
  (own ++ sk.stack).find? (fun e => match e with | .join .. => true | _ => false)
/-- Change the first join entry of a list. -/
def mapFirstJoin (f : StkEntry → StkEntry) : List StkEntry → Option (List StkEntry)
  | [] => none
  | .join pc e a w t :: r => some (f (.join pc e a w t) :: r)
  | e :: r => (mapFirstJoin f r).map (e :: ·)
/-- Change the topmost join entry of a path's view. -/
def updTopJoin (sk : Skein) (p : Nat) (f : StkEntry → StkEntry) : Skein :=
  let own := if singlePath sk then [] else ((NMap.get? sk.paths p).map Path.own).getD []
  match mapFirstJoin f own with
  | some l => updPathSk sk p (fun pa => { pa with own := l })
  | none => match mapFirstJoin f sk.stack with
    | some l => { sk with stack := l }
    | none => sk
/-- Change every stack entry of a skein. -/
def mapEntries (f : StkEntry → StkEntry) (sk : Skein) : Skein :=
  { sk with stack := sk.stack.map f, paths := sk.paths.map (fun e => (e.1, { e.2 with own := e.2.own.map f })) }
/-- Lanes leave the expected masks of join entries that keep a record for them, or of all (R349, R350). -/
def leaveExpected (m : LMask) (rec : Option Nat) (e : StkEntry) : StkEntry :=
  match e with
  | .join pc ex a w t =>
    let gone := match rec with
      | none => m
      | some r => m &&& (((t.find? (fun q => q.1 = r)).map Prod.snd).getD 0)
    .join pc (without ex gone) a w t
  | e => e

/-- How many entries lie in the context area when n are held, of which `was` did before: the deepest beyond the hardware's `cap`; a
spilled entry that comes to the top is filled back (R340). DESIGN CHOICE, log entry 34. -/
def deepOf (cap was n : Nat) : Nat :=
  if cap < n - was then n - cap else if n ≤ was then n - 1 else was
/-- The accesses when the spilled entries, or frame records, go from `was` to `now`: 64 bytes each, the deepest at the lowest address (R340,
R420). DESIGN CHOICE, log entry 34. -/
def movesOf (x : Ctx) (base was now : Nat) : List ControlMove :=
  ((List.range now).filter (fun k => decide (was ≤ k))).map (fun k => .spill (base + 64 * k) x.path x.pc) ++
  (((List.range was).filter (fun k => decide (now ≤ k))).map (fun k => ControlMove.fill (base + 64 * k) x.path x.pc)).reverse
/-- Entries beyond the hardware's 32 and records beyond its 16 are kept in the skein's context area (R340): the skein issues nothing more
until its spills and fills are made. DESIGN CHOICE, log entry 34. -/
def spillControl (x : Ctx) (s : State) : State :=
  match skeinOf s x.core x.slot with
  | none => s
  | some sk =>
    let base := skeinSection (x.launch s) (((boltOf s x.core sk.bolt).map Bolt.block).getD 0) sk.index
    let d := (deepOf 32 sk.deep.1 (entryCount sk), deepOf 16 sk.deep.2 sk.records.length)
    if d = sk.deep then s
    else setSkein s x.core x.slot { sk with deep := d, control := sk.control ++ movesOf x (0x4000 + base) sk.deep.1 d.1 ++ movesOf x (0x8000 + base) sk.deep.2 d.2 }

/-! Spills and fills of control state, and detail blocks (R207, R340, R401, R421). -/

/-- Perform an access of a core to a skein's context area: nothing while a walk or a line is on its way; else the fatal code and the
condition with its address, if it cannot be made. The bytes of an entry are the device's own, with their check word. DESIGN CHOICE, log
entry 17. DEDUCED, log entry 91. DESIGN CHOICE, log entry 34. DESIGN CHOICE, log entry 76. -/
def controlMove (s : State) (core slot ctx : Nat) (sk : Skein) : ControlMove → Option (Option (Nat × Nat × Nat)) × State
  | .spill va _ _ =>
    match virtWrite s (.control core slot) (some core) (dieOf core) (partOf s core) ctx va (withCheck (freeBytes s 56).1) 2 with
    | (none, s) => (none, s)
    | (some c, s) => (some (c.map (fun c => (0x39, c))), { s with freeCtr := s.freeCtr + 56 })
  | .fill va _ _ =>
    match virtRead s (.control core slot) (some core) (dieOf core) (partOf s core) ctx va 64 2 with
    | (none, s) => (none, s)
    | (some (.error c), s) => (some (some (0x39, c)), s)
    | (some (.ok bs), s) => (some (if checkOk bs then none else some (0x3A, 0, 0)), s)
  | .detail ws =>
    let va := detailVa s core slot sk
    match virtWrite s (.control core slot) (some core) (dieOf core) (partOf s core) ctx va (wordBytes ws) 2 with
    | (none, s) => (none, s)
    | (some (some c), s) => (some (some (0x39, c)), s)
    | (some none, s) => (some none, match tlbLook s (some core) (dieOf core) ctx (va57 va) with
      | some e =>
        let line := (e.pa + (va57 va - e.va)) / 128
        dropFills (updCore s core (fun c => { c with l1 := NMap.erase c.l1 line })) core (some line)
      | none => s)
/-- A spill or a fill that cannot be made is a fatal trap of its instruction; a detail block that cannot be written keeps the handler out
(R207, R421, R475). DESIGN CHOICE, log entry 34. -/
def controlFails (core slot : Nat) (sk : Skein) (m : ControlMove) (c : Nat × Nat × Nat) (s : State) : State :=
  let fatal := fun (path pc : Nat) =>
    takeFatal core slot (faultInfoOf { code := c.1, detail := c.2.1 } sk.taskOpen 0 path pc) (BitVec.ofNat 64 c.2.2) 0 s
  match m with
  | .spill _ path pc | .fill _ path pc => fatal path pc
  | .detail _ => detailFails core slot c.2 s
/-- The first access that a skein still has to make goes on. DESIGN CHOICE, log entry 34. -/
def controlStep (core slot : Nat) (s : State) : State :=
  match skeinOf s core slot with
  | none => s
  | some sk => match sk.control with
    | [] => s
    | m :: r => match controlMove s core slot (launchOf s core sk.bolt).ctx sk m with
      | (none, s) => s
      | (some none, s) => updSkein s core slot (fun sk => { sk with control := r })
      | (some (some c), s) => controlFails core slot sk m c s
/-- The skeins of a quarter make what accesses to their context areas are due (R340, R401). -/
def controlTurn (core q : Nat) (s : State) : State :=
  ((NMap.keys (coreOf s core).skeins).filter (fun sl => decide (quarterOf sl = q))).foldl (fun s sl => controlStep core sl s) s

/-- A request joins the queue of its core: oldest first, of one time the lower slot first (R203). -/
def addRequest (r : RegRequest) : List RegRequest → List RegRequest
  | [] => [r]
  | q :: l => if r.since < q.since ∨ (r.since = q.since ∧ r.slot < q.slot) then r :: q :: l else q :: addRequest r l
/-- Windows that hold spilled granules after the instruction make a register request (R203, R204). -/
def windowSpilled (sk : Skein) (w : Win) : List Nat :=
  sk.spilled.filter (fun g => decide (w.base ≤ 8 * g) && decide (8 * g < w.base + w.size))
def requestFills (core slot : Nat) (s : State) : State :=
  match skeinOf s core slot with
  | none => s
  | some sk =>
    let new := sk.paths.filterMap (fun e =>
      let f := windowSpilled sk e.2.win
      if f = [] then none else some ({ slot := slot, path := e.1, top := topOf sk, fills := f, since := s.clock, phase := (coreOf s core).phase, granted := false } : RegRequest))
    updCore s core (fun c => { c with regReqs := (new.filter (fun n => !(c.regReqs.any (fun r => decide (r.slot = n.slot) && decide (r.path = n.path))))).foldl (fun l n => addRequest n l) c.regReqs })
/-- The windows that hold running, parked-at-join or pending lanes: what overflow never spills. DESIGN CHOICE, log entry 82. -/
def activeWins (sk : Skein) : List Win :=
  let f := match sk.frame with
    | none => []
    | some f => f.paths.flatMap (fun e => pathWins e.2) ++ f.stack.map entryWin
  sk.paths.flatMap (fun e => pathWins e.2) ++ sk.stack.map entryWin ++ f
/-- The lowest position of those windows. DESIGN CHOICE, log entry 82. -/
def lowWindow (sk : Skein) : Nat := (activeWins sk).foldl (fun m w => min m w.base) (topOf sk)
/-- Spills ordered of positions that a skein has released, or that lie below its windows no more, are not made (R204, R206). DEDUCED, log
entry 73. -/
def keepOrders (core slot : Nat) (s : State) : State :=
  match skeinOf s core slot with
  | none => s
  | some sk =>
    updCore s core (fun c =>
      let kept := c.spillQ.filter (fun e => decide (e.1 ≠ slot) || (decide (8 * e.2 < topOf sk) && (sk.evicted || decide (8 * e.2 + 8 ≤ lowWindow sk))))
      { c with spillQ := kept, spillSent := c.spillSent && decide (kept.head? = c.spillQ.head?) })

/-- A STITCH in progress ends with its skein. -/
def isStitch (o : Op) : Bool := match o.body with | .stitch => true | _ => false
/-- The skein has exited when every lane has: it keeps its granules, up to the top it had, until it ends (R350, R351). -/
def markExited (top : Nat) (at_ : Nat × Nat) (sk : Skein) : Skein :=
  if sk.exited = allLanes ∧ (sk.run = .running ∨ sk.run = .stepping) then
    let sk := (sk.ops.filter (fun e => isStitch e.2)).foldl (fun sk e => finishOpSk sk e.1) sk
    { sk with run := .exited, paths := [], stack := [], records := [], deep := (0, 0), frame := none, control := [], heldTop := top, exitAt := at_ }
  else releaseAbove sk

/-- Finish a control-flow instruction: the new skein, its spills and fills. -/
def commitControl (x : Ctx) (sk : Skein) (s : State) : State :=
  requestFills x.core x.slot (keepOrders x.core x.slot (spillControl x (setSkein s x.core x.slot (markExited (topOf x.sk) (x.path, x.pc) sk))))

end Sys2Proof.Machine
end

