-- ==== Sys2Proof/Machine/Windows.lean ====
section
/-! DEFINITION. The register pool and its requests, GROW and SHRINK, spill, refill and the deadlock break (spec/08 R196 to
R209). -/

namespace Sys2Proof.Machine

/-- Granules a request needs beyond what its skein holds (R203). -/
def requestNeed (c : Core) (r : RegRequest) : Nat :=
  match NMap.get? c.skeins r.slot with
  | none => 0
  | some sk => (max (topOf sk) r.top - topOf sk) / 8 + (r.fills.filter (fun g => g ∈ sk.spilled)).length
/-- Granules promised to granted requests that have not been taken. -/
def promised (c : Core) : Nat := ((c.regReqs.filter RegRequest.granted).map (requestNeed c)).foldl (· + ·) 0
/-- Granules free for the next grant (R202, R203). -/
def grantable (c : Core) : Nat := freeGranules c - promised c
/-- The registers of positions that the new top adds read as zero (R197, R200). -/
def zeroAbove (sk : Skein) : Skein :=
  let t := topOf sk
  { sk with vregs := sk.vregs.filter (fun e => decide (e.1 < 16 + t)), vmarks := sk.vmarks.filter (fun e => decide (e.1 < 16 + t)) }
/-- Ask for positions up to a top: granted at once when no request waits and the free granules cover it, granted by the
arbiter, or waiting; a request of the path for another top is withdrawn (R203). Answers whether the instruction may proceed. -/
def requestTop (x : Ctx) (top : Nat) (s : State) : Bool × State :=
  let c := coreOf s x.core
  let mine := fun (r : RegRequest) => decide (r.slot = x.slot) && decide (r.path = x.path)
  let others := c.regReqs.filter (fun r => !mine r)
  if top ≤ topOf x.sk then (true, if c.regReqs.any mine then setCore s x.core { c with regReqs := others } else s)
  else match (c.regReqs.find? mine).filter (fun r => decide (r.top = top)) with
    | some r => if r.granted then (true, setCore s x.core { c with regReqs := others }) else (false, s)
    | none =>
      let c := { c with regReqs := others }
      if others.all RegRequest.granted ∧ (top - topOf x.sk) / 8 ≤ grantable c then (true, setCore s x.core c)
      else
        let r : RegRequest := { slot := x.slot, path := x.path, top := top, fills := [], since := s.clock, phase := c.phase, granted := false }
        (false, setCore s x.core { c with regReqs := addRequest r others })

/-- GROW (R199, R200). -/
def execGrow (c : Ctl) (n : Word) (s : State) : Out :=
  issue { guard := .coll } {} c noEarly (fun x s =>
    let w := x.pa.win
    let k := n.toNat
    let t := max (topOf x.sk) (w.base + w.size + k)
    if k % 8 ≠ 0 ∨ 240 < w.size + k then trapX x { code := 0x03 } s
    else if 8 * (x.launch s).backing < t then trapX x { code := 0x06 } s
    else match requestTop x t s with
      | (false, s) => stall x .register s
      | (true, s) => retire x (onSkein x (fun sk => updPathSk (zeroAbove sk) x.path (fun pa => { pa with win := ⟨w.base, w.size + k⟩ })) s)) s
/-- SHRINK (R199, R201). -/
def execShrink (c : Ctl) (n : Word) (s : State) : Out :=
  issue { guard := .coll } {} c noEarly (fun x s =>
    let w := x.pa.win
    let k := n.toNat
    let busy := (pendRegs x.sk).any (fun r => match r with
      | .v key => decide (16 + w.base + w.size ≤ key + k) && decide (key < 16 + w.base + w.size)
      | _ => false)
    if k % 8 ≠ 0 ∨ w.size < 8 + k then trapX x { code := 0x03 } s
    else if busy then stall x .register s
    else retire x (onSkein x (fun sk => releaseAbove (updPathSk sk x.path (fun pa => { pa with win := ⟨w.base, w.size - k⟩ }))) s)) s

/-! The frame map (R196). -/

/-- Scan the frame map in memory for an entry PC; nothing while a line of it is on its way. DEDUCED, log entry 23. DEDUCED, log entry 35. -/
def scanMap (s : State) (core slot path ctx a pc : Nat) : Nat → Option (Option Nat) × State
  | 0 => (some none, s)
  | k + 1 => match virtPeek s (.frame core slot path) (some core) (dieOf core) (partOf s core) ctx a 8 3 with
    | (none, s) => (none, s)
    | (some (.error _), s) => (some none, s)
    | (some (.ok bs), s) =>
      let e := leNat bs
      if field e 0 32 = pc then (some (some (field e 32 8)), s) else scanMap s core slot path ctx (a + 8) pc k
/-- Frame maps are told apart by context, code base, offset and length. DESIGN CHOICE, log entry 78. -/
def mapKey (l : Launch) : Nat := l.codeBase + 2 ^ 64 * (l.mapOff + 2 ^ 64 * (l.mapCount + 2 ^ 64 * l.ctx))
/-- The Frame field of the map entry of a PC, in 8-position units, through the core's recently used entries; none for a PC without
an entry, nothing while the map is being read (R196, R197). DEDUCED, log entry 35. DESIGN CHOICE, log entry 78. -/
def frameOf (s : State) (core slot path : Nat) (l : Launch) (pc : Nat) : Option (Option Nat) × State :=
  let c := coreOf s core
  match c.mapCache.find? (fun e => e.1 = mapKey l ∧ e.2.1 = pc) with
  | some e => (some (some e.2.2), setCore s core { c with mapCache := e :: c.mapCache.filter (fun f => f ≠ e) })
  | none =>
    match scanMap s core slot path l.ctx (l.codeBase + l.mapOff) pc l.mapCount with
    | (some (some f), s) => (some (some f), updCore s core (fun c => { c with mapCache := ((mapKey l, pc, f) :: c.mapCache).take 16 }))
    | r => r

/-! Spill and fill (R204 to R207). -/

/-- Resident granules below every window, lowest first (R204). DESIGN CHOICE, log entry 82. -/
def belowWindows (sk : Skein) : List Nat :=
  (List.range (lowWindow sk / 8)).filter (fun g => g ∉ sk.spilled)
/-- Resident granules of the windows, lowest first (R206); with them those above the lowest window that lie in no window now: they are spilled
late, and their loss evicts. DESIGN CHOICE, log entry 82. -/
def inWindows (sk : Skein) : List Nat :=
  (List.range (topOf sk / 8)).filter (fun g => decide (g ∉ sk.spilled) && decide (g ∉ belowWindows sk))
/-- The first address of the backing stack (R204, R420). -/
def backingBase (s : State) (core : Nat) (sk : Skein) : Nat :=
  0x10000 + skeinSection (launchOf s core sk.bolt) (((boltOf s core sk.bolt).map Bolt.block).getD 0) sk.index
/-- The memory image of a register: lane l in bytes 4l to 4l + 3 (R204). -/
def regImage (v : VReg) : List Byte := laneList.flatMap (fun l => leBytes 4 (vlane v l).toNat)
/-- The register that an image holds. -/
def regOfImage (bs : List Byte) : VReg := laneList.map (fun l => BitVec.ofNat 32 (leNat ((bs.drop (4 * l)).take 4)))
/-- A register-spill fault on a skein (R207): fatal. -/
def registerSpill (core slot code va : Nat) (s : State) : State :=
  match skeinOf s core slot with
  | none => s
  | some sk => takeFatal core slot (faultInfoOf { code := 0x39, detail := code } sk.taskOpen 0 0 ((sk.paths.head?.map (fun e => pathPc e.2)).getD 0)) (BitVec.ofNat 64 va) 0 s
/-- A write of a slow operation is pending to a position of a granule. DESIGN CHOICE, log entry 79. -/
def granulePending (sk : Skein) (g : Nat) : Bool :=
  (pendRegs sk).any (fun r => match r with | .v k => decide (16 + 8 * g ≤ k) && decide (k < 16 + 8 * g + 8) | _ => false)
/-- The first spill ordered is done, or has no granule left to free. -/
def endSpill (core : Nat) (s : State) : State := updCore s core (fun c => { c with spillQ := c.spillQ.drop 1, spillSent := false })
/-- Spill a granule, the first ordered: its eight positions are written to the backing stack at the slices; it is free once the writes are
accepted (R204, R207). It waits for results on their way to its positions, and for other accesses of its skein's pool. DESIGN CHOICE, log
entry 79. -/
def spillGranule (core slot g : Nat) (s : State) : State :=
  let a : Agent := .pool core slot
  match skeinOf s core slot with
  | none => endSpill core s
  | some sk =>
    if topOf sk ≤ 8 * g ∨ g ∈ sk.spilled then endSpill core s
    else if (coreOf s core).spillSent then
      if agentBusy s a then s
      else
        let s := updSkein (endSpill core s) core slot (fun sk => { sk with spilled := sortedInsert g sk.spilled, vregs := sk.vregs.filter (fun e => decide (e.1 < 16 + 8 * g) || decide (16 + 8 * g + 8 ≤ e.1)) })
        updCore s core (fun c => { c with regSpill := min (c.regSpill + 1) (2 ^ 48 - 1) })
    else if granulePending sk g || s.reqs.any (fun r => decide (r.who = .agent a)) then s
    else
      let l := launchOf s core sk.bolt
      let bytes := (List.range 8).flatMap (fun i => regImage (vget sk (16 + 8 * g + i)))
      match virtWrite s a (some core) (dieOf core) (partOf s core) l.ctx (backingBase s core sk + 4096 * g) bytes (lineFuel 4096) with
      | (none, s) => s
      | (some (some (c, va)), s) => registerSpill core slot c va (endSpill core s)
      | (some none, s) => updCore s core (fun c => { c with spillSent := true })
/-- Fill a granule from the backing stack: its lines are read, and once they have come it is resident (R204, R207). DESIGN CHOICE, log
entry 79. -/
def fillGranule (core slot g : Nat) (s : State) : State :=
  match skeinOf s core slot with
  | none => s
  | some sk =>
    let l := launchOf s core sk.bolt
    match virtRead s (.pool core slot) (some core) (dieOf core) (partOf s core) l.ctx (backingBase s core sk + 4096 * g) 4096 (lineFuel 4096) with
    | (none, s) => s
    | (some (.error (c, va)), s) => registerSpill core slot c va s
    | (some (.ok bs), s) =>
      let put := fun (sk : Skein) (i : Nat) => { sk with vregs := NMap.insert sk.vregs (16 + 8 * g + i) (regOfImage ((bs.drop (512 * i)).take 512)) }
      let s := updSkein s core slot (fun sk => { (List.range 8).foldl put sk with spilled := sk.spilled.filter (fun h => h ≠ g) })
      updCore s core (fun c => { c with regFill := min (c.regFill + 1) (2 ^ 48 - 1) })
/-- Order the spills that the head request still lacks, from a list of candidates (R204, R206). DEDUCED, log entry 73. -/
def orderSpills (core : Nat) (r : RegRequest) (cands : List (Nat × Nat)) (s : State) : State :=
  updCore s core (fun c =>
    let want := requestNeed c r - grantable c - c.spillQ.length
    { c with spillQ := c.spillQ ++ (cands.filter (fun e => e ∉ c.spillQ)).take want })
/-- The head request: the oldest that is not granted (R203). -/
def headRequest (c : Core) : Option RegRequest := c.regReqs.find? (fun r => !r.granted)
/-- A victim that has lost no position of its windows after all is not evicted, and its request for them is dropped (R206). DEDUCED, log entry 73. -/
def keepVictims (core : Nat) (s : State) : State :=
  (coreOf s core).skeins.foldl (fun (s : State) (e : Nat × Skein) =>
    if e.2.evicted && e.2.spilled.all (fun g => decide (8 * g + 8 ≤ lowWindow e.2)) then
      updCore (updSkein s core e.1 (fun sk => { sk with evicted := false })) core (fun c => { c with regReqs := c.regReqs.filter (fun r => decide (r.slot ≠ e.1) || decide (r.path ≠ 2)) })
    else s) s
/-- Grant the head request of a core if the free granules cover it; the spills that are left are not made (R203, R204, R206). DEDUCED, log
entry 73. -/
def grantHead (core : Nat) (s : State) : State :=
  let c := coreOf s core
  match headRequest c with
  | none => s
  | some r =>
    if grantable c < requestNeed c r then s
    else keepVictims core (setCore s core { c with regReqs := mapIf (fun q => decide (q = r)) (fun q => { q with granted := true }) c.regReqs, spillQ := [], spillSent := false })
/-- A granted request for spilled positions reads them back, granule by granule, and ends; its skein is evicted no more (R204, R207). -/
def fillGranted (core : Nat) (s : State) : State :=
  let c := coreOf s core
  match c.regReqs.find? (fun r => r.granted && decide (r.fills ≠ [])) with
  | none => s
  | some r =>
    match r.fills.find? (fun g => decide (g ∈ ((skeinOf s core r.slot).map Skein.spilled).getD [])) with
    | some g => fillGranule core r.slot g s
    | none => updSkein (setCore s core { c with regReqs := c.regReqs.filter (fun q => q ≠ r) }) core r.slot (fun sk => { sk with evicted := false })

/-- REGISTER_REQUEST_GRANT: a granted request's positions are filled; the head request is granted when the free granules cover it, and
when they do not, its own skein's positions below its windows are ordered to be spilled (R203, R204). -/
def execRegisterRequestGrant (core : Nat) (s : State) : Out :=
  event (fun s =>
    let s := fillGranted core s
    match headRequest (coreOf s core) with
    | none => s
    | some r => match skeinOf s core r.slot with
      | none => updCore s core (fun c => { c with regReqs := c.regReqs.filter (fun q => q ≠ r) })
      | some sk =>
        if r.path < 2 && (NMap.get? sk.paths r.path).isNone then updCore s core (fun c => { c with regReqs := c.regReqs.filter (fun q => q ≠ r) })
        else grantHead core (orderSpills core r ((belowWindows sk).map (fun g => (r.slot, g))) s)) s

/-- Skeins that are register-stalled: those that wait on a request or are evicted, then those parked at a barrier for which
every skein of the bolt that has not arrived is already stalled (R205). DESIGN CHOICE, log entry 81. -/
def stalledRound (c : Core) (now : List Nat) : List Nat :=
  (c.skeins.map Prod.fst).filter (fun sl => match NMap.get? c.skeins sl with
    | none => false
    | some sk =>
      decide (sl ∈ now) || c.regReqs.any (fun r => decide (r.slot = sl) && !r.granted) || sk.evicted ||
      sk.paths.any (fun e => match e.2.wait with
        | some (.barrier b, _) =>
          let arrived := (((NMap.get? c.bolts sk.bolt).bind (fun bt => NMap.get? bt.points b)).map Rendezvous.arrived).getD []
          c.skeins.all (fun o => decide (o.2.bolt ≠ sk.bolt) || decide (o.2.index ∈ arrived) || decide (o.1 ∈ now))
        | _ => false))
def stalledSkeins (c : Core) : List Nat := (List.range 64).foldl (fun l _ => stalledRound c l) []
/-- The condition of R205: every resident skein register-stalled, or the head request has waited 65,536 core clocks; and no break is under
way, its spills ordered and not yet complete. A skein that has ended, in a slot that its bolt still holds, is not asked. DESIGN CHOICE, log
entry 105. -/
def breakDue (s : State) (core : Nat) : Bool :=
  let c := coreOf s core
  match headRequest c with
  | none => false
  | some r => decide (grantable c + c.spillQ.length < requestNeed c r) &&
    (decide (c.headTimeout = some (r.slot, r.path, r.since)) || (c.skeins.filter (fun e => decide (e.2.run ≠ .ended))).all (fun e => decide (e.1 ∈ stalledSkeins c)))
/-- Victims of a break in the order of R206: youngest bolt first, highest slot first; positions below the windows, then the
windows. DEDUCED, log entry 73. -/
def breakVictims (c : Core) (r : RegRequest) : List (Nat × Nat) :=
  let sks := (c.skeins.filter (fun e => decide (e.1 ≠ r.slot) && decide (e.2.run ≠ .ended)))
  let order := (sortBy (fun (e : Nat × Skein) => 64 * e.2.born + e.1) sks).reverse
  order.flatMap (fun e => (belowWindows e.2 ++ inWindows e.2).map (fun g => (e.1, g)))
/-- Granules of a skein's windows that a break has ordered to be spilled (R206). -/
def lostGranules (c : Core) (slot : Nat) (sk : Skein) : List Nat :=
  ((c.spillQ.filter (fun e => decide (e.1 = slot))).map Prod.snd).filter (fun g => decide (g ∈ inWindows sk))
/-- The request of an evicted skein for its windows, path 2 (R207): a new one, or one that waits already, with more to fill. -/
def refillRequest (s : State) (core slot : Nat) (sk : Skein) (lost : List Nat) (l : List RegRequest) : List RegRequest :=
  let mine := fun (r : RegRequest) => decide (r.slot = slot) && decide (r.path = 2)
  if l.any mine then mapIf mine (fun r => { r with fills := dedup (r.fills ++ lost), granted := false }) l
  else addRequest { slot := slot, path := 2, top := topOf sk, fills := lost, since := s.clock, phase := (coreOf s core).phase, granted := false } l
/-- A skein that loses a window position in a break is evicted and asks for its windows back (R206, R207). DEDUCED, log entry 73. -/
def evictLosers (core : Nat) (s : State) : State :=
  (coreOf s core).skeins.foldl (fun (s : State) (e : Nat × Skein) =>
    let lost := lostGranules (coreOf s core) e.1 e.2
    if lost = [] then s
    else
      updCore (updSkein s core e.1 (fun sk => { sk with evicted := true })) core (fun c => { c with regReqs := refillRequest s core e.1 e.2 lost c.regReqs })) s
/-- REGISTER_DEADLOCK_BREAK (R205, R206). -/
def execRegisterDeadlockBreak (core : Nat) (s : State) : Out :=
  event (fun s =>
    if !breakDue s core then s else
    match headRequest (coreOf s core) with
    | none => s
    | some r =>
      let own := ((skeinOf s core r.slot).map belowWindows).getD []
      let s := orderSpills core r (own.map (fun g => (r.slot, g)) ++ breakVictims (coreOf s core) r) s
      let s := updCore s core (fun c => { c with regBreak := min (c.regBreak + 1) (2 ^ 32 - 1) })
      evictLosers core s) s
/-- HEAD_REQUEST_TIMEOUT: the head request has waited 65,536 core clocks (R205). -/
def execHeadRequestTimeout (core : Nat) (s : State) : Out :=
  event (fun s => match headRequest (coreOf s core) with
    | none => s
    | some r => if 65536 * 144 ≤ (coreOf s core).phase - r.phase then updCore s core (fun c => { c with headTimeout := some (r.slot, r.path, r.since) }) else s) s
/-- GRANULE_SPILL_COMPLETE: the first spill ordered goes on; once it is complete its granule is free (R207). -/
def execGranuleSpillComplete (core : Nat) (s : State) : Out :=
  event (fun s => match (coreOf s core).spillQ with
    | [] => s
    | (slot, g) :: _ => grantHead core (spillGranule core slot g s)) s
/-- GRANULE_REFILL: with no request waiting and a granule free, the highest spilled granule of the lowest-numbered skein slot is
refilled (R207). DEDUCED, log entry 73. -/
def execGranuleRefill (core : Nat) (s : State) : Out :=
  event (fun s =>
    let c := coreOf s core
    if c.regReqs ≠ [] || decide (grantable c = 0) then s else
    match c.skeins.find? (fun e => decide (e.2.spilled ≠ []) && decide (e.2.run ≠ .ended) && decide (e.2.run ≠ .exited)) with
    | none => s
    | some e => match e.2.spilled.getLast? with
      | none => s
      | some g => fillGranule core e.1 g s) s

end Sys2Proof.Machine
end

