-- ==== Sys2Proof/Machine/Bolts.lean ====
section
/-! DEFINITION. Bolts: admission, placement, the end of a skein, a bolt and a grid, the context area, stops, saves, parks and
restores, and the weight-store gate (spec/16 R385 to R389, 08 R202, R209, 07 R167, 17 R404, R415 to R421, R475, 04 R100). -/

namespace Sys2Proof.Machine

/-! Admission (R387, R389). -/

/-- Skeins resident on a core. -/
def residentSkeins (c : Core) : Nat := c.skeins.length
/-- Allotments of the present tile entries of a core, in 128-byte units. -/
def allotments (c : Core) : List (Nat × Nat) := (c.tiles.filter (fun e => e.2.present)).map (fun e => (e.2.base, e.2.size))
/-- The lowest offset at which an allotment lies in free tile store of 4,096 units (R167). -/
def placeTile (used : List (Nat × Nat)) (size : Nat) : Option Nat :=
  leastBy id ((0 :: used.map (fun u => u.1 + u.2)).filter (fun o => decide (o + size ≤ 4096) && used.all (fun u => decide (o + size ≤ u.1) || decide (u.1 + u.2 ≤ o))))
/-- Place declarations in order; none when one cannot be placed. -/
def placeTiles (used : List (Nat × Nat)) : List TileDecl → Option (List (TileDecl × Nat))
  | [] => some []
  | d :: r => match placeTile used d.size with
    | none => none
    | some o => (placeTiles ((o, d.size) :: used) r).map (fun l => (d, o) :: l)
/-- Accumulator tiles of the store that no bolt holds. -/
def freeAccs (c : Core) : List Nat := (List.range 32).filter (fun n => !c.bolts.any (fun b => decide (n ∈ b.2.accs)))
/-- Granules of a new bolt: globals and the entry window of each skein (R202). -/
def newGranules (l : Launch) : Nat := l.skeins * (l.globals / 8 + l.frame / 8)
/-- Granules a restore takes: globals, and the windows of the live paths (R209). -/
def restoreGranules (l : Launch) (skeins : NMap Skein) : Nat :=
  (skeins.map (fun e => l.globals / 8 + (dedup ((e.2.paths.map (fun p => p.2.win)).flatMap (fun w => (List.range (w.size / 8)).map (w.base / 8 + ·)))).length)).foldl (· + ·) 0
/-- The grid's bolts on a core. -/
def gridBolts (c : Core) (g : Nat) : List (Nat × Bolt) := c.bolts.filter (fun b => b.2.grid = g)
/-- The quotas of the launch record hold with one more bolt (R387). -/
def quotasOk (c : Core) (g : Nat) (l : Launch) (gran : Nat) : Bool :=
  let bs := gridBolts c g
  let held := ((c.skeins.filter (fun e => bs.any (fun b => decide (b.1 = e.2.bolt)))).map (fun e => granulesOf e.2)).foldl (· + ·) 0
  let bytes := (bs.map (fun b => (b.2.tiles.map (fun t => 128 * (NMap.getD c.tiles t {}).size)).foldl (· + ·) 0)).foldl (· + ·) 0
  let new := (l.decls.map (fun d => 128 * d.size)).foldl (· + ·) 0
  let accs := (bs.map (fun b => b.2.accs.length)).foldl (· + ·) 0
  (decide (l.boltQuota = 0) || decide (bs.length < l.boltQuota)) && (decide (l.granQuota = 0) || decide (held + gran ≤ l.granQuota)) &&
  (decide (l.tileQuota = 0) || decide (bytes + new ≤ 4096 * l.tileQuota)) && (decide (l.accQuota = 0) || decide (accs + l.accums ≤ l.accQuota))
/-- Cores that the shares of running plans hold, or have taken. -/
def sharedCores (s : State) : List Nat :=
  (s.plans.filter (fun p => decide (p.2.state = .running) || decide (p.2.state = .stopping))).flatMap (fun p => p.2.stages.flatMap (fun t => t.2.share ++ t.2.joining))
/-- The core lies in the grid's share, or in no share (R384, R148). -/
def shareOk (s : State) (g : Grid) (core : Nat) : Bool :=
  match g.plan with
  | none => decide (core ∉ sharedCores s)
  | some (pl, st) => (((NMap.get? s.plans pl).bind (fun p => NMap.get? p.stages st)).map (fun t => decide (core ∈ t.share))).getD false
/-- A bolt that needs `gran` granules is admissible on a core (R387). -/
def admissible (s : State) (gn : Nat) (g : Grid) (gran core : Nat) : Bool :=
  let c := coreOf s core
  let l := g.launch
  corePresent s core && decide (partOf s core = g.part) && shareOk s g core && decide (residentSkeins c + l.skeins ≤ 64) && c.regReqs.all RegRequest.granted &&
  decide (gran ≤ grantable c) && l.decls.all (fun d => !(NMap.getD c.tiles d.entry {}).present) && (placeTiles (allotments c) l.decls).isSome &&
  decide (l.accums ≤ (freeAccs c).length) && quotasOk c gn l gran
/-- The slot of the next skein: the lowest free one of the quarter with the fewest resident skeins (R389). -/
def nextSlot (taken : List Nat) : Nat :=
  let q := (leastBy (fun q => (taken.filter (fun t => decide (quarterOf t = q))).length) [0, 1, 2, 3]).getD 0
  (((List.range 16).map (16 * q + ·)).find? (fun t => t ∉ taken)).getD 0
/-- The slots of the skeins of a bolt, in index order. -/
def newSlots (taken : List Nat) : Nat → List Nat
  | 0 => []
  | n + 1 => let t := nextSlot taken; t :: newSlots (t :: taken) n
/-- A bolt takes a core's resources: its number, its slots, its tile entries, its accumulators. -/
def takeResources (s : State) (core : Nat) (g : Nat) (l : Launch) (block : Nat) (tile : TileEntry → TileEntry) : Nat × Bolt × State :=
  let c := coreOf s core
  let placed := (placeTiles (allotments c) l.decls).getD []
  let accs := (freeAccs c).take l.accums
  let b : Bolt := { grid := g, block := block, slots := newSlots (NMap.keys c.skeins) l.skeins, accs := accs, tiles := l.decls.map TileDecl.entry, started := s.clock
                    acquired := false, acqMark := s.nextId }
  let entries := placed.foldl (fun ts e => NMap.insert ts e.1.entry (tile { cols := e.1.cols, rows := e.1.rows, size := e.1.size, slot := e.1.slot, useSlot := e.1.useSlot, fmt := e.1.fmt, base := e.2, present := true })) c.tiles
  (c.nextBolt, b, setCore s core { c with bolts := NMap.insert c.bolts c.nextBolt b, nextBolt := c.nextBolt + 1, tiles := entries
                                          accs := accs.foldl (fun m n => NMap.erase m n) c.accs })
/-- A skein at dispatch (R380, R381). -/
def newSkein (l : Launch) (bolt index born : Nat) : Skein :=
  let lanes := l.lanes - 128 * index
  { bolt := bolt, index := index, born := born, globals := l.globals
    paths := [(0, { pc := l.entryPc, mask := allLanes, win := ⟨0, l.frame⟩ })]
    exited := lmask (fun i => decide (lanes ≤ i))
    kregs := (l.args.zip (List.range l.argWords)).foldl (fun m e => NMap.insert m e.2 e.1) [] }
/-- Admit an undispatched bolt (R387 to R389). -/
def admitBolt (s : State) (gn : Nat) (g : Grid) (block core : Nat) : State :=
  let l := g.launch
  let (bn, b, s) := takeResources s core gn l block id
  let s := (b.slots.zip (List.range b.slots.length)).foldl (fun s e => setSkein s core e.1 (newSkein l bn e.2 s.nextId)) s
  let s : State := { s with nextId := s.nextId + 1 }
  drainAcquire (updGrid s gn (fun g => { g with running := g.running + 1, todo := g.todo.map (fun e => (e.1, e.2.filter (fun b => b ≠ block))) }))

/-! Resources come back. -/

/-- The agents that read lines for a skein, and for its bolt's context. -/
def skeinAgents (core slot : Nat) : List Agent :=
  [.skein core slot, .adapter core slot, .pool core slot, .control core slot, .coll core slot] ++ [0, 1].flatMap (fun p => [.fetch core slot p, .frame core slot p])
def endAgents (s : State) (l : List Agent) : State := l.foldl endAgent s
/-- A bolt's entries become not present and empty, and its slots, granules and accumulators return (R167, R416). -/
def returnResources (s : State) (core bolt : Nat) : State :=
  match boltOf s core bolt with
  | none => s
  | some b =>
    let s := endAgents s (.context b.grid b.block :: b.slots.flatMap (skeinAgents core))
    updCore s core (fun c =>
      let mine := fun (slot : Nat) => ((NMap.get? c.skeins slot).map Skein.bolt) == some bolt
      let kept := c.spillQ.filter (fun e => !mine e.1)
      { c with skeins := c.skeins.filter (fun e => decide (e.2.bolt ≠ bolt)), bolts := NMap.erase c.bolts bolt
               tiles := c.tiles.filter (fun e => e.1 ∉ b.tiles), accs := c.accs.filter (fun e => e.1 ∉ b.accs)
               regReqs := c.regReqs.filter (fun r => !mine r.slot), spillQ := kept, spillSent := c.spillSent && decide (kept.head? = c.spillQ.head?) })
/-- The skeins of a bolt with their slots. -/
def boltSkeins (s : State) (core bolt : Nat) : List (Nat × Skein) := (coreOf s core).skeins.filter (fun e => e.2.bolt = bolt)
/-- Copies of the bolt, and copies of other cores that read its tiles, are under way (R167, R416). -/
def boltCopies (s : State) (core bolt : Nat) : Bool :=
  (coreOf s core).copyq.any (fun c => ((skeinOf s core c.slot).map Skein.bolt) == some bolt) ||
  (((boltOf s core bolt).map Bolt.tiles).getD []).any (fun t => decide ((tileOf s core t).peerReads ≠ 0))
/-- The release of a bolt at a scope: begun, then done once its writes are performed (R247, R416). -/
def boltRelease (s : State) (core bolt : Nat) (scope : Scope) : Bool × State :=
  match (boltOf s core bolt).bind Bolt.release with
  | none =>
    let s := writeBackAll s core none
    let w := coreWrites s core
    (waitsDone s scope w, updBolt s core bolt (fun b => { b with release := some w }))
  | some w => (waitsDone s scope w, s)
/-- The grid has, or will have, a bolt on a die. -/
def gridOnDie (s : State) (g die : Nat) : Bool :=
  match NMap.get? s.grids g with
  | none => false
  | some gr => (List.range 48).any (fun n => decide (gridBolts (coreOf s (48 * die + n)) g ≠ [])) || decide (NMap.getD gr.todo die [] ≠ []) || gr.saved.any (fun e => decide (e.2.1 = die))
/-- The grid's bind of the weight store ends on a die with its last bolt there (R100). -/
def leaveGate (s : State) (g die : Nat) : State :=
  if gridOnDie s g die then s else
  let dd := NMap.getD s.dies die {}
  let readers := dd.gateReaders.filter (fun r => r ≠ g)
  { s with dies := NMap.insert s.dies die { dd with gateReaders := readers, gate := if dd.gate = .read ∧ readers = [] then .free else dd.gate
                                                    gateQueue := dd.gateQueue.filter (fun w => w.grid ≠ some g) } }

/-! The end of skeins, bolts and grids. -/

/-- SKEIN_END (R350): every lane has exited, the store queue is empty and every operation is complete. A fault of a copy that completed after
the last exit has no other report left: it parks the bolt (R170). DESIGN CHOICE, log entry 89. DEDUCED, log entry 90. -/
def execSkeinEnd (core slot : Nat) (s : State) : Out :=
  event (fun s =>
    let stuck := ((skeinOf s core slot).bind Skein.mat).elim false (fun m => m.fault.isSome)
    let s := match skeinOf s core slot with
      | some sk => if sk.run = .exited ∧ stuck then endMatrix s core slot else s
      | none => s
    match skeinOf s core slot with
    | none => s
    | some sk =>
      if sk.run = .exited ∧ sk.sq = [] ∧ sk.sqWait = [] ∧ sk.ops = [] ∧ sk.mat.isNone ∧ !sk.taskOpen ∧ sk.counters.all (fun n => decide (n = 0)) then
        match sk.copyFaults with
        | [] =>
          let s := updGrid s (((boltOf s core sk.bolt).map Bolt.grid).getD 0) (fun g => { g with lastEnd := some s.clock })
          updSkein (dropPipeWaits core slot s) core slot (fun sk => { sk with run := .ended, vregs := [], vmarks := [], spilled := [] })
        | f :: _ =>
          let t := copyFaultTrap f
          takeFatal core slot (faultInfoOf t false 0 sk.exitAt.1 sk.exitAt.2) (BitVec.ofNat 64 t.va) t.word3 (updSkein s core slot (dropCopyFault f))
      else s) s
/-- The lowest block index of a grid (R379). -/
def baseBlock (l : Launch) : Nat := ((l.ranges.filter (fun r => r.2 ≠ 0)).map Prod.fst).foldl min (2 ^ 32)
/-- Write a bolt's event word, through the die's translation (R385, R474): the write is sent, or a walk is still to be made. DEDUCED, log
entry 66. -/
def eventWord (s : State) (core bolt : Nat) (b : Bolt) : State :=
  let sent := fun (s : State) => updBolt s core bolt (fun b => { b with written := some (0, none) })
  match NMap.get? s.grids b.grid with
  | none => sent s
  | some g =>
    let l := g.launch
    if l.eventArray = 0 then sent s else
    let va := l.eventArray + 8 * (b.block - baseBlock l)
    match virtWrite s (.context b.grid b.block) none (dieOf core) (partOf s core) l.ctx va (leBytes 8 (g.queue * 2 ^ 48 + g.seq)) 2 with
    | (none, s) => s
    | (some (some (c, _)), s) => sent (eventRecord (updGrid s b.grid (fun g => { g with failed := true })) 0x0B c g.queue g.seq [b.block, va])
    | (some none, s) => sent s
/-- The bolt is of a plan that is being stopped: it writes no event word (R463). -/
def stoppedPlan (s : State) (b : Bolt) : Bool :=
  ((NMap.get? s.grids b.grid).bind Grid.plan).any (fun p => decide ((NMap.get? s.plans p.1).map Plan.state = some .stopping))
/-- BOLT_END (R167, R247, R385): release, event word, and, once the word is accepted, the bolt's resources return. -/
def execBoltEnd (core bolt : Nat) (s : State) : Out :=
  event (fun s => match boltOf s core bolt with
    | none => s
    | some b =>
      if !(boltSkeins s core bolt).all (fun e => decide (e.2.run = .ended)) || boltCopies s core bolt then s
      else match boltRelease s core bolt .sys with
        | (false, s) => s
        | (true, s) =>
          let s := if b.written.isSome then s
            else if stoppedPlan s b then updBolt s core bolt (fun b => { b with written := some (0, none) })
            else eventWord s core bolt b
          if ((boltOf s core bolt).bind Bolt.written).isNone || agentBusy s (.context b.grid b.block) then s
          else
            let s := returnResources s core bolt
            leaveGate (updGrid s b.grid (fun g => { g with running := g.running - 1, lastEnd := some s.clock })) b.grid (dieOf core)) s
/-- Mark an entry of a queue done. -/
def entryDone' (s : State) (q seq : Nat) (failed : Bool) : State :=
  { s with queues := nupdate s.queues q (fun w => { w with entries := mapIf (fun e => decide (e.seq = seq)) (fun e => { e with state := .done, failed := e.failed || failed }) w.entries }) }
/-- GRID_COMPLETE (R385, R136): a launch entry completes with its grid; a stage's pipes close. DEDUCED, log entry 66. -/
def execGridComplete (grid : Nat) (s : State) : Out :=
  event (fun s => match NMap.get? s.grids grid with
    | none => s
    | some g =>
      if g.done || g.running ≠ 0 || g.saved ≠ [] || g.todo.any (fun e => decide (e.2 ≠ [])) then s
      else
        let s := updGrid s grid (fun g => { g with done := true })
        match g.plan with
        | none =>
          let s := if g.stopped then eventRecord s 9 4 g.queue g.seq [g.boltsStopped] else s
          entryDone' s g.queue g.seq (g.failed || g.stopped)
        | some (pl, st) => match NMap.get? s.plans pl with
          | none => s
          | some p =>
            if p.state ≠ .running then s
            else
              let s : State := { s with plans := nupdate s.plans pl (fun p => { p with stages := nupdate p.stages st (fun t => { t with done := true }) }) }
              p.pipes.foldl (fun s e => if isProducer e.2 st then closeStagePipe s pl e.1 e.2 else s) s) s

/-! The context area (R420, R421). -/

/-- A tile table entry as its 64-bit word (07 Table 1). -/
def tileWord (e : TileEntry) : Nat :=
  (match e.state with | .empty => 0 | .filling => 1 | .ready => 2 | .draining => 3) * 2 ^ 62 + (if e.poison then 2 ^ 61 else 0) + (if e.present then 2 ^ 60 else 0) +
  (if e.faulted then 2 ^ 59 else 0) + (e.cols - 1) * 2 ^ 49 + (e.rows - 1) * 2 ^ 40 + (e.size - 1) * 2 ^ 24 + e.base * 2 ^ 12 + e.slot * 2 ^ 9 + (if e.useSlot then 256 else 0) + e.fmt
/-- State, Poison and Faulted of a word, for an entry that is placed anew. -/
def entryOfWord (w : Nat) (e : TileEntry) : TileEntry :=
  { e with state := if field w 62 2 = 2 then .ready else .empty, poison := bitAt w 61, faulted := bitAt w 59 }
/-- The device-private regions of a bolt that end in a check word: control records, trap frames beyond their detail blocks, stitch states
(R421). -/
def privRegions (l : Launch) : List (Nat × Nat) :=
  (0, 4096) :: (List.range l.skeins).flatMap (fun i =>
    let z := 0x200000 + i * (65536 * (1 + cdiv l.backing 16))
    [(z, 1024), (0x820 + z, 2016), (0x1000 + z, 4096)])
def freeRun (n k : Nat) : List Byte := (List.range k).map (fun i => Config.freeByte (n + i))
/-- The private regions with the bytes a save writes there from a free-byte number on, their check words last; and the rendezvous points,
which carry none. DESIGN CHOICE, log entry 17. DEDUCED, log entry 91. -/
def privBytes (l : Launch) (priv : Nat) : List (Nat × List Byte) :=
  ((privRegions l).foldl (fun (a : Nat × List (Nat × List Byte)) r => (a.1 + r.2, a.2 ++ [(r.1, withCheck (freeRun a.1 (r.2 - 8)))])) (priv + 384, [(0x1800, freeRun priv 384)])).2
def privSize (l : Launch) : Nat := ((privRegions l).map Prod.snd).foldl (· + ·) 384
/-- The detail block of a skein: of the fatal trap that struck it, else FAULTINFO and the block of the trap frame it keeps (R401, R420). DESIGN
CHOICE, log entry 94. -/
def detailBlock (sk : Skein) : List DWord :=
  match sk.fatal with
  | some (f, w1, task, w3, _, _) => [f, w1, task, w3]
  | none => sk.faultInfo :: (if sk.detail.length = 3 then sk.detail else [0, 0, 0])
/-- The images of an accumulator tile: elements then side buffer, and its row tags. -/
def accImage (t : AccTile) : List Byte := (List.range 4096).flatMap (fun n => leBytes 4 (NMap.getD t.elems n 0).toNat) ++ (List.range 4096).flatMap (fun n => leBytes 4 (NMap.getD t.side n 0).toNat)
def tagImage (t : AccTile) : List Byte := (List.range 64).flatMap (fun i => leBytes 2 (NMap.getD t.tags i 0))
/-- The regions of a skein that the spec lays out: offset in its section and bytes. DESIGN CHOICE, log entry 94. -/
def skeinImage (sk : Skein) : List (Nat × List Byte) :=
  [(0x800, wordBytes (detailBlock sk)), (0x400, (List.range 64).flatMap (fun n => leBytes 4 (kget sk n).toNat)), (0x500, (List.range 7).flatMap (fun n => leBytes 16 (pget sk n).toNat)),
   (0x600, regImage sk.lk), (0x2000, (List.range 16).flatMap (fun n => regImage (vget sk n)))] ++
  ((List.range (topOf sk / 8)).filter (fun g => g ∉ sk.spilled)).map (fun g => (0x10000 + 4096 * g, (List.range 8).flatMap (fun i => regImage (vget sk (16 + 8 * g + i)))))
/-- The tile images in declaration order: offset and entry. -/
def tileOffsets (s : State) (core : Nat) (l : Launch) : List (Nat × Nat) :=
  (l.decls.foldl (fun (a : Nat × List (Nat × Nat)) d => (a.1 + 128 * (tileOf s core d.entry).size, a.2 ++ [(a.1, d.entry)])) (0x110000, [])).2
/-- Everything a bolt's context holds (R420), in the order in which a save writes it: a skein that a fatal trap struck first, its detail block
before the rest. DESIGN CHOICE, log entries 18 and 94. DESIGN CHOICE, log entry 18. DESIGN CHOICE, log entry 94. -/
def contextImage (s : State) (core bolt : Nat) (l : Launch) (priv : Nat) : List (Nat × List Byte) :=
  match boltOf s core bolt with
  | none => []
  | some b =>
    let z := fun i => 0x200000 + i * (65536 * (1 + cdiv l.backing 16))
    let entry := fun t => if t ∈ b.tiles then tileWord (tileOf s core t) else 0
    let ks := boltSkeins s core bolt
    (ks.filter (fun e => e.2.fatal.isSome) ++ ks.filter (fun e => e.2.fatal.isNone)).flatMap (fun e => (skeinImage e.2).map (fun r => (z e.2.index + r.1, r.2))) ++
    [(0x1000, (List.range 256).flatMap (fun t => leBytes 8 (entry t)))] ++
    (b.accs.zip (List.range b.accs.length)).flatMap (fun a => [(0x2000 + 128 * a.2, tagImage (accOf s core a.1)), (0x10000 + 32768 * a.2, accImage (accOf s core a.1))]) ++
    (tileOffsets s core l).map (fun t => (t.1, tileRead s core ((tileOf s core t.2).base * 128) (128 * (tileOf s core t.2).size))) ++ privBytes l priv
/-- Translate every region that is to be written; nothing while a walk is under way. -/
def mapRegions (s : State) (a : Agent) (core ctx base : Nat) : List (Nat × List Byte) → Option (List (List VLine × List Byte)) × State
  | [] => (some [], s)
  | e :: r =>
    let (x, s) := virtMap s a (some core) (dieOf core) (partOf s core) ctx (base + e.1) e.2.length .write (lineFuel e.2.length)
    let (y, s) := mapRegions s a core ctx base r
    (x.bind (fun l => y.map (fun m => (l, e.2) :: m)), s)
/-- Write a bolt's context: once every line has a translation the writes are sent; they are complete when accepted. Answers the number of
the first private byte and the first condition met (R420, R475), or nothing yet. -/
def writeContext (s : State) (core bolt : Nat) : Option (Nat × Option (Nat × Nat)) × State :=
  match boltOf s core bolt with
  | none => (some (0, none), s)
  | some b =>
    let a : Agent := .context b.grid b.block
    match b.written with
    | some w => (if agentBusy s a || (b.slots.any (fun sl => agentBusy s (.pool core sl) || agentBusy s (.control core sl))) then none else some w, s)
    | none =>
      let l := launchOf s core bolt
      let priv := s.freeCtr
      match mapRegions s a core l.ctx (ctxAreaOf l b.block) (contextImage s core bolt l priv) with
      | (none, s) => (none, s)
      | (some ls, s) =>
        let cond := ls.findSome? (fun e => firstLineBad e.1)
        let s := endAgent (ls.foldl (fun s e => writeLines s a (dieOf core) (portOf core) (partOf s core) e.1 e.2) { s with freeCtr := priv + privSize l }) a
        (none, updBolt s core bolt (fun b => { b with written := some (priv, cond) }))

/-! Stops (R415, R416). -/

/-- An operation that a stop leaves as it is: a matrix instruction or a STITCH stops at its boundary, ADPF fills continue. -/
def staysAtStop (o : Op) : Bool := match o.body with | .matrix | .stitch | .adpf _ _ => true | _ => false
/-- The kinds of stop that discard open tasks. -/
def stopDiscards : StopKind → Bool | .save => false | _ => true
/-- Begin the stop of a bolt: its skeins issue no more; a halted bolt proceeds as a running one (R415, R424). -/
def beginStop (s : State) (core bolt : Nat) (k : StopKind) : State :=
  let s := updBolt s core bolt (fun b => if b.stop = some .park then b else { b with stop := some k, release := none, written := none })
  (boltSkeins s core bolt).foldl (fun s e => updSkein s core e.1 (fun sk => { sk with discarding := sk.discarding || (stopDiscards k && sk.taskOpen) })) s
/-- A bolt's context is still being read (R417). -/
def restoring (s : State) (core bolt : Nat) : Bool := s.savedBolts.any (fun v => decide (v.into = some (core, bolt)))
/-- A push or pop of the skein has reserved and will still issue (R161). -/
def reservedIssue (s : State) (core : Nat) (e : Nat × Skein) : Bool :=
  e.2.paths.any (fun p => reserved s core e.1 p.1)
/-- Every skein of the bolt is at its stop points, its copies are complete and its store queues empty (R416). -/
def stopReached (s : State) (core bolt : Nat) (k : StopKind) : Bool :=
  (boltSkeins s core bolt).all (fun e =>
    decide (e.2.sq = []) && decide (e.2.sqWait = []) && decide (e.2.control = []) && e.2.publish.isNone && e.2.ops.all (fun o => staysAtStop o.2 && !o.2.fromStitch) &&
    (e.2.mat.elim true (fun m => hasSteps m.kind)) && !(stopDiscards k && e.2.taskOpen) && !reservedIssue s core e) && !boltCopies s core bolt && !restoring s core bolt
/-- The skein as its context keeps it: waits end, a SLEEP ends, ADPF fills count no more, pipe waits are given up. -/
def settleSkein (core : Nat) (s : State) (e : Nat × Skein) : State :=
  let s := dropPipeWaits core e.1 s
  let adpf := (e.2.ops.filter (fun o => match o.2.body with | .adpf _ _ => true | _ => false)).map Prod.fst
  let s := adpf.foldl (fun s o => finishOp s core e.1 o) s
  updSkein s core e.1 (fun sk => { sk with hemWaiting := false, control := [], paths := sk.paths.map (fun p => (p.1, { p.2 with sleep := none, yielded := false })) })
/-- The bolt is stopped: its state in the device's own formats. -/
def savedOf (s : State) (core bolt priv : Nat) : Option SavedBolt :=
  (boltOf s core bolt).map (fun b =>
    { grid := b.grid, block := b.block, bolt := b, priv := priv, savedAt := s.clock
      skeins := (boltSkeins s core bolt).foldl (fun m e => NMap.insert m e.2.index e.2) []
      decls := (b.tiles.map (fun t => (t, tileOf s core t))).foldl (fun m e => NMap.insert m e.1 e.2) [] })
/-- Abandon the matrix instructions of a bolt's skeins. -/
def abandonAll (s : State) (core bolt : Nat) : State := (boltSkeins s core bolt).foldl (fun s e => endMatrix s core e.1) s
/-- The fault records of a parked bolt: of each skein that a fatal trap struck, then, unless the park is of that fault itself, the
register-spill fault of a context line that could not be written (R404, R413, R475). DEDUCED, log entry 56. -/
def parkRecords (s : State) (core bolt : Nat) (cond : Option (Nat × Nat)) : State :=
  let sks := boltSkeins s core bolt
  let s := sks.foldl (fun s e => match e.2.fatal with
    | some (f, w1, task, w3, flags, clock) => skeinRecord s core e.1 [f, w1, task, w3] clock.toNat flags
    | none => s) s
  let mine := sks.any (fun e => decide (e.2.fatal.map (fun f => f.1.toNat / 2 ^ 56) = some 0x39))
  match (if mine then none else cond), sks.head? with
  | some (c, va), some e =>
    let pc := (e.2.paths.head?.map (fun p => pathPc p.2)).getD 0
    skeinRecord s core e.1 [faultInfoOf { code := 0x39, detail := c } false 0 0 pc, BitVec.ofNat 64 va, 0, 0] s.clock (if e.2.frame.isSome then 1 else 0)
  | _, _ => s
/-- Park a bolt whose stop has been reached: context, resources, records; it counts as ended for its grid (R404, R475). -/
def parkNow (s : State) (core bolt : Nat) : State :=
  match boltOf s core bolt with
  | none => s
  | some b =>
    match writeContext ((boltSkeins s core bolt).foldl (settleSkein core) s) core bolt with
    | (none, s) => s
    | (some (_, cond), s) =>
      let s := returnResources (abandonAll (parkRecords s core bolt cond) core bolt) core bolt
      leaveGate (updGrid s b.grid (fun g => { g with running := g.running - 1, failed := true, lastEnd := some s.clock })) b.grid (dieOf core)
/-- BOLT_PARK (R404). DEDUCED, log entry 56. -/
def execBoltPark (core bolt : Nat) (s : State) : Out :=
  event (fun s =>
    if ((boltOf s core bolt).bind Bolt.stop) ≠ some .park || !stopReached s core bolt .park then s
    else match boltRelease s core bolt .dev with
      | (false, s) => s
      | (true, s) => parkNow s core bolt) s
/-- A save whose context could not be written ends in a park with the register-spill fault of its first line; open tasks are discarded
first (R475). -/
def failSave (s : State) (core bolt : Nat) (c : Nat × Nat) : State :=
  let s := updBolt s core bolt (fun b => { b with stop := some .park })
  if (boltSkeins s core bolt).any (fun e => e.2.taskOpen) then
    (boltSkeins s core bolt).foldl (fun s e => updSkein s core e.1 (fun sk => { sk with discarding := sk.taskOpen, fatal := sk.fatal.or (if sk.index = 0 then
      some (faultInfoOf { code := 0x39, detail := c.1 } sk.taskOpen 0 0 0, BitVec.ofNat 64 c.2, BitVec.ofNat 64 sk.taskId, 0, 0, BitVec.ofNat 64 s.clock) else none) })) s
  else s
/-- Save a bolt: its context is written, its resources return, and it waits for its restore (R416, R152). DESIGN CHOICE, log entry 18. -/
def saveNow (s : State) (core bolt : Nat) (again : Bool) : State :=
  match boltOf s core bolt with
  | none => s
  | some b =>
    match writeContext ((boltSkeins s core bolt).foldl (settleSkein core) s) core bolt with
    | (none, s) => s
    | (some (_, some c), s) => failSave s core bolt c
    | (some (priv, none), s) =>
      let s := if again then match savedOf s core bolt priv with
          | some v => updGrid { s with savedBolts := s.savedBolts ++ [v] } b.grid (fun g => { g with saved := g.saved ++ [(b.block, dieOf core, b.dest)] })
          | none => s
        else s
      -- the holds of a saved matrix instruction are in force again at its restore; its chunks may go (R311, R328)
      let s := (boltSkeins s core bolt).foldl (fun (s : State) e => { s with adCache := s.adCache.map (fun a => { a with users := a.users.filter (fun u => u ≠ (core, e.1)) }) }) s
      leaveGate (updGrid (returnResources s core bolt) b.grid (fun g => { g with running := g.running - 1 })) b.grid (dieOf core)
/-- BOLT_STOP: a save, a plan halt or a host stop of a bolt completes (R416, R419, R161). -/
def execBoltStop (core bolt : Nat) (s : State) : Out :=
  event (fun s => match boltOf s core bolt with
    | none => s
    | some b => match b.stop with
      | none | some .park => s
      | some k =>
        if !stopReached s core bolt k then s
        else match boltRelease s core bolt .dev with
          | (false, s) => s
          | (true, s) => match k with
            | .save => saveNow s core bolt true
            | .planHalt => saveNow s core bolt false
            | _ =>
              let s := returnResources (abandonAll ((boltSkeins s core bolt).foldl (settleSkein core) s) core bolt) core bolt
              leaveGate (updGrid s b.grid (fun g => { g with running := g.running - 1, boltsStopped := g.boltsStopped + 1 })) b.grid (dieOf core)) s

/-! Restores (R417). -/

/-- Words of a run of bytes. -/
def words32 (bs : List Byte) : List Word := (List.range (bs.length / 4)).map (fun i => BitVec.ofNat 32 (leNat ((bs.drop (4 * i)).take 4)))
/-- The listed words of an image, under their positions. -/
def wordMap (bs : List Byte) : NMap Word := ((words32 bs).zip (List.range (bs.length / 4))).filterMap (fun e => if e.1 = 0 then none else some (e.2, e.1))
/-- Read bytes of a context area; a line that cannot be read gives zero bytes and the condition; nothing while a line is on its way. -/
def readArea (s : State) (a : Agent) (core ctx va n : Nat) : Option (List Byte × Option (Nat × Nat)) × State :=
  match virtPeek s a (some core) (dieOf core) (partOf s core) ctx va n (lineFuel n) with
  | (none, s) => (none, s)
  | (some (.ok bs), s) => (some (bs, none), s)
  | (some (.error e), s) => (some (List.replicate n 0, some e), s)
/-- What was read of an area: the bytes of each region under its offset, and the first condition met. -/
abbrev Areas := List (Nat × List Byte) × Option (Nat × Nat)
/-- The bytes of a region that was read. -/
def areaAt (r : Areas) (off : Nat) : List Byte := ((r.1.find? (fun e => decide (e.1 = off))).map Prod.snd).getD []
/-- Read regions of an area, each given by its offset and length: all of them are asked for at once. -/
def readAreas (s : State) (a : Agent) (core ctx base : Nat) : List (Nat × Nat) → Option Areas × State
  | [] => (some ([], none), s)
  | r :: l =>
    let (x, s) := readArea s a core ctx (base + r.1) r.2
    let (y, s) := readAreas s a core ctx base l
    (x.bind (fun b => y.map (fun c => ((r.1, b.1) :: c.1, b.2.or c.2))), s)
/-- The regions of a skein's registers; window positions of `grans` (R209, R420). -/
def skeinRegions (sect globals : Nat) (grans : List Nat) : List (Nat × Nat) :=
  [(sect + 0x400, 256), (sect + 0x500, 112), (sect + 0x600, 512), (sect + 0x2000, 512 * globals)] ++ grans.map (fun g => (sect + 0x10000 + 4096 * g, 4096))
/-- Registers of a skein from its images; window positions of `grans` become resident, the rest stay spilled (R209). -/
def readSkein (r : Areas) (sect : Nat) (sk : Skein) (grans : List Nat) : Skein :=
  let regs := fun (base : Nat) (bs : List Byte) (n : Nat) => (List.range n).map (fun i => (base + i, regOfImage ((bs.drop (512 * i)).take 512)))
  let v := regs 0 (areaAt r (sect + 0x2000)) sk.globals ++ grans.flatMap (fun g => regs (16 + 8 * g) (areaAt r (sect + 0x10000 + 4096 * g)) 8)
  { sk with kregs := wordMap (areaAt r (sect + 0x400)), preds := (List.range 7).map (fun i => (i, BitVec.ofNat 128 (leNat (((areaAt r (sect + 0x500)).drop (16 * i)).take 16))))
            lk := regOfImage (areaAt r (sect + 0x600)), vregs := v.foldl (fun m e => NMap.insert m e.1 e.2) []
            spilled := (List.range (topOf sk / 8)).filter (fun g => g ∉ grans) }
/-- The granules of the windows of a skein's live paths. -/
def pathGranules (sk : Skein) : List Nat := sortBy id (dedup (sk.paths.flatMap (fun p => (List.range (p.2.win.size / 8)).map (p.2.win.base / 8 + ·))))
/-- The check words of the device-private regions hold (R421). DESIGN CHOICE, log entry 18. DESIGN CHOICE, log entry 19. -/
def privIntact (r : Areas) (l : Launch) : Bool := (privRegions l).all (fun e => checkOk (areaAt r e.1))
/-- The regions of a bolt's accumulators, and the tiles from their images. -/
def accRegions (n : Nat) : List (Nat × Nat) := (List.range n).flatMap (fun i => [(0x2000 + 128 * i, 128), (0x10000 + 32768 * i, 32768)])
def readAccs (s : State) (core : Nat) (r : Areas) (accs : List Nat) : State :=
  (accs.zip (List.range accs.length)).foldl (fun s n =>
    let b := areaAt r (0x10000 + 32768 * n.2)
    let tags := (List.range 64).filterMap (fun i => let t := leNat (((areaAt r (0x2000 + 128 * n.2)).drop (2 * i)).take 2); if t = 0 then none else some (i, t))
    updAcc s core n.1 (fun t => { t with elems := wordMap (b.take 16384), side := wordMap (b.drop 16384), tags := tags })) s
/-- The regions of a bolt's tile entries and images, and the entries from them. -/
def tileRegions (s : State) (core : Nat) (l : Launch) : List (Nat × Nat) :=
  (tileOffsets s core l).flatMap (fun t => [(t.1, 128 * (tileOf s core t.2).size), (0x1000 + 8 * t.2, 8)])
def readTiles (s : State) (core : Nat) (r : Areas) (l : Launch) : State :=
  (tileOffsets s core l).foldl (fun s t =>
    updTile (setTileBytes s core ((tileOf s core t.2).base * 128) (areaAt r t.1)) core t.2 (entryOfWord (leNat (areaAt r (0x1000 + 8 * t.2))))) s
/-- Tile holds and busy accumulators of a restored matrix instruction are in force again (R417). -/
def holdAgain (s : State) (core slot : Nat) : State :=
  match skeinOf s core slot with
  | none => s
  | some sk => match sk.mat with
    | none => s
    | some m =>
      let l := launchOf s core sk.bolt
      let s := (heldTiles m.kind).foldl (fun s t => updTile s core t (fun e => { e with holds := e.holds + 1 })) s
      (accNames s core l m.kind).foldl (fun s n => updAcc s core (accStore s core sk.bolt n) (fun a => { a with busy := some (slot, m.op) })) s
/-- A skein of a saved bolt takes its place on a core: its windows are filled once they are read, and it runs once they are (R209, R417). -/
def placeSkein (bn born : Nat) (sk : Skein) : Skein :=
  { sk with bolt := bn, born := born, run := .stopped, evicted := false, spilled := (List.range (topOf sk / 8)).filter (fun g => g ∉ pathGranules sk) }
/-- Admit a saved bolt on a core: its resources are taken, and its context is to be read (R417). DESIGN CHOICE, log entry 18. -/
def restoreBolt (s : State) (gn : Nat) (g : Grid) (v : SavedBolt) (core : Nat) : State :=
  let s := updGrid s gn (fun g => { g with saved := g.saved.filter (fun e => e.1 ≠ v.block), running := g.running + 1 })
  let (bn, b, s) := takeResources s core gn g.launch v.block id
  let s := updCore s core (fun c => { c with bolts := nupdate c.bolts bn (fun _ =>
    { v.bolt with slots := b.slots, accs := b.accs, tiles := b.tiles, started := s.clock, stop := none, release := none, written := none, dest := none, snapshot := false }) })
  let s : State := { s with savedBolts := mapIf (fun w => decide (w = v)) (fun w => { w with into := some (core, bn) }) s.savedBolts }
  let born := s.nextId
  (b.slots.zip (List.range b.slots.length)).foldl (fun s e => match NMap.get? v.skeins e.2 with
    | none => s
    | some sk => setSkein s core e.1 (placeSkein bn born sk)) { s with nextId := born + 1 }
/-- The regions that a restore reads. -/
def restoreRegions (s : State) (core : Nat) (l : Launch) (b : Bolt) (skeins : List (Nat × Skein)) : List (Nat × Nat) :=
  privRegions l ++ tileRegions s core l ++ accRegions b.accs.length ++
  skeins.flatMap (fun e => skeinRegions (0x200000 + e.2.index * (65536 * (1 + cdiv l.backing 16))) e.2.globals (pathGranules e.2))
/-- A skein of a restored bolt continues at its stop points (R417); its granules come back uncounted in REGFILL. DESIGN CHOICE, log entry 104. -/
def resumeSkein (r : Areas) (l : Launch) (sk : Skein) : Skein :=
  let sk := readSkein r (0x200000 + sk.index * (65536 * (1 + cdiv l.backing 16))) sk (pathGranules sk)
  let sk := { sk with run := .running, paths := sk.paths.map (fun p => (p.1, { p.2 with wait := none }))
                      mat := sk.mat.map (fun m => { m with looked := m.ad.isNone, fills := [], order := [], direct := [] }) }
  if sk.exited = allLanes then { sk with run := .exited } else sk
/-- The restore of an admitted bolt goes on: its context is read and checked, and, once it has come, the bolt runs, after the acquire
actions at `.dev`; a check word that fails, or a line that cannot be read, parks it (R417, R421). DESIGN CHOICE, log entry 18. -/
def continueRestore (s : State) (v : SavedBolt) : State :=
  match v.into with
  | none => s
  | some (core, bn) => match boltOf s core bn with
    | none => { s with savedBolts := s.savedBolts.filter (fun w => w ≠ v) }
    | some b =>
      let l := launchOf s core bn
      let a : Agent := .context b.grid b.block
      let sks := boltSkeins s core bn
      match readAreas s a core l.ctx (ctxAreaOf l b.block) (restoreRegions s core l b sks) with
      | (none, s) => s
      | (some r, s) =>
        let s := endAgent { s with savedBolts := s.savedBolts.filter (fun w => w ≠ v) } a
        let s := readAccs (readTiles s core r l) core r b.accs
        let s := sks.foldl (fun s e => holdAgain (setSkein s core e.1 (resumeSkein r l e.2)) core e.1) s
        let s := drainAcquire (acquireL1 s core)
        match r.2, privIntact r l with
        | none, true => s
        | cond, _ =>
          let (code, det, va) := match cond with
            | some (c, va) => (0x39, c, va)
            | none => (0x3A, 0, 0)
          match b.slots.head? with
          | some sl => takeFatal core sl (faultInfoOf { code := code, detail := det } (((skeinOf s core sl).map Skein.taskOpen).getD false) 0 0 (((skeinOf s core sl).bind (fun sk => sk.paths.head?.map (fun p => pathPc p.2))).getD 0)) (BitVec.ofNat 64 va) 0 s
          | none => s

/-! The weight-store gate (R100). -/

/-- A request arrives at a gate: after the requests of earlier clocks and, within a clock, of lower queue numbers. -/
def gateArrive (w : GateReq) : List GateReq → List GateReq
  | [] => [w]
  | v :: r => if v.since < w.since ∨ (v.since = w.since ∧ v.queue ≤ w.queue) then v :: gateArrive w r else w :: v :: r
def gateRequest (s : State) (die : Nat) (w : GateReq) : State :=
  let dd := NMap.getD s.dies die {}
  { s with dies := NMap.insert s.dies die { dd with gateQueue := gateArrive w dd.gateQueue } }
/-- The writer leaves the gate, or the queue before it. -/
def gateLeaveWriter (s : State) (die q seq : Nat) : State :=
  let dd := NMap.getD s.dies die {}
  let dd := { dd with gateQueue := dd.gateQueue.filter (fun w => !(w.grid.isNone && decide (w.queue = q) && decide (w.seq = seq))) }
  { s with dies := NMap.insert s.dies die (if dd.gateWriter = some (q, seq) then { dd with gate := .free, gateWriter := none } else dd) }
/-- WS_GATE_ENTER: the request at the head of a die's gate enters when the gate allows it, once no request of its own clock can still
come before it. -/
def execWsGateEnter (die : Nat) (s : State) : Out :=
  event (fun s =>
    let dd := NMap.getD s.dies die {}
    match dd.gateQueue with
    | [] => s
    | w :: r =>
      if s.clock ≤ w.since then s else
      match w.grid with
      | some g =>
        if dd.gate = .write then s
        else { s with dies := NMap.insert s.dies die { dd with gate := .read, gateReaders := dd.gateReaders ++ [g], gateQueue := r } }
      | none =>
        if dd.gate ≠ .free then s
        else { s with dies := NMap.insert s.dies die { dd with gate := .write, gateWriter := some (w.queue, w.seq), gateQueue := r } }) s
/-- WS_REFRESH_WINDOW_END: a bank group's window ends; the LDWs of the die that wait for it may start (R101, R102). -/
def execWsRefreshWindowEnd (die group : Nat) (s : State) : Out :=
  event (fun s =>
    if s.clock % 262144 ≠ 2048 + 8192 * group then s else
    (List.range 48).foldl (fun s n => pokeCore s (48 * die + n)) s) s

end Sys2Proof.Machine
end

