-- ==== Sys2Proof/Machine/Launch.lean ====
section
/-! DEFINITION. Launch records and plan records as the front end reads them, and the checks that refuse an entry (spec/16 R374,
R377 to R383, 06 R129, R142 to R146, 05 R124, R130, R131, 18 R434). -/

namespace Sys2Proof.Machine

/-! Reading (R474: the front end acts on die 0). -/

/-- Bytes of a record, read for an agent of the front end as traffic of a partition; none when a line cannot be read, nothing while one
is on its way. DEDUCED, log entry 93. -/
def frontRead (s : State) (g : Agent) (owner ctx a n : Nat) : Option (Option (List Byte)) × State :=
  match virtPeek s g none 0 owner ctx (a % 2 ^ 64) n (lineFuel n) with
  | (none, s) => (none, s)
  | (some (.ok bs), s) => (some (some bs), s)
  | (some (.error _), s) => (some none, s)
/-- The owner of the requests of the queue front end, of the copy-entry engine and of completion words: no core of a partition causes them
(R84). DEDUCED, log entry 93. -/
def frontOwner : Nat := 8
/-- The 64-bit word at an offset of a record. -/
def recWord (bs : List Byte) (o : Nat) : Nat := leNat ((bs.drop o).take 8)
def recByte (bs : List Byte) (o : Nat) : Nat := (bs.getD o 0).toNat
/-- A context descriptor is read when an entry is accepted; walks use it until an invalidation, and a later reading does not change that
(R88). -/
def acceptDesc (s : State) (g : Agent) (owner ctx : Nat) : Option (DWord × DWord) × State :=
  match readDesc s (g, owner) 0 ctx with
  | (none, s) => (none, s)
  | (some d, s) => (some d, if descOk d && (NMap.get? s.descs ctx).isNone then { s with descs := NMap.insert s.descs ctx d } else s)
/-- The first failing item of a list of checks, counted from 1. -/
def firstFail (l : List Bool) : Option Nat := (findIdx? id l).map (· + 1)

/-! Launch records (16 Tables 5 and 6). -/

/-- A tile declaration from its word. -/
def declOf (w : Nat) : TileDecl :=
  { entry := field w 56 8, cols := field w 47 9 + 1, rows := field w 38 9 + 1, size := field w 26 12 + 1
    slot := field w 9 3, useSlot := bitAt w 8, fmt := field w 0 8 }
/-- The number of declarations that the record announces. -/
def declCount (bs : List Byte) : Nat := field (recWord bs 0x40) 32 9
/-- A launch record and its declarations, read in full (R374). -/
def readRecord (s : State) (g : Agent) (owner ctx a : Nat) : Option (Option (List Byte × List Nat)) × State :=
  match frontRead s g owner ctx a 512 with
  | (none, s) => (none, s)
  | (some none, s) => (some none, s)
  | (some (some bs), s) =>
    if 256 < declCount bs then (some (some (bs, [])), s)
    else
      let (x, s) := frontRead s g owner ctx (512 + a) (8 * declCount bs)
      (x.map (fun y => y.map (fun ds => (bs, (List.range (declCount bs)).map (fun j => recWord ds (8 * j))))), s)
/-- The fields of a launch record; handles are bound for a stage of a plan only (R378). -/
def launchFields (bs : List Byte) (ds : List Nat) (stage : Bool) : Launch :=
  let w := fun o => recWord bs o
  { codeBase := w 0, handler := w 8, argBase := w 0x10, adTable := w 0x18, eventArray := w 0x20, ctxArea := w 0x28
    mapCount := field (w 0x30) 32 16, mapOff := field (w 0x30) 0 32
    stride := field (w 0x38) 48 12, backing := field (w 0x38) 32 12, ctx := field (w 0x38) 16 12, weight := bitAt (w 0x38) 8
    skeins := field (w 0x38) 4 3 + 1, globals := 8 * field (w 0x38) 2 2
    lanes := field (w 0x40) 48 10 + 1, argWords := field (w 0x40) 0 7
    boltQuota := field (w 0x48) 56 8, accums := field (w 0x48) 48 6, accQuota := field (w 0x48) 32 8, tileQuota := field (w 0x48) 16 16, granQuota := field (w 0x48) 0 9
    entryPc := field (w 0x50) 0 32
    fslots := (List.range 8).map (fun i => BitVec.ofNat 32 (leNat ((bs.drop (0x60 + 4 * i)).take 4)))
    handles := (List.range 64).map (fun h => if stage then recByte bs (0x80 + h) else 255)
    ranges := (List.range 4).map (fun d => (field (w (0xC0 + 8 * d)) 0 32, field (w (0xC0 + 8 * d)) 32 32))
    decls := ds.map declOf }
/-- A reserved field is nonzero, or a field lies outside its range (R383 item 3). DEDUCED, log entry 62. -/
def launchRange (bs : List Byte) (ds : List Nat) (stage : Bool) (l : Launch) : Bool :=
  let w := fun o => recWord bs o
  let res := fun o lo n => decide (field (w o) lo n ≠ 0)
  res 0x30 48 16 || res 0x38 60 4 || res 0x38 44 4 || res 0x38 28 4 || res 0x38 9 7 || res 0x38 7 1 || res 0x38 0 2 ||
  res 0x40 58 6 || res 0x40 41 7 || res 0x40 7 25 || res 0x48 54 2 || res 0x48 40 8 || res 0x48 9 7 || res 0x50 32 32 || res 0x58 0 64 ||
  ((bs.drop 0xE0).take 0x120).any (fun b => decide (b ≠ 0)) || ds.any (fun d => decide (field d 12 14 ≠ 0)) ||
  decide (l.argBase % 256 ≠ 0) || decide (l.eventArray % 8 ≠ 0) || decide (l.ctxArea % 65536 ≠ 0) || decide (l.mapCount = 0) || decide (l.mapOff % 8 ≠ 0) ||
  decide (l.stride = 0) || decide (l.backing = 0) || decide (l.globals = 24) || decide (256 < declCount bs) || decide (64 < l.argWords) ||
  decide (64 < l.boltQuota) || decide (32 < l.accums) || decide (32 < l.accQuota) || decide (128 < l.tileQuota) || decide (256 < l.granQuota) ||
  (stage && l.handles.any (fun b => decide (64 ≤ b) && decide (b ≠ 255)))
/-- Code base and handler (R26, R382). -/
def launchCode (l : Launch) : Bool :=
  decide (l.codeBase % 128 ≠ 0) ||
  (decide (l.handler ≠ 0) && (decide (l.handler < l.codeBase) || decide ((l.handler - l.codeBase) % 12 ≠ 0) || decide (12 * 2 ^ 32 ≤ l.handler - l.codeBase)))
/-- The slot word breaks R66. -/
def slotBad (w : Word) : Bool := decide (field w.toNat 16 16 ≠ 0) || decide (fmtOf (field w.toNat 0 8) = .unassigned)
/-- Bits of an element in a tile of a format; a byte tile has 8 (R165). -/
def tileWidth (f : FmtCode) : Nat := match f with | .unbound => 8 | _ => fmtBits f
/-- The declaration breaks R166. -/
def declBad (l : Launch) (d : TileDecl) : Bool :=
  let f := if d.useSlot then fmtOf (field (l.fslots.getD d.slot 0).toNat 0 8) else fmtOf d.fmt
  decide (f = .unassigned) || (d.useSlot && decide (f = .unbound)) || decide (128 * d.size * 8 < d.rows * d.cols * tileWidth f) ||
  (decide (tileWidth f = 4) && decide (d.cols % 2 = 1))
/-- Two entries of a list are equal. -/
def hasRepeat : List Nat → Bool
  | [] => false
  | a :: r => decide (a ∈ r) || hasRepeat r
/-- Present cores of a die in a partition (8: in none). -/
def partCores (s : State) (die part : Nat) : List Nat :=
  ((List.range 48).map (48 * die + ·)).filter (fun c => corePresent s c && decide (partOf s c = part))
/-- Two nonempty ranges overlap. -/
def rangesOverlap : List (Nat × Nat) → Bool
  | [] => false
  | r :: t => t.any (fun q => decide (r.1 < q.1 + q.2) && decide (q.1 < r.1 + r.2)) || rangesOverlap t
/-- The die ranges break R383 item 9. -/
def rangesBad (s : State) (l : Launch) (part : Nat) : Bool :=
  let ne := l.ranges.filter (fun r => r.2 ≠ 0)
  rangesOverlap ne || decide (ne = []) || ne.any (fun r => decide (2 ^ 32 < r.1 + r.2)) ||
  (l.ranges.zip (List.range 4)).any (fun e => decide (e.1.2 ≠ 0) && decide (partCores s e.2 part = []))
/-- One bolt exceeds a quota or a core (R383 item 10). -/
def boltTooBig (l : Launch) : Bool :=
  let bytes := (l.decls.map (fun d => 128 * d.size)).foldl (· + ·) 0
  let gran := newGranules l
  (decide (l.tileQuota ≠ 0) && decide (4096 * l.tileQuota < bytes)) || (decide (l.accQuota ≠ 0) && decide (l.accQuota < l.accums)) ||
  (decide (l.granQuota ≠ 0) && decide (l.granQuota < gran)) || decide (524288 < bytes) || decide (256 < gran)
/-- The frame map as (Entry, Frame) pairs. -/
def frameEntries (bs : List Byte) (n : Nat) : List (Nat × Nat) := (List.range n).map (fun i => (field (recWord bs (8 * i)) 0 32, field (recWord bs (8 * i)) 32 8))
def ascending : List (Nat × Nat) → Bool
  | a :: b :: r => decide (a.1 < b.1) && ascending (b :: r)
  | _ => true
/-- The checks of R383 in their order: the first that fails, or the launch as the grid runs it. `bind` says that a pipe binding
breaks R146; `part` is the queue's partition, `cores` the partition of the cores, `array` the producer event array of a block-wise entry. DEDUCED, log entry 61. DEDUCED, log entry 62. -/
def checkLaunch (s : State) (g : Agent) (bs : List Byte) (ds : List Nat) (stage : Bool) (part cores : Nat) (array : Option Nat) (bind : Bool) :
    Option (Except Nat Launch) × State :=
  let l := launchFields bs ds stage
  match acceptDesc s g frontOwner l.ctx with
  | (none, s) => (none, s)
  | (some d, s) =>
    -- the descriptor's partition is that of the queue and that of the cores (R88, R387)
    if !descOk d ∨ descPart d ≠ part ∨ descPart d ≠ cores then (some (.error 1), s) else
    let (x, s) := frontRead s g frontOwner l.ctx (l.codeBase + l.mapOff) (8 * l.mapCount)
    let (y, s) := frontRead s g frontOwner l.ctx l.argBase (4 * l.argWords)
    match x, y with
    | none, _ | _, none => (none, s)
    | some none, _ | _, some none => (some (.error 2), s)
    | some (some mb), some (some ab) =>
      let map := frameEntries mb l.mapCount
      let f := ((map.find? (fun e => e.1 = l.entryPc)).map Prod.snd).getD 0
      let l := { l with frame := 8 * f, args := (List.range l.argWords).map (fun i => BitVec.ofNat 32 (leNat ((ab.drop (4 * i)).take 4))) }
      match firstFail [launchRange bs ds stage l, launchCode l, decide (f = 0) || decide (30 < f), decide (8 * l.backing < l.frame),
          decide (128 * l.skeins < l.lanes) || decide (l.lanes ≤ 128 * (l.skeins - 1)),
          l.fslots.any slotBad || l.decls.any (declBad l) || hasRepeat (l.decls.map TileDecl.entry),
          rangesBad s l cores, boltTooBig l, (match array with | some a => decide (a % 8 ≠ 0) | none => false), stage && bind, !ascending map,
          decide (l.stride < 32 + l.skeins * (1 + cdiv l.backing 16))] with
      | some n => (some (.error (n + 2)), s)
      | none => (some (.ok l), s)

/-! Plan records (06 Tables 4 to 7). -/

/-- A pipe from its descriptor; `w` is the element width of its type. -/
def pipeFields (a b c w : Nat) : Pipe :=
  let remote := bitAt a 58
  let rows := field a 16 6 + 1
  let cols := field a 22 6 + 1
  let bytes := rows * cols * w / 8
  let depth := field a 32 12 + 1
  { fmt := field a 0 8, useSlot := bitAt a 8, fslot := field a 9 3, rows := rows, cols := cols, depth := depth, tileBytes := bytes, lines := cdiv bytes 128
    homeDie := field a 56 2, slices := field b 0 16, producer := field a 48 4, consumer := field a 52 4, remote := remote
    homeHere := !remote || bitAt c 31, remotePkg := field c 0 10, remotePipe := field c 24 6, vc := field c 20 4
    free := depth, filled := 0, spilled := 0, mirror := 0, mirrorFilled := 0 }
/-- The stage that gives a slot-format pipe its type on this package. -/
def pipeStages (p : Pipe) : List Nat :=
  if !p.remote then [p.producer, p.consumer] else if p.homeHere then [p.consumer] else [p.producer]
/-- A stage from its entry. -/
def stageFields (bs : List Byte) (i : Nat) : Stage0 :=
  let w := fun o => recWord bs (0x100 + 64 * i + o)
  { launch := w 0, grid := 0, maxShare := (List.range 4).map (fun d => field (w 8) (16 * d + 8) 8), minShare := (List.range 4).map (fun d => field (w 8) (16 * d) 8)
    initShare := (List.range 4).map (fun d => field (w 0x10) (8 * d) 8), share := [], joining := [], cls := 0, clsCount := 0, blocked := 0, edges := [], halted := false, done := false }
/-- A plan record taken apart: counts, stages, pipes. -/
structure PlanRec where
  bytes : List Byte
  nStages : Nat
  nPipes : Nat
  part : Nat
  stages : List Stage0
  pipes : List Pipe
  records : List (List Byte × List Nat)
/-- The format code of slot `n` in a stage's launch record. -/
def PlanRec.slotCode (r : PlanRec) (st n : Nat) : Nat := leNat ((((r.records.getD st ([], [])).1).drop (0x60 + 4 * n)).take 4)
/-- The format of a pipe's type (R129). -/
def PlanRec.pipeFmt (r : PlanRec) (p : Pipe) : FmtCode :=
  if p.useSlot then fmtOf (field (r.slotCode ((pipeStages p).headD 0) p.fslot) 0 8) else fmtOf p.fmt
/-- Read the stages' launch records, each in full; all of them are asked for at once. -/
def readStages (s : State) (g : Agent) (owner ctx : Nat) : List Stage0 → Option (Option (List (List Byte × List Nat))) × State
  | [] => (some (some []), s)
  | t :: r =>
    let (x, s) := readRecord s g owner ctx t.launch
    let (y, s) := readStages s g owner ctx r
    (x.bind (fun a => y.map (fun b => a.bind (fun rec => b.map (fun l => rec :: l)))), s)
/-- The pipes of a plan record. -/
def recordPipes (bs : List Byte) (base : PlanRec) : List Pipe :=
  (List.range (min base.nPipes 64)).map (fun i =>
    let w := fun o => recWord bs (0x500 + 64 * i + o)
    let p := pipeFields (w 0) (w 8) (if bitAt (w 0) 58 then w 0x10 else 0) 8
    pipeFields (w 0) (w 8) (if bitAt (w 0) 58 then w 0x10 else 0) (tileWidth (base.pipeFmt p)))
/-- Read the records of a plan entry, each in full, through the entry's context (R374). -/
def readPlan (s : State) (g : Agent) (owner ctx a : Nat) : Option (Option PlanRec) × State :=
  match frontRead s g owner ctx a 9472 with
  | (none, s) => (none, s)
  | (some none, s) => (some none, s)
  | (some (some bs), s) =>
    let h := recWord bs 0
    let n := field h 32 5
    let stages := (List.range (min n 16)).map (stageFields bs)
    let (x, s) := readStages s g owner ctx stages
    (x.map (fun y => y.map (fun recs =>
      let base : PlanRec := { bytes := bs, nStages := n, nPipes := field h 40 8, part := field h 20 4, stages := stages, pipes := [], records := recs }
      { base with pipes := recordPipes bs base })), s)
/-- A reserved field is nonzero, or the version is wrong (R146 item 1). DEDUCED, log entry 62. -/
def planReserved (r : PlanRec) : Bool :=
  let w := fun o => recWord r.bytes o
  let res := fun o lo n => decide (field (w o) lo n ≠ 0)
  res 0 48 16 || res 0 37 3 || res 0 24 8 || res 0 17 3 || decide (field (w 0) 0 16 ≠ 1) || res 0x10 44 20 || res 0x18 40 24 || res 0x18 29 3 || res 0x18 20 4 ||
  ((r.bytes.drop 0x20).take 0xE0).any (fun b => decide (b ≠ 0)) ||
  (List.range r.stages.length).any (fun i => res (0x110 + 64 * i) 32 32 || ((r.bytes.drop (0x118 + 64 * i)).take 40).any (fun b => decide (b ≠ 0))) ||
  (List.range r.pipes.length).any (fun i =>
    let o := 0x500 + 64 * i
    res o 59 5 || res o 44 4 || res o 28 4 || res o 12 4 || res (o + 8) 16 48 || ((r.bytes.drop (o + 24)).take 40).any (fun b => decide (b ≠ 0)) ||
    (bitAt (w o) 58 && (res (o + 16) 32 32 || res (o + 16) 30 1 || res (o + 16) 10 10)))
/-- A field lies outside its range (R146 item 2). -/
def planRange (r : PlanRec) : Bool :=
  let w := fun o => recWord r.bytes o
  let ft := field (w 0x18) 8 8
  let et := field (w 0x18) 0 8
  decide (r.nStages = 0) || decide (16 < r.nStages) || decide (64 < r.nPipes) || decide (8 < r.part) || decide (ft = 0) || decide (ft ≤ et) || decide (w 8 % 65536 ≠ 0) ||
  (r.pipes.any Pipe.remote && decide (field (w 0x18) 32 8 < 2)) || r.pipes.any (fun p => p.remote && decide (575 < p.remotePkg)) ||
  r.stages.any (fun t => (List.range 4).any (fun d => decide (48 < t.maxShare.getD d 0) || decide (t.maxShare.getD d 0 < t.minShare.getD d 0) ||
    decide (t.initShare.getD d 0 < t.minShare.getD d 0) || decide (t.maxShare.getD d 0 < t.initShare.getD d 0)))
/-- The slice mask is zero or names an absent slice. -/
def maskBad (s : State) (p : Pipe) : Bool :=
  p.homeHere && (decide (p.slices = 0) || (List.range 16).any (fun i => bitAt p.slices i && !s.dev.slices.getLsbD (16 * p.homeDie + i)))
/-- The type breaks R129. -/
def typeBad (r : PlanRec) (p : Pipe) : Bool :=
  let fs := if p.useSlot then (pipeStages p).map (fun st => fmtOf (field (r.slotCode st p.fslot) 0 8)) else [fmtOf p.fmt]
  let w := tileWidth (r.pipeFmt p)
  fs.any (fun f => decide (f = .unassigned) || (p.useSlot && decide (f = .unbound))) || decide (16384 < p.rows * p.cols * w / 8) || (decide (w = 4) && decide (p.cols % 2 = 1))
/-- A handle of a stage binds a pipe that does not exist, or that is not the stage's (R146 item 9). DEDUCED, log entry 61. -/
def bindBad (r : PlanRec) (st : Nat) : Bool :=
  ((((r.records.getD st ([], [])).1).drop 0x80).take 64).any (fun b => decide (b.toNat ≠ 255) && (match r.pipes[b.toNat]? with
    | none => true
    | some p => !(isProducer p st || isConsumer p st)))
/-- The schedule of a plan: pipe by 256 × direction + slot. -/
def scheduleOf (r : PlanRec) : NMap Nat :=
  (List.range 4096).filterMap (fun k => if k / 256 / 4 = k / 256 % 4 ∨ 64 ≤ recByte r.bytes (0x1500 + k) then none else some (k, recByte r.bytes (0x1500 + k)))
/-- The schedule breaks R124. -/
def scheduleBad (s : State) (r : PlanRec) : Bool :=
  (List.range 16).any (fun x => decide (x / 4 ≠ x % 4) &&
    (let bytes := (List.range 256).map (fun i => recByte r.bytes (0x1500 + 256 * x + i))
     let owner := fun i => linkOwner s x i
     let free := fun i => decide (8 ≤ owner i)
     bytes.any (fun b => decide (r.nPipes ≤ b) && decide (b ≠ 255)) ||
     (List.range 256).any (fun i => decide (bytes.getD i 255 ≠ 255) && !(if r.part < 8 then decide (owner i = r.part) else free i)) ||
     (decide (8 ≤ r.part) && decide (((List.range 256).filter (fun i => free i && decide (bytes.getD i 255 = 255))).length < 16))))

/-! Pinned lines (R130, R131). -/

/-- Pinned ways by package slice. -/
abbrev PinMap := NMap (NMap Pinned)
/-- Slot lines pinned in a set. -/
def slotPins (m : NMap Pinned) (set : Nat) : Nat :=
  (m.filter (fun e => decide (e.1 / 16 = set) && (match e.2 with | .slotLine _ _ _ => true | .version _ _ => false))).length
def planPins (m : NMap Pinned) (plan set : Nat) : Nat :=
  (m.filter (fun e => decide (e.1 / 16 = set) && (match e.2 with | .slotLine p _ _ => decide (p = plan) | .version _ _ => false))).length
/-- Place one slot line in a home slice: the set with the fewest pinned lines, and its lowest free permitted way. -/
def placeLine (ways : List Nat) (plan pipe idx : Nat) (m : NMap Pinned) : Option (NMap Pinned) :=
  let free := fun set => ways.filter (fun w => (NMap.get? m (16 * set + w)).isNone)
  let sets := (List.range 8192).filter (fun set => decide (slotPins m set < 2) && decide (planPins m plan set < ways.length) && decide (free set ≠ []))
  match leastBy (slotPins m) sets with
  | none => none
  | some set => (free set).head?.map (fun w => NMap.insert m (16 * set + w) (.slotLine plan pipe idx))
/-- The slices of a mask on a die, as package numbers, ascending. -/
def maskSlices (die mask : Nat) : List Nat := ((List.range 16).filter (bitAt mask)).map (16 * die + ·)
/-- Lines of all slots of a pipe, with the package slice of each: line n lies in home slice n mod h. -/
def pipeLines (pipe : Nat) (p : Pipe) : List (Nat × Nat × Nat) :=
  let hs := maskSlices p.homeDie p.slices
  if p.homeHere then (List.range (p.depth * p.lines)).map (fun n => (hs.getD (n % hs.length) 0, pipe, n)) else []
/-- Place every line of a plan, or answer none when one cannot be placed within R131. -/
def placePlan (s : State) (part plan : Nat) (pipes : NMap Pipe) (m : PinMap) : Option PinMap :=
  (pipes.flatMap (fun e => pipeLines e.1 e.2)).foldl (fun acc l => acc.bind (fun m =>
    let sl := NMap.getD m l.1 []
    if 16384 ≤ (sl.filter (fun e => match e.2 with | .slotLine _ _ _ => true | .version _ _ => false)).length then none
    else (placeLine (allowedWays s (l.1 / 16) part) plan l.2.1 l.2.2 sl).map (fun x => NMap.insert m l.1 x))) (some m)
/-- The pins now in force. -/
def pinsNow (s : State) : PinMap := s.slices.filterMap (fun e => if e.2.pins = [] then none else some (e.1, e.2.pins))
/-- A list under its positions. -/
def numbered {α : Type} (l : List α) : NMap α := (List.range l.length).zip l

/-- The checks of R146 in their order, then that of R434: the first that fails, with its rule. DEDUCED, log entry 61. DEDUCED, log entry 62. DEDUCED, log entry 63. -/
def checkPlan (s : State) (g : Agent) (r : PlanRec) : Option (Option (Nat × Nat)) × State :=
  let w := fun o => recWord r.bytes o
  match readDesc s (g, frontOwner) 0 (field (w 0x10) 32 12) with
  | (none, s) => (none, s)
  | (some sd, s) =>
  let size := field (w 0x10) 0 32
  let local_ := fun (p : Pipe) => pipeStages p
  let items := [planReserved r, planRange r,
    r.pipes.any (fun p => (local_ p).any (fun st => decide (r.nStages ≤ st)) || maskBad s p),
    r.pipes.any (fun p => p.homeHere && decide (((r.stages[p.consumer]?).map (fun t => t.maxShare.getD p.homeDie 0)) = some 0)),
    r.pipes.any (typeBad r),
    r.pipes.any (fun p => !p.remote && p.useSlot && decide (r.slotCode p.producer p.fslot ≠ r.slotCode p.consumer p.fslot)),
    (List.range r.stages.length).any (fun i => (List.range 4).any (fun d =>
      decide (field (recWord ((r.records.getD i ([], [])).1) (0xC0 + 8 * d)) 32 32 ≠ 0) && decide (((r.stages[i]?).map (fun t => t.maxShare.getD d 0)) = some 0))),
    (List.range 4).any (fun d => decide ((partCores s d r.part).length < (r.stages.map (fun t => t.minShare.getD d 0)).foldl (· + ·) 0)),
    (List.range r.stages.length).any (bindBad r),
    decide (descPart sd ≠ r.part) || (decide (size ≠ 0) && !descOk sd),
    -- the stage field of the other side is ignored, so what a side could contradict fails an earlier item
    false,
    scheduleBad s r,
    (placePlan s r.part 0 (numbered r.pipes) []).isNone]
  match firstFail items with
  | some n => (some (some (146, n)), s)
  | none =>
    let owner := fun v => nibble s.dev.ualvcown.now.toNat v
    match firstFail [r.pipes.any (fun p => p.remote && decide (p.vc = 0)),
        r.pipes.any (fun p => p.remote && (if r.part < 8 then decide (owner p.vc ≠ r.part) else decide (owner p.vc < 8))),
        -- the other package's descriptor shows in its credits, which come on the channel that it names
        (numbered r.pipes).any (fun e => e.2.remote && !e.2.homeHere && s.credits.any (fun k => decide (k.1 = e.2.remotePkg) && decide (k.2.2.1 = e.1) && decide (k.2.1 ≠ e.2.vc)) &&
          !s.credits.any (fun k => decide (k.1 = e.2.remotePkg) && decide (k.2.2.1 = e.1) && decide (k.2.1 = e.2.vc)))] with
    | some n => (some (some (434, n)), s)
    | none => (some none, s)

end Sys2Proof.Machine
end

