-- ==== Sys2Proof/Machine/Front.lean ====
section
/-! DEFINITION. Work queues: tail writes, reading and starting entries, copy entries, invalidations, completion words (spec/16 R370
to R377, R390, 04 R95 to R97, R99, R100, 05 R121). -/

namespace Sys2Proof.Machine

/-! Turns (R390). -/

def partEnabled (s : State) (p : Nat) : Bool := ((NMap.get? s.dev.partClk p).getD 0x9000).getLsbD 0
/-- The owners of the turns of the rota: enabled partitions, then work in none. -/
def turnOwners (s : State) : List Nat := (List.range 8).filter (partEnabled s) ++ [8]
/-- The owner of the present turn. DESIGN CHOICE, log entry 5. -/
def turnOwner (s : State) : Nat := (turnOwners s).getD (s.clock / 8 % (turnOwners s).length) 8

/-! Tail writes (R372). -/

/-- More entries announced than the ring holds. -/
def queueOverrun (w : WorkQueue) : Bool := decide (2 ^ w.ringBits < (w.tail + 2 ^ 32 - w.head) % 2 ^ 32)
/-- A write to QTAIL(q), by the descriptor that has been read for it. -/
def takeTail (q v : Nat) (bs : List Byte) (s : State) : State :=
  let w1 := recWord bs 8
  let part := field w1 20 4
  let n := field w1 8 5
  if !bitAt w1 0 then eventRecord s 3 1 q 0 [q]
  else if 8 < part ∨ n < 4 ∨ 20 < n then eventRecord s 3 2 q 0 [q]
  else
    let w := { NMap.getD s.queues q {} with
      tail := v, ringBase := 4096 * field (recWord bs 0) 12 40, ringBits := n, part := part, prio := field w1 13 7
      doneAddr := 8 * field (recWord bs 0x10) 3 49 }
    let s : State := { s with queues := NMap.insert s.queues q w }
    if queueOverrun w then eventRecord s 2 0 q 0 [v] else s
/-- The descriptor of a queue whose tail was written is read afresh, and the write takes effect once it has come (R372). -/
def tailStep (q : Nat) (s : State) : State :=
  match (NMap.getD s.queues q {}).asked with
  | none => s
  | some v =>
    match readOut s (.front (65536 + q), frontOwner) 0 (s.dev.qtBase + 32 * q) 32 2 with
    | (none, s) => s
    | (some bs, s) => takeTail q v bs { endAgent s (.front (65536 + q)) with queues := nupdate s.queues q (fun w => { w with asked := none }) }
/-- A write to QTAIL(q) (R372). -/
def qtailWrite (q : Nat) (v : Word) (s : State) : State :=
  let s := endAgent s (.front (65536 + q))
  tailStep q { s with queues := NMap.insert s.queues q { NMap.getD s.queues q {} with asked := some v.toNat } }
/-- QTAIL_WRITE (R372). -/
def execQtailWrite (q : Nat) (v : Word) (s : State) : Out :=
  event (fun s => if devReady s && decide (q < 65536) then qtailWrite q v s else s) s

/-! Entries (R374, R375). -/

/-- Read the next entry of a queue, in a turn of its partition (R372, R373, R390). -/
def fetchEntry (q : Nat) (s : State) : State :=
  let w := NMap.getD s.queues q {}
  if w.head = w.tail ∨ queueOverrun w ∨ turnOwner s ≠ w.part then s else
  match readOut s (.front (131072 + q), frontOwner) 0 (w.ringBase + 64 * (w.head % 2 ^ w.ringBits)) 64 2 with
  | (none, s) => s
  | (some bs, s) =>
    let e : QEntry := { seq := w.nextSeq, words := (List.range 8).map (fun i => BitVec.ofNat 64 (recWord bs (8 * i))), state := .waiting, failed := false, work := 0, moved := 0
                        part := w.part, prio := w.prio, doneAddr := w.doneAddr }
    { endAgent s (.front (131072 + q)) with queues := NMap.insert s.queues q { w with head := (w.head + 1) % 2 ^ 32, nextSeq := (w.nextSeq + 1) % 2 ^ 48, entries := w.entries ++ [e] } }
/-- Word `i` of an entry. -/
def QEntry.word (e : QEntry) (i : Nat) : Nat := (e.words.getD i 0).toNat
def QEntry.type (e : QEntry) : Nat := field (e.word 0) 0 8
def QEntry.ctx (e : QEntry) : Nat := field (e.word 2) 0 12
def QEntry.waitQueue (e : QEntry) : Nat := field (e.word 0) 16 16
def QEntry.waitSeq (e : QEntry) : Nat := field (e.word 1) 0 48
/-- Block-wise acts on launches only (16 Table 3). -/
def QEntry.blockwise (e : QEntry) : Bool := decide (e.type = 1) && bitAt (e.word 0) 9
/-- The first entry of a queue that has not started, with those before it. -/
def nextEntry (w : WorkQueue) : Option (List QEntry × QEntry) :=
  let before := w.entries.takeWhile (fun e => e.state ≠ .waiting)
  (w.entries[before.length]?).map (fun e => (before, e))
/-- The ordering conditions of R375 hold. -/
def entryOrdered (s : State) (before : List QEntry) (e : QEntry) : Bool :=
  (!bitAt (e.word 0) 8 || before.all (fun f => decide (f.state = .done))) &&
  (decide (e.waitSeq = 0) || e.blockwise || decide (e.waitSeq ≤ (NMap.getD s.queues e.waitQueue {}).completed))
def updEntry (s : State) (q seq : Nat) (f : QEntry → QEntry) : State :=
  { s with queues := nupdate s.queues q (fun w => { w with entries := mapIf (fun e => decide (e.seq = seq)) f w.entries }) }
/-- The entry has started. -/
def entryRuns (s : State) (q seq work : Nat) : State := updEntry s q seq (fun e => { e with state := .running, work := work })
/-- An entry is refused: it completes at once, and an event record names the rule and the item (R374, R414). DEDUCED, log entry 61. -/
def refuse (s : State) (q seq rule item : Nat) : State := entryDone' (eventRecord s 1 item q seq [rule]) q seq true
/-- A stage grid from its launch record (R379). -/
def newGrid (s : State) (l : Launch) (q : Nat) (e : QEntry) (plan : Option (Nat × Nat)) (part : Nat) (bw : Option (Nat × Nat × Nat × Nat)) : Nat × State :=
  let gn := s.nextId
  let g : Grid := { launch := l, queue := q, seq := e.seq, plan := plan, part := part, prio := e.prio, started := gn
                    todo := ((List.range 4).zip l.ranges).filterMap (fun r => if r.2.2 = 0 then none else some (r.1, (List.range r.2.2).map (r.2.1 + ·)))
                    saved := [], running := 0, blockwise := bw, failed := false, stopped := false, boltsStopped := 0, done := false, lastEnd := none }
  (gn, { s with grids := NMap.insert s.grids gn g, nextId := gn + 1 })
/-- A grid that binds the weight store asks at the gate of each die where it has blocks (R100). -/
def askGates (s : State) (gn : Nat) : State :=
  match NMap.get? s.grids gn with
  | none => s
  | some g => if g.launch.weight then (NMap.keys g.todo).foldl (fun s d => gateRequest s d { grid := some gn, queue := g.queue, seq := g.seq, since := s.clock }) s else s
/-- The reads of an entry's records are over. -/
def frontDone (s : State) (q : Nat) : State := endAgent s (.front q)
/-- A launch entry (R383, R384); it waits while its records are being read. -/
def startLaunch (s : State) (q : Nat) (e : QEntry) : State :=
  match readRecord s (.front q) frontOwner e.ctx (e.word 3) with
  | (none, s) => s
  | (some none, s) => refuse (frontDone s q) q e.seq 374 4
  | (some (some (bs, ds)), s) =>
    match checkLaunch s (.front q) bs ds false e.part e.part (if e.blockwise then some (e.word 4) else none) false with
    | (none, s) => s
    | (some (.error n), s) => refuse (frontDone s q) q e.seq 383 n
    | (some (.ok l), s) =>
      let (gn, s) := newGrid (frontDone s q) l q e none e.part (if e.blockwise then some (e.ctx, e.word 4, e.waitQueue, e.waitSeq) else none)
      askGates (entryRuns s q e.seq gn) gn
/-- The stage launch records pass R383, in stage order: their launches, or the first item that fails. DEDUCED, log entry 61. -/
def checkStages (s : State) (g : Agent) (r : PlanRec) (part : Nat) : List (List Byte × List Nat) → Option (Except Nat (List Launch)) × State
  | [] => (some (.ok []), s)
  | rec :: l =>
    match checkLaunch s g rec.1 rec.2 true part r.part none false with
    | (none, s) => (none, s)
    | (some (.error n), s) => (some (.error n), s)
    | (some (.ok a), s) =>
      let (x, s) := checkStages s g r part l
      (x.map (fun y => match y with | .ok b => .ok (a :: b) | .error n => .error n), s)
/-- A notice that a plan of another package has ended names the other end of a pipe: package, channel, pipe here, side (R156). -/
def endsHere (n : Nat × Nat × Nat × Nat) (q : Pipe) : Bool :=
  q.remote && (q.homeHere == decide (n.2.2.2 = 1)) && decide (q.vc = n.2.1) && decide (q.remotePkg = n.1)
/-- The plan of a record, Waiting, with a grid for each stage (R143, R147). -/
def newPlan (s : State) (r : PlanRec) (ls : List Launch) (q : Nat) (e : QEntry) : Nat × State :=
  let pn := s.nextId
  let w := fun o => recWord r.bytes o
  let s : State := { s with nextId := pn + 1 }
  let (stages, s) := (numbered (r.stages.zip ls)).foldl (fun (a : NMap Stage0 × State) t =>
    let (gn, s) := newGrid a.2 t.2.2 q e (some (pn, t.1)) r.part none
    (NMap.insert a.1 t.1 { t.2.1 with grid := gn }, s)) (([] : NMap Stage0), s)
  let p : Plan :=
    { queue := q, seq := e.seq, part := r.part, prio := e.prio, drainStop := bitAt (w 0) 16, spillBase := w 8, spillCtx := field (w 0x10) 32 12, spillUnits := field (w 0x10) 0 32
      podWindow := field (w 0x18) 32 8, balance := bitAt (w 0x18) 28, residency := field (w 0x18) 24 4, hyst := field (w 0x18) 16 4 + 1, fullT := field (w 0x18) 8 8
      emptyT := field (w 0x18) 0 8, record := e.word 3, ctx := e.ctx, stages := stages, pipes := numbered r.pipes, sched := scheduleOf r }
  -- the other end of a pipe may have ended already (R156)
  let gone := s.endNotices.filter (fun n => (NMap.get? p.pipes n.2.2.1).any (endsHere n))
  let p := { p with pipes := gone.foldl (fun m n => nupdate m n.2.2.1 (fun q => { q with otherEnded := true })) p.pipes }
  (pn, { s with plans := NMap.insert s.plans pn p, endNotices := s.endNotices.filter (fun n => n ∉ gone) })
/-- A plan entry (R146, R163): it waits while an earlier instance of its record has not ended, and while its records are being read.
DEDUCED, log entry 85. -/
def startPlanEntry (s : State) (q : Nat) (e : QEntry) : State :=
  if s.plans.any (fun p => decide (p.2.state ≠ .ended) && decide (p.2.record = e.word 3) && decide (p.2.ctx = e.ctx)) then s else
  match readPlan s (.front q) frontOwner e.ctx (e.word 3) with
  | (none, s) => s
  | (some none, s) => refuse (frontDone s q) q e.seq 374 4
  | (some (some r), s) =>
    match checkPlan s (.front q) r with
    | (none, s) => s
    | (some (some (rule, n)), s) => refuse (frontDone s q) q e.seq rule n
    | (some none, s) =>
      match checkStages s (.front q) r e.part r.records with
      | (none, s) => s
      | (some (.error n), s) => refuse (frontDone s q) q e.seq 383 n
      | (some (.ok ls), s) =>
        let (pn, s) := newPlan (frontDone s q) r ls q e
        entryRuns s q e.seq pn

/-! Copy entries (R377). -/

/-- The destination of a line: a type-11 page names the weight store of the die on which the engine acts (R99, R474). -/
def copyDest (s : State) (g : Agent) (owner ctx a : Nat) : Option (Except Nat Xl) × State :=
  if !canonical a then (some (.error tcNonCanonical), s)
  else match translate s g none 0 owner ctx (va57 a) .write with
    | (none, s) => (none, s)
    | (some (.error c), s) => (some (.error c), s)
    | (some (.ok x), s) =>
      if x.type = 3 then
        (some (if x.pa < 0xC000000 ∧ regionPresent s (wsAddr 0 x.pa) then .ok ⟨wsAddr 0 x.pa, 3⟩ else .error tcHole), s)
      else (some (useCheck s 0 x .other), s)
/-- The copy entry waits at the gate, or holds it. -/
def gateAsked (s : State) (q seq : Nat) : Bool :=
  let dd := NMap.getD s.dies 0 {}
  decide (dd.gateWriter = some (q, seq)) || dd.gateQueue.any (fun w => decide (w.grid = none) && decide (w.queue = q) && decide (w.seq = seq))
/-- Write a line: the weight store, or a request to its place; poison travels with it, unit by unit (R81, R377). DEDUCED, log entry 58. -/
def putLine (s : State) (g : Agent) (dst owner : Nat) (d : LineData) (bad : BitVec 4) : State :=
  match regionOf dst with
  | .wstore _ _ => addPoison (rawWrite s (dst / 128) allLanes d) (dst / 128) bad
  | _ => engineWriteP s (.agent g) 0 15 owner .keep dst (lineBytes d 0 128) bad
/-- A copy entry ends; as a writer it leaves the gate. -/
def endCopyEntry (s : State) (q seq : Nat) (failed : Bool) : State := gateLeaveWriter (entryDone' (endAgent s (.entry q seq)) q seq failed) 0 q seq
/-- The next line of a copy entry, or its end: lines move in ascending order, each once the one before has been accepted. -/
def copyEntryStep (s : State) (q : Nat) (e : QEntry) : State :=
  let g : Agent := .entry q e.seq
  if agentBusy s g then s else
  if field (e.word 5) 0 40 ≤ e.moved then endCopyEntry s q e.seq false else
  let sa := (e.word 3 + e.moved) % 2 ^ 64
  let da := (e.word 4 + e.moved) % 2 ^ 64
  let fail := fun (s : State) (c va : Nat) => endCopyEntry (eventRecord s 8 c q e.seq [va]) q e.seq true
  let (x, s) := access s g none 0 frontOwner e.ctx sa .read .other
  let (y, s) := copyDest s g frontOwner e.ctx da
  match x, y with
  | none, _ | _, none => s
  | some (.error c), _ => fail s c sa
  | some (.ok _), some (.error c) => fail s c da
  | some (.ok x), some (.ok y) =>
    if y.type = 3 ∧ (NMap.getD s.dies 0 {}).gateWriter ≠ some (q, e.seq) then
      (if gateAsked s q e.seq then s else gateRequest s 0 { grid := none, queue := q, seq := e.seq, since := s.clock })
    else match lineGet s g x.pa 0 15 frontOwner with
      | (none, s) => s
      | (some (d, bad), s) => updEntry (putLine (endAgent s g) g y.pa frontOwner d bad) q e.seq (fun e => { e with moved := e.moved + 128 })
/-- A copy entry starts; with a weight-store destination it arrives at the gate. -/
def startCopy (s : State) (q : Nat) (e : QEntry) : State :=
  if e.word 3 % 128 ≠ 0 ∨ e.word 4 % 128 ≠ 0 ∨ field (e.word 5) 0 40 % 128 ≠ 0 ∨ field (e.word 5) 0 40 = 0 then refuse s q e.seq 377 1 else
  match copyDest s (.entry q e.seq) frontOwner e.ctx (e.word 4) with
  | (none, s) => s
  | (some r, s) =>
    let s := entryRuns s q e.seq 0
    match r with
    | .ok y => if y.type = 3 then gateRequest s 0 { grid := none, queue := q, seq := e.seq, since := s.clock } else s
    | .error _ => s

/-! Starting (R374, R375). -/

/-- An entry whose turn has come: the refusals of R374, then the checks and the start of its type. -/
def startEntry (s : State) (q : Nat) (e : QEntry) : State :=
  let kind := field (e.word 3) 0 4
  if e.type = 0 ∨ 4 < e.type then refuse s q e.seq 374 1
  else if e.type = 4 then
    if 4 < kind then refuse s q e.seq 374 2
    else if kind = 0 then entryDone' s q e.seq false
    else if kind = 4 then entryDone' (adDrop s (some e.ctx)) q e.seq false
    else entryRuns s q e.seq 0
  else
    match acceptDesc s (.front q) frontOwner e.ctx with
    | (none, s) => s
    | (some d, s) =>
    if !descOk d then refuse (frontDone s q) q e.seq 374 3
    else if e.type = 1 then startLaunch s q e
    else if e.type = 2 then startPlanEntry s q e
    else startCopy (frontDone s q) q e
/-- ENTRY_START: a queue reads its next entry, and starts the first that has not started once its order allows (R372, R375). DEDUCED, log entry 23. DEDUCED, log entry 61. -/
def execEntryStart (q : Nat) (s : State) : Out :=
  event (fun s =>
    if !devReady s then s else
    let s := fetchEntry q (tailStep q s)
    match nextEntry (NMap.getD s.queues q {}) with
    | none => s
    | some (before, e) => if entryOrdered s before e then startEntry s q e else s) s
/-- The running entry of a queue with a number, if it has the type. -/
def runningEntry (s : State) (q seq type : Nat) : Option QEntry :=
  (NMap.getD s.queues q {}).entries.find? (fun e => decide (e.seq = seq) && decide (e.state = .running) && decide (e.type = type))
/-- COPY_ENTRY_COMPLETE: a copy entry moves its next line, and completes after its last or ends at a faulting one (R377). -/
def execCopyEntryComplete (q seq : Nat) (s : State) : Out :=
  event (fun s => match runningEntry s q seq 3 with
    | some e => copyEntryStep s q e
    | none => s) s

/-! Invalidations (R95 to R97). -/

/-- The translation entry lies in the scope of a fence entry. -/
def inScope (e : QEntry) (t : TlbEntry) : Bool :=
  let lo := va57 (e.word 4)
  match field (e.word 3) 0 4 with
  | 1 => decide (t.ctx = e.ctx) && decide (t.va < lo + 65536 * field (e.word 5) 0 32) && decide (lo < t.va + t.size)
  | 2 => decide (t.ctx = e.ctx)
  | _ => true
/-- The contexts of a fence entry: one, or all. -/
def scopeCtx (e : QEntry) : Option Nat := if field (e.word 3) 0 4 = 3 then none else some e.ctx
/-- Every translation entry in scope that a cache of the package holds. -/
def scopeEntries (s : State) (e : QEntry) : List TlbEntry :=
  (s.cores.flatMap (fun c => c.2.tlb) ++ s.dies.flatMap (fun d => d.2.tlb)).filter (inScope e)
/-- The line lies in a physical page of a dropped entry whose context runs on the core. -/
def droppedLine (s : State) (ts : List TlbEntry) (core line : Nat) : Bool :=
  ts.any (fun t => decide (t.pa ≤ 128 * line) && decide (128 * line < t.pa + t.size) && decide (t.part = partOf s core))
/-- The partition's work is concerned: it is that of a dropped entry or of the context's descriptor, or the scope is all contexts (R96). -/
def concerned (s : State) (e : QEntry) (part : Nat) : Bool :=
  match scopeCtx e with
  | none => true
  | some c => e.dropped.any (fun t => decide (t.part = part)) || decide ((NMap.get? s.descs c).map descPart = some part)
/-- Drop the entries of every cache, the table lines that walks in flight have read, and the faults that walks left. DESIGN CHOICE, log
entry 22. DEDUCED, log entry 24. -/
def dropScope (s : State) (e : QEntry) : State :=
  let mine := fun (n : Nat) => match scopeCtx e with | some c => decide (n = c) | none => true
  let old := s.dies.flatMap (fun d => (d.2.walks.filter (fun w => mine w.ctx)).map WalkReq.id)
  let s := old.foldl (fun s id => endAgent s (.walk id)) s
  adDrop { s with cores := s.cores.map (fun c => (c.1, { c.2 with tlb := c.2.tlb.filter (fun t => !inScope e t) }))
                  dies := s.dies.map (fun d => (d.1, { d.2 with tlb := d.2.tlb.filter (fun t => !inScope e t), walkCache := d.2.walkCache.filter (fun w => !mine w.ctx)
                                                                walkFaults := d.2.walkFaults.filter (fun f => !mine f.ctx) }))
                  descs := s.descs.filter (fun d => !mine d.1) } (scopeCtx e)
/-- Write back and invalidate the L1 lines of the pages of dropped entries; a line of them on its way to the L1 will not be put there (R96). -/
def dropLines (s : State) (ts : List TlbEntry) : State :=
  s.cores.foldl (fun s c =>
    let gone := droppedLine s ts c.1
    let s := ((NMap.keys c.2.l1).filter gone).foldl (fun s l => updL1 (writeBackLine s c.1 none l) c.1 (fun m => NMap.erase m l)) s
    dropFillsIf s c.1 gone) s
/-- A store that was translated, or an atomic that was issued, before the invalidation began has not been sent to a slice or to the L1. -/
def olderStores (s : State) (e : QEntry) (t n : Nat) : Bool :=
  s.cores.any (fun c => concerned s e (partOf s c.1) && c.2.skeins.any (fun k =>
    (k.2.sq ++ k.2.sqWait).any (fun x => decide (x.made ≤ t)) ||
    k.2.ops.any (fun o => decide (o.1 < n) && (match o.2.body with | .atomic _ _ _ _ _ _ sent _ => !sent | _ => false))))
/-- A load that was issued before the invalidation began has not returned all of its data (R96). -/
def olderLoads (s : State) (e : QEntry) (n : Nat) : Bool :=
  s.cores.any (fun c => concerned s e (partOf s c.1) && c.2.skeins.any (fun k => k.2.ops.any (fun o => decide (o.1 < n) && (match o.2.body with
    | .load parts _ _ _ _ => parts.any (fun p => !p.arrived)
    | _ => false))))
/-- A request that an invalidation still waits for: a load until it has returned, a write until a slice has accepted it (R96). -/
def stillWaits (r : Req) : Bool := !r.isWrite || r.onWay
/-- An invalidation concerns a request: one of a concerned partition, or of an agent outside the cores. -/
def waitsFor (s : State) (e : QEntry) (r : Req) : Bool := concerned s e r.owner || (match r.who with | .agent _ => true | _ => false)
/-- INVALIDATION_COMPLETE (R96): the entries are dropped; once the stores translated before are in the L1 or sent, the L1 lines of their
pages are written back; then the requests made so far, and the loads issued before, finish. -/
def execInvalidationComplete (q seq : Nat) (s : State) : Out :=
  event (fun s => match runningEntry s q seq 4 with
    | none => s
    | some e => match e.began, e.waits with
      | none, _ =>
        let ts := scopeEntries s e
        let held := match scopeCtx e with
          | some c => ((NMap.get? s.descs c).toList).map (fun d => ({ ctx := c, va := 0, size := 0, pa := 0, type := 0, x := false, w := false, part := descPart d } : TlbEntry))
          | none => []
        updEntry (dropScope s e) q seq (fun e => { e with began := some (s.clock, s.nextId), dropped := ts ++ held })
      | some (t, n), none =>
        if olderStores s e t n then s
        else
          let s := dropLines s e.dropped
          let ids := (s.reqs.filter (waitsFor s e)).map Req.id
          updEntry s q seq (fun e => { e with waits := some ids })
      | some (_, n), some l => if s.reqs.any (fun r => decide (r.id ∈ l) && stillWaits r) || olderLoads s e n then s else entryDone' s q seq false) s

/-! Completion words (R373). -/

/-- ENTRY_COMPLETE: the entries at the head of a queue that are complete are counted, and the completion word is written. DEDUCED, log entry 66. -/
def execEntryComplete (q : Nat) (s : State) : Out :=
  event (fun s =>
    let w := NMap.getD s.queues q {}
    let done := w.entries.takeWhile (fun e => e.state = .done)
    match done.getLast? with
    | none => s
    | some e =>
      let sticky := w.sticky || w.entries.any (fun e => e.failed)
      let s : State := { s with queues := NMap.insert s.queues q { w with entries := w.entries.drop done.length, completed := e.seq, sticky := sticky } }
      engineWrite s (.agent (.front q)) 0 15 frontOwner .keep e.doneAddr (leBytes 8 (e.seq + if sticky then 2 ^ 63 else 0))) s

end Sys2Proof.Machine
end

