-- ==== Sys2Proof/Machine/Plans.lean ====
section
/-! DEFINITION. Plans: start and end, the balancer, deadlock detection, spills, drain-and-stop, and host stops (spec/06 R147 to
R163, 17 R415, R419). -/

namespace Sys2Proof.Machine

def planOf (s : State) (pn : Nat) : Option Plan := NMap.get? s.plans pn
def updPlan (s : State) (pn : Nat) (f : Plan → Plan) : State := { s with plans := nupdate s.plans pn f }
def updStage (s : State) (pn st : Nat) (f : Stage0 → Stage0) : State := updPlan s pn (fun p => { p with stages := nupdate p.stages st f })
/-- The plan holds its shares, slots and lines. -/
def Plan.live (p : Plan) : Bool := decide (p.state = .running) || decide (p.state = .stopping)
/-- 0.5 ms in reference clocks. -/
def halfMs : Nat := 1800000
/-- The minimum residency of bolts of no plan (16 Table 2). -/
def plainResidency (s : State) : Nat := (field s.dev.migcfg.toNat 4 4 + 1) * halfMs
/-- A bolt of the core is halted by the debug interface (R424). -/
def coreHalted (s : State) (core : Nat) : Bool :=
  (coreOf s core).skeins.any (fun e => match e.2.run with | .halted | .haltedBrk | .stepping => true | _ => false)

/-! Start and end (R147 to R149). -/

/-- A slot of its schedule is assigned by a running plan (R124). -/
def slotsTaken (s : State) (pn : Nat) (p : Plan) : Bool :=
  s.plans.any (fun q => decide (q.1 ≠ pn) && q.2.live && q.2.sched.any (fun e => (NMap.get? p.sched e.1).isSome))
/-- The Initial cores of each stage on a die, lowest numbers first (R148); none when there are too few. -/
def takeCores (s : State) (p : Plan) (d : Nat) : Option (NMap (List Nat)) :=
  let free := (partCores s d p.part).filter (fun c => c ∉ sharedCores s)
  let r := p.stages.foldl (fun (a : List Nat × NMap (List Nat)) t => (a.1.drop (t.2.initShare.getD d 0), NMap.insert a.2 t.1 (a.1.take (t.2.initShare.getD d 0)))) (free, ([] : NMap (List Nat)))
  if free.length < (p.stages.map (fun t => t.2.initShare.getD d 0)).foldl (· + ·) 0 then none else some r.2
/-- The ways that a plan will pin: general lines in them leave, as far as their victims can be held; and whether all have left (R116,
R130). -/
def clearPins (s : State) (m : PinMap) : Bool × State :=
  m.foldl (fun (a : Bool × State) e =>
    let new := (NMap.keys e.2).filter (fun k => (NMap.get? (sliceOf a.2 e.1).pins k).isNone)
    let s := new.foldl (fun s k => clearWay s e.1 k) a.2
    (a.1 && new.all (wayClear s e.1), s)) (true, s)
/-- Pin the lines of a plan (R130). -/
def pinLines (s : State) (m : PinMap) : State := m.foldl (fun s e => setSlice s e.1 { sliceOf s e.1 with pins := e.2 }) s
/-- The plan runs: its lines are pinned, its Initial cores join or are taken, and its cross-package homes send their credits (R140, R148). -/
def startPlan (s : State) (plan : Nat) (p : Plan) (pins : PinMap) (cores : List (NMap (List Nat))) : State :=
  let mine := fun st => cores.flatMap (fun c => NMap.getD c st [])
  let empty := fun c => decide ((coreOf s c).bolts = [])
  let s := pinLines s pins
  let s := updPlan s plan (fun p => { p with state := .running, stages := p.stages.map (fun t =>
    (t.1, { t.2 with share := (mine t.1).filter empty, joining := (mine t.1).filter (fun c => !empty c) })) })
  let s := p.stages.foldl (fun s t => askGates s t.2.grid) s
  p.pipes.foldl (fun s e => if e.2.remote && e.2.homeHere then
    (List.range e.2.depth).foldl (fun s _ => podSend s { dest := e.2.remotePkg, vc := e.2.vc, msg := .credit plan e.2.remotePipe 0 }) s else s) s
/-- PLAN_START (R147, R148): schedule slots, pinned lines and Initial cores are all available. -/
def execPlanStart (plan : Nat) (s : State) : Out :=
  event (fun s => match planOf s plan with
    | none => s
    | some p =>
      if p.state ≠ .waiting ∨ slotsTaken s plan p then s else
      match placePlan s p.part plan p.pipes (pinsNow s), takeCores s p 0, takeCores s p 1, takeCores s p 2, takeCores s p 3 with
      | some pins, some c0, some c1, some c2, some c3 =>
        match clearPins s pins with
        | (false, s) => s
        | (true, s) => startPlan s plan p pins [c0, c1, c2, c3]
      | _, _, _, _, _ => s) s
/-- The side of a message about a pipe to the other package: 1 when it goes toward the consumer. -/
def farSide (q : Pipe) : Nat := if q.homeHere then 0 else 1
/-! Rounds on their way. -/

/-- The hops of a ring from a position to the one that leaves the package, and the position after it. -/
def lapPart (hops : List RingHop) (pos : Nat) : List RingHop × Nat :=
  let n := ((hops.drop pos).takeWhile (fun h => h.pipe.isNone)).length + 1
  ((hops.drop pos).take n, if pos + n = hops.length then 0 else pos + n)
/-- The stages of a round's present part, and the pipe by which it leaves. -/
def lapStages (l : RingLap) : List Nat := ((lapPart l.hops l.pos).1).map RingHop.stage
def lapOut (l : RingLap) : Option Nat := ((lapPart l.hops l.pos).1).getLast?.bind RingHop.pipe
/-- The round goes on to the next package of the ring. -/
def sendLap (s : State) (pn : Nat) (l : RingLap) : State :=
  match (lapOut l).bind (pipeOf s pn) with
  | none => s
  | some q => podSend s { dest := q.remotePkg, vc := q.vc, msg := .ring l.hops l.first (lapPart l.hops l.pos).2 l.phase q.remotePipe (farSide q) }
/-- A round comes to a plan that stops or has ended: an end or a stop of the ring goes on its way, and any other becomes the end of the ring,
which is blocked no more (R156, R157). DEDUCED, log entry 63. -/
def passLap (pn : Nat) (s : State) (l : RingLap) : State :=
  match l.phase with
  | .stop _ | .done => if l.pos = l.first then s else sendLap s pn l
  | _ => sendLap s pn { l with first := l.pos, phase := .done }
/-- The rounds that a plan holds as it stops or ends go on; a spill that one had asked for ends the ring. -/
def passLaps (s : State) (pn : Nat) (p : Plan) : State := (p.laps ++ p.spillLap.toList).foldl (passLap pn) s

/-- The plan of the other package of each cross-package pipe learns that this one has ended (R156). DEDUCED, log entry 63. -/
def tellEnded (s : State) (p : Plan) : State :=
  p.pipes.foldl (fun s e => if e.2.remote then podSend s { dest := e.2.remotePkg, vc := e.2.vc, msg := .planEnded e.2.remotePipe (farSide e.2) } else s) s
/-- The plan ends: what is left in its pipes is discarded, its lines, slots, cores and spill slots are released (R149, 06 Table 8). -/
def endPlan (s : State) (pn : Nat) (failed : Bool) : State :=
  match planOf s pn with
  | none => s
  | some p =>
    let s : State := { s with slices := s.slices.map (fun e => (e.1, { e.2 with pins := e.2.pins.filter (fun q => match q.2 with
      | .slotLine k _ _ => decide (k ≠ pn)
      | .version _ _ => true) })) }
    let s := passLaps s pn p
    let left := (p.pipes.map (fun e => e.2.queue.length)).foldl (· + ·) 0
    let s := updPlan s pn (fun p => { p with
      state := .ended, spillUsed := [], discarded := left, declared := [], acting := [], laps := [], spillLap := none, stopNow := none
      stages := p.stages.map (fun t => (t.1, { t.2 with share := [], joining := [] })), pipes := p.pipes.map (fun e => (e.1, { e.2 with slots := [], queue := [], spill := none })) })
    let s : State := { s with dies := s.dies.map (fun d => (d.1, { d.2 with move := if (d.2.move.map Prod.fst) = some pn then none else d.2.move })) }
    let s := p.pipes.foldl (fun s e => endAgent s (.spill pn e.1)) (tellEnded s p)
    entryDone' s p.queue p.seq failed
/-- PLAN_END (R149). -/
def execPlanEnd (plan : Nat) (s : State) : Out :=
  event (fun s => match planOf s plan with
    | none => s
    | some p => if p.state = .running ∧ p.stages.all (fun t => t.2.done) then endPlan s plan (p.stages.any (fun t => ((NMap.get? s.grids t.2.grid).map Grid.failed).getD false)) else s) s

/-! Cores that move between shares (R148, R152). -/

/-- Bolts of a core that have run for a time since dispatch or restore. -/
def allRun (s : State) (core time : Nat) : Bool := (coreOf s core).bolts.all (fun b => decide (b.2.started + time ≤ s.clock))
/-- Cores taken from other work: bolts that have run the minimum residency are pre-empted, and an empty core joins its share; a core that
holds a halted bolt waits. DEDUCED, log entry 65. DESIGN CHOICE, log entry 86. -/
def joinShares (s : State) (die : Nat) : State :=
  s.plans.foldl (fun s e => e.2.stages.foldl (fun s t => t.2.joining.foldl (fun s c =>
    if dieOf c ≠ die then s
    else if (coreOf s c).bolts = [] then
      let s := updStage s e.1 t.1 (fun t => { t with share := t.share ++ [c], joining := t.joining.filter (fun k => k ≠ c) })
      let dd := NMap.getD s.dies die {}
      if dd.move.map (fun m => (m.1, m.2.2.2)) = some (e.1, c) then { s with dies := NMap.insert s.dies die { dd with move := none } } else s
    else (coreOf s c).bolts.foldl (fun s b =>
      if b.2.stop.isNone ∧ b.2.started + plainResidency s ≤ s.clock ∧ ((NMap.get? s.grids b.2.grid).bind Grid.plan).isNone ∧ !coreHalted s c then beginStop s c b.1 .save else s) s) s) s) s
/-- A migration is over once its bolt has been restored, or has ended otherwise (R396). DEDUCED, log entry 65. -/
def endMigration (s : State) (die : Nat) : State :=
  let dd := NMap.getD s.dies die {}
  match dd.migration with
  | none => s
  | some (c, b, dest) =>
    let stopping := ((boltOf s c b).bind Bolt.stop) = some .save
    let waiting := s.grids.any (fun g => g.2.saved.any (fun v => decide (v.2.1 = die) && decide (v.2.2 = some dest)))
    let reading := s.savedBolts.any (fun v => v.into.isSome && decide (v.bolt.dest = some dest))
    if stopping ∨ waiting ∨ reading then s else { s with dies := NMap.insert s.dies die { dd with migration := none } }

/-! The balancer (R150 to R153). -/

/-- Occupancy of a pipe (R150): on a producer package with the C that the home last sampled. DEDUCED, log entry 63. -/
def occupancy (p : Pipe) : Nat := min 255 (256 * (if p.remote && !p.homeHere then p.sample else p.filled) / p.depth)
def inputPipes (p : Plan) (st : Nat) : List Pipe := (p.pipes.map Prod.snd).filter (fun q => isConsumer q st)
def outputPipes (p : Plan) (st : Nat) : List Pipe := (p.pipes.map Prod.snd).filter (fun q => isProducer q st)
/-- The class of a stage in a sample: 2 pressed, 1 starved, 0 neither. -/
def stageClass (p : Plan) (st : Nat) : Nat :=
  let ins := (inputPipes p st).map occupancy
  let outs := (outputPipes p st).map occupancy
  let pressed := if ins = [] then outs.all (fun o => decide (o ≤ p.emptyT)) else ins.any (fun o => decide (p.fullT ≤ o))
  let starved := if ins = [] then outs.all (fun o => decide (p.fullT ≤ o)) else ins.all (fun o => decide (o ≤ p.emptyT))
  if pressed then 2 else if starved then 1 else 0
/-- The value by which pressed stages are ranked (R151). -/
def pressure (p : Plan) (st : Nat) : Nat :=
  match (inputPipes p st).map occupancy with
  | [] => 255 - ((outputPipes p st).map occupancy).foldl max 0
  | l => l.foldl max 0
/-- Cores of a stage's share on a die, as it is held against Minimum and Maximum: those taken or moved that have yet to join it count.
DESIGN CHOICE, log entry 100. -/
def shareOn (t : Stage0) (die : Nat) : List Nat := (t.share ++ t.joining).filter (fun c => dieOf c = die)
/-- A ring that is declared, acted on, or being stopped for includes a stage with cores on the die (R153). -/
def ringOnDie (s : State) (die : Nat) : Bool :=
  s.plans.any (fun e => (e.2.acting ++ e.2.declared.flatMap DeclaredRing.stages).any (fun st =>
    decide (((NMap.get? e.2.stages st).map (fun t => shareOn t die)).getD [] ≠ [])))
/-- The balancer's decision for a plan on a die (R151): donor, recipient and core. -/
def balanceMove (s : State) (p : Plan) (die : Nat) : Option (Nat × Nat × Nat) :=
  let eligible := fun (t : Nat × Stage0) c => decide (t.2.cls = c) && decide (p.hyst ≤ t.2.clsCount)
  let size := fun (t : Nat × Stage0) => (shareOn t.2 die).length
  let recip := leastBy (fun (t : Nat × Stage0) => 255 - pressure p t.1) (p.stages.filter (fun t => eligible t 2 && decide (size t < t.2.maxShare.getD die 0)))
  let donor := p.stages.find? (fun t => eligible t 1 && decide (t.2.minShare.getD die 0 < size t))
  match recip, donor with
  | some r, some d =>
    let cores := (d.2.share.filter (fun c => dieOf c = die)).filter (fun c => allRun s c ((p.residency + 1) * halfMs) && !coreHalted s c)
    (leastBy (fun c => 256 * residentSkeins (coreOf s c) + c) cores).map (fun c => (d.1, r.1, c))
  | _, _ => none
/-- Start a move (R152). -/
def startMove (s : State) (pn die : Nat) (m : Nat × Nat × Nat) : State :=
  let (d, r, c) := m
  let s := updStage s pn d (fun t => { t with share := t.share.filter (fun k => k ≠ c), clsCount := 0 })
  let s := updStage s pn r (fun t => { t with joining := t.joining ++ [c], clsCount := 0 })
  let s : State := { s with dies := NMap.insert s.dies die { NMap.getD s.dies die {} with move := some (pn, d, r, c) } }
  joinShares ((coreOf s c).bolts.foldl (fun s b => if b.2.stop.isNone then beginStop s c b.1 .save else s) s) die
/-- The homes of cross-package pipes send the C that they sample (R150). DEDUCED, log entry 63. -/
def sendSamples (s : State) (p : Plan) : State :=
  p.pipes.foldl (fun s e => if e.2.remote && e.2.homeHere then podSend s { dest := e.2.remotePkg, vc := e.2.vc, msg := .pipeSample e.2.remotePipe e.2.filled } else s) s
/-- The classes of a plan's stages in a sample, with their counts (R150). -/
def classify (p : Plan) (now : Nat) : Plan :=
  { p with balanced := some now, stages := if !p.balance then p.stages else p.stages.map (fun t =>
      let c := stageClass p t.1
      (t.1, { t.2 with cls := c, clsCount := if c = t.2.cls then t.2.clsCount + 1 else 1 })) }
/-- The decision for a plan on a die, if the die makes no other move in this sample (R151, R153). -/
def decideMove (die : Nat) (s : State) (pn : Nat) : State :=
  let dd := NMap.getD s.dies die {}
  match planOf s pn with
  | none => s
  | some p =>
    if p.state ≠ .running ∨ !p.balance ∨ dd.balMoved = some s.clock ∨ dd.move.isSome ∨ dd.migration.isSome ∨ ringOnDie s die then s else
    match balanceMove s p die with
    | some m => startMove { s with dies := NMap.insert s.dies die { dd with balMoved := some s.clock } } pn die m
    | none => s
/-- The balancer's sample of a reference count that is a multiple of 65,536, if it has not been taken: classes and counts of every balanced
plan, then at most one move on each die (R150, R151). DEDUCED, log entry 63. -/
def balancerSample (s : State) : State :=
  if s.clock % 65536 ≠ 0 then s else
  let now := (s.plans.filter (fun e => e.2.state = .running ∧ e.2.balanced ≠ some s.clock)).map Prod.fst
  let s := now.foldl (fun s pn => match planOf s pn with
    | some p => sendSamples (updPlan s pn (fun p => classify p s.clock)) p
    | none => s) s
  (List.range 4).foldl (fun s die => now.foldl (decideMove die) s) s
/-- BALANCER_SAMPLE (R150, R151). DEDUCED, log entry 63. -/
def execBalancerSample (s : State) : Out := event balancerSample s

/-! Waits and edges (R154, R155). -/

/-- The home has granted what the path waits for. -/
def waitGranted (s : State) (core slot path pl n : Nat) (push : Bool) : Bool :=
  ((pipeOf s pl n).map (fun p => (p.waits push).any (fun w =>
    decide (w.core = core) && decide (w.slot = slot) && decide (w.path = path) && w.granted.isSome))).getD false
/-- Pushes wait on open pipes only, and pops on pipes that are not exhausted (R136, R155). -/
def pipeHolds (s : State) (pl n : Nat) (push : Bool) : Bool :=
  ((pipeOf s pl n).map (fun p => if push then !closedPipe p else decide (p.state ≠ .exhausted))).getD false
/-- What a recorded wait waits for at a pipe: plan, pipe, push side. -/
def pipeWaitOf (s : State) : WaitKind → Option (Nat × Nat × Bool)
  | .pipeFree pl n => if pipeHolds s pl n true then some (pl, n, true) else none
  | .pipeFilled pl n => if pipeHolds s pl n false then some (pl, n, false) else none
  | _ => none
/-- The pipe wait of a path since a reference count. A wait that the home has granted is over. -/
def pathPipeWait (s : State) (core slot path : Nat) (pa : Path) (t0 : Nat) : Option (Nat × Nat × Bool) :=
  match pa.wait with
  | some (k, t, _) => (pipeWaitOf s k).filter (fun w => decide (t ≤ t0) && !waitGranted s core slot path w.1 w.2.1 w.2.2)
  | none => none
/-- The pipe waits of a resident skein since a reference count; a halted skein waits on no pipe (R424). DEDUCED, log entry 63. -/
def skeinWaits (s : State) (core slot : Nat) (sk : Skein) (t0 : Nat) : List (Nat × Nat × Bool) :=
  if sk.run = .running then sk.paths.filterMap (fun e => pathPipeWait s core slot e.1 e.2 t0) else []
/-- The pipe waits with which a skein was saved; of a bolt saved after a reference count, those that had lasted since then (R154). -/
def savedWaits (s : State) (v : SavedBolt) (t0 : Nat) (sk : Skein) : List (Nat × Nat × Bool) :=
  sk.paths.filterMap (fun e => e.2.wait.bind (fun w => (pipeWaitOf s w.1).filter (fun _ => decide (v.savedAt ≤ t0) || decide (w.2.1 ≤ t0))))
/-- One round of the third case of R154 over the skeins of a bolt: those that wait on a pipe, then those parked since a reference count
at a BAR wait for which every skein that has not arrived is among them. -/
def barRound (points : NMap Rendezvous) (skeins : List Skein) (t0 : Nat) (now : List Nat) : List Nat :=
  now ++ (skeins.filter (fun k => decide (k.index ∉ now) && k.paths.any (fun e => match e.2.wait with
    | some (.barrier b, t, _) => decide (t ≤ t0) && skeins.all (fun o => decide (o.index ∈ (NMap.getD points b {}).arrived) || decide (o.index ∈ now))
    | _ => false))).map Skein.index
/-- Every skein of a bolt that has not ended waits on a pipe, `first` by its own wait and the rest at barriers (R154). -/
def boltWaits (points : NMap Rendezvous) (skeins : List Skein) (t0 : Nat) (first : Skein → Bool) : Bool :=
  let all := (List.range skeins.length).foldl (fun l _ => barRound points skeins t0 l) ((skeins.filter first).map Skein.index)
  skeins.all (fun k => decide (k.index ∈ all))
/-- The resident bolts of a grid: core, bolt, and the skeins that have not ended, with their slots. -/
def gridResident (s : State) (gn : Nat) : List (Nat × Bolt × List (Nat × Skein)) :=
  s.cores.flatMap (fun c => (gridBolts c.2 gn).map (fun b => (c.1, b.2, (boltSkeins s c.1 b.1).filter (fun e => decide (e.2.run ≠ .ended)))))
/-- The skeins of a saved bolt that have not ended. -/
def savedLive (v : SavedBolt) : List Skein := (v.skeins.map Prod.snd).filter (fun k => match k.run with | .exited | .ended => false | _ => true)
/-- The edge of a wait: a local stage, or 16 + the number of a pipe whose other side is on another package (R155). -/
def waitEdge (p : Plan) (w : Nat × Nat × Bool) : List Nat :=
  match NMap.get? p.pipes w.2.1 with
  | none => []
  | some q => if w.2.2 then (if q.homeHere then [q.consumer] else [16 + w.2.1]) else (if q.remote then [16 + w.2.1] else [q.producer])
/-- An undispatched bolt of the grid could be dispatched (R154, R387). -/
def couldDispatch (s : State) (gn : Nat) (g : Grid) : Bool :=
  (List.range 4).any (fun d => decide (NMap.getD g.todo d [] ≠ []) && (!g.launch.weight || decide (gn ∈ (NMap.getD s.dies d {}).gateReaders)) &&
    (List.range 48).any (fun c => admissible s gn g (newGranules g.launch) (48 * d + c)))
/-- As the reference count advances, the stages for which a bolt could be dispatched are noted (R154). -/
def noteRoom (s : State) : State :=
  let live := (s.plans.filter (fun e => e.2.state = .running)).flatMap (fun e => e.2.stages.map (fun t => t.2.grid))
  { s with grids := s.grids.map (fun e => if decide (e.1 ∈ live) && couldDispatch s e.1 e.2 then (e.1, { e.2 with lastRoom := some s.clock }) else e) }
/-- The edges of a stage that has been blocked since a reference count, or none if it has not (R154). A stage without any skein that waits,
whose bolts merely cannot be dispatched, has no edge and is not blocked: DESIGN CHOICE, log entry 101. DEDUCED, log entry 63. -/
def blockedEdges (s : State) (p : Plan) (st t0 : Nat) : Option (List Nat) :=
  match (NMap.get? p.stages st).bind (fun t => (NMap.get? s.grids t.grid).map (fun g => (t, g))) with
  | none => none
  | some (t, g) =>
    let since := fun (o : Option Nat) => o.any (fun e => decide (t0 < e))
    let res := gridResident s t.grid
    let sav := s.savedBolts.filter (fun v => decide (v.grid = t.grid) && v.into.isNone)
    let from_ := fun (v : SavedBolt) => if v.savedAt ≤ t0 then s.clock else t0
    let own := fun (b : Nat × Bolt × List (Nat × Skein)) (k : Skein) => b.2.2.any (fun e => decide (e.2.index = k.index) && decide (skeinWaits s b.1 e.1 e.2 t0 ≠ []))
    let waiting := res.all (fun b => boltWaits b.2.1.points (b.2.2.map Prod.snd) t0 (own b)) &&
      sav.all (fun v => boltWaits v.bolt.points (savedLive v) (from_ v) (fun k => decide (savedWaits s v t0 k ≠ [])))
    let edges := sortBy id (dedup ((res.flatMap (fun b => b.2.2.flatMap (fun e => skeinWaits s b.1 e.1 e.2 t0)) ++ sav.flatMap (fun v => (savedLive v).flatMap (savedWaits s v t0))).flatMap (waitEdge p)))
    if t.done ∨ g.done ∨ !waiting ∨ couldDispatch s t.grid g ∨ since g.lastRoom ∨ since g.lastEnd ∨ edges = [] then none else some edges
/-- Close a set of stages under edges. -/
def closeEdges (edge : Nat → List Nat) : Nat → List Nat → List Nat
  | 0, l => l
  | k + 1, l => closeEdges edge k (dedup (l ++ l.flatMap edge))
/-- The ages of the edges between blocked stages at the end of a period (R156). -/
def agedEdges (p : Plan) (blk : NMap (List Nat)) : NMap Nat :=
  (blk.flatMap (fun e => (e.2.filter (fun m => (NMap.get? blk m).isSome)).map (fun m => 64 * e.1 + m))).foldl (fun a k => NMap.insert a k (1 + NMap.getD p.edgeAge k 0)) []
/-- Stages reached from a stage by one or more edges that have lasted 16 periods. -/
def reachFrom (age : NMap Nat) (st : Nat) : List Nat :=
  let edge := fun n => (age.filter (fun e => decide (e.1 / 64 = n) && decide (16 ≤ e.2))).map (fun e => e.1 % 64)
  closeEdges edge 16 (edge st)
/-- The rings whose edges have lasted 16 periods, each ascending, in order of their lowest stage (R156). DEDUCED, log entry 63. -/
def ringsOf (age : NMap Nat) (stages : List Nat) : List (List Nat) :=
  dedup (stages.filterMap (fun st => if st ∈ reachFrom age st then some (sortBy id ((reachFrom age st).filter (fun m => st ∈ reachFrom age m))) else none))

/-! Drain-and-stop (R160 to R162). -/

/-- The next stage to halt: the lowest unstopped one without an unstopped producer, else the lowest (R160). -/
def nextHalt (p : Plan) : Option Nat :=
  let up := (NMap.keys p.stages).filter (fun st => st ∉ p.stopOrder)
  let fed := fun st => (p.pipes.any (fun e => !e.2.remote && isConsumer e.2 st && decide (e.2.producer ∈ up)))
  (up.find? (fun st => !fed st)).or up.head?
/-- A saved bolt that will not be restored leaves, its tasks discarded at the homes of their pipes, when each can take an operation (R135,
R161, R189). DEDUCED, log entry 64. -/
def dropSaved (s : State) (v : SavedBolt) : State :=
  let open_ := (v.skeins.map Prod.snd).filter Skein.taskOpen
  let pipes := dedup (open_.flatMap heldPipes)
  if !pipes.all (fun e => (pipeOf s e.1 e.2).all (homeTurn s)) then s else
  let s := open_.foldl (fun s k => unpinVersions (k.held.foldl discardHeld s) k.taskKey) s
  let s := pipes.foldl (fun s e => stampHome s e.1 e.2) s
  { s with savedBolts := s.savedBolts.filter (fun w => w ≠ v) }
/-- The saved bolts of a grid that are to leave. -/
def droppedBolts (s : State) (gn : Nat) : List SavedBolt := s.savedBolts.filter (fun v => decide (v.grid = gn) && v.dropping)
/-- No more bolts of a grid are dispatched, and none that waits for a restore (R161, R419). DEDUCED, log entry 64. -/
def dropUndispatched (s : State) (gn : Nat) : State :=
  let s := updGrid s gn (fun g => { g with todo := [], saved := [], stopped := true })
  let s : State := { s with savedBolts := mapIf (fun v => decide (v.grid = gn) && v.into.isNone) (fun v => { v with dropping := true }) s.savedBolts }
  let s := (droppedBolts s gn).foldl dropSaved s
  { s with dies := s.dies.map (fun d => (d.1, { d.2 with gateQueue := d.2.gateQueue.filter (fun w => w.grid ≠ some gn) })) }
/-- The dies' binds of the weight store that a grid without bolts still holds end (R100). -/
def leaveGates (s : State) (gn : Nat) : State := (List.range 4).foldl (fun s d => leaveGate s gn d) s
/-- Stop every resident bolt of a grid. DEDUCED, log entry 64. -/
def stopGrid (s : State) (gn : Nat) (k : StopKind) : State :=
  let s := dropUndispatched s gn
  leaveGates (s.cores.foldl (fun s c => (gridBolts c.2 gn).foldl (fun s b => beginStop s c.1 b.1 k) s) s) gn
/-- The event record of a stopped plan (R162, R414): 17 units. DEDUCED, log entry 64. -/
def planRecord (s : State) (p : Plan) : State :=
  let order := ((p.stopOrder.zip (List.range p.stopOrder.length)).map (fun e => e.1 * 16 ^ e.2)).foldl (· + ·) 0
  let pipe := fun n => match NMap.get? p.pipes n with
    | none => [0#64, 0#64]
    | some q =>
      let old := ((q.queue.find? PipeTile.spilled).map PipeTile.slot).getD 0xFFFFFFFF
      [BitVec.ofNat 64 (pstatValue q .filled + 2 ^ 32 * pstatValue q .free), BitVec.ofNat 64 (q.spilled + 2 ^ 32 * old)]
  eventUnits s (eventHead s 4 p.stopCause 17 p.queue p.seq [order, p.stopOrder.length] :: (List.range 16).map (fun u => (List.range 4).flatMap (fun i => pipe (4 * u + i))))
/-- The plan ends once its record has been written (R162, R463). DEDUCED, log entry 64. -/
def finishStop (s : State) (pn : Nat) : State :=
  match (planOf s pn).bind (fun p => if p.state = .stopping then p.finalRecord else none) with
  | none => s
  | some id => if s.records.any (fun r => r.id = id) then s else endPlan s pn true
/-- Begin the halt of the next stage; after the last the record is written and the plan ends. -/
def haltNext (s : State) (pn : Nat) : State :=
  match planOf s pn with
  | none => s
  | some p => match nextHalt p with
    | none => finishStop (updPlan (planRecord s p) pn (fun p => { p with finalRecord := some s.nextId })) pn
    | some st =>
      let s := updPlan s pn (fun p => { p with stopOrder := p.stopOrder ++ [st], stopNow := some st })
      match (NMap.get? p.stages st).map Stage0.grid with
      | some gn => stopGrid s gn .planHalt
      | none => s
/-- A plan begins to stop: every pipe is stopped, and the first stage's halt begins (R160). `ring` names the stages of a ring that it
stops for. -/
def beginPlanStop (s : State) (pn cause : Nat) (ring : List Nat) : State :=
  match planOf s pn with
  | none => s
  | some p =>
    if p.state = .stopping ∨ p.state = .ended then s else
    let s := passLaps s pn p
    let going := p.pipes.filterMap (fun e => e.2.spill.map Prod.snd)
    let s := p.pipes.foldl (fun s e => endAgent s (.spill pn e.1)) s
    haltNext (updPlan s pn (fun p => { p with
      state := .stopping, stopCause := cause, stopOrder := [], declared := [], acting := ring, laps := [], spillLap := none, spillUsed := p.spillUsed.filter (fun u => u ∉ going)
      pipes := p.pipes.map (fun e => (e.1, { e.2 with state := .stopped, spill := none, spillStep := 0 })) })) pn
/-- STAGE_HALT (R161, R162): the halting stage has no bolt left, resident or saved. -/
def execStageHalt (plan : Nat) (s : State) : Out :=
  event (fun s => match planOf s plan with
    | none => s
    | some p => match p.stopNow with
      | none => finishStop s plan
      | some st =>
        let gn := ((NMap.get? p.stages st).map Stage0.grid).getD 0
        let s := (droppedBolts s gn).foldl dropSaved s
        let busy := (NMap.get? s.grids gn).any (fun g => decide (g.running ≠ 0)) || decide (droppedBolts s gn ≠ [])
        if p.state ≠ .stopping ∨ busy then s
        else haltNext (updStage (updPlan s plan (fun p => { p with stopNow := none })) plan st (fun t => { t with halted := true })) plan) s

/-! Spills and declared rings (R156 to R159). -/

/-- A push, of a resident or of a saved bolt, waits on the pipe. -/
def pushWaiting (s : State) (pn n : Nat) : Bool :=
  s.cores.any (fun c => c.2.skeins.any (fun e => (skeinWaits s c.1 e.1 e.2 s.clock).any (fun w => decide (w = (pn, n, true))))) ||
  s.savedBolts.any (fun v => v.into.isNone && (savedLive v).any (fun k => (savedWaits s v s.clock k).any (fun w => decide (w = (pn, n, true)))))
/-- The oldest tile of a pipe that lies filled in a slot. -/
def oldestFilled (p : Pipe) : Option Nat := (p.queue.find? (fun t => !t.spilled && !t.taken)).map PipeTile.slot
/-- The candidate pipes of a ring (R158) that this package can see, by home package and pipe number there: a pipe between two of the
ring's stages here, and, by the mirror, one that leaves for another package. Those homed here hold a filled tile. -/
def ringCands (s : State) (pn : Nat) (p : Plan) (ring : List Nat) (out : Option Nat) : List (Nat × Nat) :=
  p.pipes.filterMap (fun e =>
    if decide (pstatValue e.2 .free = 0) && pushWaiting s pn e.1 then
      if !e.2.remote then
        (if decide (e.2.producer ∈ ring) && decide (e.2.consumer ∈ ring) && (oldestFilled e.2).isSome then some (Config.packageNumber, e.1) else none)
      else if !e.2.homeHere && decide (out = some e.1) then some (e.2.remotePkg, e.2.remotePipe) else none
    else none)
/-- The candidate that is chosen: the lowest pair of home package and pipe number (R158). -/
def bestCand (l : List (Nat × Nat)) : Option (Nat × Nat) := leastBy (fun c => 65536 * c.1 + c.2) l
/-- Begin the spill of the oldest filled tile of a pipe into the lowest free spill slot (R158); false when there is none. -/
def beginSpill (s : State) (pn n : Nat) (ring : List Nat) (lap : Option RingLap) : Bool × State :=
  match planOf s pn with
  | none => (false, s)
  | some p => match (NMap.get? p.pipes n).bind oldestFilled, (List.range (4 * p.spillUnits)).find? (fun u => u ∉ p.spillUsed) with
    | some sl, some u =>
      (true, updPipe (updPlan s pn (fun p => { p with acting := dedup (p.acting ++ ring), spillUsed := sortedInsert u p.spillUsed, spillLap := lap })) pn n (fun q => { q with spill := some (sl, u), spillStep := 0 }))
    | _, _ => (false, s)
/-- The counts of a ring restart, and it is acted on no more (R156, R158). -/
def restartRing (s : State) (pn : Nat) (ring : List Nat) : State :=
  updPlan s pn (fun p => { p with
    acting := p.acting.filter (fun st => st ∉ ring), edgeAge := p.edgeAge.filter (fun e => decide (e.1 / 64 ∉ ring) && decide (e.1 % 64 ∉ ring))
    stages := p.stages.map (fun t => if t.1 ∈ ring then (t.1, { t.2 with blocked := 0 }) else t) })

/-! Rounds along a ring that crosses packages (R157). -/

/-- A round that spills: it ends here when the pipe is the one by which it came, or one inside this part; when the spill cannot begin,
every plan of the ring stops (R159). -/
def spillLap (s : State) (pn : Nat) (l : RingLap) (h n : Nat) : State :=
  let inside := (((pipeOf s pn n).map (fun q => !q.remote && decide (q.producer ∈ lapStages l) && decide (q.consumer ∈ lapStages l))).getD false)
  let whole := { l with first := l.pos }
  if h = Config.packageNumber ∧ (n = l.pipe ∨ inside) then
    match beginSpill s pn n (lapStages l) (some whole) with
    | (true, s) => s
    | (false, s) => beginPlanStop (sendLap s pn { whole with phase := .stop 3 }) pn 3 (lapStages l)
  else sendLap s pn l
/-- Begin a round at the present part of another, and do here what it asks for. -/
def startLap (s : State) (pn : Nat) (l : RingLap) (phase : RingPhase) : State :=
  let l := { l with first := l.pos, phase := phase }
  match phase with
  | .stop c => beginPlanStop (sendLap s pn l) pn c (lapStages l)
  | .done => restartRing (sendLap s pn l) pn (lapStages l)
  | .collect _ => sendLap (updPlan s pn (fun p => { p with acting := dedup (p.acting ++ lapStages l) })) pn l
  | .spill h n => spillLap s pn l h n
/-- The ring's stages of this package are blocked still (R156). -/
def stillBlocked (s : State) (p : Plan) (ring : List Nat) : Bool :=
  ring.all (fun st => (blockedEdges s p st s.clock).isSome && decide (((NMap.get? p.stages st).map Stage0.blocked).getD 0 ≠ 0))
/-- A round has come to this package (R157): candidates are collected until it is back where it began, which chooses; a spill begins at
the pipe's home; an end and a stop go all the way round. DEDUCED, log entry 63. -/
def takeLap (s : State) (pn : Nat) (p : Plan) (l : RingLap) : State :=
  let back := decide (l.pos = l.first)
  match l.phase with
  | .stop c => if back then s else beginPlanStop (sendLap s pn l) pn c (lapStages l)
  | .done => if back then s else restartRing (sendLap s pn l) pn (lapStages l)
  | .spill h n => if back then startLap s pn l .done else spillLap s pn l h n
  | .collect cands =>
    let empty := ((NMap.get? p.pipes l.pipe).bind oldestFilled).isNone
    let cands := cands.filter (fun c => !(decide (c = (Config.packageNumber, l.pipe)) && empty))
    if back then match bestCand cands with
      | none => startLap s pn l (.stop 3)
      | some c => startLap s pn l (.spill c.1 c.2)
    else if !stillBlocked s p (lapStages l) then startLap s pn l .done
    else sendLap (updPlan s pn (fun p => { p with acting := dedup (p.acting ++ lapStages l) })) pn { l with phase := .collect (cands ++ ringCands s pn p (lapStages l) (lapOut l)) }
/-- A round comes from another package, by a pipe of this one. -/
def recvRing (s : State) (src vc : Nat) (hops : List RingHop) (first pos : Nat) (phase : RingPhase) (pipe side : Nat) : State :=
  let l : RingLap := ⟨hops, first, pos, phase, pipe⟩
  match remotePipe s src vc pipe (decide (side = 1)) with
  | some pn => if (planOf s pn).map Plan.state = some .running then updPlan s pn (fun p => { p with laps := p.laps ++ [l] }) else passLap pn s l
  | none => match s.plans.find? (fun e => decide (e.2.state = .ended) && (NMap.get? e.2.pipes pipe).any (endsHere (src, vc, pipe, side))) with
    | some e => passLap e.1 s l
    | none => s
/-- The plan on the other side of a pipe has ended (R156): the oldest plan here that has not heard so of its pipe, or the next to be read.
DEDUCED, log entry 63. -/
def recvEnded (s : State) (src vc pipe side : Nat) : State :=
  let n := (src, vc, pipe, side)
  match s.plans.find? (fun e => (NMap.get? e.2.pipes pipe).any (fun q => endsHere n q && !q.otherEnded)) with
  | some e => updPlan s e.1 (fun p => { p with pipes := nupdate p.pipes pipe (fun q => { q with otherEnded := true }) })
  | none => { s with endNotices := s.endNotices ++ [n] }

/-! Acting (R156 to R159). -/

/-- Act on a declared ring or stranded stage: spill one tile, or stop the plan; a ring that crosses packages under its initiator's policy,
by a round. DEDUCED, log entry 63. -/
def actRing (s : State) (pn : Nat) (p : Plan) (r : DeclaredRing) : State :=
  if r.hops ≠ [] then
    let l : RingLap := { hops := r.hops, first := 0, pos := 0, phase := .done, pipe := 0 }
    startLap s pn l (if p.drainStop then .stop 1 else .collect (ringCands s pn p (lapStages l) (lapOut l)))
  else if p.drainStop ∨ r.cause = 2 then beginPlanStop s pn r.cause r.stages
  else match bestCand (ringCands s pn p r.stages none) with
    | none => beginPlanStop s pn 3 r.stages
    | some c => match beginSpill s pn c.2 r.stages none with
      | (true, s) => s
      | (false, s) => beginPlanStop s pn 3 r.stages
/-- A move of the balancer is in progress on a die where one of the stages has cores (R153). -/
def moveInWay (s : State) (p : Plan) (ring : List Nat) : Bool :=
  s.dies.any (fun d => d.2.move.isSome && ring.any (fun st => (NMap.get? p.stages st).any (fun t => decide (shareOn t d.1 ≠ []))))
/-- Act on the declared rings of a plan, one at a time, each rechecked, once no move is in progress on their dies (R153, R156). -/
def actRings (pn : Nat) : Nat → State → State
  | 0, s => s
  | k + 1, s => match planOf s pn with
    | none => s
    | some p =>
      if p.state ≠ .running then s else
      match p.laps, p.declared with
      | l :: rest, _ =>
        if moveInWay s p (lapStages l) then s else
        let p := { p with laps := rest }
        actRings pn k (takeLap (updPlan s pn (fun _ => p)) pn p l)
      | [], [] => s
      | [], r :: rest =>
        if p.acting ≠ [] ∨ moveInWay s p r.stages then s else
        let p := { p with declared := rest }
        let s := updPlan s pn (fun _ => p)
        actRings pn k (if stillBlocked s p r.stages then actRing s pn p r else s)
def actDeclared (s : State) (pn : Nat) : State := actRings pn (((planOf s pn).map (fun p => p.laps.length + p.declared.length)).getD 0) s
/-- Send the reads of a slot's lines from the spill engine at the pipe's home (R158). -/
def readSlot (s : State) (plan pipe part : Nat) (q : Pipe) (slot : Nat) : State :=
  (List.range q.lines).foldl (fun (s : State) i =>
    let r : Req :=
      { id := s.nextId, kind := .slotRead slot i, who := .agent (.spill plan pipe), line := 0, policy := .keep, owner := part, pipe := some (plan, pipe)
        die := q.homeDie, port := 15, homeDie := q.homeDie, homeSlice := slotSlice s q slot i, stage := .port, since := s.clock, reservedEntry := false
        way := 0, rdata := 0, rpoison := 0, rold := 0, stamp := 0 }
    { s with reqs := s.reqs ++ [r], nextId := s.nextId + 1 }) s
/-- The tile of a slot, once all its lines have come: its bytes, and whether one was poisoned. -/
def slotTile (s : State) (plan pipe : Nat) (q : Pipe) : Option (List Byte × Bool) :=
  (List.range q.lines).foldl (fun (a : Option (List Byte × Bool)) i =>
    match a, s.lines.find? (fun l => decide (l.agent = .spill plan pipe) && decide (l.line = i)) with
    | some a, some l => some (a.1 ++ lineBytes l.data 0 128, a.2 || decide (l.poison ≠ 0))
    | _, _ => none) (some ([], false))
/-- The spill cannot be made: the plans of the ring stop (R159). -/
def failSpill (s : State) (pn : Nat) (p : Plan) : State :=
  let s := match p.spillLap with
    | some l => updPlan (sendLap s pn { l with phase := .stop 3 }) pn (fun p => { p with spillLap := none })
    | none => s
  beginPlanStop s pn 3 p.acting
/-- The tile has reached its spill slot and leaves its pipe slot; the ring's counts restart (06 Table 2, R158). -/
def endSpill' (s : State) (pn n : Nat) (p : Plan) (sl u : Nat) : State :=
  let s := updPipe (stampHome s pn n) pn n (fun q => { q with
    spill := none, spillStep := 0, spilled := q.spilled + 1, slots := NMap.erase q.slots sl
    queue := mapIf (sameTile false sl) (fun t => { t with spilled := true, slot := u }) q.queue
    popWaits := mapIf (fun w => decide (w.granted = some (sl, false))) (fun w => { w with granted := some (u, true) }) q.popWaits })
  let s := raiseFree s pn n 1
  let s := match p.spillLap with
    | some l => startLap (updPlan s pn (fun p => { p with spillLap := none })) pn l .done
    | none => restartRing s pn p.acting
  actDeclared s pn
/-- PIPE_SPILL_COMPLETE (R158): the slot's lines are read, the tile is written to the spill slot in the slots of the plan's partition, and,
once the writes are accepted, it leaves its slot in its turn (R135); a copy that cannot be made stops the plan (R159). -/
def execPipeSpillComplete (plan pipe : Nat) (s : State) : Out :=
  event (fun s => match planOf s plan, pipeOf s plan pipe with
    | some p, some q => match q.spill with
      | none => s
      | some (sl, u) =>
        if p.state ≠ .running then s
        else match q.spillStep with
          | 0 => readSlot (updPipe s plan pipe (fun q => { q with spillStep := 1 })) plan pipe p.part q sl
          | 1 => match slotTile s plan pipe q with
            | none => s
            | some (_, true) => failSpill s plan p
            | some (bs, false) => match virtWrite s (.spill plan pipe) none q.homeDie p.part p.spillCtx (spillVa p u) (bs.take q.tileBytes) (lineFuel q.tileBytes + 1) with
              | (none, s) => s
              | (some (some _), s) => failSpill s plan p
              | (some none, s) => updPipe s plan pipe (fun q => { q with spillStep := 2 })
          | 2 => if agentBusy s (.spill plan pipe) then s else updPipe s plan pipe (fun q => { q with spillStep := 3, spillSince := s.clock })
          | _ => if myTurn s plan pipe q (spillKey q) then endSpill' s plan pipe p sl u else s
    | _, _ => s) s

/-! Sampling (R156, R157). -/

/-- A cross-package ring that begins at a crossing: the run of local hops at its end goes to its front. -/
def rotateHops (l : List RingHop) : List RingHop :=
  let tail := (l.reverse.takeWhile (fun h => h.pipe.isNone)).reverse
  tail ++ l.take (l.length - tail.length)
/-- Declare a ring that crosses packages, unless one of its stages here is declared or acted on already (R157). -/
def declareCross (s : State) (pn : Nat) (hops : List RingHop) : State :=
  let hops := rotateHops hops
  let mine := (lapPart hops 0).1.map RingHop.stage
  updPlan s pn (fun p => if (p.acting ++ p.declared.flatMap DeclaredRing.stages).any (fun st => decide (st ∈ mine)) then p
    else { p with declared := p.declared ++ [{ stages := mine, cause := 1, hops := hops }] })
/-- The initiator ranks above a stage of this package. -/
def ranksBelow (pkg stage st : Nat) : Bool := decide (Config.packageNumber < pkg) || (decide (Config.packageNumber = pkg) && decide (st < stage))
/-- A probe travels along the edges of a blocked stage: to other packages, and on within this one (R157). The initiator's ring is
declared when a probe comes back with a great enough count. -/
def probeEdges (pn pkg stage : Nat) : Nat → State → Nat → Nat → List RingHop → State
  | 0, s, _, _, _ => s
  | k + 1, s, st, count, hops =>
    match planOf s pn with
    | none => s
    | some p => match (NMap.get? p.stages st).map (fun t => (t.edges, t.blocked)) with
      | none => s
      | some (edges, blocked) =>
        let count := min count blocked
        let hop : RingHop := { pkg := Config.packageNumber, plan := pn, stage := st, pipe := none }
        edges.foldl (fun s e =>
          if 16 ≤ e then match NMap.get? p.pipes (e - 16) with
            | some q => podSend s { dest := q.remotePkg, vc := q.vc, msg := .probe pkg stage count q.remotePipe (farSide q) (hops ++ [{ hop with pipe := some (e - 16) }]) }
            | none => s
          else if hops.head?.map (fun h => (h.pkg, h.plan, h.stage)) = some (Config.packageNumber, pn, e) then
            (if hops.any (fun h => h.pipe.isSome) && decide (16 * p.podWindow ≤ count) then declareCross s pn (hops ++ [hop]) else s)
          else
            let b := ((NMap.get? p.stages e).map Stage0.blocked).getD 0
            let seen := decide (e = st) || hops.any (fun h => decide (h.pkg = Config.packageNumber) && decide (h.plan = pn) && decide (h.stage = e))
            if b = 0 ∨ ranksBelow pkg stage e ∨ seen then s else probeEdges pn pkg stage k s e count (hops ++ [hop])) s
/-- An edge leads to a completed stage, or to a pipe whose other plan has ended (R156). -/
def deadEdge (p : Plan) (e : Nat) : Bool :=
  if e < 16 then ((NMap.get? p.stages e).map Stage0.done).getD false else ((NMap.get? p.pipes (e - 16)).map Pipe.otherEnded).getD false
/-- The sample of one plan (R154 to R157). -/
def samplePlan (s : State) (pn : Nat) : State :=
  match planOf s pn with
  | none => s
  | some p =>
    if p.state ≠ .running ∨ p.sampled = some s.clock then s else
    let t0 := s.clock - 65536
    let blk : NMap (List Nat) := p.stages.filterMap (fun t => (blockedEdges s p t.1 t0).map (fun e => (t.1, e)))
    let age := agedEdges p blk
    let stages := p.stages.map (fun t => (t.1, { t.2 with blocked := (if (NMap.get? blk t.1).isSome then t.2.blocked + 1 else 0), edges := NMap.getD blk t.1 [] }))
    let held := p.acting ++ p.declared.flatMap DeclaredRing.stages
    let due := ((ringsOf age (NMap.keys blk)).filter (fun r => r.all (fun st => st ∉ held))).map (fun r => ({ stages := r, cause := 1 } : DeclaredRing))
    let stranded := (blk.filter (fun e => decide (16 ≤ ((NMap.get? stages e.1).map Stage0.blocked).getD 0) && decide (e.1 ∉ held) && e.2.all (deadEdge p))).map (fun e => ({ stages := [e.1], cause := 2 } : DeclaredRing))
    let s := updPlan s pn (fun p => { p with sampled := some s.clock, stages := stages, edgeAge := age
                                             declared := p.declared ++ sortBy (fun d => d.stages.headD 0) (due ++ stranded) })
    let s := if p.pipes.any (fun e => e.2.remote) then (NMap.keys blk).foldl (fun s st => probeEdges pn Config.packageNumber st 16 s st (2 ^ 32) []) s else s
    actDeclared s pn
/-- The sample of the boundary at which a period ends, if it has not been taken (R154, R156). -/
def deadlockSample (s : State) : State := if s.clock % 65536 ≠ 0 ∨ s.clock = 0 then s else (NMap.keys s.plans).foldl samplePlan s
/-- DEADLOCK_SAMPLE (R156). DEDUCED, log entry 63. -/
def execDeadlockSample (s : State) : Out := event deadlockSample s
/-- The controllers act on what is declared, as soon as a move that was in the way is over or a round has come (R153, R157). -/
def actWaiting (s : State) : State :=
  s.plans.foldl (fun s e => if e.2.declared ≠ [] ∨ e.2.laps ≠ [] then actDeclared s e.1 else s) s
/-- A probe has come by a pipe: it reaches the stage at this package's side of it (R157). -/
def recvProbe (s : State) (src vc pkg stage count pipe side : Nat) (hops : List RingHop) : State :=
  match remotePipe s src vc pipe (decide (side = 1)) with
  | none => s
  | some pl => match pipeOf s pl pipe with
    | none => s
    | some p => { s with probes := s.probes ++ [{ pkg := pkg, stage := stage, count := count, plan := pl, atStage := if side = 1 then p.consumer else p.producer, hops := hops }] }
/-- DEADLOCK_PROBE (R157): a probe that has arrived reaches a stage of this package: its ring is declared, or it goes on, or is dropped. -/
def execDeadlockProbe (pkg stage count plan atStage : Nat) (s : State) : Out :=
  event (fun s =>
    match s.probes.find? (fun (m : Probe) => decide ((m.pkg, m.stage, m.count, m.plan, m.atStage) = (pkg, stage, count, plan, atStage))) with
    | none => s
    | some m =>
      let s : State := { s with probes := s.probes.erase m }
      match planOf s plan with
      | none => s
      | some p =>
        let b := ((NMap.get? p.stages atStage).map Stage0.blocked).getD 0
        let seen := m.hops.any (fun h => decide (h.pkg = Config.packageNumber) && decide (h.plan = plan) && decide (h.stage = atStage))
        if p.state ≠ .running ∨ b = 0 then s
        else if m.hops.head?.map (fun h => (h.pkg, h.plan, h.stage)) = some (Config.packageNumber, plan, atStage) then
          (if 16 * p.podWindow ≤ min count b then actDeclared (declareCross s plan m.hops) plan else s)
        else if ranksBelow pkg stage atStage || seen then s
        else actDeclared (probeEdges plan pkg stage 16 s atStage count m.hops) plan) s

/-! Host stops (R419). -/

/-- Stop the running plan or launch that a queue and sequence number name. DEDUCED, log entry 64. -/
def hostStop (q seq : Nat) (s : State) : State :=
  let s : State := { s with dev := { s.dev with stopReq := BitVec.ofNat 64 (q % 65536 * 2 ^ 48 + seq % 2 ^ 48) } }
  match s.plans.find? (fun e => decide (e.2.queue = q) && decide (e.2.seq = seq) && decide (e.2.state ≠ .ended)) with
  | some e => beginPlanStop s e.1 4 []
  | none => match s.grids.find? (fun e => decide (e.2.queue = q) && decide (e.2.seq = seq) && e.2.plan.isNone && !e.2.done) with
    | some e => stopGrid s e.1 .host
    | none => s
/-- STOPREQ_WRITE (R419). -/
def execStopreqWrite (q seq : Nat) (s : State) : Out := event (fun s => if devReady s then hostStop q seq s else s) s

end Sys2Proof.Machine
end

