-- ==== Sys2Proof/Machine/Commits.lean ====
section
/-! DEFINITION. Commits of shadowed settings: HBM4E slots, the fabric, UALink slots and owners, partitions (spec/04 R86, 05 R117, 18 R433,
R442). A write of 1 to a commit bit waits for the boundary of its rule; there the settings apply together or the commit is refused. -/

namespace Sys2Proof.Machine

/-- The nibbles of a list of 32-bit words, lowest first. -/
def wordNibbles (ws : List Nat) : List Nat := ws.flatMap (fun w => (List.range 8).map (nibble w))
/-- An owner code that is neither a partition nor unreserved (R86, R117, R433). -/
def badOwner (n : Nat) : Bool := decide (8 ≤ n) && decide (n ≤ 14)
def unowned (l : List Nat) : Nat := (l.filter (fun n => n = 15)).length
/-- Plans that have been started and have not ended. -/
def livePlans (s : State) : List (Nat × Plan) := s.plans.filter (fun e => e.2.state ≠ .ended && e.2.state ≠ .waiting)

/-! HBM4E channels (R86). -/

/-- A channel's shadow breaks R84: fewer than 16 unreserved of slots 1 to 127, or a code from 8 to 14. -/
def channelBad (c : Channel) : Bool :=
  let ns := (wordNibbles ((List.range 16).map (fun w => shadowWord c.shadow w 0xFFFFFFFF))).drop 1
  ns.any badOwner || decide (unowned ns < 16)
/-- CHCOMMIT: the commit waits for a frame boundary. -/
def startChCommit (s : State) : State := { s with dev := { s.dev with chCommit := s.dev.chCommit.or (some s.clock) } }
def execChcommit (s : State) : Out := event (fun s => if devReady s then startChCommit s else s) s
/-- The HBM4E frame at a reference count (R83). DESIGN CHOICE, log entry 5. -/
def hbmFrame (clock : Nat) : Nat := hbmSlot clock / 128
/-- The commit of the channels' slots, at the first frame boundary after the write (R86). DEDUCED, log entry 40. -/
def applyChannels (s : State) : State :=
  match s.dev.chCommit with
  | none => s
  | some t =>
    if hbmFrame s.clock ≤ hbmFrame t then s
    else if s.channels.any (fun e => channelBad e.2) then { s with dev := { s.dev with chCommit := none, chRefused := true } }
    else { s with dev := { s.dev with chCommit := none }, channels := s.channels.map (fun e => (e.1, { e.2 with slots := e.2.shadow })) }
/-- CHANNEL_SLOT_COMMIT_APPLY (R86). -/
def execChannelSlotCommitApply (s : State) : Out := event applyChannels s

/-! The fabric (R117). -/

def startFabCommit (s : State) : State := { s with dev := { s.dev with fabCommit := s.dev.fabCommit.or (some s.clock) } }
def execFabcommit (s : State) : Out := event (fun s => if devReady s then startFabCommit s else s) s
/-- The ways of a die that hold general lines under a setting of ADPCFG. -/
def generalUnder (s : State) (d : Nat) (cfg : DWord) : Nat := if cfg.getLsbD 0 then waysOf s d - 2 else waysOf s d
/-- Owner nibbles of a direction under a shadow map. -/
def dlownNibbles (m : NMap Word) (x : Nat) : List Nat := wordNibbles ((List.range 32).map (fun w => shadowWord m (32 * x + w) 0xFFFFFFFF))
/-- The package's die-link directions (R118). -/
def linkDirs : List Nat := (List.range 16).filter (fun x => decide (x / 4 ≠ x % 4))
/-- The commit removes from a partition a slot that one of its running plans assigns to a pipe. -/
def dropsPlanSlot (s : State) : Bool :=
  (livePlans s).any (fun e => decide (e.2.part < 8) && e.2.sched.any (fun k =>
    decide ((dlownNibbles s.dev.dlownNext (k.1 / 256)).getD (k.1 % 256) 15 ≠ e.2.part)))
/-- The fabric shadows break R117. -/
def fabricBad (s : State) : Bool :=
  let d := s.dev
  let sl := (List.range 16).map (nibble d.slown.next.toNat)
  let ways := fun die => (List.range (generalUnder s die d.adpcfg.next)).map (nibble d.slway.next.toNat)
  let groups := (List.range 8).map (fun g => nibble d.adpcfg.next.toNat (8 + g))
  sl.any badOwner || groups.any badOwner || (List.range 4).any (fun die => (ways die).any badOwner || decide (unowned (ways die) < 2)) ||
  linkDirs.any (fun x => (dlownNibbles d.dlownNext x).any badOwner || decide (unowned (dlownNibbles d.dlownNext x) < 16)) ||
  decide (unowned sl < 4) || decide (24 < ((List.range 8).map (nibble d.slqres.next.toNat)).foldl (· + ·) 0) || dropsPlanSlot s ||
  (decide (d.adpcfg.now.getLsbD 0 ≠ d.adpcfg.next.getLsbD 0) && s.grids.any (fun g => !g.2.done && decide (g.2.launch.adTable ≠ 0) &&
    g.2.plan.all (fun p => (planOf s p.1).any Plan.live)))
/-- The general lines of ways that become adapter ways leave them; pinned lines stay. DEDUCED, log entry 41. DESIGN CHOICE, log entry 84. -/
def evictAdapterWays (s : State) : State :=
  (NMap.keys s.slices).foldl (fun (s : State) n =>
    ((NMap.keys (sliceOf s n).lines).filter (fun k => decide (generalWays s (n / 16) ≤ k % 16))).foldl (fun s k => evictWay s n k) s) s
/-- The commit of the fabric's settings, at the first reference count after the write that is a multiple of 256 (R117). DEDUCED, log
entry 40. DEDUCED, log entry 41. DESIGN CHOICE, log entry 84. -/
def applyFabric (s : State) : State :=
  match s.dev.fabCommit with
  | none => s
  | some t =>
    if s.clock / 256 ≤ t / 256 then s
    else if fabricBad s then { s with dev := { s.dev with fabCommit := none, fabRefused := true } }
    else
      let d := s.dev
      let turned := decide (d.adpcfg.now.getLsbD 0 ≠ d.adpcfg.next.getLsbD 0)
      let s : State := { s with dev := { d with
        fabCommit := none, slown := { d.slown with now := d.slown.next }, slqres := { d.slqres with now := d.slqres.next }
        slway := { d.slway with now := d.slway.next }, adpcfg := { d.adpcfg with now := d.adpcfg.next }, dlown := d.dlownNext } }
      if turned then evictAdapterWays { s with adCache := [] } else s
/-- FABRIC_COMMIT_APPLY (R117). DEDUCED, log entry 41. -/
def execFabricCommitApply (s : State) : Out := event applyFabric s

/-! UALink (R433). -/

def startUalCommit (s : State) : State := { s with dev := { s.dev with ualCommit := s.dev.ualCommit.or (some s.clock) } }
def execUalcommit (s : State) : Out := event (fun s => if devReady s then startUalCommit s else s) s
/-- The UALink shadows break R433. -/
def ualinkBad (s : State) : Bool :=
  let d := s.dev
  let slots := wordNibbles ((List.range 8).map (fun w => shadowWord d.ualslotNext w 0))
  decide ((slots.filter (fun n => n = 0)).length < 8) || (List.range 15).any (fun v => badOwner (nibble d.ualvcown.next.toNat (v + 1))) ||
  (livePlans s).any (fun e => e.2.pipes.any (fun p => p.2.remote && decide (p.2.vc ≠ 0) &&
    decide (nibble d.ualvcown.now.toNat p.2.vc ≠ nibble d.ualvcown.next.toNat p.2.vc)))
/-- Every port that runs frames stands at a frame boundary; a failed port runs none. -/
def atPortFrame (s : State) : Bool := s.ports.all (fun e => !e.2.up || e.2.failed || decide (e.2.slotCount % 64 = 0))
/-- The commit of the UALink settings, at the next frame boundary of every port together (R433). DEDUCED, log entry 40. -/
def applyUalink (s : State) : State :=
  if s.dev.ualCommit.isNone || !atPortFrame s then s
  else if ualinkBad s then { s with dev := { s.dev with ualCommit := none, ualRefused := true } }
  else { s with dev := { s.dev with ualCommit := none, ualvcown := { s.dev.ualvcown with now := s.dev.ualvcown.next }, ualslot := s.dev.ualslotNext } }
/-- UALINK_COMMIT_APPLY (R433). -/
def execUalinkCommitApply (s : State) : Out := event applyUalink s

/-! Partitions (R442). -/

/-- A write of 1 to the commit bit of the partition map; a second one merges (R442). DEDUCED, log entry 40. -/
def startPartCommit (s : State) : State := { s with dev := { s.dev with partCommit := s.dev.partCommit.or (some s.clock) } }
def execPartcommit (s : State) : Out := event (fun s => if devReady s then startPartCommit s else s) s
/-- Enable and clock of a partition in a map of PARTCLK. -/
def clkEnabled (m : NMap DWord) (p : Nat) : Bool := ((NMap.get? m p).getD 0x9000).getLsbD 0
def clkSetting (m : NMap DWord) (p : Nat) : Nat := field ((NMap.get? m p).getD 0x9000).toNat 8 8
/-- The enabled partitions that hold a core. -/
def holders (clk : NMap DWord) (cores : NMap (BitVec 192)) (c : Nat) : List Nat :=
  (List.range 8).filter (fun p => clkEnabled clk p && ((NMap.get? cores p).getD 0).getLsbD c)
/-- Partition and held clock of a core. -/
def holding (clk : NMap DWord) (cores : NMap (BitVec 192)) (c : Nat) : Option (Nat × Nat) :=
  (holders clk cores c).head?.map (fun p => (p, clkSetting clk p))
/-- A bolt is resident on the core, or a plan share holds it. -/
def coreHeld (s : State) (c : Nat) : Bool :=
  decide ((coreOf s c).bolts ≠ []) || (livePlans s).any (fun e => e.2.stages.any (fun t => decide (c ∈ t.2.share) || decide (c ∈ t.2.joining)))
/-- A plan or grid of the partition runs. -/
def partBusy (s : State) (p : Nat) : Bool :=
  (livePlans s).any (fun e => decide (e.2.part = p)) || s.grids.any (fun g => !g.2.done && decide (g.2.part = p))
/-- The partition shadows break R442. -/
def partitionBad (s : State) : Bool :=
  let d := s.dev
  (List.range 192).any (fun c =>
    decide (1 < (holders d.partClkNext d.partCoreNext c).length) ||
    (decide (holders d.partClkNext d.partCoreNext c ≠ []) && !d.cores.getLsbD c) ||
    (decide (holding d.partClk d.partCore c ≠ holding d.partClkNext d.partCoreNext c) && coreHeld s c)) ||
  (List.range 8).any (fun p =>
    (clkEnabled d.partClkNext p && (decide (clkSetting d.partClkNext p < 40) || decide (Config.ratedMax < clkSetting d.partClkNext p))) ||
    (clkEnabled d.partClk p && !clkEnabled d.partClkNext p && partBusy s p))
/-- The clock of a core after a commit: held by its partition; a core that left one runs at its die's highest. DEDUCED, log entry 42. -/
def clockAfter (s : State) (before after : Option (Nat × Nat)) (c : Nat) : Nat :=
  match after, before with
  | some a, _ => a.2
  | none, some _ => (NMap.getD s.dies (dieOf c) {}).maxClk
  | none, none => (coreOf s c).clockN
/-- The commit of the partitions, at the next reference count that is a multiple of 65,536 (R442). DEDUCED, log entry 40. DEDUCED, log
entry 42. -/
def applyPartitions (s : State) : State :=
  match s.dev.partCommit with
  | none => s
  | some t =>
    if s.clock / 65536 ≤ t / 65536 then s
    else if partitionBad s then { s with dev := { s.dev with partCommit := none, partRefused := true } }
    else
      let d := s.dev
      let s : State := { s with dev := { d with partCommit := none, partClk := d.partClkNext, partCore := d.partCoreNext } }
      (List.range 192).foldl (fun s c =>
        let n := clockAfter s (holding d.partClk d.partCore c) (holding d.partClkNext d.partCoreNext c) c
        if n = (coreOf s c).clockN then s else updCore s c (fun k => { k with clockN := n })) s
/-- PARTITION_COMMIT_APPLY (R442). DEDUCED, log entry 42. -/
def execPartitionCommitApply (s : State) : Out := event applyPartitions s

/-- What the reference count does not leave behind: commits that are due now take effect before it advances, at the very count of their
rules (R86, R117, R442), the samples of the count are taken (R150, R156), the stages for which a bolt could be dispatched are noted (R154), and requests and replies move on where the next
buffer has room (R108, R111). DEDUCED, log entry 40. DEDUCED, log entry 68. -/
def beforeTick (s : State) : State := advanceNet (noteRoom (deadlockSample (balancerSample (applyPartitions (applyFabric (applyChannels s))))))

end Sys2Proof.Machine
end

