-- ==== Sys2Proof/Machine/Control.lean ====
section
/-! DEFINITION. Control flow, opcodes 0x01 to 0x0E, and the hint region (spec/14 R343 to R354, 17 R401 to R406). -/

namespace Sys2Proof.Machine

/-- NOP, the hint region (R41): one issue slot, no effect. -/
def execNop (s : State) : Out :=
  match ctxOf s with
  | none => .fault .noIssuer
  | some x => .next (retire x s)

/-- The lanes that continue at the fall-through header (R336). -/
def restGroup (x : Ctx) : Group := (fallThrough x.pa, without x.lanes x.act, x.pa.win)
/-- Move the lanes of the path, unless its pushes would pass a limit (R337, R340). -/
def branchTo (x : Ctx) (groups : List Group) (branch : Bool) (sk : Skein) (s : State) : State :=
  if 256 < entryCount sk + pushesOf sk groups branch then trapX x { code := 0x07 } s
  else commitControl x (transfer sk x.path groups branch) s
/-- Groups of the active lanes by a per-lane target PC. -/
def targetGroups (x : Ctx) (f : Nat → Nat) (w : Nat → Win) : List Group :=
  ((lanesOf x.act).foldl (fun (g : NMap LMask) l => NMap.insert g (f l) (NMap.getD g (f l) 0 ||| oneLane l)) []).map (fun e => (e.1, e.2, w e.1))

/-- BRA (R345). -/
def execBra (c : Ctl) (tgt : Word) (s : State) : Out :=
  issue {} {} c noEarly (fun x s => branchTo x (targetGroups x (fun _ => target x.pa tgt) (fun _ => x.pa.win) ++ [restGroup x] |> fun gs =>
    match gs with
    | [g, r] => if g.1 = r.1 then [(g.1, g.2.1 ||| r.2.1, g.2.2)] else gs
    | _ => gs) true x.sk s) s
/-- Groups of one PC and one window are one group (R336). -/
def joinGroups (gs : List Group) : List Group :=
  gs.foldl (fun acc g => if acc.any (fun h => decide (h.1 = g.1) && decide (h.2.2 = g.2.2)) then
    mapIf (fun h => decide (h.1 = g.1) && decide (h.2.2 = g.2.2)) (fun h => (h.1, h.2.1 ||| g.2.1, h.2.2)) acc else acc ++ [g]) []
/-- BRX (R345): each active lane goes to the PC in its register. -/
def execBrx (c : Ctl) (a : Nat) (s : State) : Out :=
  issue {} (Instr.use (.brx c a)) c noEarly (fun x s =>
    branchTo x (joinGroups (targetGroups x (fun l => (vRead x a l).toNat) (fun _ => x.pa.win) ++ [restGroup x])) true x.sk s) s
/-- SETJ (R346). -/
def execSetj (c : Ctl) (tgt : Word) (s : State) : Out :=
  issue { guard := .coll } {} c noEarly (fun x s =>
    if 256 ≤ entryCount x.sk then trapX x { code := 0x07 } s
    else
      let e : StkEntry := .join (target x.pa tgt) x.act 0 x.pa.win (topsOf x.sk x.act)
      spillControl x (retire x (onSkein x (fun sk => pushEntry x.path sk e) s))) s
/-- JOIN (R347). -/
def execJoin (c : Ctl) (s : State) : Out :=
  issue {} {} c noEarly (fun x s =>
    match topJoin x.sk x.path with
    | some (.join pc e a w tops) =>
      if x.pa.win ≠ w ∨ !within x.act e ∨ (lanesOf x.act).any (fun l => decide (topRecord x.sk l ≠ keptTop tops l)) then trapX x { code := 0x02 } s
      else
        let sk := updTopJoin x.sk x.path (fun _ => .join pc e (a ||| x.act) w tops)
        commitControl x (settle x.path settleFuel (transfer sk x.path [restGroup x] false)) s
    | _ => trapX x { code := 0x02 } s) s

/-- The frames of the distinct targets of a call; none when one has no entry or a frame outside 1 to 30, nothing while the frame map is
being read (R197). DEDUCED, log entry 35. -/
def callFrames (s : State) (core slot path : Nat) (l : Launch) : List Nat → Option (Option (NMap Nat)) × State
  | [] => (some (some []), s)
  | t :: r => match frameOf s core slot path l t with
    | (none, s) => (none, s)
    | (some none, s) => (some none, s)
    | (some (some f), s) =>
      if 1 ≤ f ∧ f ≤ 30 then match callFrames s core slot path l r with
        | (some (some m), s) => (some (some (NMap.insert m t (8 * f))), s)
        | y => y
      else (some none, s)
/-- The shared part of CALL and CALLX: per-lane targets, shift s (R348, R197, R344). DEDUCED, log entry 36. -/
def callTo (x : Ctx) (u : RU) (shift : Nat) (f : Nat → Nat) (s : State) : State :=
  let w := x.pa.win
  let a : Agent := .frame x.core x.slot x.path
  match callFrames s x.core x.slot x.path (x.launch s) (dedup ((lanesOf x.act).map f)) with
    | (none, s) => stall x .other s
    | (some none, s) => trapX x { code := 0x03 } (endAgent s a)
    | (some (some frames), s) =>
      let s := endAgent s a
      let win := fun t => (⟨w.base + shift, NMap.getD frames t 8⟩ : Win)
      let groups := targetGroups x f win ++ [restGroup x]
      let top := (frames.map (fun e => w.base + shift + e.2)).foldl max (topOf x.sk)
      match markedLane x u x.act false with
      | some l => trapX x { code := 0x20, lane := l } s
      | none =>
      if 256 ≤ x.sk.records.length ∨ 256 < entryCount x.sk + pushesOf x.sk groups true then trapX x { code := 0x07 } s
      else if 8 * (x.launch s).backing < top then trapX x { code := 0x06 } s
      else match requestTop x top s with
        | (false, s) => stall x .register s
        | (true, s) =>
          let r := fallThrough x.pa
          let rec' : FrameRec := { id := x.sk.nextRec, shift := shift, callerW := w.size, base := w.base + shift, call := x.act, arrived := 0 }
          let sk := { zeroAbove x.sk with lk := vmerge x.act x.sk.lk (fun _ => BitVec.ofNat 32 r), records := rec' :: x.sk.records, nextRec := x.sk.nextRec + 1 }
          commitControl x (transfer sk x.path groups true) s
/-- The shift leaves no register of the caller's window (R348); it rests on no register value. DEDUCED, log entry 35. DEDUCED, log entry 36. -/
def callEarly (shift : Nat) (x : Ctx) (_ : State) : Option TrapInfo :=
  if x.pa.win.size < shift + 8 then some { code := 0x03 } else none
/-- CALL (R348). DEDUCED, log entry 36. -/
def execCall (c : Ctl) (s8 : Nat) (tgt : Word) (s : State) : Out :=
  issue {} {} c (callEarly (8 * s8)) (fun x s => callTo x {} (8 * s8) (fun _ => target x.pa tgt) s) s
/-- CALLX (R348). DEDUCED, log entry 36. -/
def execCallx (c : Ctl) (s8 a : Nat) (s : State) : Out :=
  issue { lateMarks := true } (Instr.use (.callx c s8 a)) c (callEarly (8 * s8)) (fun x s =>
    callTo x (Instr.use (.callx c s8 a)) (8 * s8) (fun l => (vRead x a l).toNat) s) s
/-- RET (R349). DEDUCED, log entry 36. -/
def execRet (c : Ctl) (s : State) : Out :=
  issue {} {} c noEarly (fun x s =>
    let tops := dedup ((lanesOf x.act).map (topRecord x.sk))
    match tops with
    | [some r] =>
      let sk := { x.sk with records := mapIf (fun q => decide (q.id = r)) (fun q => { q with arrived := q.arrived ||| x.act }) x.sk.records }
      let sk := mapEntries (leaveExpected x.act (some r)) sk
      let sk := settle x.path settleFuel (transfer sk x.path [restGroup x] false)
      if 256 < entryCount sk then trapX x { code := 0x07 } s
      else if topOf sk < topOf x.sk ∧ pendAbove x.sk (topOf sk) then stall x .register s
      else commitControl x sk s
    | [none] => trapX x { code := 0x08 } s
    | _ => trapX x { code := 0x02 } s) s

/-- The lanes exit (R350): they leave every expected and call mask, in a trap frame too. -/
def exitLanes (sk : Skein) (m : LMask) : Skein :=
  let sk := mapEntries (leaveExpected m none) { sk with exited := sk.exited ||| m }
  let rec' := fun (r : FrameRec) => { r with call := without r.call m }
  { sk with records := sk.records.map rec'
            frame := sk.frame.map (fun f => { f with stack := f.stack.map (leaveExpected m none), records := f.records.map rec'
                                                     paths := f.paths.map (fun e => (e.1, { e.2 with own := e.2.own.map (leaveExpected m none) })) }) }
/-- The running lanes of the paths; in a handler, those of the path that the trap stopped with the trapping one too. -/
def allRunning (sk : Skein) : LMask :=
  let held := (sk.frame.map (fun f => f.paths.filter (fun e => decide (e.1 ≠ f.trapPath)))).getD []
  without (((sk.paths ++ held).map (fun e => e.2.mask)).foldl (· ||| ·) 0) sk.exited
/-- No lane of the skein would run after the lanes exit (R350). -/
def lastExit (x : Ctx) : Bool := decide (without (allRunning x.sk) x.act = 0)
/-- EXIT (R350): the groups of a record that completes may pass the limit of R340, and positions it releases wait as at RET (R349).
DEDUCED, log entry 36. -/
def execExit (c : Ctl) (s : State) : Out :=
  issue {} {} c noEarly (fun x s =>
    if lastExit x && x.sk.taskOpen then trapX x { code := 0x0A } s
    else match (if lastExit x then reportAt x (fun _ => true) true s else none) with
      | some s => s
      | none =>
        let sk := settle x.path settleFuel (transfer (exitLanes x.sk x.act) x.path [restGroup x] false)
        if 256 < entryCount sk then trapX x { code := 0x07 } s
        else if sk.exited ≠ allLanes ∧ topOf sk < topOf x.sk ∧ pendAbove x.sk (topOf sk) then stall x .register s
        else commitControl x sk s) s
/-- KILL (R351): every lane exits at once; an open task is to be discarded. -/
def execKill (c : Ctl) (s : State) : Out :=
  issue { guard := .coll } {} c noEarly (fun x s =>
    let sk := { x.sk with exited := allLanes, killed := true, copyFaults := [], discarding := x.sk.discarding || x.sk.taskOpen }
    commitControl x sk s) s
/-- YIELD (R352). -/
def execYield (c : Ctl) (s : State) : Out :=
  issue { guard := .any } {} c noEarly (fun x s => onPath x (fun pa => { pa with yielded := true }) (retire x s)) s
/-- SLEEP (R352). DESIGN CHOICE, log entry 6. -/
def execSleep (c : Ctl) (a : Src) (s : State) : Out :=
  issue { guard := .any } (Instr.use (.sleep c a)) c noEarly (fun x s =>
    let n := (srcWord x a (oneOf x)).toNat
    onPath x (fun pa => if n = 0 then { pa with yielded := true } else { pa with sleep := some ((coreOf s x.core).phase + 144 * n) }) (retire x s)) s
/-- SLEEP_EXPIRY: the count of a sleeping path has run out (R352). DESIGN CHOICE, log entry 6. -/
def execSleepExpiry (core slot path : Nat) (s : State) : Out :=
  event (fun s => updPath s core slot path (fun pa => match pa.sleep with
    | some t => if t ≤ (coreOf s core).phase then { pa with sleep := none } else pa
    | none => pa)) s
/-- TRAP (R353): the trap is taken after the instruction; the path resumes at the fall-through header. -/
def execTrap (c : Ctl) (code : BitVec 16) (s : State) : Out :=
  issue { guard := .any } {} c noEarly (fun x s =>
    trapAt x.core x.slot x.path x.pc 0 { code := 0x30, word3 := code.setWidth 64 } (retire x s)) s
/-- The payload that names a halted skein (R425). -/
def haltPayload (s : State) (core slot : Nat) (sk : Skein) (finfo : Nat) : List Nat :=
  [((boltOf s core sk.bolt).map Bolt.block).getD 0 * 2 ^ 32 + core * 2 ^ 24 + slot * 2 ^ 18, finfo]
/-- BRK (R353, R406): with DBGCFG[1] set the skein halts in place, else as TRAP. -/
def execBrk (c : Ctl) (code : BitVec 16) (s : State) : Out :=
  issue { guard := .any } {} c noEarly (fun x s =>
    let t : TrapInfo := { code := 0x31, word3 := code.setWidth 64 }
    let s := retire x s
    if s.dev.dbgcfg.getLsbD 1 then
      let f := faultInfoOf t x.sk.taskOpen 0 x.path x.pc
      let s := onSkein x (fun sk => { sk with run := .haltedBrk, faultInfo := f, trap := some t, detail := [0, BitVec.ofNat 64 sk.taskId, t.word3] }) s
      let g := gridOf s x.core x.sk.bolt
      eventRecord s 0x0A 1 (g.elim 0 Grid.queue) (g.elim 0 Grid.seq) (haltPayload s x.core x.slot x.sk f.toNat)
    else trapAt x.core x.slot x.path x.pc 0 t s) s
/-- RTE (R354, R403). -/
def execRte (c : Ctl) (s : State) : Out :=
  issue { guard := .coll } {} c noEarly (fun x s =>
    match x.sk.frame with
    | none => trapX x { code := 0x09 } s
    | some f =>
      if !singlePath x.sk then trapX x { code := 0x02 } s
      else
        let sk := rteSk x.sk f x.path s.nextId
        if topOf sk < topOf x.sk ∧ pendAbove x.sk (topOf sk) then stall x .register s
        else requestFills x.core x.slot (keepOrders x.core x.slot (resumeMatrix (setSkein { s with nextId := s.nextId + 1 } x.core x.slot sk) x.core x.slot))) s

end Sys2Proof.Machine
end

