-- ==== Sys2Proof/Machine/Integer.lean ====
section
/-! DEFINITION. Integer, address, bit-field and logic instructions, opcodes 0x10 to 0x33 (spec/11 R256 to R275). -/

namespace Sys2Proof.Machine

/-- An instruction of fixed latency that writes `w` registers of D from a function of the lane (R257). -/
def alu (i : Instr) (c : Ctl) (w : Nat) (d : VK) (f : Ctx → Nat → DWord) (s : State) : Out :=
  issue { activeMarks := Instr.isFloat i } (Instr.use i) c noEarly (fun x s => retire x (onSkein x (fun sk => putVK x sk w d (f x)) s)) s
/-- An instruction of fixed latency that writes predicate `p` (R257). -/
def aluP (i : Instr) (c : Ctl) (p : Nat) (f : Ctx → Nat → Bool) (s : State) : Out :=
  issue { activeMarks := Instr.isFloat i } (Instr.use i) c noEarly (fun x s => retire x (onSkein x (fun sk => putP x sk p (f x)) s)) s
/-- An instruction of special-function latency: its result is written when the operation completes (R36, R263). -/
def aluSlow (i : Instr) (c : Ctl) (w : Nat) (d : VK) (f : Ctx → Nat → DWord) (s : State) : Out :=
  issue { activeMarks := Instr.isFloat i } (Instr.use i) c noEarly (fun x s =>
    if !flagRoom x c then stall x .other s
    else retire x (beginOp x c { cls := .special, path := x.path, pend := pendOf x (Instr.use i), body := .result (delayed x w d (f x)) } s).2) s

/-- The result of a Table 2 row: Wrap, or Sat with `.sat` (R260). -/
def wrapOrSat (m : IMod) (x : Int) : DWord := intBits (if m.sat then satInt m.ty x else wrapInt m.ty x)

/-- ADD (R260). -/
def execAdd (c : Ctl) (d : VK) (a b : Src) (m : IMod) (s : State) : Out :=
  alu (.add c d a b m) c m.ty.regs d (fun x l => wrapOrSat m (srcInt x m.ty a l + srcInt x m.ty b l)) s
/-- SUB (R260). -/
def execSub (c : Ctl) (d : VK) (a b : Src) (m : IMod) (s : State) : Out :=
  alu (.sub c d a b m) c m.ty.regs d (fun x l => wrapOrSat m (srcInt x m.ty a l - srcInt x m.ty b l)) s
/-- MUL (R260). -/
def execMul (c : Ctl) (d : VK) (a b : Src) (m : IMod) (s : State) : Out :=
  alu (.mul c d a b m) c m.ty.regs d (fun x l => wrapOrSat m (srcInt x m.ty a l * srcInt x m.ty b l)) s
/-- MULH: the upper half of the exact product (R260). -/
def execMulh (c : Ctl) (d : VK) (a b : Src) (m : IMod) (s : State) : Out :=
  alu (.mulh c d a b m) c m.ty.regs d
    (fun x l => intBits (wrapInt m.ty (Int.fdiv (srcInt x m.ty a l * srcInt x m.ty b l) (2 ^ itWidth m.ty)))) s
/-- MAD (R260). -/
def execMad (c : Ctl) (d : VK) (a b : Src) (cc : VK) (m : IMod) (s : State) : Out :=
  alu (.mad c d a b cc m) c m.ty.regs d
    (fun x l => wrapOrSat m (srcInt x m.ty a l * srcInt x m.ty b l + vkInt x m.ty cc l)) s
/-- The 64-bit type of MADW's C and D (R262). -/
def wideOf (ty : IType) : IType := if itSigned ty then .i64 else .n64
/-- MADW (R262). -/
def execMadw (c : Ctl) (d : VK) (a b : Src) (cc : VK) (m : IMod) (s : State) : Out :=
  alu (.madw c d a b cc m) c 2 d
    (fun x l => wrapOrSat ⟨wideOf m.ty, m.sat⟩ (srcInt x m.ty a l * srcInt x m.ty b l + vkInt x (wideOf m.ty) cc l)) s
/-- MIN (R260). -/
def execMin (c : Ctl) (d : VK) (a b : Src) (m : IMod) (s : State) : Out :=
  alu (.min c d a b m) c m.ty.regs d (fun x l => intBits (min (srcInt x m.ty a l) (srcInt x m.ty b l))) s
/-- MAX (R260). -/
def execMax (c : Ctl) (d : VK) (a b : Src) (m : IMod) (s : State) : Out :=
  alu (.max c d a b m) c m.ty.regs d (fun x l => intBits (max (srcInt x m.ty a l) (srcInt x m.ty b l))) s
/-- ABS (R260). -/
def execAbs (c : Ctl) (d : VK) (a : Src) (m : IMod) (s : State) : Out :=
  alu (.abs c d a m) c m.ty.regs d (fun x l => wrapOrSat m (Int.ofNat (srcInt x m.ty a l).natAbs)) s
/-- NEG (R260). -/
def execNeg (c : Ctl) (d : VK) (a : Src) (m : IMod) (s : State) : Out :=
  alu (.neg c d a m) c m.ty.regs d (fun x l => wrapOrSat m (-(srcInt x m.ty a l))) s
/-- SAD (R260). -/
def execSad (c : Ctl) (d : VK) (a b : Src) (cc : VK) (m : IMod) (s : State) : Out :=
  alu (.sad c d a b cc m) c m.ty.regs d
    (fun x l => wrapOrSat m (Int.ofNat (srcInt x m.ty a l - srcInt x m.ty b l).natAbs + vkInt x m.ty cc l)) s

/-- The carry or borrow bit of a lane. -/
def carryIn (x : Ctx) (p l : Nat) : Nat := if (pget x.sk p).getLsbD l then 1 else 0
/-- ADDC (R261). In uniform form the carry in of the result is the lowest active lane's (DEDUCED, log entry 12). -/
def execAddc (c : Ctl) (d : VK) (a b : Src) (p : Nat) (ty : IType) (s : State) : Out :=
  issue {} (Instr.use (.addc c d a b p ty)) c noEarly (fun x s =>
    let sum := fun l => srcPat x ty a l + srcPat x ty b l + carryIn x p l
    retire x (onSkein x (fun sk =>
      putP x (putVK x sk ty.regs d (fun l => intBits (wrapInt ty (Int.ofNat (sum l))))) p
        (fun l => carryOut (itWidth ty) (srcPat x ty a l) (srcPat x ty b l) (carryIn x p l))) s)) s
/-- SUBC (R261). DEDUCED, log entry 12. -/
def execSubc (c : Ctl) (d : VK) (a b : Src) (p : Nat) (ty : IType) (s : State) : Out :=
  issue {} (Instr.use (.subc c d a b p ty)) c noEarly (fun x s =>
    let dif := fun l => Int.ofNat (srcPat x ty a l) - Int.ofNat (srcPat x ty b l) - Int.ofNat (carryIn x p l)
    retire x (onSkein x (fun sk =>
      putP x (putVK x sk ty.regs d (fun l => intBits (wrapInt ty (dif l)))) p
        (fun l => borrowOut (srcPat x ty a l) (srcPat x ty b l) (carryIn x p l))) s)) s

/-- The quotient of 11 Table 3 (R263). -/
def divInt (m : IMod) (a b : Int) : Int :=
  if b = 0 then (if itSigned m.ty ∧ a < 0 then itMin m.ty else itMax m.ty)
  else if itSigned m.ty ∧ a = itMin m.ty ∧ b = -1 then (if m.sat then itMax m.ty else itMin m.ty)
  else Int.tdiv a b
/-- The remainder of 11 Table 3 (R263). -/
def remInt (m : IMod) (a b : Int) : Int :=
  if b = 0 then a
  else if itSigned m.ty ∧ a = itMin m.ty ∧ b = -1 then 0
  else Int.tmod a b
/-- DIV (R263). -/
def execDiv (c : Ctl) (d : VK) (a b : Src) (m : IMod) (s : State) : Out :=
  aluSlow (.div c d a b m) c m.ty.regs d (fun x l => intBits (divInt m (srcInt x m.ty a l) (srcInt x m.ty b l))) s
/-- REM (R263). -/
def execRem (c : Ctl) (d : VK) (a b : Src) (m : IMod) (s : State) : Out :=
  aluSlow (.rem c d a b m) c m.ty.regs d (fun x l => intBits (remInt m (srcInt x m.ty a l) (srcInt x m.ty b l))) s

/-- An n-bit pattern read as T and extended (R53). -/
def patBits (ty : IType) (r : Nat) : DWord := intBits (readInt (itWidth ty) (itSigned ty) r)
/-- SHL's result (R264). A count beyond the width saturates as the largest representable count does. -/
def shlBits (m : IMod) (a : Int) (pat cnt : Nat) : DWord :=
  let n := itWidth m.ty
  if m.sat then intBits (satInt m.ty (a * 2 ^ min cnt (2 * n))) else if n ≤ cnt then 0 else patBits m.ty (pat * 2 ^ cnt % 2 ^ n)
/-- SHR's result (R264). -/
def shrBits (ty : IType) (pat cnt : Nat) : DWord := if itWidth ty ≤ cnt then 0 else patBits ty (pat / 2 ^ cnt)
/-- SAR's result (R264). -/
def sarBits (ty : IType) (pat cnt : Nat) : DWord :=
  let n := itWidth ty
  patBits ty ((Int.fdiv (readInt n true pat) (2 ^ min cnt n)) % (2 ^ n : Int)).toNat
/-- ROT's result (R264). -/
def rotBits (ty : IType) (pat cnt : Nat) : DWord :=
  let n := itWidth ty
  let k := cnt % n
  patBits ty ((pat * 2 ^ k ||| pat / 2 ^ (n - k)) % 2 ^ n)
/-- SHL (R264). -/
def execShl (c : Ctl) (d : VK) (a b : Src) (m : IMod) (s : State) : Out :=
  alu (.shl c d a b m) c m.ty.regs d (fun x l => shlBits m (srcInt x m.ty a l) (srcPat x m.ty a l) (srcWord x b l).toNat) s
/-- SHR (R264). -/
def execShr (c : Ctl) (d : VK) (a b : Src) (m : IMod) (s : State) : Out :=
  alu (.shr c d a b m) c m.ty.regs d (fun x l => shrBits m.ty (srcPat x m.ty a l) (srcWord x b l).toNat) s
/-- SAR (R264). -/
def execSar (c : Ctl) (d : VK) (a b : Src) (m : IMod) (s : State) : Out :=
  alu (.sar c d a b m) c m.ty.regs d (fun x l => sarBits m.ty (srcPat x m.ty a l) (srcWord x b l).toNat) s
/-- ROT (R264). -/
def execRot (c : Ctl) (d : VK) (a b : Src) (m : IMod) (s : State) : Out :=
  alu (.rot c d a b m) c m.ty.regs d (fun x l => rotBits m.ty (srcPat x m.ty a l) (srcWord x b l).toNat) s

/-- Number of one bits among the low `n`. -/
def popCount (n w : Nat) : Nat := ((List.range n).filter (fun i => bitAt w i)).length
/-- Number of leading zeros of an n-bit pattern. -/
def leadingZeros (n w : Nat) : Nat := if w % 2 ^ n = 0 then n else n - 1 - Nat.log2 (w % 2 ^ n)
/-- The n-bit pattern with bit i moved to bit n−1−i. -/
def reverseBits (n w : Nat) : Nat := (List.range n).foldl (fun r i => r + (if bitAt w i then 2 ^ (n - 1 - i) else 0)) 0
/-- CLZ (R265). -/
def execClz (c : Ctl) (d : VK) (a : Src) (m : IMod) (s : State) : Out :=
  alu (.clz c d a m) c m.ty.regs d (fun x l => BitVec.ofNat 64 (leadingZeros (itWidth m.ty) (srcPat x m.ty a l))) s
/-- POPC (R265). -/
def execPopc (c : Ctl) (d : VK) (a : Src) (m : IMod) (s : State) : Out :=
  alu (.popc c d a m) c m.ty.regs d (fun x l => BitVec.ofNat 64 (popCount (itWidth m.ty) (srcPat x m.ty a l))) s
/-- BREV (R265). -/
def execBrev (c : Ctl) (d : VK) (a : Src) (m : IMod) (s : State) : Out :=
  alu (.brev c d a m) c m.ty.regs d (fun x l => patBits m.ty (reverseBits (itWidth m.ty) (srcPat x m.ty a l))) s

/-- CMP (R266). -/
def execCmp (c : Ctl) (p : Nat) (a b : Src) (cc : ICond) (m : IMod) (s : State) : Out :=
  aluP (.cmp c p a b cc m) c p (fun x l => intCond cc (srcInt x m.ty a l) (srcInt x m.ty b l)) s
/-- SEL (R267). DEDUCED, log entry 12. -/
def execSel (c : Ctl) (d : VK) (a b : Src) (p : Nat) (ty : IType) (s : State) : Out :=
  alu (.sel c d a b p ty) c ty.regs d (fun x l => if (pget x.sk p).getLsbD l then srcBits x ty a l else srcBits x ty b l) s
/-- The type of a `.n32` or `.n64` operand. -/
def plainType (wide : Bool) : IType := if wide then .n64 else .n32
/-- MOV (R268). -/
def execMov (c : Ctl) (d : VK) (a : Src) (wide : Bool) (s : State) : Out :=
  alu (.mov c d a wide) c (wideRegs wide) d (fun x l => srcBits x (plainType wide) a l) s
/-- MOVK (R269). -/
def execMovk (c : Ctl) (d a : Nat) (b : Src) (s : State) : Out :=
  alu (.movk c d a b) c 1 (.k d) (fun x l => (vRead x a ((srcWord x b l).toNat % 128)).setWidth 64) s
/-- LEA (R270). -/
def execLea (c : Ctl) (d : VK) (a b : Src) (signed : Bool) (sh : Nat) (s : State) : Out :=
  alu (.lea c d a b signed sh) c 2 d (fun x l =>
    srcPair x false a l + ((if signed then (srcWord x b l).signExtend 64 else (srcWord x b l).setWidth 64) <<< sh)) s
/-- The first block index of the bolt's die (R379). -/
def firstBlock (s : State) (x : Ctx) : Nat := ((x.launch s).ranges.getD x.die (0, 0)).1
/-- The block index of the skein's bolt. -/
def blockOf (s : State) (x : Ctx) : Nat := ((boltOf s x.core x.sk.bolt).map Bolt.block).getD 0
/-- The index of IDX (R271). -/
def idxValue (s : State) (x : Ctx) (what : IdxWhat) (l : Nat) : Nat :=
  match what with
  | .lane => l
  | .bolt => 128 * x.sk.index + l
  | .sub => blockOf s x - firstBlock s x
  | .grid => blockOf s x
/-- IDX (R271); in uniform form `.lane` and `.bolt` give the lowest active lane. DEDUCED, log entry 12. -/
def execIdx (c : Ctl) (d : VK) (a : Src) (what : IdxWhat) (s : State) : Out :=
  alu (.idx c d a what) c 1 d (fun x l => (BitVec.ofNat 32 (idxValue s x what l) + srcWord x a l).setWidth 64) s

/-- AND (R272). -/
def execAnd (c : Ctl) (d : VK) (a b : Src) (wide : Bool) (s : State) : Out :=
  alu (.and c d a b wide) c (wideRegs wide) d (fun x l => srcBits x (plainType wide) a l &&& srcBits x (plainType wide) b l) s
/-- OR (R272). -/
def execOr (c : Ctl) (d : VK) (a b : Src) (wide : Bool) (s : State) : Out :=
  alu (.or c d a b wide) c (wideRegs wide) d (fun x l => srcBits x (plainType wide) a l ||| srcBits x (plainType wide) b l) s
/-- XOR (R272). -/
def execXor (c : Ctl) (d : VK) (a b : Src) (wide : Bool) (s : State) : Out :=
  alu (.xor c d a b wide) c (wideRegs wide) d (fun x l => srcBits x (plainType wide) a l ^^^ srcBits x (plainType wide) b l) s
/-- NOT (R272). -/
def execNot (c : Ctl) (d : VK) (a : Src) (wide : Bool) (s : State) : Out :=
  alu (.not c d a wide) c (wideRegs wide) d (fun x l => ~~~srcBits x (plainType wide) a l) s
/-- Bit i of TLUT's result is T[A[i] + 2B[i] + 4C[i]] (R273). -/
def tlutWord (t : BitVec 8) (a b c : Word) : Word :=
  (List.range 8).foldl (fun r j =>
    if t.getLsbD j then
      r ||| ((if bitAt j 0 then a else ~~~a) &&& (if bitAt j 1 then b else ~~~b) &&& (if bitAt j 2 then c else ~~~c))
    else r) 0
/-- TLUT (R273). -/
def execTlut (c : Ctl) (d : VK) (a b : Src) (cc : VK) (tbl : BitVec 8) (s : State) : Out :=
  alu (.tlut c d a b cc tbl) c 1 d (fun x l => (tlutWord tbl (srcWord x a l) (srcWord x b l) (vkWord x cc l)).setWidth 64) s
/-- BFX's field (R274): bits p+q−1 to p of A extended beyond n by its sign under T. -/
def bfxBits (ty : IType) (a : Int) (ctl : Word) : DWord :=
  let n := itWidth ty
  let p := ctl.toNat % 256
  let q := min (ctl.toNat / 256 % 256) n
  if q = 0 then 0 else
  let f := ((Int.fdiv a (2 ^ p)) % (2 ^ q : Int)).toNat
  patBits ty ((readInt q (itSigned ty) f) % (2 ^ n : Int)).toNat
/-- BFX (R274). -/
def execBfx (c : Ctl) (d : VK) (a b : Src) (ty : IType) (s : State) : Out :=
  alu (.bfx c d a b ty) c ty.regs d (fun x l => bfxBits ty (srcInt x ty a l) (srcWord x b l)) s
/-- BFI's result (R274). -/
def bfiBits (ty : IType) (a b : Nat) (ctl : Word) : DWord :=
  let n := itWidth ty
  let p := ctl.toNat % 256
  let q := min (min (ctl.toNat / 256 % 256) n) (n - p)
  let m := (2 ^ q - 1) * 2 ^ p
  BitVec.ofNat 64 (a - (a &&& m) + (b * 2 ^ p &&& m))
/-- BFI (R274). -/
def execBfi (c : Ctl) (d : VK) (a b : Src) (cc : VK) (ty : IType) (s : State) : Out :=
  alu (.bfi c d a b cc ty) c ty.regs d (fun x l => bfiBits ty (srcPat x ty a l) (srcPat x ty b l) (vkWord x cc l)) s
/-- BPICK's result (R275). -/
def bpickWord (a b c : Word) : Word :=
  let src := a.toNat + b.toNat * 2 ^ 32
  BitVec.ofNat 32 ((List.range 4).foldl (fun r i =>
    let byte := field src (8 * field c.toNat (3 * i) 3) 8
    let v := if c.getLsbD (12 + i) then 0 else if c.getLsbD (16 + i) then (if 128 ≤ byte then 255 else 0) else byte
    r + v * 2 ^ (8 * i)) 0)
/-- BPICK (R275). -/
def execBpick (c : Ctl) (d : VK) (a b : Src) (cc : VK) (s : State) : Out :=
  alu (.bpick c d a b cc) c 1 d (fun x l => (bpickWord (srcWord x a l) (srcWord x b l) (vkWord x cc l)).setWidth 64) s

/-- A special-function or division result is written, and its operation completes (R36, R263). DEDUCED, log entry 15. -/
def execSpecialFunctionResult (core slot op : Nat) (s : State) : Out :=
  event (fun s => match opOf s core slot op with
    | some o => match o.body with
      | .result ws => updSkein s core slot (fun sk => finishOpSk (ws.foldl applyWrite sk) op)
      | _ => s
    | none => s) s

end Sys2Proof.Machine
end

