-- ==== Sys2Proof/Machine/Float.lean ====
section
/-! DEFINITION. Floating-point arithmetic, comparison, classification, rounding and scaling, opcodes 0x3C to 0x53 (spec/12 R285
to R298). -/

namespace Sys2Proof.Machine

/-- Format of an H opcode (R291). -/
def hFmt (m : FMod) : FF := if m.m5 then .bf16 else .f16

/-! One element: codes in, code out. The operands come after R289, `m.rm` is the direction. -/

/-- ADD of R292. -/
def fpAdd (f : FF) (m : FMod) (a b : Nat) : Nat := roundFF f m.rm (fAdd (m.rm == .rm) (ffDecode f a) (ffDecode f b))
/-- MUL of R292. -/
def fpMul (f : FF) (m : FMod) (a b : Nat) : Nat := roundFF f m.rm (fMul (ffDecode f a) (ffDecode f b))
/-- FMA of R292. -/
def fpFma (f : FF) (m : FMod) (a b c : Nat) : Nat :=
  roundFF f m.rm (fAdd (m.rm == .rm) (fMul (ffDecode f a) (ffDecode f b)) (ffDecode f c))
/-- The lesser or the greater (R294). -/
def fpMnx (f : FF) (isMax : Bool) (a b : Nat) : Nat :=
  let va := ffDecode f a
  let vb := ffDecode f b
  if va = .nan ∨ vb = .nan then ffNan f
  else
    let less := fLt va vb || (!fLt vb va && decide (ffSign f ≤ a))
    if less != isMax then a else b
/-- A comparison (R295). -/
def fpCmp (f : FF) (cc : FCond) (a b : Nat) : Bool :=
  let va := ffDecode f a
  let vb := ffDecode f b
  let bad := decide (va = .nan) || decide (vb = .nan)
  match cc with
  | .eq => !bad && !fLt va vb && !fLt vb va
  | .ne => bad || fLt va vb || fLt vb va
  | .lt => fLt va vb
  | .le => !bad && !fLt vb va
  | .gt => fLt vb va
  | .ge => !bad && !fLt va vb
  | .nan => bad
  | .num => !bad
/-- The class of a code, by the numbers of 12 Table 2 (R296). -/
def fpClass (f : FF) (c : Nat) : Nat :=
  let neg := decide (ffSign f ≤ c)
  let e := c % ffSign f / 2 ^ ffT f
  let t := c % 2 ^ ffT f
  if e = 2 ^ ffE f - 1 then (if t = 0 then (if neg then 0 else 7) else if bitAt t (ffT f - 1) then 9 else 8)
  else if e = 0 then (if t = 0 then (if neg then 3 else 4) else if neg then 2 else 5)
  else if neg then 1 else 6
/-- Round to integral (R297). -/
def fpRnd (f : FF) (m : FMod) (a : Nat) : Nat := roundFF f m.rm (roundIntegral m.rm (ffDecode f a))
/-- Scale by 2^s (R298). -/
def fpScl (f : FF) (m : FMod) (a : Nat) (k : Int) : Nat := roundFF f m.rm (fScale k (ffDecode f a))

/-! Operands after R289: in the FMA opcodes bit 4 negates C, elsewhere it takes absolute values. -/

/-- Operand A of a value in format `f`. -/
def opA (f : FF) (m : FMod) (fma : Bool) (c : Nat) : Nat := signMods f (m.m4 && !fma) m.negA c
/-- Operand B. -/
def opB (f : FF) (m : FMod) (fma : Bool) (c : Nat) : Nat := signMods f (m.m4 && !fma) m.negB c
/-- Operand C of an FMA. -/
def opC (f : FF) (m : FMod) (c : Nat) : Nat := signMods f false m.m4 c
/-- The signed exponent of FSCL. -/
def expOf (x : Ctx) (b : Src) (l : Nat) : Int := (srcWord x b l).toInt
/-- Apply an element operation to both halves of a packed register (R285). -/
def packed (g : Nat → Nat) : DWord := BitVec.ofNat 64 (g 0 + g 1 * 2 ^ 16)
/-- Element `j` of a packed source. -/
def halfOf (x : Ctx) (o : Src) (l j : Nat) : Nat := field (srcWord x o l).toNat (16 * j) 16
def vkHalf (x : Ctx) (o : VK) (l j : Nat) : Nat := field (vkWord x o l).toNat (16 * j) 16

/-- FADD (R292). -/
def execFadd (c : Ctl) (d : VK) (a b : Src) (m : FMod) (s : State) : Out :=
  alu (.fadd c d a b m) c 1 d (fun x l =>
    BitVec.ofNat 64 (satCode .f32 m.m5 (fpAdd .f32 m (opA .f32 m false (srcF x .f32 a l)) (opB .f32 m false (srcF x .f32 b l))))) s
/-- FMUL (R292). -/
def execFmul (c : Ctl) (d : VK) (a b : Src) (m : FMod) (s : State) : Out :=
  alu (.fmul c d a b m) c 1 d (fun x l =>
    BitVec.ofNat 64 (satCode .f32 m.m5 (fpMul .f32 m (opA .f32 m false (srcF x .f32 a l)) (opB .f32 m false (srcF x .f32 b l))))) s
/-- FFMA (R292). -/
def execFfma (c : Ctl) (d : VK) (a b : Src) (cc : VK) (m : FMod) (s : State) : Out :=
  alu (.ffma c d a b cc m) c 1 d (fun x l =>
    BitVec.ofNat 64 (satCode .f32 m.m5 (fpFma .f32 m (opA .f32 m true (srcF x .f32 a l)) (opB .f32 m true (srcF x .f32 b l)) (opC .f32 m (vkF x .f32 cc l))))) s
/-- FMNX (R294). -/
def execFmnx (c : Ctl) (d : VK) (a b : Src) (isMax : Bool) (m : FMod) (s : State) : Out :=
  alu (.fmnx c d a b isMax m) c 1 d (fun x l =>
    BitVec.ofNat 64 (satCode .f32 m.m5 (fpMnx .f32 isMax (opA .f32 m false (srcF x .f32 a l)) (opB .f32 m false (srcF x .f32 b l))))) s
/-- FCMP (R295). -/
def execFcmp (c : Ctl) (p : Nat) (a b : Src) (cc : FCond) (m : FMod) (s : State) : Out :=
  aluP (.fcmp c p a b cc m) c p (fun x l => fpCmp .f32 cc (opA .f32 m false (srcF x .f32 a l)) (opB .f32 m false (srcF x .f32 b l))) s
/-- FCLS (R296). -/
def execFcls (c : Ctl) (p : Nat) (a b : Src) (m : FMod) (s : State) : Out :=
  aluP (.fcls c p a b m) c p (fun x l => bitAt ((srcWord x b l).toNat % 1024) (fpClass .f32 (opA .f32 m false (srcF x .f32 a l)))) s
/-- FRND (R297). -/
def execFrnd (c : Ctl) (d : VK) (a : Src) (m : FMod) (s : State) : Out :=
  alu (.frnd c d a m) c 1 d (fun x l => BitVec.ofNat 64 (satCode .f32 m.m5 (fpRnd .f32 m (opA .f32 m false (srcF x .f32 a l))))) s
/-- FSCL (R298). -/
def execFscl (c : Ctl) (d : VK) (a b : Src) (m : FMod) (s : State) : Out :=
  alu (.fscl c d a b m) c 1 d (fun x l =>
    BitVec.ofNat 64 (satCode .f32 m.m5 (fpScl .f32 m (opA .f32 m false (srcF x .f32 a l)) (expOf x b l)))) s
/-- DADD (R292). -/
def execDadd (c : Ctl) (d : VK) (a b : Src) (m : FMod) (s : State) : Out :=
  alu (.dadd c d a b m) c 2 d (fun x l =>
    BitVec.ofNat 64 (satCode .f64 m.m5 (fpAdd .f64 m (opA .f64 m false (srcF x .f64 a l)) (opB .f64 m false (srcF x .f64 b l))))) s
/-- DMUL (R292). -/
def execDmul (c : Ctl) (d : VK) (a b : Src) (m : FMod) (s : State) : Out :=
  alu (.dmul c d a b m) c 2 d (fun x l =>
    BitVec.ofNat 64 (satCode .f64 m.m5 (fpMul .f64 m (opA .f64 m false (srcF x .f64 a l)) (opB .f64 m false (srcF x .f64 b l))))) s
/-- DFMA (R292). -/
def execDfma (c : Ctl) (d : VK) (a b : Src) (cc : VK) (m : FMod) (s : State) : Out :=
  alu (.dfma c d a b cc m) c 2 d (fun x l =>
    BitVec.ofNat 64 (satCode .f64 m.m5 (fpFma .f64 m (opA .f64 m true (srcF x .f64 a l)) (opB .f64 m true (srcF x .f64 b l)) (opC .f64 m (vkF x .f64 cc l))))) s
/-- DMNX (R294). -/
def execDmnx (c : Ctl) (d : VK) (a b : Src) (isMax : Bool) (m : FMod) (s : State) : Out :=
  alu (.dmnx c d a b isMax m) c 2 d (fun x l =>
    BitVec.ofNat 64 (satCode .f64 m.m5 (fpMnx .f64 isMax (opA .f64 m false (srcF x .f64 a l)) (opB .f64 m false (srcF x .f64 b l))))) s
/-- DCMP (R295). -/
def execDcmp (c : Ctl) (p : Nat) (a b : Src) (cc : FCond) (m : FMod) (s : State) : Out :=
  aluP (.dcmp c p a b cc m) c p (fun x l => fpCmp .f64 cc (opA .f64 m false (srcF x .f64 a l)) (opB .f64 m false (srcF x .f64 b l))) s
/-- DCLS (R296). -/
def execDcls (c : Ctl) (p : Nat) (a b : Src) (m : FMod) (s : State) : Out :=
  aluP (.dcls c p a b m) c p (fun x l => bitAt ((srcWord x b l).toNat % 1024) (fpClass .f64 (opA .f64 m false (srcF x .f64 a l)))) s
/-- DRND (R297). -/
def execDrnd (c : Ctl) (d : VK) (a : Src) (m : FMod) (s : State) : Out :=
  alu (.drnd c d a m) c 2 d (fun x l => BitVec.ofNat 64 (satCode .f64 m.m5 (fpRnd .f64 m (opA .f64 m false (srcF x .f64 a l))))) s
/-- DSCL (R298). -/
def execDscl (c : Ctl) (d : VK) (a b : Src) (m : FMod) (s : State) : Out :=
  alu (.dscl c d a b m) c 2 d (fun x l =>
    BitVec.ofNat 64 (satCode .f64 m.m5 (fpScl .f64 m (opA .f64 m false (srcF x .f64 a l)) (expOf x b l)))) s
/-- HADD (R292). -/
def execHadd (c : Ctl) (d : VK) (a b : Src) (m : FMod) (s : State) : Out :=
  alu (.hadd c d a b m) c 1 d (fun x l => packed (fun j =>
    fpAdd (hFmt m) m (opA (hFmt m) m false (halfOf x a l j)) (opB (hFmt m) m false (halfOf x b l j)))) s
/-- HMUL (R292). -/
def execHmul (c : Ctl) (d : VK) (a b : Src) (m : FMod) (s : State) : Out :=
  alu (.hmul c d a b m) c 1 d (fun x l => packed (fun j =>
    fpMul (hFmt m) m (opA (hFmt m) m false (halfOf x a l j)) (opB (hFmt m) m false (halfOf x b l j)))) s
/-- HFMA (R292). -/
def execHfma (c : Ctl) (d : VK) (a b : Src) (cc : VK) (m : FMod) (s : State) : Out :=
  alu (.hfma c d a b cc m) c 1 d (fun x l => packed (fun j =>
    fpFma (hFmt m) m (opA (hFmt m) m true (halfOf x a l j)) (opB (hFmt m) m true (halfOf x b l j)) (opC (hFmt m) m (vkHalf x cc l j)))) s
/-- HMNX (R294). -/
def execHmnx (c : Ctl) (d : VK) (a b : Src) (isMax : Bool) (m : FMod) (s : State) : Out :=
  alu (.hmnx c d a b isMax m) c 1 d (fun x l => packed (fun j =>
    fpMnx (hFmt m) isMax (opA (hFmt m) m false (halfOf x a l j)) (opB (hFmt m) m false (halfOf x b l j)))) s
/-- Write a predicate per element: element 0 to `p`, element 1 to `p + 1` (R295). -/
def aluP2 (i : Instr) (c : Ctl) (p : Nat) (f : Ctx → Nat → Nat → Bool) (s : State) : Out :=
  issue { activeMarks := true } (Instr.use i) c noEarly (fun x s => retire x (onSkein x (fun sk => putP x (putP x sk p (fun l => f x l 0)) (p + 1) (fun l => f x l 1)) s)) s
/-- HCMP (R295). -/
def execHcmp (c : Ctl) (p : Nat) (a b : Src) (cc : FCond) (m : FMod) (s : State) : Out :=
  aluP2 (.hcmp c p a b cc m) c p (fun x l j => fpCmp (hFmt m) cc (opA (hFmt m) m false (halfOf x a l j)) (opB (hFmt m) m false (halfOf x b l j))) s
/-- HCLS (R296). -/
def execHcls (c : Ctl) (p : Nat) (a b : Src) (m : FMod) (s : State) : Out :=
  aluP2 (.hcls c p a b m) c p (fun x l j => bitAt ((srcWord x b l).toNat % 1024) (fpClass (hFmt m) (opA (hFmt m) m false (halfOf x a l j)))) s
/-- HRND (R297). -/
def execHrnd (c : Ctl) (d : VK) (a : Src) (m : FMod) (s : State) : Out :=
  alu (.hrnd c d a m) c 1 d (fun x l => packed (fun j => fpRnd (hFmt m) m (opA (hFmt m) m false (halfOf x a l j)))) s
/-- HSCL (R298). -/
def execHscl (c : Ctl) (d : VK) (a b : Src) (m : FMod) (s : State) : Out :=
  alu (.hscl c d a b m) c 1 d (fun x l => packed (fun j => fpScl (hFmt m) m (opA (hFmt m) m false (halfOf x a l j)) (expOf x b l))) s

end Sys2Proof.Machine
end

