-- ==== Sys2Proof/Machine/Convert.lean ====
section
/-! DEFINITION. Conversions, opcodes 0x54 to 0x5B (spec/12 R299 to R307). -/

namespace Sys2Proof.Machine

/-- CVT (R300). -/
def execCvt (c : Ctl) (d : VK) (a : Src) (r : RMode) (dst src : FF) (s : State) : Out :=
  alu (.cvt c d a r dst src) c dst.regs d (fun x l => BitVec.ofNat 64 (roundFF dst r (ffDecode src (srcF x src a l)))) s

/-- The slot-format condition of CVTN and CVTW: the slot is narrow, and position P exists in its register (R303, R304). DEDUCED, log entry 70. -/
def slotEarly (fs pos : Nat) (x : Ctx) (s : State) : Option TrapInfo :=
  match (launchSlot (x.launch s) fs).1 with
  | .narrow n => if n.k * (pos + 1) ≤ 32 then none else some { code := 0x12 }
  | _ => some { code := 0x12 }
/-- The word with `w` bits from bit `lo` replaced. -/
def insertBits (old : Word) (lo w v : Nat) : Word :=
  BitVec.ofNat 32 (old.toNat - field old.toNat lo w * 2 ^ lo + v % 2 ^ w * 2 ^ lo)
/-- CVTN (R303). DEDUCED, log entry 70. -/
def execCvtn (c : Ctl) (d : VK) (a : Src) (src : FF) (sat : Bool) (fs pos : Nat) (s : State) : Out :=
  issue { activeMarks := true } (Instr.use (.cvtn c d a src sat fs pos)) c (slotEarly fs pos) (fun x s =>
    match launchSlot (x.launch s) fs with
    | (.narrow n, e) => retire x (onSkein x (fun sk => putWord x sk d (fun l =>
        insertBits (vkWord x d l) (n.k * pos) n.k (roundNarrow n sat (fScale (-e) (ffDecode src (srcF x src a l)))))) s)
    | _ => s) s
/-- CVTW (R304). DEDUCED, log entry 70. -/
def execCvtw (c : Ctl) (d : VK) (a : Src) (dst : FF) (fs pos : Nat) (s : State) : Out :=
  issue { activeMarks := true } (Instr.use (.cvtw c d a dst fs pos)) c (slotEarly fs pos) (fun x s =>
    match launchSlot (x.launch s) fs with
    | (.narrow n, e) => retire x (onSkein x (fun sk => putVK x sk dst.regs d (fun l =>
        BitVec.ofNat 64 (roundFF dst .rne (fScale e (narrowDecode n (field (srcWord x a l).toNat (n.k * pos) n.k)))))) s)
    | _ => s) s

/-- Format of PACK and UNPK (R301, R302). -/
def halfFmt (bf : Bool) : FF := if bf then .bf16 else .f16
/-- PACK (R301). -/
def execPack (c : Ctl) (d : VK) (a b : Src) (r : RMode) (sat bf : Bool) (s : State) : Out :=
  alu (.pack c d a b r sat bf) c 1 d (fun x l => packed (fun j =>
    satCode (halfFmt bf) sat (roundFF (halfFmt bf) r (ffDecode .f32 (srcF x .f32 (if j = 0 then a else b) l))))) s
/-- UNPK (R302). -/
def execUnpk (c : Ctl) (d : VK) (a : Src) (bf : Bool) (s : State) : Out :=
  alu (.unpk c d a bf) c 2 d (fun x l =>
    let up := fun j => roundFF .f32 .rne (ffDecode (halfFmt bf) (halfOf x a l j))
    BitVec.ofNat 64 (up 0 + up 1 * 2 ^ 32)) s

/-- The integer type of a width and a signedness. -/
def widType (w : IWid) (signed : Bool) : IType :=
  match w, signed with
  | .w8, false => .n8 | .w16, false => .n16 | .w32, false => .n32 | .w64, false => .n64
  | .w8, true => .i8 | .w16, true => .i16 | .w32, true => .i32 | .w64, true => .i64
/-- CVTI (R305). -/
def execCvti (c : Ctl) (d : VK) (a : Src) (r : RMode) (src : FF) (dst : IWid) (signed : Bool) (s : State) : Out :=
  alu (.cvti c d a r src dst signed) c dst.regs d
    (fun x l => intBits (convInt r (widType dst signed) (ffDecode src (srcF x src a l)))) s
/-- CVTF (R306). -/
def execCvtf (c : Ctl) (d : VK) (a : Src) (r : RMode) (dst : FF) (src : IWid) (signed : Bool) (s : State) : Out :=
  alu (.cvtf c d a r dst src signed) c dst.regs d
    (fun x l => BitVec.ofNat 64 (roundFF dst r (fOfInt (srcInt x (widType src signed) a l)))) s
/-- CVTS (R307). -/
def execCvts (c : Ctl) (d : VK) (a : Src) (dst src : IType) (sat : Bool) (s : State) : Out :=
  alu (.cvts c d a dst src sat) c dst.regs d (fun x l => wrapOrSat ⟨dst, sat⟩ (srcInt x src a l)) s

end Sys2Proof.Machine
end

