-- ==== Sys2Proof/Machine/Turns.lean ====
section
/-! DEFINITION. The dispatchers' turns: the choice of a bolt, admission and restore, and thermal migration (spec/16 R376, R386 to
R390, R396, 17 R417). -/

namespace Sys2Proof.Machine

/-- The bolt a dispatcher takes: a saved one, or an undispatched block; with its grid and core. -/
inductive Pick
  | saved (grid : Nat) (v : SavedBolt) (core : Nat)
  | fresh (grid block core : Nat)
  deriving DecidableEq, Repr, Inhabited

/-- The word of a block-wise entry matches (R376); nothing while it is being read. -/
def blockReady (s : State) (die gn : Nat) (g : Grid) (block : Nat) : Option Bool × State :=
  match g.blockwise with
  | none => (some true, s)
  | some (ctx, array, q, seq) => match virtPeek s (.dispatcher die gn) none die frontOwner ctx (array + 8 * block) 8 3 with
    | (some (.ok bs), s) => (some (decide (leNat bs = q * 2 ^ 48 + seq)), s)
    | (some (.error _), s) => (some false, s)
    | (none, s) => (none, s)
/-- The first block of a list that may be dispatched, if the words of those before it have been read and do not match. Words that have
been looked at are read again for the next look. -/
def readyBlock (die gn : Nat) (g : Grid) : List Nat → State → Option Nat × State
  | [], s => (none, endAgent s (.dispatcher die gn))
  | b :: r, s => match blockReady s die gn g b with
    | (some true, s) => (some b, endAgent s (.dispatcher die gn))
    | (some false, s) => readyBlock die gn g r s
    | (none, s) => (none, s)
/-- The core for a bolt among those of a list that admit it: the fewest resident skeins, then the lowest number (R388). -/
def chooseCore (s : State) (gn : Nat) (g : Grid) (gran : Nat) (cores : List Nat) : Option Nat :=
  leastBy (fun c => 256 * residentSkeins (coreOf s c) + c) (cores.filter (admissible s gn g gran))
/-- The cores of a die. -/
def dieCores (die : Nat) : List Nat := (List.range 48).map (48 * die + ·)
/-- A saved bolt of the grid that some core of the die admits, in order of save. -/
def pickSaved (s : State) (die gn : Nat) (g : Grid) : Option Pick :=
  (g.saved.filter (fun e => e.2.1 = die)).findSome? (fun e =>
    (s.savedBolts.find? (fun v => decide (v.grid = gn) && decide (v.block = e.1) && v.into.isNone)).bind (fun v =>
      (chooseCore s gn g (restoreGranules g.launch v.skeins) (e.2.2.elim (dieCores die) (fun c => [c]))).map (Pick.saved gn v)))
/-- The grids that the turn's owner may dispatch on a die, in candidate order (R100, R384, R388). -/
def turnGrids (s : State) (die owner : Nat) : List (Nat × Grid) :=
  sortBy (fun e => (127 - e.2.prio) * 2 ^ 64 + e.2.started) (s.grids.filter (fun e => decide (e.2.part = owner) && !e.2.done && !e.2.stopped &&
    (match e.2.plan with | none => true | some (pl, _) => (planOf s pl).any Plan.live) &&
    (!e.2.launch.weight || decide (e.1 ∈ (NMap.getD s.dies die {}).gateReaders))))
/-- The first candidate that is admissible on some core of the die. -/
def pickBolt (die : Nat) : List (Nat × Grid) → State → Option Pick × State
  | [], s => (none, s)
  | (gn, g) :: r, s => match pickSaved s die gn g with
    | some p => (some p, s)
    | none => match chooseCore s gn g (newGranules g.launch) (dieCores die) with
      | none => pickBolt die r s
      | some c => match readyBlock die gn g (NMap.getD g.todo die []) s with
        | (some b, s) => (some (.fresh gn b c), s)
        | (none, s) => pickBolt die r s
/-- Admit or restore the bolt. -/
def place (s : State) : Pick → State
  | .saved gn v core => match NMap.get? s.grids gn with
    | some g => restoreBolt s gn g v core
    | none => s
  | .fresh gn b core => match NMap.get? s.grids gn with
    | some g => admitBolt s gn g b core
    | none => s
/-- Serve a die's turn: at most one bolt in 8 reference clocks (R386, R390). `want` limits what the event may do. -/
def serveTurn (die : Nat) (want : Pick → Bool) (s : State) : State :=
  if !devReady s then s else
  let s := actWaiting (endMigration (joinShares s die) die)
  if (NMap.getD s.dies die {}).lastTurn = some (s.clock / 8) then s else
  match pickBolt die (turnGrids s die (turnOwner s)) s with
  | (some p, s) =>
    if want p then
      let s := place s p
      endMigration { s with dies := NMap.insert s.dies die { NMap.getD s.dies die {} with lastTurn := some (s.clock / 8) } } die
    else s
  | (none, s) => s
/-- DISPATCH_TURN (R390). -/
def execDispatchTurn (die : Nat) (s : State) : Out := event (serveTurn die (fun _ => true)) s
/-- CONTEXT_RESTORE (R417): the restores of the grid's bolts on the die go on, and one is admitted if it is its turn. -/
def execContextRestore (die grid : Nat) (s : State) : Out :=
  event (fun s =>
    let s := (s.savedBolts.filter (fun v => decide (v.grid = grid) && decide (v.into.map (fun c => dieOf c.1) = some die))).foldl continueRestore s
    serveTurn die (fun p => match p with | .saved gn _ _ => decide (gn = grid) | .fresh _ _ _ => false) s) s

/-! Thermal migration (R396). -/

/-- The residency a bolt must have before it migrates: its plan's, or that of MIGCFG. -/
def migResidency (s : State) (b : Bolt) : Nat :=
  match ((NMap.get? s.grids b.grid).bind Grid.plan).bind (fun p => planOf s p.1) with
  | some p => (p.residency + 1) * halfMs
  | none => plainResidency s
/-- The temperature of a core. -/
def coreTemp (s : State) (core : Nat) : Nat := NMap.getD s.dev.temps core 0
/-- The source: the hottest present core at or above the threshold that holds no halted bolt (R396, R424). DEDUCED, log entry 65. -/
def hotCore (s : State) (die : Nat) : Option Nat :=
  leastBy (fun c => 256 * (255 - coreTemp s c) + c) ((dieCores die).filter (fun c => corePresent s c && decide (field s.dev.migcfg.toNat 8 8 ≤ coreTemp s c) && !coreHalted s c))
/-- The bolt of a core that has run longest. -/
def oldestBolt (s : State) (core : Nat) : Option (Nat × Bolt) := leastBy (fun b => b.2.started) ((coreOf s core).bolts.filter (fun b => b.2.stop.isNone))
/-- The destination: the coolest core cool enough that admits the bolt (R396). DEDUCED, log entry 65. -/
def coolCore (s : State) (die src bolt : Nat) (b : Bolt) : Option Nat :=
  match NMap.get? s.grids b.grid with
  | none => none
  | some g =>
    let gran := restoreGranules g.launch ((boltSkeins s src bolt).map (fun e => (e.2.index, e.2)))
    leastBy (fun c => 256 * coreTemp s c + c) ((dieCores die).filter (fun c =>
      decide (c ≠ src) && decide (coreTemp s c + field s.dev.migcfg.toNat 16 8 ≤ coreTemp s src) && !coreHalted s c && admissible s b.grid g gran c))
/-- THERMAL_MIGRATION (R396): once in 65,536 reference clocks on each die. DEDUCED, log entry 65. -/
def execThermalMigration (die : Nat) (s : State) : Out :=
  event (fun s =>
    let s := endMigration s die
    let dd := NMap.getD s.dies die {}
    if s.clock % 65536 ≠ 0 ∨ dd.migTurn = some s.clock ∨ !s.dev.migcfg.getLsbD 0 then s else
    let s : State := { s with dies := NMap.insert s.dies die { dd with migTurn := some s.clock } }
    if dd.migration.isSome ∨ dd.move.isSome then s else
    match hotCore s die with
    | none => s
    | some src => match oldestBolt s src with
      | none => s
      | some (bn, b) =>
        if s.clock < b.started + migResidency s b then s else
        match coolCore s die src bn b with
        | none => s
        | some dst =>
          let s : State := { s with dies := NMap.insert s.dies die { NMap.getD s.dies die {} with migration := some (src, bn, dst) } }
          beginStop (updBolt s src bn (fun b => { b with dest := some dst })) src bn .save) s

end Sys2Proof.Machine
end

