-- ==== Sys2Proof/Machine/Debug.lean ====
section
/-! DEFINITION. The debug interface: the commands of DBGCMD and their effects (spec/17 R422 to R425). -/

namespace Sys2Proof.Machine

/-- The core and slot that DBGSEL names. -/
def selCore (s : State) : Nat := field s.dev.dbgsel.toNat 24 8
def selSlot (s : State) : Nat := field s.dev.dbgsel.toNat 18 6
/-- The named skein. -/
def selSkein (s : State) : Option Skein := skeinOf s (selCore s) (selSlot s)
/-- A skein halted by command or at a BRK. -/
def isHalted (sk : Skein) : Bool := match sk.run with | .halted | .haltedBrk => true | _ => false
/-- A skein with no lane left to run. -/
def isOver (sk : Skein) : Bool := match sk.run with | .exited | .ended => true | _ => false
/-- Every skein of the named bolt that still runs is halted, and one is. -/
def boltHalted (s : State) (bolt : Nat) : Bool :=
  let l := boltSkeins s (selCore s) bolt
  l.all (fun e => isHalted e.2 || isOver e.2) && l.any (fun e => isHalted e.2)
/-- The command applies to the named skein in its state (17 Table 11). -/
def dbgAllowed (s : State) (cmd : Nat) : Bool :=
  match selSkein s with
  | none => false
  | some sk =>
    let snap := ((boltOf s (selCore s) sk.bolt).map Bolt.snapshot).getD false
    match cmd with
    | 1 => decide (sk.run ≠ .halted) && decide (sk.run ≠ .stepping)
    | 2 => isHalted sk
    | 3 => boltHalted s sk.bolt
    | 4 => boltHalted s sk.bolt && snap
    | 5 => isHalted sk && boltHalted s sk.bolt
    | 6 => (boltSkeins s (selCore s) sk.bolt).any (fun e => isHalted e.2)
    | _ => false
/-- A write to DBGCMD (R423). -/
def dbgWrite (cmd : Nat) (s : State) : State :=
  if s.dev.dbgcmd = 0 ∧ dbgAllowed s cmd then { s with dev := { s.dev with dbgcmd := cmd } } else { s with dev := { s.dev with dbgRefused := true } }
/-- Perform a pending command on the named skein; `f` answers whether the command has taken effect. A command whose skein has gone
changes nothing. -/
def dbgEvent (cmd : Nat) (f : Nat → Nat → Skein → State → Bool × State) (s : State) : State :=
  if s.dev.dbgcmd ≠ cmd then s else
  let clear := fun (s : State) => { s with dev := { s.dev with dbgcmd := 0 } }
  if !dbgAllowed s cmd then clear { s with dev := { s.dev with dbgRefused := true } }
  else match selSkein s with
    | none => clear s
    | some sk => match f (selCore s) (selSlot s) sk s with
      | (true, s) => clear s
      | (false, s) => s
/-- Change every skein of a bolt. -/
def onBolt (s : State) (core bolt : Nat) (f : Skein → Skein) : State := (boltSkeins s core bolt).foldl (fun s e => updSkein s core e.1 f) s
/-- A skein stops at its stop points: a wait ends, a SLEEP ends, a register request is made anew (R415). One of whose pushes or pops has
reserved stops once it has issued. -/
def haltSkein (core : Nat) (s : State) (e : Nat × Skein) : State :=
  if e.2.run ≠ .running ∨ e.2.control ≠ [] ∨ e.2.publish.isSome ∨ reservedIssue s core e then s else
  let s := updCore (dropPipeWaits core e.1 s) core (fun c => { c with regReqs := c.regReqs.filter (fun r => decide (r.slot ≠ e.1) || decide (r.path = 2)) })
  updSkein s core e.1 (fun sk => { sk with run := .halted, hemWaiting := false, paths := sk.paths.map (fun p => (p.1, { p.2 with sleep := none, yielded := false, wait := none })) })
/-- DEBUG_HALT (R423, R425): the record is written once every skein has stopped. DEDUCED, log entry 64. -/
def execDebugHalt (s : State) : Out :=
  event (dbgEvent 1 (fun core slot sk s =>
    let s := (boltSkeins s core sk.bolt).foldl (haltSkein core) s
    if (boltSkeins s core sk.bolt).any (fun e => decide (e.2.run = .running)) then (false, s)
    else
      let g := gridOf s core sk.bolt
      (true, eventRecord s 0x0A 2 (g.elim 0 Grid.queue) (g.elim 0 Grid.seq) (haltPayload s core slot sk 0)))) s
/-- DEBUG_RESUME (R423): the skeins continue, and a path that waited for positions of its window asks for them anew (R203, R415). -/
def execDebugResume (s : State) : Out :=
  event (dbgEvent 2 (fun core _ sk s =>
    let s := onBolt s core sk.bolt (fun k => if isHalted k then { k with run := .running, trap := none } else k)
    (true, (boltSkeins s core sk.bolt).foldl (fun s e => if e.2.run = .running && !e.2.evicted then requestFills core e.1 s else s) s))) s
/-- The bolt parks with the register-spill fault of a context line (R475). DESIGN CHOICE, log entry 18. -/
def contextFault (s : State) (core slot : Nat) (sk : Skein) (c : Nat × Nat) : State :=
  takeFatal core slot (faultInfoOf { code := 0x39, detail := c.1 } sk.taskOpen 0 0 ((sk.paths.head?.map (fun p => pathPc p.2)).getD 0)) (BitVec.ofNat 64 c.2) 0 s
/-- DEBUG_SNAPSHOT (R423): once its copies are complete and its queues empty, the bolt writes its context, and the command has taken
effect when the writes are accepted. DEDUCED, log entry 64. -/
def execDebugSnapshot (s : State) : Out :=
  event (dbgEvent 3 (fun core slot sk s =>
    if !stopReached s core sk.bolt .save then (false, s) else
    match writeContext s core sk.bolt with
    | (none, s) => (false, s)
    | (some (_, cond), s) =>
      let s := updBolt s core sk.bolt (fun b => { b with written := none, snapshot := b.snapshot || cond.isNone })
      match cond with
      | some c => (true, contextFault s core slot sk c)
      | none => (true, s))) s
/-- Offset of a skein's section in its bolt's context area (R420). -/
def sectionOffset (l : Launch) (index : Nat) : Nat := 0x200000 + index * (65536 * (1 + cdiv l.backing 16))
/-- The regions that a Reload reads: tiles, accumulators, and, of each skein, its resident registers and word 0 of its detail block. -/
def reloadRegions (s : State) (core : Nat) (l : Launch) (b : Bolt) (sks : List (Nat × Skein)) (grans : Skein → List Nat) : List (Nat × Nat) :=
  tileRegions s core l ++ accRegions b.accs.length ++
  sks.flatMap (fun e => (sectionOffset l e.2.index + 0x800, 8) :: skeinRegions (sectionOffset l e.2.index) e.2.globals (grans e.2))
/-- DEBUG_RELOAD (R423). DEDUCED, log entry 64. -/
def execDebugReload (s : State) : Out :=
  event (dbgEvent 4 (fun core slot sk s => match boltOf s core sk.bolt with
    | none => (true, s)
    | some b =>
      let l := launchOf s core sk.bolt
      let a : Agent := .context b.grid b.block
      let sks := boltSkeins s core sk.bolt
      let grans := fun (k : Skein) => (List.range (topOf k / 8)).filter (fun g => g ∉ k.spilled)
      match readAreas s a core l.ctx (ctxAreaOf l b.block) (reloadRegions s core l b sks grans) with
      | (none, s) => (false, s)
      | (some r, s) =>
        let s := readAccs (readTiles (endAgent s a) core r l) core r b.accs
        let s := sks.foldl (fun s e =>
          let sect := sectionOffset l e.2.index
          setSkein s core e.1 { readSkein r sect e.2 (grans e.2) with faultInfo := BitVec.ofNat 64 (leNat (areaAt r (sect + 0x800))) &&& ~~~(0x1F00000000 : DWord) }) s
        match r.2 with
        | some c => (true, contextFault s core slot sk c)
        | none => (true, s))) s
/-- DEBUG_STEP (R423): the skein issues one instruction of its path 0, or of its only path; the command has taken effect once it has stopped
again. DEDUCED, log entry 64. -/
def execDebugStep (s : State) : Out :=
  event (fun s =>
    if s.dev.dbgcmd = 5 ∧ s.dev.dbgBegun = true then
      if (selSkein s).any (fun sk => decide (sk.run = .stepping)) then s else { s with dev := { s.dev with dbgcmd := 0, dbgBegun := false } }
    else dbgEvent 5 (fun core slot _ s =>
      let s := updSkein s core slot (fun k => { k with run := .stepping, trap := none })
      (false, requestFills core slot { s with dev := { s.dev with dbgBegun := true } })) s) s
/-- DEBUG_PARK (R423): the record holds the named skein's FAULTINFO, or code 0x31 with Detail 0xFF when none is halted at a BRK. -/
def execDebugPark (s : State) : Out :=
  event (dbgEvent 6 (fun core slot sk s =>
    let brk := (boltSkeins s core sk.bolt).any (fun e => decide (e.2.run = .haltedBrk))
    let pc := (sk.paths.head?.map (fun p => pathPc p.2)).getD 0
    let f := if brk then sk.faultInfo else faultInfoOf { code := 0x31, detail := 0xFF } sk.taskOpen 0 ((sk.paths.head?.map Prod.fst).getD 0) pc
    let w3 : DWord := (sk.trap.map TrapInfo.word3).getD 0
    let rec_ := (f, (0 : DWord), BitVec.ofNat 64 sk.taskId, w3, (if sk.frame.isSome then 1 else 0 : Nat), BitVec.ofNat 64 s.clock)
    (true, beginStop (updSkein s core slot (fun k => { k with fatal := some rec_ })) core sk.bolt .park))) s

end Sys2Proof.Machine
end

