-- ==== Sys2Proof/Machine/Pod.lean ====
section
/-! DEFINITION. The UALink ports: slots, sealing keys, the replay buffer, flits received, changes of the set of usable ports
(spec/18 R431 to R438, R441, 10 R249). -/

namespace Sys2Proof.Machine

def portRec (s : State) (x : Nat) : UalPort := NMap.getD s.ports x {}
def setPort (s : State) (x : Nat) (p : UalPort) : State := { s with ports := NMap.insert s.ports x p }
/-- Up and not Failed (R432). -/
def usablePort (p : UalPort) : Bool := p.up && !p.failed
/-- A change of an Up or Failed bit raises vector 2 (R430). -/
def noteStatus (before after : UalPort) (s : State) : State :=
  if before.up = after.up ∧ before.failed = after.failed then s else raiseMsix s 2

/-! Changes of the set of usable ports (R432). -/

/-- Flits that move with the channels: those queued, and, of a port that can no longer be used, those not acknowledged. The flit
that retires a key belongs to its port. DEDUCED, log entry 50. -/
def movable (f : UalFlit) : Bool := match f.msg with | .retireKey => false | _ => true
def leavingFlits (p : UalPort) : List UalFlit := if usablePort p then [] else (p.unacked.map UalSent.flit).filter movable
/-- Every pair's queued flits go to its port; flits a failed port had not got acknowledged go first and count as resends. DEDUCED, log entry 50. -/
def remapPorts (s : State) : State :=
  let back := s.ports.flatMap (fun e => leavingFlits e.2)
  let queued := s.ports.flatMap (fun e => e.2.txQueue.filter movable)
  let s : State := { s with ports := s.ports.map (fun e =>
    (e.1, { e.2 with txQueue := e.2.txQueue.filter (fun f => !movable f), unacked := if usablePort e.2 then e.2.unacked else [] })) }
  let s := (back ++ queued).foldl podSend s
  back.foldl (fun s f =>
    let x := (podPort s f.dest f.vc).getD 0
    setPort s x { portRec s x with resends := min ((portRec s x).resends + 1) (2 ^ 32 - 1) }) s
/-- UALINK_PORT_CHANGE: port `x` trains or goes down; a port that has trained anew needs an agreement (R432, R438). DEDUCED, log entry 49. -/
def execUalinkPortChange (x : Nat) (up : Bool) (s : State) : Out :=
  event (fun s =>
    let p := portRec s x
    if !devReady s || decide (p.up = up) then s else
    let q := if up then { p with up := true, failed := false, keys := [], rxKeys := [], tagFails := p.tagFails, rxLine := [], roll := false, waiting := false }
      else { p with up := false, rxLine := [] }
    remapPorts (noteStatus p q (setPort s x q))) s
/-- A port is marked Failed (R437). -/
def failPort (s : State) (x : Nat) : State :=
  let p := portRec s x
  if p.failed then s else remapPorts (noteStatus p { p with failed := true } (setPort s x { p with failed := true, rxLine := [] }))

/-! Keys (R438, R441). -/

/-- A rollover is requested: it waits while two keys are live; a further request merges. -/
def requestRoll (x : Nat) (s : State) : State :=
  let p := portRec s x
  setPort s x { p with roll := true, waiting := decide (2 ≤ p.keys.length) }
/-- UALCTL_ROLL. -/
def execUalctlRoll (x : Nat) (s : State) : Out := event (fun s => if devReady s then requestRoll x s else s) s
/-- KEY_AGREEMENT_COMPLETE: the first agreement of a trained port, or a rollover that has been requested and does not wait. DEDUCED, log entry 49. -/
def execKeyAgreementComplete (x : Nat) (ok : Bool) (s : State) : Out :=
  event (fun s =>
    let p := portRec s x
    if !p.up then s
    else if p.keys = [] then
      let q := if ok then { p with keys := [⟨false, 0⟩], rxKeys := [false], failed := false, roll := false }
        else { p with failed := true, agreementFailed := true, roll := false }
      remapPorts (noteStatus p q (setPort s x q))
    else if !p.roll ∨ 2 ≤ p.keys.length then s
    else if ok then
      setPort s x { p with keys := p.keys ++ [⟨!((p.keys.getLast?.map UalKey.epoch).getD false), 0⟩], roll := false }
    else setPort s x { p with agreementFailed := true, roll := false }) s
/-- KEY_RETIRE: no flit of the old epoch is unacknowledged; a retire flit is sent and a waiting request begins. DEDUCED, log entry 49. -/
def execKeyRetire (x : Nat) (s : State) : Out :=
  event (fun s =>
    let p := portRec s x
    match p.keys with
    | old :: new :: r =>
      if p.unacked.any (fun u => decide (u.epoch = old.epoch)) then s
      else setPort s x { p with keys := new :: r, waiting := false, txQueue := { dest := 0, vc := 0, msg := .retireKey } :: p.txQueue }
    | _ => s) s

/-! Slots (R433). -/

/-- The owner of a channel: a partition, or 15 for unreserved; channel 0 is unreserved. -/
def channelOwner (s : State) (v : Nat) : Nat := if v = 0 then 15 else nibble s.dev.ualvcown.now.toNat v
/-- The channel of a slot of the frame. -/
def slotChannel (s : State) (k : Nat) : Nat := nibble (shadowWord s.dev.ualslot (k % 64 / 8) 0) (k % 8)
/-- The sources of a slot, in order. -/
def slotSources (s : State) (k : Nat) : List (List Nat) :=
  let v := slotChannel s k
  let o := channelOwner s v
  [[v], if o < 8 then (List.range 16).filter (fun w => w ≠ v ∧ channelOwner s w = o) else [], (List.range 16).filter (fun w => channelOwner s w = 15)]
/-- Another port has flits of the pair unacknowledged (R432). -/
def pairHeld (s : State) (x : Nat) (f : UalFlit) : Bool :=
  movable f && s.ports.any (fun e => decide (e.1 ≠ x) && e.2.unacked.any (fun u => decide (u.flit.dest = f.dest) && decide (u.flit.vc = f.vc) && movable u.flit))
/-- What a port sends in a slot: a flit of the replay buffer again, or a new one. -/
inductive TxPick | again (i : Nat) | fresh (f : UalFlit)
  deriving DecidableEq, Repr, Inhabited
/-- The current key, unless 2⁴⁸ flits have been sealed under it (R438). -/
def sealKey (p : UalPort) : Option UalKey := p.keys.getLast?.bind (fun k => if k.sealed < 2 ^ 48 then some k else none)
/-- The oldest flit of some channels that the port can send. -/
def pickFlit (s : State) (x : Nat) (p : UalPort) (vs : List Nat) : Option TxPick :=
  match findIdx? (fun (u : UalSent) => u.again && decide (u.flit.vc ∈ vs)) p.unacked with
  | some i => some (.again i)
  | none => if (sealKey p).isNone then none else
    (p.txQueue.find? (fun f => decide (f.vc ∈ vs) && !pairHeld s x f)).map .fresh
/-- Seal a new flit under the current key, with the next sequence number; the firmware asks for a rollover at 2⁴⁷ (R437, R438). DEDUCED, log entry 49. -/
def sealFlit (p : UalPort) (f : UalFlit) : UalPort :=
  match p.keys.getLast? with
  | none => p
  | some k =>
    let k' : UalKey := { k with sealed := k.sealed + 1 }
    let ask := decide (k'.sealed = 2 ^ 47)
    { p with keys := p.keys.dropLast ++ [k'], txQueue := p.txQueue.erase f, unacked := p.unacked ++ [{ flit := { f with seq := k.sealed }, epoch := k.epoch, fails := 0, again := false }]
             roll := p.roll || ask, waiting := p.waiting || (ask && decide (2 ≤ p.keys.length)) }
/-- UALINK_PORT_SLOT (R433): a commit that waits for this frame boundary takes effect first. -/
def execUalinkPortSlot (x : Nat) (s : State) : Out :=
  event (fun s =>
    if s.dev.trip then s else
    let s := applyUalink s
    let p := portRec s x
    if !usablePort p then s else
    let q := { p with slotCount := p.slotCount + 1 }
    match (slotSources s p.slotCount).findSome? (pickFlit s x p) with
    | none => setPort s x q
    | some (.again i) => setPort s x { q with resends := min (q.resends + 1) (2 ^ 32 - 1), unacked := q.unacked.modify i (fun u => { u with again := false }) }
    | some (.fresh f) => setPort s x (sealFlit q f)) s

/-! Flits received (R437, R438, R249). -/

/-- What another package brings back for the oldest pod-window request that asked for it on that channel: the bytes of a read, or an atomic's
old value and stamp; once all has come the request goes on (R79, R431). DEDUCED, log entry 27. -/
def podBack (s : State) (src vc pa : Nat) (bytes : List Byte) (bad : Bool) : State :=
  let off := pa % 128
  let m := maskBytes off bytes.length
  match s.reqs.find? (fun r => decide (r.stage = .remote) && decide (podChannel s r.owner = vc) && (match regionOf (128 * r.line) with
    | .pod pkg addr => decide (pkg = src) && decide (addr = pa - off)
    | _ => false) && (match r.kind with
    | .read need => decide (need &&& m ≠ 0)
    | .atomic a => decide (a.off = off) && decide (16 ≤ bytes.length)
    | _ => false)) with
  | none => s
  | some r =>
    let sick : BitVec 4 := if bad then unitsTouched m else 0
    match r.kind with
    | .read need =>
      let q := { r with kind := .read (without need m), rdata := mergeLine r.rdata m (lineOf off bytes), rpoison := r.rpoison ||| sick }
      if without need m = 0 then arrive s q else updReq s r.id (fun _ => q)
    | _ => arrive s { r with rold := BitVec.ofNat 64 (leNat (bytes.take 8)), rpoison := if bad then BitVec.allOnes 4 else 0
                             stamp := BitVec.ofNat 64 (leNat ((bytes.drop 8).take 8)) }
/-- Deliver what a good flit carries. DEDUCED, log entry 48. -/
def deliverFlit (s : State) (f : UalFlit) : State :=
  let n := s.nextId
  let rd := { s with podReads := s.podReads ++ [{ num := n, msg := f.msg, vc := f.vc, src := f.src }], nextId := n + 1 }
  match f.msg with
  | .write pa bs => { s with podBuf := s.podBuf ++ [{ num := n, pa := pa, bytes := bs, relaxed := false, vc := f.vc, src := f.src, start := pa }], nextId := n + 1 }
  | .read _ _ | .atomic _ _ _ _ | .compareSwap _ _ _ _ => rd
  | .pipeLine _ pipe slot index bs => recvPipe s f.src f.vc pipe (.line slot index bs)
  | .pipeCommit _ pipe slots => recvPipe s f.src f.vc pipe (.commit slots)
  | .pipeDrop pipe slot => recvPipe s f.src f.vc pipe (.drop slot)
  | .pipeState pipe close => recvPipe s f.src f.vc pipe (.state close)
  | .pipeApplied pipe => recvApplied s f.src f.vc pipe
  | .pipeSample pipe filled => recvSample s f.src f.vc pipe filled
  | .credit _ pipe filled => recvCredit s f.src f.vc pipe filled
  | .probe pkg stage count pipe side hops => recvProbe s f.src f.vc pkg stage count pipe side hops
  | .ring hops first pos phase pipe side => recvRing s f.src f.vc hops first pos phase pipe side
  | .planEnded pipe side => recvEnded s f.src f.vc pipe side
  | .groupTile g gen t => recvGroupTile s g gen t
  | .reply pa bs bad => podBack s f.src f.vc pa bs bad
  | .retireKey => s
/-- The far end refused one of our flits: it waits to be resent, and its fourth refusal marks the port Failed (R437). DEDUCED, log entry 49. -/
def flitRefused (s : State) (x i : Nat) : State :=
  let p := portRec s x
  match p.unacked[i]? with
  | none => s
  | some u =>
    let s := setPort s x { p with unacked := p.unacked.set i { u with fails := u.fails + 1, again := true } }
    if 4 ≤ u.fails + 1 then failPort s x else s
/-- The flits of the line that may be delivered: those that have come, up to a refused one of their channel (R432); and what is left. DEDUCED, log entry 49. -/
def rxReady : List RxItem → List (Nat × Nat) → List UalFlit × List RxItem
  | [], _ => ([], [])
  | i :: r, held =>
    let ch := (i.flit.src, i.flit.vc)
    if i.came && decide (ch ∉ held) then
      let x := rxReady r held
      (i.flit :: x.1, x.2)
    else
      let x := rxReady r (ch :: held)
      (x.1, i :: x.2)
/-- Where a flit stands in the line of those refused before: by its key and its sequence number. -/
def rxPlace (l : List RxItem) (epoch : Bool) (f : UalFlit) : Option Nat := findIdx? (fun (i : RxItem) => decide (i.epoch = epoch) && decide (i.flit.seq = f.seq)) l
/-- The line after a good arrival. DEDUCED, log entry 49. -/
def rxCame (l : List RxItem) (epoch : Bool) (f : UalFlit) : List RxItem :=
  match rxPlace l epoch f with
  | some i => l.modify i (fun e => { e with flit := f, came := true })
  | none => l ++ [{ epoch := epoch, flit := f, came := true, fails := 0 }]
/-- The line after a refused arrival. DEDUCED, log entry 49. -/
def rxBad (l : List RxItem) (epoch : Bool) (f : UalFlit) : List RxItem :=
  match rxPlace l epoch f with
  | some i => l.modify i (fun e => { e with fails := e.fails + 1 })
  | none => l ++ [{ epoch := epoch, flit := f, came := false, fails := 1 }]
/-- UALINK_FLIT_RECEIVE: a flit sealed under the key of `epoch` arrives; it acknowledges the `acked` oldest flits of the replay
buffer and may report the one numbered `nacked` among the rest as refused. A flit whose tag fails is refused whole, the later ones of its channel
wait for its next send, and its fourth failed send marks the port Failed (R432, R437). DESIGN CHOICE, log entry 19. DEDUCED, log entry 49. -/
def execUalinkFlitReceive (x : Nat) (tagOk : Bool) (epoch : Bool) (acked : Nat) (nacked : Option Nat) (flit : UalFlit) (s : State) : Out :=
  event (fun s =>
    let p := portRec s x
    if !devReady s || !usablePort p || decide (p.keys = []) then s else
    if tagOk && (decide (epoch ∈ p.rxKeys) || decide (p.rxKeys.length < 2)) then
      let rx := if flit.msg = .retireKey then [epoch] else if epoch ∈ p.rxKeys then p.rxKeys else p.rxKeys ++ [epoch]
      let ready := rxReady (rxCame p.rxLine epoch flit) []
      let s := setPort s x { p with rxLine := ready.2, rxKeys := rx, unacked := p.unacked.drop acked }
      let s := match nacked with
        | some i => flitRefused s x i
        | none => s
      pokeAll (ready.1.foldl deliverFlit s)
    else
      let line := rxBad p.rxLine epoch flit
      let s := setPort s x { p with rxLine := line, tagFails := min (p.tagFails + 1) (2 ^ 32 - 1) }
      if line.any (fun e => decide (4 ≤ e.fails)) then failPort s x else s) s

end Sys2Proof.Machine
end

