-- ==== Sys2Proof/Machine/Host.lean ====
section
/-! DEFINITION. The host and the system port: register writes, BAR2, atomics, snoops, attestation, inbound pod traffic, and the entries of
store queues that leave for the L1, a slice or the register block (spec/18 R426 to R428, R440, 10 R248 to R250, 09 R215, 00 R5, R6). -/

namespace Sys2Proof.Machine

/-! Register writes. -/

/-- A write of 1 clears the Refused bit of a commit register (R5). -/
def clears (mask v : DWord) (bit : Nat) : Bool := (mask &&& v).getLsbD bit
/-- A write of a register that starts something: offset of its aligned 8 bytes, bits covered, value. -/
def startWrite (s : State) (o : Nat) (mask v : DWord) : State :=
  let d := s.dev
  let set := clears mask v 0
  let c1 := clears mask v 1
  let low := decide (field mask.toNat 0 32 ≠ 0)
  if o = 0x1010 then
    let s : State := { s with dev := { d with chRefused := d.chRefused && !c1 } }
    if set then startChCommit s else s
  else if o = 0x8060 then
    let s : State := { s with dev := { d with fabRefused := d.fabRefused && !c1 } }
    if set then startFabCommit s else s
  else if o = 0xA300 then
    let s : State := { s with dev := { d with partRefused := d.partRefused && !c1 } }
    if set then startPartCommit s else s
  else if o = 0xA430 then
    let s : State := { s with dev := { d with ualRefused := d.ualRefused && !c1 } }
    if set then startUalCommit s else s
  else if o = 0x1248 then
    let w := (fieldWrite d.stopReq (BitVec.allOnes 64) mask v).toNat
    hostStop (w / 2 ^ 48) (w % 2 ^ 48) s
  else if o = 0x1268 then (if low then dbgWrite (field v.toNat 0 4) s else s)
  else if 0xA500 ≤ o ∧ o < 0xA600 then
    (if o % 16 = 0 then
      let x := (o - 0xA500) / 16
      let p := portRec s x
      let s := setPort s x { p with agreementFailed := p.agreementFailed && !clears mask v 7 }
      if set then requestRoll x s else s
    else s)
  else if o = 0xA700 then (if set then { s with dev := { d with attRequest := true } } else s)
  else if 0x100000 ≤ o ∧ o < 0x200000 then
    (if o % 16 = 0 ∧ low then qtailWrite ((o - 0x100000) / 16) (BitVec.ofNat 32 (field v.toNat 0 32)) s else s)
  else s
/-- A naturally aligned write of 4 or 8 bytes to the device register block (R5, R6, R427, R446, R450). -/
def regWrite (s : State) (off : Nat) (wide : Bool) (v : DWord) : State :=
  if !devReady s then s else
  let m := writeBits off wide v
  match regSet s (off / 8 * 8) m.1 m.2 with
  | some s => s
  | none => startWrite s (off / 8 * 8) m.1 m.2
/-- REGISTER_WRITE. -/
def execRegisterWrite (off : Nat) (wide : Bool) (v : DWord) (s : State) : Out :=
  event (fun s => pokeAll (regWrite s off wide v)) s

/-! Store-queue entries (R215). -/

/-- The masked runs of a register line are written as 8- or 4-byte registers. DEDUCED, log entry 39. -/
def writeRegLine (s : State) (off : Nat) (e : SqEntry) : State :=
  (maskRuns e.mask e.data).foldl (fun s r =>
    if r.1 % 8 = 0 ∧ r.2.length % 8 = 0 then
      (List.range (r.2.length / 8)).foldl (fun s i => regWrite s (off + r.1 + 8 * i) true (BitVec.ofNat 64 (leNat ((r.2.drop (8 * i)).take 8)))) s
    else (List.range (r.2.length / 4)).foldl (fun s i => regWrite s (off + r.1 + 4 * i) false (BitVec.ofNat 64 (leNat ((r.2.drop (4 * i)).take 4)))) s) s
/-- Entries that now enter the queue close the part of the store they kept open, if they are written back (R221). -/
def admitEntries (s : State) (core slot : Nat) : State :=
  match skeinOf s core slot with
  | none => s
  | some sk =>
    let room := 32 - sk.sq.length
    let come := sk.sqWait.take room
    let put := come.map (fun e => { e with entered := s.clock, op := if e.through then e.op else none })
    let s := setSkein s core slot { sk with sq := sk.sq ++ put, sqWait := sk.sqWait.drop room }
    (come.filter (fun e => !e.through)).foldl (fun s e => match e.op with
      | some o => storeEntryDone s core slot o
      | none => s) s
/-- An entry that has left its queue: merged into the L1, or written through (R215, R217, R222). -/
def leaveQueue (s : State) (core slot : Nat) (e : SqEntry) : State :=
  if !e.through then l1Merge s core e else
  match regionOf (128 * e.line) with
  | .regs off =>
    let s := writeRegLine s off e
    match e.op with
    | some o => storeEntryDone s core slot o
    | none => s
  | _ =>
    let s := l1Through s core e
    match e.op with
    | some o => (postCore s (.write e.mask e.data) (.store core slot o) e.line e.policy core).2
    | none => s
/-- The skein of a quarter whose head entry entered its queue earliest; the lower slot wins a tie. -/
def earliestHead (s : State) (core quarter : Nat) : Option (Nat × SqEntry) :=
  let heads := (coreOf s core).skeins.filterMap (fun e => if quarterOf e.1 = quarter then (e.2.sq.head?).map (fun h => (e.1, h)) else none)
  leastBy (fun h => h.2.entered) heads
/-- STORE_QUEUE_ENTRY_TO_L1: at most one entry of a quarter in a core clock (R215). DESIGN CHOICE, log entry 6. -/
def execStoreQueueEntryToL1 (core quarter : Nat) (s : State) : Out :=
  event (fun s =>
    let c := coreOf s core
    let now := c.phase / 144
    -- entries of one core clock enter in ascending quarter number
    if c.sqTaken.any (fun e => decide (e.2 = now) && decide (quarter ≤ e.1)) then s else
    match earliestHead s core quarter with
    | none => s
    | some (slot, e) =>
      let s := updCore s core (fun c => { c with sqTaken := NMap.insert c.sqTaken quarter now })
      let s := updSkein s core slot (fun sk => { sk with sq := sk.sq.drop 1 })
      pokeCore (admitEntries (leaveQueue s core slot e) core slot) core) s

/-! The system port (R108, R248 to R250, R427). -/

/-- The bytes lie in memory that a BAR or the pod reaches: HBM4E or second tier, present (R79, R427). -/
def reachable (s : State) (pa n : Nat) : Bool :=
  decide (0 < n) && isMain pa && isMain (pa + n - 1) && regionPresent s pa && regionPresent s (pa + n - 1)
/-- Read bytes at the slices for the host or the pod, by requests of the system port as unreserved traffic (R84, R108): the bytes, and
whether any is poisoned (R81, R427); nothing while a line is on its way. DEDUCED, log entry 47. -/
def portRead (s : State) (a : Agent) (pa n : Nat) : Nat → Option (List Byte × Bool) × State
  | 0 => (some ([], false), s)
  | k + 1 =>
    if n = 0 then (some ([], false), s) else
    let here := min n (128 - pa % 128)
    let (x, s) := lineGet s a pa 0 15 8
    let (y, s) := portRead s a (pa + here) (n - here) k
    (x.bind (fun d => y.map (fun r => (lineBytes d.1 (pa % 128) here ++ r.1, decide (unitsTouched (maskBytes (pa % 128) here) &&& d.2 ≠ 0) || r.2))), s)
/-- Answer the host or the pod; an Unsupported Request answers no bytes. DEDUCED, log entry 47. -/
def answer (s : State) (r : List Byte × Bool) : State := { s with hostReplies := s.hostReplies ++ [r] }
/-- An atomic goes to its line's home slice. -/
def portAtomic (s : State) (a : Agent) (pa : Nat) (x : AtomReq) : State := (postReq s (.atomic x) (.agent a) (pa / 128) .keep 8 0 15).2
/-- The old value of an atomic, and its stamp, once its reply has come. -/
def atomicLine (s : State) (a : Agent) (pa : Nat) : Option AgentLine := s.lines.find? (fun l => decide (l.agent = a) && decide (l.line = pa / 128))
def atomicBack (s : State) (a : Agent) (pa : Nat) (x : AtomReq) : Option (List Byte × Bool) :=
  (atomicLine s a pa).map (fun l => (lineBytes l.data x.off (itWidth x.ty / 8), decide (l.poison ≠ 0)))
/-- The next line request of a waiting write: sent, then, once its slice has accepted it, off the write; none is left when it was the
last. Bytes that arrived poisoned poison their units (R81, R426, R427). DEDUCED, log entry 47. -/
def portWrite (s : State) (a : Agent) (w : InboundWrite) : Option InboundWrite × State :=
  let n := 128 - w.pa % 128
  let rest := w.bytes.drop n
  if w.sent then
    if agentBusy s a then (some w, s)
    else (if rest = [] then none else some { w with pa := w.pa + n, bytes := rest, sent := false }, s)
  else (some { w with sent := true }, engineWriteP s (.agent a) 0 15 8 .keep w.pa (w.bytes.take n) (if w.ep then 15 else 0))
/-- Put what is left of write `i` of a buffer back. -/
def putBack (l : List InboundWrite) (i : Nat) : Option InboundWrite → List InboundWrite
  | some w => l.set i w
  | none => l.eraseIdx i
/-- HOST_MEMORY_WRITE: with bytes, a BAR2 write TLP arrives at the system port; without, the port goes on with its waiting write number
`pa`, which no earlier write holds back unless both keep the order of arrival (R250, R427). DEDUCED, log entry 47. -/
def execHostMemoryWrite (pa : Nat) (bytes : List Byte) (relaxed : TlpAttr) (s : State) : Out :=
  event (fun s =>
    if bytes ≠ [] then
      if devReady s && decide (bytes.length ≤ 512) && reachable s pa bytes.length then
        { s with hostBuf := s.hostBuf ++ [{ num := s.nextId, pa := pa, bytes := bytes, relaxed := relaxed.relaxed, vc := 0, ep := relaxed.ep }], nextId := s.nextId + 1 }
      else s
    else match s.hostBuf[pa]? with
      | none => s
      | some w =>
        if !w.relaxed && (s.hostBuf.take pa).any (fun v => !v.relaxed) then s else
        let (r, s) := portWrite s (.host w.num) w
        bufferMoved { s with hostBuf := putBack s.hostBuf pa r }) s
/-- The host read or atomic number `i` is answered once its lines, or its old value, have come. -/
def hostAnswer (s : State) (i : Nat) : State :=
  match s.hostReads[i]? with
  | none => s
  | some h =>
    let a : Agent := .host h.num
    let (v, s) := match h.atomic with
      | some x => (atomicBack s a h.pa x, s)
      | none => portRead s a h.pa h.len (lineFuel h.len)
    match v with
    | none => s
    | some v => answer { endAgent s a with hostReads := s.hostReads.eraseIdx i } v
/-- A read through BAR0, which maps the device register block: 4 or 8 naturally aligned bytes; every other one is an Unsupported Request (R427,
R446). After a thermal trip DEVSTAT alone answers (R450). DEDUCED, log entry 47. -/
def hostRegRead (s : State) (off len : Nat) : State :=
  if s.dev.trip && decide (off / 8 * 8 ≠ 0xC000) then s
  else if (len = 4 ∨ len = 8) ∧ off % len = 0 then answer s (regRead s off len, false)
  else answer s ([], false)
/-- HOST_MEMORY_READ (R427): a read arrives, and its lines are asked for; with length 0, the waiting read or atomic number `pa` goes on. An
address of the device register block stands for a read through BAR0. DEDUCED, log entry 47. -/
def execHostMemoryRead (pa len : Nat) (s : State) : Out :=
  event (fun s =>
    match regionOf pa with
    | .regs off => if len = 0 then hostAnswer s pa else hostRegRead s off len
    | _ =>
    if len = 0 then hostAnswer s pa
    else if s.dev.trip then s
    else if devReady s && decide (len ≤ 512) && reachable s pa len then
      let h : HostRead := { num := s.nextId, pa := pa, len := len, atomic := none }
      (portRead { s with nextId := s.nextId + 1, hostReads := s.hostReads ++ [h] } (.host h.num) pa len (lineFuel len)).2
    else answer s ([], false)) s
/-- The request that a host AtomicOp makes: `x` is the operand or the compare value, `y` the swap value of CAS. -/
def hostAtom (pa : Nat) (op : HostAtomicOp) (wide : Bool) (x y : DWord) : AtomReq :=
  { op := match op with
      | .swap => .exch
      | _ => .add
    isCas := decide (op = .cas), ty := if wide then .n64 else .n32, off := pa % 128, b := x, c := y }
/-- HOST_ATOMIC (18 Table 1): FetchAdd, Swap and CAS of 32 and 64 bits, naturally aligned. DEDUCED, log entry 47. -/
def execHostAtomic (pa : Nat) (op : HostAtomicOp) (wide : Bool) (x y : DWord) (s : State) : Out :=
  event (fun s =>
    let n := if wide then 8 else 4
    if devReady s && decide (pa % n = 0) && reachable s pa n then
      let a := hostAtom pa op wide x y
      let h : HostRead := { num := s.nextId, pa := pa, len := n, atomic := some a }
      portAtomic { s with nextId := s.nextId + 1, hostReads := s.hostReads ++ [h] } (.host h.num) pa a
    else if s.dev.trip then s
    else answer s ([], false)) s
/-- CXL_CACHE_SNOOP (R428): the device keeps no host line and answers RspIHitI; nothing after a thermal trip (R450). -/
def execCxlCacheSnoop (_pa : Nat) (s : State) : Out := event (fun s => if s.dev.trip then s else { s with snoops := s.snoops + 1 }) s

/-- UALINK_INBOUND_WRITE: the port goes on with the oldest write of its UALink buffer, which is of channel `vc`; a read or an atomic of
the channel that arrived before goes first (R106, R248, R249). DEDUCED, log entry 48. -/
def execUalinkInboundWrite (vc : Nat) (s : State) : Out :=
  event (fun s => if s.dev.trip then s else match s.podBuf with
    | [] => s
    | w :: rest =>
      if w.vc ≠ vc ∨ s.podReads.any (fun r => decide (r.vc = vc) && decide (r.num < w.num)) then s
      else if !reachable s w.pa w.bytes.length then bufferMoved { s with podBuf := rest }
      else
        let (r, s) := portWrite s (.pod w.num) w
        let s := bufferMoved { s with podBuf := putBack s.podBuf 0 r }
        if r.isNone then podSend s { dest := w.src, vc := w.vc, msg := .reply w.start [] false } else s) s
/-- An atomic from the pod. -/
def podAtom (pa : Nat) (isCas : Bool) (op : AtomOp) (ty : IType) (b c : DWord) : AtomReq :=
  { op := op, isCas := isCas, ty := ty, off := pa % 128, b := b, c := c }
/-- The atomic of a message from the pod, with its address. -/
def podAtomic : PodMsg → Option (Nat × AtomReq)
  | .atomic pa op ty b => some (pa, podAtom pa false op ty b 0)
  | .compareSwap pa ty b c => some (pa, podAtom pa true .add ty b c)
  | _ => none
/-- What a read or an atomic of the pod brings, once it has been to its slices, an atomic with its stamp; what an absent location answers is
free. DEDUCED, log entry 48. -/
def podFetch (s : State) (r : InboundRead) : Option (List Byte × Bool) × State :=
  let a : Agent := .pod r.num
  let absent := fun n =>
    let (b, s) := freeBytes s n
    (some (b, false), s)
  match r.msg, podAtomic r.msg with
  | .read pa len, _ => if reachable s pa len then portRead s a pa len (lineFuel len) else absent len
  | _, some (pa, x) =>
    let n := itWidth x.ty / 8
    if !reachable s pa n then absent 16
    else match atomicBack s a pa x, atomicLine s a pa with
      | some v, some l => (some (v.1 ++ List.replicate (8 - n) 0 ++ leBytes 8 l.stamp.toNat, v.2), s)
      | _, _ => (none, if s.reqs.any (fun q => decide (q.who = .agent a)) then s else portAtomic s a pa x)
  | _, none => (some ([], false), s)
/-- The answer leaves for the package that asked, on the channel of the request, in flits of at most 512 bytes of it (R431). DEDUCED, log entry
48. -/
def podAnswer (s : State) (r : InboundRead) (v : List Byte × Bool) : State :=
  let pa := match r.msg, podAtomic r.msg with
    | .read pa _, _ => pa
    | _, some (pa, _) => pa
    | _, _ => 0
  (List.range (max 1 (cdiv v.1.length 512))).foldl (fun s i =>
    podSend s { dest := r.src, vc := r.vc, msg := .reply (pa + 512 * i) ((v.1.drop (512 * i)).take 512) v.2 }) s
/-- UALINK_INBOUND_READ_ATOMIC: the oldest read or atomic of the channel goes to its home slices, after the writes of the channel that
arrived before it, and is answered (R106). DEDUCED, log entry 48. -/
def execUalinkInboundReadAtomic (vc : Nat) (s : State) : Out :=
  event (fun s => if s.dev.trip then s else match s.podReads.find? (fun r => r.vc = vc) with
    | none => s
    | some r =>
      if s.podBuf.any (fun w => decide (w.vc = vc) && decide (w.num < r.num)) then s else
      match podFetch s r with
      | (none, s) => s
      | (some v, s) => podAnswer { endAgent s (.pod r.num) with podReads := s.podReads.filter (fun q => q.num ≠ r.num) } r v) s

/-! Attestation (R440). -/

/-- ATTCTL_REQUEST: a request while one runs is ignored. DESIGN CHOICE, log entry 45. -/
def execAttctlRequest (s : State) : Out := event (fun s => if devReady s then { s with dev := { s.dev with attRequest := true } } else s) s
/-- What the report holds of the device: the nonce, FWSTAT, RATED, the capacity registers, and the partition, slot and channel maps in force
(R440). DESIGN CHOICE, log entry 45. -/
def attested (s : State) : List Byte :=
  let d := s.dev
  let regs := [0xA708, 0xA710, 0xA718, 0xA720, 0xA740, 0xA308, 0xC010, 0xC018, 0xC020, 0xC028, 0x8000, 0x8008, 0x8010, 0x8018]
  regs.flatMap (fun o => leBytes 8 (regValue s o)) ++
  (List.range 8).flatMap (fun p => leBytes 8 (NMap.getD d.partClk p 0x9000).toNat ++ leBytes 24 (NMap.getD d.partCore p 0).toNat) ++
  [d.slown.now, d.slqres.now, d.slway.now, d.adpcfg.now, d.ualvcown.now].flatMap (fun w => leBytes 8 w.toNat) ++
  (List.range 8).flatMap (fun w => leBytes 4 (shadowWord d.ualslot w 0)) ++
  (List.range 512).flatMap (fun w => leBytes 4 (shadowWord d.dlown w 0xFFFFFFFF)) ++
  (List.range 384).flatMap (fun c => (List.range 16).flatMap (fun w => leBytes 4 (NMap.getD (NMap.getD s.channels c {}).slots w 0xFFFFFFFF).toNat))
/-- ATTESTATION_COMPLETE: the 64 KiB report is written: what the device holds, then the digests and signatures given; and, once its writes are accepted, ATTCTL clears and vector 3 is raised. DESIGN CHOICE, log entry 17. DESIGN CHOICE, log entry 45. -/
def execAttestationComplete (report : List Byte) (s : State) : Out :=
  event (fun s =>
    if !s.dev.attRequest then s
    else if !s.dev.attSent then engineWrites { s with dev := { s.dev with attSent := true } } (.agent .attest) 0 15 8 s.dev.attBuf ((attested s ++ report).take 65536)
    else if agentBusy s .attest then s
    else raiseMsix { s with dev := { s.dev with attRequest := false, attSent := false } } 3) s

end Sys2Proof.Machine
end

