-- ==== Sys2Proof/Machine/Lane.lean ====
section
/-! DEFINITION. Lane operations and predicate instructions, opcodes 0x34 to 0x3B (spec/11 R276 to R284). -/

namespace Sys2Proof.Machine

/-- The source lane of LPERM for lane `l` under its lane operand (R277). -/
def lpermLane (mode : PermMode) (b : Word) (l : Nat) : Nat :=
  let d := b.toNat % 128
  let w := 2 ^ (7 - field b.toNat 8 3)
  let base := l - l % w
  let o := l % w
  match mode with
  | .idx => base + d % w
  | .up => if d ≤ o then base + (o - d) else l
  | .down => if o + d < w then base + (o + d) else l
  | .xor => base + (o ^^^ d) % w
  | .rot => base + (o + d) % w
/-- LPERM (R277). -/
def execLperm (c : Ctl) (d : VK) (a b : Src) (mode : PermMode) (wide : Bool) (s : State) : Out :=
  alu (.lperm c d a b mode wide) c (wideRegs wide) d (fun x l => srcBits x (plainType wide) a (lpermLane mode (srcWord x b l) l)) s
/-- XCHG (R278). -/
def execXchg (c : Ctl) (d : VK) (a b : Src) (s : State) : Out :=
  alu (.xchg c d a b) c 1 d (fun x l => (srcWord x a (l ^^^ (srcWord x b l).toNat % 128)).setWidth 64) s

/-- PCON (R279): the predicate combined over the active set. -/
def execPcon (c : Ctl) (f : PconForm) (a : Nat) (s : State) : Out :=
  issue {} (Instr.use (.pcon c f a)) c noEarly (fun x s =>
    let on := pget x.sk a &&& x.act
    retire x (onSkein x (fun sk => match f with
      | .all p => putP x sk p (fun _ => decide (on = x.act))
      | .any p => putP x sk p (fun _ => decide (on ≠ 0))
      | .same p => putP x sk p (fun _ => decide (on = x.act) || decide (on = 0))
      | .ballot k => (List.range 4).foldl (fun sk g => kput sk (k + g) (on.extractLsb' (32 * g) 32)) sk
      | .count k => kput sk k (BitVec.ofNat 32 (laneCount on))) s)) s
/-- LGRP (R280): active lanes of equal value. -/
def execLgrp (c : Ctl) (f : LgrpForm) (a : Src) (wide : Bool) (s : State) : Out :=
  issue {} (Instr.use (.lgrp c f a wide)) c noEarly (fun x s =>
    let v := fun l => srcBits x (plainType wide) a l
    retire x (onSkein x (fun sk => match f with
      | .set d => (List.range 4).foldl (fun sk g => putWord x sk (.v (d + g))
          (fun l => (lmask (fun j => x.act.getLsbD j && decide (v j = v l))).extractLsb' (32 * g) 32)) sk
      | .same p => putP x sk p (fun _ => (lanesOf x.act).all (fun l => decide (v l = v (oneOf x))))) s)) s
/-- KRED's combination over the active lanes (R281). -/
def kredBits (op : KredOp) (m : IMod) (vs : List Int) (ps : List Nat) : DWord :=
  match op with
  | .add => wrapOrSat m (vs.foldl (· + ·) 0)
  | .min => intBits (vs.foldl min (itMax m.ty))
  | .max => intBits (vs.foldl max (itMin m.ty))
  | .and => patBits m.ty (ps.foldl (· &&& ·) (2 ^ itWidth m.ty - 1))
  | .or => patBits m.ty (ps.foldl (· ||| ·) 0)
  | .xor => patBits m.ty (ps.foldl (· ^^^ ·) 0)
/-- KRED (R281). -/
def execKred (c : Ctl) (d a : Nat) (op : KredOp) (m : IMod) (s : State) : Out :=
  alu (.kred c d a op m) c m.ty.regs (.k d) (fun x _ =>
    kredBits op m ((lanesOf x.act).map (srcInt x m.ty (.v a))) ((lanesOf x.act).map (srcPat x m.ty (.v a)))) s
/-- The relation of LANEMASK (R282). -/
def lmRel (rel : LmRel) (i j : Nat) : Bool :=
  match rel with
  | .lt => decide (i < j)
  | .le => decide (i ≤ j)
  | .gt => decide (j < i)
  | .ge => decide (j ≤ i)
  | .eq => decide (i = j)
/-- LANEMASK (R282). -/
def execLanemask (c : Ctl) (d : Nat) (rel : LmRel) (s : State) : Out :=
  alu (.lanemask c d rel) c 1 (.v d) (fun _ l => (bitsOf 32 (fun i => lmRel rel i (l % 32))).setWidth 64) s
/-- PSET's combination (R283). -/
def psetBit (op : PsetOp) (a b : Bool) : Bool :=
  match op with
  | .and => a && b
  | .or => a || b
  | .xor => a != b
  | .andn => a && !b
/-- PSET (R283). -/
def execPset (c : Ctl) (d a b : Nat) (op : PsetOp) (s : State) : Out :=
  aluP (.pset c d a b op) c d (fun x l => psetBit op ((pget x.sk a).getLsbD l) ((pget x.sk b).getLsbD l)) s
/-- p7 to p0 of a lane as bits 7 to 0 (R284). -/
def packPreds (sk : Skein) (l : Nat) : Word := (bitsOf 8 (fun i => (pget sk i).getLsbD l)).setWidth 32
/-- PMOV (R284). -/
def execPmov (c : Ctl) (f : PmovForm) (s : State) : Out :=
  issue {} (Instr.use (.pmov c f)) c noEarly (fun x s =>
    retire x (onSkein x (fun sk => match f with
      | .pv v p => putWord x sk (.v v) (fun l => if (pget x.sk p).getLsbD l then 1 else 0)
      | .vp p v => putP x sk p (fun l => decide (vRead x v l ≠ 0))
      | .pack v => putWord x sk (.v v) (fun l => packPreds x.sk l)
      | .unpk v => (List.range 7).foldl (fun sk i => putP x sk i (fun l => (vRead x v l).getLsbD i)) sk) s)) s

end Sys2Proof.Machine
end

