-- ==== Sys2Proof/Machine/Power.lean ====
section
/-! DEFINITION. Power-up phases, degraded parts, sensors, throttling, the thermal trip, ageing, telemetry (spec/19 R445 to R452, 18 R439). -/

namespace Sys2Proof.Machine

/-! Power-up (R445 to R448). -/

/-- RESET_RELEASE: everything starts from nothing, in phase Verify; the model's own fields stay. DEDUCED, log entry 75. -/
def execResetRelease (s : State) : Out :=
  event (fun s => { State.reset with cur := s.cur, schedule := s.schedule, moves := s.moves, freeCtr := s.freeCtr, nextId := s.nextId }) s
/-- FIRMWARE_VERIFY_DONE (R439): both signatures are checked whatever the first gives. DEDUCED, log entry 46. -/
def execFirmwareVerifyDone (rsaOk slhOk : Bool) (version : BitVec 16) (s : State) : Out :=
  event (fun s =>
    if s.dev.phase ≠ .verify then s else
    let low := decide (version.toNat < Config.fwMinimum)
    let ok := rsaOk && slhOk && !low
    let st := (if ok then version.toNat * 2 ^ 32 else 0) + (if low then 4 else 0) + (if slhOk then 0 else 2) + (if rsaOk then 0 else 1)
    { s with dev := { s.dev with phase := if ok then .calibrate else .failed, fwstat := BitVec.ofNat 64 st } }) s
/-- The units that the part's fuses leave, and the configuration of its second tier (R1, R448). DEDUCED, log entry 46. -/
def fuseOff (d : Device) (p : PartFuses) : Device :=
  { d with cores := d.cores &&& p.cores, slices := d.slices &&& p.slices, sram := d.sram &&& p.sram, hbmStacks := d.hbmStacks &&& p.hbmStacks
           second := d.second &&& p.second, wstore := d.wstore &&& p.wstore, secondCxl := p.cxl }
/-- CALIBRATION_DONE (R1, R447): the part reports what it is, and a unit that failed leaves its presence mask. DEDUCED, log entry 46. -/
def execCalibrationDone (r : CalResult) (s : State) : Out :=
  event (fun s =>
    if s.dev.phase ≠ .calibrate then s else
    -- units that the part's fuses leave out are absent, and count as no loss (R1, R447)
    let d := fuseOff s.dev r.part
    let lost := decide (d.cores &&& r.cores ≠ d.cores) || decide (d.slices &&& r.slices ≠ d.slices) || decide (d.sram &&& r.sram ≠ d.sram) ||
      decide (d.hbmStacks &&& r.hbmStacks ≠ d.hbmStacks) || decide (d.second &&& r.second ≠ d.second) || decide (d.wstore &&& r.wstore ≠ d.wstore)
    { s with dev := { d with
      phase := if r.ok then .initialise else .failed, calLoss := d.calLoss || lost, cxlCache := r.cxlCache
      cores := d.cores &&& r.cores, slices := d.slices &&& r.slices, sram := d.sram &&& r.sram, hbmStacks := d.hbmStacks &&& r.hbmStacks
      second := d.second &&& r.second, wstore := d.wstore &&& r.wstore } }) s
/-- INITIALISATION_DONE (R445): all memory reads zero, nothing is poisoned, the device is ready. DESIGN CHOICE, log entry 3. -/
def execInitialisationDone (s : State) : Out :=
  event (fun s => if s.dev.phase ≠ .initialise then s else { s with dev := { s.dev with phase := .ready }, mem := [], poison := [] }) s

/-! Sensors, power, clocks (R449 to R451). -/

/-- The PWR Package field. -/
def packagePower (pwr : DWord) : Nat := field pwr.toNat 0 16
/-- The clock of a core in no partition after a refresh: one step of 25 MHz down while it is hot or the package draws too much,
else one step up, never above MaxClk of its die (R450). DEDUCED, log entry 43. -/
def throttled (s : State) (c : Nat) : Nat :=
  let n := (coreOf s c).clockN
  let top := (NMap.getD s.dies (dieOf c) {}).maxClk
  if s.dev.throttle ≤ NMap.getD s.dev.temps c 0 ∨ 3200 < packagePower s.dev.pwr then min top (n - 1) else min top (n + 1)
/-- Set the clock of a present core that no enabled partition holds. DEDUCED, log entry 42. DEDUCED, log entry 43. -/
def setFreeClock (f : State → Nat → Nat) (s : State) (c : Nat) : State :=
  if s.dev.cores.getLsbD c && decide (partOf s c = 8) && decide (f s c ≠ (coreOf s c).clockN) then updCore s c (fun k => { k with clockN := f s c }) else s
/-- The wear and the re-plan that a die's ageing monitors give. -/
def ageDie (ages : List (BitVec 8 × Option Nat)) (s : State) (d : Nat) : State :=
  match ages[d]? with
  | none => s
  | some a =>
    let e := NMap.getD s.dies d {}
    { s with dies := NMap.insert s.dies d { e with wear := a.1.toNat, replan := match a.2 with
        | some n => if n ≤ e.maxClk then some n else e.replan
        | none => e.replan } }
/-- Bytes of the telemetry block are written at their slice, as unreserved traffic. DEDUCED, log entry 44. -/
def telWrite (s : State) (off : Nat) (bs : List Byte) : State :=
  engineWrite s (.agent .telemetry) 0 15 8 .keep (s.dev.telBase.toNat / 256 * 256 + off) bs
/-- The bytes of the telemetry block after its sequence word (19 Table 3). DEDUCED, log entry 44. -/
def telemetry (s : State) : List Byte :=
  leBytes 8 (s.dev.refreshed.getD 0) ++ leBytes 8 s.dev.pwr.toNat ++ leBytes 8 s.dev.energy.toNat ++
  (List.range 4).flatMap (fun d => leBytes 8 (ageReg (NMap.getD s.dies d {}))) ++ (List.range 192).map (fun n => BitVec.ofNat 8 (NMap.getD s.dev.temps n 0))
/-- The next step of writing the block, once the one before has been accepted: the odd sequence word, the other words, the even
sequence word (R452). DEDUCED, log entry 44. -/
def telStepDo (s : State) : State :=
  if agentBusy s .telemetry then s else
  let seq := s.dev.telSeq
  let next := fun (n : Nat) (s : State) => { s with dev := { s.dev with telStep := n } }
  match s.dev.telStep with
  | 1 => next 2 (telWrite s 0 (leBytes 8 (seq + 1).toNat))
  | 2 => next 3 (telWrite (telWrite s 8 ((telemetry s).take 120)) 128 ((telemetry s).drop 120))
  | _ =>
    let s := telWrite s 0 (leBytes 8 (seq + 2).toNat)
    { s with dev := { s.dev with telStep := 0, telSeq := seq + 2 } }
/-- The trip: every core stops issuing and the device answers DEVSTAT alone (R450). -/
def tripped (s : State) : State := { s with dev := { s.dev with trip := true } }
/-- SENSOR_REFRESH (R449, R450): at a reference count that is a multiple of 65,536 the readings arrive; the next steps of the device write
the telemetry block. DEDUCED, log entry 43. -/
def execSensorRefresh (temps : List (BitVec 8)) (pwr energy : DWord) (ages : List (BitVec 8 × Option Nat)) (s : State) : Out :=
  event (fun s =>
    if !devReady s then s
    else if s.dev.telStep ≠ 0 then telStepDo s
    else if s.clock % 65536 ≠ 0 ∨ s.dev.refreshed = some s.clock then s
    else
      let ts : NMap Nat := (temps.take 192).zip (List.range 192) |>.map (fun e => (e.2, e.1.toNat))
      let s : State := { s with dev := { s.dev with
        temps := ts, pwr := pwr, energy := energy, refreshed := some s.clock, telStep := if s.dev.telBase.getLsbD 0 then 1 else 0 } }
      let s := (List.range 192).foldl (setFreeClock throttled) ((List.range 4).foldl (ageDie ages) s)
      if ts.any (fun t => decide (115 ≤ t.2)) then tripped s else s) s
/-- THERMAL_TRIP (R450): a sensor reaches 115 °C, in whatever phase. DEDUCED, log entry 43. -/
def execThermalTrip (sensor : Nat) (s : State) : Out := event (fun s => if sensor < 192 then tripped s else s) s
/-- AGE_REPLAN (R451): a waiting re-plan of a die is applied at a multiple of 65,536 while no enabled partition holds a core there. DEDUCED, log entry 43. -/
def execAgeReplan (die : Nat) (s : State) : Out :=
  event (fun s =>
    let e := NMap.getD s.dies die {}
    match e.replan with
    | none => s
    | some n =>
      if s.clock % 65536 ≠ 0 ∨ (List.range 48).any (fun i => decide (partOf s (48 * die + i) < 8)) then s
      else
        let s : State := { s with dies := NMap.insert s.dies die { e with maxClk := n, replan := none } }
        (List.range 48).foldl (fun s i => setFreeClock (fun s c => min n (coreOf s c).clockN) s (48 * die + i)) s) s

end Sys2Proof.Machine
end

