-- ==== Sys2Proof/Machine/Special.lean ====
section
/-! DEFINITION. The special functions, opcodes 0x5C to 0x63 (spec/03 R75, R76, spec/12 R308). RCP, RSQ and SQRT are rounded
exactly. The others are computed to 600 fraction bits, which brackets the exact result; which bracketing value is returned is
the free function Config.pickUpper (log entry 10). -/

namespace Sys2Proof.Machine

/-- The integer square root, bit by bit from bit `k − 1` of the root. -/
def isqrtFrom (n : Nat) : Nat → Nat → Nat
  | 0, r => r
  | k + 1, r => if (r + 2 ^ k) * (r + 2 ^ k) ≤ n then isqrtFrom n k (r + 2 ^ k) else isqrtFrom n k r
def isqrt (n : Nat) : Nat := isqrtFrom n (Nat.log2 n / 2 + 1) 0
/-- A value known as a floor, with one more bit below it that says whether it was exact. -/
def sticky (neg : Bool) (floor : Nat) (exact : Bool) (e : Int) : FVal := .fin neg (2 * floor + (if exact then 0 else 1)) (e - 1)

/-- RCP (R75, R76). -/
def rcpCode (w : Word) : Nat :=
  roundFF .f32 .rne (match ffDecode .f32 w.toNat with
    | .nan => .nan
    | .inf n => .fin n 0 0
    | .fin n m e => if m = 0 then .inf n else sticky n (2 ^ 64 / m) (decide (2 ^ 64 % m = 0)) (-64 - e))
/-- The root of a positive value m × 2^e, to 64 bits and a sticky bit. -/
def rootVal (m : Nat) (e : Int) : FVal :=
  let m := if e % 2 = 0 then m else 2 * m
  let e := if e % 2 = 0 then e else e - 1
  let r := isqrt (m * 2 ^ 64)
  sticky false r (decide (r * r = m * 2 ^ 64)) (e / 2 - 32)
/-- SQRT (R75, R76). -/
def sqrtCode (w : Word) : Nat :=
  roundFF .f32 .rne (match ffDecode .f32 w.toNat with
    | .nan => .nan
    | .inf n => if n then .nan else .inf false
    | .fin n m e => if m = 0 then .fin n 0 0 else if n then .nan else rootVal m e)
/-- RSQ (R75, R76). -/
def rsqCode (w : Word) : Nat :=
  roundFF .f32 .rne (match ffDecode .f32 w.toNat with
    | .nan => .nan
    | .inf n => if n then .nan else .fin false 0 0
    | .fin n m e =>
      if m = 0 then .inf n else if n then .nan else
      let m := if e % 2 = 0 then m else 2 * m
      let e := if e % 2 = 0 then e else e - 1
      let r := isqrt (2 ^ 128 / m)
      sticky false r (decide (r * r * m = 2 ^ 128)) (-(e / 2) - 64))

/-! Fixed-point series. -/

/-- One, with 600 fraction bits. -/
def fxOne : Nat := 2 ^ 600
/-- e^r for r below 1. -/
def fxExp (r : Nat) : Nat :=
  ((List.range 160).foldl (fun (t : Nat × Nat) i => (t.1 * r / fxOne / (i + 1), t.2 + t.1 * r / fxOne / (i + 1))) (fxOne, fxOne)).2
/-- (sin r, cos r) for r below 1.6. -/
def fxSinCos (r : Nat) : Int × Int :=
  let z := (List.range 180).foldl (fun (t : Nat × Int × Int) i =>
    let u := t.1 * r / fxOne / (i + 1)
    let n := (i + 1) % 4
    (u, t.2.1 + (if n = 1 then (u : Int) else if n = 3 then -u else 0), t.2.2 + (if n = 0 then (u : Int) else if n = 2 then -u else 0)))
    (fxOne, 0, (fxOne : Int))
  z.2
/-- atanh z for z up to one third. -/
def fxAtanh (z : Nat) : Nat :=
  let q := z * z / fxOne
  ((List.range 200).foldl (fun (t : Nat × Nat) i => (t.1 * q / fxOne, t.2 + t.1 / (2 * i + 1))) (z, 0)).2
/-- ln 2 = 2 atanh (1/3). -/
def fxLn2 : Nat := 2 * fxAtanh (fxOne / 3)
/-- atan (1/q) with 800 fraction bits. -/
def atanInv (q : Nat) : Int :=
  ((List.range 180).foldl (fun (t : Nat × Int) i =>
    (t.1 / (q * q), t.2 + (if i % 2 = 0 then ((t.1 / (2 * i + 1) : Nat) : Int) else -((t.1 / (2 * i + 1) : Nat) : Int)))) (2 ^ 800 / q, 0)).2
/-- π/2 with 800 fraction bits. -/
def halfPi : Nat := (2 * (4 * atanInv 5 - atanInv 239)).toNat
/-- The quadrant of a magnitude m × 2^e and its remainder, exactly reduced (R75). -/
def reduceAngle (m : Nat) (e : Int) : Nat × Nat :=
  let a := m * 2 ^ (e + 800).toNat
  let h := halfPi
  (a / h % 4, a % h / 2 ^ 200)
/-- sin of a magnitude. -/
def sinMag (m : Nat) (e : Int) : Int :=
  let q := reduceAngle m e
  let sc := fxSinCos q.2
  if q.1 = 0 then sc.1 else if q.1 = 1 then sc.2 else if q.1 = 2 then -sc.1 else -sc.2
/-- cos of a magnitude. -/
def cosMag (m : Nat) (e : Int) : Int :=
  let q := reduceAngle m e
  let sc := fxSinCos q.2
  if q.1 = 0 then sc.2 else if q.1 = 1 then -sc.1 else if q.1 = 2 then -sc.2 else sc.1
/-- One of the two binary32 values that bracket a value that no binary32 value equals (R75). DESIGN CHOICE, log entry 10. -/
def faithful (f : FaithFn) (w : Word) (neg : Bool) (m : Nat) (e : Int) : Nat :=
  let lo := min (gridFloor 23 (ffMin .f32) m e).1 (ffInf .f32 - 1)
  signCode neg (ffSign .f32) (if Config.pickUpper f w then lo + 1 else lo)

/-- EX2 (R75, R76). DESIGN CHOICE, log entry 10. -/
def ex2Code (w : Word) : Nat :=
  match ffDecode .f32 w.toNat with
  | .nan => ffNan .f32
  | .inf n => if n then 0 else ffInf .f32
  | .fin n m e =>
    if m = 0 then roundFF .f32 .rne (.fin false 1 0)
    else if 0 ≤ e ∨ m % 2 ^ (-e).toNat = 0 then
      roundFF .f32 .rne (.fin false 1 (if 0 ≤ e then fInt n m e 0 else fInt n (m / 2 ^ (-e).toNat) 0 0))
    else
      let a : Int := fInt n m e (-600)
      let k := Int.fdiv a fxOne
      faithful .ex2 w false (fxExp ((a - k * fxOne).toNat * fxLn2 / fxOne)) (k - 600)
/-- LG2 (R75, R76). DESIGN CHOICE, log entry 10. -/
def lg2Code (w : Word) : Nat :=
  match ffDecode .f32 w.toNat with
  | .nan => ffNan .f32
  | .inf n => if n then ffNan .f32 else ffInf .f32
  | .fin n m e =>
    if m = 0 then ffSign .f32 + ffInf .f32
    else if n then ffNan .f32
    else
      let len := Nat.log2 m
      if m = 2 ^ len then roundFF .f32 .rne (fOfInt (e + len))
      else
        let z := (m - 2 ^ len) * fxOne / (m + 2 ^ len)
        let v : Int := (e + len) * fxOne + ((2 * fxAtanh z * fxOne / fxLn2 : Nat) : Int)
        faithful .lg2 w (decide (v < 0)) v.natAbs (-600)
/-- SIN (R75, R76). DESIGN CHOICE, log entry 10. -/
def sinCode (w : Word) : Nat :=
  match ffDecode .f32 w.toNat with
  | .nan | .inf _ => ffNan .f32
  | .fin n m e => if m = 0 then w.toNat else
    let v := sinMag m e
    faithful .sin w (n != decide (v < 0)) v.natAbs (-600)
/-- COS (R75, R76). DESIGN CHOICE, log entry 10. -/
def cosCode (w : Word) : Nat :=
  match ffDecode .f32 w.toNat with
  | .nan | .inf _ => ffNan .f32
  | .fin _ m e => if m = 0 then roundFF .f32 .rne (.fin false 1 0) else
    let v := cosMag m e
    faithful .cos w (decide (v < 0)) v.natAbs (-600)
/-- TANH (R75, R76). DESIGN CHOICE, log entry 10. -/
def tanhCode (w : Word) : Nat :=
  match ffDecode .f32 w.toNat with
  | .nan => ffNan .f32
  | .inf n => roundFF .f32 .rne (.fin n 1 0)
  | .fin n m e =>
    if m = 0 then w.toNat
    else
      -- above 64 the exact value lies between the largest value below 1, and 1
      if 133 ≤ w.toNat % ffSign .f32 / 2 ^ 23 then faithful .tanh w n (2 ^ 600 - 1) (-600)
      else
        let t := m * 2 ^ (e + 601).toNat
        let k := t / fxLn2
        let y := fxOne * fxOne / fxExp (t % fxLn2) / 2 ^ k
        faithful .tanh w n ((fxOne - y) * fxOne / (fxOne + y)) (-600)

/-- RCP (R308). -/
def execRcp (c : Ctl) (d : VK) (a : Src) (s : State) : Out :=
  aluSlow (.rcp c d a) c 1 d (fun x l => BitVec.ofNat 64 (rcpCode (srcWord x a l))) s
/-- RSQ (R308). -/
def execRsq (c : Ctl) (d : VK) (a : Src) (s : State) : Out :=
  aluSlow (.rsq c d a) c 1 d (fun x l => BitVec.ofNat 64 (rsqCode (srcWord x a l))) s
/-- SQRT (R308). -/
def execSqrt (c : Ctl) (d : VK) (a : Src) (s : State) : Out :=
  aluSlow (.sqrt c d a) c 1 d (fun x l => BitVec.ofNat 64 (sqrtCode (srcWord x a l))) s
/-- EX2 (R308). -/
def execEx2 (c : Ctl) (d : VK) (a : Src) (s : State) : Out :=
  aluSlow (.ex2 c d a) c 1 d (fun x l => BitVec.ofNat 64 (ex2Code (srcWord x a l))) s
/-- LG2 (R308). -/
def execLg2 (c : Ctl) (d : VK) (a : Src) (s : State) : Out :=
  aluSlow (.lg2 c d a) c 1 d (fun x l => BitVec.ofNat 64 (lg2Code (srcWord x a l))) s
/-- SIN (R308). -/
def execSin (c : Ctl) (d : VK) (a : Src) (s : State) : Out :=
  aluSlow (.sin c d a) c 1 d (fun x l => BitVec.ofNat 64 (sinCode (srcWord x a l))) s
/-- COS (R308). -/
def execCos (c : Ctl) (d : VK) (a : Src) (s : State) : Out :=
  aluSlow (.cos c d a) c 1 d (fun x l => BitVec.ofNat 64 (cosCode (srcWord x a l))) s
/-- TANH (R308). -/
def execTanh (c : Ctl) (d : VK) (a : Src) (s : State) : Out :=
  aluSlow (.tanh c d a) c 1 d (fun x l => BitVec.ofNat 64 (tanhCode (srcWord x a l))) s

end Sys2Proof.Machine
end

