-- ==== Sys2Proof/Machine/Dispatch.lean ====
section
/-! DEFINITION. One arm per instruction and device step: each is a direct call of its meaning. -/

namespace Sys2Proof.Machine

/-- The meaning of every instruction and device step. -/
def exec (i : Instr) (s : State) : Host.Outcome State Fault Refusal :=
  match i with
  | .clauseIssue h => Sys2Proof.Machine.execClauseIssue h s
  | .nop => Sys2Proof.Machine.execNop s
  | .bra c tgt => Sys2Proof.Machine.execBra c tgt s
  | .brx c a => Sys2Proof.Machine.execBrx c a s
  | .setj c tgt => Sys2Proof.Machine.execSetj c tgt s
  | .join c => Sys2Proof.Machine.execJoin c s
  | .call c s8 tgt => Sys2Proof.Machine.execCall c s8 tgt s
  | .callx c s8 a => Sys2Proof.Machine.execCallx c s8 a s
  | .ret c => Sys2Proof.Machine.execRet c s
  | .exit c => Sys2Proof.Machine.execExit c s
  | .skeinEnd core slot => Sys2Proof.Machine.execSkeinEnd core slot s
  | .kill c => Sys2Proof.Machine.execKill c s
  | .yield c => Sys2Proof.Machine.execYield c s
  | .sleep c a => Sys2Proof.Machine.execSleep c a s
  | .sleepExpiry core slot path => Sys2Proof.Machine.execSleepExpiry core slot path s
  | .trap c code => Sys2Proof.Machine.execTrap c code s
  | .brk c code => Sys2Proof.Machine.execBrk c code s
  | .rte c => Sys2Proof.Machine.execRte c s
  | .stitch c d a t => Sys2Proof.Machine.execStitch c d a t s
  | .add c d a b m => Sys2Proof.Machine.execAdd c d a b m s
  | .sub c d a b m => Sys2Proof.Machine.execSub c d a b m s
  | .addc c d a b p ty => Sys2Proof.Machine.execAddc c d a b p ty s
  | .subc c d a b p ty => Sys2Proof.Machine.execSubc c d a b p ty s
  | .mul c d a b m => Sys2Proof.Machine.execMul c d a b m s
  | .mulh c d a b m => Sys2Proof.Machine.execMulh c d a b m s
  | .mad c d a b cc m => Sys2Proof.Machine.execMad c d a b cc m s
  | .madw c d a b cc m => Sys2Proof.Machine.execMadw c d a b cc m s
  | .div c d a b m => Sys2Proof.Machine.execDiv c d a b m s
  | .rem c d a b m => Sys2Proof.Machine.execRem c d a b m s
  | .min c d a b m => Sys2Proof.Machine.execMin c d a b m s
  | .max c d a b m => Sys2Proof.Machine.execMax c d a b m s
  | .abs c d a m => Sys2Proof.Machine.execAbs c d a m s
  | .neg c d a m => Sys2Proof.Machine.execNeg c d a m s
  | .shl c d a b m => Sys2Proof.Machine.execShl c d a b m s
  | .shr c d a b m => Sys2Proof.Machine.execShr c d a b m s
  | .sar c d a b m => Sys2Proof.Machine.execSar c d a b m s
  | .rot c d a b m => Sys2Proof.Machine.execRot c d a b m s
  | .cmp c p a b cc m => Sys2Proof.Machine.execCmp c p a b cc m s
  | .sel c d a b p ty => Sys2Proof.Machine.execSel c d a b p ty s
  | .mov c d a wide => Sys2Proof.Machine.execMov c d a wide s
  | .movk c d a b => Sys2Proof.Machine.execMovk c d a b s
  | .lea c d a b signed sh => Sys2Proof.Machine.execLea c d a b signed sh s
  | .clz c d a m => Sys2Proof.Machine.execClz c d a m s
  | .popc c d a m => Sys2Proof.Machine.execPopc c d a m s
  | .brev c d a m => Sys2Proof.Machine.execBrev c d a m s
  | .sad c d a b cc m => Sys2Proof.Machine.execSad c d a b cc m s
  | .idx c d a what => Sys2Proof.Machine.execIdx c d a what s
  | .and c d a b wide => Sys2Proof.Machine.execAnd c d a b wide s
  | .or c d a b wide => Sys2Proof.Machine.execOr c d a b wide s
  | .xor c d a b wide => Sys2Proof.Machine.execXor c d a b wide s
  | .not c d a wide => Sys2Proof.Machine.execNot c d a wide s
  | .tlut c d a b cc tbl => Sys2Proof.Machine.execTlut c d a b cc tbl s
  | .bfx c d a b ty => Sys2Proof.Machine.execBfx c d a b ty s
  | .bfi c d a b cc ty => Sys2Proof.Machine.execBfi c d a b cc ty s
  | .bpick c d a b cc => Sys2Proof.Machine.execBpick c d a b cc s
  | .lperm c d a b mode wide => Sys2Proof.Machine.execLperm c d a b mode wide s
  | .xchg c d a b => Sys2Proof.Machine.execXchg c d a b s
  | .pcon c f a => Sys2Proof.Machine.execPcon c f a s
  | .lgrp c f a wide => Sys2Proof.Machine.execLgrp c f a wide s
  | .kred c d a op m => Sys2Proof.Machine.execKred c d a op m s
  | .pset c d a b op => Sys2Proof.Machine.execPset c d a b op s
  | .pmov c f => Sys2Proof.Machine.execPmov c f s
  | .lanemask c d rel => Sys2Proof.Machine.execLanemask c d rel s
  | .fadd c d a b m => Sys2Proof.Machine.execFadd c d a b m s
  | .fmul c d a b m => Sys2Proof.Machine.execFmul c d a b m s
  | .ffma c d a b cc m => Sys2Proof.Machine.execFfma c d a b cc m s
  | .fmnx c d a b isMax m => Sys2Proof.Machine.execFmnx c d a b isMax m s
  | .fcmp c p a b cc m => Sys2Proof.Machine.execFcmp c p a b cc m s
  | .fcls c p a b m => Sys2Proof.Machine.execFcls c p a b m s
  | .frnd c d a m => Sys2Proof.Machine.execFrnd c d a m s
  | .fscl c d a b m => Sys2Proof.Machine.execFscl c d a b m s
  | .dadd c d a b m => Sys2Proof.Machine.execDadd c d a b m s
  | .dmul c d a b m => Sys2Proof.Machine.execDmul c d a b m s
  | .dfma c d a b cc m => Sys2Proof.Machine.execDfma c d a b cc m s
  | .dmnx c d a b isMax m => Sys2Proof.Machine.execDmnx c d a b isMax m s
  | .dcmp c p a b cc m => Sys2Proof.Machine.execDcmp c p a b cc m s
  | .dcls c p a b m => Sys2Proof.Machine.execDcls c p a b m s
  | .drnd c d a m => Sys2Proof.Machine.execDrnd c d a m s
  | .dscl c d a b m => Sys2Proof.Machine.execDscl c d a b m s
  | .hadd c d a b m => Sys2Proof.Machine.execHadd c d a b m s
  | .hmul c d a b m => Sys2Proof.Machine.execHmul c d a b m s
  | .hfma c d a b cc m => Sys2Proof.Machine.execHfma c d a b cc m s
  | .hmnx c d a b isMax m => Sys2Proof.Machine.execHmnx c d a b isMax m s
  | .hcmp c p a b cc m => Sys2Proof.Machine.execHcmp c p a b cc m s
  | .hcls c p a b m => Sys2Proof.Machine.execHcls c p a b m s
  | .hrnd c d a m => Sys2Proof.Machine.execHrnd c d a m s
  | .hscl c d a b m => Sys2Proof.Machine.execHscl c d a b m s
  | .cvt c d a r dst src => Sys2Proof.Machine.execCvt c d a r dst src s
  | .cvtn c d a src sat fs pos => Sys2Proof.Machine.execCvtn c d a src sat fs pos s
  | .cvtw c d a dst fs pos => Sys2Proof.Machine.execCvtw c d a dst fs pos s
  | .pack c d a b r sat bf => Sys2Proof.Machine.execPack c d a b r sat bf s
  | .unpk c d a bf => Sys2Proof.Machine.execUnpk c d a bf s
  | .cvti c d a r src dst signed => Sys2Proof.Machine.execCvti c d a r src dst signed s
  | .cvtf c d a r dst src signed => Sys2Proof.Machine.execCvtf c d a r dst src signed s
  | .cvts c d a dst src sat => Sys2Proof.Machine.execCvts c d a dst src sat s
  | .rcp c d a => Sys2Proof.Machine.execRcp c d a s
  | .rsq c d a => Sys2Proof.Machine.execRsq c d a s
  | .sqrt c d a => Sys2Proof.Machine.execSqrt c d a s
  | .ex2 c d a => Sys2Proof.Machine.execEx2 c d a s
  | .lg2 c d a => Sys2Proof.Machine.execLg2 c d a s
  | .sin c d a => Sys2Proof.Machine.execSin c d a s
  | .cos c d a => Sys2Proof.Machine.execCos c d a s
  | .tanh c d a => Sys2Proof.Machine.execTanh c d a s
  | .ld c d a off sz sc cp => Sys2Proof.Machine.execLd c d a off sz sc cp s
  | .st c a b off sz sc cp ver => Sys2Proof.Machine.execSt c a b off sz sc cp ver s
  | .ldb c d a off sc cp => Sys2Proof.Machine.execLdb c d a off sc cp s
  | .stb c a b off sc cp ver => Sys2Proof.Machine.execStb c a b off sc cp ver s
  | .ldk c d a off wide sc cp => Sys2Proof.Machine.execLdk c d a off wide sc cp s
  | .stk c a b off wide sc cp => Sys2Proof.Machine.execStk c a b off wide sc cp s
  | .ldp c d a off sz peer => Sys2Proof.Machine.execLdp c d a off sz peer s
  | .stp c a b off sz peer => Sys2Proof.Machine.execStp c a b off sz peer s
  | .ldw c d a off sz => Sys2Proof.Machine.execLdw c d a off sz s
  | .atom c d a b off op ty sc => Sys2Proof.Machine.execAtom c d a b off op ty sc s
  | .atomc c d a b cc ty sc => Sys2Proof.Machine.execAtomc c d a b cc ty sc s
  | .fence c k sc => Sys2Proof.Machine.execFence c k sc s
  | .cflush c a off sc => Sys2Proof.Machine.execCflush c a off sc s
  | .cinv c a off sc => Sys2Proof.Machine.execCinv c a off sc s
  | .pref c a off l2 => Sys2Proof.Machine.execPref c a off l2 s
  | .seqr c d => Sys2Proof.Machine.execSeqr c d s
  | .tload c d a pitch cp => Sys2Proof.Machine.execTload c d a pitch cp s
  | .tstore c a b pitch cp => Sys2Proof.Machine.execTstore c a b pitch cp s
  | .tgather c d a b cp => Sys2Proof.Machine.execTgather c d a b cp s
  | .tscat c a b cc cp => Sys2Proof.Machine.execTscat c a b cc cp s
  | .tpeer c d a peer => Sys2Proof.Machine.execTpeer c d a peer s
  | .tfill c d a => Sys2Proof.Machine.execTfill c d a s
  | .coll c d a b op => Sys2Proof.Machine.execColl c d a b op s
  | .trel c d => Sys2Proof.Machine.execTrel c d s
  | .ppush c a q => Sys2Proof.Machine.execPpush c a q s
  | .ppop c d q => Sys2Proof.Machine.execPpop c d q s
  | .pstat c d q what => Sys2Proof.Machine.execPstat c d q what s
  | .pclose c q => Sys2Proof.Machine.execPclose c q s
  | .preopen c q => Sys2Proof.Machine.execPreopen c q s
  | .pwait c q filled => Sys2Proof.Machine.execPwait c q filled s
  | .mma c d a b last ad => Sys2Proof.Machine.execMma c d a b last ad s
  | .mmac c d a b fs last ad => Sys2Proof.Machine.execMmac c d a b fs last ad s
  | .accz c d => Sys2Proof.Machine.execAccz c d s
  | .accl c d a => Sys2Proof.Machine.execAccl c d a s
  | .accd c d a fs => Sys2Proof.Machine.execAccd c d a fs s
  | .adpf c a b what => Sys2Proof.Machine.execAdpf c a b what s
  | .barInit c d a => Sys2Proof.Machine.execBarInit c d a s
  | .barArrive c d => Sys2Proof.Machine.execBarArrive c d s
  | .barWait c d => Sys2Proof.Machine.execBarWait c d s
  | .waitc c a m => Sys2Proof.Machine.execWaitc c a m s
  | .baste c => Sys2Proof.Machine.execBaste c s
  | .hem c => Sys2Proof.Machine.execHem c s
  | .taskPublication core slot => Sys2Proof.Machine.execTaskPublication core slot s
  | .taskDiscard core slot => Sys2Proof.Machine.execTaskDiscard core slot s
  | .grow c n => Sys2Proof.Machine.execGrow c n s
  | .shrink c n => Sys2Proof.Machine.execShrink c n s
  | .sread c d r => Sys2Proof.Machine.execSread c d r s
  | .swrite c a r => Sys2Proof.Machine.execSwrite c a r s
  | .loadReply core slot op part ext => Sys2Proof.Machine.execLoadReply core slot op part ext s
  | .writeAcknowledgement req => Sys2Proof.Machine.execWriteAcknowledgement req s
  | .storeQueueEntryToL1 core quarter => Sys2Proof.Machine.execStoreQueueEntryToL1 core quarter s
  | .requestPortSend die port => Sys2Proof.Machine.execRequestPortSend die port s
  | .sliceAccept slice => Sys2Proof.Machine.execSliceAccept slice s
  | .sliceFillReturn req => Sys2Proof.Machine.execSliceFillReturn req s
  | .hbmSlotService ch corrected bad => Sys2Proof.Machine.execHbmSlotService ch corrected bad s
  | .dieLinkSlot x => Sys2Proof.Machine.execDieLinkSlot x s
  | .dieLinkFlitArrival x crcOk => Sys2Proof.Machine.execDieLinkFlitArrival x crcOk s
  | .translationWalk die index => Sys2Proof.Machine.execTranslationWalk die index s
  | .copyLineTransfer core eng => Sys2Proof.Machine.execCopyLineTransfer core eng s
  | .copyComplete core op => Sys2Proof.Machine.execCopyComplete core op s
  | .collResult group gen remote => Sys2Proof.Machine.execCollResult group gen remote s
  | .pipePushReserve plan pipe => Sys2Proof.Machine.execPipePushReserve plan pipe s
  | .pipePopReserve plan pipe => Sys2Proof.Machine.execPipePopReserve plan pipe s
  | .pipePushCommit core op => Sys2Proof.Machine.execPipePushCommit core op s
  | .pipePopComplete core op => Sys2Proof.Machine.execPipePopComplete core op s
  | .pipeCredit plan pipe filled => Sys2Proof.Machine.execPipeCredit plan pipe filled s
  | .pipeSpillComplete plan pipe => Sys2Proof.Machine.execPipeSpillComplete plan pipe s
  | .planStart plan => Sys2Proof.Machine.execPlanStart plan s
  | .planEnd plan => Sys2Proof.Machine.execPlanEnd plan s
  | .balancerSample => Sys2Proof.Machine.execBalancerSample s
  | .deadlockSample => Sys2Proof.Machine.execDeadlockSample s
  | .deadlockProbe pkg stage count plan atStage => Sys2Proof.Machine.execDeadlockProbe pkg stage count plan atStage s
  | .stageHalt plan => Sys2Proof.Machine.execStageHalt plan s
  | .qtailWrite q v => Sys2Proof.Machine.execQtailWrite q v s
  | .entryStart q => Sys2Proof.Machine.execEntryStart q s
  | .copyEntryComplete q seq => Sys2Proof.Machine.execCopyEntryComplete q seq s
  | .invalidationComplete q seq => Sys2Proof.Machine.execInvalidationComplete q seq s
  | .entryComplete q => Sys2Proof.Machine.execEntryComplete q s
  | .dispatchTurn die => Sys2Proof.Machine.execDispatchTurn die s
  | .boltEnd core bolt => Sys2Proof.Machine.execBoltEnd core bolt s
  | .gridComplete grid => Sys2Proof.Machine.execGridComplete grid s
  | .wsGateEnter die => Sys2Proof.Machine.execWsGateEnter die s
  | .wsRefreshWindowEnd die group => Sys2Proof.Machine.execWsRefreshWindowEnd die group s
  | .registerRequestGrant core => Sys2Proof.Machine.execRegisterRequestGrant core s
  | .registerDeadlockBreak core => Sys2Proof.Machine.execRegisterDeadlockBreak core s
  | .headRequestTimeout core => Sys2Proof.Machine.execHeadRequestTimeout core s
  | .granuleSpillComplete core => Sys2Proof.Machine.execGranuleSpillComplete core s
  | .granuleRefill core => Sys2Proof.Machine.execGranuleRefill core s
  | .baseKStep core slot => Sys2Proof.Machine.execBaseKStep core slot s
  | .hitLastTerms core slot => Sys2Proof.Machine.execHitLastTerms core slot s
  | .adapterChunkFill core slot fill => Sys2Proof.Machine.execAdapterChunkFill core slot fill s
  | .replayIdentifierWork core slot => Sys2Proof.Machine.execReplayIdentifierWork core slot s
  | .matrixRetire core slot => Sys2Proof.Machine.execMatrixRetire core slot s
  | .boltPark core bolt => Sys2Proof.Machine.execBoltPark core bolt s
  | .boltStop core bolt => Sys2Proof.Machine.execBoltStop core bolt s
  | .contextRestore die grid => Sys2Proof.Machine.execContextRestore die grid s
  | .thermalMigration die => Sys2Proof.Machine.execThermalMigration die s
  | .stopreqWrite q seq => Sys2Proof.Machine.execStopreqWrite q seq s
  | .debugHalt => Sys2Proof.Machine.execDebugHalt s
  | .debugResume => Sys2Proof.Machine.execDebugResume s
  | .debugSnapshot => Sys2Proof.Machine.execDebugSnapshot s
  | .debugReload => Sys2Proof.Machine.execDebugReload s
  | .debugStep => Sys2Proof.Machine.execDebugStep s
  | .debugPark => Sys2Proof.Machine.execDebugPark s
  | .chcommit => Sys2Proof.Machine.execChcommit s
  | .channelSlotCommitApply => Sys2Proof.Machine.execChannelSlotCommitApply s
  | .fabcommit => Sys2Proof.Machine.execFabcommit s
  | .fabricCommitApply => Sys2Proof.Machine.execFabricCommitApply s
  | .ualcommit => Sys2Proof.Machine.execUalcommit s
  | .ualinkCommitApply => Sys2Proof.Machine.execUalinkCommitApply s
  | .partcommit => Sys2Proof.Machine.execPartcommit s
  | .partitionCommitApply => Sys2Proof.Machine.execPartitionCommitApply s
  | .ualctlRoll x => Sys2Proof.Machine.execUalctlRoll x s
  | .keyAgreementComplete x ok => Sys2Proof.Machine.execKeyAgreementComplete x ok s
  | .keyRetire x => Sys2Proof.Machine.execKeyRetire x s
  | .ualinkFlitReceive x tagOk epoch acked nacked flit => Sys2Proof.Machine.execUalinkFlitReceive x tagOk epoch acked nacked flit s
  | .ualinkPortChange x up => Sys2Proof.Machine.execUalinkPortChange x up s
  | .attctlRequest => Sys2Proof.Machine.execAttctlRequest s
  | .attestationComplete report => Sys2Proof.Machine.execAttestationComplete report s
  | .hostMemoryWrite pa bytes relaxed => Sys2Proof.Machine.execHostMemoryWrite pa bytes relaxed s
  | .hostMemoryRead pa len => Sys2Proof.Machine.execHostMemoryRead pa len s
  | .hostAtomic pa op wide x y => Sys2Proof.Machine.execHostAtomic pa op wide x y s
  | .ualinkInboundWrite vc => Sys2Proof.Machine.execUalinkInboundWrite vc s
  | .registerWrite off wide v => Sys2Proof.Machine.execRegisterWrite off wide v s
  | .resetRelease => Sys2Proof.Machine.execResetRelease s
  | .firmwareVerifyDone rsaOk slhOk version => Sys2Proof.Machine.execFirmwareVerifyDone rsaOk slhOk version s
  | .calibrationDone r => Sys2Proof.Machine.execCalibrationDone r s
  | .initialisationDone => Sys2Proof.Machine.execInitialisationDone s
  | .sensorRefresh temps pwr energy ages => Sys2Proof.Machine.execSensorRefresh temps pwr energy ages s
  | .thermalTrip sensor => Sys2Proof.Machine.execThermalTrip sensor s
  | .ageReplan die => Sys2Proof.Machine.execAgeReplan die s
  | .specialFunctionResult core slot op => Sys2Proof.Machine.execSpecialFunctionResult core slot op s
  | .sliceHitReply req => Sys2Proof.Machine.execSliceHitReply req s
  | .adapterEntriesRead core slot => Sys2Proof.Machine.execAdapterEntriesRead core slot s
  | .ualinkPortSlot x => Sys2Proof.Machine.execUalinkPortSlot x s
  | .ualinkInboundReadAtomic vc => Sys2Proof.Machine.execUalinkInboundReadAtomic vc s
  | .cxlCacheSnoop pa => Sys2Proof.Machine.execCxlCacheSnoop pa s
  | .pipeHomeStateChange plan pipe => Sys2Proof.Machine.execPipeHomeStateChange plan pipe s

end Sys2Proof.Machine
end

