-- ==== Sys2Proof/Machine/Issue.lean ====
section
/-! DEFINITION. An issue slot of a quarter: clauses start, paths that cannot issue wait, and one ready path issues its next instruction
word (spec/02 R35, R36, 14 R342, 16 R391, R392). -/

namespace Sys2Proof.Machine

/-- A path goes on: it fetches and starts its next clause, or runs its next word (R35, R36, R361). DESIGN CHOICE, log entry 71. -/
def runPath (core slot path : Nat) (s : State) : Host.Outcome State Fault Refusal :=
  let s := { s with cur := some { core := core, slot := slot, path := path, lanes := none } }
  match pathOf s core slot path with
  | none => .next s
  | some pa =>
    match pa.clause with
    | none => match fetchHeader core slot path s with
      | .header h s => exec (.clauseIssue h) s
      | .done s => .next s
    | some c => match nextWord pa c with
      | .word w lanes => match decodeWord w with
        | .ok i => exec i { s with cur := some { core := core, slot := slot, path := path, lanes := lanes } }
        | .error _ => .next (trapAt core slot path (pathPc pa) 0 { code := 0x01 } s)
      | .stitchEnd => match ctxOf s with
        | some x => .next (stitchRetire x s)
        | none => .next s
      | .none => .next s
/-- The path holds a clause: it would issue an instruction, where a path without one starts a clause. -/
def inClause (s : State) (core slot path : Nat) : Bool := ((pathOf s core slot path).bind Path.clause).isSome
/-- The instruction that a path tried waits at issue: the path stands where it stood (R342). -/
def waits (core slot path : Nat) (before after : State) : Bool :=
  match pathOf before core slot path, pathOf after core slot path with
  | some a, some b => b.wait.isSome && decide (a.pc = b.pc) && decide (a.clause = b.clause) && decide (a.stitch = b.stitch)
  | _, _ => false
/-- What the candidates do in an issue slot before one issues: a path without a clause starts its next, one whose instruction cannot
issue waits, and the others are ready (R342). -/
def prepare (core : Nat) (cands : List (Nat × Nat)) (s : State) : List (Nat × Nat) × State :=
  cands.foldl (fun (a : List (Nat × Nat) × State) e =>
    if !mayIssue a.2 core e.1 e.2 then a
    else match runPath core e.1 e.2 a.2 with
      | .next t => if !inClause a.2 core e.1 e.2 || waits core e.1 e.2 a.2 t then (a.1, t) else (a.1 ++ [e], a.2)
      | _ => (a.1 ++ [e], a.2)) ([], s)
/-- An issue slot of a quarter: one of its ready paths issues (R391, R392). `free` names the paths that no interlock of the operand
delivery holds back. DESIGN CHOICE, log entry 7. -/
def issueSlot (core q : Nat) (free : List (Nat × Nat)) (s : State) : Host.Outcome State Fault Refusal :=
  let (ready, s) := prepare core (free.filter (fun e => quarterOf e.1 = q)) (controlTurn core q s)
  match chooseIssue s core ready with
  | none => .next (clearYields core q s)
  | some (slot, path) =>
    match runPath core slot path (ageAfter core q ready slot path (clearYields core q s)) with
    | .next t => .next (afterIssue core slot path s t)
    | .fault f => .fault f
    | .refused r => .refused r
/-- The reference count and the core clocks advance (R101, R442), once what is due at the present count has been done. DESIGN CHOICE, log
entry 6. -/
def tickClock (s : State) : State :=
  let s := beforeTick s
  { s with clock := s.clock + 1, cores := s.cores.map (fun e => (e.1, { e.2 with phase := e.2.phase + e.2.clockN })) }

end Sys2Proof.Machine
end

