-- ==== Sys2Proof/Machine/Step.lean ====
section
/-! DEFINITION. One step of the machine: the head of the schedule names the agent that moves; a path issues its next
instruction word, a device agent makes its step, or the reference count advances. -/

namespace Sys2Proof.Machine

/-- One move. A code instruction is never a move of a device agent. DESIGN CHOICE, log entry 4. DEDUCED, log entry 20. DESIGN CHOICE, log entry 71. -/
def runMove (m : Move) (s : State) : Host.Outcome State Fault Refusal :=
  match m with
  | .slot core q ready => issueSlot core q ready s
  | .event i => if i.isCode || !i.wf then .next s else exec i s
  | .tick => .next (tickClock s)

/-- One step of the machine. With nothing scheduled, the next move is free (DESIGN CHOICE, log entry 4). -/
def step (s : State) : Host.Outcome State Fault Refusal :=
  match s.schedule with
  | m :: r => runMove m { s with schedule := r }
  | [] => runMove (Config.freeMove s.moves) { s with moves := s.moves + 1 }

/-- A skein in slot 0 of core 0 that is about to issue the word: as the next word of the clause it holds, or, for a clause
header, from memory at PC 0 of a code base at virtual and physical address 0, whose line the fetch has brought. DESIGN CHOICE, log entry 8. -/
def State.withFetchWord (s : State) (_nbits w : Nat) : State :=
  let word : IWord := BitVec.ofNat 96 w
  let pa : Path := { pc := 0, mask := allLanes, win := ⟨0, 240⟩
                     clause := if word.extractLsb' 0 8 = 0 then none else some { words := [word], pos := 0, set1 := some 0, set2 := some 1 } }
  let sk : Skein := { bolt := 1, index := 0, globals := 16, paths := [(0, pa)] }
  let page : TlbEntry := { ctx := 0, va := 0, size := 65536, pa := 0, type := 0, x := true, w := true }
  let core : Core := { skeins := [(0, sk)], bolts := [(1, { grid := 0, block := 0, slots := [0], accs := List.range 32 })], tlb := [page] }
  { s with cores := NMap.insert s.cores 0 core
           mem := memWrite s.mem 0 (leBytes 12 w)
           lines := s.lines ++ [{ agent := .fetch 0 0 0, line := 0, data := lineOf 0 (leBytes 12 w), poison := 0 }]
           dev := { s.dev with hbmStacks := s.dev.hbmStacks ||| 1 }
           schedule := [.slot 0 0 [(0, 0)]] }

end Sys2Proof.Machine
end

