-- ==== Sys2Proof/Safety.lean ====
section
/-! DEFINITION. What a safe step is, and the terms in which claims are stated: when an instruction passes the checks of its
issue, and how the registers of its skein look afterwards. -/

namespace Sys2Proof.Machine

/-- A step from this state answers a next state. -/
def StepsOn (s : State) : Prop := ∃ t, step s = .next t

/-- The memory of a state is in its canonical form. -/
def MemOk (s : State) : Prop := Memory.wf s.mem = true

/-- The instruction in hand with its active set: the running lanes in which the guard holds (R9). -/
def activeCtx (x : Ctx) (c : Ctl) : Ctx := { x with act := guardLanes x c }

/-- The registers that an instruction reads carry no poison that it meets: no mark at all, or, of one for which a mark counts in an active lane
only and of a word of a STITCH, none in an active lane (R219, R220, R288, R366). -/
def clean (k : Checks) (u : RU) (x : Ctx) (act : LMask) : Bool :=
  u.rv.all (fun n => (NMap.get? x.sk.vmarks (vkey x.pa.win n)).all (fun m => (k.activeMarks || x.inWord) && decide (m &&& act = 0))) &&
  u.rk.all (fun n => decide (n ∉ x.sk.kmarks))

/-- An instruction with guard and convergence conditions `k` that names the registers `u` passes the checks that every
instruction meets at issue: it acts for a path of a resident skein; its guard holds in some running lane, in all of them for a
collective one (R9, R343); the skein is single-path or all lanes are active where it must be (R312); the vector registers it
names are globals or lie in the window (R194); its accumulators are allotted (R195); no word of the same STITCH has still to
write a register it names (R361); in debug mode nothing has (R409); no register it reads carries poison (R220). -/
abbrev Ready (k : Checks) (u : RU) (c : Ctl) (x : Ctx) (s : State) : Prop :=
  ctxOf s = some x ∧ guardLanes x c ≠ 0 ∧ (k.guard = .coll → guardLanes x c = x.lanes ∨ x.depth ≠ 0) ∧
  (k.single = true → x.sk.paths.length = 1) ∧ (k.full = true → guardLanes x c = allLanes) ∧
  ((u.rv ++ u.wv).all (vOkIn x.sk.globals x.pa.win) = true) ∧
  (k.accs.all (fun n => decide (n < (boltAccs s x.core x.sk.bolt).length)) = true) ∧
  wordBusy x u = false ∧ pendingRead x u s = false ∧ clean k u x (guardLanes x c) = true

/-- Registers of a skein before and after: `V key lane`, `K n` and `P n lane` give what is written, and nothing else of the skein
changes. A uniform register written, and a vector register not written, keep to R220: the one loses its mark, the other keeps
its own. -/
def RegsBecome (x : Ctx) (sk' : Skein) (V : Nat → Nat → Option Word) (K : Nat → Option Word) (P : Nat → Nat → Option Bool) : Prop :=
  sk' = { x.sk with vregs := sk'.vregs, vmarks := sk'.vmarks, kregs := sk'.kregs, kmarks := sk'.kmarks, preds := sk'.preds } ∧
  (∀ key l, l < 128 → vlane (vget sk' key) l = (V key l).getD (vlane (vget x.sk key) l)) ∧
  (∀ n, kget sk' n = (K n).getD (kget x.sk n)) ∧
  (∀ n l, l < 128 → (pget sk' n).getLsbD l = (P n l).getD ((pget x.sk n).getLsbD l)) ∧
  (∀ key, (∀ l, V key l = none) → NMap.get? sk'.vmarks key = NMap.get? x.sk.vmarks key) ∧
  (∀ n, n ∈ sk'.kmarks ↔ n ∈ x.sk.kmarks ∧ K n = none)

/-- What a destination of `w` registers takes in a vector register: the active lanes of D and D+1 (R9, R257). -/
def destV (x : Ctx) (w : Nat) (d : VK) (f : Nat → DWord) (key l : Nat) : Option Word :=
  match d with
  | .k _ => none
  | .v n => if x.act.getLsbD l then
      (if key = vkey x.pa.win n then some (loWord (f l)) else if w = 2 ∧ key = vkey x.pa.win (n + 1) then some (hiWord (f l)) else none)
    else none
/-- What it takes in a uniform register: the value of the lowest active lane (R257). -/
def destK (x : Ctx) (w : Nat) (d : VK) (f : Nat → DWord) (m : Nat) : Option Word :=
  match d with
  | .v _ => none
  | .k n => if m = n then some (loWord (f (oneOf x))) else if w = 2 ∧ m = n + 1 then some (hiWord (f (oneOf x))) else none
/-- What a predicate destination takes; p7 discards writes (R190). -/
def destP (x : Ctx) (p : Nat) (f : Nat → Bool) (m l : Nat) : Option Bool :=
  if m = p ∧ p ≠ 7 ∧ x.act.getLsbD l then some (f l) else none
def noV (_ _ : Nat) : Option Word := none
def noK (_ : Nat) : Option Word := none
def noP (_ _ : Nat) : Option Bool := none

/-- The instruction completes: the skein's registers become as said, the path steps past the instruction, and nothing else of the
machine changes. -/
def Becomes (i : Instr) (x : Ctx) (s : State) (V : Nat → Nat → Option Word) (K : Nat → Option Word) (P : Nat → Nat → Option Bool) : Prop :=
  ∃ sk', exec i s = .next (retire x (setSkein s x.core x.slot sk')) ∧ RegsBecome x sk' V K P
/-- It completes with `f` in its destination. -/
def Gives (i : Instr) (x : Ctx) (s : State) (w : Nat) (d : VK) (f : Nat → DWord) : Prop :=
  Becomes i x s (destV x w d f) (destK x w d f) noP
/-- It completes with a value in its destination that meets a condition in every active lane. -/
def GivesSome (i : Instr) (x : Ctx) (s : State) (w : Nat) (d : VK) (p : Nat → DWord → Prop) : Prop :=
  ∃ f, (∀ l, x.act.getLsbD l = true → p l (f l)) ∧ Gives i x s w d f
/-- It completes with `f` in its destination predicate. -/
def GivesP (i : Instr) (x : Ctx) (s : State) (p : Nat) (f : Nat → Bool) : Prop := Becomes i x s noV noK (destP x p f)

/-! Operations of a slow class (R36). -/

/-- The path after its instruction has issued, with the flag the instruction selects counting the operation `op`. -/
def pathBegun (x : Ctx) (c : Ctl) (op : Nat) (pa : Path) : Path :=
  let pa := match flagOf x c with
    | some f => { pa with flagOps := pa.flagOps ++ [(f, op)] }
    | none => pa
  { (if x.inWord then dropGroup pa else advancePath pa) with wait := none, watchPass := false }
/-- The skein with an operation begun: listed under its number, counted on its counter and on the flag the instruction selects;
its registers are as before. -/
def skeinBegun (x : Ctx) (c : Ctl) (op : Nat) (o : Op) : Skein :=
  { x.sk with
    ops := NMap.insert x.sk.ops op o
    counters := match o.counter with
      | some n => x.sk.counters.set n (x.sk.counters.getD n 0 + 1)
      | none => x.sk.counters
    paths := nupdate x.sk.paths x.path (pathBegun x c op) }
/-- The instruction completes by beginning the operation `o`; nothing else of the machine changes. -/
def Begins (i : Instr) (c : Ctl) (x : Ctx) (s : State) (o : Op) : Prop :=
  exec i s = .next { setSkein s x.core x.slot (skeinBegun x c s.nextId { o with path := x.path, fromStitch := x.inWord }) with nextId := s.nextId + 1 }
/-- It begins an operation that will write `f` to its destination. -/
def BeginsSlow (i : Instr) (c : Ctl) (x : Ctx) (s : State) (w : Nat) (d : VK) (f : Nat → DWord) : Prop :=
  Begins i c x s { cls := .special, path := x.path, pend := pendOf x (Instr.use i), body := .result (delayed x w d f) }

/-! Integer results (R53, R54). -/

/-- `v` is the integer of type T congruent to `x` (R54, WrapInt). -/
def IsWrap (ty : IType) (x v : Int) : Prop := itMin ty ≤ v ∧ v ≤ itMax ty ∧ (2 ^ itWidth ty : Int) ∣ x - v
/-- `v` is the integer of type T nearest to `x` (R54, SatInt). -/
def IsSat (ty : IType) (x v : Int) : Prop :=
  (x < itMin ty → v = itMin ty) ∧ (itMax ty < x → v = itMax ty) ∧ (itMin ty ≤ x → x ≤ itMax ty → v = x)
/-- A register or pair holds the integer `v` in two's complement. -/
def Holds (r : DWord) (v : Int) : Prop := r = BitVec.ofInt 64 v
/-- A register holds an exact result after Wrap, or after Sat with `.sat` (R260). -/
def HoldsResult (m : IMod) (x : Int) (r : DWord) : Prop := ∃ v, Holds r v ∧ (if m.sat then IsSat m.ty x v else IsWrap m.ty x v)
/-- A register holds an n-bit pattern read as T and extended (R53). -/
def HoldsPat (ty : IType) (p : Nat) (r : DWord) : Prop := ∃ v, Holds r v ∧ IsWrap ty (Int.ofNat p) v

/-! Control flow and memory. -/

/-- From `s` to `t` one skein changes, with its register requests and the spills ordered of its positions, and nothing else of the machine. -/
abbrev OnlySkein (x : Ctx) (s t : State) : Prop :=
  t = { s with cores := t.cores } ∧ (∀ n, n ≠ x.core → coreOf t n = coreOf s n) ∧
  coreOf t x.core = { coreOf s x.core with skeins := (coreOf t x.core).skeins, regReqs := (coreOf t x.core).regReqs
                                           spillQ := (coreOf t x.core).spillQ, spillSent := (coreOf t x.core).spillSent } ∧
  (∀ r : RegRequest, r.slot ≠ x.slot → (r ∈ (coreOf t x.core).regReqs ↔ r ∈ (coreOf s x.core).regReqs)) ∧
  (∀ e : Nat × Nat, e.1 ≠ x.slot → (e ∈ (coreOf t x.core).spillQ ↔ e ∈ (coreOf s x.core).spillQ)) ∧
  ∀ k, k ≠ x.slot → skeinOf t x.core k = skeinOf s x.core k
/-- A control-flow instruction completes: its skein becomes `sk'`, and only it changes. -/
abbrev Controls (i : Instr) (x : Ctx) (s : State) (sk' : Skein) : Prop :=
  ∃ t, exec i s = .next t ∧ OnlySkein x s t ∧ skeinOf t x.core x.slot = some sk'
/-- The stack entries and frame records of a skein lie in the device, with room for so many more of each: none is to be spilled (R340). -/
abbrev StacksFit (sk : Skein) (entries records : Nat) : Prop :=
  entryCount sk + entries ≤ 32 ∧ sk.records.length + records ≤ 16 ∧ sk.deep = (0, 0)
/-- With the lanes `m` gone too, every join entry and every frame record of the skein still waits for a lane (R341). -/
abbrev AllWait (sk : Skein) (m : LMask) : Prop :=
  (∀ pc e a w t, .join pc e a w t ∈ sk.stack ++ sk.paths.flatMap (fun p => p.2.own) →
    ∃ l, e.getLsbD l = true ∧ (sk.exited ||| m).getLsbD l = false ∧ a.getLsbD l = false) ∧
  ∀ r ∈ sk.records, ∃ l, r.call.getLsbD l = true ∧ (sk.exited ||| m).getLsbD l = false ∧ r.arrived.getLsbD l = false
/-- A lane runs, or waits as a pending entry, at a PC under a window. -/
def Placed (sk : Skein) (l pc : Nat) (w : Win) : Prop :=
  (∃ m, StkEntry.pend pc m w ∈ sk.stack ∧ m.getLsbD l = true) ∨
  ∃ e ∈ sk.paths, (e.2.mask.getLsbD l = true ∧ e.2.pc = pc ∧ e.2.win = w ∧ e.2.clause = none) ∨
    ∃ m, StkEntry.pend pc m w ∈ e.2.own ∧ m.getLsbD l = true

/-- An access passes its checks (R219): nothing holds it back; its addresses are canonical and aligned; `xs` are its lanes with
the translations that the core's translation cache gives, of the permitted use; no watchpoint matches (R410). -/
abbrev Accesses (x : Ctx) (c : Ctl) (k : Access) (bases acc : List (Nat × Nat)) (s : State) (xs : Passed) : Prop :=
  memHeld x k.rel k.acq = false ∧ flagRoom x c = true ∧
  (∀ e ∈ bases ++ acc, canonical e.2 = true) ∧ (∀ e ∈ bases, e.2 % k.align = 0) ∧
  xs.map (fun e => (e.1, e.2.1)) = acc ∧
  (∀ e ∈ xs, ∃ p y, tlbFind (coreOf s x.core).tlb (x.launch s).ctx (va57 e.2.1) = some p ∧
    tlbAccess p (va57 e.2.1) k.kind = .ok y ∧ useCheck s x.die y k.use = .ok e.2.2) ∧
  (∀ i, i < 8 → watchLane s x k.reads k.writes k.size i acc = none)

end Sys2Proof.Machine
end

