-- ==== Sys2Proof/Certificates/Slice0/Obligations.lean ====
section
/-! DEFINITION. The statements for the provers. -/

open Sys2Proof Sys2Proof.Machine

/-! Integer instructions (spec/11). -/

/-- R260, R262: ADD, SUB, MUL, MULH, MAD, MADW, MIN, MAX, ABS, NEG and SAD complete with the exact result wrapped or saturated,
and change nothing but their destination. -/
def Obligations.IntegerArithmetic : Prop :=
  ∀ (c : Ctl) (d : VK) (a b : Src) (cc : VK) (m : IMod) (s : State) (x : Ctx),
    let y := activeCtx x c
    let A := srcInt y m.ty a
    let B := srcInt y m.ty b
    (Ready {} (Instr.use (.add c d a b m)) c x s → GivesSome (.add c d a b m) y s m.ty.regs d (fun l => HoldsResult m (A l + B l))) ∧
    (Ready {} (Instr.use (.sub c d a b m)) c x s → GivesSome (.sub c d a b m) y s m.ty.regs d (fun l => HoldsResult m (A l - B l))) ∧
    (Ready {} (Instr.use (.mul c d a b m)) c x s → GivesSome (.mul c d a b m) y s m.ty.regs d (fun l => HoldsResult m (A l * B l))) ∧
    (Ready {} (Instr.use (.mulh c d a b m)) c x s → GivesSome (.mulh c d a b m) y s m.ty.regs d (fun l r =>
      ∃ v, Holds r v ∧ v * 2 ^ itWidth m.ty ≤ A l * B l ∧ A l * B l < (v + 1) * 2 ^ itWidth m.ty)) ∧
    (Ready {} (Instr.use (.mad c d a b cc m)) c x s →
      GivesSome (.mad c d a b cc m) y s m.ty.regs d (fun l => HoldsResult m (A l * B l + vkInt y m.ty cc l))) ∧
    (Ready {} (Instr.use (.madw c d a b cc m)) c x s → GivesSome (.madw c d a b cc m) y s 2 d (fun l =>
      HoldsResult ⟨if itSigned m.ty then .i64 else .n64, m.sat⟩ (A l * B l + vkInt y (if itSigned m.ty then .i64 else .n64) cc l))) ∧
    (Ready {} (Instr.use (.min c d a b m)) c x s → GivesSome (.min c d a b m) y s m.ty.regs d (fun l r =>
      ∃ v, Holds r v ∧ v ≤ A l ∧ v ≤ B l ∧ (v = A l ∨ v = B l))) ∧
    (Ready {} (Instr.use (.max c d a b m)) c x s → GivesSome (.max c d a b m) y s m.ty.regs d (fun l r =>
      ∃ v, Holds r v ∧ A l ≤ v ∧ B l ≤ v ∧ (v = A l ∨ v = B l))) ∧
    (Ready {} (Instr.use (.abs c d a m)) c x s → GivesSome (.abs c d a m) y s m.ty.regs d (fun l => HoldsResult m (if A l < 0 then -A l else A l))) ∧
    (Ready {} (Instr.use (.neg c d a m)) c x s → GivesSome (.neg c d a m) y s m.ty.regs d (fun l => HoldsResult m (-A l))) ∧
    (Ready {} (Instr.use (.sad c d a b cc m)) c x s → GivesSome (.sad c d a b cc m) y s m.ty.regs d (fun l =>
      HoldsResult m ((if A l < B l then B l - A l else A l - B l) + vkInt y m.ty cc l)))

/-- R261: ADDC and SUBC complete with the n-bit sum or difference and write the carry or borrow out beside it. For a uniform destination the
carry or borrow in is that of the lowest active lane: the model's reading, log entry 12. -/
def Obligations.CarryChain : Prop :=
  ∀ (c : Ctl) (d : VK) (a b : Src) (p : Nat) (ty : IType) (s : State) (x : Ctx),
    let y := activeCtx x c
    let ci := fun l => if (pget x.sk p).getLsbD l then 1 else 0
    let A := srcPat y ty a
    let B := srcPat y ty b
    (Ready {} (Instr.use (.addc c d a b p ty)) c x s → ∃ f,
      (∀ l, HoldsPat ty (A l + B l + ci l) (f l)) ∧
      Becomes (.addc c d a b p ty) y s (destV y ty.regs d f) (destK y ty.regs d f)
        (destP y p (fun l => decide (2 ^ itWidth ty ≤ A l + B l + ci l)))) ∧
    (Ready {} (Instr.use (.subc c d a b p ty)) c x s → ∃ f,
      (∀ l, ∃ v, Holds (f l) v ∧ IsWrap ty (Int.ofNat (A l) - Int.ofNat (B l) - Int.ofNat (ci l)) v) ∧
      Becomes (.subc c d a b p ty) y s (destV y ty.regs d f) (destK y ty.regs d f)
        (destP y p (fun l => decide (Int.ofNat (A l) - Int.ofNat (B l) - Int.ofNat (ci l) < 0))))

/-- R264, R265: the shifts and the rotation complete with the shifted pattern, for every count; CLZ, POPC and BREV with the count of leading
zeros, the count of ones, and the reversed pattern. -/
def Obligations.ShiftsAndBitCounts : Prop :=
  ∀ (c : Ctl) (d : VK) (a b : Src) (m : IMod) (s : State) (x : Ctx),
    let y := activeCtx x c
    let n := itWidth m.ty
    let pat := srcPat y m.ty a
    let cnt := fun l => (srcWord y b l).toNat
    (Ready {} (Instr.use (.shl c d a b m)) c x s → GivesSome (.shl c d a b m) y s m.ty.regs d (fun l r =>
      (m.sat = true → ∃ v, Holds r v ∧ IsSat m.ty (srcInt y m.ty a l * 2 ^ cnt l) v) ∧
      (m.sat = false → HoldsPat m.ty (if n ≤ cnt l then 0 else pat l * 2 ^ cnt l % 2 ^ n) r))) ∧
    (Ready {} (Instr.use (.shr c d a b m)) c x s → GivesSome (.shr c d a b m) y s m.ty.regs d (fun l r =>
      HoldsPat m.ty (if n ≤ cnt l then 0 else pat l / 2 ^ cnt l) r)) ∧
    (Ready {} (Instr.use (.sar c d a b m)) c x s → GivesSome (.sar c d a b m) y s m.ty.regs d (fun l r =>
      ∃ q : Nat, HoldsPat m.ty q r ∧ q < 2 ^ n ∧
        ∀ i, i < n → q.testBit i = (if i + cnt l < n then (pat l).testBit (i + cnt l) else (pat l).testBit (n - 1)))) ∧
    (Ready {} (Instr.use (.rot c d a b m)) c x s → GivesSome (.rot c d a b m) y s m.ty.regs d (fun l r =>
      ∃ q : Nat, HoldsPat m.ty q r ∧ q < 2 ^ n ∧ ∀ i, i < n → q.testBit ((i + cnt l) % n) = (pat l).testBit i)) ∧
    (Ready {} (Instr.use (.clz c d a m)) c x s → GivesSome (.clz c d a m) y s m.ty.regs d (fun l r =>
      r.toNat ≤ n ∧ pat l < 2 ^ (n - r.toNat) ∧ (r.toNat < n → 2 ^ (n - 1 - r.toNat) ≤ pat l))) ∧
    (Ready {} (Instr.use (.popc c d a m)) c x s → GivesSome (.popc c d a m) y s m.ty.regs d (fun l r =>
      r.toNat = ((Finset.range n).filter (fun i => (pat l).testBit i = true)).card)) ∧
    (Ready {} (Instr.use (.brev c d a m)) c x s → GivesSome (.brev c d a m) y s m.ty.regs d (fun l r =>
      ∃ q : Nat, HoldsPat m.ty q r ∧ q < 2 ^ n ∧ ∀ i, i < n → q.testBit i = (pat l).testBit (n - 1 - i)))

/-- R263, R36: DIV and REM begin an operation that will write the quotient or remainder, truncated toward zero, with the special cases of
11 Table 3; until SPECIAL_FUNCTION_RESULT the registers keep their values. SPECIAL_FUNCTION_RESULT writes the result of an operation
that DIV, REM or a special function began, and completes it; nothing else of the machine changes. -/
def Obligations.Division : Prop :=
  (∀ (c : Ctl) (d : VK) (a b : Src) (m : IMod) (s : State) (x : Ctx),
    let y := activeCtx x c
    let T := m.ty
    let A := srcInt y T a
    let B := srcInt y T b
    flagRoom x c = true →
    (Ready {} (Instr.use (.div c d a b m)) c x s → ∃ f, BeginsSlow (.div c d a b m) c y s T.regs d f ∧ ∀ l, ∃ v, Holds (f l) v ∧
      (B l = 0 → v = if itSigned T ∧ A l < 0 then itMin T else itMax T) ∧
      (itSigned T ∧ A l = itMin T ∧ B l = -1 → v = if m.sat then itMax T else itMin T) ∧
      (B l ≠ 0 ∧ ¬(itSigned T ∧ A l = itMin T ∧ B l = -1) → v = Int.tdiv (A l) (B l))) ∧
    (Ready {} (Instr.use (.rem c d a b m)) c x s → ∃ f, BeginsSlow (.rem c d a b m) c y s T.regs d f ∧ ∀ l, ∃ v, Holds (f l) v ∧
      (B l = 0 → v = A l) ∧ (B l ≠ 0 → v = A l - B l * Int.tdiv (A l) (B l)))) ∧
  (∀ (x : Ctx) (s : State) (op w : Nat) (d : VK) (f : Nat → DWord) (o : Op), x.act ≠ 0 → skeinOf s x.core x.slot = some x.sk →
    NMap.get? x.sk.ops op = some o → o.body = .result (delayed x w d f) →
    ∃ sk', exec (.specialFunctionResult x.core x.slot op) s = .next (setSkein s x.core x.slot (finishOpSk sk' op)) ∧
      RegsBecome x sk' (destV x w d f) (destK x w d f) noP)


/-- R266 to R271: CMP, SEL, MOV, MOVK, LEA and IDX. SEL with a uniform destination reads the predicate of the lowest active lane, and IDX gives
that lane (log entry 12); LEA extends an immediate A with zeros (log entry 14): the model's readings. -/
def Obligations.MovesAndCompares : Prop :=
  ∀ (c : Ctl) (d : VK) (a b : Src) (p n k : Nat) (cc : ICond) (m : IMod) (wide signed : Bool) (what : IdxWhat) (s : State) (x : Ctx),
    let y := activeCtx x c
    let T := m.ty
    (Ready {} (Instr.use (.cmp c p a b cc m)) c x s → GivesP (.cmp c p a b cc m) y s p (fun l =>
      match cc with
      | .eq => decide (srcPat y T a l = srcPat y T b l)
      | .ne => decide (srcPat y T a l ≠ srcPat y T b l)
      | .lt => decide (srcInt y T a l < srcInt y T b l)
      | .le => decide (srcInt y T a l ≤ srcInt y T b l)
      | .gt => decide (srcInt y T a l > srcInt y T b l)
      | .ge => decide (srcInt y T a l ≥ srcInt y T b l))) ∧
    (Ready {} (Instr.use (.sel c d a b p T)) c x s → GivesSome (.sel c d a b p T) y s T.regs d (fun l r =>
      r = if (pget x.sk p).getLsbD l then srcBits y T a l else srcBits y T b l)) ∧
    (Ready {} (Instr.use (.mov c d a wide)) c x s → GivesSome (.mov c d a wide) y s (wideRegs wide) d (fun l r =>
      r = if wide then srcPair y false a l else (srcWord y a l).setWidth 64)) ∧
    (Ready {} (Instr.use (.movk c n k b)) c x s → GivesSome (.movk c n k b) y s 1 (.k n) (fun l r =>
      loWord r = vRead y k ((srcWord y b l).toNat % 128))) ∧
    (Ready {} (Instr.use (.lea c d a b signed n)) c x s → GivesSome (.lea c d a b signed n) y s 2 d (fun l r =>
      r = srcPair y false a l + (if signed then (srcWord y b l).signExtend 64 else (srcWord y b l).setWidth 64) * BitVec.ofNat 64 (2 ^ n))) ∧
    (Ready {} (Instr.use (.idx c d a what)) c x s → GivesSome (.idx c d a what) y s 1 d (fun l r =>
      loWord r = srcWord y a l + BitVec.ofNat 32 (match what with
        | .lane => l
        | .bolt => 128 * x.sk.index + l
        | .sub => blockOf s x - firstBlock s x
        | .grid => blockOf s x)))

/-- R272 to R275: the bitwise instructions, TLUT, BFX, BFI and BPICK, bit by bit. -/
def Obligations.LogicAndFields : Prop :=
  ∀ (c : Ctl) (d : VK) (a b : Src) (cc : VK) (wide : Bool) (tbl : BitVec 8) (ty : IType) (s : State) (x : Ctx),
    let y := activeCtx x c
    let A := fun l => if wide then srcPair y false a l else (srcWord y a l).setWidth 64
    let B := fun l => if wide then srcPair y false b l else (srcWord y b l).setWidth 64
    let N := if wide then 64 else 32
    (Ready {} (Instr.use (.and c d a b wide)) c x s → GivesSome (.and c d a b wide) y s (wideRegs wide) d (fun l r =>
      ∀ i, i < N → r.getLsbD i = ((A l).getLsbD i && (B l).getLsbD i))) ∧
    (Ready {} (Instr.use (.or c d a b wide)) c x s → GivesSome (.or c d a b wide) y s (wideRegs wide) d (fun l r =>
      ∀ i, i < N → r.getLsbD i = ((A l).getLsbD i || (B l).getLsbD i))) ∧
    (Ready {} (Instr.use (.xor c d a b wide)) c x s → GivesSome (.xor c d a b wide) y s (wideRegs wide) d (fun l r =>
      ∀ i, i < N → r.getLsbD i = ((A l).getLsbD i != (B l).getLsbD i))) ∧
    (Ready {} (Instr.use (.not c d a wide)) c x s → GivesSome (.not c d a wide) y s (wideRegs wide) d (fun l r =>
      ∀ i, i < N → r.getLsbD i = !(A l).getLsbD i)) ∧
    (Ready {} (Instr.use (.tlut c d a b cc tbl)) c x s → GivesSome (.tlut c d a b cc tbl) y s 1 d (fun l r =>
      ∀ i, i < 32 → r.getLsbD i = tbl.getLsbD ((if (srcWord y a l).getLsbD i then 1 else 0) + (if (srcWord y b l).getLsbD i then 2 else 0) +
        (if (vkWord y cc l).getLsbD i then 4 else 0)))) ∧
    (Ready {} (Instr.use (.bfx c d a b ty)) c x s → GivesSome (.bfx c d a b ty) y s ty.regs d (fun l r =>
      let n := itWidth ty
      let p := (srcWord y b l).toNat % 256
      let q := min ((srcWord y b l).toNat / 256 % 256) n
      let bit := fun j => if j < n then (srcPat y ty a l).testBit j else itSigned ty && (srcPat y ty a l).testBit (n - 1)
      ∃ v : Nat, HoldsPat ty v r ∧ v < 2 ^ n ∧ ∀ i, i < n →
        v.testBit i = (decide (q ≠ 0) && (if i < q then bit (p + i) else itSigned ty && bit (p + q - 1))))) ∧
    (Ready {} (Instr.use (.bfi c d a b cc ty)) c x s → GivesSome (.bfi c d a b cc ty) y s ty.regs d (fun l r =>
      let n := itWidth ty
      let p := (vkWord y cc l).toNat % 256
      let q := min ((vkWord y cc l).toNat / 256 % 256) n
      ∀ i, i < n → r.getLsbD i = if p ≤ i ∧ i < p + q then (srcPat y ty b l).testBit (i - p) else (srcPat y ty a l).testBit i)) ∧
    (Ready {} (Instr.use (.bpick c d a b cc)) c x s → GivesSome (.bpick c d a b cc) y s 1 d (fun l r =>
      let ctl := vkWord y cc l
      let src := fun k => if k < 4 then (srcWord y a l).toNat / 2 ^ (8 * k) % 256 else (srcWord y b l).toNat / 2 ^ (8 * (k - 4)) % 256
      ∀ i, i < 4 → r.toNat / 2 ^ (8 * i) % 256 =
        if ctl.getLsbD (12 + i) then 0
        else if ctl.getLsbD (16 + i) then (if 128 ≤ src (ctl.toNat / 2 ^ (3 * i) % 8) then 255 else 0)
        else src (ctl.toNat / 2 ^ (3 * i) % 8)))

/-- R277 to R282: the instructions that work across lanes read inactive lanes too, and write active ones only. -/
def Obligations.LaneOperations : Prop :=
  ∀ (c : Ctl) (d : VK) (a b : Src) (p n k : Nat) (wide : Bool) (rel : LmRel) (m : IMod) (s : State) (x : Ctx),
    let y := activeCtx x c
    let on := pget x.sk p &&& y.act
    let val := fun l => if wide then srcPair y false a l else (srcWord y a l).setWidth 64
    (∀ mode, Ready {} (Instr.use (.lperm c d a b mode wide)) c x s → GivesSome (.lperm c d a b mode wide) y s (wideRegs wide) d (fun l r =>
      let q := (srcWord y b l).toNat % 128
      let w := 2 ^ (7 - (srcWord y b l).toNat / 256 % 8)
      r = val (match mode with
        | .idx => l / w * w + q % w
        | .up => if q ≤ l % w then l - q else l
        | .down => if l % w + q < w then l + q else l
        | .xor => l / w * w + ((l % w) ^^^ q) % w
        | .rot => l / w * w + (l % w + q) % w))) ∧
    (Ready {} (Instr.use (.xchg c d a b)) c x s → GivesSome (.xchg c d a b) y s 1 d (fun l r =>
      loWord r = srcWord y a (l ^^^ (srcWord y b l).toNat % 128))) ∧
    (Ready {} (Instr.use (.pcon c (.all n) p)) c x s → GivesP (.pcon c (.all n) p) y s n (fun _ => decide (on = y.act))) ∧
    (Ready {} (Instr.use (.pcon c (.any n) p)) c x s → GivesP (.pcon c (.any n) p) y s n (fun _ => decide (on ≠ 0))) ∧
    (Ready {} (Instr.use (.pcon c (.same n) p)) c x s → GivesP (.pcon c (.same n) p) y s n (fun _ => decide (on = y.act ∨ on = 0))) ∧
    (Ready {} (Instr.use (.pcon c (.ballot n) p)) c x s → Becomes (.pcon c (.ballot n) p) y s noV
      (fun j => if n ≤ j ∧ j < n + 4 then some (on.extractLsb' (32 * (j - n)) 32) else none) noP) ∧
    (Ready {} (Instr.use (.pcon c (.count n) p)) c x s → Becomes (.pcon c (.count n) p) y s noV
      (fun j => if j = n then some (BitVec.ofNat 32 (lanesOf on).length) else none) noP) ∧
    (Ready {} (Instr.use (.lgrp c (.same n) a wide)) c x s → GivesP (.lgrp c (.same n) a wide) y s n (fun _ =>
      decide (∀ l, l ∈ lanesOf y.act → ∀ j, j ∈ lanesOf y.act → val l = val j))) ∧
    (Ready {} (Instr.use (.lgrp c (.set n) a wide)) c x s → ∃ f : Nat → Nat → Word,
      (∀ l g i, g < 4 → i < 32 → (f l g).getLsbD i = (y.act.getLsbD (32 * g + i) && decide (val (32 * g + i) = val l))) ∧
      Becomes (.lgrp c (.set n) a wide) y s (fun key l => if y.act.getLsbD l then
        ((List.range 4).find? (fun g => decide (key = vkey x.pa.win (n + g)))).map (f l) else none) noK noP) ∧
    (∀ op, Ready {} (Instr.use (.kred c n k op m)) c x s → GivesSome (.kred c n k op m) y s m.ty.regs (.k n) (fun _ r =>
      (op = .add → HoldsResult m ((lanesOf y.act).map (srcInt y m.ty (.v k))).sum r) ∧
      (op = .min → ∃ v, Holds r v ∧ v ∈ (lanesOf y.act).map (srcInt y m.ty (.v k)) ∧ ∀ u ∈ (lanesOf y.act).map (srcInt y m.ty (.v k)), v ≤ u) ∧
      (op = .max → ∃ v, Holds r v ∧ v ∈ (lanesOf y.act).map (srcInt y m.ty (.v k)) ∧ ∀ u ∈ (lanesOf y.act).map (srcInt y m.ty (.v k)), u ≤ v) ∧
      (op ≠ .add → op ≠ .min → op ≠ .max → ∃ q : Nat, HoldsPat m.ty q r ∧ q < 2 ^ itWidth m.ty ∧ ∀ i, i < itWidth m.ty →
        let ones := (lanesOf y.act).filter (fun l => (srcPat y m.ty (.v k) l).testBit i)
        q.testBit i = match op with
          | .and => decide (ones = lanesOf y.act)
          | .or => decide (ones ≠ [])
          | _ => decide (ones.length % 2 = 1)))) ∧
    (Ready {} (Instr.use (.lanemask c n rel)) c x s → GivesSome (.lanemask c n rel) y s 1 (.v n) (fun l r =>
      ∀ i, i < 32 → r.getLsbD i = match rel with
        | .lt => decide (i < l % 32)
        | .le => decide (i ≤ l % 32)
        | .gt => decide (i > l % 32)
        | .ge => decide (i ≥ l % 32)
        | .eq => decide (i = l % 32)))

/-- R283, R284: PSET and PMOV, with p7 reading true and discarding writes (R190). -/
def Obligations.Predicates : Prop :=
  ∀ (c : Ctl) (p q r n : Nat) (op : PsetOp) (s : State) (x : Ctx),
    let y := activeCtx x c
    pget x.sk 7 = allLanes ∧
    (Ready {} (Instr.use (.pset c p q r op)) c x s → GivesP (.pset c p q r op) y s p (fun l =>
      let i := (pget x.sk q).getLsbD l
      let j := (pget x.sk r).getLsbD l
      match op with
      | .and => i && j
      | .or => i || j
      | .xor => i != j
      | .andn => i && !j)) ∧
    (Ready {} (Instr.use (.pmov c (.pv n p))) c x s → GivesSome (.pmov c (.pv n p)) y s 1 (.v n) (fun l r =>
      loWord r = if (pget x.sk p).getLsbD l then 1 else 0)) ∧
    (Ready {} (Instr.use (.pmov c (.vp p n))) c x s → GivesP (.pmov c (.vp p n)) y s p (fun l => decide (vRead y n l ≠ 0))) ∧
    (Ready {} (Instr.use (.pmov c (.pack n))) c x s → GivesSome (.pmov c (.pack n)) y s 1 (.v n) (fun l r =>
      ∀ i, i < 32 → (loWord r).getLsbD i = (decide (i < 8) && (pget x.sk i).getLsbD l))) ∧
    (Ready {} (Instr.use (.pmov c (.unpk n))) c x s → Becomes (.pmov c (.unpk n)) y s noV noK (fun m l =>
      if m < 7 ∧ y.act.getLsbD l then some ((vRead y n l).getLsbD m) else none))

/-! Float instructions (spec/12). -/

/-- The rational value of a finite value. -/
def ratOf : FVal → Rat
  | .fin n m e => (if n then -1 else 1) * (m : Rat) * (2 : Rat) ^ e
  | _ => 0
def finiteVal : FVal → Bool
  | .fin _ _ _ => true
  | _ => false

/-- The sign of a value. -/
def signOf : FVal → Bool
  | .nan => false
  | .inf n => n
  | .fin n _ _ => n
/-- The canonical NaN of a wide format (03 Table 2). -/
def canonicalNaN : FF → Nat
  | .f64 => 0x7FF8000000000000
  | .f32 => 0x7FC00000
  | .f16 => 0x7E00
  | .bf16 => 0x7FC0
/-- R57, R69: RoundF64, RoundF32, RoundF16 and RoundBF16. A finite result in direction `.rm` is the greatest finite number of the format at or
below the value, in `.rp` the least at or above, in `.rz` that of the two nearer zero; in `.rne` none is nearer, and of two as near the
result is the even one. A zero has the sign of the value. An infinity stands beyond the largest finite number, in `.rne` exactly from the
middle between that number and the next power of two on, and in no other direction than those that R69 lists. NaN is canonical. R292,
R293: the sum and the product that ADD, MUL and FMA round are exact, invalid operations give NaN, and an exact zero sum is +0, or −0 in
direction `.rm`, unless both addends are zeros of one sign. -/
def Obligations.Rounding : Prop :=
  (∀ (f : FF) (n : Bool) (m : Nat) (e : Int) (dirn : RMode),
    let v := ratOf (.fin n m e)
    let r := ffDecode f (roundFF f dirn (.fin n m e))
    (finiteVal r = true → signOf r = n ∧ ∀ c, finiteVal (ffDecode f c) = true →
      match dirn with
      | .rm => ratOf r ≤ v ∧ (ratOf (ffDecode f c) ≤ v → ratOf (ffDecode f c) ≤ ratOf r)
      | .rp => v ≤ ratOf r ∧ (v ≤ ratOf (ffDecode f c) → ratOf r ≤ ratOf (ffDecode f c))
      | .rz => |ratOf r| ≤ |v| ∧ 0 ≤ ratOf r * v ∧ (|ratOf (ffDecode f c)| ≤ |v| → |ratOf (ffDecode f c)| ≤ |ratOf r|)
      | .rne => |ratOf r - v| ≤ |ratOf (ffDecode f c) - v| ∧
          (|ratOf r - v| = |ratOf (ffDecode f c) - v| → ratOf (ffDecode f c) ≠ ratOf r → roundFF f dirn (.fin n m e) % 2 = 0)) ∧
    (finiteVal r = false → r = .inf n ∧ (dirn = .rne ∨ (dirn = .rm ∧ n = true) ∨ (dirn = .rp ∧ n = false)) ∧
      ∀ c, finiteVal (ffDecode f c) = true → |ratOf (ffDecode f c)| < |v|) ∧
    (dirn = .rne → (finiteVal r = false ↔ (2 ^ (ffT f + 2) - 1) * (2 : Rat) ^ ((ffBias f : Int) - ffT f - 1) ≤ |v|)) ∧
    (∀ i, ffDecode f (roundFF f dirn (.inf i)) = .inf i) ∧ roundFF f dirn .nan = canonicalNaN f) ∧
  (∀ (down : Bool) (a b : FVal),
    (finiteVal a = true → finiteVal b = true →
      finiteVal (fAdd down a b) = true ∧ ratOf (fAdd down a b) = ratOf a + ratOf b ∧
      finiteVal (fMul a b) = true ∧ ratOf (fMul a b) = ratOf a * ratOf b) ∧
    (fAdd down .nan b = .nan ∧ fAdd down a .nan = .nan ∧ fMul .nan b = .nan ∧ fMul a .nan = .nan) ∧
    (∀ i j, fAdd down (.inf i) (.inf j) = (if i = j then .inf i else .nan) ∧ fMul (.inf i) (.inf j) = .inf (i != j)) ∧
    (∀ i j m e, fAdd down (.inf i) (.fin j m e) = .inf i ∧ fAdd down (.fin j m e) (.inf i) = .inf i ∧
      fMul (.inf i) (.fin j m e) = (if m = 0 then .nan else .inf (i != j)) ∧ fMul (.fin j m e) (.inf i) = (if m = 0 then .nan else .inf (i != j))) ∧
    (∀ i j m n d g, ∃ k e, fMul (.fin i m d) (.fin j n g) = .fin (i != j) k e) ∧
    (∀ i j d g, ∃ e, fAdd down (.fin i 0 d) (.fin j 0 g) = .fin (if i = j then i else down) 0 e) ∧
    (∀ i j m n d g, 0 < m → ratOf (.fin i m d) + ratOf (.fin j n g) = 0 → ∃ e, fAdd down (.fin i m d) (.fin j n g) = .fin down 0 e))

/-- R289, R290, R292: FADD, FMUL, FFMA and their D counterparts complete with the exact result of the source values, signs taken
after R289, rounded once in direction RM, and saturated under `.sat`. -/
def Obligations.FloatArithmetic : Prop :=
  ∀ (c : Ctl) (d : VK) (a b : Src) (cc : VK) (m : FMod) (s : State) (x : Ctx),
    let y := activeCtx x c
    let down := decide (m.rm = .rm)
    let A := fun f l => ffDecode f (signMods f m.m4 m.negA (srcF y f a l))
    let B := fun f l => ffDecode f (signMods f m.m4 m.negB (srcF y f b l))
    let A3 := fun f l => ffDecode f (signMods f false m.negA (srcF y f a l))
    let B3 := fun f l => ffDecode f (signMods f false m.negB (srcF y f b l))
    let C3 := fun f l => ffDecode f (signMods f false m.m4 (vkF y f cc l))
    (Ready { activeMarks := true } (Instr.use (.fadd c d a b m)) c x s → GivesSome (.fadd c d a b m) y s 1 d (fun l r =>
      r.toNat = satCode .f32 m.m5 (roundFF .f32 m.rm (fAdd down (A .f32 l) (B .f32 l))))) ∧
    (Ready { activeMarks := true } (Instr.use (.fmul c d a b m)) c x s → GivesSome (.fmul c d a b m) y s 1 d (fun l r =>
      r.toNat = satCode .f32 m.m5 (roundFF .f32 m.rm (fMul (A .f32 l) (B .f32 l))))) ∧
    (Ready { activeMarks := true } (Instr.use (.ffma c d a b cc m)) c x s → GivesSome (.ffma c d a b cc m) y s 1 d (fun l r =>
      r.toNat = satCode .f32 m.m5 (roundFF .f32 m.rm (fAdd down (fMul (A3 .f32 l) (B3 .f32 l)) (C3 .f32 l))))) ∧
    (Ready { activeMarks := true } (Instr.use (.dadd c d a b m)) c x s → GivesSome (.dadd c d a b m) y s 2 d (fun l r =>
      r.toNat = satCode .f64 m.m5 (roundFF .f64 m.rm (fAdd down (A .f64 l) (B .f64 l))))) ∧
    (Ready { activeMarks := true } (Instr.use (.dmul c d a b m)) c x s → GivesSome (.dmul c d a b m) y s 2 d (fun l r =>
      r.toNat = satCode .f64 m.m5 (roundFF .f64 m.rm (fMul (A .f64 l) (B .f64 l))))) ∧
    (Ready { activeMarks := true } (Instr.use (.dfma c d a b cc m)) c x s → GivesSome (.dfma c d a b cc m) y s 2 d (fun l r =>
      r.toNat = satCode .f64 m.m5 (roundFF .f64 m.rm (fAdd down (fMul (A3 .f64 l) (B3 .f64 l)) (C3 .f64 l)))))


/-- Numeric order of two values (R295): none with a NaN, the infinities outermost, finite values by their rationals. -/
def ltVal (u v : FVal) : Prop :=
  match u, v with
  | .nan, _ => False
  | .inf _, .nan => False
  | .fin _ _ _, .nan => False
  | .inf i, .inf j => i = true ∧ j = false
  | .inf i, .fin _ _ _ => i = true
  | .fin _ _ _, .inf j => j = false
  | .fin i m d, .fin j n e => ratOf (.fin i m d) < ratOf (.fin j n e)
/-- A comparison of two values (R295). -/
def relHolds (cond : FCond) (u v : FVal) : Prop :=
  let both := u ≠ .nan ∧ v ≠ .nan
  match cond with
  | .eq => both ∧ ¬ltVal u v ∧ ¬ltVal v u
  | .ne => ¬both ∨ ltVal u v ∨ ltVal v u
  | .lt => ltVal u v
  | .le => both ∧ ¬ltVal v u
  | .gt => ltVal v u
  | .ge => both ∧ ¬ltVal u v
  | .nan => ¬both
  | .num => both
/-- `r` is the lesser, or the greater, of two codes, −0 below +0; with a NaN it is the canonical NaN (R294). -/
def IsMnx (f : FF) (isMax : Bool) (a b r : Nat) : Prop :=
  let u := ffDecode f a
  let v := ffDecode f b
  let w := ffDecode f r
  if u = .nan ∨ v = .nan then r = canonicalNaN f
  else (r = a ∨ r = b) ∧ (if isMax then ¬ltVal w u ∧ ¬ltVal w v else ¬ltVal u w ∧ ¬ltVal v w) ∧
    (¬ltVal u v → ¬ltVal v u → signOf w = if isMax then signOf u && signOf v else signOf u || signOf v)
/-- `w` is the value `u` rounded to an integer in a direction (R297): infinities and NaN stay, and the sign stays. -/
def RoundsIntegral (dirn : RMode) (u w : FVal) : Prop :=
  match u with
  | .nan => w = .nan
  | .inf n => w = .inf n
  | .fin n m e => finiteVal w = true ∧ signOf w = n ∧ ∃ q : Int, ratOf w = q ∧
      let v := ratOf (.fin n m e)
      match dirn with
      | .rm => q = ⌊v⌋
      | .rp => q = ⌈v⌉
      | .rz => q = if n then ⌈v⌉ else ⌊v⌋
      | .rne => |(q : Rat) - v| ≤ 1 / 2 ∧ (|(q : Rat) - v| = 1 / 2 → q % 2 = 0)
/-- `w` is the value `u` times 2^k, exactly (R298). -/
def IsScaled (k : Int) (u w : FVal) : Prop :=
  match u with
  | .nan => w = .nan
  | .inf n => w = .inf n
  | .fin n m e => finiteVal w = true ∧ signOf w = n ∧ ratOf w = ratOf (.fin n m e) * (2 : Rat) ^ k
/-- The class of a code, by the numbers of 12 Table 2 (R296). -/
def IsClass (f : FF) (c k : Nat) : Prop :=
  match ffDecode f c with
  | .inf n => k = if n then 0 else 7
  | .nan => k = if c.testBit (ffT f - 1) then 9 else 8
  | .fin n m e =>
    let v := |ratOf (.fin n m e)|
    let least := (2 : Rat) ^ (1 - (ffBias f : Int))
    (least ≤ v → k = if n then 1 else 6) ∧ (0 < v → v < least → k = if n then 2 else 5) ∧ (v = 0 → k = if n then 3 else 4)
/-- A predicate becomes true exactly in the active lanes that meet a condition. -/
def GivesIff (i : Instr) (x : Ctx) (s : State) (p : Nat) (h : Nat → Prop) : Prop := ∃ f : Nat → Bool, (∀ l, f l = true ↔ h l) ∧ GivesP i x s p f

/-- R294 to R298: minimum and maximum, round to integral, scale, compare and classify on F and D complete: the lesser or the greater of the
codes, the integer that the direction gives, the exact multiple rounded once, and the predicates of the comparison and of the class. -/
def Obligations.FloatCompareAndScale : Prop :=
  ∀ (c : Ctl) (d : VK) (a b : Src) (p : Nat) (m : FMod) (s : State) (x : Ctx),
    let y := activeCtx x c
    let A := fun f l => signMods f m.m4 m.negA (srcF y f a l)
    let B := fun f l => signMods f m.m4 m.negB (srcF y f b l)
    (∀ isMax, Ready { activeMarks := true } (Instr.use (.fmnx c d a b isMax m)) c x s → GivesSome (.fmnx c d a b isMax m) y s 1 d (fun l r =>
      ∃ q, IsMnx .f32 isMax (A .f32 l) (B .f32 l) q ∧ r.toNat = satCode .f32 m.m5 q)) ∧
    (Ready { activeMarks := true } (Instr.use (.frnd c d a m)) c x s → GivesSome (.frnd c d a m) y s 1 d (fun l r =>
      ∃ q, RoundsIntegral m.rm (ffDecode .f32 (A .f32 l)) (ffDecode .f32 q) ∧ (ffDecode .f32 q = .nan → q = canonicalNaN .f32) ∧ q < 2 ^ ffWidth .f32 ∧ r.toNat = satCode .f32 m.m5 q)) ∧
    (Ready { activeMarks := true } (Instr.use (.fscl c d a b m)) c x s → GivesSome (.fscl c d a b m) y s 1 d (fun l r =>
      ∃ v, IsScaled (srcWord y b l).toInt (ffDecode .f32 (A .f32 l)) v ∧ r.toNat = satCode .f32 m.m5 (roundFF .f32 m.rm v))) ∧
    (∀ cond, Ready { activeMarks := true } (Instr.use (.fcmp c p a b cond m)) c x s →
      GivesIff (.fcmp c p a b cond m) y s p (fun l => relHolds cond (ffDecode .f32 (A .f32 l)) (ffDecode .f32 (B .f32 l)))) ∧
    (Ready { activeMarks := true } (Instr.use (.fcls c p a b m)) c x s → GivesIff (.fcls c p a b m) y s p (fun l =>
      ∃ k, IsClass .f32 (A .f32 l) k ∧ (srcWord y b l).getLsbD k = true)) ∧
    (∀ isMax, Ready { activeMarks := true } (Instr.use (.dmnx c d a b isMax m)) c x s → GivesSome (.dmnx c d a b isMax m) y s 2 d (fun l r =>
      ∃ q, IsMnx .f64 isMax (A .f64 l) (B .f64 l) q ∧ r.toNat = satCode .f64 m.m5 q)) ∧
    (Ready { activeMarks := true } (Instr.use (.drnd c d a m)) c x s → GivesSome (.drnd c d a m) y s 2 d (fun l r =>
      ∃ q, RoundsIntegral m.rm (ffDecode .f64 (A .f64 l)) (ffDecode .f64 q) ∧ (ffDecode .f64 q = .nan → q = canonicalNaN .f64) ∧ q < 2 ^ ffWidth .f64 ∧ r.toNat = satCode .f64 m.m5 q)) ∧
    (Ready { activeMarks := true } (Instr.use (.dscl c d a b m)) c x s → GivesSome (.dscl c d a b m) y s 2 d (fun l r =>
      ∃ v, IsScaled (srcWord y b l).toInt (ffDecode .f64 (A .f64 l)) v ∧ r.toNat = satCode .f64 m.m5 (roundFF .f64 m.rm v))) ∧
    (∀ cond, Ready { activeMarks := true } (Instr.use (.dcmp c p a b cond m)) c x s →
      GivesIff (.dcmp c p a b cond m) y s p (fun l => relHolds cond (ffDecode .f64 (A .f64 l)) (ffDecode .f64 (B .f64 l)))) ∧
    (Ready { activeMarks := true } (Instr.use (.dcls c p a b m)) c x s → GivesIff (.dcls c p a b m) y s p (fun l =>
      ∃ k, IsClass .f64 (A .f64 l) k ∧ (srcWord y b l).getLsbD k = true))

/-- R285, R289, R292, R295 to R298: the H opcodes compute on each of the two elements of a register, without `.sat`; HCMP and HCLS write a
predicate per element, element 0 to pD and element 1 to pD + 1. -/
def Obligations.HalfPrecision : Prop :=
  (∀ (c : Ctl) (d : VK) (a b : Src) (cc : VK) (m : FMod) (s : State) (x : Ctx),
    let y := activeCtx x c
    let F : FF := if m.m5 then .bf16 else .f16
    let down := decide (m.rm = .rm)
    let elem := fun (w : Word) j => w.toNat / 2 ^ (16 * j) % 2 ^ 16
    let A := fun l j => ffDecode F (signMods F m.m4 m.negA (elem (srcWord y a l) j))
    let B := fun l j => ffDecode F (signMods F m.m4 m.negB (elem (srcWord y b l) j))
    let A3 := fun l j => ffDecode F (signMods F false m.negA (elem (srcWord y a l) j))
    let B3 := fun l j => ffDecode F (signMods F false m.negB (elem (srcWord y b l) j))
    let C3 := fun l j => ffDecode F (signMods F false m.m4 (elem (vkWord y cc l) j))
    (Ready { activeMarks := true } (Instr.use (.hadd c d a b m)) c x s → GivesSome (.hadd c d a b m) y s 1 d (fun l r => ∀ j, j < 2 →
      r.toNat / 2 ^ (16 * j) % 2 ^ 16 = roundFF F m.rm (fAdd down (A l j) (B l j)))) ∧
    (Ready { activeMarks := true } (Instr.use (.hmul c d a b m)) c x s → GivesSome (.hmul c d a b m) y s 1 d (fun l r => ∀ j, j < 2 →
      r.toNat / 2 ^ (16 * j) % 2 ^ 16 = roundFF F m.rm (fMul (A l j) (B l j)))) ∧
    (Ready { activeMarks := true } (Instr.use (.hfma c d a b cc m)) c x s → GivesSome (.hfma c d a b cc m) y s 1 d (fun l r => ∀ j, j < 2 →
      r.toNat / 2 ^ (16 * j) % 2 ^ 16 = roundFF F m.rm (fAdd down (fMul (A3 l j) (B3 l j)) (C3 l j)))) ∧
    (Ready { activeMarks := true } (Instr.use (.hrnd c d a m)) c x s → GivesSome (.hrnd c d a m) y s 1 d (fun l r => ∀ j, j < 2 →
      let q := r.toNat / 2 ^ (16 * j) % 2 ^ 16
      RoundsIntegral m.rm (A l j) (ffDecode F q) ∧ (ffDecode F q = .nan → q = canonicalNaN F))) ∧
    (Ready { activeMarks := true } (Instr.use (.hscl c d a b m)) c x s → GivesSome (.hscl c d a b m) y s 1 d (fun l r => ∀ j, j < 2 →
      ∃ v, IsScaled (srcWord y b l).toInt (A l j) v ∧ r.toNat / 2 ^ (16 * j) % 2 ^ 16 = roundFF F m.rm v)) ∧
    (∀ isMax, Ready { activeMarks := true } (Instr.use (.hmnx c d a b isMax m)) c x s → GivesSome (.hmnx c d a b isMax m) y s 1 d (fun l r => ∀ j, j < 2 →
      IsMnx F isMax (signMods F m.m4 m.negA (elem (srcWord y a l) j)) (signMods F m.m4 m.negB (elem (srcWord y b l) j)) (r.toNat / 2 ^ (16 * j) % 2 ^ 16)))) ∧
  (∀ (c : Ctl) (a b : Src) (p : Nat) (m : FMod) (s : State) (x : Ctx),
    let y := activeCtx x c
    let F : FF := if m.m5 then .bf16 else .f16
    let elem := fun (w : Word) j => w.toNat / 2 ^ (16 * j) % 2 ^ 16
    let A := fun l j => signMods F m.m4 m.negA (elem (srcWord y a l) j)
    let B := fun l j => signMods F m.m4 m.negB (elem (srcWord y b l) j)
    let two := fun (i : Instr) (h : Nat → Nat → Prop) => ∃ f : Nat → Nat → Bool, (∀ l j, f l j = true ↔ h l j) ∧
      Becomes i y s noV noK (fun q l => (destP y (p + 1) (fun l => f l 1) q l).or (destP y p (fun l => f l 0) q l))
    (∀ cond, Ready { activeMarks := true } (Instr.use (.hcmp c p a b cond m)) c x s →
      two (.hcmp c p a b cond m) (fun l j => relHolds cond (ffDecode F (A l j)) (ffDecode F (B l j)))) ∧
    (Ready { activeMarks := true } (Instr.use (.hcls c p a b m)) c x s →
      two (.hcls c p a b m) (fun l j => ∃ k, IsClass F (A l j) k ∧ (srcWord y b l).getLsbD k = true)))

/-! Conversions and special functions (spec/12). -/

/-- R299 to R302, R305 to R307: CVT, PACK, UNPK, CVTI, CVTF and CVTS complete with the value converted and rounded once; CVTF gives +0 for a zero. -/
def Obligations.Conversions : Prop :=
  ∀ (c : Ctl) (d : VK) (a b : Src) (dir : RMode) (dst src : FF) (w : IWid) (ti tj : IType) (sat bf signed : Bool) (s : State) (x : Ctx),
    let y := activeCtx x c
    let H : FF := if bf then .bf16 else .f16
    let V := fun f o l => ffDecode f (srcF y f o l)
    (Ready { activeMarks := true } (Instr.use (.cvt c d a dir dst src)) c x s → GivesSome (.cvt c d a dir dst src) y s dst.regs d (fun l r =>
      r.toNat = roundFF dst dir (V src a l))) ∧
    (Ready { activeMarks := true } (Instr.use (.pack c d a b dir sat bf)) c x s → GivesSome (.pack c d a b dir sat bf) y s 1 d (fun l r =>
      r.toNat % 2 ^ 16 = satCode H sat (roundFF H dir (V .f32 a l)) ∧ r.toNat / 2 ^ 16 % 2 ^ 16 = satCode H sat (roundFF H dir (V .f32 b l)))) ∧
    (Ready { activeMarks := true } (Instr.use (.unpk c d a bf)) c x s → GivesSome (.unpk c d a bf) y s 2 d (fun l r =>
      (loWord r).toNat = roundFF .f32 .rne (ffDecode H ((srcWord y a l).toNat % 2 ^ 16)) ∧
      (hiWord r).toNat = roundFF .f32 .rne (ffDecode H ((srcWord y a l).toNat / 2 ^ 16)))) ∧
    (Ready { activeMarks := true } (Instr.use (.cvti c d a dir src w signed)) c x s → GivesSome (.cvti c d a dir src w signed) y s w.regs d (fun l r =>
      let T := widType w signed
      ∃ w v, RoundsIntegral dir (V src a l) w ∧ Holds r v ∧ match w with
        | .nan => v = 0
        | .inf n => v = if n then itMin T else itMax T
        | .fin n m e => ∃ q : Int, (q : Rat) = ratOf (.fin n m e) ∧ IsSat T q v)) ∧
    (Ready { activeMarks := true } (Instr.use (.cvtf c d a dir dst w signed)) c x s → GivesSome (.cvtf c d a dir dst w signed) y s dst.regs d (fun l r =>
      ∃ v, r.toNat = roundFF dst dir v ∧ finiteVal v = true ∧ ratOf v = srcInt y (widType w signed) a l ∧ (srcInt y (widType w signed) a l = 0 → r.toNat = 0))) ∧
    (Ready { activeMarks := true } (Instr.use (.cvts c d a ti tj sat)) c x s → GivesSome (.cvts c d a ti tj sat) y s ti.regs d (fun l r =>
      HoldsResult ⟨ti, sat⟩ (srcInt y tj a l) r))

/-- `c` is the code of a narrow format that a value rounds to (R70): the nearest finite one, of two as near the one of parity 0, never a
negative zero; with `.sat` always finite but for NaN, and an infinity becomes the greatest magnitude. Without it the result is an infinity in the
extended domain, and NaN in the finite one, exactly when the value lies beyond the middle between the greatest finite value and the next grid
value, or on it with the greatest of parity 1; and NaN, in an unsigned format, exactly when the value lies below zero by more than half the least
positive one. -/
def NarrowRounds (n : Narrow) (sat : Bool) (v : FVal) (c : Nat) : Prop :=
  let w := narrowDecode n c
  let finite := fun k => k < 2 ^ n.k ∧ finiteVal (narrowDecode n k) = true
  let below := n.unsigned = true ∧ ratOf v < 0
  c < 2 ^ n.k ∧ (v = .nan → w = .nan) ∧ (finiteVal w = true → ratOf w = 0 → c = 0) ∧
  (∀ neg, v = .inf neg → if n.unsigned = true ∧ neg = true then (if sat then c = 0 else w = .nan)
    else if sat then finiteVal w = true ∧ ∀ k, finite k → (if neg then ratOf w ≤ ratOf (narrowDecode n k) else ratOf (narrowDecode n k) ≤ ratOf w)
    else w = if n.ext then .inf neg else .nan) ∧
  (finiteVal v = true →
    (finiteVal w = true → ∀ k, finite k → |ratOf w - ratOf v| ≤ |ratOf (narrowDecode n k) - ratOf v| ∧
      (|ratOf w - ratOf v| = |ratOf (narrowDecode n k) - ratOf v| → ratOf (narrowDecode n k) ≠ ratOf w → c % 2 = 0)) ∧
    (sat = true → finiteVal w = true) ∧
    (finiteVal w = false → w = if below then .nan else if n.ext then .inf (signOf v) else .nan) ∧
    (sat = false → below → (finiteVal w = false ↔ ratOf (narrowDecode n 1) < 2 * |ratOf v|)) ∧
    (sat = false → ¬below → ∀ top m e, finite top → narrowDecode n top = .fin false m e → (∀ k, finite k → |ratOf (narrowDecode n k)| ≤ ratOf (narrowDecode n top)) →
      let middle := ((2 * m + 1 : Nat) : Rat) * (2 : Rat) ^ (e - 1)
      (finiteVal w = false ↔ middle < |ratOf v| ∨ (middle = |ratOf v| ∧ top % 2 = 1))))
/-- R303, R304: with a narrow format in the launch slot and the position inside the register, CVTN replaces the element at the
position by the code that the value over the scale rounds to, and CVTW gives the element there times the scale; a position outside, or a
slot whose format is not narrow, traps with code 0x12. -/
def Obligations.NarrowConversions : Prop :=
  ∀ (c : Ctl) (d : VK) (a : Src) (f : FF) (sat : Bool) (fs pos : Nat) (n : Narrow) (e : Int) (s : State) (x : Ctx),
    let y := activeCtx x c
    ((∀ n, (launchSlot (x.launch s) fs).1 ≠ .narrow n) →
      (Ready { activeMarks := true } (Instr.use (.cvtn c d a f sat fs pos)) c x s → exec (.cvtn c d a f sat fs pos) s = .next (trapX y { code := 0x12 } s)) ∧
      (Ready { activeMarks := true } (Instr.use (.cvtw c d a f fs pos)) c x s → exec (.cvtw c d a f fs pos) s = .next (trapX y { code := 0x12 } s))) ∧
    (launchSlot (x.launch s) fs = (.narrow n, e) → n.k * (pos + 1) ≤ 32 →
      (Ready { activeMarks := true } (Instr.use (.cvtn c d a f sat fs pos)) c x s → ∃ t, exec (.cvtn c d a f sat fs pos) s = .next t) ∧
      (Ready { activeMarks := true } (Instr.use (.cvtw c d a f fs pos)) c x s → ∃ t, exec (.cvtw c d a f fs pos) s = .next t) ∧
      (Ready { activeMarks := true } (Instr.use (.cvtn c d a f sat fs pos)) c x s → GivesSome (.cvtn c d a f sat fs pos) y s 1 d (fun l r =>
        ∃ v q, IsScaled (-e) (ffDecode f (srcF y f a l)) v ∧ NarrowRounds n sat v q ∧
          ∀ i, i < 32 → r.getLsbD i = if n.k * pos ≤ i ∧ i < n.k * (pos + 1) then q.testBit (i - n.k * pos) else (vkWord y d l).getLsbD i)) ∧
      (Ready { activeMarks := true } (Instr.use (.cvtw c d a f fs pos)) c x s → GivesSome (.cvtw c d a f fs pos) y s f.regs d (fun l r =>
        ∃ v, IsScaled e (narrowDecode n ((srcWord y a l).toNat / 2 ^ (n.k * pos) % 2 ^ n.k)) v ∧ r.toNat = roundFF f .rne v))) ∧
    (launchSlot (x.launch s) fs = (.narrow n, e) → 32 < n.k * (pos + 1) →
      (Ready { activeMarks := true } (Instr.use (.cvtn c d a f sat fs pos)) c x s → exec (.cvtn c d a f sat fs pos) s = .next (trapX y { code := 0x12 } s)) ∧
      (Ready { activeMarks := true } (Instr.use (.cvtw c d a f fs pos)) c x s → exec (.cvtw c d a f fs pos) s = .next (trapX y { code := 0x12 } s)))

/-- R76, R308: each special function begins an operation that will write its value for every lane, and its values for the
special arguments are those of 03 Table 10; by R75 no finite binary32 value is nearer to the exact result than a finite one of RCP, RSQ or
SQRT, and TANH does not exceed 1. -/
def Obligations.SpecialFunctions : Prop :=
  (∀ (c : Ctl) (d : VK) (a : Src) (s : State) (x : Ctx),
    let y := activeCtx x c
    let begun := fun (i : Instr) (f : Word → Nat) => ∃ g, BeginsSlow i c y s 1 d g ∧ ∀ l, (loWord (g l)).toNat = f (srcWord y a l)
    flagRoom x c = true → Ready { activeMarks := true } (Instr.use (.rcp c d a)) c x s →
    begun (.rcp c d a) rcpCode ∧ begun (.rsq c d a) rsqCode ∧ begun (.sqrt c d a) sqrtCode ∧ begun (.ex2 c d a) ex2Code ∧
    begun (.lg2 c d a) lg2Code ∧ begun (.sin c d a) sinCode ∧ begun (.cos c d a) cosCode ∧ begun (.tanh c d a) tanhCode) ∧
  (∀ w : Word,
    let v := ffDecode .f32 w.toNat
    let is := fun (f : Word → Nat) (r : FVal) => ffDecode .f32 (f w) = r ∧ (r = .nan → f w = 0x7FC00000)
    let nearest := fun (f : Word → Nat) (z : ℝ) => finiteVal (ffDecode .f32 (f w)) = true → ∀ k, finiteVal (ffDecode .f32 k) = true →
      |(ratOf (ffDecode .f32 (f w)) : ℝ) - z| ≤ |(ratOf (ffDecode .f32 k) : ℝ) - z|
    let one := fun n => FVal.fin n (2 ^ 23) (-23)
    let zero := fun n => FVal.fin n 0 (-149)
    (v = .nan → is rcpCode .nan ∧ is rsqCode .nan ∧ is sqrtCode .nan ∧ is ex2Code .nan ∧ is lg2Code .nan ∧ is sinCode .nan ∧ is cosCode .nan ∧ is tanhCode .nan) ∧
    (∀ n, v = .inf n → is rcpCode (zero n) ∧ is rsqCode (if n then .nan else zero false) ∧ is sqrtCode (if n then .nan else .inf false) ∧
      is ex2Code (if n then zero false else .inf false) ∧ is lg2Code (if n then .nan else .inf false) ∧ is sinCode .nan ∧ is cosCode .nan ∧ is tanhCode (one n)) ∧
    (∀ n e, v = .fin n 0 e → is rcpCode (.inf n) ∧ is rsqCode (.inf n) ∧ is sqrtCode (zero n) ∧ is ex2Code (one false) ∧ is lg2Code (.inf true) ∧
      is sinCode (zero n) ∧ is cosCode (one false) ∧ is tanhCode (zero n)) ∧
    (∀ m e, 0 < m → v = .fin true m e → is rsqCode .nan ∧ is sqrtCode .nan ∧ is lg2Code .nan) ∧
    (∀ n m e, 0 < m → v = .fin n m e → nearest rcpCode (1 / (ratOf v : ℝ))) ∧
    (∀ m e, 0 < m → v = .fin false m e → nearest sqrtCode (Real.sqrt (ratOf v)) ∧ nearest rsqCode (1 / Real.sqrt (ratOf v))) ∧
    (finiteVal v = true → (∀ q : Int, ratOf v = q → ex2Code w = roundFF .f32 .rne (.fin false 1 q)) ∧
      (∀ q : Int, ratOf v = (2 : Rat) ^ q → ratOf (ffDecode .f32 (lg2Code w)) = q) ∧
      finiteVal (ffDecode .f32 (tanhCode w)) = true ∧ |ratOf (ffDecode .f32 (tanhCode w))| ≤ 1))

/-- A binary32 code is one of the two that bracket a real number, and that number itself where it is a binary32 value (R75). -/
def Brackets (z : ℝ) (c : Nat) : Prop :=
  let r := ffDecode .f32 c
  let val := fun k => (ratOf (ffDecode .f32 k) : ℝ)
  let finite := fun k => finiteVal (ffDecode .f32 k) = true
  r ≠ .nan ∧ (∀ k, finite k → val k = z → finite c ∧ val c = z) ∧
  (finite c → ∀ k, finite k → ¬(val c < val k ∧ val k < z) ∧ ¬(z < val k ∧ val k < val c)) ∧
  (∀ n, r = .inf n → ∀ k, finite k → if n then z < val k else val k < z)
/-- R75: for every finite argument, a positive one for LG2, EX2, LG2, SIN, COS and TANH give one of the two binary32 values that bracket the
exact result. -/
def Obligations.FaithfulRounding : Prop :=
  ∀ (w : Word), let v := ffDecode .f32 w.toNat
    let a : ℝ := ratOf v
    finiteVal v = true → Brackets ((2 : ℝ) ^ a) (ex2Code w) ∧ (0 < ratOf v → Brackets (Real.logb 2 a) (lg2Code w)) ∧
      Brackets (Real.sin a) (sinCode w) ∧ Brackets (Real.cos a) (cosCode w) ∧ Brackets (Real.tanh a) (tanhCode w)

/-! Control flow (spec/14). -/

/-- R9, R33: an instruction whose guard holds in no running lane is passed over. That it is passed over before any check is the
model's reading. -/
def Obligations.GuardFalse : Prop :=
  ∀ (i : Instr) (c : Ctl) (s : State) (x : Ctx), i.wf = true → i ≠ .nop → (encodeFields i).map Fields.ctl = some c → ctxOf s = some x →
    guardLanes x c = 0 → exec i s = .next (retire x s)

/-- R38, R41, R352: NOP, YIELD and SLEEP change no register: they step the path on, and let it be passed over or sleep for A core
clocks; SLEEP_EXPIRY wakes it. -/
def Obligations.Scheduling : Prop :=
  ∀ (c : Ctl) (a : Src) (s : State) (x : Ctx),
    let y := activeCtx x c
    let n := (srcWord y a (oneOf y)).toNat
    (ctxOf s = some x → exec .nop s = .next (retire x s)) ∧
    (Ready { guard := .any } {} c x s → exec (.yield c) s = .next (onPath y (fun pa => { pa with yielded := true }) (retire y s))) ∧
    (Ready { guard := .any } (Instr.use (.sleep c a)) c x s →
      (n = 0 → exec (.sleep c a) s = .next (onPath y (fun pa => { pa with yielded := true }) (retire y s))) ∧
      (n ≠ 0 → exec (.sleep c a) s = .next (onPath y (fun pa => { pa with sleep := some ((coreOf s x.core).phase + 144 * n) }) (retire y s)))) ∧
    (∀ core slot path sk pa t, skeinOf s core slot = some sk → NMap.get? sk.paths path = some pa → pa.sleep = some t →
      ∃ u, exec (.sleepExpiry core slot path) s = .next u ∧
        pathOf u core slot path = some { pa with sleep := if t ≤ (coreOf s core).phase then none else some t } ∧
        (∀ p, p ≠ path → pathOf u core slot p = pathOf s core slot p) ∧
        (∃ ps, u = setSkein s core slot { sk with paths := ps }))

/-- A list of translations is of whole pages. -/
def PagesAligned (l : List TlbEntry) : Prop := ∀ e ∈ l, e.va % 65536 = 0 ∧ e.size % 65536 = 0 ∧ e.pa % 128 = 0
/-- Code bytes are at hand: the core's translation cache maps each for fetching, and its line has come for the path. -/
def Fetched (x : Ctx) (s : State) (a n : Nat) (bs : List Byte) : Prop :=
  bs.length = n ∧ PagesAligned (coreOf s x.core).tlb ∧ ∀ j, j < n → canonical ((a + j) % 2 ^ 64) = true ∧
    ∃ p X ln, tlbFind (coreOf s x.core).tlb (x.launch s).ctx (va57 ((a + j) % 2 ^ 64)) = some p ∧ tlbAccess p (va57 ((a + j) % 2 ^ 64)) .fetch = .ok X ∧
      useCheck s x.die X .fetch = .ok X ∧ s.lines.find? (fun l => decide (l.agent = .fetch x.core x.slot x.path) && decide (l.line = X.pa / 128)) = some ln ∧
      bs[j]? = some (lineByte ln.data (X.pa % 128))
/-- R35, R36: CLAUSE_ISSUE takes the words of the clause, once they are at hand; a word that fails its checks traps with its offset; while a
flag of the wait mask counts an operation the path waits; else the path holds the clause from its first word, and no register changes. -/
def Obligations.ClauseIssue : Prop :=
  ∀ (h : Header) (bs : List Byte) (s : State) (x : Ctx), ctxOf s = some x → h.len ≤ 31 →
    Fetched x s (codeAddr (x.launch s) (x.pa.pc + 1)) (12 * h.len) bs →
    let ws := wordsOf h.len bs
    let u := endFetch s x.core x.slot x.path
    (∀ k, (∃ w, ws[k]? = some w ∧ wordOk w (decide (k + 1 = h.len)) = false) → (∀ j w, j < k → ws[j]? = some w → wordOk w (decide (j + 1 = h.len)) = true) →
      exec (.clauseIssue h) s = .next (trapX x { code := 0x01, detail := k + 1 } u)) ∧
    ((∀ j w, ws[j]? = some w → wordOk w (decide (j + 1 = h.len)) = true) →
      ((∀ f o, (f, o) ∈ x.pa.flagOps → f < 12 → h.wait.getLsbD f = false) → exec (.clauseIssue h) s = .next (onPath x (fun pa =>
        { pa with clause := some { words := ws, pos := 0, set1 := h.set1, set2 := h.set2 }, wait := none }) u)) ∧
      (x.sk.mat = none → (∃ f o, (f, o) ∈ x.pa.flagOps ∧ f < 12 ∧ h.wait.getLsbD f = true) → exec (.clauseIssue h) s = .next (stall x .other s)))

/-- R44, R336, R337, R345: BRA takes its active lanes to H + Tgt and the others to the fall-through header. A path whose lanes stay
together moves; a single-path skein splits into two paths, the lower address in path 0; a path of a dual-path skein goes on at
the lower address and keeps the other group pending, unless the skein holds 256 entries (R340). BRX places every lane by its own register. -/
def Obligations.Branches : Prop :=
  ∀ (c : Ctl) (tgt : Word) (a : Nat) (s : State) (x : Ctx),
    let y := activeCtx x c
    let T := target x.pa tgt
    let R := fallThrough x.pa
    let rest := without x.lanes y.act
    let gT := (T, y.act, x.pa.win)
    let gR := (R, rest, x.pa.win)
    let lo := if T < R then gT else gR
    let hi := if T < R then gR else gT
    let sk' := releaseAbove (
      if rest = 0 ∨ T = R then updPathSk x.sk x.path (fun pa => goto pa (T, x.lanes, x.pa.win))
      else if singlePath x.sk then
        { x.sk with paths := [(0, { goto x.pa lo with own := [] }), (1, { goto x.pa hi with own := [], age := 0 })]
                    ops := x.sk.ops.map (fun e => (e.1, { e.2 with path := 2 })) }
      else pushEntry x.path (updPathSk x.sk x.path (fun pa => goto pa lo)) (.pend hi.1 hi.2.1 hi.2.2))
    x.lanes = without x.pa.mask x.sk.exited →
    (Ready {} {} c x s → StacksFit x.sk 1 0 → Controls (.bra c tgt) y s sk') ∧
    (Ready {} {} c x s → singlePath x.sk = false → rest ≠ 0 → T ≠ R → entryCount x.sk = 256 → exec (.bra c tgt) s = .next (trapX y { code := 0x07 } s)) ∧
    (Ready {} (Instr.use (.brx c a)) c x s → StacksFit x.sk ((lanesOf y.act).map (fun l => vRead y a l)).toFinset.card 0 →
      ∃ sk', Controls (.brx c a) y s sk' ∧
        sk' = { x.sk with paths := sk'.paths, ops := sk'.ops, vregs := sk'.vregs, vmarks := sk'.vmarks, spilled := sk'.spilled } ∧
        ∀ l, x.lanes.getLsbD l = true → Placed sk' l (if y.act.getLsbD l then (vRead y a l).toNat else R) x.pa.win)

/-- R346, R347: SETJ pushes a join entry with the active lanes expected and none arrived, and traps at 256 entries (R340). JOIN parks the
active lanes in the topmost join entry: when all expected lanes have come they resume together at the join PC under the entry's window,
else the path waits without running lanes, or goes on with the lanes whose guard is false; with no join entry, another window, a lane that
is not expected or one under another frame record JOIN traps. -/
def Obligations.SetAndJoin : Prop :=
  ∀ (c : Ctl) (tgt : Word) (pc : Nat) (e a : LMask) (w : Win) (tops : List (Nat × LMask)) (r : List StkEntry) (s : State) (x : Ctx),
    let y := activeCtx x c
    let pushed := pushEntry x.path x.sk (.join (target x.pa tgt) y.act 0 x.pa.win (topsOf x.sk y.act))
    (Ready { guard := .coll } {} c x s → StacksFit x.sk 1 0 → exec (.setj c tgt) s = .next (retire y (setSkein s x.core x.slot pushed))) ∧
    (Ready { guard := .coll } {} c x s → entryCount x.sk = 256 → exec (.setj c tgt) s = .next (trapX y { code := 0x07 } s)) ∧
    (Ready {} {} c x s → topJoin x.sk x.path = none → exec (.join c) s = .next (trapX y { code := 0x02 } s)) ∧
    (Ready {} {} c x s → topJoin x.sk x.path = some (.join pc e a w tops) →
      x.pa.win ≠ w ∨ (∃ l ∈ lanesOf y.act, e.getLsbD l = false ∨ topRecord x.sk l ≠ keptTop tops l) →
      exec (.join c) s = .next (trapX y { code := 0x02 } s)) ∧
    (Ready {} {} c x s → StacksFit x.sk 0 0 → singlePath x.sk = true → x.sk.stack = .join pc e a x.pa.win tops :: r →
      x.lanes = without x.pa.mask x.sk.exited → within y.act e = true →
      (∀ l ∈ lanesOf y.act, topRecord x.sk l = keptTop tops l) → AllWait { x.sk with stack := r } 0 →
      let all := a ||| y.act
      let rest := without x.lanes y.act
      let left : Skein := { x.sk with stack := .join pc e all x.pa.win tops :: r }
      (rest = 0 → within (without e x.sk.exited) all = true →
        Controls (.join c) y s (releaseAbove (updPathSk { x.sk with stack := r } x.path (fun pa => goto pa (pc, without all x.sk.exited, x.pa.win))))) ∧
      (rest = 0 → within (without e x.sk.exited) all = false →
        Controls (.join c) y s (releaseAbove (updPathSk left x.path (fun pa =>
          { (if pa.clause.isSome then advancePath pa else pa) with mask := 0, clause := none, wait := none })))) ∧
      (rest ≠ 0 → within (without e x.sk.exited) all = false →
        Controls (.join c) y s (releaseAbove (updPathSk left x.path (fun pa => goto pa (fallThrough x.pa, rest, x.pa.win))))))

/-- Bytes of memory that an agent has read are at hand: their lines have come. -/
def InHand (s : State) (ag : Agent) (pa n : Nat) (bs : List Byte) : Prop :=
  bs.length = n ∧ ∀ j, j < n → ∃ ln, s.lines.find? (fun l => decide (l.agent = ag) && decide (l.line = (pa + j) / 128)) = some ln ∧
    bs[j]? = some (lineByte ln.data ((pa + j) % 128))
/-- The path has the whole frame map at hand, and no entry of it has this PC. -/
def MapLacks (s : State) (x : Ctx) (T : Nat) : Prop :=
  ∀ k, k < (x.launch s).mapCount → ∃ p X y bs,
    let a := (x.launch s).codeBase + (x.launch s).mapOff + 8 * k
    canonical a = true ∧ a % 8 = 0 ∧ y.pa % 8 = 0 ∧ tlbFind (coreOf s x.core).tlb (x.launch s).ctx (va57 a) = some p ∧ tlbAccess p (va57 a) .read = .ok X ∧
      useCheck s x.die X .other = .ok y ∧ InHand s (.frame x.core x.slot x.path) y.pa 8 bs ∧ leNat bs % 2 ^ 32 ≠ T
/-- R196, R197, R348, R349: CALL and CALLX, whose targets the core keeps with their frames, write the return address to LK of the calling lanes,
push a frame record and run each callee under a window moved up by the shift, whose new positions read zero; the other lanes go
on. A shift that leaves less than eight positions, and a target that the map does not hold, trap. RET of lanes of one record parks them
there; when all have come they return to LK under the caller's window. Lanes of no record, or of different ones, trap.
The frame map and the order of the checks are log entries 35 and 36. -/
def Obligations.CallAndReturn : Prop :=
  ∀ (c : Ctl) (s8 a : Nat) (tgt : Word) (s : State) (x : Ctx),
    let y := activeCtx x c
    let R := fallThrough x.pa
    let w := x.pa.win
    let kept := fun (T : Nat) => (coreOf s x.core).mapCache.find? (fun e => e.1 = mapKey (x.launch s) ∧ e.2.1 = T)
    let callee := fun (i : Instr) (T : Nat → Nat) => ∀ (f : Nat → Nat),
      (∀ l ∈ lanesOf y.act, kept (T l) = some (mapKey (x.launch s), T l, f l) ∧ 1 ≤ f l ∧ f l ≤ 30) →
      let top := (lanesOf y.act).foldl (fun m l => max m (w.base + 8 * s8 + 8 * f l)) (topOf x.sk)
      StacksFit x.sk ((lanesOf y.act).map T).toFinset.card 1 → top ≤ 8 * (x.launch s).backing →
      (top ≤ topOf x.sk ∨ ((coreOf s x.core).regReqs = [] ∧ (top - topOf x.sk) / 8 ≤ freeGranules (coreOf s x.core))) →
      ∃ t sk', exec i s = .next t ∧ t = { s with cores := t.cores, lines := t.lines, reqs := t.reqs, dies := t.dies } ∧ (∀ n, n ≠ x.core → coreOf t n = coreOf s n) ∧
        coreOf t x.core = { coreOf s x.core with skeins := (coreOf t x.core).skeins, regReqs := (coreOf t x.core).regReqs
                                                 spillQ := (coreOf t x.core).spillQ, spillSent := (coreOf t x.core).spillSent, mapCache := (coreOf t x.core).mapCache } ∧
        (∀ k, k ≠ x.slot → skeinOf t x.core k = skeinOf s x.core k) ∧ skeinOf t x.core x.slot = some sk' ∧
        sk'.records = { id := x.sk.nextRec, shift := 8 * s8, callerW := w.size, base := w.base + 8 * s8, call := y.act, arrived := 0 } :: x.sk.records ∧
        (∀ l, l < 128 → vlane sk'.lk l = if y.act.getLsbD l then BitVec.ofNat 32 R else vlane x.sk.lk l) ∧
        (∀ l, x.lanes.getLsbD l = true → if y.act.getLsbD l then Placed sk' l (T l) ⟨w.base + 8 * s8, 8 * f l⟩ else Placed sk' l R w) ∧
        (∀ key, key < 16 + topOf sk' → vget sk' key = if key < 16 + topOf x.sk then vget x.sk key else []) ∧
        (∀ n, kget sk' n = kget x.sk n ∧ pget sk' n = pget x.sk n)
    let absent := fun (i : Instr) (T : Nat → Nat) => (∃ l ∈ lanesOf y.act, kept (T l) = none) → (∀ l ∈ lanesOf y.act, T l = T (oneOf y) ∧ MapLacks s x (T l)) →
      ∃ u, exec i s = .next (trapX y { code := 0x03 } u) ∧ u = { s with lines := u.lines, reqs := u.reqs, dies := u.dies }
    x.lanes = without x.pa.mask x.sk.exited →
    (Ready {} {} c x s → (w.size < 8 * s8 + 8 → exec (.call c s8 tgt) s = .next (trapX y { code := 0x03 } s)) ∧
      (8 * s8 + 8 ≤ w.size → callee (.call c s8 tgt) (fun _ => target x.pa tgt) ∧ absent (.call c s8 tgt) (fun _ => target x.pa tgt))) ∧
    (Ready {} (Instr.use (.callx c s8 a)) c x s → (w.size < 8 * s8 + 8 → exec (.callx c s8 a) s = .next (trapX y { code := 0x03 } s)) ∧
      (8 * s8 + 8 ≤ w.size → callee (.callx c s8 a) (fun l => (vRead y a l).toNat) ∧ absent (.callx c s8 a) (fun l => (vRead y a l).toNat))) ∧
    (∀ q : FrameRec, Ready {} {} c x s → q ∈ x.sk.records → (x.sk.records.map FrameRec.id).Nodup → (∀ l ∈ lanesOf y.act, topRecord x.sk l = some q.id) →
      singlePath x.sk = true → x.pa.own = [] →
      let all := q.arrived ||| y.act
      let rest := without x.lanes y.act
      let others := x.sk.records.filter (fun r => decide (r.id ≠ q.id))
      (rest ≠ 0 → StacksFit x.sk 0 0 → x.sk.stack = [] → AllWait { x.sk with records := { q with arrived := all } :: others } 0 →
        ∃ sk', Controls (.ret c) y s sk' ∧ sk'.records = mapIf (fun r => decide (r.id = q.id)) (fun r => { r with arrived := all }) x.sk.records ∧
          sk'.stack = [] ∧ sk'.paths = nupdate x.sk.paths x.path (fun pa => goto pa (R, rest, w)) ∧ sk'.lk = x.sk.lk ∧ sk'.kregs = x.sk.kregs ∧ sk'.preds = x.sk.preds) ∧
      (rest = 0 → StacksFit x.sk ((lanesOf all).map (fun l => vlane x.sk.lk l)).toFinset.card 0 → x.sk.stack = [] → pendRegs x.sk = [] →
        AllWait { x.sk with records := others } 0 → within (without q.call x.sk.exited) all = true →
        ∃ sk', Controls (.ret c) y s sk' ∧ sk'.records = others ∧
          (∀ l, all.getLsbD l = true → x.sk.exited.getLsbD l = false → Placed sk' l (vlane x.sk.lk l).toNat ⟨q.base - q.shift, q.callerW⟩) ∧
          sk'.lk = x.sk.lk ∧ sk'.kregs = x.sk.kregs ∧ sk'.preds = x.sk.preds ∧ ∀ key, key < 16 + topOf sk' → vget sk' key = vget x.sk key)) ∧
    (Ready {} {} c x s → (∀ l ∈ lanesOf y.act, topRecord x.sk l = none) → exec (.ret c) s = .next (trapX y { code := 0x08 } s)) ∧
    (Ready {} {} c x s → (∃ l ∈ lanesOf y.act, ∃ j ∈ lanesOf y.act, topRecord x.sk l ≠ topRecord x.sk j) → exec (.ret c) s = .next (trapX y { code := 0x02 } s))

/-- R350, R351: EXIT takes its lanes out of the execution mask and out of every expected mask, while the others go on; with the last
lanes, of the paths that a handler has set aside too, no task open and no fault to report, the skein has exited, and it keeps its top, whose
granules it holds until it ends; with a task open it traps. KILL exits every lane at once.
The order of the checks is log entry 36. -/
def Obligations.ExitAndKill : Prop :=
  ∀ (c : Ctl) (s : State) (x : Ctx),
    let y := activeCtx x c
    let rest := without x.lanes y.act
    let gone := fun (e : Nat × Path) => within (without e.2.mask x.sk.exited) y.act = true
    let last := (∀ e ∈ x.sk.paths, gone e) ∧ ∀ f, x.sk.frame = some f → ∀ e ∈ f.paths, e.1 ≠ f.trapPath → gone e
    x.lanes = without x.pa.mask x.sk.exited → x.sk.run = .running →
    (Ready {} {} c x s →
      (last → x.sk.taskOpen = true → exec (.exit c) s = .next (trapX y { code := 0x0A } s)) ∧
      (StacksFit x.sk 0 0 → rest ≠ 0 → (∀ e ∈ x.sk.paths, e.1 ≠ x.path → without e.2.mask (x.sk.exited ||| y.act) ≠ 0) → AllWait x.sk y.act → pendRegs x.sk = [] →
        Controls (.exit c) y s (releaseAbove (updPathSk (exitLanes x.sk y.act) x.path (fun pa => goto pa (fallThrough x.pa, rest, x.pa.win))))) ∧
      (last → StacksFit x.sk 0 0 → x.sk.taskOpen = false → x.sk.copyFaults = [] → x.sk.mat = none → x.sk.exited ||| y.act = allLanes →
        ∃ sk', Controls (.exit c) y s sk' ∧ sk'.run = .exited ∧ sk'.exited = allLanes ∧ sk'.paths = [] ∧ sk'.stack = [] ∧ sk'.records = [] ∧
          sk'.frame = none ∧ sk'.heldTop = topOf x.sk ∧ sk'.kregs = x.sk.kregs ∧ sk'.preds = x.sk.preds)) ∧
    (Ready { guard := .coll } {} c x s → ∃ sk', Controls (.kill c) y s sk' ∧ sk'.run = .exited ∧ sk'.exited = allLanes ∧ sk'.paths = [] ∧
      sk'.stack = [] ∧ sk'.records = [] ∧ sk'.frame = none ∧ sk'.heldTop = topOf x.sk ∧ (∀ e ∈ sk'.ops, e.2.body ≠ .stitch) ∧
      sk'.killed = true ∧ sk'.copyFaults = [] ∧ (x.sk.taskOpen = true → sk'.discarding = true))

/-! Traps (spec/17), STITCH (spec/15), windows (spec/08) and special registers. -/


/-- R398 to R402, R404, R475: a trap writes FAULTINFO with the code, the detail, the lane, the STITCH depth, the path and the PC. With a
handler and outside handler mode it saves the paths, the stack and the records, puts the write of the detail block before whatever the skein
issues next, and goes on as one path at the handler's PC with the trapping path's running lanes, window and flags; what the other path had in
progress precedes nothing of the handler. The block leaves, when its page is at hand, as one request of the core's port, and the core's L1
drops its line; no byte of memory changes before that. A fatal trap, one without a handler or one in handler mode stops the skein, and its
bolt is to be parked. That the block travels as one request of the core's port is the model's choice (log entry 76). -/
def Obligations.TrapEntry : Prop :=
  (∀ (core slot path pc depth : Nat) (t : TrapInfo) (s : State) (sk : Skein) (pa : Path),
    skeinOf s core slot = some sk → NMap.get? sk.paths path = some pa → pa.stitchOp = none →
    let l := launchOf s core sk.bolt
    let F := faultInfoOf t sk.taskOpen depth path pc
    let ws : List DWord := [BitVec.ofNat 64 t.va, BitVec.ofNat 64 sk.taskId, t.word3]
    let u := trapAt core slot path pc depth t s
    (F.toNat / 2 ^ 56 = t.code % 256 ∧ F.toNat / 2 ^ 48 % 256 = t.detail % 256 ∧ F.toNat / 2 ^ 41 % 128 = t.lane % 128 ∧
      F.toNat / 2 ^ 40 % 2 = (if sk.taskOpen then 1 else 0) ∧ F.toNat / 2 ^ 38 % 4 = depth % 4 ∧ F.toNat / 2 ^ 37 % 2 = path % 2 ∧ F.toNat % 2 ^ 32 = pc % 2 ^ 32) ∧
    u = { s with cores := u.cores } ∧ (∀ n, n ≠ core → coreOf u n = coreOf s n) ∧
    ((fatalCode t.code = true ∨ l.handler = 0 ∨ sk.frame ≠ none) →
      skeinOf u core slot = some { sk with
        faultInfo := F, run := .stopped, control := []
        fatal := some (F, BitVec.ofNat 64 t.va, BitVec.ofNat 64 sk.taskId, t.word3, (if sk.frame.isSome then 1 else 0), BitVec.ofNat 64 s.clock) } ∧
      boltOf u core sk.bolt = (boltOf s core sk.bolt).map (fun b => { b with stop := some .park })) ∧
    (fatalCode t.code = false → l.handler ≠ 0 → sk.frame = none → ∃ q, skeinOf u core slot = some q ∧
      q = { sk with
        faultInfo := F, detail := ws, control := sk.control ++ [.detail (F :: ws)], ops := q.ops
        frame := some { paths := sk.paths.map (fun e => (e.1, { e.2 with wait := none, sleep := none })), trapPath := path, stack := sk.stack, records := sk.records
                        deep := sk.deep, opPaths := sk.ops.map (fun e => (e.1, e.2.path)) }
        paths := [(path, { pc := (l.handler - l.codeBase) / 12 % 2 ^ 32, mask := without pa.mask sk.exited, win := pa.win, flagOps := pa.flagOps })]
        stack := [], records := [], deep := (0, 0) } ∧
      (∀ n, (NMap.get? q.ops n).map (fun o => { o with path := 0 }) = (NMap.get? sk.ops n).map (fun o => { o with path := 0 })) ∧
      (path < 2 → ∀ n o, NMap.get? sk.ops n = some o → (NMap.get? q.ops n).map (fun o => o.ofPath path) = some (o.ofPath path)) ∧
      (∀ p, mayIssue u core slot p = false))) ∧
  (∀ (core slot : Nat) (ws : List DWord) (r : List ControlMove) (s : State) (sk : Skein), skeinOf s core slot = some sk → sk.control = .detail ws :: r → ws.length = 4 →
    let l := launchOf s core sk.bolt
    let va := 0x800 + skeinSection l (((boltOf s core sk.bolt).map Bolt.block).getD 0) sk.index
    let u := controlStep core slot s
    ∀ (p : TlbEntry) (z X : Xl), canonical va = true → va % 128 + 32 ≤ 128 → tlbFind (coreOf s core).tlb l.ctx (va57 va) = some p →
      tlbAccess p (va57 va) .write = .ok z → useCheck s (dieOf core) z .other = .ok X → isMain X.pa = true → X.pa % 128 + 32 ≤ 128 →
      (∃ q, skeinOf u core slot = some q ∧ q = { sk with control := r, ops := q.ops }) ∧ u.mem = s.mem ∧ NMap.get? (coreOf u core).l1 (X.pa / 128) = none ∧
      ∃ rs n m d, u.reqs = rs ++ [n] ∧ rs.map Req.id = s.reqs.map Req.id ∧ n.line = X.pa / 128 ∧ n.stage = .port ∧ n.port = core % 48 / 4 ∧ n.kind = .write m d ∧
        (∀ b, b < 128 → m.getLsbD b = decide (X.pa % 128 ≤ b ∧ b < X.pa % 128 + 32)) ∧
        ∀ j, j < 32 → some (lineByte d (X.pa % 128 + j)) = (wordBytes ws)[j]?)

/-- R353, R406: TRAP and BRK step past themselves and take a trap of code 0x30 or 0x31 with their immediate in word 3; with
DBGCFG bit 1 set BRK halts its skein in place instead, with its trap kept and FAULTINFO written. R354, R403: RTE outside handler mode
traps, and so it does while its skein is dual-path; else it restores the paths, the stack and the records of the trap frame, the
trapping path keeping the handler's flags, gives the operations that were in progress back to the paths that issued them, and leaves handler
mode; registers stay. -/
def Obligations.TrapInstructions : Prop :=
  (∀ (c : Ctl) (code : BitVec 16) (s : State) (x : Ctx),
    let y := activeCtx x c
    let t := fun n => ({ code := n, word3 := code.setWidth 64 } : TrapInfo)
    Ready { guard := .any } {} c x s →
    exec (.trap c code) s = .next (trapAt x.core x.slot x.path x.pc 0 (t 0x30) (retire y s)) ∧
    (s.dev.dbgcfg.getLsbD 1 = false → exec (.brk c code) s = .next (trapAt x.core x.slot x.path x.pc 0 (t 0x31) (retire y s))) ∧
    (s.dev.dbgcfg.getLsbD 1 = true → ∃ u, exec (.brk c code) s = .next u ∧
      skeinOf u x.core x.slot = (skeinOf (retire y s) x.core x.slot).map (fun sk =>
        { sk with run := .haltedBrk, faultInfo := faultInfoOf (t 0x31) x.sk.taskOpen 0 x.path x.pc, trap := some (t 0x31)
                  detail := [0, BitVec.ofNat 64 sk.taskId, code.setWidth 64] }) ∧
      (∀ n, n ≠ x.core → coreOf u n = coreOf s n))) ∧
  (∀ (c : Ctl) (s : State) (x : Ctx),
    let y := activeCtx x c
    Ready { guard := .coll } {} c x s →
    (x.sk.frame = none → exec (.rte c) s = .next (trapX y { code := 0x09 } s)) ∧
    (∀ f, x.sk.frame = some f → singlePath x.sk = false → exec (.rte c) s = .next (trapX y { code := 0x02 } s)) ∧
    (∀ f, x.sk.frame = some f → singlePath x.sk = true → x.sk.mat = none →
      pendRegs x.sk = [] → ∃ t back, exec (.rte c) s = .next t ∧ OnlySkein y { s with nextId := s.nextId + 1 } t ∧ skeinOf t x.core x.slot = some back ∧
        back.frame = none ∧ back.stack = f.stack ∧ back.records = f.records ∧ back.deep = f.deep ∧
        (∀ p, p ≠ f.trapPath → NMap.get? back.paths p = NMap.get? f.paths p) ∧
        (∀ q, NMap.get? f.paths f.trapPath = some q → q.stitch = [] → NMap.get? back.paths f.trapPath = some { q with flagOps := x.pa.flagOps }) ∧
        ((∀ e ∈ f.paths, e.2.stitch = []) → back.ops = x.sk.ops.map (fun e => (e.1, { e.2 with path := NMap.getD f.opPaths e.1 f.trapPath }))) ∧
        (∀ n, kget back n = kget x.sk n ∧ pget back n = pget x.sk n)))

/-- R355 to R359, R361, R363: STITCH reads the word of every active lane once and puts a lane into the group of a word exactly when the lane is
active, its word is that word and the word is permitted; the groups stand in ascending order of the words. It sets apart exactly the active
lanes whose word is not permitted, and counts as one operation; no register changes. -/
def Obligations.Stitch : Prop :=
  ∀ (c : Ctl) (d a : Nat) (tr : Bool) (s : State) (x : Ctx),
    let y := activeCtx x c
    let permitted := fun l => wordCond y (laneWord x a l) = none
    Ready { guard := .coll, activeMarks := true } (Instr.use (.stitch c d a tr)) c x s → flagRoom x c = true →
    (∃ t, exec (.stitch c d a tr) s = .next t) ∧
    (x.depth = 0 → ∃ t lv ill, exec (.stitch c d a tr) s = .next t ∧ OnlySkein y s { t with nextId := s.nextId } ∧ t.nextId = s.nextId + 1 ∧
      pathOf t x.core x.slot x.path = some { x.pa with
        stitch := lv :: x.pa.stitch, illegalWords := ill, stitchOp := some s.nextId, wait := none
        flagOps := x.pa.flagOps ++ ((flagOf x c).map (fun f => (f, s.nextId))).toList } ∧
      opOf t x.core x.slot s.nextId = some { cls := .collective, path := x.path, body := .stitch } ∧
      lv.set = y.act ∧ lv.pd = d ∧ (lv.groups.map Prod.fst).Pairwise (· < ·) ∧
      (∀ g m, (g, m) ∈ lv.groups → ∀ l, m.getLsbD l = true ↔ y.act.getLsbD l = true ∧ (laneWord x a l).toNat = g ∧ permitted l) ∧
      (∀ l, y.act.getLsbD l = true → permitted l → ∃ m, ((laneWord x a l).toNat, m) ∈ lv.groups) ∧
      (∀ l, lv.illegal.getLsbD l = true ↔ y.act.getLsbD l = true ∧ ¬permitted l) ∧
      (∀ sk, skeinOf t x.core x.slot = some sk → sk.vregs = x.sk.vregs ∧ sk.kregs = x.sk.kregs ∧ sk.preds = x.sk.preds))

/-- R199 to R203: GROW moves the end of the window up, its new positions reading zero, when the sizes and the backing stack allow it and
the core has the granules; SHRINK moves it down and releases what lies above every live window; other sizes trap. -/
def Obligations.GrowAndShrink : Prop :=
  ∀ (c : Ctl) (n : Word) (s : State) (x : Ctx),
    let y := activeCtx x c
    let w := x.pa.win
    let k := n.toNat
    let top := max (topOf x.sk) (w.base + w.size + k)
    let cap := 8 * (x.launch s).backing
    Ready { guard := .coll } {} c x s →
    (k % 8 ≠ 0 ∨ 240 < w.size + k → exec (.grow c n) s = .next (trapX y { code := 0x03 } s)) ∧
    (k % 8 = 0 → w.size + k ≤ 240 → cap < top → exec (.grow c n) s = .next (trapX y { code := 0x06 } s)) ∧
    (k % 8 = 0 → w.size + k ≤ 240 → top ≤ cap →
      ((top ≤ topOf x.sk ∧ ∀ r ∈ (coreOf s x.core).regReqs, r.slot ≠ x.slot ∨ r.path ≠ x.path) ∨ ((coreOf s x.core).regReqs = [] ∧ (top - topOf x.sk) / 8 ≤ freeGranules (coreOf s x.core))) →
      ∃ sk', exec (.grow c n) s = .next (retire y (setSkein s x.core x.slot sk')) ∧
        sk' = { x.sk with vregs := sk'.vregs, vmarks := sk'.vmarks, paths := nupdate x.sk.paths x.path (fun pa => { pa with win := ⟨w.base, w.size + k⟩ }) } ∧
        (∀ key, vget sk' key = if key < 16 + topOf x.sk then vget x.sk key else [])) ∧
    (k % 8 ≠ 0 ∨ w.size < 8 + k → exec (.shrink c n) s = .next (trapX y { code := 0x03 } s)) ∧
    (k % 8 = 0 → 8 + k ≤ w.size →
      (∀ key, .v key ∈ pendRegs x.sk → ¬(16 + w.base + w.size ≤ key + k ∧ key < 16 + w.base + w.size)) →
      ∃ sk', exec (.shrink c n) s = .next (retire y (setSkein s x.core x.slot sk')) ∧
        sk' = { x.sk with vregs := sk'.vregs, vmarks := sk'.vmarks, spilled := sk'.spilled, paths := nupdate x.sk.paths x.path (fun pa => { pa with win := ⟨w.base, w.size - k⟩ }) } ∧
        (∀ key, vget sk' key = if key < 16 + topOf sk' then vget x.sk key else []))

/-- R192, R407, R408: SREAD gives the special register of its number; SWRITE writes LK in any mode, in handler mode FAULTINFO, whose
reserved bits [36:32] read as zero (R6), and PROGIDX of the matrix instruction that the trap stopped; every other write traps. -/
def Obligations.SpecialRegisters : Prop :=
  ∀ (c : Ctl) (d : VK) (a : Src) (r : Nat) (s : State) (x : Ctx),
    let y := activeCtx x c
    let v := swriteValue y a r
    (Ready {} (Instr.use (.sread c d r)) c x s → r < 13 → GivesSome (.sread c d r) y s (sregRegs r) d (fun l w =>
      w = match r with
        | 0 => BitVec.ofNat 64 l
        | 1 => BitVec.ofNat 64 (x.slot * 256 + x.sk.index)
        | 2 => BitVec.ofNat 64 (firstSlot s x)
        | 3 => BitVec.ofNat 64 (x.slot / 16)
        | 4 => BitVec.ofNat 64 x.core
        | 5 => BitVec.ofNat 64 (x.core / 4)
        | 6 => BitVec.ofNat 64 (x.core / 48)
        | 7 => BitVec.ofNat 64 (partOf s x.core)
        | 8 => BitVec.ofNat 64 s.clock
        | 9 => progIdx x.sk
        | 10 => BitVec.ofNat 64 x.sk.taskId
        | 11 => x.sk.faultInfo
        | _ => (vlane x.sk.lk l).setWidth 64)) ∧
    (Ready {} (Instr.use (.swrite c a r)) c x s →
      (r = 12 → ∃ lk, exec (.swrite c a r) s = .next (retire y (setSkein s x.core x.slot { x.sk with lk := lk })) ∧
        ∀ l, l < 128 → vlane lk l = if y.act.getLsbD l then (v l).setWidth 32 else vlane x.sk.lk l) ∧
      (r = 11 → x.sk.frame ≠ none → exec (.swrite c a r) s = .next (retire y (setSkein s x.core x.slot { x.sk with faultInfo := v (oneOf y) &&& ~~~(0x1F00000000 : DWord) }))) ∧
      (r = 9 → x.sk.frame ≠ none → x.sk.mat = none → exec (.swrite c a r) s = .next (retire y s)) ∧
      (∀ m, r = 9 → x.sk.frame ≠ none → x.sk.mat = some m → matStopped x.sk m = true →
        exec (.swrite c a r) s = .next (retire y (setSkein s x.core x.slot { x.sk with mat := some (setProgIdx (v (oneOf y)) m) }))) ∧
      ((r ≠ 12 ∧ (x.sk.frame = none ∨ (r ≠ 9 ∧ r ≠ 11))) → exec (.swrite c a r) s = .next (trapX y { code := 0x29 } s)))

/-! Memory instructions (spec/09, spec/10). At issue nothing in memory changes: loads and stores reach it through the events below. -/

/-- A lane's element needs a byte of a line. -/
def Needs (xs : Passed) (n line b : Nat) : Prop := ∃ e ∈ xs, e.2.2.pa / 128 = line ∧ e.2.2.pa % 128 ≤ b ∧ b < e.2.2.pa % 128 + n
/-- A part of a load holds the bytes of its line that the core has (R216): the youngest entry of the skein's store queue that lists a byte gives
it, else the L1, by its valid bytes on the L1's own path and by its dirty ones on any other; `strong` are the queue's and the dirty ones. -/
def FoundInCore (s : State) (x : Ctx) (l1 : Bool) (p : LoadPart) : Prop :=
  let line := NMap.get? (coreOf s x.core).l1 p.line
  let queued := fun b => ∃ e ∈ x.sk.sq, e.line = p.line ∧ e.mask.getLsbD b = true
  (∀ b, b < 128 → (p.found.getLsbD b = true ↔ queued b ∨ ∃ z, line = some z ∧ (if l1 then z.valid else z.dirty).getLsbD b = true)) ∧
  (∀ b, b < 128 → (p.strong.getLsbD b = true ↔ queued b ∨ ∃ z, line = some z ∧ z.dirty.getLsbD b = true)) ∧
  (∀ q e r b, x.sk.sq = q ++ e :: r → b < 128 → e.line = p.line → e.mask.getLsbD b = true → (∀ f ∈ r, f.line = p.line → f.mask.getLsbD b = false) →
    lineByte p.data b = lineByte e.data b) ∧
  (∀ z b, line = some z → b < 128 → ¬queued b → (if l1 then z.valid else z.dirty).getLsbD b = true → lineByte p.data b = lineByte z.data b)
/-- A load has begun: it counts as one operation, and nothing else of the machine changes but for the requests it sends. Its elements are those of
the translated addresses whose word is kept (of a uniform destination the lowest active lane's alone), each with its lane, its line and its
offset; a lane takes bytes of one 16-byte unit from the core alone when the core has all that its access `grp` needs of that unit (R242). It
has one part for each line, with the bytes found in the core (R216), and, unless those are all it needs there, one read request for the bytes
needed, linked to it by its number (R217). -/
def LoadBegun (i : Instr) (c : Ctl) (x : Ctx) (s : State) (dst : List RegRef) (lane : Nat → Option Nat) (n : Nat) (signed : Bool) (sc : Scope) (cp : CPol)
    (grp : Nat → Nat) (xs : Passed) : Prop :=
  ∃ parts elems reqs next, exec i s = .next { setSkein (clearWalkFaults s x.core x.slot) x.core x.slot (skeinBegun x c s.nextId
      { cls := .memory, path := x.path, fromStitch := x.inWord, isLoad := true, device := isDevice xs, pend := dst, body := .load parts elems n signed dst })
      with reqs := (clearWalkFaults s x.core x.slot).reqs ++ reqs, nextId := next } ∧
    s.nextId < next ∧
    (∀ e ∈ xs, (lane e.1).isSome = true ∨ e.1 = oneOf x → ∃ el ∈ elems, el.lane = lane e.1 ∧ el.off = e.2.2.pa % 128 ∧ ∃ p, parts[el.part]? = some p ∧ p.line = e.2.2.pa / 128) ∧
    (∀ el ∈ elems, ∃ e ∈ xs, ((lane e.1).isSome = true ∨ e.1 = oneOf x) ∧ el.lane = lane e.1 ∧ el.off = e.2.2.pa % 128 ∧
      (∃ p, parts[el.part]? = some p ∧ p.line = e.2.2.pa / 128) ∧
      (el.whole = true ↔ ∀ z ∈ xs, grp z.1 = grp e.1 → z.2.2.pa / 16 = e.2.2.pa / 16 → ∀ p ∈ parts, p.line = z.2.2.pa / 128 →
        ∀ b, b < 128 → z.2.2.pa % 128 ≤ b → b < z.2.2.pa % 128 + n → p.found.getLsbD b = true)) ∧
    (parts.map LoadPart.line).Nodup ∧ (∀ line, (∃ p ∈ parts, p.line = line) ↔ ∃ e ∈ xs, e.2.2.pa / 128 = line) ∧
    (∀ r ∈ reqs, ∃ k p, parts[k]? = some p ∧ p.req = some r.id ∧ r.who = .load x.core x.slot s.nextId k) ∧
    ∀ k p, parts[k]? = some p → p.arrived = false ∧ ∃ e ∈ xs, e.2.2.pa / 128 = p.line ∧
      ((∀ o, regionOf e.2.2.pa ≠ .regs o) → FoundInCore s x (usesL1 sc cp e.2.2) p ∧
        ((∀ b, b < 128 → Needs xs n p.line b → p.found.getLsbD b = true) → p.req = none) ∧
        ((∃ b, b < 128 ∧ Needs xs n p.line b ∧ p.found.getLsbD b = false) → p.allocate = usesL1 sc cp e.2.2 ∧
          ∃ r ∈ reqs, p.req = some r.id ∧ r.who = .load x.core x.slot s.nextId k ∧ r.line = p.line ∧ r.stage = .port ∧ r.port = portOf x.core ∧ r.policy = slicePol cp e.2.2 ∧
            ∃ need, r.kind = .read need ∧ ∀ b, b < 128 → (need.getLsbD b = true ↔ Needs xs n p.line b)))

/-- R216 to R219, R222, R224, R225: LD, LDB and LDK, once their accesses pass and no outstanding load of the path holds their lines, begin a
load of every active lane's address, of the words of each 32-lane group's block, or of the one address of a uniform pair. -/
def Obligations.Loads : Prop :=
  ∀ (c : Ctl) (d a : VK) (dk ak : Nat) (off : Word) (sz : ASize) (sc : Scope) (cp : CPol) (wide : Bool) (xs : Passed) (s : State) (x : Ctx),
    let y := activeCtx x c
    let n := sizeOf8 sz
    let acc := match d with | .v _ => laneEas y a off | .k _ => oneEa y a off
    let one := oneEa y (.k ak) off
    let nk := if wide then 8 else 4
    loadRoom y xs s = true →
    (Ready { activeMarks := true } (Instr.use (.ld c d a off sz sc cp)) c x s →
      Accesses y c { kind := .read, use := .plain n, size := n, align := n, rel := false, acq := true, reads := true, writes := false } acc acc s xs →
      (∃ t, exec (.ld c d a off sz sc cp) s = .next t) ∧
      LoadBegun (.ld c d a off sz sc cp) c y s (dstRefs y d sz.regs) (dstLane d) n (sizeSigned sz) sc cp id xs) ∧
    (Ready { activeMarks := true } (Instr.use (.ldb c d a off sc cp)) c x s →
      Accesses y c { kind := .read, use := .other, size := 4, align := 16, rel := false, acq := true, reads := true, writes := false }
        (blockBases y a off) (blockWords y a off) s xs →
      (∃ t, exec (.ldb c d a off sc cp) s = .next t) ∧
      LoadBegun (.ldb c d a off sc cp) c y s (dstRefs y d 1) (dstLane d) 4 false sc cp (· / 32) xs) ∧
    (Ready { guard := .coll, activeMarks := true } (Instr.use (.ldk c dk ak off wide sc cp)) c x s →
      Accesses y c { kind := .read, use := .other, size := nk, align := nk, rel := false, acq := true, reads := true, writes := false } one one s xs →
      (∃ t, exec (.ldk c dk ak off wide sc cp) s = .next t) ∧
      LoadBegun (.ldk c dk ak off wide sc cp) c y s (dstRefs y (.k dk) (wideRegs wide)) (dstLane (.k dk)) nk false sc cp id xs) ∧
    (∀ l, laneEas y a off = (lanesOf y.act).map (fun l => (l, (vkPair y a l + off.signExtend 64).toNat)) ∧
      (l, eaOf y a off l) ∈ laneEas y a off → y.act.getLsbD l = true) ∧
    (∀ l, y.act.getLsbD l = true → ∃ b, blockBase y a off (l / 32) = some b ∧ (l, (b.2 + 4 * (l % 32)) % 2 ^ 64) ∈ blockWords y a off)

/-- A store has begun: the bytes of its elements, the highest lane winning each, stand in its queue behind what was there; registers and
memory are as before. -/
def StoreBegun (i : Instr) (x : Ctx) (s : State) (b : VK) (n : Nat) (xs : Passed) : Prop :=
  ∃ t sk ents, exec i s = .next t ∧ OnlySkein x (clearWalkFaults s x.core x.slot) { t with nextId := s.nextId } ∧ s.nextId ≤ t.nextId ∧
    skeinOf t x.core x.slot = some sk ∧ sk.sq ++ sk.sqWait = x.sk.sq ++ x.sk.sqWait ++ ents ∧ (x.sk.sq.length ≤ 32 → sk.sq.length ≤ 32) ∧
    sk.vregs = x.sk.vregs ∧ sk.kregs = x.sk.kregs ∧ sk.preds = x.sk.preds ∧ sk.versions = x.sk.versions ∧
    (∀ addr, (∃ e ∈ ents, e.line = addr / 128 ∧ e.mask.getLsbD (addr % 128) = true) ↔ ∃ z ∈ xs, z.2.2.pa ≤ addr ∧ addr < z.2.2.pa + n) ∧
    (∀ e ∈ ents, ∀ z ∈ xs, ∀ j, j < n → e.line = (z.2.2.pa + j) / 128 →
      (∀ z' ∈ xs, z'.2.2.pa ≤ z.2.2.pa + j → z.2.2.pa + j < z'.2.2.pa + n → z'.1 ≤ z.1) →
      some (lineByte e.data ((z.2.2.pa + j) % 128)) = (storeBytes x b n z.1)[j]?)

/-- R215, R222, R224, R225: ST, STB and STK, once their accesses pass, put the bytes of their elements into the store queue; `ver` inside an open
task puts them into the versions of the task instead (R186, R187), at once where no line that may have to leave its way is dirty (R116). -/
def Obligations.Stores : Prop :=
  ∀ (c : Ctl) (a b : VK) (ak bk : Nat) (off : Word) (sz : ASize) (sc : Scope) (cp : CPol) (wide ver : Bool) (xs : Passed) (s : State) (x : Ctx),
    let y := activeCtx x c
    let n := sizeOf8 sz
    let one := oneEa y (.k ak) off
    let nk := if wide then 8 else 4
    let plain := ver = false ∨ x.sk.taskOpen = false
    let whole := fun n => ∀ e ∈ xs, e.2.2.pa % 128 + n ≤ 128
    let clear := ∀ z ∈ xs, ∀ k, k / 16 = z.2.2.pa / 128 % 8192 → ∀ l, NMap.get? (sliceOf s (homeSlice s z.2.2.pa)).lines k = some l → l.dirty = false
    let covers := fun (n : Nat) (z : Nat × Nat × Xl) (addr : Nat) => z.2.2.pa ≤ addr ∧ addr < z.2.2.pa + n
    let bytesOf := fun (sk : Skein) (addr : Nat) => lineByte (NMap.getD sk.versions (addr / 128) (0, 0)).2 (addr % 128)
    let taskStore := fun (i : Instr) (n : Nat) => ∃ t sk, exec i s = .next t ∧ skeinOf t x.core x.slot = some sk ∧ t.mem = s.mem ∧ t.reqs = (clearWalkFaults s x.core x.slot).reqs ∧
      sk.sq = x.sk.sq ∧ sk.sqWait = x.sk.sqWait ∧ sk.vregs = x.sk.vregs ∧ sk.kregs = x.sk.kregs ∧
      (∀ addr, (NMap.getD sk.versions (addr / 128) (0, 0)).1.getLsbD (addr % 128) = true ↔
        (NMap.getD x.sk.versions (addr / 128) (0, 0)).1.getLsbD (addr % 128) = true ∨ ∃ z ∈ xs, covers n z addr) ∧
      -- the version takes the bytes of the registers, the highest lane winning, and keeps the others
      (∀ z ∈ xs, ∀ j, j < n → (∀ w ∈ xs, covers n w (z.2.2.pa + j) → w.1 ≤ z.1) → some (bytesOf sk (z.2.2.pa + j)) = (storeBytes y b n z.1)[j]?) ∧
      (∀ addr, (∀ z ∈ xs, ¬covers n z addr) → bytesOf sk addr = bytesOf x.sk addr)
    (Ready { activeMarks := true } (Instr.use (.st c a b off sz sc cp ver)) c x s → whole n → (isDevice xs && deviceBusy y) = false →
      Accesses y c { kind := .write, use := .plain n, size := n, align := n, rel := true, acq := true, reads := false, writes := true }
        (laneEas y a off) (laneEas y a off) s xs →
      (plain → (∃ t, exec (.st c a b off sz sc cp ver) s = .next t) ∧ StoreBegun (.st c a b off sz sc cp ver) y s b n xs) ∧
      (¬plain → (dedup (NMap.keys x.sk.versions ++ (storeLines y b n xs).map Prod.fst)).length ≤ 2048 → clear → taskStore (.st c a b off sz sc cp ver) n)) ∧
    (Ready { activeMarks := true } (Instr.use (.stb c a b off sc cp ver)) c x s → whole 4 →
      Accesses y c { kind := .write, use := .other, size := 4, align := 16, rel := true, acq := true, reads := false, writes := true }
        (blockBases y a off) (blockWords y a off) s xs →
      (plain → (∃ t, exec (.stb c a b off sc cp ver) s = .next t) ∧ StoreBegun (.stb c a b off sc cp ver) y s b 4 xs) ∧
      (¬plain → (dedup (NMap.keys x.sk.versions ++ (storeLines y b 4 xs).map Prod.fst)).length ≤ 2048 → clear → taskStore (.stb c a b off sc cp ver) 4)) ∧
    (Ready { guard := .coll, activeMarks := true } (Instr.use (.stk c ak bk off wide sc cp)) c x s → whole nk →
      Accesses y c { kind := .write, use := .other, size := nk, align := nk, rel := true, acq := true, reads := false, writes := true } one one s xs →
      (∃ t, exec (.stk c ak bk off wide sc cp) s = .next t) ∧ StoreBegun (.stk c ak bk off wide sc cp) y s (.k bk) nk xs)

/-- R226, R227: LDP and STP reach the tile store of a core of the cluster, LDW the weight store of the die. STP writes the bytes of its lanes, the
highest lane winning, and no other byte of any tile store, and its acknowledgement is awaited; that the bytes move at issue is the model's
choice (log entry 28). -/
def Obligations.PeerAndWeight : Prop :=
  ∀ (c : Ctl) (d a : Nat) (b : VK) (off : Word) (sz : ASize) (peer : Nat) (s : State) (x : Ctx),
    let y := activeCtx x c
    let n := sizeOf8 sz
    let p := x.core / 4 * 4 + peer
    let acc := (lanesOf y.act).map (fun l => (l, (vRead y a l + off).toNat))
    let inTile := ∀ e ∈ acc, e.2 < 2 ^ 27 ∧ e.2 % 2 ^ 19 % n = 0 ∧ tilePresent s p (e.2 / 2 ^ 19 % 2 ^ 8) = true ∧
      e.2 % 2 ^ 19 + n ≤ 128 * (tileOf s p (e.2 / 2 ^ 19 % 2 ^ 8)).size
    let unwatched := fun (reads writes : Bool) => ∀ i, i < 8 → watchLane s y reads writes n i acc = none
    let begun := fun (i : Instr) (body : OpBody) (dst : List RegRef) =>
      exec i s = .next { setSkein s x.core x.slot (skeinBegun y c s.nextId
        { cls := .memory, path := x.path, fromStitch := y.inWord, isLoad := true, pend := dst, body := body }) with nextId := s.nextId + 1 }
    (Ready { activeMarks := true } (Instr.use (.ldp c d a off sz peer)) c x s → memHeld y false true = false → flagRoom y c = true → inTile → unwatched true false →
      ∃ parts elems, begun (.ldp c d a off sz peer) (.load parts elems n (sizeSigned sz) (dstRefs y (.v d) sz.regs)) (dstRefs y (.v d) sz.regs) ∧
        ∀ e ∈ acc, ∃ el ∈ elems, el.lane = some e.1 ∧ el.off = 0 ∧ ∃ q, parts[el.part]? = some q ∧ q.req = none ∧ q.arrived = false ∧
          ∀ j, j < n → lineByte q.data j = tileByte s p (peerByte s p e.2 + j)) ∧
    (Ready { activeMarks := true } (Instr.use (.stp c a b off sz peer)) c x s → memHeld y true true = false → inTile → unwatched false true →
      flagRoom y c = true → ∃ t ack, exec (.stp c a b off sz peer) s = .next { setSkein t x.core x.slot (skeinBegun y c s.nextId
          { cls := .memory, path := x.path, fromStitch := y.inWord, body := .load [ack] [] 0 false [] }) with nextId := s.nextId + 1 } ∧
        t = { s with cores := t.cores } ∧ (∀ q, q ≠ p → coreOf t q = coreOf s q) ∧
        coreOf t p = { coreOf s p with tileBytes := (coreOf t p).tileBytes } ∧
        (∀ addr, (∀ e ∈ acc, addr < peerByte s p e.2 ∨ peerByte s p e.2 + n ≤ addr) → tileByte t p addr = tileByte s p addr) ∧
        (∀ e ∈ acc, ∀ j, j < n → (∀ e' ∈ acc, peerByte s p e'.2 ≤ peerByte s p e.2 + j → peerByte s p e.2 + j < peerByte s p e'.2 + n → e'.1 ≤ e.1) →
          some (tileByte t p (peerByte s p e.2 + j)) = (storeBytes y b n e.1)[j]?)) ∧
    (Ready { activeMarks := true } (Instr.use (.ldw c d a off sz)) c x s → memHeld y false true = false → flagRoom y c = true → unwatched true false → holdsGate s y = true →
      s.dev.wstore.getLsbD (x.core / 48) = true → (∀ e ∈ acc, e.2 % n = 0 ∧ e.2 + n ≤ 0xC000000) →
      begun (.ldw c d a off sz) (.weight acc n (sizeSigned sz) (dstRefs y (.v d) sz.regs)) (dstRefs y (.v d) sz.regs)) ∧
    (Ready { activeMarks := true } (Instr.use (.ldw c d a off sz)) c x s → memHeld y false true = false → s.dev.wstore.getLsbD (x.core / 48) = true → holdsGate s y = false →
      (∀ e ∈ acc, e.2 % n = 0 ∧ e.2 + n ≤ 0xC000000) →
      exec (.ldw c d a off sz) s = .next (trapX y { code := 0x1F, lane := oneOf y, va := (acc.headD (0, 0)).2 } s))

/-- An instruction that raises no trap passes what every issue asks (R231, R232, R332): no register is read for its mark. -/
def QuietReady (k : Checks) (u : RU) (c : Ctl) (x : Ctx) (s : State) : Prop :=
  ctxOf s = some x ∧ guardLanes x c ≠ 0 ∧ (k.guard = .coll → guardLanes x c = x.lanes ∨ x.depth ≠ 0) ∧
  (u.rv ++ u.wv).all (vOkIn x.sk.globals x.pa.win) = true ∧ wordBusy x u = false
/-- From `sk` to `t` the vector registers of `dst` take, by their place j in it, word j of `f` in the lanes that `f` gives, the uniform registers
word j of `one`, and no other register value changes. -/
def DstTake (sk t : Skein) (dst : List RegRef) (f : Nat → Option Nat) (one : Option Nat) : Prop :=
  (∀ (j key l : Nat), dst[j]? = some (.v key) → l < 128 → vlane (vget t key) l = match f l with | some v => BitVec.ofNat 32 (v / 2 ^ (32 * j)) | none => vlane (vget sk key) l) ∧
  (∀ (j n : Nat), dst[j]? = some (.k n) → kget t n = match one with | some v => BitVec.ofNat 32 (v / 2 ^ (32 * j)) | none => kget sk n) ∧
  (∀ key, .v key ∉ dst → vget t key = vget sk key) ∧ (∀ n, .k n ∉ dst → kget t n = kget sk n) ∧ ∀ n, pget t n = pget sk n
/-- The registers of `dst` carry a poison mark in the delivered lanes exactly where `bad` says, and, for a later part of a load, where they had one
already (R220). -/
def MarksTake (sk t : Skein) (dst : List RegRef) (lanes bad : Nat → Prop) (some_ anyBad later : Prop) : Prop :=
  (∀ key l, .v key ∈ dst → l < 128 → lanes l → ((NMap.getD t.vmarks key 0).getLsbD l = true ↔ bad l ∨ (later ∧ (NMap.getD sk.vmarks key 0).getLsbD l = true))) ∧
  (∀ n, .k n ∈ dst → some_ → (n ∈ t.kmarks ↔ anyBad ∨ (later ∧ n ∈ sk.kmarks)))
/-- The inbound writes that came before number `n`, and that an acquire at a scope waits for, have been performed (R229, R248). -/
def InboundIn (s : State) (sc : Scope) (n : Nat) : Prop := (5 ≤ scopeRank sc → ∀ w ∈ s.podBuf, n ≤ w.num) ∧ (sc = .sys → ∀ w ∈ s.hostBuf, n ≤ w.num)
/-- A write that a core has sent, not one of a copy still under way, holds back a release at the scope (R229, R244). -/
def HoldsRelease (s : State) (core : Nat) (sc : Scope) (r : Req) : Prop :=
  r.isWrite = true ∧ r.who.core = some core ∧ (∀ c n i, r.who = .copy c n i → ∀ q ∈ (coreOf s core).copyq, q.op ≠ n) ∧ releaseWaits sc r = true
/-- The release at a scope finds nothing to wait for: the earlier loads are back, beyond the skein its store queue is empty, and beyond the
bolt no line of the L1 is dirty and no write of the core is on its way (09 Table 3). -/
def Released (s : State) (core slot : Nat) (sk : Skein) (sc : Scope) (loads : List Nat) : Prop :=
  (∀ n ∈ loads, opOf s core slot n = none) ∧ (sc ≠ .sk → sk.sq = [] ∧ sk.sqWait = []) ∧
  (2 ≤ scopeRank sc → (∀ r ∈ s.reqs, ¬HoldsRelease s core sc r) ∧ ∀ l e, NMap.get? (coreOf s core).l1 l = some e → isMain (128 * l) = true → e.dirty = 0)
/-- R228 to R232: ATOM, ATOMC, FENCE, CFLUSH, CINV and SEQR begin their operation, after which what waits in the core goes on as far as it can;
CFLUSH and CINV at a scope that needs nothing retire at once; PREF posts prefetches and drops lanes that would fault. As a waiting operation goes
on (`pokeOp`), a FENCE is complete exactly when its release and its acquire find nothing to wait for, and an acquire beyond the bolt leaves no
clean byte in the L1; CFLUSH and CINV post the dirty lines once the store queue is empty, and CINV drops the clean bytes; SEQR takes the last
stamp once every earlier write has been acknowledged; an atomic sends its requests after its release, and D takes the old values, with
their marks, when all have answered.
What SEQR waits for is log entry 37, and which lanes are marked log entry 16. -/
def Obligations.AtomicsAndFences : Prop :=
  (∀ (c : Ctl) (d a b cc : VK) (off : Word) (op : AtomOp) (ty : IType) (k : FenceKind) (sc : Scope) (l2 : Bool) (xs : Passed) (s : State) (x : Ctx),
    let y := activeCtx x c
    let n := itWidth ty / 8
    let whole : Option AtomOp → Access := fun o => { kind := .write, use := .atomic (hostAtomicOk o ty), size := n, align := n, rel := true, acq := true, reads := true, writes := true }
    let line : Access := { kind := .read, use := .other, size := 1, align := 1, rel := false, acq := true, reads := false, writes := false }
    let begun := fun (i : Instr) (u : State) (o : Op) => exec i s = .next (pokeCore
      { setSkein u x.core x.slot (skeinBegun y c s.nextId { o with path := x.path, fromStitch := y.inWord }) with nextId := s.nextId + 1 } x.core)
    let clear := clearWalkFaults s x.core x.slot
    let quiet := fun (u : RU) => QuietReady {} u c x s ∧ memHeld y false true = false
    let refs := dstRefs y d ty.regs
    let atomic := fun (i : Instr) (o : Option AtomOp) (bv cv : Nat → DWord) =>
      ∃ todo, begun i clear { cls := .memory, path := x.path, isLoad := true, pend := refs, body := .atomic todo todo.length sc [] ty refs false { loads := pathLoads x.sk x.path } } ∧
        todo = xs.map (fun e => (e.1, e.2.2.pa / 128, { op := o.getD .exch, isCas := o.isNone, ty := ty, off := e.2.2.pa % 128, b := bv e.1, c := cv e.1 : AtomReq }))
    let flushed := fun (i : Instr) (inv : Bool) (u : State) (lines : Option (List Nat)) =>
      if scopeRank sc ≤ 1 then exec i s = .next (retire y u) else begun i u { cls := .memory, path := x.path, body := .flush inv sc lines {} }
    (Ready { activeMarks := true } (Instr.use (.atom c d a b off op ty sc)) c x s → Accesses y c (whole (some op)) (laneEas y a off) (laneEas y a off) s xs →
      atomic (.atom c d a b off op ty sc) (some op) (vkBits y ty b) (fun _ => 0)) ∧
    (Ready { activeMarks := true } (Instr.use (.atomc c d a b cc ty sc)) c x s → Accesses y c (whole none) (laneEas y a 0) (laneEas y a 0) s xs →
      atomic (.atomc c d a b cc ty sc) none (vkBits y ty b) (vkBits y ty cc)) ∧
    (Ready { guard := .any } {} c x s → memHeld y false true = false → flagRoom y c = true →
      begun (.fence c k sc) s { cls := .memory, path := x.path, body := .fence k sc { loads := pathLoads x.sk x.path } }) ∧
    (Ready { guard := .any } {} c x s → memHeld y false true = false → flagRoom y c = true →
      flushed (.cflush c none off sc) false s none ∧ flushed (.cinv c none off sc) true s none) ∧
    (Ready {} (Instr.use (.cflush c (some a) off sc)) c x s → Accesses y c line (laneEas y a off) (laneEas y a off) s xs →
      let lines := some (dedup (xs.map (fun e => e.2.2.pa / 128)))
      flushed (.cflush c (some a) off sc) false clear lines ∧ flushed (.cinv c (some a) off sc) true clear lines) ∧
    (quiet (Instr.use (.seqr c d)) → flagRoom y c = true →
      begun (.seqr c d) s { cls := .memory, path := x.path, isLoad := true, pend := dstRefs y d 2, body := .seqr (dstRefs y d 2) y.act s.nextId }) ∧
    (quiet (Instr.use (.pref c a off l2)) → ∃ t new, exec (.pref c a off l2) s = .next (retire y t) ∧
      t.mem = s.mem ∧ t.reqs = s.reqs ++ new ∧ (∀ r ∈ new, r.who = .prefetch x.core ∧ r.kind = .prefetch ∨ r.who = .prefetch x.core ∧ r.kind = .read allLanes ∧ l2 = false) ∧
      skeinOf t x.core x.slot = some x.sk ∧
      -- a lane whose line lies in main memory asks for that line, when the core has every lane's translation; one that would fault asks for none
      ((∀ e ∈ laneEas y a off, canonical e.2 = true → (tlbFind (coreOf s x.core).tlb (x.launch s).ctx (va57 e.2 / 128 * 128)).isSome = true) →
        ∀ e ∈ laneEas y a off, ∀ p z w, canonical e.2 = true → addrMarked y a e.1 = false → tlbFind (coreOf s x.core).tlb (x.launch s).ctx (va57 e.2 / 128 * 128) = some p →
        tlbAccess p (va57 e.2 / 128 * 128) .read = .ok z → useCheck s x.die z .other = .ok w → isMain w.pa = true → ∃ r ∈ new, r.line = w.pa / 128) ∧
      (∀ r ∈ new, ∃ e ∈ laneEas y a off, canonical e.2 = true ∧ addrMarked y a e.1 = false))) ∧
  (∀ (core slot op : Nat) (o : Op) (sk : Skein) (s : State), skeinOf s core slot = some sk → opOf s core slot op = some o →
    let u := pokeOp core slot s op
    let done := opOf u core slot op = none
    let noClean := ∀ l e, NMap.get? (coreOf u core).l1 l = some e → ∀ b, e.valid.getLsbD b = true → e.dirty.getLsbD b = true
    let allClean := ∀ l e, NMap.get? (coreOf s core).l1 l = some e → e.dirty = 0
    (∀ k sc pg, o.body = .fence k sc pg → pg.stage = 0 → pg.inbound = none →
      let acquired := (∀ n ∈ pg.loads, opOf s core slot n = none) ∧ InboundIn s sc s.nextId
      (done → (k ≠ .acq → Released s core slot sk sc pg.loads) ∧ (k ≠ .rel → acquired ∧ (2 ≤ scopeRank sc → noClean))) ∧
      ((s.reqs.map Req.id).Nodup → (k ≠ .acq → Released s core slot sk sc pg.loads ∧ allClean) → (k ≠ .rel → acquired) → done)) ∧
    (∀ inv sc lines pg, o.body = .flush inv sc lines pg → pg.stage = 0 → pg.inbound = none →
      let chosen := fun (l : Nat) => match lines with | some ls => l ∈ ls | none => (NMap.get? (coreOf s core).l1 l).isSome = true
      let begins := sk.sq = [] ∧ sk.sqWait = [] ∧ (inv = true → InboundIn s sc s.nextId)
      (¬begins → ¬done ∧ u.reqs = s.reqs) ∧
      (begins → ∀ l e, chosen l → NMap.get? (coreOf s core).l1 l = some e → e.dirty ≠ 0 →
        ∃ r ∈ u.reqs, r.who = .writeback core (some slot) ∧ r.line = l ∧ r.kind = .write e.dirty e.data ∧ s.nextId ≤ r.id) ∧
      (done → begins ∧ (∀ r ∈ s.reqs, ¬HoldsRelease s core .dev r) ∧ (∀ l e, chosen l → NMap.get? (coreOf s core).l1 l = some e → isMain (128 * l) = true → e.dirty = 0) ∧
        (inv = true → ∀ l e, chosen l → NMap.get? (coreOf u core).l1 l = some e → ∀ b, e.valid.getLsbD b = true → e.dirty.getLsbD b = true)) ∧
      ((s.reqs.map Req.id).Nodup → begins → (∀ r ∈ s.reqs, ¬HoldsRelease s core .dev r) → allClean → (inv = true ∨ sc ≠ .sys) → done)) ∧
    (∀ dst lanes mark, o.body = .seqr dst lanes mark → dst.Nodup →
      (done ↔ (∀ e ∈ sk.ops, e.1 < op → (∀ t l z g y d b p, e.2.body ≠ .atomic t l z g y d b p) ∧ (∀ n, e.2.body ≠ .store n) ∧ (∀ k z p, e.2.body ≠ .fence k z p) ∧
        ∀ i z l p, e.2.body ≠ .flush i z l p) ∧ ∀ r ∈ s.reqs, r.who = .writeback core (some slot) → mark ≤ r.id) ∧
      (done → ∃ t, skeinOf u core slot = some t ∧ DstTake sk t dst (fun l => if lanes.getLsbD l then some sk.lastStamp.toNat else none) (some sk.lastStamp.toNat))) ∧
    (∀ todo left sc got ty dst pg, o.body = .atomic todo left sc got ty dst true pg → dst.Nodup → got ≠ [] → (got.map Prod.fst).Nodup → (∀ g ∈ got, g.1 < 128) →
      (done ↔ left = 0 ∧ (sc = .sk ∨ ((∀ n ∈ pg.loads, opOf s core slot n = none) ∧ InboundIn s sc (pg.inbound.getD s.nextId)))) ∧
      (done → ∃ (t : Skein) (w : Nat → DWord) (first : Nat × DWord × Bool), skeinOf u core slot = some t ∧ first ∈ got ∧ (∀ g ∈ got, first.1 ≤ g.1 ∧ HoldsPat ty g.2.1.toNat (w g.1)) ∧
        DstTake sk t dst (fun l => if (got.any (fun g => decide (g.1 = l))) = true then some (w l).toNat else none) (some (w first.1).toNat) ∧
        MarksTake sk t dst (fun l => ∃ g ∈ got, g.1 = l) (fun l => ∃ g ∈ got, g.1 = l ∧ g.2.2 = true) True (∃ g ∈ got, g.2.2 = true) False)) ∧
    (∀ todo left sc got ty dst pg, o.body = .atomic todo left sc got ty dst false pg → pg.stage = 0 →
      let sent := ∃ p' q, opOf u core slot op = some p' ∧ p'.body = .atomic todo left sc got ty dst true q
      let free := sk.sq = [] ∧ sk.sqWait = [] ∧ (sc ≠ .sk → Released s core slot sk sc pg.loads)
      ¬done ∧ (sent → free) ∧ ((s.reqs.map Req.id).Nodup → free → (2 ≤ scopeRank sc → allClean) →
        sent ∧ ∀ t ∈ todo, ∃ r ∈ u.reqs, r.kind = .atomic t.2.2 ∧ r.who = .atomic core slot op t.1 ∧ r.line = t.2.1 ∧ r.stage = .port ∧ s.nextId ≤ r.id)))

/-! Tiles and copies (spec/07). -/

/-- From `s` to `t` tile table entries change to those that `f` gives, by core and number, and nothing else of the machine. -/
def TilesBecome (s t : State) (f : Nat → Nat → Option TileEntry) : Prop :=
  t = { s with cores := t.cores } ∧ (∀ n, coreOf t n = { coreOf s n with tiles := (coreOf t n).tiles }) ∧ ∀ n e, tileOf t n e = (f n e).getD (tileOf s n e)
/-- One entry of a core's tile table changes. -/
def oneTile (core d : Nat) (e : TileEntry) (n k : Nat) : Option TileEntry := if n = core ∧ k = d then some e else none
/-- The entry while an inbound operation fills it, and while an outbound copy drains it (R168). -/
def fillingTile (e : TileEntry) : TileEntry := { e with state := .filling, poison := false, faulted := false }
def drainingTile (e : TileEntry) : TileEntry := { e with state := .draining }
/-- A copy as it enters its queue (R170). -/
def freshCopy (x : Ctx) (s u : State) (kind : CopyKind) (d a : Nat) (pol : CPol) (rows : List CopyRow) (total : Nat) : Copy :=
  { op := u.nextId, slot := x.slot, kind := kind, tile := d, tileA := a, policy := pol, ctx := (x.launch s).ctx, rows := rows, next := 0, total := total
    engine := none, poison := false, faultCode := 0, faultVa := 0, linesDone := 0, inTask := x.sk.taskOpen
    moved := false, issued := s.clock }
/-- From `u` the instruction completes by putting the copy at the end of its core's queue and counting it on counter `ctr`. -/
def CopyBegun (i : Instr) (c : Ctl) (ctr : Nat) (x : Ctx) (s u : State) (k : Copy) : Prop :=
  exec i s = .next (updCore { setSkein u x.core x.slot (skeinBegun x c u.nextId
      { cls := .async, path := x.path, fromStitch := x.inWord, counter := some ctr, body := .copy }) with nextId := u.nextId + 1 } x.core
    (fun q => { q with copyq := q.copyq ++ [k] }))
/-- No fault of the tile waits to be reported (R170, R329). -/
def quietTile (x : Ctx) (d : Nat) : Prop := (∀ f ∈ x.sk.copyFaults, f.tile ≠ d) ∧ matTile x.sk d = false
/-- A copy may issue: nothing of memory order holds it back, and the queue, the counter and the flag have room (R170). -/
def copyFits (s : State) (x : Ctx) (c : Ctl) (ctr : Nat) : Prop := memHeld x true true = false ∧ copyRoom s x c ctr = true

/-- R165, R168 to R177: TLOAD, TSTORE, TGATHER, TSCAT, TPEER and TFILL, once their tiles allow it, put a copy into the queue of the
core and turn their tiles filling or draining; TREL empties a ready tile and leaves an empty one, and traps on a filling one.
No byte of a tile or of memory changes at issue.
What TPEER checks is log entry 88, and
whose wait is the longest is log entry 95. -/
def Obligations.TileCopies : Prop :=
  ∀ (c : Ctl) (d a b pitch peer : Nat) (v : Src) (cp : CPol) (s : State) (x : Ctx),
    let y := activeCtx x c
    let E := tileOf s x.core d
    let rb := rowBytes (x.launch s) E
    let base := fun n => (pairOf (kget x.sk n) (kget x.sk (n + 1))).toNat
    let filled := oneTile x.core d (fillingTile E)
    let drained := oneTile x.core d (drainingTile E)
    let step := fun n r => (pairOf (kget x.sk n) (kget x.sk (n + 1)) + (kget x.sk pitch).signExtend 64 * BitVec.ofNat 64 r).toNat
    let pick := fun n q r => (pairOf (kget x.sk n) (kget x.sk (n + 1)) + (vRead y q r).setWidth 64).toNat
    let good := fun va => canonical va = true ∧ va % 16 = 0
    let copies := fun (i : Instr) (ctr : Nat) (k : CopyKind) (tiles : Nat → Nat → Option TileEntry) (rows : List CopyRow) =>
      ∃ u n, TilesBecome s u tiles ∧ CopyBegun i c ctr y s u (freshCopy y s u k d d cp rows n)
    declared s x d = true → quietTile x d →
    (copyFits s y c 0 → tileWait s y [] [d] = none → rb ≤ 8192 → good (base a) → (kget x.sk pitch).toNat % 16 = 0 →
      Ready { guard := .coll } (Instr.use (.tload c d a pitch cp)) c x s →
      copies (.tload c d a pitch cp) 0 .tload filled ((List.range E.rows).map (fun r => ⟨r, some (step a r)⟩))) ∧
    (copyFits s y c 0 → tileWait s y [d] [] = none → tilePoison s x.core [d] = false → rb ≤ 8192 → good (base a) → (kget x.sk pitch).toNat % 16 = 0 →
      Ready { guard := .coll } (Instr.use (.tstore c a d pitch cp)) c x s →
      copies (.tstore c a d pitch cp) 0 .tstore drained ((List.range E.rows).map (fun r => ⟨r, some (step a r)⟩))) ∧
    (copyFits s y c 4 → tileWait s y [] [d] = none → E.rows ≤ 128 → (∀ r, r < E.rows → y.act.getLsbD r = true → good (pick a b r)) →
      Ready { guard := .coll } (Instr.use (.tgather c d a b cp)) c x s →
      copies (.tgather c d a b cp) 4 .tgather filled ((List.range E.rows).map (fun r => ⟨r, if y.act.getLsbD r then some (pick a b r) else none⟩))) ∧
    (copyFits s y c 4 → tileWait s y [d] [] = none → tilePoison s x.core [d] = false → E.rows ≤ 128 →
      (∀ r, r < E.rows → y.act.getLsbD r = true → good (pick a b r)) →
      Ready { guard := .coll } (Instr.use (.tscat c a d b cp)) c x s →
      copies (.tscat c a d b cp) 4 .tscat drained (((List.range E.rows).filter (fun r => y.act.getLsbD r)).map (fun r => ⟨r, some (pick a b r)⟩))) ∧
    (copyFits s y c 0 → tileWait s y [] [d] = none → Ready { guard := .coll } (Instr.use (.tfill c d v)) c x s →
      ∃ u, TilesBecome s u filled ∧ CopyBegun (.tfill c d v) c 0 y s u
        (freshCopy y s u (.tfill (srcWord y v (oneOf y))) d d .keep [] (max 1 (cdiv (tileSize (x.launch s) E) 128)))) ∧
    (let p := peerCore y peer
      let self := p = x.core ∧ a = d
      copyFits s y c 1 → tilePresent s p a = true → sameShape (tileOf s p a) E = true → (tileOf s p a).state = .ready →
      tileWait s y (if self then [d] else []) [d] = none → Ready { guard := .coll } {} c x s →
      ∃ u, TilesBecome s u (fun n k => if n = x.core ∧ k = d then some (fillingTile E)
          else if n = p ∧ k = a then some { drainingTile (tileOf s p a) with peerReads := (tileOf s p a).peerReads + 1 } else none) ∧
        CopyBegun (.tpeer c d a peer) c 1 y s u
          { freshCopy y s u (.tpeer p a) d a .keep [] (max 1 (cdiv (tileSize (x.launch s) E) 128)) with poison := (tileOf s p a).poison }) ∧
    (Ready { guard := .coll } {} c x s →
      (E.state = .filling → exec (.trel c d) s = .next (trapX y { code := 0x10 } s)) ∧
      (E.state = .empty → exec (.trel c d) s = .next (retire y s)) ∧
      (E.state = .ready → E.holds = 0 → E.peerReads = 0 → tileWait s y [] [d] = none →
        ∃ u, TilesBecome s u (oneTile x.core d { E with state := .empty, poison := false, faulted := false }) ∧ exec (.trel c d) s = .next (retire y u)))

/-- The skein has read a valid group descriptor and its member list, in the layout of R435. -/
def GroupHeld (s : State) (x : Ctx) (g : Nat) (e : GroupDesc) : Prop :=
  ∃ base, base < 2 ^ 49 ∧ 0 < e.members.length ∧ e.members.length ≤ 4096 ∧ e.channel < 16 ∧ e.ctx < 4096 ∧ (∀ k ∈ e.members, k.1 < 1024 ∧ k.2 < 2 ^ 32) ∧
    InHand s (.coll x.core x.slot) (s.dev.grpBase + 32 * g) 32
      (leBytes 8 (8 * base) ++ leBytes 8 (e.members.length - 1 + e.channel * 2 ^ 16 + e.ctx * 2 ^ 20 + 2 ^ 32) ++ leBytes 16 0) ∧
    InHand s (.coll x.core x.slot) (8 * base) (8 * e.members.length) (e.members.flatMap (fun k => leBytes 8 (k.1 + k.2 * 2 ^ 32)))
/-- R165, R166, R178: COLL of a member of a valid group sends its tile, when it is a source, to the packages that form the result, joins
the use of the group and puts a copy on counter c5 into the queue. A group that its bolt may not use leaves D ready and faulted, with
the copy fault of cause 0x1F pending (R436). The descriptor's lines have been read before (R435).
What leaves for another
package is log entry 60. -/
def Obligations.CollectiveIssue : Prop :=
  ∀ (c : Ctl) (d a b : Nat) (op : CollOp) (e : GroupDesc) (m : Nat) (s : State) (x : Ctx),
    let y := activeCtx x c
    let l := x.launch s
    let A := tileOf s x.core a
    let D := tileOf s x.core d
    let g := (kget x.sk b).toNat % 4096
    let block := ((boltOf s x.core x.sk.bolt).map Bolt.block).getD 0
    let source := op ≠ .bcast ∨ m = 0
    let srcs := if source then [a] else []
    let n := NMap.getD (((boltOf s x.core x.sk.bolt).map Bolt.collUses).getD []) g 0
    let v := endAgent s (.coll x.core x.slot)
    let u := updBolt (joinUse (sendTile v e g (n % 4) op (groupTileOf l A m (tileBytesOf s x.core a (tileSize l A))
      { op := op, members := e.members, channel := e.channel })) e g (n % 4) op) x.core x.sk.bolt
      (fun q => { q with collUses := NMap.insert q.collUses g (n + 1) })
    let refused := tileWait s y [] [d] = none → flagRoom y c = true → counterRoom y 5 = true →
      ∃ w, TilesBecome v w (oneTile x.core d { D with state := .ready, poison := false, faulted := true }) ∧
        exec (.coll c d a b op) s = .next (retire y (setSkein { w with nextId := s.nextId + 1 } x.core x.slot
          { x.sk with copyFaults := x.sk.copyFaults ++ [⟨5, d, 0x1F, 0, 0, s.nextId⟩] }))
    Ready { guard := .coll } (Instr.use (.coll c d a b op)) c x s → declared s x a = true → declared s x d = true → quietTile x a → quietTile x d →
    (op = .sum ∨ op = .max ∨ op = .min → plainFmt (entryFmt l A).1 = true ∧ plainFmt (entryFmt l D).1 = true) →
    entryCode l A = entryCode l D → A.cols = D.cols → (op = .gath ∨ A.rows = D.rows) →
    (GroupHeld s x g e → e.ctx = l.ctx → ((∀ k ∈ e.members, k.1 = Config.packageNumber) ∨ channelOk s e.channel (partOf s x.core) = true) →
      e.members[m]? = some (Config.packageNumber, block) → (∀ j, j < m → e.members[j]? ≠ some (Config.packageNumber, block)) →
      (op = .gath → D.rows = e.members.length * A.rows) → (collOutstanding s x.core x.sk.bolt g).length < 4 → tilePoison s x.core srcs = false →
      copyFits s y c 5 → packetsOut s g (n % 4) m = false → tileWait s y srcs [d] = none →
      ∃ w, TilesBecome u w (fun k t => if k = x.core ∧ t = d then some (fillingTile D)
          else if source ∧ k = x.core ∧ t = a then some (drainingTile A) else none) ∧
        CopyBegun (.coll c d a b op) c 5 y s w (freshCopy y s w (.coll g (n % 4) m op) d a .keep [] (if source then max 1 (cdiv (tileSize l A) 128) else 0))) ∧
    (∀ bs, InHand s (.coll x.core x.slot) (s.dev.grpBase + 32 * g) 32 bs → bitAt (leNat ((bs.drop 8).take 8)) 32 = false → refused) ∧
    (GroupHeld s x g e → (e.ctx ≠ l.ctx ∨ (Config.packageNumber, block) ∉ e.members) → refused)

/-! Pipes (spec/06, spec/07). -/

/-- The pipe that operand `q` of a stage's skein names (R172, R179). -/
abbrev PipeBound (s : State) (x : Ctx) (q pl st n : Nat) (p : Pipe) : Prop := pipeBind s x q = some (pl, st, n, p)
/-- From `s` to `t` one pipe changes, and nothing else of the machine. -/
def PipeBecomes (s t : State) (pl n : Nat) (p : Pipe) : Prop :=
  t = { s with plans := t.plans } ∧ pipeOf t pl n = some p ∧ (∀ l m, (l, m) ≠ (pl, n) → pipeOf t l m = pipeOf s l m) ∧
  ∀ l, (NMap.get? t.plans l).map (fun q => { q with pipes := [] }) = (NMap.get? s.plans l).map (fun q => { q with pipes := [] })

/-- R179 to R184, R139: PPUSH and PPOP ask the pipe's home, by a message when it is on another die, and wait; once the home has reserved for
them, and its answer is there, they take their reservation up and put a copy into the queue. PPUSH of a closed pipe traps; PPOP of an
exhausted one empties its tile and retires. PSTAT sends its query. PWAIT retires when its condition holds, unless the pipe is stopped.
PCLOSE and PREOPEN send their change as an operation of collective class (R36), which completes once the home has applied it.
How a pipe's operations
travel is log entry 52. -/
def Obligations.PipeInstructions : Prop :=
  ∀ (c : Ctl) (t q pl st n dk : Nat) (what : PstatWhat) (g : Nat × Bool) (p : Pipe) (s : State) (x : Ctx),
    let y := activeCtx x c
    let E := tileOf s x.core t
    let far := dieOf x.core ≠ p.homeDie
    let me : PipeWait := { core := x.core, slot := x.slot, path := x.path, since := s.clock, port := portOf x.core, granted := none }
    let mine := fun (w : PipeWait) => w.core = x.core ∧ w.slot = x.slot ∧ w.path = x.path
    let arrived := fun (m : PipeMsg) => ∃ r ∈ s.reqs, r.pipe = some (pl, n) ∧ r.kind = .msg m ∧ r.stage = .done
    let granted := fun (ws : List PipeWait) (push : Bool) => (∃ w, ws.find? (waitOf y) = some w ∧ w.granted = some g) ∧ (far → arrived (.grant x.core x.slot x.path push))
    let unasked := fun (ws : List PipeWait) (push : Bool) => (∀ w ∈ ws, ¬mine w) ∧ ∀ r ∈ s.reqs, r.kind ≠ .msg (.ask x.core x.slot x.path push)
    let ended := fun (push : Bool) => { s with reqs := s.reqs.filter (fun r => r.kind ≠ .msg (.ask x.core x.slot x.path push) ∧ r.kind ≠ .msg (.grant x.core x.slot x.path push)) }
    let noPush := { p with pushWaits := p.pushWaits.filter (fun z => !waitOf y z) }
    let noPop := { p with popWaits := p.popWaits.filter (fun z => !waitOf y z) }
    let sent := fun (m : PipeMsg) (u : State) => ∃ r ∈ u.reqs, r.kind = .msg m ∧ r.pipe = some (pl, n) ∧ r.die = dieOf x.core ∧ r.homeDie = p.homeDie
    let slow := fun (i : Instr) (o : Op) => ∃ u, exec i s = .next u ∧ skeinOf u x.core x.slot = some (skeinBegun y c s.nextId { o with path := x.path, fromStitch := y.inWord })
    PipeBound s x q pl st n p →
    (declared s x t = true → quietTile x t → tileMatches (x.launch s) E p = true → Ready { guard := .coll } {} c x s →
      (isProducer p st = true → copyFits s y c 2 → tileWait s y [t] [] = none →
        (granted p.pushWaits true →
          ∃ u v, PipeBecomes (ended true) u pl n noPush ∧ TilesBecome u v (oneTile x.core t (drainingTile E)) ∧
            CopyBegun (.ppush c t q) c 2 y s v (freshCopy y s v (.ppush pl n g.1) t t .keep [] p.lines)) ∧
        (unasked p.pushWaits true → closedPipe p = false → tilePoison s x.core [t] = false →
          (¬far → ∃ u, PipeBecomes s u pl n { p with pushWaits := p.pushWaits ++ [me] } ∧ exec (.ppush c t q) s = .next (stall y (.pipeFree pl n) u)) ∧
          (far → ∃ u, sent (.ask x.core x.slot x.path true) u ∧ u.plans = s.plans ∧ exec (.ppush c t q) s = .next (stall y (.pipeFree pl n) u))) ∧
        (unasked p.pushWaits true → closedPipe p = true →
          ∃ u, PipeBecomes (ended true) u pl n noPush ∧ exec (.ppush c t q) s = .next (trapX y { code := 0x0F } u))) ∧
      (isConsumer p st = true → tileWait s y [] [t] = none →
        (copyFits s y c 3 → granted p.popWaits false → (g.2 = false → p.spill.map Prod.fst ≠ some g.1) →
          ∃ u v, PipeBecomes (ended false) u pl n noPop ∧ TilesBecome u v (oneTile x.core t (fillingTile E)) ∧
            CopyBegun (.ppop c t q) c 3 y s v (freshCopy y s v (.ppop pl n g.1 g.2) t t .keep [] p.lines)) ∧
        (unasked p.popWaits false → p.state = .exhausted → memHeld y true true = false →
          ∃ u v, PipeBecomes (ended false) u pl n noPop ∧
            TilesBecome u v (oneTile x.core t { E with state := .empty, poison := false, faulted := false }) ∧ exec (.ppop c t q) s = .next (retire y v)) ∧
        (copyFits s y c 3 → unasked p.popWaits false → p.state ≠ .exhausted →
          (¬far → ∃ u, PipeBecomes s u pl n { p with popWaits := p.popWaits ++ [me] } ∧ exec (.ppop c t q) s = .next (stall y (.pipeFilled pl n) u)) ∧
          (far → ∃ u, sent (.ask x.core x.slot x.path false) u ∧ u.plans = s.plans ∧ exec (.ppop c t q) s = .next (stall y (.pipeFilled pl n) u))))) ∧
    (memHeld y false true = false → flagRoom y c = true → Ready { guard := .coll } (Instr.use (.pstat c dk q what)) c x s →
      let o : Op := { cls := .memory, path := x.path, isLoad := true, pend := [.k dk], body := .pstat dk pl n what }
      (¬far → Begins (.pstat c dk q what) c y s o) ∧
      (far → slow (.pstat c dk q what) o ∧ ∀ u, exec (.pstat c dk q what) s = .next u → sent (.query x.core x.slot s.nextId) u)) ∧
    (p.state ≠ .stopped → memHeld y false false = false → flagRoom y c = true → Ready { guard := .coll } {} c x s →
      (0 < pstatValue p .filled ∨ p.state = .exhausted → exec (.pwait c q true) s = .next (retire y s)) ∧
      (0 < pstatValue p .free ∨ closedPipe p = true → exec (.pwait c q false) s = .next (retire y s)) ∧
      (pstatValue p .filled = 0 → p.state ≠ .exhausted → exec (.pwait c q true) s = .next (stall y (.pipeFilled pl n) s)) ∧
      (pstatValue p .free = 0 → closedPipe p = false → exec (.pwait c q false) s = .next (stall y (.pipeFree pl n) s))) ∧
    (isProducer p st = true → memHeld y false false = false → flagRoom y c = true → Ready { guard := .coll } {} c x s → ∀ close,
      let i : Instr := if close then .pclose c q else .preopen c q
      let o : Op := { cls := .collective, path := x.path, fromStitch := y.inWord, body := .change }
      (¬far → ∃ u, PipeBecomes s u pl n { p with changes := p.changes ++ [{ who := some (x.core, x.slot, s.nextId), close := close }] } ∧
        exec i s = .next { setSkein u x.core x.slot (skeinBegun y c s.nextId o) with nextId := s.nextId + 1 }) ∧
      (far → slow i o ∧ ∀ u, exec i s = .next u → sent (.change x.core x.slot s.nextId close) u))

/-! The matrix unit (spec/13). -/

/-- A matrix instruction has begun: it is in progress on its skein and counts on c6; its tiles are held, or filling, its accumulator
tiles are busy with it, the row tags of an adapter form stand in D; no element of a tile or an accumulator changes. -/
def MatrixBegun (i : Instr) (c : Ctl) (x : Ctx) (s : State) (kind : MatKind) (ad : Option AdRef) : Prop :=
  let accs := (accNames s x.core (x.launch s) kind).map (accStore s x.core x.sk.bolt)
  let fill := match kind with | .accd d _ _ => [d] | _ => []
  ∃ t m, exec i s = .next t ∧ t = { s with cores := t.cores, nextId := s.nextId + 1 } ∧ (∀ n, n ≠ x.core → coreOf t n = coreOf s n) ∧
    coreOf t x.core = { coreOf s x.core with skeins := (coreOf t x.core).skeins, tiles := (coreOf t x.core).tiles, accs := (coreOf t x.core).accs } ∧
    (∀ k, k ≠ x.slot → skeinOf t x.core k = skeinOf s x.core k) ∧
    skeinOf t x.core x.slot = some { skeinBegun x c s.nextId { cls := .async, path := x.path, fromStitch := x.inWord, counter := some 6, body := .matrix } with mat := some m } ∧
    (m.op = s.nextId ∧ m.kind = kind ∧ m.pc = x.pc ∧ m.steps = 0 ∧ m.fault = none ∧ m.ad = ad.map (adBlocks x) ∧ (m.looked = true ↔ ad = none)) ∧
    (∀ k, tileOf t x.core k = if k ∈ fill then fillingTile (tileOf s x.core k)
      else { tileOf s x.core k with holds := (tileOf s x.core k).holds + (heldTiles kind).count k }) ∧
    (∀ n, accOf t x.core n = { accOf s x.core n with
      busy := if n ∈ accs then some (x.slot, s.nextId) else (accOf s x.core n).busy
      tags := match ad with | some r => (if n = accs.headD 0 then adRows x r.c else (accOf s x.core n).tags) | none => (accOf s x.core n).tags })

/-- R310, R311, R313 to R320, R332: MMA, MMAC, ACCZ, ACCL and ACCD of full active sets begin when their shapes, tiles and accumulators allow it and
no other matrix instruction of the skein is in progress. ADPF begins an operation on counter c7, which holds what it asks for.
Whose wait is the longest is log
entry 95, and what ADPF leaves unchecked log entry 80. -/
def Obligations.MatrixIssue : Prop :=
  ∀ (c : Ctl) (d a b fs : Nat) (last : Bool) (ad : Option AdRef) (v w : Src) (what : AdpfWhat) (s : State) (x : Ctx),
    let y := activeCtx x c
    let l := x.launch s
    let T := tileOf s x.core
    let full : List Nat → Checks := fun as => { guard := .coll, full := true, accs := as }
    let free := fun (kind : MatKind) (src dst : List Nat) => x.sk.mat = none ∧ (∀ f ∈ x.sk.copyFaults, f.tile ∉ src ++ dst) ∧ tilePoison s x.core src = false ∧
      counterRoom x 6 = true ∧ flagRoom x c = true ∧ tileWait s y src dst = none ∧
      ∀ n ∈ (accNames s x.core l kind).map (accStore s x.core x.sk.bolt), (accOf s x.core n).busy = none ∧ accTurn s y n = true
    (Ready (full [d]) (Instr.use (.mma c d a b last ad)) c x s → declared s x a = true → declared s x b = true →
      let k := kOf (widthOf s x.core l (.mma d a b last))
      shapeIs l (T a) 64 k = true → shapeIs l (T b) k 64 = true → free (.mma d a b last) [a, b] [] →
      MatrixBegun (.mma c d a b last ad) c y s (.mma d a b last) ad) ∧
    (Ready (full [d, a]) (Instr.use (.mmac c d a b fs last ad)) c x s → declared s x b = true → drainable (launchSlot l fs) = true →
      let kind : MatKind := .mmac d a b fs last
      (∀ n ∈ aRange s x.core l kind, n < (boltAccs s x.core x.sk.bolt).length ∧ n ≠ d) → shapeIs l (T b) (kOf (widthOf s x.core l kind)) 64 = true →
      free kind [b] [] → MatrixBegun (.mmac c d a b fs last ad) c y s kind ad) ∧
    (Ready (full [d]) {} c x s → free (.accz d) [] [] → MatrixBegun (.accz c d) c y s (.accz d) none) ∧
    (Ready (full [d]) {} c x s → declared s x a = true → shapeIs l (T a) 64 64 = true → free (.accl d a) [a] [] → MatrixBegun (.accl c d a) c y s (.accl d a) none) ∧
    (Ready (full [a]) {} c x s → declared s x d = true → drainable (launchSlot l fs) = true → (T d).rows = 64 → (T d).cols = 64 → slotMatches l (T d) fs = true →
      free (.accd d a fs) [] [d] → MatrixBegun (.accd c d a fs) c y s (.accd d a fs) none) ∧
    (QuietReady { guard := .coll } (Instr.use (.adpf c v w what)) c x s → counterRoom x 7 = true → flagRoom x c = true →
      Begins (.adpf c v w what) c y s { cls := .async, path := x.path, counter := some 7
                                        body := .adpf (some ((srcWord y v (oneOf y)).toNat % 65536, (srcWord y w (oneOf y)).toNat % 256, what)) [] })

/-! Barriers and tasks (spec/16, spec/07). -/

/-- R393, R395: BAR init, arrive and wait, and WAITC. Arriving as the last one starts the next phase and completes the BAR wait of every skein of
the bolt that waits at the point and whose last arrival lies below the new phase count; waiting passes a skein whose phase has ended, or that never arrived. -/
def Obligations.Barriers : Prop :=
  ∀ (c : Ctl) (d k m : Nat) (a : Src) (bt : Bolt) (s : State) (x : Ctx),
    let y := activeCtx x c
    let one : Checks := { guard := .coll, single := true }
    let p := NMap.getD bt.points d {}
    let n := (srcWord y a (oneOf y)).toNat
    let set := fun (q : Rendezvous) (u : State) => updCore u x.core (fun q' => { q' with bolts := nupdate q'.bolts x.sk.bolt (fun z => { z with points := NMap.insert z.points d q }) })
    boltOf s x.core x.sk.bolt = some bt →
    (Ready one (Instr.use (.barInit c d a)) c x s →
      (1 ≤ n → n ≤ (x.launch s).skeins → (p.init = false ∨ (p.arrived = [] ∧ waiterAt s y d = false)) →
        exec (.barInit c d a) s = .next (retire y (set { init := true, expected := n, arrived := [], phase := 0 } s))) ∧
      (n < 1 ∨ (x.launch s).skeins < n ∨ (p.init = true ∧ (p.arrived ≠ [] ∨ waiterAt s y d = true)) →
        exec (.barInit c d a) s = .next (trapX y { code := 0x13 } s))) ∧
    (Ready one {} c x s →
      (p.init = false → exec (.barArrive c d) s = .next (trapX y { code := 0x13 } s) ∧ exec (.barWait c d) s = .next (trapX y { code := 0x13 } s)) ∧
      (p.init = true → x.sk.index ∈ p.arrived → exec (.barArrive c d) s = .next (trapX y { code := 0x14 } s)) ∧
      (p.init = true → x.sk.index ∉ p.arrived → memHeld y true true = false → pathLoads x.sk x.path = [] → x.sk.sq = [] →
        let at_ := setSkein s x.core x.slot { x.sk with barLast := NMap.insert x.sk.barLast d p.phase }
        let waits := fun (e : Nat × Path) => e.2.wait.map Prod.fst = some (.barrier d)
        let wake := fun (u : State) => updCore u x.core (fun q => { q with skeins := q.skeins.map (fun e => if e.2.bolt = x.sk.bolt && (NMap.get? e.2.barLast d).all (fun f => decide (f < p.phase + 1))
          then (e.1, { e.2 with paths := e.2.paths.map (fun e => if waits e then (e.1, { advancePath e.2 with wait := none, watchPass := false }) else e) }) else e) })
        (p.arrived.length + 1 ≠ p.expected → exec (.barArrive c d) s = .next (retire y (set { p with arrived := p.arrived ++ [x.sk.index] } at_))) ∧
        (p.arrived.length + 1 = p.expected → exec (.barArrive c d) s = .next (retire y (wake (set { p with arrived := [], phase := p.phase + 1 } at_))))) ∧
      (p.init = true → (∀ f, NMap.get? x.sk.barLast d = some f → f < p.phase) → exec (.barWait c d) s = .next (retire y s)) ∧
      (p.init = true → (∃ f, NMap.get? x.sk.barLast d = some f ∧ p.phase ≤ f) → exec (.barWait c d) s = .next (stall y (.barrier d) s))) ∧
    (Ready { guard := .any } {} c x s → (∀ f ∈ x.sk.copyFaults, f.cls ≠ k) → (k = 6 → m < x.sk.counters.getD 6 0 → pendingMatFault x.sk = none) →
      (x.sk.counters.getD k 0 ≤ m → exec (.waitc c k m) s = .next (retire y s)) ∧
      (m < x.sk.counters.getD k 0 → exec (.waitc c k m) s = .next (stall y .other s)))

/-- R185, R187 to R189, R246: BASTE opens a task with a new identifier and HEM begins a release at `.dev`, or at `.pod` where the task holds, or will
hold, a slot of a pipe that crosses packages; each traps out of turn. TASK_PUBLICATION, once the release and the copies of the task are done,
writes its versions, fills a slot that it holds, and closes it; TASK_DISCARD closes it without writing, and the slot is free, the tile that it
had popped is back in its place.
Publication and discard in one event are log
entries 53 and 54. -/
def Obligations.Tasks : Prop :=
  (∀ (c : Ctl) (s : State) (x : Ctx),
    let y := activeCtx x c
    let n := if x.sk.taskCount = 2 ^ 18 - 1 then 1 else x.sk.taskCount + 1
    Ready { guard := .coll, single := true } {} c x s →
    (x.sk.taskOpen = false → exec (.baste c) s = .next (retire y (setSkein { s with nextId := s.nextId + 1 } x.core x.slot
      { x.sk with taskCount := n, taskId := x.core * 2 ^ 24 + x.slot * 2 ^ 18 + n, taskOpen := true, taskKey := s.nextId }))) ∧
    (x.sk.taskOpen = true → exec (.baste c) s = .next (trapX y { code := 0x0A } s)) ∧
    (x.sk.taskOpen = false → exec (.hem c) s = .next (trapX y { code := 0x0A } s)) ∧
    (x.sk.taskOpen = true → x.sk.hemWaiting = false → memHeld y true false = false → flagRoom y c = true →
      let far := fun (pl n : Nat) => ∃ p, pipeOf s pl n = some p ∧ p.remote = true
      let crosses := (∃ h ∈ x.sk.held, far h.2.1 h.2.2.1) ∨ ∃ k ∈ (coreOf s x.core).copyq, k.slot = x.slot ∧ k.inTask = true ∧
        ∃ pl n a, far pl n ∧ (k.kind = .ppush pl n a ∨ ∃ b, k.kind = .ppop pl n a b)
      let begun := fun (sc : Scope) => exec (.hem c) s = .next (pokeCore (stall y .other (setSkein { s with nextId := s.nextId + 1 } x.core x.slot
        { x.sk with hemWaiting := true, ops := NMap.insert x.sk.ops s.nextId { cls := .collective, path := x.path, body := .fence .rel sc { loads := pathLoads x.sk x.path } } })) x.core)
      (crosses → begun .pod) ∧ (¬crosses → begun .dev))) ∧
  (∀ (core slot : Nat) (s : State) (sk : Skein), skeinOf s core slot = some sk → taskCopies s core slot = false →
    let near := fun (pl n : Nat) (p : Pipe) => pipeOf s pl n = some p ∧ p.homeHere = true ∧ dieOf core = p.homeDie ∧ p.lastOp ≠ some s.clock
    (sk.hemWaiting = true → sk.publish = none → (∀ e ∈ sk.ops, ∀ k sc pg, e.2.body ≠ .fence k sc pg) → (∀ v ∈ sk.versions, isMain (128 * v.1) = true) →
      (∀ r ∈ s.reqs, r.kind ≠ .msg (.taskDone core slot)) →
      let closed := fun (t : State) => ∃ sk', skeinOf t core slot = some sk' ∧
        sk' = { sk with taskOpen := false, taskId := 0, versions := [], held := [], hemWaiting := false, publish := none, discarding := false, lastStamp := sk'.lastStamp, ops := sk'.ops
                        paths := sk.paths.map (fun e => (e.1, { advancePath e.2 with wait := none, watchPass := false })) } ∧
        (sk.versions = [] → sk'.lastStamp = sk.lastStamp) ∧
        (∀ l m d, sk.versions = [(l, m, d)] → sk'.lastStamp = nextStamp (homeSlice s (128 * l)) (sliceOf s (homeSlice s (128 * l))).seq) ∧
        ((NMap.keys sk.versions).Nodup → s.dev.monitor = [] → ∀ addr, memGet t.mem addr = match NMap.get? sk.versions (addr / 128) with
          | some (m, d) => if m.getLsbD (addr % 128) then lineByte d (addr % 128) else memGet s.mem addr
          | none => memGet s.mem addr)
      (sk.held = [] → ∃ t, exec (.taskPublication core slot) s = .next t ∧ closed t) ∧
      (∀ pl n j p, sk.held = [(true, pl, n, j)] → near pl n p → (∀ k ∈ homeKeys s pl n p, opKey s.clock 0 (portOf core) ≤ k) →
        ∃ t p', exec (.taskPublication core slot) s = .next t ∧ closed t ∧ pipeOf t pl n = some p' ∧ p'.filled = p.filled + 1 ∧ p'.free = p.free ∧
          (NMap.getD p'.slots j {}).state = .filled ∧ (NMap.getD p'.slots j {}).bytes = (NMap.getD p.slots j {}).bytes ∧
          ∃ e : PipeTile, p'.queue = p.queue ++ [e] ∧ e.slot = j ∧ e.spilled = false ∧ e.taken = false)) ∧
    (sk.taskOpen = true → sk.discarding = true → sk.publish = none →
      let closed := fun (t : State) => t.mem = s.mem ∧ (∀ n, n ≠ core → coreOf t n = coreOf s n) ∧
        skeinOf t core slot = some { sk with taskOpen := false, taskId := 0, versions := [], held := [], hemWaiting := false, discarding := false }
      (sk.held = [] → ∃ t, exec (.taskDiscard core slot) s = .next t ∧ closed t ∧
        t = { s with cores := t.cores, slices := t.slices, reqs := s.reqs.filter (fun r => r.kind ≠ .msg (.task core slot)) }) ∧
      (∀ pl n j p, sk.held = [(true, pl, n, j)] → near pl n p → p.remote = false →
        ∃ t p', exec (.taskDiscard core slot) s = .next t ∧ closed t ∧ pipeOf t pl n = some p' ∧ p'.free = p.free + 1 ∧ p'.filled = p.filled ∧
          NMap.get? p'.slots j = none ∧ p'.queue = p.queue) ∧
      (∀ pl n j p, sk.held = [(false, pl, n, 2 * j)] → near pl n p →
        ∃ t p', exec (.taskDiscard core slot) s = .next t ∧ closed t ∧ pipeOf t pl n = some p' ∧ p'.filled = p.filled + 1 ∧ p'.free = p.free ∧
          (NMap.getD p'.slots j {}).state = .filled ∧ p'.queue = p.queue.map (fun e => if e.spilled = false ∧ e.slot = j then { e with taken := false } else e))))

/-! Events of the memory system (spec/05, spec/09, spec/10). -/

/-- The value that an element of a load takes from a line, extended by its type (R222). -/
def elemValue (size : Nat) (signed : Bool) (line : LineData) (e : LoadElem) : Nat :=
  let v := lineNat line e.off size
  if signed then (BitVec.ofInt 32 (readInt (8 * size) true v)).toNat else v
/-- R216, R220, R221, R227, R228, R232, R238: LOAD_REPLY delivers a part of a load to its lanes, or to its uniform registers, each byte from the
core or from the line that has come, marks them where a byte came poisoned, and completes the load with its last part; and so for LDW
and PSTAT. The L1 takes the line, unless it came poisoned or too late: then it keeps no clean byte of it. It brings the answer of the host
or of another package to its request, and the old value of an atomic's lane to its operation, with its stamp. WRITE_ACKNOWLEDGEMENT carries its stamp to the skein and completes the store with its last entry. What waits on memory in the
core then goes on (`pokeCore`). R215: STORE_QUEUE_ENTRY_TO_L1 takes the head of a queue out, at most one of a quarter in a core clock
and the quarters of one clock in ascending order. An entry written back merges its bytes into the L1 and marks them dirty; an entry
written through goes on as a write request to its slice.
Marks, fills that
come too late, and poisoned lines are log entries 16, 26 and 27. -/
def Obligations.MemoryReplies : Prop :=
  (∀ (core slot op i corrected : Nat) (ext : List Byte) (bad : List Nat) (o : Op) (sk : Skein) (s : State), skeinOf s core slot = some sk → opOf s core slot op = some o →
    let reply : Instr := .loadReply core slot op i ⟨ext, corrected, bad⟩
    (∀ parts elems size signed dst p, o.body = .load parts elems size signed dst → parts[i]? = some p → p.arrived = false → dst.Nodup →
      ((∀ e ∈ elems, e.lane.isSome = true) ∧ (∀ n, RegRef.k n ∉ dst)) ∨ ((∀ e ∈ elems, e.lane = none) ∧ (∀ n, RegRef.v n ∉ dst)) →
      let own := fun (e : LoadElem) => if e.whole then p.found else p.found &&& p.strong
      let value := fun (line : LineData) (e : LoadElem) => elemValue size signed (mergeLine line (own e) p.data) e
      let sick := fun (poison : BitVec 4) (e : LoadElem) => ∃ b, e.off ≤ b ∧ b < e.off + size ∧ b < 128 ∧ (own e).getLsbD b = false ∧ poison.getLsbD (b / 32) = true
      let earlier := ∃ q ∈ parts, q.arrived = true
      let takes := fun (t : Skein) (line : LineData) (poison : BitVec 4) =>
        DstTake sk t dst (fun l => (elems.find? (fun e => decide (e.part = i ∧ e.lane = some l))).map (value line)) ((elems.find? (fun e => decide (e.part = i ∧ e.lane = none))).map (value line)) ∧
        MarksTake sk t dst (fun l => ∃ e ∈ elems, e.part = i ∧ e.lane = some l) (fun l => ∃ e ∈ elems, e.part = i ∧ e.lane = some l ∧ sick poison e) (∃ e ∈ elems, e.part = i ∧ e.lane = none)
          (∃ e, elems.find? (fun e => decide (e.part = i ∧ e.lane = none)) = some e ∧ sick poison e) earlier
      let done := fun (u : State) => opOf u core slot op = if (parts.set i { p with arrived := true }).all LoadPart.arrived then none
        else some { o with body := .load (parts.set i { p with arrived := true }) elems size signed dst }
      (∀ id r, p.req = some id → p.allocate = false → reqOf s id = some r → r.stage = .done → replyTurn s r = true →
        ∃ u t, exec reply s = .next (pokeCore u core) ∧ skeinOf u core slot = some t ∧ u.mem = s.mem ∧ reqOf u id = none ∧ done u ∧ takes t r.rdata r.rpoison) ∧
      (∀ id r, p.req = some id → p.allocate = true → id < s.nextId → reqOf s id = some r → r.stage = .done → replyTurn s r = true →
        ∃ u t, exec reply s = .next (pokeCore u core) ∧ skeinOf u core slot = some t ∧ u.mem = s.mem ∧ reqOf u id = none ∧
          takes t r.rdata r.rpoison ∧ ((opOf u core slot op).isNone = true ↔ (parts.set i { p with arrived := true }).all LoadPart.arrived = true) ∧
          (r.rpoison = 0 → p.dropped = false → ∃ l, NMap.get? (coreOf u core).l1 p.line = some l ∧ l.valid = allLanes ∧
            ∀ b, b < 128 → lineByte l.data b = match NMap.get? (coreOf s core).l1 p.line with
              | some e => if e.dirty.getLsbD b then lineByte e.data b else lineByte r.rdata b
              | none => lineByte r.rdata b) ∧
          (r.rpoison ≠ 0 ∨ p.dropped = true → ∀ l, NMap.get? (coreOf u core).l1 p.line = some l → ∀ b, l.valid.getLsbD b = true → l.dirty.getLsbD b = true)) ∧
      (∀ id r, p.req = some id → reqOf s id = some r → r.who = .load core slot op i → r.stage = .remote → (∃ need, r.kind = .read need) → ext.length = 128 →
        (s.reqs.map Req.id).Nodup → (regionOf (128 * r.line) = .host → backRoom1 s r true = true) →
        ∃ u q, exec reply s = .next u ∧ u.mem = s.mem ∧ u.cores = s.cores ∧ reqOf u id = some q ∧ q.rdata = lineOf 0 ext ∧ q.stage ≠ .remote ∧
          (∀ k, k < 4 → (q.rpoison.getLsbD k = true ↔ 4 * r.line + k ∈ bad)) ∧ (regionOf (128 * r.line) ≠ .host → q.stage = .done)) ∧
      (p.req = none → p.allocate = false → (∀ off, regionOf (128 * p.line) ≠ .regs off) →
        ∃ u t, exec reply s = .next (pokeCore u core) ∧ skeinOf u core slot = some t ∧ u.mem = s.mem ∧ done u ∧ takes t p.data 0)) ∧
    (∀ elems size signed dst, o.body = .weight elems size signed dst → dst.Nodup → (∀ n, RegRef.k n ∉ dst) →
      (∀ e ∈ sk.ops, e.1 < op → ∀ a b c d, e.2.body ≠ .weight a b c d) → (∀ e ∈ elems, inRefresh s.clock e.2 = false) →
      ∃ u t, exec reply s = .next (pokeCore u core) ∧ skeinOf u core slot = some t ∧ u.mem = s.mem ∧ opOf u core slot op = none ∧
        (NMap.getD u.dies (core / 48) {}).corrected = (NMap.getD s.dies (core / 48) {}).corrected + corrected ∧
        DstTake sk t dst (fun l => (elems.find? (fun e => decide (e.1 = l))).map (fun e =>
          let v := leNat (memBytes s.mem (0x20000000000 + 0x10000000 * (core / 48) + e.2) size)
          if signed then (BitVec.ofInt 32 (readInt (8 * size) true v)).toNat else v)) none ∧
        MarksTake sk t dst (fun l => ∃ e ∈ elems, e.1 = l)
          (fun l => ∃ e ∈ elems, e.1 = l ∧ ((0x20000000000 + 0x10000000 * (core / 48) + e.2) / 32 ∈ s.poison ∨ (0x20000000000 + 0x10000000 * (core / 48) + e.2) / 32 ∈ bad)) False False False) ∧
    (∀ k plan pipe what p, o.body = .pstat k plan pipe what → pipeOf s plan pipe = some p → dieOf core = p.homeDie →
      ∃ t, exec reply s = .next (setSkein s core slot t) ∧ (∀ n, kget t n = if n = k then BitVec.ofNat 32 (pstatValue p what) else kget sk n) ∧
        NMap.get? t.ops op = none ∧ t.vregs = sk.vregs ∧ t.preds = sk.preds) ∧
    (∀ todo left sc got ty dst sent pg r a, o.body = .atomic todo left sc got ty dst sent pg → s.reqs.find? (fun q => decide (q.who = .atomic core slot op i)) = some r →
      r.kind = .atomic a → r.stage = .done → replyTurn s r = true → ackTurn s r = true → (s.reqs.map Req.id).Nodup →
      ∃ u t sick, exec reply s = .next (pokeCore u core) ∧ u.mem = s.mem ∧ reqOf u r.id = none ∧ skeinOf u core slot = some t ∧ t.lastStamp = r.stamp ∧
        (sick = true ↔ ∃ b, a.off ≤ b ∧ b < a.off + itWidth a.ty / 8 ∧ b < 128 ∧ r.rpoison.getLsbD (b / 32) = true) ∧
        opOf u core slot op = some { o with body := .atomic todo (left - 1) sc (got ++ [(i, r.rold, sick)]) ty dst sent pg } ∧
        ∀ l, NMap.get? (coreOf u core).l1 r.line = some l → ∀ b, l.valid.getLsbD b = true → l.dirty.getLsbD b = true) ∧
    (∀ id r m d left, reqOf s id = some r → r.kind = .write m d → r.stage = .done → replyTurn s r = true → ackTurn s r = true → r.who = .store core slot op → o.body = .store left →
      ∃ u t, exec (.writeAcknowledgement id) s = .next (pokeCore u core) ∧ skeinOf u core slot = some t ∧ u = { s with reqs := u.reqs, cores := u.cores } ∧ reqOf u id = none ∧
        t.lastStamp = r.stamp ∧ t.vregs = sk.vregs ∧ t.kregs = sk.kregs ∧
        opOf u core slot op = if left ≤ 1 then none else some { o with body := .store (left - 1) })) ∧
  (∀ (core quarter slot : Nat) (e : SqEntry) (rest : List SqEntry) (sk : Skein) (s : State),
    (∀ z ∈ (coreOf s core).sqTaken, z.2 = (coreOf s core).phase / 144 → z.1 < quarter) → earliestHead s core quarter = some (slot, e) →
    skeinOf s core slot = some sk → sk.sq = e :: rest → sk.sqWait = [] →
    (e.through = false →
      ∃ u t l, exec (.storeQueueEntryToL1 core quarter) s = .next (pokeCore u core) ∧ u.mem = s.mem ∧ skeinOf u core slot = some t ∧ t = { sk with sq := rest, ops := t.ops } ∧
        NMap.get? (coreOf u core).l1 e.line = some l ∧
        ∀ b, b < 128 → e.mask.getLsbD b = true → lineByte l.data b = lineByte e.data b ∧ l.valid.getLsbD b = true ∧ l.dirty.getLsbD b = true) ∧
    (∀ o, e.through = true → e.op = some o → isMain (128 * e.line) = true →
      ∃ u r, exec (.storeQueueEntryToL1 core quarter) s = .next (pokeCore u core) ∧ u.mem = s.mem ∧ (skeinOf u core slot).map Skein.sq = some rest ∧
        u.reqs.getLast? = some r ∧ u.reqs.length = s.reqs.length + 1 ∧ r.kind = .write e.mask e.data ∧ r.line = e.line ∧ r.stage = .port ∧ r.who = .store core slot o ∧ r.policy = e.policy))

/-- What an atomic leaves at its location, by the patterns of the old value and the operand (R228). -/
def AtomSpec (a : AtomReq) (old new : Nat) : Prop :=
  let n := itWidth a.ty
  let b := a.b.toNat % 2 ^ n
  ∃ x y : Int, IsWrap a.ty (Int.ofNat old) x ∧ IsWrap a.ty (Int.ofNat b) y ∧
    if a.isCas then new = if old = b then a.c.toNat % 2 ^ n else old
    else match a.op with
      | .add => new = (old + b) % 2 ^ n
      | .min => new = if y < x then b else old
      | .max => new = if x < y then b else old
      | .and => ∀ i, new.testBit i = (old.testBit i && b.testBit i)
      | .or => ∀ i, new.testBit i = (old.testBit i || b.testBit i)
      | .xor => ∀ i, new.testBit i = (old.testBit i != b.testBit i)
      | .exch => new = b
      | .inc => new = if y ≤ x then 0 else (old + 1) % 2 ^ n

/-- Nothing in the networks can move on now: each request and reply in them waits for a buffer (R111). -/
def Settled (s : State) : Prop := ∀ r ∈ s.reqs, advanceReq s r.id = s
/-- R104, R112 to R115, R228, R466: REQUEST_PORT_SEND sends one request of a port in a reference clock; SLICE_ACCEPT performs the request that the
slice takes: a read takes the bytes of its line, a write puts its masked bytes into memory, an atomic its new value, and no
other byte of memory changes; a line of a pipe slot goes into the slot; a host-window request goes on to the host. SLICE_HIT_REPLY and
SLICE_FILL_RETURN send the reply when it is due and its network has room, with the poison that the arrays or the second tier show.
When a hit
under a fill is answered is log entry 98. -/
def Obligations.SliceEvents : Prop :=
  ∀ (s : State) (r : Req), (s.reqs.map Req.id).Nodup → reqOf s r.id = some r →
    (∀ die port, NMap.get? (NMap.getD s.dies die {}).portSent port ≠ some s.clock → r.isMsg = false →
      s.reqs.find? (fun q => decide (q.stage = .port) && decide (q.die = die) && decide (q.port = port) && canSend s q) = some r →
      ∃ t q, exec (.requestPortSend die port) s = .next t ∧ t.mem = s.mem ∧ (∀ c k, skeinOf t c k = skeinOf s c k) ∧
        NMap.get? (NMap.getD t.dies die {}).portSent port = some s.clock ∧ reqOf t r.id = some q ∧ q = { r with stage := q.stage, since := s.clock } ∧
        match regionOf (128 * r.line), r.pipe with | .pod _ _, none => q.stage = .remote | _, _ => q.stage = .net1 ∨ q.stage = .net2 ∨ q.stage = .egress) ∧
    (∀ slice res, Settled s → (sliceOf s slice).lastAccept ≠ some s.clock → acceptChoice s slice = some r → entryFor s slice r.owner = some res →
      let line := r.line
      (r.pipe = none → isMain (128 * line) = true → s.dev.monitor = [] →
        (sliceFind (sliceOf s slice) line).isSome = true ∨ r.policy = .byp ∨ victimRoom s slice r.owner line = true →
        ∃ t q, exec (.sliceAccept slice) s = .next t ∧ reqOf t r.id = some q ∧ (sliceOf t slice).lastAccept = some s.clock ∧
          (∀ need, r.kind = .read need → t.mem = s.mem ∧ (∀ b, b < 128 → lineByte q.rdata b = memGet s.mem (128 * line + b)) ∧ q.rpoison = linePoison s line) ∧
          (r.kind = .prefetch ∨ r.kind = .clean → t.mem = s.mem) ∧
          (∀ m d, r.kind = .write m d → ∀ a, memGet t.mem a =
            if a / 128 = line ∧ m.getLsbD (a % 128) = true then lineByte d (a % 128) else memGet s.mem a) ∧
          (∀ x, r.kind = .atomic x → x.off + itWidth x.ty / 8 ≤ 128 → ∃ new, AtomSpec x (leNat (memBytes s.mem (128 * line + x.off) (itWidth x.ty / 8))) new ∧
            q.rold.toNat = leNat (memBytes s.mem (128 * line + x.off) (itWidth x.ty / 8)) ∧
            leNat (memBytes t.mem (128 * line + x.off) (itWidth x.ty / 8)) = new ∧
            ∀ a, a < 128 * line + x.off ∨ 128 * line + x.off + itWidth x.ty / 8 ≤ a → memGet t.mem a = memGet s.mem a)) ∧
      (r.pipe = none → regionOf (128 * line) = .host → (∃ need, r.kind = .read need) →
        ∃ t q, exec (.sliceAccept slice) s = .next t ∧ t.mem = s.mem ∧ reqOf t r.id = some q ∧ q.stage = .remote) ∧
      (∀ pl n p slot i d, r.pipe = some (pl, n) → pipeOf s pl n = some p → r.kind = .slotWrite slot i d →
        ∃ t p', exec (.sliceAccept slice) s = .next t ∧ t.mem = s.mem ∧ pipeOf t pl n = some p' ∧ ((NMap.getD p'.slots slot {}).bytes.drop (128 * i)).take 128 = lineBytes d 0 128)) ∧
    (∀ due corrected bad, due ≤ s.clock → (r.kind ≠ .prefetch ∧ r.kind ≠ .clean) → r.pipe = none → isMain (128 * r.line) = true → backRoom1 s r true = true →
      let took := fun (t : State) (poisoned : Nat → Bool) =>
        ((∃ c k o j, r.who = .load c k o j ∨ r.who = .atomic c k o j) → ∃ q, reqOf t r.id = some q ∧ q = { r with stage := q.stage, since := s.clock, rpoison := q.rpoison } ∧
          (q.stage = .reply ∨ q.stage = .replyPort ∨ q.stage = .replyEgress ∨ q.stage = .done) ∧ ∀ k, k < 4 → q.rpoison.getLsbD k = (r.rpoison.getLsbD k || poisoned k)) ∧
        (∀ a, r.who = .agent a → (∃ need, r.kind = .read need) → r.homeDie = r.die → backRoom2 s r false = true →
          (∀ q ∈ s.reqs, q.stage = .reply → (q.homeSlice, q.die, q.port, q.owner) ≠ (r.homeSlice, r.die, r.port, r.owner)) → reqOf t r.id = none ∧ ∃ ln, t.lines = s.lines ++ [ln] ∧ ln.agent = a ∧ ln.line = r.line ∧ ln.data = r.rdata)
      (r.stage = .accepted due → ∃ t, exec (.sliceHitReply ⟨r.id, corrected, bad⟩) s = .next t ∧ t.mem = s.mem ∧ took t (fun k => decide (4 * r.line + k ∈ bad))) ∧
      (r.stage = .fill due → ∃ t, exec (.sliceFillReturn ⟨r.id, corrected, bad⟩) s = .next t ∧ t.mem = s.mem ∧
        took t (fun k => (match regionOf (128 * r.line) with | .second _ => true | _ => false) && decide (4 * r.line + k ∈ bad)))) ∧
    (∀ due corrected bad, s.clock < due →
      (r.stage = .accepted due → exec (.sliceHitReply ⟨r.id, corrected, bad⟩) s = .next s) ∧ (r.stage = .fill due → exec (.sliceFillReturn ⟨r.id, corrected, bad⟩) s = .next s))

/-- The table entries that a walk meets from a level down, each in the line it has read: all but the last point to the next table (R90, R91). -/
def TableWords (s : State) (w : WalkReq) (base level : Nat) : List Nat → Prop
  | [] => True
  | e :: r => let pa := base + 8 * levelIndex w.va level
    e < 2 ^ 64 ∧ regionPresent s pa = true ∧ InHand s (.walk w.id) pa 8 (leBytes 8 e) ∧
    (r ≠ [] → bitAt e 0 = true ∧ bitAt e 1 = false ∧ field e 52 4 = 0 ∧ field e 6 2 = 0) ∧ TableWords s w (field e 8 44 * 256) (level + 1) r
/-- R83 to R85, R91, R93, R122 to R127: a slot of an HBM4E channel serves its owner's transfers, at most 8, or unreserved ones if it has no owner
or its owner has none; a slot of a die link sends the owner's flit,
which arrives or is sent again, and the fourth failure in a row fails the link; a walk ends with a translation in the caches or a
fault left for the access.
What a slot of a link takes is log
entry 67, and what a walk does in one event log entry 21. -/
def Obligations.LinkAndChannelEvents : Prop :=
  ∀ (s : State),
    (∀ ch corrected bad, let c := NMap.getD s.channels ch {}
      let slot := hbmSlot s.clock
      let o := slotOwner c (slot % 128)
      -- the slot's owner's transfers; those of no partition, in an unreserved slot or where the owner has none (R84, R85)
      let pool := if o < 8 ∧ transfers s ch o (hbmStart slot) ≠ [] then transfers s ch o (hbmStart slot) else transfers s ch 8 (hbmStart slot)
      slot % 128 ≠ 0 → c.lastSlot < slot →
      ∃ t ts, exec (.hbmSlotService ch corrected bad) s = .next t ∧ ts <+: pool ∧ ts.length = min 8 pool.length ∧
        t = { s with channels := t.channels, reqs := t.reqs, poison := t.poison, dies := t.dies } ∧ (NMap.getD t.channels ch {}).lastSlot = slot ∧
        (∀ n, .req n ∈ ts → ∀ q, reqOf t n = some q → ∃ due, q.stage = .fill due) ∧ (∀ n, .req n ∉ ts → reqOf t n = reqOf s n) ∧
        (NMap.getD t.dies (ch / 96) {}).corrected = (NMap.getD s.dies (ch / 96) {}).corrected + corrected) ∧
    (∀ x k, let l := NMap.getD s.links x {}
      l.failed = false → l.lastSlot ≠ some s.clock → x / 4 ≠ x % 4 → x < 16 → k ≤ 2 → (∀ j, j < k → linkPick s x (s.clock % 256) j = none) →
      (∀ f, l.resend.find? (fun f => slotTakes s x (s.clock % 256) k f.cls) = some f →
        let l' := { l with lastSlot := some s.clock, resend := l.resend.erase f, flight := l.flight ++ [{ f with last := s.clock }] }
        exec (.dieLinkSlot x) s = .next { s with links := NMap.insert s.links x l' }) ∧
      (∀ r, (∀ f ∈ l.resend, slotTakes s x (s.clock % 256) k f.cls = false) →
        leastBy (fun (q : Req) => q.since) (s.reqs.filter (fun q => decide (egressDir q = some x) && slotTakes s x (s.clock % 256) k q.cls)) = some r →
        ∃ t f, exec (.dieLinkSlot x) s = .next t ∧ t.mem = s.mem ∧ (∀ c n, skeinOf t c n = skeinOf s c n) ∧
          (NMap.getD t.links x {}).flight = l.flight ++ [f] ∧ f.cls = r.cls ∧ f.reqs = (flitItems (egressItems s x r.cls)).map Req.id ∧ f.sent = s.clock)) ∧
    (∀ x, (∀ j, j ≤ 2 → linkPick s x (s.clock % 256) j = none) → exec (.dieLinkSlot x) s = .next s) ∧
    (∀ x f, let l := NMap.getD s.links x {}
      l.flight.find? (fun f => decide (f.last + 24 ≤ s.clock) && (l.flight ++ l.resend).all (fun g => decide (g.cls ≠ f.cls) || decide (f.sent ≤ g.sent))) = some f →
      ((s.reqs.map Req.id).Nodup → ∃ t, exec (.dieLinkFlitArrival x true) s = .next t ∧ t.mem = s.mem ∧ (NMap.getD t.links x {}) = { l with flight := l.flight.erase f } ∧
        ∀ r ∈ s.reqs, r.id ∈ f.reqs →
          (r.isMsg = true → { r with stage := .done, since := s.clock } ∈ t.reqs) ∧
          (r.isMsg = false → r.stage = .link → ∃ q ∈ t.reqs, q = { r with stage := q.stage, since := s.clock } ∧ (q.stage = .ingress ∨ q.stage = .home1 ∨ q.stage = .home2)) ∧
          (r.isMsg = false → r.stage = .replyLink → (∃ c k o j, r.who = .load c k o j) → ∃ q ∈ t.reqs, q = { r with stage := q.stage, since := s.clock } ∧ (q.stage = .replyIngress ∨ q.stage = .proxy ∨ q.stage = .done))) ∧
      (f.fails ≠ 3 →
        let l' := { l with flight := l.flight.erase f, resend := l.resend ++ [{ f with fails := f.fails + 1 }], retries := min (l.retries + 1) (2 ^ 32 - 1) }
        exec (.dieLinkFlitArrival x false) s = .next { s with links := NMap.insert s.links x l' }) ∧
      (f.fails = 3 → ∃ t, exec (.dieLinkFlitArrival x false) s = .next t ∧ t.mem = s.mem ∧ (NMap.getD t.links x {}).failed = true)) ∧
    (∀ die index w d ws e, let dd := NMap.getD s.dies die {}
      (dd.walks.take 16)[index]? = some w → (∀ z ∈ dd.walkCache, z.ctx ≠ w.ctx) →
      NMap.get? s.descs w.ctx = some d → descOk d = true → field w.va 39 18 < 2 ^ field d.1.toNat 1 5 →
      TableWords s w (field d.1.toNat 8 44 * 256) 0 (ws ++ [e]) → ws.length ≤ 3 →
      let level := ws.length
      let addr := field e 8 44 * 256
      let sound := field e 52 4 = 0 ∧ field e 6 2 = 0
      let leaf := bitAt e 0 = true ∧ sound ∧ bitAt e 1 = true ∧ 1 ≤ level ∧ addr % pageSize level = 0
      let allowed := (w.kind = .write → bitAt e 2 = true) ∧ (w.kind = .fetch → bitAt e 3 = true ∧ field e 4 2 = 0)
      let ent : TlbEntry := { ctx := w.ctx, va := w.va / pageSize level * pageSize level, size := pageSize level, pa := addr, type := field e 4 2, x := bitAt e 3, w := bitAt e 2, part := descPart d }
      let fails := fun (code : Nat) => (∀ c l a, w.agent ≠ .prefetch c l a) → (∀ n, w.agent ≠ .walk n) → ∃ t, exec (.translationWalk die index) s = .next t ∧ t.mem = s.mem ∧
        (⟨w.agent, w.ctx, w.va / 65536, w.kind, code, level⟩ : WalkFault) ∈ (NMap.getD t.dies die {}).walkFaults ∧ ∀ z ∈ (NMap.getD t.dies die {}).walks, z.id ≠ w.id
      (leaf → allowed → ∃ t, exec (.translationWalk die index) s = .next t ∧ t.mem = s.mem ∧ (NMap.getD t.dies die {}).tlb.head? = some ent ∧
        (∀ z ∈ (NMap.getD t.dies die {}).walks, z.id ≠ w.id) ∧ ∀ c k, w.core = some c → NMap.get? s.cores c = some k → (coreOf t c).tlb.head? = some ent) ∧
      (bitAt e 0 = false → fails 0x1D) ∧
      (bitAt e 0 = true → ¬sound ∨ (bitAt e 1 = false ∧ level = 3) ∨ (bitAt e 1 = true ∧ (level = 0 ∨ addr % pageSize level ≠ 0)) → fails 0x1E) ∧
      (leaf → ¬allowed → fails 0x1F))

/-! Copy engines (spec/07). -/

/-- `R` is a result of a reduction over the values of members 0 to n − 1 (R178): NaN if one is NaN; the exact sum; a value that none exceeds, or
that exceeds none. -/
def Reduces (op : CollOp) (n : Nat) (v : Nat → FVal) (R : FVal) : Prop :=
  ((∃ m, m < n ∧ v m = .nan) → R = .nan) ∧
  ((∀ m, m < n → v m ≠ .nan) → match op with
    | .sum => ((∀ m, m < n → finiteVal (v m) = true) → finiteVal R = true ∧ ratOf R = ((List.range n).map (fun m => ratOf (v m))).sum) ∧
        ∀ i, (∃ m, m < n ∧ v m = .inf i) → R = if (∃ m, m < n ∧ v m = .inf !i) then .nan else .inf i
    | .max => ∃ m, m < n ∧ R = v m ∧ ∀ k, k < n → fLt R (v k) = false
    | .min => ∃ m, m < n ∧ R = v m ∧ ∀ k, k < n → fLt (v k) R = false
    | _ => True)
/-- `c` is the code that a value rounds to, to nearest even, in a format that a conversion accepts (R69, R70). -/
def CodeOf (f : FmtCode) (v : FVal) (c : Nat) : Prop :=
  match f with
  | .wide w => c = roundFF w .rne v
  | .narrow n => NarrowRounds n false v c
  | _ => True
/-- R170, R173, R174, R176: COPY_LINE_TRANSFER moves one line of its engine's copy: a line of TFILL's pattern or of a peer's tile into the
tile; a line of memory is asked for, or written, by a request to its slice, through the translation that the core holds; what has come
lands in its row; a line of the weight store is read at once. COPY_COMPLETE makes the tile ready, takes the copy out of its queue and counts
it complete; a fault waits to be reported. R68, R178: COLL_RESULT ends a use of a group on this package and gives each member's D its
result: a copy of a byte tile; in every other format each element of the root's tile, of the joined tiles, or of the reduction, exact
and then rounded once.
The order of the reports, the engines, and what travels between packages are log entries 57, 58 and 60. -/
def Obligations.CopyEvents : Prop :=
  (∀ (core eng corrected : Nat) (bad : List Nat) (s : State) (c : Copy),
    let l := launchOf s core (((skeinOf s core c.slot).map Skein.bolt).getD 0)
    let E := tileOf s core c.tile
    let base := E.base * 128
    let rb := rowBytes l E
    let bytes := fun (t : State) (lo : Nat) (bs : List Byte) => (∀ n, n ≠ core → coreOf t n = coreOf s n) ∧
      ∀ a, tileByte t core a = if lo ≤ a ∧ a < lo + bs.length then bs.getD (a - lo) 0 else tileByte s core a
    let found := fun (va : Nat) (kind : WalkKind) (use : Use) (y : Xl) => canonical va = true ∧ ∃ p X, tlbFind (coreOf s core).tlb c.ctx (va57 va) = some p ∧
      tlbAccess p (va57 va) kind = .ok X ∧ useCheck s (core / 48) X use = .ok y
    eng < 4 → engineCopy (coreOf s core).copyq eng = some c → s.dev.watch = [] →
    (∀ v, c.lastLine ≠ some s.clock → c.kind = .tfill v → c.next < c.total → ∃ t bs, exec (.copyLineTransfer core ⟨eng, corrected, bad⟩) s = .next t ∧ t.mem = s.mem ∧ bytes t (base + 128 * c.next) bs ∧
      bs.length = min 128 (tileSize l E - 128 * c.next) ∧ ∀ j b, bs[j]? = some b → b.toNat = (if entryW l E = 4 then v.toNat % 16 * 17
        else v.toNat / 2 ^ (8 * ((128 * c.next + j) % (entryW l E / 8))) % 256)) ∧
    (∀ p a, c.lastLine ≠ some s.clock → c.kind = .tpeer p a → c.next < c.total → ∃ t, exec (.copyLineTransfer core ⟨eng, corrected, bad⟩) s = .next t ∧ t.mem = s.mem ∧
      bytes t (base + 128 * c.next) (tileRead s p ((tileOf s p a).base * 128 + 128 * c.next) (min 128 (tileSize l E - 128 * c.next)))) ∧
    (∀ row va off n y, c.lastLine ≠ some s.clock → c.kind = .tload ∨ c.kind = .tgather → c.next < c.total → (copyPieces c rb)[c.next]? = some (row, some va, off, n) →
      found va .read .copyRead y → y.type ≠ 3 →
      ∃ t r, exec (.copyLineTransfer core ⟨eng, corrected, bad⟩) s = .next t ∧ t.mem = s.mem ∧ t.reqs = s.reqs ++ [r] ∧ r.kind = .read (maskBytes (y.pa % 128) n) ∧ r.line = y.pa / 128 ∧
        r.who = .copy core c.op c.next ∧ r.stage = .port) ∧
    (∀ row va off n y, c.lastLine ≠ some s.clock → c.kind = .tload ∨ c.kind = .tgather → c.next < c.total → (copyPieces c rb)[c.next]? = some (row, some va, off, n) →
      found va .read .copyRead y → y.type = 3 → gateOk s core c.slot = true → inRefresh s.clock (y.pa % 0x10000000) = false →
      ∃ t, exec (.copyLineTransfer core ⟨eng, corrected, bad⟩) s = .next t ∧ t.mem = s.mem ∧ t.reqs = s.reqs ∧
        (NMap.getD t.dies (core / 48) {}).corrected = (NMap.getD s.dies (core / 48) {}).corrected + corrected ∧ ∀ u, u ∈ t.poison ↔ u ∈ s.poison ∨ (u ∈ bad ∧ u / 4 = y.pa / 128)) ∧
    (∀ row va off n y, c.lastLine ≠ some s.clock → c.kind = .tstore ∨ c.kind = .tscat → c.next < c.total → (copyPieces c rb)[c.next]? = some (row, some va, off, n) →
      found va .write .other y →
      ∃ t r, exec (.copyLineTransfer core ⟨eng, corrected, bad⟩) s = .next t ∧ t.mem = s.mem ∧ (∀ k a, tileByte t k a = tileByte s k a) ∧ t.reqs = s.reqs ++ [r] ∧ r.line = y.pa / 128 ∧
        r.kind = .write (maskBytes (y.pa % 128) n) (lineOf (y.pa % 128) (tileRead s core (base + row * rb + off) n)) ∧ r.who = .copy core c.op c.next) ∧
    (c.kind = .tload ∨ c.kind = .tgather → (coreOf s core).copyq = [c] → c.total = (copyPieces c rb).length → c.total ≤ c.next → c.bad = [] → c.landed = [] →
      (c.rows.map CopyRow.row).Nodup → (∀ i, i < c.total → (NMap.get? c.got i).isSome = true) →
      ∃ t k, exec (.copyLineTransfer core ⟨eng, corrected, bad⟩) s = .next t ∧ t.mem = s.mem ∧ (coreOf t core).copyq = [k] ∧ k.moved = true ∧
        ∀ i row va off n j g, (copyPieces c rb)[i]? = some (row, some va, off, n) → NMap.get? c.got i = some g → j < n →
          tileByte t core (base + row * rb + off + j) = lineByte g.1 (va % 128 + j))) ∧
  (∀ (core op : Nat) (s : State) (c : Copy) (sk : Skein), (coreOf s core).copyq.find? (fun k => decide (k.op = op)) = some c → c.moved = true → skeinOf s core c.slot = some sk →
    (∀ p ∈ s.plans, p.2.state ≠ .stopping) →
    let bad := decide (c.faultCode ≠ 0)
    let ends := fun (t : State) => t = { endAgent s (.copy core op) with cores := t.cores } ∧ (coreOf t core).copyq = (coreOf s core).copyq.filter (fun k => k.op ≠ op) ∧ opOf t core c.slot op = none ∧
      (∀ n a, tileByte t n a = tileByte s n a) ∧
      (skeinOf t core c.slot).map Skein.copyFaults = some (sk.copyFaults ++ if bad && !sk.killed then [⟨copyClass c.kind, c.tile, c.faultCode, c.faultVa, c.linesDone, op⟩] else [])
    (c.kind = .tload ∨ c.kind = .tgather ∨ (∃ v, c.kind = .tfill v) → ∃ t, exec (.copyComplete core op) s = .next t ∧ ends t ∧
      tileOf t core c.tile = { tileOf s core c.tile with state := .ready, poison := c.poison, faulted := bad }) ∧
    (c.kind = .tstore ∨ c.kind = .tscat → ∃ t, exec (.copyComplete core op) s = .next t ∧ ends t ∧
      tileOf t core c.tile = { tileOf s core c.tile with state := .ready, faulted := (tileOf s core c.tile).faulted || bad }) ∧
    (∀ p a, c.kind = .tpeer p a → (p, a) ≠ (core, c.tile) → ∃ t, exec (.copyComplete core op) s = .next t ∧ ends t ∧
      tileOf t core c.tile = { tileOf s core c.tile with state := .ready, poison := c.poison, faulted := bad } ∧
      tileOf t p a = { tileOf s p a with state := .ready, peerReads := (tileOf s p a).peerReads - 1 })) ∧
  (∀ (g gen : Nat) (s : State) (q : CollUse), s.collUses.find? (fun v => decide (v.group = g) && decide (v.gen = gen)) = some q →
    let loc := localMembers s g gen
    let count := q.members.length
    let A := fun (e : Nat × Nat × Copy × Launch) => tileOf s e.2.1 e.2.2.1.tileA
    let D := fun (e : Nat × Nat × Copy × Launch) => tileOf s e.2.1 e.2.2.1.tile
    let f := fun (e : Nat × Nat × Copy × Launch) => entryFmt e.2.2.2 (D e)
    let W := fun (e : Nat × Nat × Copy × Launch) => entryW e.2.2.2 (D e)
    let size := fun (e : Nat × Nat × Copy × Launch) => tileSize e.2.2.2 (D e)
    let source := fun (e : Nat × Nat × Copy × Launch) => tileBytesOf s e.2.1 e.2.2.1.tileA (tileSize e.2.2.2 (A e))
    let times := if q.op = .gath then count else 1
    -- every member is on this package and has sent its tile, and none has an earlier use
    q.mismatch = false → q.got = [] → 0 < count → (∀ z ∈ q.members, z.1 = Config.packageNumber) → (loc.map Prod.fst).Nodup → (∀ m, m < count ↔ m ∈ loc.map Prod.fst) →
    (∀ e ∈ loc, e.2.2.1.moved = true ∧ ∀ k ∈ (coreOf s e.2.1).copyq, k.op < e.2.2.1.op → ∀ n o, k.kind ≠ .coll g n e.1 o) →
    -- the tiles have one format and shape, and whole bytes in a row; no two members write to the same bytes
    (∀ e ∈ loc, ∀ z ∈ loc, entryCode e.2.2.2 (A e) = entryCode z.2.2.2 (A z) ∧ (A e).rows = (A z).rows ∧ (A e).cols = (A z).cols ∧ size e = times * tileSize z.2.2.2 (A z) ∧
      (D e).rows = times * (A z).rows ∧ (D e).cols = (A z).cols ∧ (e.2.1 = z.2.1 → e ≠ z → (D e).base * 128 + size e ≤ (D z).base * 128 ∨ (D z).base * 128 + size z ≤ (D e).base * 128)) →
    (∀ e ∈ loc, 0 < (A e).rows ∧ (D e).cols * W e % 8 = 0 ∧ (W e = 4 ∨ W e % 8 = 0)) →
    ∃ t, exec (.collResult g gen []) s = .next t ∧ t.mem = s.mem ∧ q ∉ t.collUses ∧
      ∀ e ∈ loc, (tileOf t e.2.1 e.2.2.1.tile).state = .ready ∧ (tileOf t e.2.1 e.2.2.1.tile).faulted = false ∧ (∀ k ∈ (coreOf t e.2.1).copyq, k.op ≠ e.2.2.1.op) ∧
        ((A e).state = .draining → (tileOf t e.2.1 e.2.2.1.tileA).state = .ready) ∧
        let after := tileRead t e.2.1 ((D e).base * 128) (size e)
        (plainFmt (f e).1 = false → (q.op = .bcast → ∀ z ∈ loc, z.1 = 0 → after = source z) ∧
          (q.op = .gath → after = (List.range count).flatMap (fun m => (loc.filter (fun z => z.1 = m)).flatMap source))) ∧
        (plainFmt (f e).1 = true → ∀ r j, r < (D e).rows → j < (D e).cols → ∃ R v,
          let V := fun (z : Nat × Nat × Copy × Launch) (i : Nat) (v : FVal) => let k := fmtOf (entryCode z.2.2.2 (A z))
            IsScaled (entryFmt z.2.2.2 (A z)).2 (fmtDecode k (codeAt (source z) (A z).cols (fmtBits k) i j)) v
          (q.op = .bcast → ∃ z ∈ loc, z.1 = 0 ∧ V z r R) ∧ (q.op = .gath → ∃ z ∈ loc, z.1 = r / (A e).rows ∧ V z (r % (A e).rows) R) ∧
          (reduces q.op = true → ∃ w : Nat → FVal, (∀ z ∈ loc, V z r (w z.1)) ∧ Reduces q.op count w R) ∧
          IsScaled (-(f e).2) R v ∧ CodeOf (f e).1 v (codeAt after (D e).cols (W e) r j)))

/-! Pipes, plans and queues (spec/06, spec/16). -/

/-- R132 to R140, 06 Table 2: what a pipe's home does, one operation in a reference clock, in order of arrival. A reservation takes a free
slot, or the oldest unreserved tile, and its answer goes to the core; a commit makes the slot filled, or held in a task; a completed pop
frees the slot, or retains it in a task; what comes from the producer package takes a slot and commits it; a credit raises the mirror; a
change of state closes or reopens and ends its instruction; a finished spill moves a tile to its spill slot.
Which free slot is taken is
log entry 51, how the operations travel log entry 52, and the place of a spill among them log entry 103. -/
def Obligations.PipeEvents : Prop :=
  ∀ (pl n core op : Nat) (s : State) (p : Pipe), pipeOf s pl n = some p →
    let quiet := ∀ r ∈ s.reqs, r.pipe = some (pl, n) → r.stage ≠ .done
    let calm := ∀ q ∈ s.plans, q.2.state ≠ .stopping
    let open_ := p.slots.any (fun e => decide (e.2.state = .writing) || decide (e.2.state = .held))
    let told := fun (t : State) (w : PipeWait) (push : Bool) => ∃ r ∈ t.reqs, r.pipe = some (pl, n) ∧ r.kind = .msg (.grant w.core w.slot w.path push) ∧ r.homeDie = dieOf w.core
    (∀ w, quiet → (p.remote && p.homeHere) = false → p.state = .opened → pstatValue p .free ≠ 0 → nextWait s (.pipeFree pl n) p.pushWaits = some w →
      myTurn s pl n p (opKey w.since 3 w.port) = true →
      let p' := { p with
        free := if p.homeHere then p.free - 1 else p.free, mirror := if p.homeHere then p.mirror else p.mirror - 1, lastOp := some s.clock
        slots := NMap.insert p.slots (freeSlot p) { state := .writing }, pushWaits := setWait w (freeSlot p, false) p.pushWaits }
      (dieOf w.core = p.homeDie → ∃ t, exec (.pipePushReserve pl n) s = .next t ∧ PipeBecomes s t pl n p') ∧
      (dieOf w.core ≠ p.homeDie → ∃ t, exec (.pipePushReserve pl n) s = .next t ∧ pipeOf t pl n = some p' ∧ told t w true)) ∧
    (∀ w h, quiet → p.state = .opened ∨ p.state = .closed → p.homeHere = true → p.queue.find? (fun z => !z.taken) = some h →
      nextWait s (.pipeFilled pl n) p.popWaits = some w → myTurn s pl n p (opKey w.since 2 w.port) = true →
      let after := fun (p' : Pipe) =>
        p' = { p with
          filled := p.filled - 1, queue := mapIf (sameTile h.spilled h.slot) (fun z => { z with taken := true }) p.queue, lastOp := some s.clock
          slots := if h.spilled then p.slots else NMap.insert p.slots h.slot { NMap.getD p.slots h.slot {} with state := .reading }
          popWaits := setWait w (h.slot, h.spilled) p.popWaits, state := p'.state } ∧
        (p.state = .opened → p'.state = .opened) ∧ (p'.state = .exhausted → p.filled ≤ 1)
      (dieOf w.core = p.homeDie → ∃ t p', exec (.pipePopReserve pl n) s = .next t ∧ PipeBecomes s t pl n p' ∧ after p') ∧
      (dieOf w.core ≠ p.homeDie → ∃ t p', exec (.pipePopReserve pl n) s = .next t ∧ pipeOf t pl n = some p' ∧ after p' ∧ told t w false)) ∧
    (∀ c slot sk, movedCopy s core op = some c → c.closed = false → c.kind = .ppush pl n slot → quiet → calm → p.homeHere = true → p.state = .opened → dieOf core = p.homeDie →
      myTurn s pl n p (opKey c.movedAt 0 (portOf core)) = true → skeinOf s core c.slot = some sk →
      let sl := NMap.getD p.slots slot {}
      ∃ t, exec (.pipePushCommit core (.op op)) s = .next t ∧ t = { endAgent s (.copy core op) with plans := t.plans, cores := t.cores } ∧ opOf t core c.slot op = none ∧
        (coreOf t core).copyq = (coreOf s core).copyq.filter (fun k => k.op ≠ c.op) ∧ tileOf t core c.tile = { tileOf s core c.tile with state := .ready } ∧
        (c.inTask = false → pipeOf t pl n = some { p with
          filled := p.filled + 1, lastOp := some s.clock, slots := NMap.insert p.slots slot { sl with state := .filled, tag := none }
          queue := p.queue ++ [{ spilled := false, slot := slot, taken := false, poison := sl.poison }] }) ∧
        (c.inTask = true → pipeOf t pl n = some { p with lastOp := some s.clock, slots := NMap.insert p.slots slot { sl with state := .held } } ∧
          (skeinOf t core c.slot).map Skein.held = some (sk.held ++ [(true, pl, n, slot)]))) ∧
    (∀ c slot sk, movedCopy s core op = some c → c.closed = false → c.kind = .ppop pl n slot false → quiet → calm → p.homeHere = true → p.remote = false → dieOf core = p.homeDie →
      myTurn s pl n p (opKey c.movedAt 1 (portOf core)) = true → skeinOf s core c.slot = some sk →
      ∃ t, exec (.pipePopComplete core op) s = .next t ∧ t = { endAgent s (.copy core op) with plans := t.plans, cores := t.cores } ∧ opOf t core c.slot op = none ∧
        tileOf t core c.tile = { tileOf s core c.tile with state := .ready, poison := c.poison, faulted := decide (c.faultCode ≠ 0) } ∧
        (c.inTask = false → pipeOf t pl n = some { p with
          free := p.free + 1, lastOp := some s.clock, slots := NMap.erase p.slots slot, queue := p.queue.filter (fun z => !sameTile false slot z) }) ∧
        (c.inTask = true → pipeOf t pl n = some { p with lastOp := some s.clock, slots := NMap.insert p.slots slot { NMap.getD p.slots slot {} with state := .retained } } ∧
          (skeinOf t core c.slot).map Skein.held = some (sk.held ++ [(false, pl, n, 2 * slot)]))) ∧
    (∀ tag i bs t0 rest, quiet → p.inbox = (.line tag i bs, t0) :: rest → p.remote = true → p.homeHere = true → (∀ e ∈ p.slots, e.2.tag ≠ some tag) → p.free ≠ 0 →
      myTurn s pl n p (opKey t0 3 15) = true →
      ∃ t r, exec (.pipePushReserve pl n) s = .next t ∧ pipeOf t pl n = some { p with
          inbox := rest, free := p.free - 1, slots := NMap.insert p.slots (freeSlot p) { state := .writing, tag := some tag }, lastOp := some s.clock } ∧
        t.reqs = s.reqs ++ [r] ∧ r.kind = .slotWrite (freeSlot p) i (lineOf 0 bs) ∧ r.pipe = some (pl, n)) ∧
    (∀ tags t0 rest js, p.inbox = (.commit tags, t0) :: rest → tags ≠ [] → p.homeHere = true → p.state = .opened → tags.map (tagSlot p) = (js : List Nat).map some →
      (∀ j ∈ js, ∀ r ∈ s.reqs, r.pipe = some (pl, n) → r.onWay = true → ∀ i d, r.kind ≠ .slotWrite j i d) → myTurn s pl n p (opKey t0 0 15) = true →
      ∃ t, exec (.pipePushCommit pl (.home n)) s = .next t ∧ PipeBecomes s t pl n (js.foldl (fun (q : Pipe) j => { q with
        filled := q.filled + 1, slots := NMap.insert q.slots j { NMap.getD q.slots j {} with state := .filled, tag := none }
        queue := q.queue ++ [{ spilled := false, slot := j, taken := false, poison := (NMap.getD q.slots j {}).poison }] }) { p with inbox := rest, lastOp := some s.clock })) ∧
    (∀ tag t0 rest j, p.inbox = (.drop tag, t0) :: rest → p.homeHere = true → p.state = .opened → tagSlot p tag = some j →
      (∀ r ∈ s.reqs, r.pipe = some (pl, n) → r.onWay = true → ∀ i d, r.kind ≠ .slotWrite j i d) → myTurn s pl n p (opKey t0 0 15) = true →
      ∃ t, exec (.pipePushCommit pl (.home n)) s = .next t ∧ pipeOf t pl n = some { p with inbox := rest, lastOp := some s.clock, free := p.free + 1, slots := NMap.erase p.slots j }) ∧
    (∀ filled, s.credits.find? (fun k => decide ((k.1, k.2.1, k.2.2.1) = (p.remotePkg, p.vc, n))) = some (p.remotePkg, p.vc, n, filled) →
      remotePipe s p.remotePkg p.vc n false = some pl → p.state = .opened → p.mirror < p.depth →
      ∃ t, exec (.pipeCredit pl n filled) s = .next t ∧
        PipeBecomes { s with credits := s.credits.erase (p.remotePkg, p.vc, n, filled) } t pl n { p with mirror := p.mirror + 1, mirrorFilled := filled }) ∧
    (∀ h, quiet → (∀ k t0 r, p.inbox ≠ (.state k, t0) :: r) → p.changes.find? (fun z => !z.sent) = some h → p.homeHere = true → (∀ c k o, h.who = some (c, k, o) → dieOf c = p.homeDie) →
      (if h.close then p.state = .opened else closedPipe p = true) →
      ∃ t, exec (.pipeHomeStateChange pl n) s = .next t ∧ PipeBecomes { s with cores := t.cores } t pl n { p with
          changes := p.changes.erase h, state := if h.close then (if p.filled = 0 ∧ open_ = false then .exhausted else .closed) else .opened } ∧
        ∀ c k o, h.who = some (c, k, o) → opOf t c k o = none) ∧
    (∀ q sl u, planOf s pl = some q → q.state = .running → p.spill = some (sl, u) →
      (p.spillStep = 0 → ∃ t new, exec (.pipeSpillComplete pl n) s = .next t ∧ pipeOf t pl n = some { p with spillStep := 1 } ∧ t.reqs = s.reqs ++ new ∧ new.length = p.lines ∧
        ∀ r ∈ new, r.who = .agent (.spill pl n) ∧ ∃ i, i < p.lines ∧ r.kind = .slotRead sl i) ∧
      (p.spillStep = 2 → (∀ r ∈ s.reqs, r.who = .agent (.spill pl n) → r.onWay = false) →
        ∃ t, exec (.pipeSpillComplete pl n) s = .next t ∧ PipeBecomes s t pl n { p with spillStep := 3, spillSince := s.clock }) ∧
      (p.spillStep = 3 → q.declared = [] → q.laps = [] → q.spillLap = none → myTurn s pl n p (spillKey p) = true → p.homeHere = true → p.remote = false →
        ∃ t, exec (.pipeSpillComplete pl n) s = .next t ∧ t.mem = s.mem ∧ (planOf t pl).map Plan.acting = some [] ∧
        (∀ st, st ∈ q.acting → ∀ b, (planOf t pl).bind (fun z => NMap.get? z.stages st) = some b → b.blocked = 0) ∧ pipeOf t pl n = some { p with
          spill := none, spillStep := 0, lastOp := some s.clock, spilled := p.spilled + 1, free := p.free + 1, slots := NMap.erase p.slots sl
          queue := mapIf (sameTile false sl) (fun z => { z with spilled := true, slot := u }) p.queue
          popWaits := mapIf (fun w => decide (w.granted = some (sl, false))) (fun w => { w with granted := some (u, true) }) p.popWaits }))

/-- The occupancy of a pipe in a sample; a pipe from another package counts with what its home has sampled (R150). -/
def Occ (q : Pipe) : Nat := min 255 (256 * (if q.remote && !q.homeHere then q.sample else q.filled) / q.depth)
/-- A pipe of the plan that a stage reads from, and one that it feeds, on this package. -/
def Reads (p : Plan) (st : Nat) (q : Pipe) : Prop := (∃ n, (n, q) ∈ p.pipes) ∧ q.consumer = st ∧ q.homeHere = true
def Feeds (p : Plan) (st : Nat) (q : Pipe) : Prop := (∃ n, (n, q) ∈ p.pipes) ∧ q.producer = st ∧ ¬(q.remote = true ∧ q.homeHere = true)
/-- The class of a stage in a sample (R150): 2 pressed, 1 starved, 0 neither. -/
def StageClass (p : Plan) (st k : Nat) : Prop :=
  let input := ∃ q, Reads p st q
  let pressed := (∃ q, Reads p st q ∧ p.fullT ≤ Occ q) ∨ (¬input ∧ ∀ q, Feeds p st q → Occ q ≤ p.emptyT)
  let starved := (input ∧ ∀ q, Reads p st q → Occ q ≤ p.emptyT) ∨ (¬input ∧ ∀ q, Feeds p st q → p.fullT ≤ Occ q)
  (pressed → k = 2) ∧ (¬pressed → starved → k = 1) ∧ (¬pressed → ¬starved → k = 0)
/-- The value by which a pressed stage is ranked (R151). -/
def Pressure (p : Plan) (st v : Nat) : Prop :=
  ((∃ q, Reads p st q) → (∃ q, Reads p st q ∧ v = Occ q) ∧ ∀ q, Reads p st q → Occ q ≤ v) ∧
  (¬(∃ q, Reads p st q) → v ≤ 255 ∧ (∀ q, Feeds p st q → v ≤ 255 - Occ q) ∧ (v = 255 ∨ ∃ q, Feeds p st q ∧ v = 255 - Occ q))
/-- R147 to R151, R156, R157, R160 to R162: PLAN_START runs a waiting plan whose slots, lines and cores are there; PLAN_END ends a running plan whose stages
are done, and counts the tiles that it discards; the balancer and the deadlock detector sample every running plan at their times. The balancer
takes a core from the lowest eligible starved stage above its Minimum for the eligible pressed stage below its Maximum that ranks highest,
here of a plan alone on one die. A ring of two stages whose edges have lasted 16 periods is acted on: the plan stops, or the oldest
filled tile of the lowest candidate pipe begins its way to the lowest free spill slot, or, where there is none, the plan stops (R158,
R159). A probe that has come is taken; a stage whose bolts have stopped is halted, and the next one's halt begins, or the plan ends once its
record is written. How waits and edges are counted, that a core on its way counts in a share, and that the model acts on a ring as it
declares it are log entries 63, 100 and 101. -/
def Obligations.PlanEvents : Prop :=
  ∀ (pl : Nat) (s : State) (p : Plan), planOf s pl = some p →
    (∀ pins c0 c1 c2 c3, p.state = .waiting → slotsTaken s pl p = false → placePlan s p.part pl p.pipes (pinsNow s) = some pins →
      (∀ e ∈ pins, ∀ k ∈ NMap.keys e.2, NMap.get? (sliceOf s e.1).pins k = none → NMap.get? (sliceOf s e.1).lines k = none) →
      takeCores s p 0 = some c0 → takeCores s p 1 = some c1 → takeCores s p 2 = some c2 → takeCores s p 3 = some c3 →
      ∃ t p', exec (.planStart pl) s = .next t ∧ planOf t pl = some p' ∧ p' = { p with state := .running, stages := p'.stages } ∧ t.mem = s.mem ∧ t.cores = s.cores ∧
        ∀ st b, NMap.get? p'.stages st = some b → ∀ c, c ∈ b.share ++ b.joining ↔ c ∈ [c0, c1, c2, c3].flatMap (fun m => NMap.getD m st [])) ∧
    (p.state = .running → (∀ e ∈ p.stages, e.2.done = true) →
      ∃ t p', exec (.planEnd pl) s = .next t ∧ planOf t pl = some p' ∧ p'.state = .ended ∧ p'.spillUsed = [] ∧ (∀ e ∈ p'.stages, e.2.share = [] ∧ e.2.joining = []) ∧ t.mem = s.mem ∧
        p'.discarded = (p.pipes.map (fun e => e.2.queue.length)).foldl (· + ·) 0 ∧ (∀ e ∈ p'.pipes, e.2.queue = [] ∧ e.2.slots = []) ∧
        ∀ e ∈ t.slices, ∀ z ∈ e.2.pins, ∀ k i, z.2 ≠ .slotLine pl k i) ∧
    (s.clock % 65536 = 0 → p.state = .running → p.balance = true → p.balanced ≠ some s.clock →
      ∃ t p', exec .balancerSample s = .next t ∧ planOf t pl = some p' ∧ p'.balanced = some s.clock ∧
        ∀ st b, NMap.get? p.stages st = some b → ∃ b', NMap.get? p'.stages st = some b' ∧ StageClass p st b'.cls) ∧
    (∀ die dn dd rn rr c, let q := NMap.getD s.dies die {}
      let count := fun (b : Stage0) k => if b.cls = k then b.clsCount + 1 else 1
      let eligible := fun (st : Nat) (b : Stage0) k => NMap.get? p.stages st = some b ∧ StageClass p st k ∧ p.hyst ≤ count b k
      let size := fun (b : Stage0) => (b.share ++ b.joining).length
      let takes := fun (st : Nat) (b : Stage0) => eligible st b 2 ∧ size b < b.maxShare.getD die 0
      let gives := fun (st : Nat) (b : Stage0) => eligible st b 1 ∧ b.minShare.getD die 0 < size b
      let ready := fun k => k ∈ dd.share ∧ (∀ b ∈ (coreOf s k).bolts, b.2.started + (p.residency + 1) * 1800000 ≤ s.clock) ∧ coreHalted s k = false
      let rank := fun k => 256 * (coreOf s k).skeins.length + k
      s.clock % 65536 = 0 → s.plans = [(pl, p)] → p.state = .running → p.balance = true → p.balanced ≠ some s.clock → p.declared = [] → p.acting = [] →
      (NMap.keys p.stages).Pairwise (· < ·) → die < 4 → (∀ e ∈ p.stages, ∀ k ∈ e.2.share ++ e.2.joining, k / 48 = die) → (∀ k ∈ dd.share, k < 192 ∧ k ∉ dd.joining) →
      q.move = none → q.migration = none → q.balMoved ≠ some s.clock →
      takes rn rr → (∀ st b u v, takes st b → Pressure p st u → Pressure p rn v → u < v ∨ (u = v ∧ rn ≤ st)) →
      gives dn dd → (∀ st b, gives st b → dn ≤ st) → ready c → (∀ k, ready k → rank c ≤ rank k) →
      ∃ t p' d' r', exec .balancerSample s = .next t ∧ planOf t pl = some p' ∧ NMap.get? p'.stages dn = some d' ∧ NMap.get? p'.stages rn = some r' ∧
        c ∉ d'.share ∧ c ∈ r'.share ++ r'.joining ∧ d'.clsCount = 0 ∧ r'.clsCount = 0) ∧
    (s.clock % 65536 = 0 → s.clock ≠ 0 → p.state = .running → p.sampled ≠ some s.clock →
      ∃ t p', exec .deadlockSample s = .next t ∧ planOf t pl = some p' ∧ p'.sampled = some s.clock ∧
        (s.plans = [(pl, p)] → ∀ st b, NMap.get? p.stages st = some b → blockedEdges s p st (s.clock - 65536) = none → (NMap.get? p'.stages st).map Stage0.blocked = some 0)) ∧
    (∀ a b, let t0 := s.clock - 65536
      let cand := fun n q => (n, q) ∈ p.pipes ∧ q.free = 0 ∧ pushWaiting s pl n = true ∧ (q.producer = a ∨ q.producer = b) ∧ (q.consumer = a ∨ q.consumer = b) ∧
        ∃ z ∈ q.queue, z.spilled = false ∧ z.taken = false
      a < b → b < 16 → s.clock % 65536 = 0 → s.clock ≠ 0 → s.plans = [(pl, p)] → p.state = .running → p.sampled ≠ some s.clock → p.laps = [] → p.declared = [] → p.acting = [] →
      (∀ e ∈ p.pipes, e.2.remote = false ∧ e.2.homeHere = true) → (NMap.keys p.pipes).Pairwise (· < ·) → (NMap.keys p.stages).Pairwise (· < ·) → (∀ d ∈ s.dies, d.2.move = none) →
      blockedEdges s p a t0 = some [b] → blockedEdges s p b t0 = some [a] → (∀ st, st ≠ a → st ≠ b → blockedEdges s p st t0 = none) →
      (blockedEdges s p a s.clock).isSome = true → (blockedEdges s p b s.clock).isSome = true →
      15 ≤ NMap.getD p.edgeAge (64 * a + b) 0 → 15 ≤ NMap.getD p.edgeAge (64 * b + a) 0 →
      ∃ t p', exec .deadlockSample s = .next t ∧ planOf t pl = some p' ∧
        (p.drainStop = true → p'.state = .stopping ∧ p'.stopCause = 1) ∧
        (p.drainStop = false → ((∀ n q, ¬cand n q) ∨ ∀ u, u < 4 * p.spillUnits → u ∈ p.spillUsed) → p'.state = .stopping ∧ p'.stopCause = 3) ∧
        (∀ n q z u, p.drainStop = false → cand n q → (∀ k v, cand k v → n ≤ k) → q.queue.find? (fun z => !z.spilled && !z.taken) = some z →
          u < 4 * p.spillUnits → u ∉ p.spillUsed → (∀ k, k < u → k ∈ p.spillUsed) →
          p'.state = .running ∧ pipeOf t pl n = some { q with spill := some (z.slot, u), spillStep := 0 } ∧ u ∈ p'.spillUsed ∧ a ∈ p'.acting ∧ b ∈ p'.acting)) ∧
    (∀ m pkg stage count at_, s.probes.find? (fun (m : Probe) => decide ((m.pkg, m.stage, m.count, m.plan, m.atStage) = (pkg, stage, count, pl, at_))) = some m →
      ∃ t, exec (.deadlockProbe pkg stage count pl at_) s = .next t ∧ t.probes = s.probes.erase m ∧
        (((NMap.get? p.stages at_).map Stage0.blocked).getD 0 = 0 → t = { s with probes := t.probes })) ∧
    (∀ st b, p.state = .stopping → p.stopNow = some st → NMap.get? p.stages st = some b → (∀ g, NMap.get? s.grids b.grid = some g → g.running = 0) →
      (∀ v ∈ s.savedBolts, v.grid = b.grid → v.dropping = false) →
      ∃ t p', exec (.stageHalt pl) s = .next t ∧ planOf t pl = some p' ∧ (NMap.get? p'.stages st).map Stage0.halted = some true ∧
        (nextHalt p = none → p'.state = .ended ∨ (p'.state = .stopping ∧ p'.stopNow = none ∧ p'.finalRecord = some s.nextId)) ∧
        ∀ k, nextHalt p = some k → p'.stopOrder = p.stopOrder ++ [k] ∧ p'.stopNow = some k) ∧
    (∀ id, p.state = .stopping → p.stopNow = none → p.finalRecord = some id →
      ((∃ r ∈ s.records, r.id = id) → exec (.stageHalt pl) s = .next s) ∧
      ((∀ r ∈ s.records, r.id ≠ id) → ∃ t p', exec (.stageHalt pl) s = .next t ∧ planOf t pl = some p' ∧ p'.state = .ended))

/-- R95 to R97, R372 to R377: a write to QTAIL asks for the queue's descriptor, and takes effect once that has come; a queue reads its next entry and starts the
first that its order allows; a copy entry asks for a line and then writes it; an invalidation drops every translation in its scope, then, once no
older store is left in the cores that it concerns, writes back and drops the L1 lines of their pages, and completes when the requests of the
concerned partitions and of the engines, and the older loads, are done, and not before; the completed head entries are counted and the completion word is written.
What the
front end reads, and when its writes are sent, are log entries 66, 76 and 93. -/
def Obligations.QueueEvents : Prop :=
  ∀ (q seq : Nat) (s : State), let w := NMap.getD s.queues q {}
    (∀ v : Word, devReady s = true → q < 65536 → behindSlices (s.dev.qtBase + 32 * q) = true → s.dev.qtBase % 32 = 0 → (∀ r ∈ s.reqs, r.who ≠ .agent (.front (65536 + q))) →
      ∃ t r, exec (.qtailWrite q v) s = .next t ∧ NMap.get? t.queues q = some { w with asked := some v.toNat } ∧ t.reqs = s.reqs ++ [r] ∧
        r.who = .agent (.front (65536 + q)) ∧ r.kind = .read allLanes ∧ r.line = (s.dev.qtBase + 32 * q) / 128 ∧ t.mem = s.mem ∧ t.cores = s.cores) ∧
    (∀ v bs, devReady s = true → w.asked = some v → w.entries = [] → InHand s (.front (65536 + q)) (s.dev.qtBase + 32 * q) 32 bs → s.dev.qtBase % 32 = 0 →
      let w1 := recWord bs 8
      let w' := { w with asked := none, tail := v, ringBase := 4096 * field (recWord bs 0) 12 40, ringBits := field w1 8 5, part := field w1 20 4, prio := field w1 13 7, doneAddr := 8 * field (recWord bs 0x10) 3 49 }
      (w1 % 2 = 1 → field w1 20 4 ≤ 8 → 4 ≤ field w1 8 5 → field w1 8 5 ≤ 20 → w'.head = v ∨ queueOverrun w' = true ∨ turnOwner s ≠ w'.part →
        ∃ t, exec (.entryStart q) s = .next t ∧ NMap.get? t.queues q = some w' ∧ t.mem = s.mem ∧ t.cores = s.cores) ∧
      (w1 % 2 = 0 ∨ 8 < field w1 20 4 ∨ field w1 8 5 < 4 ∨ 20 < field w1 8 5 → w.head = w.tail →
        ∃ t, exec (.entryStart q) s = .next t ∧ NMap.get? t.queues q = some { w with asked := none } ∧ t.mem = s.mem ∧ t.cores = s.cores)) ∧
    (∀ bs, devReady s = true → w.asked = none → w.head ≠ w.tail → queueOverrun w = false → turnOwner s = w.part → w.ringBase % 64 = 0 →
      InHand s (.front (131072 + q)) (w.ringBase + 64 * (w.head % 2 ^ w.ringBits)) 64 bs →
      ∃ t w', exec (.entryStart q) s = .next t ∧ NMap.get? t.queues q = some w' ∧ w'.head = (w.head + 1) % 2 ^ 32 ∧ w'.nextSeq = (w.nextSeq + 1) % 2 ^ 48) ∧
    (∀ before e, let kind := field (e.word 3) 0 4
      devReady s = true → w.asked = none → w.head = w.tail → nextEntry w = some (before, e) → entryOrdered s before e = true →
      (e.type = 4 → 1 ≤ kind → kind ≤ 3 → exec (.entryStart q) s = .next (entryRuns s q e.seq 0)) ∧
      (e.type = 4 → kind = 0 → exec (.entryStart q) s = .next (entryDone' s q e.seq false)) ∧
      (e.type = 0 ∨ 4 < e.type → ∃ t, exec (.entryStart q) s = .next t ∧ t.grids = s.grids ∧ t.plans = s.plans ∧ t.cores = s.cores) ∧
      (∀ d v bs ds u l y, e.type = 1 → acceptDesc s (.front q) frontOwner e.ctx = (some d, v) → descOk d = true → readRecord v (.front q) frontOwner e.ctx (e.word 3) = (some (some (bs, ds)), u) →
        checkLaunch u (.front q) bs ds false e.part e.part (if e.blockwise then some (e.word 4) else none) false = (some (.ok l), y) → l.weight = false →
        ∃ t g, exec (.entryStart q) s = .next t ∧ NMap.get? t.grids y.nextId = some g ∧ g.launch = l ∧ g.queue = q ∧ g.seq = e.seq ∧ g.plan = none ∧ g.running = 0 ∧ g.done = false ∧ t.cores = y.cores)) ∧
    (∀ e, runningEntry s q seq 3 = some e → (∀ r ∈ s.reqs, r.who = .agent (.entry q seq) → r.onWay = false) →
      let sa := (e.word 3 + e.moved) % 2 ^ 64
      let da := (e.word 4 + e.moved) % 2 ^ 64
      let found := fun (va : Nat) (kind : WalkKind) (y : Xl) => canonical va = true ∧ ∃ p X, tlbFind (NMap.getD s.dies 0 {}).tlb e.ctx (va57 va) = some p ∧
        tlbAccess p (va57 va) kind = .ok X ∧ X.type ≠ 3 ∧ useCheck s 0 X .other = .ok y
      (field (e.word 5) 0 40 ≤ e.moved → exec (.copyEntryComplete q seq) s = .next (endCopyEntry s q seq false)) ∧
      (∀ x y, e.moved < field (e.word 5) 0 40 → found sa .read x → found da .write y → isMain x.pa = true → isMain y.pa = true → y.pa % 128 = 0 →
        ((∀ l ∈ s.lines, l.agent = .entry q seq → l.line ≠ x.pa / 128) → (∀ r ∈ s.reqs, r.who ≠ .agent (.entry q seq)) →
          ∃ t r, exec (.copyEntryComplete q seq) s = .next t ∧ t.mem = s.mem ∧ t.reqs = s.reqs ++ [r] ∧ r.who = .agent (.entry q seq) ∧ r.kind = .read allLanes ∧ r.line = x.pa / 128) ∧
        (∀ ln, s.lines.find? (fun l => decide (l.agent = .entry q seq) && decide (l.line = x.pa / 128)) = some ln →
          ∃ t r m d, exec (.copyEntryComplete q seq) s = .next t ∧ t.mem = s.mem ∧ t.reqs.getLast? = some r ∧ r.who = .agent (.entry q seq) ∧ r.kind = .write m d ∧ r.line = y.pa / 128 ∧
            r.rpoison = ln.poison ∧ (∀ b, b < 128 → m.getLsbD b = true ∧ lineByte d b = lineByte ln.data b) ∧
            (runningEntry t q seq 3).map QEntry.moved = some (e.moved + 128)))) ∧
    (∀ e, runningEntry s q seq 4 = some e →
      (e.began = none → ∃ t, exec (.invalidationComplete q seq) s = .next t ∧ t.mem = s.mem ∧ (runningEntry t q seq 4).map QEntry.began = some (some (s.clock, s.nextId)) ∧
        (∀ c ∈ t.cores, ∀ z ∈ c.2.tlb, inScope e z = false) ∧ (∀ d ∈ t.dies, ∀ z ∈ d.2.tlb, inScope e z = false)) ∧
      -- the partitions whose work the invalidation concerns
      let about := fun (part : Nat) => field (e.word 3) 0 4 = 3 ∨ (∃ z ∈ e.dropped, z.part = part) ∨ ∃ d, NMap.get? s.descs e.ctx = some d ∧ descPart d = part
      let inDropped := fun (core line : Nat) => ∃ z ∈ e.dropped, z.pa ≤ 128 * line ∧ 128 * line < z.pa + z.size ∧ z.part = partOf s core
      let older := fun (t n : Nat) => ∃ c ∈ s.cores, about (partOf s c.1) ∧ ∃ k ∈ c.2.skeins, (∃ x ∈ k.2.sq ++ k.2.sqWait, x.made ≤ t) ∨
        ∃ o ∈ k.2.ops, o.1 < n ∧ ∃ a1 a2 a3 a4 a5 a6 a7, o.2.body = .atomic a1 a2 a3 a4 a5 a6 false a7
      (∀ t0 n0, e.began = some (t0, n0) → e.waits = none →
        (older t0 n0 → exec (.invalidationComplete q seq) s = .next s) ∧
        (¬older t0 n0 → (s.reqs.map Req.id).Nodup → (∀ r ∈ s.reqs, r.id < s.nextId) → ∃ t l, exec (.invalidationComplete q seq) s = .next t ∧ t.mem = s.mem ∧
          (runningEntry t q seq 4).bind QEntry.waits = some l ∧ (∀ r ∈ t.reqs, r.id ∈ l ↔ about r.owner ∨ ∃ a, r.who = .agent a) ∧
          ∀ c k line, NMap.get? s.cores c = some k → inDropped c line → NMap.get? (coreOf t c).l1 line = none ∧
            ∀ z, NMap.get? k.l1 line = some z → z.dirty ≠ 0 → ∃ r ∈ t.reqs, r.who = .writeback c none ∧ r.line = line ∧ r.kind = .write z.dirty z.data)) ∧
      (∀ t0 n0 l, e.began = some (t0, n0) → e.waits = some l →
        let pending := (∃ r ∈ s.reqs, r.id ∈ l ∧ (r.isWrite = false ∨ r.onWay = true)) ∨
          ∃ c ∈ s.cores, about (partOf s c.1) ∧ ∃ k ∈ c.2.skeins, ∃ o ∈ k.2.ops, o.1 < n0 ∧ ∃ parts elems size signed dst, o.2.body = .load parts elems size signed dst ∧ ∃ p ∈ parts, p.arrived = false
        (pending → exec (.invalidationComplete q seq) s = .next s) ∧ (¬pending → exec (.invalidationComplete q seq) s = .next (entryDone' s q seq false)))) ∧
    (∀ e, let done := w.entries.takeWhile (fun e => e.state = .done)
      let failed := w.sticky || w.entries.any (fun e => e.failed)
      done.getLast? = some e → isMain e.doneAddr = true → regionPresent s e.doneAddr = true →
      ∃ t r, exec (.entryComplete q) s = .next t ∧ NMap.get? t.queues q = some { w with entries := w.entries.drop done.length, completed := e.seq, sticky := failed } ∧ t.mem = s.mem ∧
        t.reqs = s.reqs ++ [r] ∧ r.line = e.doneAddr / 128 ∧
        r.kind = .write (maskBytes (e.doneAddr % 128) 8) (lineOf (e.doneAddr % 128) (leBytes 8 (e.seq + if failed then 2 ^ 63 else 0))))

/-! Bolts, grids and dispatch (spec/16, spec/17). -/

/-- A die's translation cache gives an address, for a page use that every agent may make. -/
def FoundOnDie (s : State) (die ctx va : Nat) (kind : WalkKind) (y : Xl) : Prop :=
  canonical va = true ∧ ∃ p X, tlbFind (NMap.getD s.dies die {}).tlb ctx (va57 va) = some p ∧ tlbAccess p (va57 va) kind = .ok X ∧ useCheck s die X .other = .ok y
/-- R100, R101, R136, R350, R385, R463: SKEIN_END, BOLT_END and GRID_COMPLETE: what must be over, what returns to the core, and the event word, which
a bolt of a stopping plan does not write; the gate of the
weight store, and the end of a refresh window.
When granules return is log entry 90. -/
def Obligations.EndEvents : Prop :=
  (∀ (core slot : Nat) (s : State) (sk : Skein), skeinOf s core slot = some sk → sk.run = .exited → sk.sq = [] → sk.sqWait = [] → sk.ops = [] → sk.mat = none → sk.taskOpen = false →
    sk.copyFaults = [] → (∀ n ∈ sk.counters, n = 0) →
    ∃ t, exec (.skeinEnd core slot) s = .next t ∧ t.mem = s.mem ∧ skeinOf t core slot = some { sk with run := .ended, vregs := [], vmarks := [], spilled := [] } ∧
      ∀ n, n ≠ core → coreOf t n = coreOf s n) ∧
  (∀ (core bolt : Nat) (s : State) (b : Bolt) (g : Grid) (w : List Nat), boltOf s core bolt = some b → NMap.get? s.grids b.grid = some g →
    (∀ e ∈ boltSkeins s core bolt, e.2.run = .ended) → boltCopies s core bolt = false → b.release = some w → waitsDone s .sys w = true →
    let stopping := ∃ pl st p, g.plan = some (pl, st) ∧ planOf s pl = some p ∧ p.state = .stopping
    (g.launch.eventArray = 0 ∨ b.written.isSome = true ∨ stopping → agentBusy s (.context b.grid b.block) = false → ∃ t, exec (.boltEnd core bolt) s = .next t ∧ t.mem = s.mem ∧
      boltOf t core bolt = none ∧ NMap.get? t.grids b.grid = some { g with running := g.running - 1, lastEnd := some s.clock } ∧
      ∀ k sk, skeinOf t core k = some sk → sk.bolt ≠ bolt) ∧
    (∀ y, let va := g.launch.eventArray + 8 * (b.block - baseBlock g.launch)
      g.launch.eventArray ≠ 0 → b.written = none → ¬stopping → (∀ r ∈ s.reqs, r.who ≠ .agent (.context b.grid b.block)) → FoundOnDie s (dieOf core) g.launch.ctx va .write y →
      va % 8 = 0 → y.pa % 8 = 0 → behindSlices y.pa = true → regionPresent s y.pa = true →
      ∃ t r, exec (.boltEnd core bolt) s = .next t ∧ t.mem = s.mem ∧ boltOf t core bolt = some { b with written := some (0, none) } ∧ t.reqs = s.reqs ++ [r] ∧ r.line = y.pa / 128 ∧
        r.who = .agent (.context b.grid b.block) ∧ r.kind = .write (maskBytes (y.pa % 128) 8) (lineOf (y.pa % 128) (leBytes 8 (g.queue * 2 ^ 48 + g.seq))))) ∧
  (∀ (n : Nat) (s : State) (g : Grid), NMap.get? s.grids n = some g → g.done = false → g.running = 0 → g.saved = [] → (∀ e ∈ g.todo, e.2 = []) →
    (g.plan = none → g.stopped = false → exec (.gridComplete n) s = .next (entryDone' (updGrid s n (fun g => { g with done := true })) g.queue g.seq g.failed)) ∧
    (∀ pl st p b, g.plan = some (pl, st) → planOf s pl = some p → p.state = .running → NMap.get? p.stages st = some b →
      ∃ t p', exec (.gridComplete n) s = .next t ∧ planOf t pl = some p' ∧ (NMap.get? p'.stages st).map Stage0.done = some true ∧ (NMap.get? t.grids n).map Grid.done = some true ∧
        t.mem = s.mem ∧ t.cores = s.cores)) ∧
  (∀ (die group : Nat) (s : State) (w : GateReq) (r : List GateReq), let d := NMap.getD s.dies die {}
    (∀ g, w.since < s.clock → d.gateQueue = w :: r → w.grid = some g → d.gate ≠ .write →
      exec (.wsGateEnter die) s = .next { s with dies := NMap.insert s.dies die { d with gate := .read, gateReaders := d.gateReaders ++ [g], gateQueue := r } }) ∧
    (w.since < s.clock → d.gateQueue = w :: r → w.grid = none → d.gate = .free →
      exec (.wsGateEnter die) s = .next { s with dies := NMap.insert s.dies die { d with gate := .write, gateWriter := some (w.queue, w.seq), gateQueue := r } }) ∧
    (s.clock % 262144 = 2048 + 8192 * group → exec (.wsRefreshWindowEnd die group) s = .next ((List.range 48).foldl (fun s n => pokeCore s (48 * die + n)) s) ∧
      ∀ a, a / 0x600000 = group → inRefresh s.clock a = false))

/-- A core's own translation cache gives an address, for a page use that every agent may make. -/
def FoundOnCore (s : State) (core ctx va : Nat) (kind : WalkKind) (y : Xl) : Prop :=
  canonical va = true ∧ ∃ p X, tlbFind (coreOf s core).tlb ctx (va57 va) = some p ∧ tlbAccess p (va57 va) kind = .ok X ∧ useCheck s (dieOf core) X .other = .ok y
/-- The 32-bit word at a byte offset of an image; zero where the image does not hold it whole. -/
def wordIn (bs : List Byte) (o : Nat) : Nat := if o + 4 ≤ bs.length then leNat ((bs.drop o).take 4) else 0
/-- Bytes of a context area from an offset on are on their way to the slices, line by line. -/
def Posted (t : State) (a : Agent) (tr : Nat → Xl) (off : Nat) (bs : List Byte) : Prop :=
  ∀ i, i < bs.length → i = 0 ∨ (off + i) % 128 = 0 → let n := min (bs.length - i) (128 - (off + i) % 128)
    ∃ r ∈ t.reqs, r.who = .agent a ∧ r.line = (tr (off + i)).pa / 128 ∧ r.kind = .write (maskBytes ((off + i) % 128) n) (lineOf ((off + i) % 128) ((bs.drop i).take n))
/-- A bolt's context area is translated, in main memory that is there, and its launch and its skeins lie within their ranges. -/
def ContextMapped (s : State) (core bolt : Nat) (b : Bolt) (l : Launch) (tr : Nat → Xl) : Prop :=
  l.skeins ≤ 8 ∧ l.backing < 4096 ∧ b.accs.length ≤ 32 ∧ ctxAreaOf l b.block % 128 = 0 ∧ (NMap.keys (coreOf s core).skeins).Nodup ∧
  (∀ e ∈ boltSkeins s core bolt, e.2.index < 8 ∧ topOf e.2 ≤ 8 * l.backing) ∧ (∀ e ∈ tileOffsets s core l, e.1 + 128 * (tileOf s core e.2).size ≤ 0x190000) ∧
  ∀ o, o % 32 = 0 → o < 2 ^ 28 → FoundOnCore s core l.ctx (ctxAreaOf l b.block + o) .write (tr o) ∧ (tr o).pa % 128 = o % 128 ∧ behindSlices (tr o).pa = true ∧ regionPresent s (tr o).pa = true
/-- The saved context of a bolt, as R420 lays it out: tile table and tile images, accumulators with side buffers and tags, and, of every
skein, its detail block, its k and p registers, LK, its globals and the resident positions of its windows. What a private region holds, but
its check word, is the device's own (log entry 17), and what a save writes to a detail block is log entry 94. -/
def ContextPosted (s t : State) (core bolt : Nat) (b : Bolt) (l : Launch) (tr : Nat → Xl) : Prop :=
  let put := Posted t (.context b.grid b.block) tr
  (∃ w : Nat → Nat, put 0x1000 ((List.range 256).flatMap (fun d => leBytes 8 (w d))) ∧ ∀ d, d < 256 → (d ∉ b.tiles → w d = 0) ∧ (d ∈ b.tiles → let e := tileOf s core d
    bitAt (w d) 60 = e.present ∧ bitAt (w d) 61 = e.poison ∧ bitAt (w d) 59 = e.faulted ∧
    (e.fmt < 256 → e.slot < 8 → e.base < 4096 → e.size ≤ 4096 → e.rows ≤ 512 → e.cols ≤ 512 → 0 < e.size → 0 < e.rows → 0 < e.cols →
      field (w d) 62 2 = (match e.state with | .empty => 0 | .filling => 1 | .ready => 2 | .draining => 3) ∧ field (w d) 49 9 = e.cols - 1 ∧ field (w d) 40 9 = e.rows - 1 ∧
      field (w d) 24 12 = e.size - 1 ∧ field (w d) 12 12 = e.base ∧ field (w d) 9 3 = e.slot ∧ bitAt (w d) 8 = e.useSlot ∧ field (w d) 0 8 = e.fmt))) ∧
  (∀ i a, b.accs[i]? = some a → put (0x2000 + 128 * i) ((List.range 64).flatMap (fun n => leBytes 2 (NMap.getD (accOf s core a).tags n 0))) ∧
    put (0x10000 + 32768 * i) ((List.range 8192).flatMap (fun n => leBytes 4 (if n < 4096 then NMap.getD (accOf s core a).elems n 0 else NMap.getD (accOf s core a).side (n - 4096) 0).toNat))) ∧
  (∀ e ∈ tileOffsets s core l, put e.1 ((List.range (128 * (tileOf s core e.2).size)).map (fun i => tileByte s core (128 * (tileOf s core e.2).base + i)))) ∧
  (∀ e ∈ privRegions l, ∃ bs : List Byte, bs.length = e.2 - 8 ∧ put e.1 (withCheck bs)) ∧
  ∀ e ∈ boltSkeins s core bolt, let z := 0x200000 + e.2.index * (65536 * (1 + cdiv l.backing 16))
    let regs := fun base n => (List.range n).flatMap (fun i => (List.range 128).flatMap (fun j => leBytes 4 (vlane (vget e.2 (base + i)) j).toNat))
    put (z + 0x800) (wordBytes (detailBlock e.2)) ∧ put (z + 0x400) ((List.range 64).flatMap (fun n => leBytes 4 (kget e.2 n).toNat)) ∧
    put (z + 0x500) ((List.range 7).flatMap (fun n => leBytes 16 (pget e.2 n).toNat)) ∧ put (z + 0x600) ((List.range 128).flatMap (fun j => leBytes 4 (vlane e.2.lk j).toNat)) ∧
    put (z + 0x2000) (regs 0 16) ∧ ∀ g, 8 * g < topOf e.2 → g ∉ e.2.spilled → put (z + 0x10000 + 4096 * g) (regs (16 + 8 * g) 8)
/-- The registers of a skein are those of its section of a context area; of the backing stack the granules of `here`. -/
def RegsFrom (r : Areas) (at_ : Nat) (here : Nat → Prop) (k : Skein) : Prop :=
  let lane := fun o n i => leNat (((((areaAt r (at_ + o)).drop (512 * n)).take 512).drop (4 * i)).take 4)
  (∀ n, (kget k n).toNat = wordIn (areaAt r (at_ + 0x400)) (4 * n)) ∧ (∀ n, n < 7 → (pget k n).toNat = leNat (((areaAt r (at_ + 0x500)).drop (16 * n)).take 16)) ∧
  (∀ i, i < 128 → (vlane k.lk i).toNat = lane 0x600 0 i) ∧ (∀ n i, n < k.globals → k.globals ≤ 16 → i < 128 → (vlane (vget k n) i).toNat = lane 0x2000 n i) ∧
  ∀ g, here g → g ∉ k.spilled ∧ ∀ n i, n < 8 → i < 128 → (vlane (vget k (16 + 8 * g + n)) i).toNat = lane (0x10000 + 4096 * g) n i
/-- The accumulators of a bolt are those of a context area. -/
def AccsFrom (t : State) (core : Nat) (b : Bolt) (r : Areas) : Prop :=
  b.accs.Nodup → ∀ i a, b.accs[i]? = some a → (∀ n, (NMap.getD (accOf t core a).elems n 0).toNat = wordIn ((areaAt r (0x10000 + 32768 * i)).take 16384) (4 * n)) ∧
    (∀ n, (NMap.getD (accOf t core a).side n 0).toNat = wordIn ((areaAt r (0x10000 + 32768 * i)).drop 16384) (4 * n)) ∧
    ∀ n, n < 64 → NMap.getD (accOf t core a).tags n 0 = leNat (((areaAt r (0x2000 + 128 * i)).drop (2 * n)).take 2)
/-- The tiles of a bolt are those of a context area, at the places that they have now; their allotments do not overlap. -/
def TilesFrom (s t : State) (core : Nat) (l : Launch) (r : Areas) : Prop :=
  let at_ := fun d => 128 * (tileOf s core d).base
  ((tileOffsets s core l).Pairwise (fun d e => d.2 ≠ e.2 ∧ (at_ d.2 + (areaAt r d.1).length ≤ at_ e.2 ∨ at_ e.2 + (areaAt r e.1).length ≤ at_ d.2))) →
    ∀ d ∈ tileOffsets s core l, let w := leNat (areaAt r (0x1000 + 8 * d.2))
      (tileOf t core d.2).state = (if field w 62 2 = 2 then .ready else .empty) ∧ (tileOf t core d.2).poison = bitAt w 61 ∧ (tileOf t core d.2).faulted = bitAt w 59 ∧
      (tileOf t core d.2).base = (tileOf s core d.2).base ∧ ∀ i x, (areaAt r d.1)[i]? = some x → tileByte t core (at_ d.2 + i) = x
/-- R380, R381, R386 to R390, R396, R404, R415 to R417, R419 to R421: DISPATCH_TURN admits the bolt that the turn's choice gives, with its skeins at the entry PC;
CONTEXT_RESTORE restores a saved one: its registers, its tiles and its accumulators are what the context area holds, and a context that cannot
be read, or whose check words fail, parks it; BOLT_STOP and BOLT_PARK first write the context; THERMAL_MIGRATION begins the save of the oldest bolt of the hottest core; BOLT_PARK and
BOLT_STOP end a bolt whose stop points are reached; STOPREQ_WRITE stops what it names.
What a save keeps beside the memory image is log
entry 18; when a stop is reached, and where a migration goes, are log entries 64 and 65. -/
def Obligations.DispatchAndStop : Prop :=
  (∀ (die gn block core : Nat) (s v : State) (g : Grid), let u := actWaiting (endMigration (joinShares s die) die)
    devReady s = true → (NMap.getD u.dies die {}).lastTurn ≠ some (u.clock / 8) → NMap.get? v.grids gn = some g →
    (pickBolt die (turnGrids u die (turnOwner u)) u = (some (.fresh gn block core), v) → ∃ t bn b g', exec (.dispatchTurn die) s = .next t ∧ t.mem = v.mem ∧
      boltOf t core bn = some b ∧ b.grid = gn ∧ b.block = block ∧ b.slots.length = g.launch.skeins ∧ b.accs = (freeAccs (coreOf v core)).take g.launch.accums ∧
      NMap.get? t.grids gn = some g' ∧ g'.running = g.running + 1 ∧ (∀ e ∈ g'.todo, block ∉ e.2) ∧
      (b.slots.Nodup → ∀ i k, b.slots[i]? = some k → ∃ sk, skeinOf t core k = some sk ∧ sk.bolt = bn ∧ sk.index = i ∧ sk.globals = g.launch.globals ∧ sk.vregs = [] ∧ sk.run = .running ∧
        sk.paths = [(0, { pc := g.launch.entryPc, mask := allLanes, win := ⟨0, g.launch.frame⟩ })] ∧
        (∀ l, l < 128 → sk.exited.getLsbD l = decide (g.launch.lanes ≤ 128 * i + l)) ∧ ∀ n, kget sk n = if n < g.launch.argWords then g.launch.args.getD n 0 else 0)) ∧
    (∀ z, pickBolt die (turnGrids u die (turnOwner u)) u = (some (.saved gn z core), v) → (∀ w ∈ s.savedBolts, w.grid = gn → w.into = none) → z ∈ v.savedBolts →
      ∃ t bn b, exec (.contextRestore die gn) s = .next t ∧ t.mem = v.mem ∧ { z with into := some (core, bn) } ∈ t.savedBolts ∧
        boltOf t core bn = some b ∧ b.block = z.block ∧ b.grid = z.bolt.grid ∧ b.points = z.bolt.points ∧ (NMap.get? t.grids gn).map Grid.running = some (g.running + 1) ∧
        (b.slots.Nodup → ∀ i k sk, NMap.get? z.skeins i = some sk → b.slots[i]? = some k →
          ∃ p, skeinOf t core k = some p ∧ p = { sk with bolt := bn, born := p.born, run := .stopped, evicted := false, spilled := p.spilled }))) ∧
  (∀ (die gn core bn : Nat) (s v : State) (z : SavedBolt) (b : Bolt) (r : Areas), let l := launchOf s core bn
    let sks := boltSkeins s core bn
    let sound := r.2 = none ∧ privIntact r l = true
    s.savedBolts.filter (fun w => decide (w.grid = gn) && decide (w.into.map (fun c => dieOf c.1) = some die)) = [z] → z.into = some (core, bn) → boltOf s core bn = some b →
    (NMap.getD s.dies die {}).lastTurn = some (s.clock / 8) → (∀ p ∈ s.plans, p.2.declared = [] ∧ p.2.laps = []) → (NMap.keys (coreOf s core).skeins).Nodup →
    readAreas s (.context b.grid b.block) core l.ctx (ctxAreaOf l b.block) (restoreRegions s core l b sks) = (some r, v) →
    ∃ t, exec (.contextRestore die gn) s = .next t ∧ t.mem = s.mem ∧ z ∉ t.savedBolts ∧
      (¬sound → ∀ k, b.slots.head? = some k → k ∈ NMap.keys sks → (boltOf t core bn).bind Bolt.stop = some .park ∧ ((skeinOf t core k).bind Skein.fatal).isSome = true) ∧
      (sound →
        (∀ e ∈ sks, let at_ := 0x200000 + e.2.index * (65536 * (1 + cdiv l.backing 16))
          ∃ k, skeinOf t core e.1 = some k ∧
            k = { e.2 with kregs := k.kregs, preds := k.preds, lk := k.lk, vregs := k.vregs, spilled := k.spilled, run := if e.2.exited = allLanes then .exited else .running, mat := k.mat,
                           paths := e.2.paths.map (fun p => (p.1, { p.2 with wait := none })) } ∧
            RegsFrom r at_ (fun g => ∃ p ∈ e.2.paths, p.2.win.base / 8 ≤ g ∧ g < p.2.win.base / 8 + p.2.win.size / 8) k ∧
            ∀ g, g ∈ k.spilled ↔ g < topOf e.2 / 8 ∧ ∀ p ∈ e.2.paths, g < p.2.win.base / 8 ∨ p.2.win.base / 8 + p.2.win.size / 8 ≤ g) ∧
        AccsFrom t core b r ∧ TilesFrom s t core l r)) ∧
  (∀ (die src bn dst : Nat) (s : State) (b : Bolt), let u := endMigration s die
    let d := NMap.getD u.dies die {}
    let v : State := { u with dies := NMap.insert u.dies die { d with migTurn := some u.clock } }
    u.clock % 65536 = 0 → d.migTurn ≠ some u.clock → u.dev.migcfg.getLsbD 0 = true → d.migration = none → d.move = none → hotCore v die = some src → oldestBolt v src = some (bn, b) →
    boltOf v src bn = some b → b.started + migResidency v b ≤ v.clock → coolCore v die src bn b = some dst →
    ∃ t, exec (.thermalMigration die) s = .next t ∧ t.mem = s.mem ∧ (NMap.getD t.dies die {}).migration = some (src, bn, dst) ∧
      boltOf t src bn = some { b with dest := some dst, stop := some .save, release := none, written := none }) ∧
  (∀ (core bolt : Nat) (s : State) (b : Bolt) (g : Grid) (w : List Nat), boltOf s core bolt = some b → NMap.get? s.grids b.grid = some g → b.release = some w → waitsDone s .dev w = true →
    let sent := agentBusy s (.context b.grid b.block) = false ∧ ∀ k ∈ b.slots, agentBusy s (.pool core k) = false ∧ agentBusy s (.control core k) = false
    (∀ k tr, let l := launchOf s core bolt
      b.stop = some k → k ≠ .host → stopReached s core bolt k = true → b.written = none → ContextMapped s core bolt b l tr →
      ∃ t c, exec (if k = .park then .boltPark core bolt else .boltStop core bolt) s = .next t ∧ t.mem = s.mem ∧ boltOf t core bolt = some c ∧ (c.written.map Prod.snd) = some none ∧
        ContextPosted s t core bolt b l tr) ∧
    (∀ w, b.stop = some .park → stopReached s core bolt .park = true → b.written = some w → sent →
      ∃ t g', exec (.boltPark core bolt) s = .next t ∧ boltOf t core bolt = none ∧ NMap.get? t.grids b.grid = some g' ∧ t.mem = s.mem ∧
        g' = { g with running := g.running - 1, failed := true, lastEnd := some s.clock }) ∧
    (b.stop = some .host → stopReached s core bolt .host = true →
      ∃ t g', exec (.boltStop core bolt) s = .next t ∧ boltOf t core bolt = none ∧ t.mem = s.mem ∧ NMap.get? t.grids b.grid = some g' ∧
        g' = { g with running := g.running - 1, boltsStopped := g.boltsStopped + 1 }) ∧
    (∀ k priv, b.stop = some k → k = .save ∨ k = .planHalt → stopReached s core bolt k = true → b.written = some (priv, none) → sent →
      ∃ t, exec (.boltStop core bolt) s = .next t ∧ boltOf t core bolt = none ∧ t.mem = s.mem ∧ (NMap.get? t.grids b.grid).map Grid.running = some (g.running - 1) ∧
        (k = .planHalt → t.savedBolts = s.savedBolts) ∧
        (k = .save → ∃ z, t.savedBolts = s.savedBolts ++ [z] ∧ z.grid = b.grid ∧ z.block = b.block ∧ z.priv = priv ∧ z.into = none))) ∧
  (∀ (q seq n : Nat) (s : State) (g : Grid), devReady s = true →
    ∃ t, exec (.stopreqWrite q seq) s = .next t ∧ t.dev.stopReq = BitVec.ofNat 64 (q % 65536 * 2 ^ 48 + seq % 2 ^ 48) ∧
      ((∀ e ∈ s.plans, e.2.queue = q → e.2.seq = seq → e.2.state = .ended) →
        s.grids.find? (fun e => decide (e.2.queue = q) && decide (e.2.seq = seq) && e.2.plan.isNone && !e.2.done) = some (n, g) →
        ∀ h, NMap.get? t.grids n = some h → h.stopped = true ∧ h.todo = [] ∧ h.saved = []))

/-- R203 to R207: the register pool of a core: its arbiter grants the head request that the free granules cover, and makes no spill that is left; it
orders the spills of the head request's own skein, lowest position first, where they do not; it breaks a deadlock by spilling the youngest bolt's
highest slot first, positions below the windows and then the windows, and a skein that loses a window position is evicted and asks for it
again; it takes a timeout, and spills and refills granules: a spill writes the granule's registers to the slices, and frees it once its writes are
accepted. What is below a window, and when a deadlock is at hand, are log entries 82 and 105; the order of these steps is log entry 73. -/
def Obligations.RegisterPool : Prop :=
  ∀ (core : Nat) (s : State), let c := coreOf s core
    let same := fun (t : State) => t = { s with cores := t.cores } ∧ ∀ n, n ≠ core → coreOf t n = coreOf s n
    -- granules below every window of a skein, and the other resident ones below its top, lowest first
    let lowest := fun (sk : Skein) low => (∀ w ∈ activeWins sk, low ≤ w.base) ∧ ((activeWins sk = [] ∧ low = topOf sk) ∨ ∃ w ∈ activeWins sk, w.base = low)
    let below := fun (sk : Skein) low => (List.range (low / 8)).filter (fun g => g ∉ sk.spilled)
    let within := fun (sk : Skein) low => (List.range (topOf sk / 8)).filter (fun g => decide (g ∉ sk.spilled) && decide (low / 8 ≤ g))
    (∀ r, headRequest c = some r →
      (∀ sk low, (∀ q ∈ c.regReqs, q.granted = true → q.fills = []) → skeinOf s core r.slot = some sk → (r.path < 2 → (NMap.get? sk.paths r.path).isSome = true) → lowest sk low →
        (requestNeed c r ≤ grantable c → (NMap.keys c.skeins).Nodup →
          let back := fun k => ∃ v w, skeinOf s core k = some v ∧ v.evicted = true ∧ lowest v w ∧ ∀ g ∈ v.spilled, 8 * g + 8 ≤ w
          ∃ t, exec (.registerRequestGrant core) s = .next t ∧ same t ∧ (coreOf t core).spillQ = [] ∧ (coreOf t core).spillSent = false ∧
            ((∀ k, ¬back k) →
              coreOf t core = { c with spillQ := [], spillSent := false, regReqs := mapIf (fun q => decide (q = r)) (fun q => { q with granted := true }) c.regReqs }) ∧
            ∀ k v, skeinOf s core k = some v → back k → skeinOf t core k = some { v with evicted := false } ∧ ∀ q ∈ (coreOf t core).regReqs, q.slot = k → q.path ≠ 2) ∧
        (grantable c < requestNeed c r → ∃ t, exec (.registerRequestGrant core) s = .next t ∧ same t ∧ coreOf t core = { c with
          spillQ := c.spillQ ++ (((below sk low).map (fun g => (r.slot, g))).filter (fun e => e ∉ c.spillQ)).take (requestNeed c r - grantable c - c.spillQ.length) })) ∧
      (∀ sk low (vs : List (Nat × Skein × Nat)), breakDue s core = true → (NMap.keys c.skeins).Nodup → (∀ e ∈ c.skeins, e.1 < 64) → skeinOf s core r.slot = some sk → lowest sk low →
        (∀ k v w, (k, v, w) ∈ vs → lowest v w) → vs.Nodup → (∀ k v, (∃ w, (k, v, w) ∈ vs) ↔ (k, v) ∈ c.skeins ∧ k ≠ r.slot ∧ v.run ≠ .ended) →
        vs.Pairwise (fun a b => b.2.1.born < a.2.1.born ∨ (a.2.1.born = b.2.1.born ∧ b.1 < a.1)) →
        let order := (below sk low).map (fun g => (r.slot, g)) ++ vs.flatMap (fun e => (below e.2.1 e.2.2 ++ within e.2.1 e.2.2).map (fun g => (e.1, g)))
        let ordered := c.spillQ ++ (order.filter (fun e => e ∉ c.spillQ)).take (requestNeed c r - grantable c - c.spillQ.length)
        ∃ t, exec (.registerDeadlockBreak core) s = .next t ∧ t.mem = s.mem ∧ (coreOf t core).regBreak = min (c.regBreak + 1) (2 ^ 32 - 1) ∧ (coreOf t core).spillQ = ordered ∧
          ∀ k v w, (k, v, w) ∈ vs →
            ((∃ g ∈ within v w, (k, g) ∈ ordered) → skeinOf t core k = some { v with evicted := true } ∧
              ∃ q ∈ (coreOf t core).regReqs, q.slot = k ∧ q.path = 2 ∧ q.granted = false ∧ ∀ g ∈ within v w, (k, g) ∈ ordered → g ∈ q.fills) ∧
            ((∀ g ∈ within v w, (k, g) ∉ ordered) → skeinOf t core k = some v)) ∧
      (65536 * 144 ≤ c.phase - r.phase → ∃ t, exec (.headRequestTimeout core) s = .next t ∧ same t ∧ coreOf t core = { c with headTimeout := some (r.slot, r.path, r.since) })) ∧
    (∀ slot g r sk, c.spillQ = (slot, g) :: r → skeinOf s core slot = some sk → 8 * g < topOf sk → g ∉ sk.spilled →
      (c.spillSent = true → agentBusy s (.pool core slot) = false → headRequest c = none →
        ∃ t, exec (.granuleSpillComplete core) s = .next t ∧ t.mem = s.mem ∧ (coreOf t core).regSpill = min (c.regSpill + 1) (2 ^ 48 - 1) ∧
          skeinOf t core slot = some { sk with spilled := sortedInsert g sk.spilled, vregs := sk.vregs.filter (fun e => decide (e.1 < 16 + 8 * g) || decide (16 + 8 * g + 8 ≤ e.1)) }) ∧
      (∀ v, c.spillSent = false → headRequest c = none → granulePending sk g = false → (∀ q ∈ s.reqs, q.who ≠ .agent (.pool core slot)) →
        virtWrite s (.pool core slot) (some core) (dieOf core) (partOf s core) (launchOf s core sk.bolt).ctx (backingBase s core sk + 4096 * g)
          ((List.range 8).flatMap (fun i => regImage (vget sk (16 + 8 * g + i)))) (lineFuel 4096) = (some none, v) →
        exec (.granuleSpillComplete core) s = .next (updCore v core (fun c => { c with spillSent := true })))) ∧
    (∀ k sk g bs v, c.regReqs = [] → grantable c ≠ 0 → c.skeins.find? (fun e => decide (e.2.spilled ≠ []) && decide (e.2.run ≠ .ended) && decide (e.2.run ≠ .exited)) = some (k, sk) →
      skeinOf s core k = some sk → sk.spilled.getLast? = some g →
      virtRead s (.pool core k) (some core) (dieOf core) (partOf s core) (launchOf s core sk.bolt).ctx (backingBase s core sk + 4096 * g) 4096 (lineFuel 4096) = (some (.ok bs), v) →
      ∃ t u, exec (.granuleRefill core) s = .next t ∧ t.mem = s.mem ∧ (coreOf t core).regFill = min (c.regFill + 1) (2 ^ 48 - 1) ∧ skeinOf t core k = some u ∧
        u = { sk with vregs := u.vregs, spilled := sk.spilled.filter (fun h => h ≠ g) } ∧
        ∀ key, vget u key = if 16 + 8 * g ≤ key ∧ key < 16 + 8 * g + 8 then regOfImage ((bs.drop (512 * (key - (16 + 8 * g)))).take 512) else vget sk key)

/-- `c` is the code that a value drains to: toward zero, and never an infinity from a finite value (R71). -/
def Drains (f : FmtCode) (v : FVal) (c : Nat) : Prop :=
  match f with
  | .wide w => c = roundFF w .rz v
  | .narrow n =>
    let w := narrowDecode n c
    let below := n.unsigned = true ∧ (v = .inf true ∨ (finiteVal v = true ∧ ratOf v < 0))
    let finite := fun k => k < 2 ^ n.k ∧ finiteVal (narrowDecode n k) = true
    c < 2 ^ n.k ∧ (v = .nan → w = .nan) ∧ (below → c = 0) ∧ (finiteVal w = true → ratOf w = 0 → c = 0) ∧
    (∀ neg, v = .inf neg → ¬below → if n.ext then w = .inf neg else finiteVal w = true ∧ ∀ k, finite k → if neg then ratOf w ≤ ratOf (narrowDecode n k) else ratOf (narrowDecode n k) ≤ ratOf w) ∧
    (finiteVal v = true → ¬below → finiteVal w = true ∧ |ratOf w| ≤ |ratOf v| ∧ 0 ≤ ratOf w * ratOf v ∧
      ∀ k, finite k → |ratOf (narrowDecode n k)| ≤ |ratOf v| → 0 ≤ ratOf (narrowDecode n k) * ratOf v → |ratOf (narrowDecode n k)| ≤ |ratOf w|)
  | _ => True
/-- R71, R74, R316 to R320, R323 to R326, R330: a base k-step adds its exact products, rounded, to every element of D, and, of an `.ad` instruction, its
adapter terms to the side buffer of every hit row; the `.last` terms of the hit rows follow; a replay identifier is worked off on the rows that
carry it; at retirement ACCZ clears D, ACCL loads it, ACCD drains it into its tile, and the instruction is complete; the adapter's entries are
read and its fills come. That a rounded sum keeps a zero's sign as R69 gives it is log entry 83; the order of the units of work is log entry 59. -/
def Obligations.MatrixEvents : Prop :=
  (∀ (core slot : Nat) (s : State) (sk : Skein) (m : MatOp), matReady s core slot = some (sk, m) →
    (∀ e ∈ (coreOf s core).skeins, quarterOf e.1 = quarterOf slot → e.1 ≠ slot → ∀ k n, matReady s core e.1 = some (k, n) → m.op < n.op ∨ unitOf s core k n = none) →
    (∀ e ∈ m.entries, e.rank ≤ 64) →
    let l := matLaunch s core sk
    let d := dOf s core sk m.kind
    let A := accOf s core d
    let K := kOf (widthOf s core l m.kind)
    let span := K / 8
    let X := aVal s core sk l m.kind
    let sum := fun (l : List FVal) => l.foldl (fAdd false) (.fin false 0 0)
    let val := fun (w : Word) => ffDecode .f32 w.toNat
    let plus := fun (w : Word) (t : FVal) => roundW (fAdd false (val w) (rounded t))
    let tag := fun i => NMap.getD A.tags i 0
    let hit := fun i => i < 64 ∧ tag i ≠ 0 ∧ tag i ∉ m.slots
    let entry := fun i e => m.entries.find? (fun e => decide (e.ident = tag i)) = some e
    -- elements of an entry's A matrix and B matrix, by row and column
    let aad := fun (layer : Nat) (e : AdEntry) k r => adElem (adChunks s core l.ctx m layer false e) e (k * e.rank + r)
    let bad := fun (layer : Nat) (e : AdEntry) r n => adElem (adChunks s core l.ctx m layer true e) e (r * (64 * e.nBlocks) + n)
    -- the terms of AdapterStep and AdapterLast
    let term := fun layer kap e i st r => sum ((List.range span).map (fun q => fMul (X i (st * span + q)) (aad layer e (kap * K + (st * span + q)) r)))
    let last := fun layer nu (e : AdEntry) (h : Nat → Word) j => fMul (ffDecode .f32 e.alpha.toNat) (sum ((List.range e.rank).map (fun r => fMul (val (h r)) (bad layer e r (64 * nu + j)))))
    let only := fun (t : State) (B : AccTile) (m' : Option MatOp) => t.mem = s.mem ∧ B = { A with elems := B.elems, side := B.side } ∧
      (∀ n, accOf t core n = if n = d then B else accOf s core n) ∧ (skeinOf t core slot).map Skein.mat = some m' ∧ (∀ n a, tileByte t n a = tileByte s n a)
    (hasSteps m.kind = true → m.steps < 8 → hitsReady s core sk m = true → (∃ t, exec (.baseKStep core slot) s = .next t) ∧
      ∃ t B, exec (.baseKStep core slot) s = .next t ∧ only t B (some { m with steps := m.steps + 1, replayBit := m.replayBit || (m.ad.isSome && decide (m.steps = 7) && !isLast m.kind) }) ∧
      (∀ i j, i < 64 → j < 64 → elemAt B.elems i j = plus (elemAt A.elems i j)
        (sum ((List.range span).map (fun q => fMul (X i (m.steps * span + q)) (bVal s core l m.kind (m.steps * span + q) j))))) ∧
      (m.ad = none → B.side = A.side) ∧
      ∀ layer kap nu, m.ad = some (layer, kap, nu) → ∀ i r, i < 64 → r < 64 →
        (∀ e, hit i → entry i e → r < e.rank → elemAt B.side i r = plus (elemAt A.side i r) (term layer kap e i m.steps r)) ∧
        ((¬hit i ∨ ∃ e, entry i e ∧ e.rank ≤ r) → elemAt B.side i r = elemAt A.side i r)) ∧
    (∀ layer kap nu, hasSteps m.kind = true → m.ad = some (layer, kap, nu) → 8 ≤ m.steps → m.replayBit = false → hitsReady s core sk m = true →
      (∃ t, exec (.hitLastTerms core slot) s = .next t) ∧ ∃ t B, exec (.hitLastTerms core slot) s = .next t ∧ only t B (some { m with replayBit := true }) ∧
      ∀ i j, i < 64 → j < 64 →
        (∀ e, isLast m.kind = true → hit i → entry i e → elemAt B.elems i j = plus (elemAt A.elems i j) (last layer nu e (elemAt A.side i) j) ∧ elemAt B.side i j = 0) ∧
        (isLast m.kind = false ∨ ¬hit i → elemAt B.elems i j = elemAt A.elems i j ∧ elemAt B.side i j = elemAt A.side i j)) ∧
    (∀ layer kap nu z n, let ready := fun w => w ≠ 0 ∧ (rowsOf A w = [] ∨ identReady s core l.ctx m K w = true)
      hasSteps m.kind = true → m.ad = some (layer, kap, nu) → 8 ≤ m.steps → m.replayBit = true → m.slots.length = 3 → m.slots[n]? = some z → ready z →
      (∀ k w, k ≠ n → m.slots[k]? = some w → ready w → w ∈ m.order ∧ z ∈ m.order.takeWhile (fun y => decide (y ≠ w))) →
      (∃ t, exec (.replayIdentifierWork core slot) s = .next t) ∧
      ∃ t B, exec (.replayIdentifierWork core slot) s = .next t ∧ only t B (some { m with slots := m.slots.set n 0 }) ∧
      (∀ i j, i < 64 → j < 64 → tag i ≠ z → elemAt B.elems i j = elemAt A.elems i j ∧ elemAt B.side i j = elemAt A.side i j) ∧
      ∀ i e, i < 64 → tag i = z → entry i e → ∃ h : Nat → Nat → Word, (∀ r, h 0 r = elemAt A.side i r) ∧
        (∀ st r, h (st + 1) r = if r < e.rank then plus (h st r) (term layer kap e i st r) else h st r) ∧
        ∀ j, j < 64 → elemAt B.elems i j = (if isLast m.kind then plus (elemAt A.elems i j) (last layer nu e (h 8) j) else elemAt A.elems i j) ∧
          elemAt B.side i j = if isLast m.kind then 0 else h 8 j) ∧
    (∀ n, m.kind = .accz n → (∃ t, exec (.matrixRetire core slot) s = .next t) ∧ ∃ t B, exec (.matrixRetire core slot) s = .next t ∧ t.mem = s.mem ∧ accOf t core d = B ∧
      B.elems = [] ∧ B.side = [] ∧ B.tags = [] ∧ (skeinOf t core slot).map Skein.mat = some none ∧ opOf t core slot m.op = none) ∧
    (∀ n a, m.kind = .accl n a → (∃ t, exec (.matrixRetire core slot) s = .next t) ∧ ∃ t, exec (.matrixRetire core slot) s = .next t ∧ t.mem = s.mem ∧
      (skeinOf t core slot).map Skein.mat = some none ∧ opOf t core slot m.op = none ∧ (accOf t core d).side = A.side ∧ (accOf t core d).tags = A.tags ∧
      (let e := tileOf s core a
       ∀ i j, i < 64 → j < 64 → elemAt (accOf t core d).elems i j = roundW (scaledAt (entryFmt l e) (tileBytesOf s core a (tileSize l e)) e.cols i j))) ∧
    (∀ D a fs, m.kind = .accd D a fs → (∃ t, exec (.matrixRetire core slot) s = .next t) ∧ ∃ (t : State) (code : Nat → Nat → Nat), exec (.matrixRetire core slot) s = .next t ∧ t.mem = s.mem ∧
      (skeinOf t core slot).map Skein.mat = some none ∧ opOf t core slot m.op = none ∧ (tileOf t core D).state = .ready ∧ (tileOf t core D).base = (tileOf s core D).base ∧
      (accOf t core d).elems = A.elems ∧ (accOf t core d).side = A.side ∧ (accOf t core d).tags = A.tags ∧
      (let F := launchSlot l fs
       (∀ i j, i < 64 → j < 64 → ∃ v, IsScaled (-F.2) (val (elemAt A.elems i j)) v ∧ Drains F.1 v (code i j)) ∧
       (fmtBits F.1 = 8 ∨ fmtBits F.1 = 16 ∨ fmtBits F.1 = 32 → ∀ n y, n < 4096 → y < fmtBits F.1 / 8 →
         (tileByte t core ((tileOf s core D).base * 128 + n * (fmtBits F.1 / 8) + y)).toNat = code (n / 64) (n % 64) / 256 ^ y % 256) ∧
       (fmtBits F.1 = 4 → ∀ n, n < 2048 → (tileByte t core ((tileOf s core D).base * 128 + n)).toNat = (code (n / 32) (n % 32 * 2) + 16 * code (n / 32) (n % 32 * 2 + 1)) % 256))) ∧
    (hasSteps m.kind = true → 8 ≤ m.steps → m.ad = none ∨ (m.replayBit = true ∧ ∀ z ∈ m.slots, z = 0) → (∃ t, exec (.matrixRetire core slot) s = .next t) ∧
      ∃ t, exec (.matrixRetire core slot) s = .next t ∧ t.mem = s.mem ∧ (accOf t core d).elems = A.elems ∧ (accOf t core d).side = A.side ∧ (accOf t core d).tags = A.tags ∧
      (skeinOf t core slot).map Skein.mat = some none ∧ opOf t core slot m.op = none) ∧
    (∀ dd a b fs z, m.kind = .mmac dd a b fs z → let F := launchSlot l fs
      ∀ i k, ∃ v q w, IsScaled (-F.2) (val (elemAt (accOf s core (accStore s core sk.bolt (a + k / 64))).elems i (k % 64))) v ∧ Drains F.1 v q ∧ IsScaled F.2 (fmtDecode F.1 q) w ∧ X i k = w)) ∧
  (∀ (core slot layer k n : Nat) (s : State) (sk : Skein) (m : MatOp), skeinOf s core slot = some sk → sk.mat = some m → m.ad = some (layer, k, n) → m.looked = false → m.fault = none →
    matRuns s core sk m = true → (∀ o ∈ sk.ops, ∀ z l, o.2.body ≠ .adpf (some z) l) →
    let ids := identsOf (accOf s core (dOf s core sk m.kind))
    (ids = [] → exec (.adapterEntriesRead core slot) s = .next (endAgent (setSkein s core slot { sk with mat := some { m with looked := true } }) (.adapter core slot))) ∧
    (∀ z r, ids = z :: r → (matLaunch s core sk).adTable = 0 → ∃ t, exec (.adapterEntriesRead core slot) s = .next t ∧ t.mem = s.mem ∧
      (skeinOf t core slot).bind Skein.mat = some { m with fault := some { code := 0x22, ident := z, layer := layer, va := 0 } })) ∧
  (∀ (core slot fill : Nat) (s v : State) (f : ChunkFill) (bs : List Byte), (coreOf s core).chunkFills.find? (fun f => decide (f.id = fill) && decide (f.slot = slot)) = some f →
    virtRead s (.chunk core fill) (some core) (dieOf core) (partOf s core) f.tag.ctx f.va (128 * f.lines) (f.lines + 1) = (some (.ok bs), v) →
    ∃ t, exec (.adapterChunkFill core slot fill) s = .next t ∧ t.mem = s.mem ∧ (coreOf t core).chunkFills = (coreOf s core).chunkFills.filter (fun g => g.id ≠ fill) ∧
      (∀ m, (skeinOf t core slot).bind Skein.mat = some m → m.op = f.op → fill ∉ m.fills))

/-- R6, R420, R422 to R425: the debug commands on the skein and the bolt that DBGSEL names; each clears DBGCMD when it has taken effect. A Halt is
pending until every skein has stopped; a Snapshot until its context has been written and accepted; a Reload until its lines have come; a Step until its skein
has stopped again. Where a pending command stands is log entry 64. -/
def Obligations.DebugEvents : Prop :=
  ∀ (s : State) (sk : Skein), selSkein s = some sk →
    let core := selCore s
    let slot := selSlot s
    let sks := boltSkeins s core sk.bolt
    let l := launchOf s core sk.bolt
    let ready := fun n => s.dev.dbgcmd = n ∧ dbgAllowed s n = true
    let each := fun (t : State) (p : RunState → Prop) (r : RunState) => ∀ k q, skeinOf s core k = some q → q.bolt = sk.bolt → p q.run → (skeinOf t core k).map Skein.run = some r
    let stops := fun (e : Nat × Skein) => reservedIssue s core e = false ∧ e.2.control = [] ∧ e.2.publish = none
    (ready 1 → (NMap.keys (coreOf s core).skeins).Pairwise (· < ·) →
      ((∀ e ∈ sks, e.2.run = .running → stops e) → ∃ t, exec .debugHalt s = .next t ∧ t.dev.dbgcmd = 0 ∧ t.mem = s.mem ∧ each t (fun r => r = .running) .halted) ∧
      ((∃ e ∈ sks, e.2.run = .running ∧ ¬stops e) → ∃ t, exec .debugHalt s = .next t ∧ t.dev.dbgcmd = 1 ∧ t.mem = s.mem)) ∧
    (ready 2 → ∃ t, exec .debugResume s = .next t ∧ t.dev.dbgcmd = 0 ∧ t.mem = s.mem ∧ each t (fun r => r = .halted ∨ r = .haltedBrk) .running) ∧
    (∀ b, ready 3 → stopReached s core sk.bolt .save = true → boltOf s core sk.bolt = some b →
      (∀ priv, b.written = some (priv, none) → agentBusy s (.context b.grid b.block) = false → (∀ k ∈ b.slots, agentBusy s (.pool core k) = false ∧ agentBusy s (.control core k) = false) →
        ∃ t, exec .debugSnapshot s = .next t ∧ t.dev.dbgcmd = 0 ∧ t.mem = s.mem ∧ boltOf t core sk.bolt = some { b with written := none, snapshot := true }) ∧
      (∀ tr, b.written = none → ContextMapped s core sk.bolt b l tr →
        ∃ t c, exec .debugSnapshot s = .next t ∧ t.dev.dbgcmd = 3 ∧ t.mem = s.mem ∧ boltOf t core sk.bolt = some c ∧ c.written.map Prod.snd = some none ∧ ContextPosted s t core sk.bolt b l tr)) ∧
    (∀ b r v, let grans := fun (k : Skein) => (List.range (topOf k / 8)).filter (fun g => g ∉ k.spilled)
      ready 4 → boltOf s core sk.bolt = some b → (sks.map Prod.fst).Nodup →
      readAreas s (.context b.grid b.block) core l.ctx (ctxAreaOf l b.block) (reloadRegions s core l b sks grans) = (some (r, none), v) →
      ∃ t, exec .debugReload s = .next t ∧ t.dev.dbgcmd = 0 ∧ t.mem = s.mem ∧ AccsFrom t core b (r, none) ∧ TilesFrom s t core l (r, none) ∧ ∀ e ∈ sks, let sect := sectionOffset l e.2.index
        ∃ k, skeinOf t core e.1 = some k ∧ k = { e.2 with kregs := k.kregs, preds := k.preds, lk := k.lk, vregs := k.vregs, spilled := k.spilled, faultInfo := k.faultInfo } ∧
          (∀ i, i < 64 → k.faultInfo.getLsbD i = ((leNat (areaAt (r, none) (sect + 0x800))).testBit i && !(decide (32 ≤ i) && decide (i ≤ 36)))) ∧
          RegsFrom (r, none) sect (fun g => 8 * g + 8 ≤ topOf e.2 ∧ g ∉ e.2.spilled) k) ∧
    (ready 5 → s.dev.dbgBegun = false → ∃ t, exec .debugStep s = .next t ∧ t.dev = { s.dev with dbgBegun := true } ∧ t.mem = s.mem ∧
      skeinOf t core slot = some { sk with run := .stepping, trap := none }) ∧
    (s.dev.dbgcmd = 5 → s.dev.dbgBegun = true → sk.run ≠ .stepping → exec .debugStep s = .next { s with dev := { s.dev with dbgcmd := 0, dbgBegun := false } }) ∧
    (∀ b, ready 6 → boltOf s core sk.bolt = some b → b.stop = none → ∃ t, exec .debugPark s = .next t ∧ t.dev.dbgcmd = 0 ∧ t.mem = s.mem ∧
      boltOf t core sk.bolt = some { b with stop := some .park, release := none, written := none } ∧ ((skeinOf t core slot).bind Skein.fatal).isSome = true)

/-! Commits, the pod, the host, power (spec/04, 05, 18, 19). -/

/-- R86, R117, R433, R442: a write of 1 to a commit bit waits for its boundary, and a second one merges with it; at the boundary the
shadow settings apply together, or the commit is refused and none applies. R84 gives what refuses a commit of the HBM4E slots.
When a commit is
judged is log entry 40, the phase of a frame log entry 5, what a switch of the adapter cache evicts log entries 41 and 84, and the clock of a core that leaves
a partition log entry 42. -/
def Obligations.Commits : Prop :=
  ∀ (s : State), let d := s.dev
    let code := fun (c : Channel) k => nibble (shadowWord c.shadow (k / 8) 0xFFFFFFFF) (k % 8)
    let bad := fun (c : Channel) => (∃ k, 1 ≤ k ∧ k < 128 ∧ 8 ≤ code c k ∧ code c k ≤ 14) ∨ ((Finset.Icc 1 127).filter (fun k => code c k = 15)).card < 16
    (devReady s = true →
      exec .chcommit s = .next { s with dev := { d with chCommit := some (d.chCommit.getD s.clock) } } ∧
      exec .fabcommit s = .next { s with dev := { d with fabCommit := some (d.fabCommit.getD s.clock) } } ∧
      exec .ualcommit s = .next { s with dev := { d with ualCommit := some (d.ualCommit.getD s.clock) } } ∧
      exec .partcommit s = .next { s with dev := { d with partCommit := some (d.partCommit.getD s.clock) } }) ∧
    (∀ t, d.chCommit = some t →
      (hbmFrame s.clock ≤ hbmFrame t → exec .channelSlotCommitApply s = .next s) ∧
      (hbmFrame t < hbmFrame s.clock → (∃ e ∈ s.channels, bad e.2) →
        exec .channelSlotCommitApply s = .next { s with dev := { d with chCommit := none, chRefused := true } }) ∧
      (hbmFrame t < hbmFrame s.clock → (∀ e ∈ s.channels, ¬bad e.2) → ∃ u, exec .channelSlotCommitApply s = .next u ∧
        u = { s with channels := u.channels, dev := { d with chCommit := none } } ∧
        ∀ n, NMap.get? u.channels n = (NMap.get? s.channels n).map (fun c => { c with slots := c.shadow }))) ∧
    (∀ t, d.fabCommit = some t →
      (s.clock / 256 ≤ t / 256 → exec .fabricCommitApply s = .next s) ∧
      (t / 256 < s.clock / 256 → fabricBad s = true → exec .fabricCommitApply s = .next { s with dev := { d with fabCommit := none, fabRefused := true } }) ∧
      (t / 256 < s.clock / 256 → fabricBad s = false → ∃ u, exec .fabricCommitApply s = .next u ∧ u.mem = s.mem ∧ u.cores = s.cores ∧
        u.dev = { d with
          fabCommit := none, slown := { d.slown with now := d.slown.next }, slqres := { d.slqres with now := d.slqres.next }
          slway := { d.slway with now := d.slway.next }, adpcfg := { d.adpcfg with now := d.adpcfg.next }, dlown := d.dlownNext } ∧
        (d.adpcfg.now.getLsbD 0 = d.adpcfg.next.getLsbD 0 → u = { s with dev := u.dev }) ∧
        (d.adpcfg.now.getLsbD 0 ≠ d.adpcfg.next.getLsbD 0 → u.adCache = [] ∧
          ∀ n k l, NMap.get? (sliceOf u n).lines k = some l → k % 16 < generalWays u (n / 16)))) ∧
    -- the ports stand at a frame boundary together; one that is down or failed runs no frames
    (atPortFrame s = true ↔ ∀ e ∈ s.ports, e.2.up = true → e.2.failed = false → e.2.slotCount % 64 = 0) ∧
    ((d.ualCommit = none ∨ atPortFrame s = false) → exec .ualinkCommitApply s = .next s) ∧
    (∀ t, d.ualCommit = some t → atPortFrame s = true →
      let d' : Device := if ualinkBad s then { d with ualCommit := none, ualRefused := true }
        else { d with ualCommit := none, ualvcown := { d.ualvcown with now := d.ualvcown.next }, ualslot := d.ualslotNext }
      exec .ualinkCommitApply s = .next { s with dev := d' }) ∧
    (∀ t, d.partCommit = some t →
      (s.clock / 65536 ≤ t / 65536 → exec .partitionCommitApply s = .next s) ∧
      (t / 65536 < s.clock / 65536 → partitionBad s = true →
        exec .partitionCommitApply s = .next { s with dev := { d with partCommit := none, partRefused := true } }) ∧
      (t / 65536 < s.clock / 65536 → partitionBad s = false → ∃ u, exec .partitionCommitApply s = .next u ∧
        u = { s with cores := u.cores, dev := { d with partCommit := none, partClk := d.partClkNext, partCore := d.partCoreNext } } ∧
        ∀ c, coreOf u c = if c < 192 then
          { coreOf s c with clockN := clockAfter s (holding d.partClk d.partCore c) (holding d.partClkNext d.partCoreNext c) c } else coreOf s c))

/-- What is left of a waiting write once the slice has taken the line at its front. -/
def restOf (w : InboundWrite) : Option InboundWrite :=
  let n := 128 - w.pa % 128
  if w.bytes.length ≤ n then none else some { w with pa := w.pa + n, bytes := w.bytes.drop n, sent := false }
/-- The request of the line at the front of a waiting write. -/
def PortWrites (w : InboundWrite) (a : Agent) (r : Req) : Prop :=
  let bs := w.bytes.take (128 - w.pa % 128)
  r.kind = .write (maskBytes (w.pa % 128) bs.length) (lineOf (w.pa % 128) bs) ∧ r.line = w.pa / 128 ∧ r.who = .agent a ∧ r.rpoison = if w.ep then 15 else 0
/-- Some of the bytes that an agent has read carry poison. -/
def SickHand (s : State) (ag : Agent) (pa n : Nat) : Prop :=
  ∃ j ln, j < n ∧ s.lines.find? (fun l => decide (l.agent = ag) && decide (l.line = (pa + j) / 128)) = some ln ∧ ln.poison.getLsbD ((pa + j) % 128 / 32) = true
/-- R248, R249, R430 to R433, R437, R438: keys of a UALink port are agreed, rolled over and retired; a slot sends a flit of the replay buffer
again or seals a new one; a flit received acknowledges flits sent and delivers what it carries, or is refused: the later flits of its channel then
wait for its next send, and its fourth refusal fails the port; a port's change of state raises vector 2; writes, reads and atomics of the pod are performed at
their home slices, and the answer leaves on a port. How agreements, flits and inbound traffic are taken apart is log entries 48 to 50. -/
def Obligations.UALink : Prop :=
  ∀ (x : Nat) (s : State), let p := portRec s x
    let calm := fun (t : State) => t.mem = s.mem ∧ t.cores = s.cores ∧ t.dev = s.dev
    (devReady s = true → exec (.ualctlRoll x) s = .next (setPort s x { p with roll := true, waiting := decide (2 ≤ p.keys.length) })) ∧
    (∀ ok, p.up = true → p.keys = [] → ∃ t, exec (.keyAgreementComplete x ok) s = .next t ∧ calm t ∧
      (portRec t x).keys = (if ok then [⟨false, 0⟩] else []) ∧ (portRec t x).failed = !ok ∧ (ok = true → (portRec t x).rxKeys = [false]) ∧
      (ok = false → (portRec t x).agreementFailed = true)) ∧
    (∀ ok k, p.up = true → p.keys = [k] → p.roll = true → exec (.keyAgreementComplete x ok) s = .next (setPort s x (
      if ok then { p with keys := [k, ⟨!k.epoch, 0⟩], roll := false } else { p with agreementFailed := true, roll := false }))) ∧
    (∀ old new r, p.keys = old :: new :: r →
      ((∃ u ∈ p.unacked, u.epoch = old.epoch) → exec (.keyRetire x) s = .next s) ∧
      ((∀ u ∈ p.unacked, u.epoch ≠ old.epoch) → exec (.keyRetire x) s = .next (setPort s x
        { p with keys := new :: r, waiting := false, txQueue := { dest := 0, vc := 0, msg := .retireKey } :: p.txQueue }))) ∧
    (∀ up, devReady s = true → p.up ≠ up → ∃ t, exec (.ualinkPortChange x up) s = .next t ∧ calm t ∧ t.msix = s.msix ++ [2] ∧ (portRec t x).up = up ∧
      (up = true → (portRec t x).keys = [] ∧ (portRec t x).rxKeys = [] ∧ (portRec t x).failed = false)) ∧
    (let taken : Device :=
        if s.dev.ualCommit = none ∨ atPortFrame s = false then s.dev
        else if ualinkBad s = true then { s.dev with ualCommit := none, ualRefused := true }
        else { s.dev with ualCommit := none, ualvcown := { s.dev.ualvcown with now := s.dev.ualvcown.next }, ualslot := s.dev.ualslotNext }
      let v : State := { s with dev := taken }
      usablePort p = true → s.dev.trip = false → let pick := (slotSources v p.slotCount).findSome? (pickFlit v x p)
      (∃ t, exec (.ualinkPortSlot x) s = .next t) ∧
      (pick = none → exec (.ualinkPortSlot x) s = .next (setPort v x { p with slotCount := p.slotCount + 1 })) ∧
      (∀ i u, pick = some (.again i) → p.unacked[i]? = some u → u.again = true ∧ exec (.ualinkPortSlot x) s = .next (setPort v x
        { p with slotCount := p.slotCount + 1, resends := min (p.resends + 1) (2 ^ 32 - 1), unacked := p.unacked.set i { u with again := false } })) ∧
      (∀ f k r, pick = some (.fresh f) → p.keys = r ++ [k] → f ∈ p.txQueue ∧ k.sealed < 2 ^ 48 ∧ ∃ t, exec (.ualinkPortSlot x) s = .next (setPort v x t) ∧
        t = { p with slotCount := p.slotCount + 1, keys := r ++ [{ k with sealed := k.sealed + 1 }], txQueue := p.txQueue.erase f
                     unacked := p.unacked ++ [⟨{ f with seq := k.sealed }, k.epoch, 0, false⟩], roll := t.roll, waiting := t.waiting } ∧
        (k.sealed + 1 = 2 ^ 47 → t.roll = true))) ∧
    (∀ (epoch : Bool) (acked : Nat) (flit : UalFlit), devReady s = true → usablePort p = true → p.keys ≠ [] → rxReady p.rxLine [] = ([], p.rxLine) →
      let v := setPort s x { p with unacked := p.unacked.drop acked }
      let mine := fun (i : RxItem) => i.epoch = epoch ∧ i.flit.seq = flit.seq
      let chan := fun (i : RxItem) => i.flit.src = flit.src ∧ i.flit.vc = flit.vc
      let new := ∀ i ∈ p.rxLine, ¬mine i
      (epoch ∈ p.rxKeys → new → (∀ i ∈ p.rxLine, ¬chan i) →
        (∀ pa bs, flit.msg = .write pa bs → exec (.ualinkFlitReceive x true epoch acked none flit) s =
          .next (pokeAll { v with podBuf := s.podBuf ++ [{ num := s.nextId, pa := pa, bytes := bs, relaxed := false, vc := flit.vc, src := flit.src, start := pa }], nextId := s.nextId + 1 })) ∧
        (∀ pa len, flit.msg = .read pa len → exec (.ualinkFlitReceive x true epoch acked none flit) s =
          .next (pokeAll { v with podReads := s.podReads ++ [{ num := s.nextId, msg := .read pa len, vc := flit.vc, src := flit.src }], nextId := s.nextId + 1 })) ∧
        (∀ i u, flit.msg ≠ .retireKey → (p.unacked.drop acked)[i]? = some u → u.fails < 3 → exec (.ualinkFlitReceive x true epoch acked (some i) flit) s =
          .next (pokeAll (deliverFlit (setPort s x { p with unacked := (p.unacked.drop acked).set i { u with fails := u.fails + 1, again := true } }) flit))) ∧
        (flit.msg = .retireKey → exec (.ualinkFlitReceive x true epoch acked none flit) s =
          .next (pokeAll (setPort s x { p with rxKeys := [epoch], unacked := p.unacked.drop acked })))) ∧
      (epoch ∉ p.rxKeys → p.rxKeys.length < 2 → new → (∀ i ∈ p.rxLine, ¬chan i) → flit.msg ≠ .retireKey → exec (.ualinkFlitReceive x true epoch acked none flit) s =
        .next (pokeAll (deliverFlit (setPort s x { p with rxKeys := p.rxKeys ++ [epoch], unacked := p.unacked.drop acked }) flit))) ∧
      -- a good flit behind a refused one of its channel waits, and is delivered after that one has come
      (epoch ∈ p.rxKeys → new → (∃ i ∈ p.rxLine, chan i ∧ i.came = false) → flit.msg ≠ .retireKey → exec (.ualinkFlitReceive x true epoch acked none flit) s =
        .next (pokeAll (setPort s x { p with rxLine := p.rxLine ++ [{ epoch := epoch, flit := flit, came := true, fails := 0 }], unacked := p.unacked.drop acked }))) ∧
      (∀ i l, epoch ∈ p.rxKeys → p.rxLine = i :: l → mine i → (∀ k ∈ l, k.came = true) → flit.msg ≠ .retireKey → exec (.ualinkFlitReceive x true epoch acked none flit) s =
        .next (pokeAll ((flit :: l.map RxItem.flit).foldl deliverFlit (setPort s x { p with rxLine := [], unacked := p.unacked.drop acked })))) ∧
      -- refusals are counted for each flit
      (∀ nacked, (∀ i ∈ p.rxLine, i.fails < 4) →
        (new → exec (.ualinkFlitReceive x false epoch acked nacked flit) s =
          .next (setPort s x { p with rxLine := p.rxLine ++ [{ epoch := epoch, flit := flit, came := false, fails := 1 }], tagFails := min (p.tagFails + 1) (2 ^ 32 - 1) })) ∧
        (∀ n i, p.rxLine[n]? = some i → mine i → (∀ k ∈ p.rxLine.take n, ¬mine k) →
          (i.fails < 3 → exec (.ualinkFlitReceive x false epoch acked nacked flit) s =
            .next (setPort s x { p with rxLine := p.rxLine.set n { i with fails := i.fails + 1 }, tagFails := min (p.tagFails + 1) (2 ^ 32 - 1) })) ∧
          (i.fails = 3 → ∃ t, exec (.ualinkFlitReceive x false epoch acked nacked flit) s = .next t ∧ calm t ∧ (portRec t x).failed = true ∧ t.msix = s.msix ++ [2])))) ∧
    (∀ (vc : Nat) (w : InboundWrite) (rest : List InboundWrite), s.dev.trip = false → s.podBuf = w :: rest → w.vc = vc → (∀ r ∈ s.podReads, r.vc = vc → w.num ≤ r.num) →
      (reachable s w.pa w.bytes.length = false → exec (.ualinkInboundWrite vc) s = .next (bufferMoved { s with podBuf := rest })) ∧
      (reachable s w.pa w.bytes.length = true →
        (w.sent = false → ∃ u r, exec (.ualinkInboundWrite vc) s = .next (bufferMoved u) ∧ u = { s with reqs := s.reqs ++ [r], nextId := u.nextId, podBuf := { w with sent := true } :: rest } ∧
          PortWrites w (.pod w.num) r) ∧
        (∀ v, w.sent = true → agentBusy s (.pod w.num) = false → restOf w = some v → exec (.ualinkInboundWrite vc) s = .next (bufferMoved { s with podBuf := v :: rest })) ∧
        (w.sent = true → agentBusy s (.pod w.num) = false → restOf w = none → exec (.ualinkInboundWrite vc) s =
          .next (podSend (bufferMoved { s with podBuf := rest }) { dest := w.src, vc := w.vc, msg := .reply w.start [] false })))) ∧
    (∀ (vc : Nat) (r : InboundRead), s.dev.trip = false → s.podReads.find? (fun r => decide (r.vc = vc)) = some r → (∀ w ∈ s.podBuf, w.vc = vc → r.num ≤ w.num) →
      let left := s.podReads.filter (fun q => decide (q.num ≠ r.num))
      let answered := fun (u : State) (pa : Nat) (bs : List Byte) (sick : Bool) => exec (.ualinkInboundReadAtomic vc) s = .next ((List.range (max 1 (cdiv bs.length 512))).foldl
        (fun v i => podSend v { dest := r.src, vc := r.vc, msg := .reply (pa + 512 * i) ((bs.drop (512 * i)).take 512) sick }) { endAgent u (.pod r.num) with podReads := left })
      (∀ pa len, r.msg = .read pa len →
        (∀ bs, reachable s pa len = true → InHand s (.pod r.num) pa len bs → ∃ sick, answered s pa bs sick ∧ (sick = true ↔ SickHand s (.pod r.num) pa len)) ∧
        (reachable s pa len = false → ∃ u bs, u = { s with freeCtr := u.freeCtr } ∧ bs.length = len ∧ answered u pa bs false)) ∧
      (∀ pa ty (a : AtomReq), (∃ op b, r.msg = .atomic pa op ty b ∧ a = podAtom pa false op ty b 0) ∨ (∃ b c, r.msg = .compareSwap pa ty b c ∧ a = podAtom pa true .add ty b c) →
        let n := itWidth ty / 8
        reachable s pa n = true →
        ((∀ l ∈ s.lines, l.agent ≠ .pod r.num) → (∀ q ∈ s.reqs, q.who ≠ .agent (.pod r.num)) →
          ∃ t q, exec (.ualinkInboundReadAtomic vc) s = .next t ∧ t = { s with reqs := s.reqs ++ [q], nextId := t.nextId } ∧ q.kind = .atomic a ∧ q.line = pa / 128 ∧ q.who = .agent (.pod r.num)) ∧
        -- the old value, in eight bytes, and the stamp
        (∀ ln, s.lines.find? (fun l => decide (l.agent = .pod r.num) && decide (l.line = pa / 128)) = some ln →
          answered s pa (lineBytes ln.data (pa % 128) n ++ List.replicate (8 - n) 0 ++ leBytes 8 ln.stamp.toNat) (decide (ln.poison ≠ 0)))))

/-- The bits of a plain register of the device register block that a write sets (04 Table 2, 05 Tables 2 and 3, 16 Table 2, 17 Tables 4 and 10,
18 Table 4, 19 Table 2): the register of aligned 8 bytes at offset `o`, its bit `i`. -/
def Writable (s : State) (o i : Nat) : Prop :=
  i < 64 ∧ (((o = 0x1000 ∨ o = 0x1100 ∨ o = 0xA730) ∧ 16 ≤ i ∧ i ≤ 51) ∨ (o = 0x1108 ∧ (i = 0 ∨ (4 ≤ i ∧ i ≤ 23))) ∨
    ((o = 0x1200 ∨ o = 0x1220) ∧ (i ≤ 4 ∨ (12 ≤ i ∧ i ≤ 51))) ∨ ((o = 0x1210 ∨ o = 0x1230 ∨ o = 0x8048) ∧ i ≤ 31) ∨ (o = 0x1240 ∧ i ≤ 1) ∨ (o = 0x1260 ∧ 18 ≤ i ∧ i ≤ 31) ∨
    (∃ n, n < 8 ∧ ((o = 0x1300 + 32 * n ∧ i ≤ 56) ∨ (o = 0x1308 + 32 * n ∧ i ≤ 43) ∨ (o = 0x1310 + 32 * n ∧ (i = 0 ∨ 32 ≤ i)))) ∨
    (∃ n, n < 4 ∧ ((o = 0x1400 + 16 * n ∧ (i = 0 ∨ (7 ≤ i ∧ i ≤ 51))) ∨ (o = 0x1408 + 16 * n ∧ i ≤ 31))) ∨
    (∃ c w, c < 384 ∧ w < 8 ∧ chPresent s c = true ∧ o = 0x2000 + 64 * c + 8 * w) ∨ o = 0x8040 ∨ o = 0x8050 ∨ o = 0xA400 ∨ (o = 0x8058 ∧ (i = 0 ∨ 32 ≤ i)) ∨
    (∃ x w, x < 16 ∧ x / 4 ≠ x % 4 ∧ w < 16 ∧ o = 0x8400 + 128 * x + 8 * w) ∨ (o = 0xA000 ∧ i = 0) ∨
    (∃ p, p < 8 ∧ ((o = 0xA100 + 64 * p ∧ (i = 0 ∨ (8 ≤ i ∧ i ≤ 15))) ∨ ∃ w, 1 ≤ w ∧ w ≤ 3 ∧ o = 0xA100 + 64 * p + 8 * w)) ∨
    (∃ w, w < 4 ∧ (o = 0xA408 + 8 * w ∨ o = 0xA708 + 8 * w)) ∨ (o = 0xA600 ∧ 17 ≤ i ∧ i ≤ 51) ∨ (o = 0xC030 ∧ (i = 0 ∨ (8 ≤ i ∧ i ≤ 51))))
/-- R5, R6, R108, R250, R427, R428, R440, R446, R450: the host's writes wait in the port's buffer, in order unless relaxed, and are performed line by line at the
slices; its reads and atomics are answered; a register read gives the register, before Ready DEVSTAT, FWSTAT, RATED and the capacity registers alone,
and after a trip DEVSTAT alone is answered; a register write sets the writable bits that it covers and no others, and no other register, or starts what it
names; a snoop is counted; an attestation report is written, the nonce, FWSTAT, RATED and the capacity registers in it, and vector 3 raised. How the port takes
its requests apart is log entry 47, and the report's layout is log entry 45. -/
def Obligations.HostEvents : Prop :=
  ∀ (s : State), let d := s.dev
    (∀ pa bytes relaxed ep, bytes ≠ [] → devReady s = true → bytes.length ≤ 512 → reachable s pa bytes.length = true → exec (.hostMemoryWrite pa bytes ⟨relaxed, ep⟩) s =
      .next { s with hostBuf := s.hostBuf ++ [{ num := s.nextId, pa := pa, bytes := bytes, relaxed := relaxed, vc := 0, ep := ep }], nextId := s.nextId + 1 }) ∧
    (∀ i w relaxed ep, s.hostBuf[i]? = some w →
      (w.relaxed = false → (∃ v ∈ s.hostBuf.take i, v.relaxed = false) → exec (.hostMemoryWrite i [] ⟨relaxed, ep⟩) s = .next s) ∧
      ((w.relaxed = true ∨ ∀ v ∈ s.hostBuf.take i, v.relaxed = true) →
        (w.sent = false → isMain w.pa = true → regionPresent s w.pa = true → ∃ u r, exec (.hostMemoryWrite i [] ⟨relaxed, ep⟩) s = .next (bufferMoved u) ∧
          u = { s with reqs := s.reqs ++ [r], nextId := u.nextId, hostBuf := s.hostBuf.set i { w with sent := true } } ∧ PortWrites w (.host w.num) r) ∧
        (w.sent = true → agentBusy s (.host w.num) = false → exec (.hostMemoryWrite i [] ⟨relaxed, ep⟩) s = .next (bufferMoved { s with
          hostBuf := match restOf w with | none => s.hostBuf.eraseIdx i | some v => s.hostBuf.set i v })))) ∧
    (∀ pa off len, regionOf pa = .regs off → 0 < len → let o := off / 8 * 8
      let early := o = 0xC000 ∨ o = 0xA740 ∨ o = 0xA308 ∨ o = 0xC010 ∨ o = 0xC018 ∨ o = 0xC020 ∨ o = 0xC028
      let value := if d.phase = .ready ∨ early then regValue s o else 0
      (d.trip = true → o ≠ 0xC000 → exec (.hostMemoryRead pa len) s = .next s) ∧
      (d.trip = false ∨ o = 0xC000 → exec (.hostMemoryRead pa len) s = .next { s with hostReplies := s.hostReplies ++
        [(if (len = 4 ∨ len = 8) ∧ off % len = 0 then leBytes len (value / 2 ^ (8 * (off % 8))) else [], false)] })) ∧
    (∀ pa len, 0 < len → (∀ off, regionOf pa ≠ .regs off) →
      (devReady s = true ∧ len ≤ 512 ∧ reachable s pa len = true → (∀ l ∈ s.lines, l.agent ≠ .host s.nextId) → ∃ t, exec (.hostMemoryRead pa len) s = .next t ∧ t.mem = s.mem ∧ t.cores = s.cores ∧
        t.hostReplies = s.hostReplies ∧ t.hostReads = s.hostReads ++ [{ num := s.nextId, pa := pa, len := len, atomic := none }] ∧
        ∀ j, j < len → behindSlices (pa + j) = true → ∃ r ∈ t.reqs, r.who = .agent (.host s.nextId) ∧ r.line = (pa + j) / 128 ∧ ∃ m, r.kind = .read m) ∧
      (d.trip = true → exec (.hostMemoryRead pa len) s = .next s) ∧
      (d.trip = false → ¬(devReady s = true ∧ len ≤ 512 ∧ reachable s pa len = true) → exec (.hostMemoryRead pa len) s = .next { s with hostReplies := s.hostReplies ++ [([], false)] })) ∧
    (∀ i h, s.hostReads[i]? = some h →
      let answered := fun (x : List Byte × Bool) => exec (.hostMemoryRead i 0) s = .next { endAgent s (.host h.num) with hostReads := s.hostReads.eraseIdx i, hostReplies := s.hostReplies ++ [x] }
      (∀ bs, h.atomic = none → InHand s (.host h.num) h.pa h.len bs → ∃ sick, answered (bs, sick) ∧ (sick = true ↔ SickHand s (.host h.num) h.pa h.len)) ∧
      (∀ a ln, h.atomic = some a → s.lines.find? (fun l => decide (l.agent = .host h.num) && decide (l.line = h.pa / 128)) = some ln →
        answered (lineBytes ln.data a.off (itWidth a.ty / 8), decide (ln.poison ≠ 0)))) ∧
    (∀ pa op wide x y, let n := if wide then 8 else 4
      (devReady s = true → pa % n = 0 → reachable s pa n = true → ∃ t r, exec (.hostAtomic pa op wide x y) s = .next t ∧
        t = { s with reqs := s.reqs ++ [r], nextId := t.nextId, hostReads := s.hostReads ++ [{ num := s.nextId, pa := pa, len := n, atomic := some (hostAtom pa op wide x y) }] } ∧
        r.kind = .atomic (hostAtom pa op wide x y) ∧ r.line = pa / 128 ∧ r.who = .agent (.host s.nextId)) ∧
      (d.trip = true → exec (.hostAtomic pa op wide x y) s = .next s) ∧
      (d.trip = false → (devReady s = false ∨ pa % n ≠ 0 ∨ reachable s pa n = false) → exec (.hostAtomic pa op wide x y) s = .next { s with hostReplies := s.hostReplies ++ [([], false)] })) ∧
    (∀ off wide v, (devReady s = false → exec (.registerWrite off wide v) s = .next (pokeAll s)) ∧
      (∀ o, devReady s = true → (∃ i, Writable s o i) → off / 8 * 8 = o → off % (if wide then 8 else 4) = 0 →
        let covers := fun i => wide = true ∨ (off % 8 ≤ i / 8 ∧ i / 8 < off % 8 + 4)
        let given := fun i => v.getLsbD (i - 8 * (off % 8))
        ∃ t, exec (.registerWrite off wide v) s = .next (pokeAll t) ∧ t = { s with dev := t.dev, channels := t.channels } ∧
          (∀ i, i < 64 → (Writable s o i ∧ covers i → (regValue t o).testBit i = given i) ∧ (¬(Writable s o i ∧ covers i) → (regValue s o < 2 ^ 64 → (regValue t o).testBit i = (regValue s o).testBit i))) ∧
          ∀ r, r % 8 = 0 → r ≠ o → o ≠ 0x1260 ∨ r ≠ 0x1270 → regValue t r = regValue s r) ∧
      (devReady s = true →
        exec (.registerWrite 0x1010 true v) s = .next (pokeAll { s with dev :=
          { d with chRefused := d.chRefused && !v.getLsbD 1, chCommit := if v.getLsbD 0 then some (d.chCommit.getD s.clock) else d.chCommit } }) ∧
        exec (.registerWrite 0x8060 true v) s = .next (pokeAll { s with dev :=
          { d with fabRefused := d.fabRefused && !v.getLsbD 1, fabCommit := if v.getLsbD 0 then some (d.fabCommit.getD s.clock) else d.fabCommit } }) ∧
        exec (.registerWrite 0xA300 true v) s = .next (pokeAll { s with dev :=
          { d with partRefused := d.partRefused && !v.getLsbD 1, partCommit := if v.getLsbD 0 then some (d.partCommit.getD s.clock) else d.partCommit } }) ∧
        exec (.registerWrite 0xA430 true v) s = .next (pokeAll { s with dev :=
          { d with ualRefused := d.ualRefused && !v.getLsbD 1, ualCommit := if v.getLsbD 0 then some (d.ualCommit.getD s.clock) else d.ualCommit } }) ∧
        exec (.registerWrite 0x1270 true v) s = .next (pokeAll { s with dev := { d with dbgRefused := d.dbgRefused && !v.getLsbD 3 } }) ∧
        exec (.registerWrite 0x1268 true v) s = .next (pokeAll { s with dev := if d.dbgcmd = 0 ∧ dbgAllowed s (v.toNat % 16) = true then { d with dbgcmd := v.toNat % 16 } else { d with dbgRefused := true } }) ∧
        (d.throttle < 256 → exec (.registerWrite 0xC038 true v) s = .next (pokeAll { s with dev :=
          { d with throttle := if 60 ≤ v.toNat % 256 ∧ v.toNat % 256 ≤ 110 then v.toNat % 256 else d.throttle } })) ∧
        exec (.registerWrite 0xA700 true v) s = .next (pokeAll { s with dev := { d with attRequest := d.attRequest || v.getLsbD 0 } })) ∧
      (∀ q, devReady s = true → q < 65536 → exec (.registerWrite (0x100000 + 16 * q) true v) s = .next (pokeAll (qtailWrite q (v.setWidth 32) s))) ∧
      (devReady s = true → exec (.registerWrite 0x1248 true v) s = .next (pokeAll (hostStop (v.toNat / 2 ^ 48) (v.toNat % 2 ^ 48) s))) ∧
      (∀ x, devReady s = true → x < 16 → let p := portRec s x
        exec (.registerWrite (0xA500 + 16 * x) true v) s = .next (pokeAll (setPort s x { p with
          agreementFailed := p.agreementFailed && !v.getLsbD 7, roll := p.roll || v.getLsbD 0, waiting := if v.getLsbD 0 then decide (2 ≤ p.keys.length) else p.waiting })))) ∧
    (∀ pa, exec (.cxlCacheSnoop pa) s = .next (if d.trip = true then s else { s with snoops := s.snoops + 1 })) ∧
    (devReady s = true → exec .attctlRequest s = .next { s with dev := { d with attRequest := true } }) ∧
    (∀ report, (d.attRequest = false → exec (.attestationComplete report) s = .next s) ∧
      (∀ n o, [0xA708, 0xA710, 0xA718, 0xA720, 0xA740, 0xA308, 0xC010, 0xC018, 0xC020, 0xC028][n]? = some o → recWord (attested s) (8 * n) = regValue s o % 2 ^ 64) ∧
      (d.attRequest = true → d.attSent = false → 65536 ≤ (attested s ++ report).length → d.attBuf % 128 = 0 → (∀ i, i < 512 → isMain (d.attBuf + 128 * i) = true ∧ regionPresent s (d.attBuf + 128 * i) = true) →
        ∃ t, exec (.attestationComplete report) s = .next t ∧ t = { s with reqs := t.reqs, nextId := t.nextId, dev := { d with attSent := true } } ∧
          ∀ i, i < 512 → ∃ r ∈ t.reqs, r.who = .agent .attest ∧ r.line = d.attBuf / 128 + i ∧ r.kind = .write (maskBytes 0 128) (lineOf 0 (((attested s ++ report).drop (128 * i)).take 128))) ∧
      (d.attRequest = true → d.attSent = true → agentBusy s .attest = false →
        exec (.attestationComplete report) s = .next { s with dev := { d with attRequest := false, attSent := false }, msix := s.msix ++ [3] }))

/-- R439, R445, R447, R449 to R452: RESET_RELEASE begins phase Verify with the state after reset; each phase's end leads to the next or to Failed,
and Initialise leaves all memory zero and unpoisoned; at a sensor refresh every core in no partition moves one step of 25 MHz, down while it is hot or the
package draws too much, up else, and the telemetry block is written between an odd and an even sequence number; a trip stops every core;
a waiting re-plan lowers a die's highest clock.
What the sensors, the block's
steps and the calibration's operands are is log entries 43, 44 and 46; what a reset keeps is log entry 75. -/
def Obligations.PowerEvents : Prop :=
  ∀ (s : State), let d := s.dev
    (∃ t, exec .resetRelease s = .next t ∧ t = { State.reset with cur := t.cur, schedule := t.schedule, moves := t.moves, freeCtr := t.freeCtr, nextId := t.nextId }) ∧
    (∀ rsaOk slhOk version, d.phase = .verify → ∃ st, exec (.firmwareVerifyDone rsaOk slhOk version) s = .next { s with dev := { d with
        phase := if rsaOk = true ∧ slhOk = true ∧ Config.fwMinimum ≤ version.toNat then .calibrate else .failed, fwstat := st } } ∧
      st.getLsbD 0 = !rsaOk ∧ st.getLsbD 1 = !slhOk ∧ st.getLsbD 2 = decide (version.toNat < Config.fwMinimum) ∧
      st.toNat / 2 ^ 32 = if rsaOk = true ∧ slhOk = true ∧ Config.fwMinimum ≤ version.toNat then version.toNat else 0) ∧
    (∀ r, d.phase = .calibrate → ∃ t, exec (.calibrationDone r) s = .next t ∧ t = { s with dev := t.dev } ∧ t.dev = { d with
        phase := if r.ok then .initialise else .failed, calLoss := t.dev.calLoss, cxlCache := r.cxlCache, cores := t.dev.cores, slices := t.dev.slices, sram := t.dev.sram,
        hbmStacks := t.dev.hbmStacks, second := t.dev.second, wstore := t.dev.wstore, secondCxl := r.part.cxl } ∧
      -- a unit is there that the part has and that passed; one that failed counts as lost, one that the part never had does not
      (∀ c, t.dev.cores.getLsbD c = (d.cores.getLsbD c && r.part.cores.getLsbD c && r.cores.getLsbD c)) ∧ (∀ c, t.dev.slices.getLsbD c = (d.slices.getLsbD c && r.part.slices.getLsbD c && r.slices.getLsbD c)) ∧
      (∀ c, t.dev.sram.getLsbD c = (d.sram.getLsbD c && r.part.sram.getLsbD c && r.sram.getLsbD c)) ∧
      (∀ c, t.dev.hbmStacks.getLsbD c = (d.hbmStacks.getLsbD c && r.part.hbmStacks.getLsbD c && r.hbmStacks.getLsbD c)) ∧
      (∀ c, t.dev.second.getLsbD c = (d.second.getLsbD c && r.part.second.getLsbD c && r.second.getLsbD c)) ∧ (∀ c, t.dev.wstore.getLsbD c = (d.wstore.getLsbD c && r.part.wstore.getLsbD c && r.wstore.getLsbD c)) ∧
      let lost := fun (a b c : Nat → Bool) => ∃ n, a n = true ∧ b n = true ∧ c n = false
      (t.dev.calLoss = true ↔ d.calLoss = true ∨ lost d.cores.getLsbD r.part.cores.getLsbD r.cores.getLsbD ∨ lost d.slices.getLsbD r.part.slices.getLsbD r.slices.getLsbD ∨
        lost d.sram.getLsbD r.part.sram.getLsbD r.sram.getLsbD ∨ lost d.hbmStacks.getLsbD r.part.hbmStacks.getLsbD r.hbmStacks.getLsbD ∨
        lost d.second.getLsbD r.part.second.getLsbD r.second.getLsbD ∨ lost d.wstore.getLsbD r.part.wstore.getLsbD r.wstore.getLsbD)) ∧
    (d.phase = .initialise → ∃ t, exec .initialisationDone s = .next t ∧ t.dev = { d with phase := .ready } ∧ (∀ a, memGet t.mem a = 0) ∧ t.poison = [] ∧ t.cores = s.cores) ∧
    (∀ temps pwr energy ages, devReady s = true → let run := exec (.sensorRefresh temps pwr energy ages) s
      let base := d.telBase.toNat / 256 * 256
      (d.telStep = 0 → s.clock % 65536 = 0 → d.refreshed ≠ some s.clock → ∃ t, run = .next t ∧ t.mem = s.mem ∧
        t.dev = { d with temps := t.dev.temps, pwr := pwr, energy := energy, refreshed := some s.clock, telStep := if d.telBase.getLsbD 0 then 1 else 0, trip := t.dev.trip } ∧
        (t.dev.trip = true ↔ ∃ x ∈ temps.take 192, 115 ≤ x.toNat) ∧ (∀ n a m, n < 4 → ages[n]? = some a → a.2 = some m → m ≤ (NMap.getD s.dies n {}).maxClk → (NMap.getD t.dies n {}).replan = some m) ∧
        (∀ c, c < 192 → NMap.getD t.dev.temps c 0 = (temps.getD c 0).toNat) ∧ (∀ n a, n < 4 → ages[n]? = some a → (NMap.getD t.dies n {}).wear = a.1.toNat) ∧
        ∀ c, coreOf t c = if c < 192 ∧ d.cores.getLsbD c = true ∧ partOf s c = 8 then
            (let n := (coreOf s c).clockN
             let top := (NMap.getD s.dies (dieOf c) {}).maxClk
             { coreOf s c with clockN := if d.throttle ≤ (temps.getD c 0).toNat ∨ 3200 < pwr.toNat % 65536 then min top (n - 1) else min top (n + 1) })
          else coreOf s c) ∧
      (d.telStep ≠ 0 → agentBusy s .telemetry = true → run = .next s) ∧
      (agentBusy s .telemetry = false → isMain base = true → regionPresent s base = true → isMain (base + 128) = true → regionPresent s (base + 128) = true →
        let word := fun (v : DWord) (r : Req) => r.who = .agent .telemetry ∧ r.line = base / 128 ∧ r.kind = .write (maskBytes 0 8) (lineOf 0 (leBytes 8 v.toNat))
        (d.telStep = 1 → ∃ t r, run = .next t ∧ t = { s with reqs := s.reqs ++ [r], nextId := t.nextId, dev := { d with telStep := 2 } } ∧ word (d.telSeq + 1) r) ∧
        (d.telStep = 2 → ∃ t r q, run = .next t ∧ t = { s with reqs := s.reqs ++ [r, q], nextId := t.nextId, dev := { d with telStep := 3 } } ∧
          r.line = base / 128 ∧ r.kind = .write (maskBytes 8 120) (lineOf 8 ((telemetry s).take 120)) ∧
          q.line = base / 128 + 1 ∧ q.kind = .write (maskBytes 0 ((telemetry s).drop 120).length) (lineOf 0 ((telemetry s).drop 120))) ∧
        (d.telStep = 3 → ∃ t r, run = .next t ∧ t = { s with reqs := s.reqs ++ [r], nextId := t.nextId, dev := { d with telStep := 0, telSeq := d.telSeq + 2 } } ∧ word (d.telSeq + 2) r))) ∧
    (∀ n, n < 192 → ∃ t, exec (.thermalTrip n) s = .next t ∧ t = { s with dev := { d with trip := true } } ∧
      devReady t = false ∧ ∀ core slot path, mayIssue t core slot path = false) ∧
    (∀ die n, (NMap.getD s.dies die {}).replan = some n → s.clock % 65536 = 0 → (∀ i, i < 48 → partOf s (48 * die + i) = 8) →
      ∃ t, exec (.ageReplan die) s = .next t ∧ t = { s with dies := t.dies, cores := t.cores } ∧ NMap.getD t.dies die {} = { NMap.getD s.dies die {} with maxClk := n, replan := none } ∧
        ∀ c, coreOf t c = if dieOf c = die ∧ d.cores.getLsbD c = true then { coreOf s c with clockN := min n (coreOf s c).clockN } else coreOf s c)

/-! The machine as a whole. -/

/-- R445: when reset is released the device is in phase Verify, the reference count, the slice sequence counts and the counters of the device register
block are zero, nothing runs, and, as the model has it from the start, memory reads zero, is in its canonical form and holds no poison.
The values that the spec does not give
are log entries 2 and 3. -/
def Obligations.ResetState : Prop :=
  let s := State.reset
  let d := s.dev
  d.phase = .verify ∧ devReady s = false ∧ s.clock = 0 ∧ (∀ n, (sliceOf s n).seq = 0) ∧
  d.fltqTail = 0 ∧ d.fltLost = 0 ∧ d.evtqTail = 0 ∧ d.evtLost = 0 ∧ d.telSeq = 0 ∧
  (∀ n, let c := coreOf s n
    c.skeins = [] ∧ c.bolts = [] ∧ c.regBreak = 0 ∧ c.regSpill = 0 ∧ c.regFill = 0) ∧
  (∀ x, (portRec s x).resends = 0 ∧ (portRec s x).tagFails = 0) ∧
  (∀ a, memGet s.mem a = 0) ∧ MemOk s ∧ s.poison = []

/-- R35, R36, R342, R391, R392: a step takes the first move of the schedule. In an issue slot the chosen path runs the next word of its clause as the
instruction it decodes to, its lanes being those of the word; a word that does not decode traps with code 0x01. A path without a clause
fetches its next header, which CLAUSE_ISSUE then takes; an instruction that waits at issue leaves its path where it stands. An event is made
by its own meaning, and a tick makes the commits that are due and moves the requests of the networks on, then advances the reference count and
the phase of every core.
Whose turn it is comes from the model's schedule (log entry 4). -/
def Obligations.StepRunsDecoded : Prop :=
  ∀ (s : State) (r : List Move),
    let v : State := { s with schedule := r }
    let inHand := fun core slot path lanes => some ({ core := core, slot := slot, path := path, lanes := lanes } : Cursor)
    let after := fun core slot path (before : State) (o : Host.Outcome State Fault Refusal) => match o with
      | .next t => Host.Outcome.next (afterIssue core slot path before t)
      | o => o
    (∀ core q free ready slot path pa w, s.schedule = .slot core q free :: r →
      prepare core (free.filter (fun e => decide (quarterOf e.1 = q))) v = (ready, w) → chooseIssue w core ready = some (slot, path) →
      let u := ageAfter core q ready slot path (clearYields core q w)
      pathOf u core slot path = some pa →
      (∀ c z lanes i, pa.clause = some c → nextWord pa c = .word z lanes → decodeWord z = .ok i →
        step s = after core slot path w (exec i { u with cur := inHand core slot path lanes })) ∧
      (∀ c z lanes e, pa.clause = some c → nextWord pa c = .word z lanes → decodeWord z = .error e →
        step s = after core slot path w (.next (trapAt core slot path (pathPc pa) 0 { code := 0x01 } { u with cur := inHand core slot path none })))) ∧
    (∀ core slot path pa, s.schedule = .slot core (quarterOf slot) [(slot, path)] :: r → mayIssue v core slot path = true → pathOf v core slot path = some pa →
      let q := quarterOf slot
      (∀ h t z, pa.clause = none → fetchHeader core slot path { v with cur := inHand core slot path none } = .header h t → exec (.clauseIssue h) t = .next z →
        step s = .next (clearYields core q z)) ∧
      (∀ c z lanes i t, pa.clause = some c → nextWord pa c = .word z lanes → decodeWord z = .ok i → exec i { v with cur := inHand core slot path lanes } = .next t →
        (waits core slot path v t = true → step s = .next (clearYields core q t)) ∧
        (waits core slot path v t = false →
          step s = after core slot path v (exec i { ageAfter core q [(slot, path)] slot path (clearYields core q v) with cur := inHand core slot path lanes })))) ∧
    (∀ i, s.schedule = .event i :: r → i.isCode = false → i.wf = true → step s = exec i v) ∧
    (∀ a b c, s.schedule = .tick :: r → exec .channelSlotCommitApply v = .next a → exec .fabricCommitApply a = .next b → exec .partitionCommitApply b = .next c →
      let d := advanceNet (noteRoom c)
      ∃ t, step s = .next t ∧ t = { d with clock := s.clock + 1, cores := t.cores } ∧
        ∀ n, NMap.get? t.cores n = (NMap.get? d.cores n).map (fun k => { k with phase := k.phase + k.clockN }))

/-- The instruction of a word that the spec prints in three parts of 32 bits, high part first. -/
def printedWord (h m l : Nat) : Option Instr := decodeTableWord 96 (h * 2 ^ 64 + m * 2 ^ 32 + l)
/-- R34, R40 to R44: words that the worked examples of the spec print decode to the instructions printed beside them, one or more of each chapter;
every word of the hint region is a no-operation; the reserved opcodes are refused. -/
def Obligations.DecodeWords : Prop :=
  let u : Ctl := ⟨7, false, false, false, 0⟩
  printedWord 0 0 0x01000300 = some (.clauseIssue ⟨3, 0, some 0, none, false⟩) ∧
  printedWord 0 0x04000800 0x01009764 = some (.ld u (.v 9) (.v 4) 4 .n32 .sk .keep) ∧
  printedWord 0 0x00001807 0x0180A710 = some (.add u (.v 10) (.v 6) (.v 7) ⟨.i32, false⟩) ∧
  printedWord 0 0x0800080B 0x01000765 = some (.st u (.v 4) (.v 11) 8 .n32 .sk .keep false) ∧
  printedWord 1 0x06000000 0x40A04774 = some (.tload u 4 2 6 .keep) ∧
  printedWord 0 0x00000201 0x8100077C = some (.ppush u 4 1) ∧
  printedWord 0 0x18000000 0x0000078C = some (.grow u 24) ∧
  printedWord 0 0x00088000 0x0000076E = some (.fence u .rel .dev) ∧
  printedWord 2 0x01000806 0x0100A712 = some (.addc u (.v 10) (.v 4) (.v 6) 1 .n32) ∧
  printedWord 0 0x21004419 0x0441473E = some (.ffma u (.v 20) (.v 17) (.v 25) (.v 33) ⟨.rz, false, false, true, false⟩) ∧
  printedWord 0x14 0x28080609 0x82203782 = some (.mma u 3 8 9 true (some ⟨40, 5⟩)) ∧
  printedWord 0x00FFFFFF 0xEC000800 0x00000705 = some (.call u 2 0xFFFFFFEC) ∧
  printedWord 0 0x00000400 0x0A20370F = some (.stitch u 3 40 true) ∧
  printedWord 0 0x00080000 0x00201788 = some (.barArrive u 1) ∧
  printedWord 0x12 0x34000000 0x0000070D = some (.brk u 0x1234) ∧
  printedWord 0 0x0C000000 0x0240078F = some (.swrite u (.v 9) 12) ∧
  (∀ n r, n < 16 → decodeWord (BitVec.ofNat 96 (256 * r + 0xF0 + n)) = .ok .nop) ∧
  (∀ n r, 0x90 ≤ n → n < 0xF0 → decodeWord (BitVec.ofNat 96 (256 * r + n)) = .error .reservedOpcode)

/-- R27 to R34, R43 to R45: every well-formed instruction of the code has a word, and decoding that word gives it back with every operand at every
value; an event of the device has none. -/
def Obligations.EncodeThenDecode : Prop :=
  ∀ i : Instr, i.wf = true → (i.isCode = true → ∃ w, encode i = some w ∧ decodeWord w = .ok i) ∧ (i.isCode = false → encode i = none)

/-- Every step keeps memory in its canonical form: addresses rising, no byte listed that an unlisted address reads as. -/
def Obligations.MemoryStaysCanonical : Prop :=
  ∀ s t : State, MemOk s → step s = .next t → MemOk t

/-- Every step answers a next state: no instruction and no event stops the machine, whatever the state.
The one stop that exec has,
of a word without a skein (log entry 71), no step reaches; which move comes next is log entry 4. -/
def Obligations.EveryStepAnswers : Prop :=
  ∀ s : State, StepsOn s
end

