-- ==== Sys2Proof/Laws/NMap.lean ====
section
/-! SUPPORT. Laws of sorted maps and of the small list operations. -/

namespace Sys2Proof

@[simp] theorem NMap.get?_insert_self {α : Type} (m : NMap α) (n : Nat) (a : α) : NMap.get? (NMap.insert m n a) n = some a := by
  induction m with
  | nil => simp [NMap.insert, NMap.get?]
  | cons e r ih =>
    obtain ⟨k, b⟩ := e
    simp only [NMap.insert]
    split
    · simp [NMap.get?]
    · split
      · simp [NMap.get?]
      · rename_i h1 h2
        simp [NMap.get?, ih, Ne.symm h2]

theorem NMap.get?_insert_ne {α : Type} (m : NMap α) {n k : Nat} (a : α) (h : k ≠ n) :
    NMap.get? (NMap.insert m n a) k = NMap.get? m k := by
  induction m with
  | nil => simp [NMap.insert, NMap.get?, Ne.symm h]
  | cons e r ih =>
    obtain ⟨j, b⟩ := e
    simp only [NMap.insert]
    split
    · simp [NMap.get?, Ne.symm h]
    · split
      · rename_i _ h2
        subst h2
        simp [NMap.get?, Ne.symm h]
      · simp [NMap.get?, ih]

theorem NMap.get?_insert {α : Type} (m : NMap α) (n k : Nat) (a : α) :
    NMap.get? (NMap.insert m n a) k = if k = n then some a else NMap.get? m k := by
  split
  · subst k; simp
  · exact NMap.get?_insert_ne m a ‹_›

@[simp] theorem NMap.getD_insert_self {α : Type} (m : NMap α) (n : Nat) (a d : α) : NMap.getD (NMap.insert m n a) n d = a := by
  simp [NMap.getD]

theorem NMap.getD_insert {α : Type} (m : NMap α) (n k : Nat) (a d : α) :
    NMap.getD (NMap.insert m n a) k d = if k = n then a else NMap.getD m k d := by
  unfold NMap.getD
  rw [NMap.get?_insert]
  split <;> rfl

theorem NMap.getD_insert_ne {α : Type} (m : NMap α) {n k : Nat} (a d : α) (h : k ≠ n) :
    NMap.getD (NMap.insert m n a) k d = NMap.getD m k d := by
  rw [NMap.getD_insert, if_neg h]

theorem NMap.get?_erase_ne {α : Type} (m : NMap α) {n k : Nat} (h : k ≠ n) : NMap.get? (NMap.erase m n) k = NMap.get? m k := by
  induction m with
  | nil => rfl
  | cons e r ih =>
    obtain ⟨j, b⟩ := e
    simp only [NMap.erase]
    split
    · rename_i h2
      subst h2
      rw [ih]
      simp [NMap.get?, Ne.symm h]
    · simp [NMap.get?, ih]
@[simp] theorem NMap.get?_erase_self {α : Type} (m : NMap α) (n : Nat) : NMap.get? (NMap.erase m n) n = none := by
  induction m with
  | nil => rfl
  | cons e r ih =>
    obtain ⟨j, b⟩ := e
    simp only [NMap.erase]
    split
    · exact ih
    · rename_i h
      simp [NMap.get?, h, ih]

@[simp] theorem NMap.insert_insert {α : Type} (m : NMap α) (n : Nat) (a b : α) :
    NMap.insert (NMap.insert m n a) n b = NMap.insert m n b := by
  induction m with
  | nil => simp [NMap.insert]
  | cons e r ih =>
    obtain ⟨k, x⟩ := e
    by_cases h1 : n < k
    · simp [NMap.insert, h1]
    · by_cases h2 : n = k
      · subst h2; simp [NMap.insert]
      · simp [NMap.insert, h1, h2, ih]

namespace Machine

theorem get?_nupdate {α : Type} (m : NMap α) (n k : Nat) (f : α → α) :
    NMap.get? (nupdate m n f) k = if k = n then (NMap.get? m k).map f else NMap.get? m k := by
  induction m with
  | nil => simp [nupdate, NMap.get?]
  | cons e r ih =>
    obtain ⟨j, b⟩ := e
    simp only [nupdate, List.map_cons] at ih ⊢
    by_cases h1 : j = n
    · subst h1
      by_cases h2 : j = k
      · subst h2; simp [NMap.get?]
      · have h3 : ¬ k = j := fun h => h2 h.symm
        simp [NMap.get?, h2, h3] at ih ⊢
        exact ih
    · by_cases h2 : j = k
      · subst h2; simp [NMap.get?, h1]
      · simp [NMap.get?, h1, h2]
        simpa using ih

@[simp] theorem get?_nupdate_self {α : Type} (m : NMap α) (n : Nat) (f : α → α) :
    NMap.get? (nupdate m n f) n = (NMap.get? m n).map f := by
  rw [get?_nupdate, if_pos rfl]

theorem get?_nupdate_ne {α : Type} (m : NMap α) {n k : Nat} (f : α → α) (h : k ≠ n) :
    NMap.get? (nupdate m n f) k = NMap.get? m k := by
  rw [get?_nupdate, if_neg h]

@[simp] theorem nupdate_nupdate {α : Type} (m : NMap α) (n : Nat) (f g : α → α) :
    nupdate (nupdate m n f) n g = nupdate m n (fun a => g (f a)) := by
  induction m with
  | nil => rfl
  | cons e r ih =>
    obtain ⟨j, b⟩ := e
    simp only [nupdate, List.map_cons, List.map_map] at ih ⊢
    congr 1
    by_cases h : j = n <;> simp [h]

@[simp] theorem length_nupdate {α : Type} (m : NMap α) (n : Nat) (f : α → α) : (nupdate m n f).length = m.length := by
  simp [nupdate]

/-! Lane masks. -/

theorem getLsbD_bitsOf (n : Nat) (f : Nat → Bool) (i : Nat) : (bitsOf n f).getLsbD i = (decide (i < n) && f i) := by
  induction n with
  | zero => simp [bitsOf]
  | succ n ih =>
    simp only [bitsOf, BitVec.getLsbD_cons]
    split
    · rename_i h; subst h; simp
    · rename_i h
      rw [ih]
      congr 1
      simp only [decide_eq_decide]
      omega

@[simp] theorem getLsbD_lmask (f : Nat → Bool) (i : Nat) : (lmask f).getLsbD i = (decide (i < 128) && f i) := getLsbD_bitsOf 128 f i

theorem mem_lanesOf (m : LMask) (l : Nat) : l ∈ lanesOf m ↔ m.getLsbD l = true := by
  simp only [lanesOf, laneList, List.mem_filter, List.mem_range]
  constructor
  · exact fun h => h.2
  · intro h
    exact ⟨by
      by_contra hl
      rw [BitVec.getLsbD_of_ge m l (by omega)] at h
      exact absurd h (by simp), h⟩

theorem lanesOf_eq_nil (m : LMask) : lanesOf m = [] ↔ m = 0 := by
  constructor
  · intro h
    apply BitVec.eq_of_getLsbD_eq
    intro i _
    have : i ∉ lanesOf m := by rw [h]; simp
    rw [mem_lanesOf] at this
    simpa using this
  · intro h
    subst h
    simp [lanesOf]

theorem lowest_mem (m : LMask) (h : m ≠ 0) : m.getLsbD (lowest m) = true := by
  rw [← mem_lanesOf]
  unfold lowest
  cases hl : lanesOf m with
  | nil => exact absurd ((lanesOf_eq_nil m).1 hl) h
  | cons a r => simp

/-! Vector registers. -/

theorem vlane_map (f : Nat → Word) (l : Nat) : vlane (laneList.map f) l = if l < 128 then f l else 0 := by
  unfold vlane laneList
  by_cases h : l < 128
  · simp [List.getD, h]
  · simp [List.getD, h]

@[simp] theorem vlane_vmerge (act : LMask) (old : VReg) (f : Nat → Word) (l : Nat) :
    vlane (vmerge act old f) l = if l < 128 then (if act.getLsbD l then f l else vlane old l) else 0 := vlane_map _ l

@[simp] theorem vlane_vofFn (f : Nat → Word) (l : Nat) : vlane (vofFn f) l = if l < 128 then f l else 0 := vlane_map f l

end Machine
end Sys2Proof
end

