-- ==== Sys2Proof/Laws/State.lean ====
section
/-! SUPPORT. What the state updates of a core and of a skein leave alone, field by field, and what reading back gives. -/

namespace Sys2Proof.Machine

@[simp] theorem setCore_clock (s : State) (n : Nat) (c : Core) : (setCore s n c).clock = s.clock := rfl
@[simp] theorem setCore_dev (s : State) (n : Nat) (c : Core) : (setCore s n c).dev = s.dev := rfl
@[simp] theorem setCore_mem (s : State) (n : Nat) (c : Core) : (setCore s n c).mem = s.mem := rfl
@[simp] theorem setCore_poison (s : State) (n : Nat) (c : Core) : (setCore s n c).poison = s.poison := rfl
@[simp] theorem setCore_slices (s : State) (n : Nat) (c : Core) : (setCore s n c).slices = s.slices := rfl
@[simp] theorem setCore_adCache (s : State) (n : Nat) (c : Core) : (setCore s n c).adCache = s.adCache := rfl
@[simp] theorem setCore_dies (s : State) (n : Nat) (c : Core) : (setCore s n c).dies = s.dies := rfl
@[simp] theorem setCore_channels (s : State) (n : Nat) (c : Core) : (setCore s n c).channels = s.channels := rfl
@[simp] theorem setCore_reqs (s : State) (n : Nat) (c : Core) : (setCore s n c).reqs = s.reqs := rfl
@[simp] theorem setCore_links (s : State) (n : Nat) (c : Core) : (setCore s n c).links = s.links := rfl
@[simp] theorem setCore_descs (s : State) (n : Nat) (c : Core) : (setCore s n c).descs = s.descs := rfl
@[simp] theorem setCore_queues (s : State) (n : Nat) (c : Core) : (setCore s n c).queues = s.queues := rfl
@[simp] theorem setCore_grids (s : State) (n : Nat) (c : Core) : (setCore s n c).grids = s.grids := rfl
@[simp] theorem setCore_plans (s : State) (n : Nat) (c : Core) : (setCore s n c).plans = s.plans := rfl
@[simp] theorem setCore_savedBolts (s : State) (n : Nat) (c : Core) : (setCore s n c).savedBolts = s.savedBolts := rfl
@[simp] theorem setCore_endNotices (s : State) (n : Nat) (c : Core) : (setCore s n c).endNotices = s.endNotices := rfl
@[simp] theorem setCore_collUses (s : State) (n : Nat) (c : Core) : (setCore s n c).collUses = s.collUses := rfl
@[simp] theorem setCore_ports (s : State) (n : Nat) (c : Core) : (setCore s n c).ports = s.ports := rfl
@[simp] theorem setCore_hostBuf (s : State) (n : Nat) (c : Core) : (setCore s n c).hostBuf = s.hostBuf := rfl
@[simp] theorem setCore_podBuf (s : State) (n : Nat) (c : Core) : (setCore s n c).podBuf = s.podBuf := rfl
@[simp] theorem setCore_podReads (s : State) (n : Nat) (c : Core) : (setCore s n c).podReads = s.podReads := rfl
@[simp] theorem setCore_hostReplies (s : State) (n : Nat) (c : Core) : (setCore s n c).hostReplies = s.hostReplies := rfl
@[simp] theorem setCore_hostSent (s : State) (n : Nat) (c : Core) : (setCore s n c).hostSent = s.hostSent := rfl
@[simp] theorem setCore_snoops (s : State) (n : Nat) (c : Core) : (setCore s n c).snoops = s.snoops := rfl
@[simp] theorem setCore_msix (s : State) (n : Nat) (c : Core) : (setCore s n c).msix = s.msix := rfl
@[simp] theorem setCore_probes (s : State) (n : Nat) (c : Core) : (setCore s n c).probes = s.probes := rfl
@[simp] theorem setCore_lines (s : State) (n : Nat) (c : Core) : (setCore s n c).lines = s.lines := rfl
@[simp] theorem setCore_records (s : State) (n : Nat) (c : Core) : (setCore s n c).records = s.records := rfl
@[simp] theorem setCore_hostReads (s : State) (n : Nat) (c : Core) : (setCore s n c).hostReads = s.hostReads := rfl
@[simp] theorem setCore_credits (s : State) (n : Nat) (c : Core) : (setCore s n c).credits = s.credits := rfl
@[simp] theorem setCore_cur (s : State) (n : Nat) (c : Core) : (setCore s n c).cur = s.cur := rfl
@[simp] theorem setCore_schedule (s : State) (n : Nat) (c : Core) : (setCore s n c).schedule = s.schedule := rfl
@[simp] theorem setCore_moves (s : State) (n : Nat) (c : Core) : (setCore s n c).moves = s.moves := rfl
@[simp] theorem setCore_freeCtr (s : State) (n : Nat) (c : Core) : (setCore s n c).freeCtr = s.freeCtr := rfl
@[simp] theorem setCore_nextId (s : State) (n : Nat) (c : Core) : (setCore s n c).nextId = s.nextId := rfl

@[simp] theorem updCore_clock (s : State) (n : Nat) (f : Core → Core) : (updCore s n f).clock = s.clock := rfl
@[simp] theorem updCore_dev (s : State) (n : Nat) (f : Core → Core) : (updCore s n f).dev = s.dev := rfl
@[simp] theorem updCore_mem (s : State) (n : Nat) (f : Core → Core) : (updCore s n f).mem = s.mem := rfl
@[simp] theorem updCore_poison (s : State) (n : Nat) (f : Core → Core) : (updCore s n f).poison = s.poison := rfl
@[simp] theorem updCore_slices (s : State) (n : Nat) (f : Core → Core) : (updCore s n f).slices = s.slices := rfl
@[simp] theorem updCore_adCache (s : State) (n : Nat) (f : Core → Core) : (updCore s n f).adCache = s.adCache := rfl
@[simp] theorem updCore_dies (s : State) (n : Nat) (f : Core → Core) : (updCore s n f).dies = s.dies := rfl
@[simp] theorem updCore_channels (s : State) (n : Nat) (f : Core → Core) : (updCore s n f).channels = s.channels := rfl
@[simp] theorem updCore_reqs (s : State) (n : Nat) (f : Core → Core) : (updCore s n f).reqs = s.reqs := rfl
@[simp] theorem updCore_links (s : State) (n : Nat) (f : Core → Core) : (updCore s n f).links = s.links := rfl
@[simp] theorem updCore_descs (s : State) (n : Nat) (f : Core → Core) : (updCore s n f).descs = s.descs := rfl
@[simp] theorem updCore_queues (s : State) (n : Nat) (f : Core → Core) : (updCore s n f).queues = s.queues := rfl
@[simp] theorem updCore_grids (s : State) (n : Nat) (f : Core → Core) : (updCore s n f).grids = s.grids := rfl
@[simp] theorem updCore_plans (s : State) (n : Nat) (f : Core → Core) : (updCore s n f).plans = s.plans := rfl
@[simp] theorem updCore_savedBolts (s : State) (n : Nat) (f : Core → Core) : (updCore s n f).savedBolts = s.savedBolts := rfl
@[simp] theorem updCore_endNotices (s : State) (n : Nat) (f : Core → Core) : (updCore s n f).endNotices = s.endNotices := rfl
@[simp] theorem updCore_collUses (s : State) (n : Nat) (f : Core → Core) : (updCore s n f).collUses = s.collUses := rfl
@[simp] theorem updCore_ports (s : State) (n : Nat) (f : Core → Core) : (updCore s n f).ports = s.ports := rfl
@[simp] theorem updCore_hostBuf (s : State) (n : Nat) (f : Core → Core) : (updCore s n f).hostBuf = s.hostBuf := rfl
@[simp] theorem updCore_podBuf (s : State) (n : Nat) (f : Core → Core) : (updCore s n f).podBuf = s.podBuf := rfl
@[simp] theorem updCore_podReads (s : State) (n : Nat) (f : Core → Core) : (updCore s n f).podReads = s.podReads := rfl
@[simp] theorem updCore_hostReplies (s : State) (n : Nat) (f : Core → Core) : (updCore s n f).hostReplies = s.hostReplies := rfl
@[simp] theorem updCore_hostSent (s : State) (n : Nat) (f : Core → Core) : (updCore s n f).hostSent = s.hostSent := rfl
@[simp] theorem updCore_snoops (s : State) (n : Nat) (f : Core → Core) : (updCore s n f).snoops = s.snoops := rfl
@[simp] theorem updCore_msix (s : State) (n : Nat) (f : Core → Core) : (updCore s n f).msix = s.msix := rfl
@[simp] theorem updCore_probes (s : State) (n : Nat) (f : Core → Core) : (updCore s n f).probes = s.probes := rfl
@[simp] theorem updCore_lines (s : State) (n : Nat) (f : Core → Core) : (updCore s n f).lines = s.lines := rfl
@[simp] theorem updCore_records (s : State) (n : Nat) (f : Core → Core) : (updCore s n f).records = s.records := rfl
@[simp] theorem updCore_hostReads (s : State) (n : Nat) (f : Core → Core) : (updCore s n f).hostReads = s.hostReads := rfl
@[simp] theorem updCore_credits (s : State) (n : Nat) (f : Core → Core) : (updCore s n f).credits = s.credits := rfl
@[simp] theorem updCore_cur (s : State) (n : Nat) (f : Core → Core) : (updCore s n f).cur = s.cur := rfl
@[simp] theorem updCore_schedule (s : State) (n : Nat) (f : Core → Core) : (updCore s n f).schedule = s.schedule := rfl
@[simp] theorem updCore_moves (s : State) (n : Nat) (f : Core → Core) : (updCore s n f).moves = s.moves := rfl
@[simp] theorem updCore_freeCtr (s : State) (n : Nat) (f : Core → Core) : (updCore s n f).freeCtr = s.freeCtr := rfl
@[simp] theorem updCore_nextId (s : State) (n : Nat) (f : Core → Core) : (updCore s n f).nextId = s.nextId := rfl

@[simp] theorem setSkein_clock (s : State) (core slot : Nat) (sk : Skein) : (setSkein s core slot sk).clock = s.clock := rfl
@[simp] theorem setSkein_dev (s : State) (core slot : Nat) (sk : Skein) : (setSkein s core slot sk).dev = s.dev := rfl
@[simp] theorem setSkein_mem (s : State) (core slot : Nat) (sk : Skein) : (setSkein s core slot sk).mem = s.mem := rfl
@[simp] theorem setSkein_poison (s : State) (core slot : Nat) (sk : Skein) : (setSkein s core slot sk).poison = s.poison := rfl
@[simp] theorem setSkein_slices (s : State) (core slot : Nat) (sk : Skein) : (setSkein s core slot sk).slices = s.slices := rfl
@[simp] theorem setSkein_adCache (s : State) (core slot : Nat) (sk : Skein) : (setSkein s core slot sk).adCache = s.adCache := rfl
@[simp] theorem setSkein_dies (s : State) (core slot : Nat) (sk : Skein) : (setSkein s core slot sk).dies = s.dies := rfl
@[simp] theorem setSkein_channels (s : State) (core slot : Nat) (sk : Skein) : (setSkein s core slot sk).channels = s.channels := rfl
@[simp] theorem setSkein_reqs (s : State) (core slot : Nat) (sk : Skein) : (setSkein s core slot sk).reqs = s.reqs := rfl
@[simp] theorem setSkein_links (s : State) (core slot : Nat) (sk : Skein) : (setSkein s core slot sk).links = s.links := rfl
@[simp] theorem setSkein_descs (s : State) (core slot : Nat) (sk : Skein) : (setSkein s core slot sk).descs = s.descs := rfl
@[simp] theorem setSkein_queues (s : State) (core slot : Nat) (sk : Skein) : (setSkein s core slot sk).queues = s.queues := rfl
@[simp] theorem setSkein_grids (s : State) (core slot : Nat) (sk : Skein) : (setSkein s core slot sk).grids = s.grids := rfl
@[simp] theorem setSkein_plans (s : State) (core slot : Nat) (sk : Skein) : (setSkein s core slot sk).plans = s.plans := rfl
@[simp] theorem setSkein_savedBolts (s : State) (core slot : Nat) (sk : Skein) : (setSkein s core slot sk).savedBolts = s.savedBolts := rfl
@[simp] theorem setSkein_endNotices (s : State) (core slot : Nat) (sk : Skein) : (setSkein s core slot sk).endNotices = s.endNotices := rfl
@[simp] theorem setSkein_collUses (s : State) (core slot : Nat) (sk : Skein) : (setSkein s core slot sk).collUses = s.collUses := rfl
@[simp] theorem setSkein_ports (s : State) (core slot : Nat) (sk : Skein) : (setSkein s core slot sk).ports = s.ports := rfl
@[simp] theorem setSkein_hostBuf (s : State) (core slot : Nat) (sk : Skein) : (setSkein s core slot sk).hostBuf = s.hostBuf := rfl
@[simp] theorem setSkein_podBuf (s : State) (core slot : Nat) (sk : Skein) : (setSkein s core slot sk).podBuf = s.podBuf := rfl
@[simp] theorem setSkein_podReads (s : State) (core slot : Nat) (sk : Skein) : (setSkein s core slot sk).podReads = s.podReads := rfl
@[simp] theorem setSkein_hostReplies (s : State) (core slot : Nat) (sk : Skein) : (setSkein s core slot sk).hostReplies = s.hostReplies := rfl
@[simp] theorem setSkein_hostSent (s : State) (core slot : Nat) (sk : Skein) : (setSkein s core slot sk).hostSent = s.hostSent := rfl
@[simp] theorem setSkein_snoops (s : State) (core slot : Nat) (sk : Skein) : (setSkein s core slot sk).snoops = s.snoops := rfl
@[simp] theorem setSkein_msix (s : State) (core slot : Nat) (sk : Skein) : (setSkein s core slot sk).msix = s.msix := rfl
@[simp] theorem setSkein_probes (s : State) (core slot : Nat) (sk : Skein) : (setSkein s core slot sk).probes = s.probes := rfl
@[simp] theorem setSkein_lines (s : State) (core slot : Nat) (sk : Skein) : (setSkein s core slot sk).lines = s.lines := rfl
@[simp] theorem setSkein_records (s : State) (core slot : Nat) (sk : Skein) : (setSkein s core slot sk).records = s.records := rfl
@[simp] theorem setSkein_hostReads (s : State) (core slot : Nat) (sk : Skein) : (setSkein s core slot sk).hostReads = s.hostReads := rfl
@[simp] theorem setSkein_credits (s : State) (core slot : Nat) (sk : Skein) : (setSkein s core slot sk).credits = s.credits := rfl
@[simp] theorem setSkein_cur (s : State) (core slot : Nat) (sk : Skein) : (setSkein s core slot sk).cur = s.cur := rfl
@[simp] theorem setSkein_schedule (s : State) (core slot : Nat) (sk : Skein) : (setSkein s core slot sk).schedule = s.schedule := rfl
@[simp] theorem setSkein_moves (s : State) (core slot : Nat) (sk : Skein) : (setSkein s core slot sk).moves = s.moves := rfl
@[simp] theorem setSkein_freeCtr (s : State) (core slot : Nat) (sk : Skein) : (setSkein s core slot sk).freeCtr = s.freeCtr := rfl
@[simp] theorem setSkein_nextId (s : State) (core slot : Nat) (sk : Skein) : (setSkein s core slot sk).nextId = s.nextId := rfl

/-- A change to a skein is a change to the cores and to nothing else. -/
theorem updSkein_eq (s : State) (core slot : Nat) (f : Skein → Skein) : updSkein s core slot f = { s with cores := (updSkein s core slot f).cores } := by
  unfold updSkein
  split <;> rfl

@[simp] theorem updSkein_clock (s : State) (core slot : Nat) (g : Skein → Skein) : (updSkein s core slot g).clock = s.clock := by rw [updSkein_eq]
@[simp] theorem updSkein_dev (s : State) (core slot : Nat) (g : Skein → Skein) : (updSkein s core slot g).dev = s.dev := by rw [updSkein_eq]
@[simp] theorem updSkein_mem (s : State) (core slot : Nat) (g : Skein → Skein) : (updSkein s core slot g).mem = s.mem := by rw [updSkein_eq]
@[simp] theorem updSkein_poison (s : State) (core slot : Nat) (g : Skein → Skein) : (updSkein s core slot g).poison = s.poison := by rw [updSkein_eq]
@[simp] theorem updSkein_slices (s : State) (core slot : Nat) (g : Skein → Skein) : (updSkein s core slot g).slices = s.slices := by rw [updSkein_eq]
@[simp] theorem updSkein_adCache (s : State) (core slot : Nat) (g : Skein → Skein) : (updSkein s core slot g).adCache = s.adCache := by rw [updSkein_eq]
@[simp] theorem updSkein_dies (s : State) (core slot : Nat) (g : Skein → Skein) : (updSkein s core slot g).dies = s.dies := by rw [updSkein_eq]
@[simp] theorem updSkein_channels (s : State) (core slot : Nat) (g : Skein → Skein) : (updSkein s core slot g).channels = s.channels := by rw [updSkein_eq]
@[simp] theorem updSkein_reqs (s : State) (core slot : Nat) (g : Skein → Skein) : (updSkein s core slot g).reqs = s.reqs := by rw [updSkein_eq]
@[simp] theorem updSkein_links (s : State) (core slot : Nat) (g : Skein → Skein) : (updSkein s core slot g).links = s.links := by rw [updSkein_eq]
@[simp] theorem updSkein_descs (s : State) (core slot : Nat) (g : Skein → Skein) : (updSkein s core slot g).descs = s.descs := by rw [updSkein_eq]
@[simp] theorem updSkein_queues (s : State) (core slot : Nat) (g : Skein → Skein) : (updSkein s core slot g).queues = s.queues := by rw [updSkein_eq]
@[simp] theorem updSkein_grids (s : State) (core slot : Nat) (g : Skein → Skein) : (updSkein s core slot g).grids = s.grids := by rw [updSkein_eq]
@[simp] theorem updSkein_plans (s : State) (core slot : Nat) (g : Skein → Skein) : (updSkein s core slot g).plans = s.plans := by rw [updSkein_eq]
@[simp] theorem updSkein_savedBolts (s : State) (core slot : Nat) (g : Skein → Skein) : (updSkein s core slot g).savedBolts = s.savedBolts := by rw [updSkein_eq]
@[simp] theorem updSkein_endNotices (s : State) (core slot : Nat) (g : Skein → Skein) : (updSkein s core slot g).endNotices = s.endNotices := by rw [updSkein_eq]
@[simp] theorem updSkein_collUses (s : State) (core slot : Nat) (g : Skein → Skein) : (updSkein s core slot g).collUses = s.collUses := by rw [updSkein_eq]
@[simp] theorem updSkein_ports (s : State) (core slot : Nat) (g : Skein → Skein) : (updSkein s core slot g).ports = s.ports := by rw [updSkein_eq]
@[simp] theorem updSkein_hostBuf (s : State) (core slot : Nat) (g : Skein → Skein) : (updSkein s core slot g).hostBuf = s.hostBuf := by rw [updSkein_eq]
@[simp] theorem updSkein_podBuf (s : State) (core slot : Nat) (g : Skein → Skein) : (updSkein s core slot g).podBuf = s.podBuf := by rw [updSkein_eq]
@[simp] theorem updSkein_podReads (s : State) (core slot : Nat) (g : Skein → Skein) : (updSkein s core slot g).podReads = s.podReads := by rw [updSkein_eq]
@[simp] theorem updSkein_hostReplies (s : State) (core slot : Nat) (g : Skein → Skein) : (updSkein s core slot g).hostReplies = s.hostReplies := by rw [updSkein_eq]
@[simp] theorem updSkein_hostSent (s : State) (core slot : Nat) (g : Skein → Skein) : (updSkein s core slot g).hostSent = s.hostSent := by rw [updSkein_eq]
@[simp] theorem updSkein_snoops (s : State) (core slot : Nat) (g : Skein → Skein) : (updSkein s core slot g).snoops = s.snoops := by rw [updSkein_eq]
@[simp] theorem updSkein_msix (s : State) (core slot : Nat) (g : Skein → Skein) : (updSkein s core slot g).msix = s.msix := by rw [updSkein_eq]
@[simp] theorem updSkein_probes (s : State) (core slot : Nat) (g : Skein → Skein) : (updSkein s core slot g).probes = s.probes := by rw [updSkein_eq]
@[simp] theorem updSkein_lines (s : State) (core slot : Nat) (g : Skein → Skein) : (updSkein s core slot g).lines = s.lines := by rw [updSkein_eq]
@[simp] theorem updSkein_records (s : State) (core slot : Nat) (g : Skein → Skein) : (updSkein s core slot g).records = s.records := by rw [updSkein_eq]
@[simp] theorem updSkein_hostReads (s : State) (core slot : Nat) (g : Skein → Skein) : (updSkein s core slot g).hostReads = s.hostReads := by rw [updSkein_eq]
@[simp] theorem updSkein_credits (s : State) (core slot : Nat) (g : Skein → Skein) : (updSkein s core slot g).credits = s.credits := by rw [updSkein_eq]
@[simp] theorem updSkein_cur (s : State) (core slot : Nat) (g : Skein → Skein) : (updSkein s core slot g).cur = s.cur := by rw [updSkein_eq]
@[simp] theorem updSkein_schedule (s : State) (core slot : Nat) (g : Skein → Skein) : (updSkein s core slot g).schedule = s.schedule := by rw [updSkein_eq]
@[simp] theorem updSkein_moves (s : State) (core slot : Nat) (g : Skein → Skein) : (updSkein s core slot g).moves = s.moves := by rw [updSkein_eq]
@[simp] theorem updSkein_freeCtr (s : State) (core slot : Nat) (g : Skein → Skein) : (updSkein s core slot g).freeCtr = s.freeCtr := by rw [updSkein_eq]
@[simp] theorem updSkein_nextId (s : State) (core slot : Nat) (g : Skein → Skein) : (updSkein s core slot g).nextId = s.nextId := by rw [updSkein_eq]

@[simp] theorem updPath_clock (s : State) (core slot p : Nat) (g : Path → Path) : (updPath s core slot p g).clock = s.clock := by simp [updPath]
@[simp] theorem updPath_dev (s : State) (core slot p : Nat) (g : Path → Path) : (updPath s core slot p g).dev = s.dev := by simp [updPath]
@[simp] theorem updPath_mem (s : State) (core slot p : Nat) (g : Path → Path) : (updPath s core slot p g).mem = s.mem := by simp [updPath]
@[simp] theorem updPath_poison (s : State) (core slot p : Nat) (g : Path → Path) : (updPath s core slot p g).poison = s.poison := by simp [updPath]
@[simp] theorem updPath_slices (s : State) (core slot p : Nat) (g : Path → Path) : (updPath s core slot p g).slices = s.slices := by simp [updPath]
@[simp] theorem updPath_adCache (s : State) (core slot p : Nat) (g : Path → Path) : (updPath s core slot p g).adCache = s.adCache := by simp [updPath]
@[simp] theorem updPath_dies (s : State) (core slot p : Nat) (g : Path → Path) : (updPath s core slot p g).dies = s.dies := by simp [updPath]
@[simp] theorem updPath_channels (s : State) (core slot p : Nat) (g : Path → Path) : (updPath s core slot p g).channels = s.channels := by simp [updPath]
@[simp] theorem updPath_reqs (s : State) (core slot p : Nat) (g : Path → Path) : (updPath s core slot p g).reqs = s.reqs := by simp [updPath]
@[simp] theorem updPath_links (s : State) (core slot p : Nat) (g : Path → Path) : (updPath s core slot p g).links = s.links := by simp [updPath]
@[simp] theorem updPath_descs (s : State) (core slot p : Nat) (g : Path → Path) : (updPath s core slot p g).descs = s.descs := by simp [updPath]
@[simp] theorem updPath_queues (s : State) (core slot p : Nat) (g : Path → Path) : (updPath s core slot p g).queues = s.queues := by simp [updPath]
@[simp] theorem updPath_grids (s : State) (core slot p : Nat) (g : Path → Path) : (updPath s core slot p g).grids = s.grids := by simp [updPath]
@[simp] theorem updPath_plans (s : State) (core slot p : Nat) (g : Path → Path) : (updPath s core slot p g).plans = s.plans := by simp [updPath]
@[simp] theorem updPath_savedBolts (s : State) (core slot p : Nat) (g : Path → Path) : (updPath s core slot p g).savedBolts = s.savedBolts := by simp [updPath]
@[simp] theorem updPath_endNotices (s : State) (core slot p : Nat) (g : Path → Path) : (updPath s core slot p g).endNotices = s.endNotices := by simp [updPath]
@[simp] theorem updPath_collUses (s : State) (core slot p : Nat) (g : Path → Path) : (updPath s core slot p g).collUses = s.collUses := by simp [updPath]
@[simp] theorem updPath_ports (s : State) (core slot p : Nat) (g : Path → Path) : (updPath s core slot p g).ports = s.ports := by simp [updPath]
@[simp] theorem updPath_hostBuf (s : State) (core slot p : Nat) (g : Path → Path) : (updPath s core slot p g).hostBuf = s.hostBuf := by simp [updPath]
@[simp] theorem updPath_podBuf (s : State) (core slot p : Nat) (g : Path → Path) : (updPath s core slot p g).podBuf = s.podBuf := by simp [updPath]
@[simp] theorem updPath_podReads (s : State) (core slot p : Nat) (g : Path → Path) : (updPath s core slot p g).podReads = s.podReads := by simp [updPath]
@[simp] theorem updPath_hostReplies (s : State) (core slot p : Nat) (g : Path → Path) : (updPath s core slot p g).hostReplies = s.hostReplies := by simp [updPath]
@[simp] theorem updPath_hostSent (s : State) (core slot p : Nat) (g : Path → Path) : (updPath s core slot p g).hostSent = s.hostSent := by simp [updPath]
@[simp] theorem updPath_snoops (s : State) (core slot p : Nat) (g : Path → Path) : (updPath s core slot p g).snoops = s.snoops := by simp [updPath]
@[simp] theorem updPath_msix (s : State) (core slot p : Nat) (g : Path → Path) : (updPath s core slot p g).msix = s.msix := by simp [updPath]
@[simp] theorem updPath_probes (s : State) (core slot p : Nat) (g : Path → Path) : (updPath s core slot p g).probes = s.probes := by simp [updPath]
@[simp] theorem updPath_lines (s : State) (core slot p : Nat) (g : Path → Path) : (updPath s core slot p g).lines = s.lines := by simp [updPath]
@[simp] theorem updPath_records (s : State) (core slot p : Nat) (g : Path → Path) : (updPath s core slot p g).records = s.records := by simp [updPath]
@[simp] theorem updPath_hostReads (s : State) (core slot p : Nat) (g : Path → Path) : (updPath s core slot p g).hostReads = s.hostReads := by simp [updPath]
@[simp] theorem updPath_credits (s : State) (core slot p : Nat) (g : Path → Path) : (updPath s core slot p g).credits = s.credits := by simp [updPath]
@[simp] theorem updPath_cur (s : State) (core slot p : Nat) (g : Path → Path) : (updPath s core slot p g).cur = s.cur := by simp [updPath]
@[simp] theorem updPath_schedule (s : State) (core slot p : Nat) (g : Path → Path) : (updPath s core slot p g).schedule = s.schedule := by simp [updPath]
@[simp] theorem updPath_moves (s : State) (core slot p : Nat) (g : Path → Path) : (updPath s core slot p g).moves = s.moves := by simp [updPath]
@[simp] theorem updPath_freeCtr (s : State) (core slot p : Nat) (g : Path → Path) : (updPath s core slot p g).freeCtr = s.freeCtr := by simp [updPath]
@[simp] theorem updPath_nextId (s : State) (core slot p : Nat) (g : Path → Path) : (updPath s core slot p g).nextId = s.nextId := by simp [updPath]

@[simp] theorem onSkein_clock (x : Ctx) (g : Skein → Skein) (s : State) : (onSkein x g s).clock = s.clock := by simp [onSkein]
@[simp] theorem onSkein_dev (x : Ctx) (g : Skein → Skein) (s : State) : (onSkein x g s).dev = s.dev := by simp [onSkein]
@[simp] theorem onSkein_mem (x : Ctx) (g : Skein → Skein) (s : State) : (onSkein x g s).mem = s.mem := by simp [onSkein]
@[simp] theorem onSkein_poison (x : Ctx) (g : Skein → Skein) (s : State) : (onSkein x g s).poison = s.poison := by simp [onSkein]
@[simp] theorem onSkein_slices (x : Ctx) (g : Skein → Skein) (s : State) : (onSkein x g s).slices = s.slices := by simp [onSkein]
@[simp] theorem onSkein_adCache (x : Ctx) (g : Skein → Skein) (s : State) : (onSkein x g s).adCache = s.adCache := by simp [onSkein]
@[simp] theorem onSkein_dies (x : Ctx) (g : Skein → Skein) (s : State) : (onSkein x g s).dies = s.dies := by simp [onSkein]
@[simp] theorem onSkein_channels (x : Ctx) (g : Skein → Skein) (s : State) : (onSkein x g s).channels = s.channels := by simp [onSkein]
@[simp] theorem onSkein_reqs (x : Ctx) (g : Skein → Skein) (s : State) : (onSkein x g s).reqs = s.reqs := by simp [onSkein]
@[simp] theorem onSkein_links (x : Ctx) (g : Skein → Skein) (s : State) : (onSkein x g s).links = s.links := by simp [onSkein]
@[simp] theorem onSkein_descs (x : Ctx) (g : Skein → Skein) (s : State) : (onSkein x g s).descs = s.descs := by simp [onSkein]
@[simp] theorem onSkein_queues (x : Ctx) (g : Skein → Skein) (s : State) : (onSkein x g s).queues = s.queues := by simp [onSkein]
@[simp] theorem onSkein_grids (x : Ctx) (g : Skein → Skein) (s : State) : (onSkein x g s).grids = s.grids := by simp [onSkein]
@[simp] theorem onSkein_plans (x : Ctx) (g : Skein → Skein) (s : State) : (onSkein x g s).plans = s.plans := by simp [onSkein]
@[simp] theorem onSkein_savedBolts (x : Ctx) (g : Skein → Skein) (s : State) : (onSkein x g s).savedBolts = s.savedBolts := by simp [onSkein]
@[simp] theorem onSkein_endNotices (x : Ctx) (g : Skein → Skein) (s : State) : (onSkein x g s).endNotices = s.endNotices := by simp [onSkein]
@[simp] theorem onSkein_collUses (x : Ctx) (g : Skein → Skein) (s : State) : (onSkein x g s).collUses = s.collUses := by simp [onSkein]
@[simp] theorem onSkein_ports (x : Ctx) (g : Skein → Skein) (s : State) : (onSkein x g s).ports = s.ports := by simp [onSkein]
@[simp] theorem onSkein_hostBuf (x : Ctx) (g : Skein → Skein) (s : State) : (onSkein x g s).hostBuf = s.hostBuf := by simp [onSkein]
@[simp] theorem onSkein_podBuf (x : Ctx) (g : Skein → Skein) (s : State) : (onSkein x g s).podBuf = s.podBuf := by simp [onSkein]
@[simp] theorem onSkein_podReads (x : Ctx) (g : Skein → Skein) (s : State) : (onSkein x g s).podReads = s.podReads := by simp [onSkein]
@[simp] theorem onSkein_hostReplies (x : Ctx) (g : Skein → Skein) (s : State) : (onSkein x g s).hostReplies = s.hostReplies := by simp [onSkein]
@[simp] theorem onSkein_hostSent (x : Ctx) (g : Skein → Skein) (s : State) : (onSkein x g s).hostSent = s.hostSent := by simp [onSkein]
@[simp] theorem onSkein_snoops (x : Ctx) (g : Skein → Skein) (s : State) : (onSkein x g s).snoops = s.snoops := by simp [onSkein]
@[simp] theorem onSkein_msix (x : Ctx) (g : Skein → Skein) (s : State) : (onSkein x g s).msix = s.msix := by simp [onSkein]
@[simp] theorem onSkein_probes (x : Ctx) (g : Skein → Skein) (s : State) : (onSkein x g s).probes = s.probes := by simp [onSkein]
@[simp] theorem onSkein_lines (x : Ctx) (g : Skein → Skein) (s : State) : (onSkein x g s).lines = s.lines := by simp [onSkein]
@[simp] theorem onSkein_records (x : Ctx) (g : Skein → Skein) (s : State) : (onSkein x g s).records = s.records := by simp [onSkein]
@[simp] theorem onSkein_hostReads (x : Ctx) (g : Skein → Skein) (s : State) : (onSkein x g s).hostReads = s.hostReads := by simp [onSkein]
@[simp] theorem onSkein_credits (x : Ctx) (g : Skein → Skein) (s : State) : (onSkein x g s).credits = s.credits := by simp [onSkein]
@[simp] theorem onSkein_cur (x : Ctx) (g : Skein → Skein) (s : State) : (onSkein x g s).cur = s.cur := by simp [onSkein]
@[simp] theorem onSkein_schedule (x : Ctx) (g : Skein → Skein) (s : State) : (onSkein x g s).schedule = s.schedule := by simp [onSkein]
@[simp] theorem onSkein_moves (x : Ctx) (g : Skein → Skein) (s : State) : (onSkein x g s).moves = s.moves := by simp [onSkein]
@[simp] theorem onSkein_freeCtr (x : Ctx) (g : Skein → Skein) (s : State) : (onSkein x g s).freeCtr = s.freeCtr := by simp [onSkein]
@[simp] theorem onSkein_nextId (x : Ctx) (g : Skein → Skein) (s : State) : (onSkein x g s).nextId = s.nextId := by simp [onSkein]

@[simp] theorem onPath_clock (x : Ctx) (g : Path → Path) (s : State) : (onPath x g s).clock = s.clock := by simp [onPath]
@[simp] theorem onPath_dev (x : Ctx) (g : Path → Path) (s : State) : (onPath x g s).dev = s.dev := by simp [onPath]
@[simp] theorem onPath_mem (x : Ctx) (g : Path → Path) (s : State) : (onPath x g s).mem = s.mem := by simp [onPath]
@[simp] theorem onPath_poison (x : Ctx) (g : Path → Path) (s : State) : (onPath x g s).poison = s.poison := by simp [onPath]
@[simp] theorem onPath_slices (x : Ctx) (g : Path → Path) (s : State) : (onPath x g s).slices = s.slices := by simp [onPath]
@[simp] theorem onPath_adCache (x : Ctx) (g : Path → Path) (s : State) : (onPath x g s).adCache = s.adCache := by simp [onPath]
@[simp] theorem onPath_dies (x : Ctx) (g : Path → Path) (s : State) : (onPath x g s).dies = s.dies := by simp [onPath]
@[simp] theorem onPath_channels (x : Ctx) (g : Path → Path) (s : State) : (onPath x g s).channels = s.channels := by simp [onPath]
@[simp] theorem onPath_reqs (x : Ctx) (g : Path → Path) (s : State) : (onPath x g s).reqs = s.reqs := by simp [onPath]
@[simp] theorem onPath_links (x : Ctx) (g : Path → Path) (s : State) : (onPath x g s).links = s.links := by simp [onPath]
@[simp] theorem onPath_descs (x : Ctx) (g : Path → Path) (s : State) : (onPath x g s).descs = s.descs := by simp [onPath]
@[simp] theorem onPath_queues (x : Ctx) (g : Path → Path) (s : State) : (onPath x g s).queues = s.queues := by simp [onPath]
@[simp] theorem onPath_grids (x : Ctx) (g : Path → Path) (s : State) : (onPath x g s).grids = s.grids := by simp [onPath]
@[simp] theorem onPath_plans (x : Ctx) (g : Path → Path) (s : State) : (onPath x g s).plans = s.plans := by simp [onPath]
@[simp] theorem onPath_savedBolts (x : Ctx) (g : Path → Path) (s : State) : (onPath x g s).savedBolts = s.savedBolts := by simp [onPath]
@[simp] theorem onPath_endNotices (x : Ctx) (g : Path → Path) (s : State) : (onPath x g s).endNotices = s.endNotices := by simp [onPath]
@[simp] theorem onPath_collUses (x : Ctx) (g : Path → Path) (s : State) : (onPath x g s).collUses = s.collUses := by simp [onPath]
@[simp] theorem onPath_ports (x : Ctx) (g : Path → Path) (s : State) : (onPath x g s).ports = s.ports := by simp [onPath]
@[simp] theorem onPath_hostBuf (x : Ctx) (g : Path → Path) (s : State) : (onPath x g s).hostBuf = s.hostBuf := by simp [onPath]
@[simp] theorem onPath_podBuf (x : Ctx) (g : Path → Path) (s : State) : (onPath x g s).podBuf = s.podBuf := by simp [onPath]
@[simp] theorem onPath_podReads (x : Ctx) (g : Path → Path) (s : State) : (onPath x g s).podReads = s.podReads := by simp [onPath]
@[simp] theorem onPath_hostReplies (x : Ctx) (g : Path → Path) (s : State) : (onPath x g s).hostReplies = s.hostReplies := by simp [onPath]
@[simp] theorem onPath_hostSent (x : Ctx) (g : Path → Path) (s : State) : (onPath x g s).hostSent = s.hostSent := by simp [onPath]
@[simp] theorem onPath_snoops (x : Ctx) (g : Path → Path) (s : State) : (onPath x g s).snoops = s.snoops := by simp [onPath]
@[simp] theorem onPath_msix (x : Ctx) (g : Path → Path) (s : State) : (onPath x g s).msix = s.msix := by simp [onPath]
@[simp] theorem onPath_probes (x : Ctx) (g : Path → Path) (s : State) : (onPath x g s).probes = s.probes := by simp [onPath]
@[simp] theorem onPath_lines (x : Ctx) (g : Path → Path) (s : State) : (onPath x g s).lines = s.lines := by simp [onPath]
@[simp] theorem onPath_records (x : Ctx) (g : Path → Path) (s : State) : (onPath x g s).records = s.records := by simp [onPath]
@[simp] theorem onPath_hostReads (x : Ctx) (g : Path → Path) (s : State) : (onPath x g s).hostReads = s.hostReads := by simp [onPath]
@[simp] theorem onPath_credits (x : Ctx) (g : Path → Path) (s : State) : (onPath x g s).credits = s.credits := by simp [onPath]
@[simp] theorem onPath_cur (x : Ctx) (g : Path → Path) (s : State) : (onPath x g s).cur = s.cur := by simp [onPath]
@[simp] theorem onPath_schedule (x : Ctx) (g : Path → Path) (s : State) : (onPath x g s).schedule = s.schedule := by simp [onPath]
@[simp] theorem onPath_moves (x : Ctx) (g : Path → Path) (s : State) : (onPath x g s).moves = s.moves := by simp [onPath]
@[simp] theorem onPath_freeCtr (x : Ctx) (g : Path → Path) (s : State) : (onPath x g s).freeCtr = s.freeCtr := by simp [onPath]
@[simp] theorem onPath_nextId (x : Ctx) (g : Path → Path) (s : State) : (onPath x g s).nextId = s.nextId := by simp [onPath]

@[simp] theorem retire_clock (x : Ctx) (s : State) : (retire x s).clock = s.clock := by simp [retire, onPath]
@[simp] theorem retire_dev (x : Ctx) (s : State) : (retire x s).dev = s.dev := by simp [retire, onPath]
@[simp] theorem retire_mem (x : Ctx) (s : State) : (retire x s).mem = s.mem := by simp [retire, onPath]
@[simp] theorem retire_poison (x : Ctx) (s : State) : (retire x s).poison = s.poison := by simp [retire, onPath]
@[simp] theorem retire_slices (x : Ctx) (s : State) : (retire x s).slices = s.slices := by simp [retire, onPath]
@[simp] theorem retire_adCache (x : Ctx) (s : State) : (retire x s).adCache = s.adCache := by simp [retire, onPath]
@[simp] theorem retire_dies (x : Ctx) (s : State) : (retire x s).dies = s.dies := by simp [retire, onPath]
@[simp] theorem retire_channels (x : Ctx) (s : State) : (retire x s).channels = s.channels := by simp [retire, onPath]
@[simp] theorem retire_reqs (x : Ctx) (s : State) : (retire x s).reqs = s.reqs := by simp [retire, onPath]
@[simp] theorem retire_links (x : Ctx) (s : State) : (retire x s).links = s.links := by simp [retire, onPath]
@[simp] theorem retire_descs (x : Ctx) (s : State) : (retire x s).descs = s.descs := by simp [retire, onPath]
@[simp] theorem retire_queues (x : Ctx) (s : State) : (retire x s).queues = s.queues := by simp [retire, onPath]
@[simp] theorem retire_grids (x : Ctx) (s : State) : (retire x s).grids = s.grids := by simp [retire, onPath]
@[simp] theorem retire_plans (x : Ctx) (s : State) : (retire x s).plans = s.plans := by simp [retire, onPath]
@[simp] theorem retire_savedBolts (x : Ctx) (s : State) : (retire x s).savedBolts = s.savedBolts := by simp [retire, onPath]
@[simp] theorem retire_endNotices (x : Ctx) (s : State) : (retire x s).endNotices = s.endNotices := by simp [retire, onPath]
@[simp] theorem retire_collUses (x : Ctx) (s : State) : (retire x s).collUses = s.collUses := by simp [retire, onPath]
@[simp] theorem retire_ports (x : Ctx) (s : State) : (retire x s).ports = s.ports := by simp [retire, onPath]
@[simp] theorem retire_hostBuf (x : Ctx) (s : State) : (retire x s).hostBuf = s.hostBuf := by simp [retire, onPath]
@[simp] theorem retire_podBuf (x : Ctx) (s : State) : (retire x s).podBuf = s.podBuf := by simp [retire, onPath]
@[simp] theorem retire_podReads (x : Ctx) (s : State) : (retire x s).podReads = s.podReads := by simp [retire, onPath]
@[simp] theorem retire_hostReplies (x : Ctx) (s : State) : (retire x s).hostReplies = s.hostReplies := by simp [retire, onPath]
@[simp] theorem retire_hostSent (x : Ctx) (s : State) : (retire x s).hostSent = s.hostSent := by simp [retire, onPath]
@[simp] theorem retire_snoops (x : Ctx) (s : State) : (retire x s).snoops = s.snoops := by simp [retire, onPath]
@[simp] theorem retire_msix (x : Ctx) (s : State) : (retire x s).msix = s.msix := by simp [retire, onPath]
@[simp] theorem retire_probes (x : Ctx) (s : State) : (retire x s).probes = s.probes := by simp [retire, onPath]
@[simp] theorem retire_lines (x : Ctx) (s : State) : (retire x s).lines = s.lines := by simp [retire, onPath]
@[simp] theorem retire_records (x : Ctx) (s : State) : (retire x s).records = s.records := by simp [retire, onPath]
@[simp] theorem retire_hostReads (x : Ctx) (s : State) : (retire x s).hostReads = s.hostReads := by simp [retire, onPath]
@[simp] theorem retire_credits (x : Ctx) (s : State) : (retire x s).credits = s.credits := by simp [retire, onPath]
@[simp] theorem retire_cur (x : Ctx) (s : State) : (retire x s).cur = s.cur := by simp [retire, onPath]
@[simp] theorem retire_schedule (x : Ctx) (s : State) : (retire x s).schedule = s.schedule := by simp [retire, onPath]
@[simp] theorem retire_moves (x : Ctx) (s : State) : (retire x s).moves = s.moves := by simp [retire, onPath]
@[simp] theorem retire_freeCtr (x : Ctx) (s : State) : (retire x s).freeCtr = s.freeCtr := by simp [retire, onPath]
@[simp] theorem retire_nextId (x : Ctx) (s : State) : (retire x s).nextId = s.nextId := by simp [retire, onPath]

@[simp] theorem stall_clock (x : Ctx) (w : WaitKind) (s : State) : (stall x w s).clock = s.clock := by simp [stall, onPath]
@[simp] theorem stall_dev (x : Ctx) (w : WaitKind) (s : State) : (stall x w s).dev = s.dev := by simp [stall, onPath]
@[simp] theorem stall_mem (x : Ctx) (w : WaitKind) (s : State) : (stall x w s).mem = s.mem := by simp [stall, onPath]
@[simp] theorem stall_poison (x : Ctx) (w : WaitKind) (s : State) : (stall x w s).poison = s.poison := by simp [stall, onPath]
@[simp] theorem stall_slices (x : Ctx) (w : WaitKind) (s : State) : (stall x w s).slices = s.slices := by simp [stall, onPath]
@[simp] theorem stall_adCache (x : Ctx) (w : WaitKind) (s : State) : (stall x w s).adCache = s.adCache := by simp [stall, onPath]
@[simp] theorem stall_dies (x : Ctx) (w : WaitKind) (s : State) : (stall x w s).dies = s.dies := by simp [stall, onPath]
@[simp] theorem stall_channels (x : Ctx) (w : WaitKind) (s : State) : (stall x w s).channels = s.channels := by simp [stall, onPath]
@[simp] theorem stall_reqs (x : Ctx) (w : WaitKind) (s : State) : (stall x w s).reqs = s.reqs := by simp [stall, onPath]
@[simp] theorem stall_links (x : Ctx) (w : WaitKind) (s : State) : (stall x w s).links = s.links := by simp [stall, onPath]
@[simp] theorem stall_descs (x : Ctx) (w : WaitKind) (s : State) : (stall x w s).descs = s.descs := by simp [stall, onPath]
@[simp] theorem stall_queues (x : Ctx) (w : WaitKind) (s : State) : (stall x w s).queues = s.queues := by simp [stall, onPath]
@[simp] theorem stall_grids (x : Ctx) (w : WaitKind) (s : State) : (stall x w s).grids = s.grids := by simp [stall, onPath]
@[simp] theorem stall_plans (x : Ctx) (w : WaitKind) (s : State) : (stall x w s).plans = s.plans := by simp [stall, onPath]
@[simp] theorem stall_savedBolts (x : Ctx) (w : WaitKind) (s : State) : (stall x w s).savedBolts = s.savedBolts := by simp [stall, onPath]
@[simp] theorem stall_endNotices (x : Ctx) (w : WaitKind) (s : State) : (stall x w s).endNotices = s.endNotices := by simp [stall, onPath]
@[simp] theorem stall_collUses (x : Ctx) (w : WaitKind) (s : State) : (stall x w s).collUses = s.collUses := by simp [stall, onPath]
@[simp] theorem stall_ports (x : Ctx) (w : WaitKind) (s : State) : (stall x w s).ports = s.ports := by simp [stall, onPath]
@[simp] theorem stall_hostBuf (x : Ctx) (w : WaitKind) (s : State) : (stall x w s).hostBuf = s.hostBuf := by simp [stall, onPath]
@[simp] theorem stall_podBuf (x : Ctx) (w : WaitKind) (s : State) : (stall x w s).podBuf = s.podBuf := by simp [stall, onPath]
@[simp] theorem stall_podReads (x : Ctx) (w : WaitKind) (s : State) : (stall x w s).podReads = s.podReads := by simp [stall, onPath]
@[simp] theorem stall_hostReplies (x : Ctx) (w : WaitKind) (s : State) : (stall x w s).hostReplies = s.hostReplies := by simp [stall, onPath]
@[simp] theorem stall_hostSent (x : Ctx) (w : WaitKind) (s : State) : (stall x w s).hostSent = s.hostSent := by simp [stall, onPath]
@[simp] theorem stall_snoops (x : Ctx) (w : WaitKind) (s : State) : (stall x w s).snoops = s.snoops := by simp [stall, onPath]
@[simp] theorem stall_msix (x : Ctx) (w : WaitKind) (s : State) : (stall x w s).msix = s.msix := by simp [stall, onPath]
@[simp] theorem stall_probes (x : Ctx) (w : WaitKind) (s : State) : (stall x w s).probes = s.probes := by simp [stall, onPath]
@[simp] theorem stall_lines (x : Ctx) (w : WaitKind) (s : State) : (stall x w s).lines = s.lines := by simp [stall, onPath]
@[simp] theorem stall_records (x : Ctx) (w : WaitKind) (s : State) : (stall x w s).records = s.records := by simp [stall, onPath]
@[simp] theorem stall_hostReads (x : Ctx) (w : WaitKind) (s : State) : (stall x w s).hostReads = s.hostReads := by simp [stall, onPath]
@[simp] theorem stall_credits (x : Ctx) (w : WaitKind) (s : State) : (stall x w s).credits = s.credits := by simp [stall, onPath]
@[simp] theorem stall_cur (x : Ctx) (w : WaitKind) (s : State) : (stall x w s).cur = s.cur := by simp [stall, onPath]
@[simp] theorem stall_schedule (x : Ctx) (w : WaitKind) (s : State) : (stall x w s).schedule = s.schedule := by simp [stall, onPath]
@[simp] theorem stall_moves (x : Ctx) (w : WaitKind) (s : State) : (stall x w s).moves = s.moves := by simp [stall, onPath]
@[simp] theorem stall_freeCtr (x : Ctx) (w : WaitKind) (s : State) : (stall x w s).freeCtr = s.freeCtr := by simp [stall, onPath]
@[simp] theorem stall_nextId (x : Ctx) (w : WaitKind) (s : State) : (stall x w s).nextId = s.nextId := by simp [stall, onPath]

/-! Reading back. -/

theorem coreOf_setCore (s : State) (n k : Nat) (c : Core) : coreOf (setCore s n c) k = if k = n then c else coreOf s k := by
  simp [coreOf, setCore, NMap.getD_insert]
@[simp] theorem coreOf_setCore_self (s : State) (n : Nat) (c : Core) : coreOf (setCore s n c) n = c := by simp [coreOf_setCore]
theorem coreOf_updCore (s : State) (n k : Nat) (f : Core → Core) : coreOf (updCore s n f) k = if k = n then f (coreOf s n) else coreOf s k :=
  coreOf_setCore s n k _
@[simp] theorem coreOf_updCore_self (s : State) (n : Nat) (f : Core → Core) : coreOf (updCore s n f) n = f (coreOf s n) := by simp [coreOf_updCore]
@[simp] theorem setCore_setCore (s : State) (n : Nat) (c d : Core) : setCore (setCore s n c) n d = setCore s n d := by
  simp [setCore]
@[simp] theorem updCore_setCore (s : State) (n : Nat) (c : Core) (f : Core → Core) : updCore (setCore s n c) n f = setCore s n (f c) := by
  simp [updCore]
@[simp] theorem updCore_updCore (s : State) (n : Nat) (f g : Core → Core) : updCore (updCore s n f) n g = updCore s n (fun c => g (f c)) := by
  simp [updCore]

@[simp] theorem skeinOf_setSkein_self (s : State) (core slot : Nat) (sk : Skein) : skeinOf (setSkein s core slot sk) core slot = some sk := by
  simp [skeinOf, setSkein]
theorem skeinOf_setSkein_ne (s : State) {core slot core' slot' : Nat} (sk : Skein) (h : ¬(core' = core ∧ slot' = slot)) :
    skeinOf (setSkein s core slot sk) core' slot' = skeinOf s core' slot' := by
  unfold skeinOf setSkein
  rw [coreOf_updCore]
  split
  · rename_i h1
    subst h1
    simp only
    rw [NMap.get?_insert_ne]
    exact fun h2 => h ⟨rfl, h2⟩
  · rfl
@[simp] theorem setSkein_setSkein (s : State) (core slot : Nat) (a b : Skein) :
    setSkein (setSkein s core slot a) core slot b = setSkein s core slot b := by
  simp [setSkein]
/-- A skein that is resident is changed by `updSkein` alone. -/
theorem updSkein_of (s : State) {core slot : Nat} (f : Skein → Skein) {sk : Skein} (h : skeinOf s core slot = some sk) :
    updSkein s core slot f = setSkein s core slot (f sk) := by
  simp [updSkein, h]
@[simp] theorem updSkein_setSkein (s : State) (core slot : Nat) (sk : Skein) (f : Skein → Skein) :
    updSkein (setSkein s core slot sk) core slot f = setSkein s core slot (f sk) := by
  simp [updSkein]
theorem skeinOf_updSkein (s : State) (core slot : Nat) (f : Skein → Skein) :
    skeinOf (updSkein s core slot f) core slot = (skeinOf s core slot).map f := by
  unfold updSkein
  split
  · rename_i h; simp [h]
  · rename_i h; simp [h]
/-- What a change to a skein leaves of its core. -/
theorem coreOf_setSkein (s : State) (core slot n : Nat) (sk : Skein) : coreOf (setSkein s core slot sk) n =
    if n = core then { coreOf s core with skeins := NMap.insert (coreOf s core).skeins slot sk } else coreOf s n :=
  coreOf_updCore s core n _
@[simp] theorem boltOf_setSkein (s : State) (core slot c b : Nat) (sk : Skein) : boltOf (setSkein s core slot sk) c b = boltOf s c b := by
  unfold boltOf
  rw [coreOf_setSkein]
  split
  · rename_i h; subst h; rfl
  · rfl
@[simp] theorem launchOf_setSkein (s : State) (core slot c b : Nat) (sk : Skein) : launchOf (setSkein s core slot sk) c b = launchOf s c b := by
  simp [launchOf, gridOf]

@[simp] theorem updPathSk_paths (sk : Skein) (p : Nat) (f : Path → Path) : (updPathSk sk p f).paths = nupdate sk.paths p f := rfl

end Sys2Proof.Machine
end

