-- ==== Sys2Proof/Laws/Issue.lean ====
section
/-! SUPPORT. The issue of an instruction: when its checks pass, what writing registers does, and the shared shapes of the
arithmetic instructions. -/

namespace Sys2Proof.Machine

theorem ctxOf_skein {s : State} {x : Ctx} (h : ctxOf s = some x) : skeinOf s x.core x.slot = some x.sk := by
  unfold ctxOf at h
  split at h
  · exact absurd h (by simp)
  · split at h
    · exact absurd h (by simp)
    · split at h
      · exact absurd h (by simp)
      · simp only [Option.some.injEq] at h
        subst h
        assumption

theorem ctxOf_path {s : State} {x : Ctx} (h : ctxOf s = some x) : NMap.get? x.sk.paths x.path = some x.pa := by
  unfold ctxOf at h
  split at h
  · exact absurd h (by simp)
  · split at h
    · exact absurd h (by simp)
    · split at h
      · exact absurd h (by simp)
      · simp only [Option.some.injEq] at h
        subst h
        assumption

theorem leastBy_nil {α : Type} (f : α → Nat) : leastBy f ([] : List α) = none := rfl

theorem markedLane_clean {k : Checks} {x : Ctx} {u : RU} {act : LMask} (h : clean k u x act = true) : markedLane x u act k.activeMarks = none := by
  simp only [clean, Bool.and_eq_true, List.all_eq_true, decide_eq_true_eq] at h
  unfold markedLane
  have h1 : (u.rv.filterMap (fun n => (NMap.get? x.sk.vmarks (vkey x.pa.win n)).bind (fun m =>
      if m &&& act ≠ 0 then some (lowest (m &&& act)) else if k.activeMarks || x.inWord then none else some (lowest m)))) = [] := by
    simp only [List.filterMap_eq_nil_iff]
    intro n hn
    have := h.1 n hn
    cases hm : NMap.get? x.sk.vmarks (vkey x.pa.win n) with
    | none => rfl
    | some m =>
      rw [hm] at this
      simp only [Option.all_some, Bool.and_eq_true, decide_eq_true_eq] at this
      simp only [Option.bind_some, this.1, this.2, ne_eq, not_true, if_false, if_true]
  have h2 : u.rk.filterMap (fun n => if n ∈ x.sk.kmarks then some (lowest act) else none) = [] := by
    simp only [List.filterMap_eq_nil_iff]
    intro n hn
    rw [if_neg (h.2 n hn)]
  simp only [h1, h2, List.append_nil]
  rfl

/-- An instruction that is ready passes both gates. -/
theorem gate1_ready {k : Checks} {u : RU} {c : Ctl} {x : Ctx} {s : State} (h : Ready k u c x s) : gate1 k u c x s = .go (guardLanes x c) := by
  obtain ⟨-, h1, h2, h3, h4, h5, h6, -, -, -⟩ := h
  have w : ((u.rv ++ u.wv).any (fun n => !vOkIn x.sk.globals x.pa.win n)) = false := by
    simp only [List.any_eq_false, Bool.not_eq_true', Bool.not_eq_false]
    simpa only [List.all_eq_true] using h5
  have a : (k.accs.any (fun n => decide ((boltAccs s x.core x.sk.bolt).length ≤ n))) = false := by
    simp only [List.all_eq_true, decide_eq_true_eq] at h6
    simp only [List.any_eq_false, decide_eq_true_eq, not_le]
    exact h6
  unfold gate1
  simp only [h1, if_false, w, a]
  rw [if_neg, if_neg, if_neg]
  · rfl
  · rintro ⟨hf, hn⟩; exact hn (h4 hf)
  · rintro ⟨hf, hn⟩; exact hn (h3 hf)
  · rintro ⟨hg, hn, hd⟩
    rcases h2 hg with h | h
    · exact hn h
    · exact h hd

theorem gate2_ready {k : Checks} {u : RU} {c : Ctl} {x : Ctx} {s : State} (h : Ready k u c x s) :
    gate2 u (activeCtx x c) s k.activeMarks = .go (guardLanes x c) := by
  obtain ⟨-, -, -, -, -, -, -, h7, h8, h9⟩ := h
  have e1 : wordBusy (activeCtx x c) u = false := h7
  have e2 : pendingRead (activeCtx x c) u s = false := h8
  have e3 : markedLane (activeCtx x c) u (activeCtx x c).act k.activeMarks = none := markedLane_clean (x := activeCtx x c) (u := u) h9
  simp only [gate2, e1, e2, e3]
  rfl

/-- The last check passes an instruction that is ready, whatever it leaves out. -/
theorem gateLast_ready {k : Checks} {u : RU} {c : Ctl} {x : Ctx} {s : State} (h : Ready k u c x s) :
    gateLast k u (activeCtx x c) s = .go (guardLanes x c) := by
  have g := gate2_ready h
  have b : wordBusy (activeCtx x c) u = false := h.2.2.2.2.2.2.2.1
  unfold gateLast
  split
  · simp [b]; rfl
  · rw [g]

/-- An instruction that is ready, and meets no trap of its own that ranks before, has its effect. -/
theorem issue_ready {k : Checks} {u : RU} {c : Ctl} {x : Ctx} {s : State} {early : Ctx → State → Option TrapInfo}
    {body : Ctx → State → State} (h : Ready k u c x s) (he : early (activeCtx x c) s = none) :
    issue k u c early body s = .next (body (activeCtx x c) s) := by
  have g1 := gate1_ready h
  have g2 := gateLast_ready h
  unfold issue
  rw [h.1]
  simp only [g1]
  have he' : early { x with act := guardLanes x c } s = none := he
  have g2' : gateLast k u { x with act := guardLanes x c } s = .go (guardLanes x c) := g2
  simp only [he', g2']
  rfl

/-- With its guard false in every running lane an instruction is passed over (R33). -/
theorem issue_skip {k : Checks} {u : RU} {c : Ctl} {x : Ctx} {s : State} {early : Ctx → State → Option TrapInfo}
    {body : Ctx → State → State} (h : ctxOf s = some x) (hg : guardLanes x c = 0) : issue k u c early body s = .next (retire x s) := by
  simp [issue, h, gate1, hg]

/-- Outside a skein an instruction word has no meaning. -/
theorem issue_none {k : Checks} {u : RU} {c : Ctl} {s : State} {early : Ctx → State → Option TrapInfo}
    {body : Ctx → State → State} (h : ctxOf s = none) : issue k u c early body s = .fault .noIssuer := by
  simp [issue, h]

/-- An instruction word never answers a refusal, and faults only outside a skein. -/
theorem issue_next {k : Checks} {u : RU} {c : Ctl} {x : Ctx} {s : State} {early : Ctx → State → Option TrapInfo}
    {body : Ctx → State → State} (h : ctxOf s = some x) : ∃ t, issue k u c early body s = .next t := by
  unfold issue
  rw [h]
  simp only
  split
  · exact ⟨_, rfl⟩
  · exact ⟨_, rfl⟩
  · exact ⟨_, rfl⟩
  · split
    · exact ⟨_, rfl⟩
    · split <;> exact ⟨_, rfl⟩

/-! Writing registers. -/

theorem vkey_inj {w : Win} {m n : Nat} (h : vkey w m = vkey w n) : m = n := by
  unfold vkey at h
  split at h <;> split at h <;> omega

theorem vget_vput (sk : Skein) (key k : Nat) (act bad : LMask) (f : Nat → Word) (l : Nat) (hl : l < 128) :
    vlane (vget (vput sk key act f bad) k) l = if k = key ∧ act.getLsbD l then f l else vlane (vget sk k) l := by
  unfold vput
  split
  · rename_i h; subst h; simp
  · simp only [vget, NMap.getD_insert]
    by_cases h : k = key
    · subst h; simp [hl]
    · simp [h]

/-- A write without poison to a vector register. -/
theorem regs_vput (x : Ctx) {sk : Skein} (key : Nat) (f : Nat → Word) {V : Nat → Nat → Option Word} {K : Nat → Option Word} {P : Nat → Nat → Option Bool}
    (h : RegsBecome x sk V K P) :
    RegsBecome x (vput sk key x.act f) (fun k l => if k = key ∧ x.act.getLsbD l then some (f l) else V k l) K P := by
  obtain ⟨h1, h2, h3, h4, h5, h6⟩ := h
  refine ⟨?_, ?_, ?_, ?_, ?_, ?_⟩
  · unfold vput
    split
    · exact h1
    · rw [h1]
  · intro k l hl
    rw [vget_vput _ _ _ _ _ _ _ hl]
    dsimp only
    split
    · rfl
    · exact h2 k l hl
  · intro n
    rw [← h3 n]
    unfold vput
    split <;> rfl
  · intro n l hl
    rw [← h4 n l hl]
    unfold vput
    split <;> rfl
  · intro k hk
    unfold vput
    split
    · refine h5 k (fun l => ?_)
      have := hk l
      dsimp only at this
      split at this
      · exact absurd this (by simp)
      · exact this
    · rename_i hz
      by_cases hkk : k = key
      · subst hkk
        have := hk (lowest x.act)
        dsimp only at this
        rw [if_pos ⟨rfl, lowest_mem _ hz⟩] at this
        exact absurd this (by simp)
      · have hV : ∀ l, V k l = none := fun l => by
          have := hk l
          dsimp only at this
          rw [if_neg (fun h => hkk h.1)] at this
          exact this
        rw [← h5 k hV]
        exact NMap.get?_erase_ne _ hkk
  · intro n
    rw [← h6 n]
    unfold vput
    split <;> rfl

/-- A write without poison to a uniform register. -/
theorem regs_kput (x : Ctx) {sk : Skein} (n : Nat) (w : Word) {V : Nat → Nat → Option Word} {K : Nat → Option Word} {P : Nat → Nat → Option Bool}
    (h : RegsBecome x sk V K P) : RegsBecome x (kput sk n w) V (fun m => if m = n then some w else K m) P := by
  obtain ⟨h1, h2, h3, h4, h5, h6⟩ := h
  refine ⟨?_, h2, ?_, h4, h5, ?_⟩
  · unfold kput
    rw [h1]
  · intro m
    simp only [kput, kget, NMap.getD_insert]
    split
    · rfl
    · exact h3 m
  · intro m
    simp only [kput, Bool.false_eq_true, if_false, List.mem_filter, ne_eq, decide_not, Bool.not_eq_eq_eq_not, Bool.not_true, decide_eq_false_iff_not, h6 m]
    by_cases hm : m = n <;> simp [hm]

/-- A write to a predicate; p7 discards it (R190). -/
theorem regs_pput (x : Ctx) {sk : Skein} (p : Nat) (f : Nat → Bool) {V : Nat → Nat → Option Word} {K : Nat → Option Word} {P : Nat → Nat → Option Bool}
    (h : RegsBecome x sk V K P) :
    RegsBecome x (putP x sk p f) V K (fun m l => if m = p ∧ p ≠ 7 ∧ x.act.getLsbD l then some (f l) else P m l) := by
  obtain ⟨h1, h2, h3, h4, h5, h6⟩ := h
  unfold putP pput
  split
  · rename_i hp
    subst hp
    refine ⟨h1, h2, h3, ?_, h5, h6⟩
    simpa using h4
  · rename_i hp
    refine ⟨?_, h2, h3, ?_, h5, h6⟩
    · rw [h1]
    · intro m l hl
      have h4' := h4 m l hl
      unfold pget at h4' ⊢
      simp only [NMap.getD_insert]
      by_cases hm : m = p
      · subst hm
        simp only [hp, if_false, if_true, without, BitVec.getLsbD_or, BitVec.getLsbD_and, BitVec.getLsbD_not, getLsbD_lmask, hl, decide_true, Bool.true_and] at h4' ⊢
        by_cases ha : x.act.getLsbD l = true
        · simp [ha, hp]
        · simpa [ha] using h4'
      · simp only [hm, if_false, false_and] at h4' ⊢
        exact h4'

theorem regs_self (x : Ctx) : RegsBecome x x.sk noV noK noP := by
  refine ⟨rfl, ?_, ?_, ?_, ?_, ?_⟩ <;> simp [noV, noK, noP]

theorem regs_congr {x : Ctx} {sk : Skein} {V V' : Nat → Nat → Option Word} {K K' : Nat → Option Word} {P P' : Nat → Nat → Option Bool}
    (h : RegsBecome x sk V K P) (hV : ∀ k l, V k l = V' k l) (hK : ∀ n, K n = K' n) (hP : ∀ n l, P n l = P' n l) : RegsBecome x sk V' K' P' := by
  obtain rfl : V = V' := funext fun k => funext fun l => hV k l
  obtain rfl : K = K' := funext hK
  obtain rfl : P = P' := funext fun k => funext fun l => hP k l
  exact h

/-- Writing a destination of one or two registers. -/
theorem regs_putVK (x : Ctx) (w : Nat) (d : VK) (f : Nat → DWord) (ha : x.act ≠ 0) :
    RegsBecome x (putVK x x.sk w d f) (destV x w d f) (destK x w d f) noP := by
  unfold putVK
  cases d with
  | v n =>
    split
    · rename_i hw
      simp only [putPair, putWord, ha, if_false]
      refine regs_congr (regs_vput x _ _ (regs_vput x _ _ (regs_self x))) ?_ (fun _ => rfl) (fun _ _ => rfl)
      intro k l
      simp only [destV, noV, hw, true_and]
      by_cases hl : x.act.getLsbD l = true
      · simp only [hl, and_true, if_true]
        by_cases h1 : k = vkey x.pa.win n
        · have h2 : k ≠ vkey x.pa.win (n + 1) := fun h => by have := vkey_inj (h1.symm.trans h); omega
          rw [if_neg h2, if_pos h1, if_pos h1]
        · simp [h1]
      · simp [hl]
    · rename_i hw
      simp only [putWord, ha, if_false]
      refine regs_congr (regs_vput x _ _ (regs_self x)) ?_ (fun _ => rfl) (fun _ _ => rfl)
      intro k l
      simp only [destV, noV, hw, false_and, if_false]
      by_cases hl : x.act.getLsbD l = true <;> simp [hl]
  | k n =>
    split
    · rename_i hw
      simp only [putPair, putWord, ha, if_false]
      refine regs_congr (regs_kput x _ _ (regs_kput x _ _ (regs_self x))) (fun _ _ => rfl) ?_ (fun _ _ => rfl)
      intro m
      simp only [destK, noK, hw, true_and]
      by_cases h1 : m = n
      · have : m ≠ n + 1 := by omega
        simp [h1]
      · simp [h1]
    · rename_i hw
      simp only [putWord, ha, if_false]
      refine regs_congr (regs_kput x _ _ (regs_self x)) (fun _ _ => rfl) ?_ (fun _ _ => rfl)
      intro m
      simp [destK, noK, hw]

/-- Writing one register. -/
theorem regs_putWord (x : Ctx) (d : VK) (f : Nat → Word) (g : Nat → DWord) (hg : ∀ l, loWord (g l) = f l) (ha : x.act ≠ 0) :
    RegsBecome x (putWord x x.sk d f) (destV x 1 d g) (destK x 1 d g) noP := by
  have h := regs_putVK x 1 d g ha
  have e : putVK x x.sk 1 d g = putWord x x.sk d f := by
    unfold putVK
    rw [if_neg (by decide)]
    congr 1
    funext l
    exact hg l
  rwa [e] at h

/-! The shared shapes of arithmetic. -/

theorem onSkein_ready {k : Checks} {u : RU} {c : Ctl} {x : Ctx} {s : State} (h : Ready k u c x s) (f : Skein → Skein) :
    onSkein (activeCtx x c) f s = setSkein s x.core x.slot (f x.sk) :=
  updSkein_of (core := x.core) (slot := x.slot) s f (ctxOf_skein h.1)

/-- An instruction of fixed latency whose effect is on registers alone. -/
theorem becomes_of {i : Instr} {k : Checks} {u : RU} {c : Ctl} {x : Ctx} {s : State} {early : Ctx → State → Option TrapInfo}
    {f : Ctx → Skein → Skein} {V : Nat → Nat → Option Word} {K : Nat → Option Word} {P : Nat → Nat → Option Bool}
    (hx : exec i s = issue k u c early (fun x s => retire x (onSkein x (f x) s)) s)
    (h : Ready k u c x s) (he : early (activeCtx x c) s = none)
    (hr : RegsBecome (activeCtx x c) (f (activeCtx x c) x.sk) V K P) : Becomes i (activeCtx x c) s V K P := by
  refine ⟨f (activeCtx x c) x.sk, ?_, hr⟩
  rw [hx, issue_ready h he, onSkein_ready h]
  rfl

/-- The same with no early trap. -/
theorem becomes_plain {i : Instr} {k : Checks} {u : RU} {c : Ctl} {x : Ctx} {s : State}
    {f : Ctx → Skein → Skein} {V : Nat → Nat → Option Word} {K : Nat → Option Word} {P : Nat → Nat → Option Bool}
    (hx : exec i s = issue k u c noEarly (fun x s => retire x (onSkein x (f x) s)) s) (h : Ready k u c x s)
    (hr : RegsBecome (activeCtx x c) (f (activeCtx x c) x.sk) V K P) : Becomes i (activeCtx x c) s V K P :=
  becomes_of hx h rfl hr

/-- The shape `alu`. -/
theorem alu_gives {i : Instr} {c : Ctl} {x : Ctx} {s : State} {w : Nat} {d : VK} {f : Ctx → Nat → DWord}
    (hx : exec i s = alu i c w d f s) (h : Ready { activeMarks := Instr.isFloat i } (Instr.use i) c x s) : Gives i (activeCtx x c) s w d (f (activeCtx x c)) :=
  becomes_of (f := fun x sk => putVK x sk w d (f x)) hx h rfl (regs_putVK (activeCtx x c) w d _ h.2.1)

/-- The shape `aluP`. -/
theorem aluP_gives {i : Instr} {c : Ctl} {x : Ctx} {s : State} {p : Nat} {f : Ctx → Nat → Bool}
    (hx : exec i s = aluP i c p f s) (h : Ready { activeMarks := Instr.isFloat i } (Instr.use i) c x s) : GivesP i (activeCtx x c) s p (f (activeCtx x c)) :=
  becomes_of (f := fun x sk => putP x sk p (f x)) hx h rfl
    (regs_congr (regs_pput (activeCtx x c) p (f (activeCtx x c)) (regs_self (activeCtx x c))) (fun _ _ => rfl) (fun _ => rfl) (fun _ _ => rfl))

end Sys2Proof.Machine
end

