-- ==== Sys2Proof/Laws/Alu.lean ====
section
/-! SUPPORT. What each arithmetic, lane, float and conversion instruction of fixed latency gives when its issue checks pass:
one lemma per instruction, over the shared shapes. -/

namespace Sys2Proof.Machine

variable {s : State} {x : Ctx}

theorem add_gives (c : Ctl) (d : VK) (a b : Src) (m : IMod)
    (h : Ready {} (Instr.use (.add c d a b m)) c x s) :
    Gives (.add c d a b m) (activeCtx x c) s m.ty.regs d (fun l => wrapOrSat m (srcInt (activeCtx x c) m.ty a l + srcInt (activeCtx x c) m.ty b l)) :=
  alu_gives (f := fun x l => wrapOrSat m (srcInt x m.ty a l + srcInt x m.ty b l)) rfl h
theorem sub_gives (c : Ctl) (d : VK) (a b : Src) (m : IMod)
    (h : Ready {} (Instr.use (.sub c d a b m)) c x s) :
    Gives (.sub c d a b m) (activeCtx x c) s m.ty.regs d (fun l => wrapOrSat m (srcInt (activeCtx x c) m.ty a l - srcInt (activeCtx x c) m.ty b l)) :=
  alu_gives (f := fun x l => wrapOrSat m (srcInt x m.ty a l - srcInt x m.ty b l)) rfl h
theorem mul_gives (c : Ctl) (d : VK) (a b : Src) (m : IMod)
    (h : Ready {} (Instr.use (.mul c d a b m)) c x s) :
    Gives (.mul c d a b m) (activeCtx x c) s m.ty.regs d (fun l => wrapOrSat m (srcInt (activeCtx x c) m.ty a l * srcInt (activeCtx x c) m.ty b l)) :=
  alu_gives (f := fun x l => wrapOrSat m (srcInt x m.ty a l * srcInt x m.ty b l)) rfl h
theorem mulh_gives (c : Ctl) (d : VK) (a b : Src) (m : IMod)
    (h : Ready {} (Instr.use (.mulh c d a b m)) c x s) :
    Gives (.mulh c d a b m) (activeCtx x c) s m.ty.regs d (fun l => intBits (wrapInt m.ty (Int.fdiv (srcInt (activeCtx x c) m.ty a l * srcInt (activeCtx x c) m.ty b l) (2 ^ itWidth m.ty)))) :=
  alu_gives (f := fun x l => intBits (wrapInt m.ty (Int.fdiv (srcInt x m.ty a l * srcInt x m.ty b l) (2 ^ itWidth m.ty)))) rfl h
theorem mad_gives (c : Ctl) (d : VK) (a b : Src) (cc : VK) (m : IMod)
    (h : Ready {} (Instr.use (.mad c d a b cc m)) c x s) :
    Gives (.mad c d a b cc m) (activeCtx x c) s m.ty.regs d (fun l => wrapOrSat m (srcInt (activeCtx x c) m.ty a l * srcInt (activeCtx x c) m.ty b l + vkInt (activeCtx x c) m.ty cc l)) :=
  alu_gives (f := fun x l => wrapOrSat m (srcInt x m.ty a l * srcInt x m.ty b l + vkInt x m.ty cc l)) rfl h
theorem madw_gives (c : Ctl) (d : VK) (a b : Src) (cc : VK) (m : IMod)
    (h : Ready {} (Instr.use (.madw c d a b cc m)) c x s) :
    Gives (.madw c d a b cc m) (activeCtx x c) s 2 d (fun l => wrapOrSat ⟨wideOf m.ty, m.sat⟩ (srcInt (activeCtx x c) m.ty a l * srcInt (activeCtx x c) m.ty b l + vkInt (activeCtx x c) (wideOf m.ty) cc l)) :=
  alu_gives (f := fun x l => wrapOrSat ⟨wideOf m.ty, m.sat⟩ (srcInt x m.ty a l * srcInt x m.ty b l + vkInt x (wideOf m.ty) cc l)) rfl h
theorem min_gives (c : Ctl) (d : VK) (a b : Src) (m : IMod)
    (h : Ready {} (Instr.use (.min c d a b m)) c x s) :
    Gives (.min c d a b m) (activeCtx x c) s m.ty.regs d (fun l => intBits (min (srcInt (activeCtx x c) m.ty a l) (srcInt (activeCtx x c) m.ty b l))) :=
  alu_gives (f := fun x l => intBits (min (srcInt x m.ty a l) (srcInt x m.ty b l))) rfl h
theorem max_gives (c : Ctl) (d : VK) (a b : Src) (m : IMod)
    (h : Ready {} (Instr.use (.max c d a b m)) c x s) :
    Gives (.max c d a b m) (activeCtx x c) s m.ty.regs d (fun l => intBits (max (srcInt (activeCtx x c) m.ty a l) (srcInt (activeCtx x c) m.ty b l))) :=
  alu_gives (f := fun x l => intBits (max (srcInt x m.ty a l) (srcInt x m.ty b l))) rfl h
theorem abs_gives (c : Ctl) (d : VK) (a : Src) (m : IMod)
    (h : Ready {} (Instr.use (.abs c d a m)) c x s) :
    Gives (.abs c d a m) (activeCtx x c) s m.ty.regs d (fun l => wrapOrSat m (Int.ofNat (srcInt (activeCtx x c) m.ty a l).natAbs)) :=
  alu_gives (f := fun x l => wrapOrSat m (Int.ofNat (srcInt x m.ty a l).natAbs)) rfl h
theorem neg_gives (c : Ctl) (d : VK) (a : Src) (m : IMod)
    (h : Ready {} (Instr.use (.neg c d a m)) c x s) :
    Gives (.neg c d a m) (activeCtx x c) s m.ty.regs d (fun l => wrapOrSat m (-(srcInt (activeCtx x c) m.ty a l))) :=
  alu_gives (f := fun x l => wrapOrSat m (-(srcInt x m.ty a l))) rfl h
theorem sad_gives (c : Ctl) (d : VK) (a b : Src) (cc : VK) (m : IMod)
    (h : Ready {} (Instr.use (.sad c d a b cc m)) c x s) :
    Gives (.sad c d a b cc m) (activeCtx x c) s m.ty.regs d (fun l => wrapOrSat m (Int.ofNat (srcInt (activeCtx x c) m.ty a l - srcInt (activeCtx x c) m.ty b l).natAbs + vkInt (activeCtx x c) m.ty cc l)) :=
  alu_gives (f := fun x l => wrapOrSat m (Int.ofNat (srcInt x m.ty a l - srcInt x m.ty b l).natAbs + vkInt x m.ty cc l)) rfl h
theorem shl_gives (c : Ctl) (d : VK) (a b : Src) (m : IMod)
    (h : Ready {} (Instr.use (.shl c d a b m)) c x s) :
    Gives (.shl c d a b m) (activeCtx x c) s m.ty.regs d (fun l => shlBits m (srcInt (activeCtx x c) m.ty a l) (srcPat (activeCtx x c) m.ty a l) (srcWord (activeCtx x c) b l).toNat) :=
  alu_gives (f := fun x l => shlBits m (srcInt x m.ty a l) (srcPat x m.ty a l) (srcWord x b l).toNat) rfl h
theorem shr_gives (c : Ctl) (d : VK) (a b : Src) (m : IMod)
    (h : Ready {} (Instr.use (.shr c d a b m)) c x s) :
    Gives (.shr c d a b m) (activeCtx x c) s m.ty.regs d (fun l => shrBits m.ty (srcPat (activeCtx x c) m.ty a l) (srcWord (activeCtx x c) b l).toNat) :=
  alu_gives (f := fun x l => shrBits m.ty (srcPat x m.ty a l) (srcWord x b l).toNat) rfl h
theorem sar_gives (c : Ctl) (d : VK) (a b : Src) (m : IMod)
    (h : Ready {} (Instr.use (.sar c d a b m)) c x s) :
    Gives (.sar c d a b m) (activeCtx x c) s m.ty.regs d (fun l => sarBits m.ty (srcPat (activeCtx x c) m.ty a l) (srcWord (activeCtx x c) b l).toNat) :=
  alu_gives (f := fun x l => sarBits m.ty (srcPat x m.ty a l) (srcWord x b l).toNat) rfl h
theorem rot_gives (c : Ctl) (d : VK) (a b : Src) (m : IMod)
    (h : Ready {} (Instr.use (.rot c d a b m)) c x s) :
    Gives (.rot c d a b m) (activeCtx x c) s m.ty.regs d (fun l => rotBits m.ty (srcPat (activeCtx x c) m.ty a l) (srcWord (activeCtx x c) b l).toNat) :=
  alu_gives (f := fun x l => rotBits m.ty (srcPat x m.ty a l) (srcWord x b l).toNat) rfl h
theorem clz_gives (c : Ctl) (d : VK) (a : Src) (m : IMod)
    (h : Ready {} (Instr.use (.clz c d a m)) c x s) :
    Gives (.clz c d a m) (activeCtx x c) s m.ty.regs d (fun l => BitVec.ofNat 64 (leadingZeros (itWidth m.ty) (srcPat (activeCtx x c) m.ty a l))) :=
  alu_gives (f := fun x l => BitVec.ofNat 64 (leadingZeros (itWidth m.ty) (srcPat x m.ty a l))) rfl h
theorem popc_gives (c : Ctl) (d : VK) (a : Src) (m : IMod)
    (h : Ready {} (Instr.use (.popc c d a m)) c x s) :
    Gives (.popc c d a m) (activeCtx x c) s m.ty.regs d (fun l => BitVec.ofNat 64 (popCount (itWidth m.ty) (srcPat (activeCtx x c) m.ty a l))) :=
  alu_gives (f := fun x l => BitVec.ofNat 64 (popCount (itWidth m.ty) (srcPat x m.ty a l))) rfl h
theorem brev_gives (c : Ctl) (d : VK) (a : Src) (m : IMod)
    (h : Ready {} (Instr.use (.brev c d a m)) c x s) :
    Gives (.brev c d a m) (activeCtx x c) s m.ty.regs d (fun l => patBits m.ty (reverseBits (itWidth m.ty) (srcPat (activeCtx x c) m.ty a l))) :=
  alu_gives (f := fun x l => patBits m.ty (reverseBits (itWidth m.ty) (srcPat x m.ty a l))) rfl h
theorem cmp_gives (c : Ctl) (p : Nat) (a b : Src) (cc : ICond) (m : IMod)
    (h : Ready {} (Instr.use (.cmp c p a b cc m)) c x s) :
    GivesP (.cmp c p a b cc m) (activeCtx x c) s p (fun l => intCond cc (srcInt (activeCtx x c) m.ty a l) (srcInt (activeCtx x c) m.ty b l)) :=
  aluP_gives (f := fun x l => intCond cc (srcInt x m.ty a l) (srcInt x m.ty b l)) rfl h
theorem sel_gives (c : Ctl) (d : VK) (a b : Src) (p : Nat) (ty : IType)
    (h : Ready {} (Instr.use (.sel c d a b p ty)) c x s) :
    Gives (.sel c d a b p ty) (activeCtx x c) s ty.regs d (fun l => if (pget (activeCtx x c).sk p).getLsbD l then srcBits (activeCtx x c) ty a l else srcBits (activeCtx x c) ty b l) :=
  alu_gives (f := fun x l => if (pget x.sk p).getLsbD l then srcBits x ty a l else srcBits x ty b l) rfl h
theorem mov_gives (c : Ctl) (d : VK) (a : Src) (wide : Bool)
    (h : Ready {} (Instr.use (.mov c d a wide)) c x s) :
    Gives (.mov c d a wide) (activeCtx x c) s (wideRegs wide) d (fun l => srcBits (activeCtx x c) (plainType wide) a l) :=
  alu_gives (f := fun x l => srcBits x (plainType wide) a l) rfl h
theorem movk_gives (c : Ctl) (d a : Nat) (b : Src)
    (h : Ready {} (Instr.use (.movk c d a b)) c x s) :
    Gives (.movk c d a b) (activeCtx x c) s 1 (.k d) (fun l => (vRead (activeCtx x c) a ((srcWord (activeCtx x c) b l).toNat % 128)).setWidth 64) :=
  alu_gives (f := fun x l => (vRead x a ((srcWord x b l).toNat % 128)).setWidth 64) rfl h
theorem lea_gives (c : Ctl) (d : VK) (a b : Src) (signed : Bool) (sh : Nat)
    (h : Ready {} (Instr.use (.lea c d a b signed sh)) c x s) :
    Gives (.lea c d a b signed sh) (activeCtx x c) s 2 d (fun l => srcPair (activeCtx x c) false a l + ((if signed then (srcWord (activeCtx x c) b l).signExtend 64 else (srcWord (activeCtx x c) b l).setWidth 64) <<< sh)) :=
  alu_gives (f := fun x l => srcPair x false a l + ((if signed then (srcWord x b l).signExtend 64 else (srcWord x b l).setWidth 64) <<< sh)) rfl h
theorem idx_gives (c : Ctl) (d : VK) (a : Src) (what : IdxWhat)
    (h : Ready {} (Instr.use (.idx c d a what)) c x s) :
    Gives (.idx c d a what) (activeCtx x c) s 1 d (fun l => (BitVec.ofNat 32 (idxValue s (activeCtx x c) what l) + srcWord (activeCtx x c) a l).setWidth 64) :=
  alu_gives (f := fun x l => (BitVec.ofNat 32 (idxValue s x what l) + srcWord x a l).setWidth 64) rfl h
theorem and_gives (c : Ctl) (d : VK) (a b : Src) (wide : Bool)
    (h : Ready {} (Instr.use (.and c d a b wide)) c x s) :
    Gives (.and c d a b wide) (activeCtx x c) s (wideRegs wide) d (fun l => srcBits (activeCtx x c) (plainType wide) a l &&& srcBits (activeCtx x c) (plainType wide) b l) :=
  alu_gives (f := fun x l => srcBits x (plainType wide) a l &&& srcBits x (plainType wide) b l) rfl h
theorem or_gives (c : Ctl) (d : VK) (a b : Src) (wide : Bool)
    (h : Ready {} (Instr.use (.or c d a b wide)) c x s) :
    Gives (.or c d a b wide) (activeCtx x c) s (wideRegs wide) d (fun l => srcBits (activeCtx x c) (plainType wide) a l ||| srcBits (activeCtx x c) (plainType wide) b l) :=
  alu_gives (f := fun x l => srcBits x (plainType wide) a l ||| srcBits x (plainType wide) b l) rfl h
theorem xor_gives (c : Ctl) (d : VK) (a b : Src) (wide : Bool)
    (h : Ready {} (Instr.use (.xor c d a b wide)) c x s) :
    Gives (.xor c d a b wide) (activeCtx x c) s (wideRegs wide) d (fun l => srcBits (activeCtx x c) (plainType wide) a l ^^^ srcBits (activeCtx x c) (plainType wide) b l) :=
  alu_gives (f := fun x l => srcBits x (plainType wide) a l ^^^ srcBits x (plainType wide) b l) rfl h
theorem not_gives (c : Ctl) (d : VK) (a : Src) (wide : Bool)
    (h : Ready {} (Instr.use (.not c d a wide)) c x s) :
    Gives (.not c d a wide) (activeCtx x c) s (wideRegs wide) d (fun l => ~~~srcBits (activeCtx x c) (plainType wide) a l) :=
  alu_gives (f := fun x l => ~~~srcBits x (plainType wide) a l) rfl h
theorem tlut_gives (c : Ctl) (d : VK) (a b : Src) (cc : VK) (tbl : BitVec 8)
    (h : Ready {} (Instr.use (.tlut c d a b cc tbl)) c x s) :
    Gives (.tlut c d a b cc tbl) (activeCtx x c) s 1 d (fun l => (tlutWord tbl (srcWord (activeCtx x c) a l) (srcWord (activeCtx x c) b l) (vkWord (activeCtx x c) cc l)).setWidth 64) :=
  alu_gives (f := fun x l => (tlutWord tbl (srcWord x a l) (srcWord x b l) (vkWord x cc l)).setWidth 64) rfl h
theorem bfx_gives (c : Ctl) (d : VK) (a b : Src) (ty : IType)
    (h : Ready {} (Instr.use (.bfx c d a b ty)) c x s) :
    Gives (.bfx c d a b ty) (activeCtx x c) s ty.regs d (fun l => bfxBits ty (srcInt (activeCtx x c) ty a l) (srcWord (activeCtx x c) b l)) :=
  alu_gives (f := fun x l => bfxBits ty (srcInt x ty a l) (srcWord x b l)) rfl h
theorem bfi_gives (c : Ctl) (d : VK) (a b : Src) (cc : VK) (ty : IType)
    (h : Ready {} (Instr.use (.bfi c d a b cc ty)) c x s) :
    Gives (.bfi c d a b cc ty) (activeCtx x c) s ty.regs d (fun l => bfiBits ty (srcPat (activeCtx x c) ty a l) (srcPat (activeCtx x c) ty b l) (vkWord (activeCtx x c) cc l)) :=
  alu_gives (f := fun x l => bfiBits ty (srcPat x ty a l) (srcPat x ty b l) (vkWord x cc l)) rfl h
theorem bpick_gives (c : Ctl) (d : VK) (a b : Src) (cc : VK)
    (h : Ready {} (Instr.use (.bpick c d a b cc)) c x s) :
    Gives (.bpick c d a b cc) (activeCtx x c) s 1 d (fun l => (bpickWord (srcWord (activeCtx x c) a l) (srcWord (activeCtx x c) b l) (vkWord (activeCtx x c) cc l)).setWidth 64) :=
  alu_gives (f := fun x l => (bpickWord (srcWord x a l) (srcWord x b l) (vkWord x cc l)).setWidth 64) rfl h
theorem lperm_gives (c : Ctl) (d : VK) (a b : Src) (mode : PermMode) (wide : Bool)
    (h : Ready {} (Instr.use (.lperm c d a b mode wide)) c x s) :
    Gives (.lperm c d a b mode wide) (activeCtx x c) s (wideRegs wide) d (fun l => srcBits (activeCtx x c) (plainType wide) a (lpermLane mode (srcWord (activeCtx x c) b l) l)) :=
  alu_gives (f := fun x l => srcBits x (plainType wide) a (lpermLane mode (srcWord x b l) l)) rfl h
theorem xchg_gives (c : Ctl) (d : VK) (a b : Src)
    (h : Ready {} (Instr.use (.xchg c d a b)) c x s) :
    Gives (.xchg c d a b) (activeCtx x c) s 1 d (fun l => (srcWord (activeCtx x c) a (l ^^^ (srcWord (activeCtx x c) b l).toNat % 128)).setWidth 64) :=
  alu_gives (f := fun x l => (srcWord x a (l ^^^ (srcWord x b l).toNat % 128)).setWidth 64) rfl h
theorem kred_gives (c : Ctl) (d a : Nat) (op : KredOp) (m : IMod)
    (h : Ready {} (Instr.use (.kred c d a op m)) c x s) :
    Gives (.kred c d a op m) (activeCtx x c) s m.ty.regs (.k d) (fun _ => kredBits op m ((lanesOf (activeCtx x c).act).map (srcInt (activeCtx x c) m.ty (.v a))) ((lanesOf (activeCtx x c).act).map (srcPat (activeCtx x c) m.ty (.v a)))) :=
  alu_gives (f := fun x _ => kredBits op m ((lanesOf x.act).map (srcInt x m.ty (.v a))) ((lanesOf x.act).map (srcPat x m.ty (.v a)))) rfl h
theorem lanemask_gives (c : Ctl) (d : Nat) (rel : LmRel)
    (h : Ready {} (Instr.use (.lanemask c d rel)) c x s) :
    Gives (.lanemask c d rel) (activeCtx x c) s 1 (.v d) (fun l => (bitsOf 32 (fun i => lmRel rel i (l % 32))).setWidth 64) :=
  alu_gives (f := fun _ l => (bitsOf 32 (fun i => lmRel rel i (l % 32))).setWidth 64) rfl h
theorem pset_gives (c : Ctl) (d a b : Nat) (op : PsetOp)
    (h : Ready {} (Instr.use (.pset c d a b op)) c x s) :
    GivesP (.pset c d a b op) (activeCtx x c) s d (fun l => psetBit op ((pget (activeCtx x c).sk a).getLsbD l) ((pget (activeCtx x c).sk b).getLsbD l)) :=
  aluP_gives (f := fun x l => psetBit op ((pget x.sk a).getLsbD l) ((pget x.sk b).getLsbD l)) rfl h
theorem fadd_gives (c : Ctl) (d : VK) (a b : Src) (m : FMod)
    (h : Ready { activeMarks := true } (Instr.use (.fadd c d a b m)) c x s) :
    Gives (.fadd c d a b m) (activeCtx x c) s 1 d (fun l => BitVec.ofNat 64 (satCode .f32 m.m5 (fpAdd .f32 m (opA .f32 m false (srcF (activeCtx x c) .f32 a l)) (opB .f32 m false (srcF (activeCtx x c) .f32 b l))))) :=
  alu_gives (f := fun x l => BitVec.ofNat 64 (satCode .f32 m.m5 (fpAdd .f32 m (opA .f32 m false (srcF x .f32 a l)) (opB .f32 m false (srcF x .f32 b l))))) rfl h
theorem fmul_gives (c : Ctl) (d : VK) (a b : Src) (m : FMod)
    (h : Ready { activeMarks := true } (Instr.use (.fmul c d a b m)) c x s) :
    Gives (.fmul c d a b m) (activeCtx x c) s 1 d (fun l => BitVec.ofNat 64 (satCode .f32 m.m5 (fpMul .f32 m (opA .f32 m false (srcF (activeCtx x c) .f32 a l)) (opB .f32 m false (srcF (activeCtx x c) .f32 b l))))) :=
  alu_gives (f := fun x l => BitVec.ofNat 64 (satCode .f32 m.m5 (fpMul .f32 m (opA .f32 m false (srcF x .f32 a l)) (opB .f32 m false (srcF x .f32 b l))))) rfl h
theorem ffma_gives (c : Ctl) (d : VK) (a b : Src) (cc : VK) (m : FMod)
    (h : Ready { activeMarks := true } (Instr.use (.ffma c d a b cc m)) c x s) :
    Gives (.ffma c d a b cc m) (activeCtx x c) s 1 d (fun l => BitVec.ofNat 64 (satCode .f32 m.m5 (fpFma .f32 m (opA .f32 m true (srcF (activeCtx x c) .f32 a l)) (opB .f32 m true (srcF (activeCtx x c) .f32 b l)) (opC .f32 m (vkF (activeCtx x c) .f32 cc l))))) :=
  alu_gives (f := fun x l => BitVec.ofNat 64 (satCode .f32 m.m5 (fpFma .f32 m (opA .f32 m true (srcF x .f32 a l)) (opB .f32 m true (srcF x .f32 b l)) (opC .f32 m (vkF x .f32 cc l))))) rfl h
theorem fmnx_gives (c : Ctl) (d : VK) (a b : Src) (isMax : Bool) (m : FMod)
    (h : Ready { activeMarks := true } (Instr.use (.fmnx c d a b isMax m)) c x s) :
    Gives (.fmnx c d a b isMax m) (activeCtx x c) s 1 d (fun l => BitVec.ofNat 64 (satCode .f32 m.m5 (fpMnx .f32 isMax (opA .f32 m false (srcF (activeCtx x c) .f32 a l)) (opB .f32 m false (srcF (activeCtx x c) .f32 b l))))) :=
  alu_gives (f := fun x l => BitVec.ofNat 64 (satCode .f32 m.m5 (fpMnx .f32 isMax (opA .f32 m false (srcF x .f32 a l)) (opB .f32 m false (srcF x .f32 b l))))) rfl h
theorem fcmp_gives (c : Ctl) (p : Nat) (a b : Src) (cc : FCond) (m : FMod)
    (h : Ready { activeMarks := true } (Instr.use (.fcmp c p a b cc m)) c x s) :
    GivesP (.fcmp c p a b cc m) (activeCtx x c) s p (fun l => fpCmp .f32 cc (opA .f32 m false (srcF (activeCtx x c) .f32 a l)) (opB .f32 m false (srcF (activeCtx x c) .f32 b l))) :=
  aluP_gives (f := fun x l => fpCmp .f32 cc (opA .f32 m false (srcF x .f32 a l)) (opB .f32 m false (srcF x .f32 b l))) rfl h
theorem fcls_gives (c : Ctl) (p : Nat) (a b : Src) (m : FMod)
    (h : Ready { activeMarks := true } (Instr.use (.fcls c p a b m)) c x s) :
    GivesP (.fcls c p a b m) (activeCtx x c) s p (fun l => bitAt ((srcWord (activeCtx x c) b l).toNat % 1024) (fpClass .f32 (opA .f32 m false (srcF (activeCtx x c) .f32 a l)))) :=
  aluP_gives (f := fun x l => bitAt ((srcWord x b l).toNat % 1024) (fpClass .f32 (opA .f32 m false (srcF x .f32 a l)))) rfl h
theorem frnd_gives (c : Ctl) (d : VK) (a : Src) (m : FMod)
    (h : Ready { activeMarks := true } (Instr.use (.frnd c d a m)) c x s) :
    Gives (.frnd c d a m) (activeCtx x c) s 1 d (fun l => BitVec.ofNat 64 (satCode .f32 m.m5 (fpRnd .f32 m (opA .f32 m false (srcF (activeCtx x c) .f32 a l))))) :=
  alu_gives (f := fun x l => BitVec.ofNat 64 (satCode .f32 m.m5 (fpRnd .f32 m (opA .f32 m false (srcF x .f32 a l))))) rfl h
theorem fscl_gives (c : Ctl) (d : VK) (a b : Src) (m : FMod)
    (h : Ready { activeMarks := true } (Instr.use (.fscl c d a b m)) c x s) :
    Gives (.fscl c d a b m) (activeCtx x c) s 1 d (fun l => BitVec.ofNat 64 (satCode .f32 m.m5 (fpScl .f32 m (opA .f32 m false (srcF (activeCtx x c) .f32 a l)) (expOf (activeCtx x c) b l)))) :=
  alu_gives (f := fun x l => BitVec.ofNat 64 (satCode .f32 m.m5 (fpScl .f32 m (opA .f32 m false (srcF x .f32 a l)) (expOf x b l)))) rfl h
theorem dadd_gives (c : Ctl) (d : VK) (a b : Src) (m : FMod)
    (h : Ready { activeMarks := true } (Instr.use (.dadd c d a b m)) c x s) :
    Gives (.dadd c d a b m) (activeCtx x c) s 2 d (fun l => BitVec.ofNat 64 (satCode .f64 m.m5 (fpAdd .f64 m (opA .f64 m false (srcF (activeCtx x c) .f64 a l)) (opB .f64 m false (srcF (activeCtx x c) .f64 b l))))) :=
  alu_gives (f := fun x l => BitVec.ofNat 64 (satCode .f64 m.m5 (fpAdd .f64 m (opA .f64 m false (srcF x .f64 a l)) (opB .f64 m false (srcF x .f64 b l))))) rfl h
theorem dmul_gives (c : Ctl) (d : VK) (a b : Src) (m : FMod)
    (h : Ready { activeMarks := true } (Instr.use (.dmul c d a b m)) c x s) :
    Gives (.dmul c d a b m) (activeCtx x c) s 2 d (fun l => BitVec.ofNat 64 (satCode .f64 m.m5 (fpMul .f64 m (opA .f64 m false (srcF (activeCtx x c) .f64 a l)) (opB .f64 m false (srcF (activeCtx x c) .f64 b l))))) :=
  alu_gives (f := fun x l => BitVec.ofNat 64 (satCode .f64 m.m5 (fpMul .f64 m (opA .f64 m false (srcF x .f64 a l)) (opB .f64 m false (srcF x .f64 b l))))) rfl h
theorem dfma_gives (c : Ctl) (d : VK) (a b : Src) (cc : VK) (m : FMod)
    (h : Ready { activeMarks := true } (Instr.use (.dfma c d a b cc m)) c x s) :
    Gives (.dfma c d a b cc m) (activeCtx x c) s 2 d (fun l => BitVec.ofNat 64 (satCode .f64 m.m5 (fpFma .f64 m (opA .f64 m true (srcF (activeCtx x c) .f64 a l)) (opB .f64 m true (srcF (activeCtx x c) .f64 b l)) (opC .f64 m (vkF (activeCtx x c) .f64 cc l))))) :=
  alu_gives (f := fun x l => BitVec.ofNat 64 (satCode .f64 m.m5 (fpFma .f64 m (opA .f64 m true (srcF x .f64 a l)) (opB .f64 m true (srcF x .f64 b l)) (opC .f64 m (vkF x .f64 cc l))))) rfl h
theorem dmnx_gives (c : Ctl) (d : VK) (a b : Src) (isMax : Bool) (m : FMod)
    (h : Ready { activeMarks := true } (Instr.use (.dmnx c d a b isMax m)) c x s) :
    Gives (.dmnx c d a b isMax m) (activeCtx x c) s 2 d (fun l => BitVec.ofNat 64 (satCode .f64 m.m5 (fpMnx .f64 isMax (opA .f64 m false (srcF (activeCtx x c) .f64 a l)) (opB .f64 m false (srcF (activeCtx x c) .f64 b l))))) :=
  alu_gives (f := fun x l => BitVec.ofNat 64 (satCode .f64 m.m5 (fpMnx .f64 isMax (opA .f64 m false (srcF x .f64 a l)) (opB .f64 m false (srcF x .f64 b l))))) rfl h
theorem dcmp_gives (c : Ctl) (p : Nat) (a b : Src) (cc : FCond) (m : FMod)
    (h : Ready { activeMarks := true } (Instr.use (.dcmp c p a b cc m)) c x s) :
    GivesP (.dcmp c p a b cc m) (activeCtx x c) s p (fun l => fpCmp .f64 cc (opA .f64 m false (srcF (activeCtx x c) .f64 a l)) (opB .f64 m false (srcF (activeCtx x c) .f64 b l))) :=
  aluP_gives (f := fun x l => fpCmp .f64 cc (opA .f64 m false (srcF x .f64 a l)) (opB .f64 m false (srcF x .f64 b l))) rfl h
theorem dcls_gives (c : Ctl) (p : Nat) (a b : Src) (m : FMod)
    (h : Ready { activeMarks := true } (Instr.use (.dcls c p a b m)) c x s) :
    GivesP (.dcls c p a b m) (activeCtx x c) s p (fun l => bitAt ((srcWord (activeCtx x c) b l).toNat % 1024) (fpClass .f64 (opA .f64 m false (srcF (activeCtx x c) .f64 a l)))) :=
  aluP_gives (f := fun x l => bitAt ((srcWord x b l).toNat % 1024) (fpClass .f64 (opA .f64 m false (srcF x .f64 a l)))) rfl h
theorem drnd_gives (c : Ctl) (d : VK) (a : Src) (m : FMod)
    (h : Ready { activeMarks := true } (Instr.use (.drnd c d a m)) c x s) :
    Gives (.drnd c d a m) (activeCtx x c) s 2 d (fun l => BitVec.ofNat 64 (satCode .f64 m.m5 (fpRnd .f64 m (opA .f64 m false (srcF (activeCtx x c) .f64 a l))))) :=
  alu_gives (f := fun x l => BitVec.ofNat 64 (satCode .f64 m.m5 (fpRnd .f64 m (opA .f64 m false (srcF x .f64 a l))))) rfl h
theorem dscl_gives (c : Ctl) (d : VK) (a b : Src) (m : FMod)
    (h : Ready { activeMarks := true } (Instr.use (.dscl c d a b m)) c x s) :
    Gives (.dscl c d a b m) (activeCtx x c) s 2 d (fun l => BitVec.ofNat 64 (satCode .f64 m.m5 (fpScl .f64 m (opA .f64 m false (srcF (activeCtx x c) .f64 a l)) (expOf (activeCtx x c) b l)))) :=
  alu_gives (f := fun x l => BitVec.ofNat 64 (satCode .f64 m.m5 (fpScl .f64 m (opA .f64 m false (srcF x .f64 a l)) (expOf x b l)))) rfl h
theorem hadd_gives (c : Ctl) (d : VK) (a b : Src) (m : FMod)
    (h : Ready { activeMarks := true } (Instr.use (.hadd c d a b m)) c x s) :
    Gives (.hadd c d a b m) (activeCtx x c) s 1 d (fun l => packed (fun j => fpAdd (hFmt m) m (opA (hFmt m) m false (halfOf (activeCtx x c) a l j)) (opB (hFmt m) m false (halfOf (activeCtx x c) b l j)))) :=
  alu_gives (f := fun x l => packed (fun j => fpAdd (hFmt m) m (opA (hFmt m) m false (halfOf x a l j)) (opB (hFmt m) m false (halfOf x b l j)))) rfl h
theorem hmul_gives (c : Ctl) (d : VK) (a b : Src) (m : FMod)
    (h : Ready { activeMarks := true } (Instr.use (.hmul c d a b m)) c x s) :
    Gives (.hmul c d a b m) (activeCtx x c) s 1 d (fun l => packed (fun j => fpMul (hFmt m) m (opA (hFmt m) m false (halfOf (activeCtx x c) a l j)) (opB (hFmt m) m false (halfOf (activeCtx x c) b l j)))) :=
  alu_gives (f := fun x l => packed (fun j => fpMul (hFmt m) m (opA (hFmt m) m false (halfOf x a l j)) (opB (hFmt m) m false (halfOf x b l j)))) rfl h
theorem hfma_gives (c : Ctl) (d : VK) (a b : Src) (cc : VK) (m : FMod)
    (h : Ready { activeMarks := true } (Instr.use (.hfma c d a b cc m)) c x s) :
    Gives (.hfma c d a b cc m) (activeCtx x c) s 1 d (fun l => packed (fun j => fpFma (hFmt m) m (opA (hFmt m) m true (halfOf (activeCtx x c) a l j)) (opB (hFmt m) m true (halfOf (activeCtx x c) b l j)) (opC (hFmt m) m (vkHalf (activeCtx x c) cc l j)))) :=
  alu_gives (f := fun x l => packed (fun j => fpFma (hFmt m) m (opA (hFmt m) m true (halfOf x a l j)) (opB (hFmt m) m true (halfOf x b l j)) (opC (hFmt m) m (vkHalf x cc l j)))) rfl h
theorem hmnx_gives (c : Ctl) (d : VK) (a b : Src) (isMax : Bool) (m : FMod)
    (h : Ready { activeMarks := true } (Instr.use (.hmnx c d a b isMax m)) c x s) :
    Gives (.hmnx c d a b isMax m) (activeCtx x c) s 1 d (fun l => packed (fun j => fpMnx (hFmt m) isMax (opA (hFmt m) m false (halfOf (activeCtx x c) a l j)) (opB (hFmt m) m false (halfOf (activeCtx x c) b l j)))) :=
  alu_gives (f := fun x l => packed (fun j => fpMnx (hFmt m) isMax (opA (hFmt m) m false (halfOf x a l j)) (opB (hFmt m) m false (halfOf x b l j)))) rfl h
theorem hrnd_gives (c : Ctl) (d : VK) (a : Src) (m : FMod)
    (h : Ready { activeMarks := true } (Instr.use (.hrnd c d a m)) c x s) :
    Gives (.hrnd c d a m) (activeCtx x c) s 1 d (fun l => packed (fun j => fpRnd (hFmt m) m (opA (hFmt m) m false (halfOf (activeCtx x c) a l j)))) :=
  alu_gives (f := fun x l => packed (fun j => fpRnd (hFmt m) m (opA (hFmt m) m false (halfOf x a l j)))) rfl h
theorem hscl_gives (c : Ctl) (d : VK) (a b : Src) (m : FMod)
    (h : Ready { activeMarks := true } (Instr.use (.hscl c d a b m)) c x s) :
    Gives (.hscl c d a b m) (activeCtx x c) s 1 d (fun l => packed (fun j => fpScl (hFmt m) m (opA (hFmt m) m false (halfOf (activeCtx x c) a l j)) (expOf (activeCtx x c) b l))) :=
  alu_gives (f := fun x l => packed (fun j => fpScl (hFmt m) m (opA (hFmt m) m false (halfOf x a l j)) (expOf x b l))) rfl h
theorem cvt_gives (c : Ctl) (d : VK) (a : Src) (r : RMode) (dst src : FF)
    (h : Ready { activeMarks := true } (Instr.use (.cvt c d a r dst src)) c x s) :
    Gives (.cvt c d a r dst src) (activeCtx x c) s dst.regs d (fun l => BitVec.ofNat 64 (roundFF dst r (ffDecode src (srcF (activeCtx x c) src a l)))) :=
  alu_gives (f := fun x l => BitVec.ofNat 64 (roundFF dst r (ffDecode src (srcF x src a l)))) rfl h
theorem pack_gives (c : Ctl) (d : VK) (a b : Src) (r : RMode) (sat bf : Bool)
    (h : Ready { activeMarks := true } (Instr.use (.pack c d a b r sat bf)) c x s) :
    Gives (.pack c d a b r sat bf) (activeCtx x c) s 1 d (fun l => packed (fun j => satCode (halfFmt bf) sat (roundFF (halfFmt bf) r (ffDecode .f32 (srcF (activeCtx x c) .f32 (if j = 0 then a else b) l))))) :=
  alu_gives (f := fun x l => packed (fun j => satCode (halfFmt bf) sat (roundFF (halfFmt bf) r (ffDecode .f32 (srcF x .f32 (if j = 0 then a else b) l))))) rfl h
theorem unpk_gives (c : Ctl) (d : VK) (a : Src) (bf : Bool)
    (h : Ready { activeMarks := true } (Instr.use (.unpk c d a bf)) c x s) :
    Gives (.unpk c d a bf) (activeCtx x c) s 2 d (fun l => let up := fun j => roundFF .f32 .rne (ffDecode (halfFmt bf) (halfOf (activeCtx x c) a l j))
    BitVec.ofNat 64 (up 0 + up 1 * 2 ^ 32)) :=
  alu_gives (f := fun x l => let up := fun j => roundFF .f32 .rne (ffDecode (halfFmt bf) (halfOf x a l j))
    BitVec.ofNat 64 (up 0 + up 1 * 2 ^ 32)) rfl h
theorem cvti_gives (c : Ctl) (d : VK) (a : Src) (r : RMode) (src : FF) (dst : IWid) (signed : Bool)
    (h : Ready { activeMarks := true } (Instr.use (.cvti c d a r src dst signed)) c x s) :
    Gives (.cvti c d a r src dst signed) (activeCtx x c) s dst.regs d (fun l => intBits (convInt r (widType dst signed) (ffDecode src (srcF (activeCtx x c) src a l)))) :=
  alu_gives (f := fun x l => intBits (convInt r (widType dst signed) (ffDecode src (srcF x src a l)))) rfl h
theorem cvtf_gives (c : Ctl) (d : VK) (a : Src) (r : RMode) (dst : FF) (src : IWid) (signed : Bool)
    (h : Ready { activeMarks := true } (Instr.use (.cvtf c d a r dst src signed)) c x s) :
    Gives (.cvtf c d a r dst src signed) (activeCtx x c) s dst.regs d (fun l => BitVec.ofNat 64 (roundFF dst r (fOfInt (srcInt (activeCtx x c) (widType src signed) a l)))) :=
  alu_gives (f := fun x l => BitVec.ofNat 64 (roundFF dst r (fOfInt (srcInt x (widType src signed) a l)))) rfl h
theorem cvts_gives (c : Ctl) (d : VK) (a : Src) (dst src : IType) (sat : Bool)
    (h : Ready { activeMarks := true } (Instr.use (.cvts c d a dst src sat)) c x s) :
    Gives (.cvts c d a dst src sat) (activeCtx x c) s dst.regs d (fun l => wrapOrSat ⟨dst, sat⟩ (srcInt (activeCtx x c) src a l)) :=
  alu_gives (f := fun x l => wrapOrSat ⟨dst, sat⟩ (srcInt x src a l)) rfl h

end Sys2Proof.Machine
end

