-- ==== Sys2Proof/Laws/Ints.lean ====
section
/-! SUPPORT. Wrapping and saturating (R54), and the ranges of operands read under a type (R53). -/

namespace Sys2Proof.Machine

theorem itMin_le_itMax (ty : IType) : itMin ty ≤ itMax ty := by cases ty <;> simp [itMin, itMax, itSigned, itWidth]

/-- WrapInt answers the integer of T congruent to its argument. -/
theorem isWrap_wrapInt (ty : IType) (x : Int) : IsWrap ty x (wrapInt ty x) := by
  unfold IsWrap wrapInt itMin itMax
  cases ty <;> simp only [itSigned, itWidth, if_true, if_false, Bool.false_eq_true, Int.bmod] <;> norm_num <;> omega

/-- SatInt answers the integer of T nearest to its argument. -/
theorem isSat_satInt (ty : IType) (x : Int) : IsSat ty x (satInt ty x) := by
  have := itMin_le_itMax ty
  unfold IsSat satInt
  refine ⟨?_, ?_, ?_⟩
  · intro h; rw [if_pos h]
  · intro h; rw [if_neg (by omega), if_pos h]
  · intro h1 h2; rw [if_neg (by omega), if_neg (by omega)]

/-- At most one integer of T is congruent to `x`. -/
theorem isWrap_unique {ty : IType} {x v w : Int} (h : IsWrap ty x v) (k : IsWrap ty x w) : v = w := by
  revert h k
  unfold IsWrap itMin itMax
  cases ty <;> simp only [itSigned, itWidth, if_true, if_false, Bool.false_eq_true] <;> norm_num <;> omega

theorem wrapInt_of_mem {ty : IType} {v : Int} (h1 : itMin ty ≤ v) (h2 : v ≤ itMax ty) : wrapInt ty v = v :=
  isWrap_unique (isWrap_wrapInt ty v) ⟨h1, h2, by simp⟩

theorem holdsResult_wrapOrSat (m : IMod) (x : Int) : HoldsResult m x (wrapOrSat m x) := by
  refine ⟨_, rfl, ?_⟩
  split
  · exact isSat_satInt _ _
  · exact isWrap_wrapInt _ _

theorem readInt_eq (ty : IType) (w : Nat) : readInt (itWidth ty) (itSigned ty) w = wrapInt ty (Int.ofNat w) := by
  unfold readInt wrapInt
  split
  · rfl
  · norm_num

/-- Operands read under T lie in T. -/
theorem srcInt_mem (x : Ctx) (ty : IType) (o : Src) (l : Nat) : itMin ty ≤ srcInt x ty o l ∧ srcInt x ty o l ≤ itMax ty := by
  unfold srcInt
  rw [readInt_eq]
  exact ⟨(isWrap_wrapInt _ _).1, (isWrap_wrapInt _ _).2.1⟩

theorem itWidth_pos (ty : IType) : 0 < itWidth ty := by cases ty <;> simp [itWidth]
theorem srcPat_lt (x : Ctx) (ty : IType) (o : Src) (l : Nat) : srcPat x ty o l < 2 ^ itWidth ty := Nat.mod_lt _ (by positivity)

/-- An n-bit pattern, extended, is held in its register. -/
theorem holdsPat_patBits (ty : IType) (r : Nat) : HoldsPat ty r (patBits ty r) := by
  refine ⟨wrapInt ty (Int.ofNat r), ?_, isWrap_wrapInt _ _⟩
  unfold Holds patBits intBits
  rw [readInt_eq]

/-- A completion with values that meet a condition. -/
theorem gives_some {i : Instr} {x : Ctx} {s : State} {w : Nat} {d : VK} {f : Nat → DWord} {p : Nat → DWord → Prop}
    (h : Gives i x s w d f) (hp : ∀ l, p l (f l)) : GivesSome i x s w d p := ⟨f, fun l _ => hp l, h⟩

end Sys2Proof.Machine
end

