-- ==== Sys2Proof/Laws/Memory.lean ====
section
/-! SUPPORT. Memory: reading back what was written, what a write leaves alone, and that every memory operation keeps the canonical form. -/

namespace Sys2Proof.Machine

/-! The canonical form. -/

theorem memWfFrom_mono {lo lo' : Nat} (h : lo' ≤ lo) : ∀ {m : List Host.Cell}, memWfFrom lo m = true → memWfFrom lo' m = true
  | [], _ => rfl
  | (k, b) :: r, w => by
    simp only [memWfFrom, Bool.and_eq_true, decide_eq_true_eq] at w ⊢
    exact ⟨⟨by omega, w.1.2⟩, w.2⟩
theorem memErase_wf (a : Nat) : ∀ {lo : Nat} {m : List Host.Cell}, memWfFrom lo m = true → memWfFrom lo (memErase m a) = true
  | _, [], _ => rfl
  | lo, (k, b) :: r, w => by
    simp only [memWfFrom, Bool.and_eq_true, decide_eq_true_eq] at w
    unfold memErase
    split
    · exact memErase_wf a (memWfFrom_mono (by omega) w.2)
    · simp only [memWfFrom, Bool.and_eq_true, decide_eq_true_eq]; exact ⟨w.1, memErase_wf a w.2⟩
theorem memPut_wf {a : Nat} {v : Byte} (hv : v ≠ 0) : ∀ {lo : Nat} {m : List Host.Cell}, lo ≤ a → memWfFrom lo m = true → memWfFrom lo (memPut m a v) = true
  | lo, [], h, _ => by simp only [memPut, memWfFrom, Bool.and_eq_true, decide_eq_true_eq]; exact ⟨⟨h, hv⟩, trivial⟩
  | lo, (k, b) :: r, h, w => by
    simp only [memWfFrom, Bool.and_eq_true, decide_eq_true_eq] at w
    unfold memPut
    split
    · simp only [memWfFrom, Bool.and_eq_true, decide_eq_true_eq]; exact ⟨w.1, memPut_wf hv (by omega) w.2⟩
    · split
      · subst_vars; simp only [memWfFrom, Bool.and_eq_true, decide_eq_true_eq]; exact ⟨⟨h, hv⟩, w.2⟩
      · simp only [memWfFrom, Bool.and_eq_true, decide_eq_true_eq]; exact ⟨⟨h, hv⟩, ⟨by omega, w.1.2⟩, w.2⟩
/-- Writing one byte keeps the canonical form. -/
theorem memSet_wf {m : List Host.Cell} (a : Nat) (v : Byte) (w : Memory.wf m = true) : Memory.wf (memSet m a v) = true := by
  unfold memSet Memory.wf at *
  split
  · exact memErase_wf a w
  · exact memPut_wf ‹_› (Nat.zero_le _) w
theorem memWrite_wf (bs : List Byte) : ∀ {m : List Host.Cell} (a : Nat), Memory.wf m = true → Memory.wf (memWrite m a bs) = true := by
  induction bs with
  | nil => intro m a w; exact w
  | cons b r ih => intro m a w; exact ih _ (memSet_wf a b w)
theorem foldl_memSet_wf (l : List Nat) (f : Nat → Nat) (g : Nat → Byte) : ∀ {m : List Host.Cell}, Memory.wf m = true →
    Memory.wf (l.foldl (fun m b => memSet m (f b) (g b)) m) = true := by
  induction l with
  | nil => intro m w; exact w
  | cons b r ih => intro m w; exact ih (memSet_wf _ _ w)
theorem memWriteMask_wf {m : List Host.Cell} (line : Nat) (mask : LMask) (d : LineData) (w : Memory.wf m = true) : Memory.wf (memWriteMask m line mask d) = true :=
  foldl_memSet_wf _ _ _ w

/-! Reading back. -/

theorem memGet_wf_lt {a : Nat} : ∀ {lo : Nat} {m : List Host.Cell}, memWfFrom lo m = true → a < lo → memGet m a = 0
  | _, [], _, _ => rfl
  | lo, (k, b) :: r, w, h => by
    simp only [memWfFrom, Bool.and_eq_true, decide_eq_true_eq] at w
    have : k ≠ a := by omega
    simp only [memGet, if_neg this]
    exact memGet_wf_lt w.2 (by omega)
theorem memGet_memErase (a z : Nat) : ∀ m : List Host.Cell, memGet (memErase m a) z = if z = a then 0 else memGet m z
  | [] => by simp [memErase, memGet]
  | (k, b) :: r => by
    have ih := memGet_memErase a z r
    by_cases h : k = a <;> by_cases g : k = z <;> simp only [memErase, memGet, h, g, if_true, if_false, ih] <;> split <;> simp_all [memGet]
theorem memGet_memPut (a z : Nat) (v : Byte) : ∀ m : List Host.Cell, memGet (memPut m a v) z = if z = a then v else memGet m z
  | [] => by
    by_cases h : a = z
    · rw [if_pos h.symm]; simp only [memPut, memGet, if_pos h]
    · rw [if_neg (Ne.symm h)]; simp only [memPut, memGet, if_neg h]
  | (k, b) :: r => by
    have ih := memGet_memPut a z v r
    by_cases h : k < a
    · by_cases g : k = z
      · rw [if_neg (by omega)]; simp only [memPut, memGet, if_pos h, if_pos g]
      · simp only [memPut, memGet, if_pos h, if_neg g, ih]
    · by_cases g : a = z
      · rw [if_pos g.symm]; by_cases e : k = a <;> simp only [memPut, if_neg h, if_pos, e] <;> simp_all [memGet]
      · rw [if_neg (Ne.symm g)]
        by_cases e : k = a
        · simp only [memPut, memGet, if_neg h, if_pos e, if_neg g, if_neg (e ▸ g : ¬k = z)]
        · simp only [memPut, memGet, if_neg h, if_neg e, if_neg g]
/-- A byte written reads back, and every other byte is as before. -/
@[simp] theorem memGet_memSet (m : List Host.Cell) (a z : Nat) (v : Byte) : memGet (memSet m a v) z = if z = a then v else memGet m z := by
  unfold memSet
  split
  · rw [memGet_memErase]; simp_all
  · exact memGet_memPut a z v m
theorem memGet_memWrite (bs : List Byte) (z : Nat) : ∀ (m : List Host.Cell) (a : Nat),
    memGet (memWrite m a bs) z = if a ≤ z ∧ z < a + bs.length then bs.getD (z - a) 0 else memGet m z := by
  induction bs with
  | nil => intro m a; simp only [memWrite, List.length_nil]; rw [if_neg (by omega)]
  | cons b r ih =>
    intro m a
    simp only [memWrite, ih, memGet_memSet, List.length_cons]
    by_cases h : z = a
    · subst h; simp
    · rw [if_neg h]
      by_cases k : a + 1 ≤ z ∧ z < a + 1 + r.length
      · rw [if_pos k, if_pos (by omega)]
        obtain ⟨j, rfl⟩ : ∃ j, z = a + 1 + j := ⟨z - (a + 1), by omega⟩
        rw [show a + 1 + j - (a + 1) = j by omega, show a + 1 + j - a = j + 1 by omega]; rfl
      · rw [if_neg k, if_neg (by omega)]
theorem memGet_foldl_memSet (g : Nat → Byte) (base z : Nat) : ∀ (l : List Nat) (m : List Host.Cell), memGet (l.foldl (fun m b => memSet m (base + b) (g b)) m) z =
    if base ≤ z ∧ z - base ∈ l then g (z - base) else memGet m z
  | [], m => by simp
  | b :: r, m => by
    simp only [List.foldl_cons, memGet_foldl_memSet g base z r, memGet_memSet, List.mem_cons]
    by_cases h : z = base + b
    · subst h
      simp
    · by_cases k : base ≤ z ∧ z - base ∈ r
      · rw [if_pos k, if_pos ⟨k.1, Or.inr k.2⟩]
      · rw [if_neg k, if_neg h, if_neg]
        rintro ⟨h1, h2 | h2⟩
        · omega
        · exact k ⟨h1, h2⟩
/-- A masked write of a line gives the masked bytes their new values, and leaves every other byte of memory. -/
theorem memGet_memWriteMask (m : List Host.Cell) (line z : Nat) (mask : LMask) (d : LineData) : memGet (memWriteMask m line mask d) z =
    if z / 128 = line ∧ mask.getLsbD (z % 128) = true then lineByte d (z % 128) else memGet m z := by
  unfold memWriteMask
  rw [memGet_foldl_memSet (fun b => lineByte d b)]
  by_cases h : z / 128 = line
  · have e : z - 128 * line = z % 128 := by omega
    have l : 128 * line ≤ z := by omega
    simp only [e, l, h, true_and, mem_lanesOf]
  · rw [if_neg (c := z / 128 = line ∧ _) (fun e => h e.1), if_neg]
    rintro ⟨h1, h2⟩
    have := BitVec.lt_of_getLsbD ((mem_lanesOf _ _).mp h2)
    omega

/-! States. -/

theorem memOk_reset : MemOk State.reset := rfl
/-- A write of a line at its home keeps memory canonical. -/
theorem memOk_rawWrite {s : State} (line : Nat) (mask : LMask) (d : LineData) (h : MemOk s) : MemOk (rawWrite s line mask d) := memWriteMask_wf line mask d h
theorem memOk_of_mem {s t : State} (h : MemOk s) (e : t.mem = s.mem) : MemOk t := by unfold MemOk at *; rw [e]; exact h

end Sys2Proof.Machine
end

