-- ==== Sys2Proof/Laws/Keeps.lean ====
section
/-! SUPPORT. The shared operations that read memory, translate, walk, post requests, write records or take traps leave memory as it
is: memory changes where a slice accepts a write, and that keeps it canonical. -/

namespace Sys2Proof.Machine

theorem foldl_mem {α : Type} (f : State → α → State) (hf : ∀ s a, (f s a).mem = s.mem) (l : List α) : ∀ s : State, (l.foldl f s).mem = s.mem := by
  induction l with
  | nil => intro s; rfl
  | cons a r ih => intro s; exact (ih (f s a)).trans (hf s a)

/-! Requests of agents (R106, R108). -/

@[simp] theorem postReq_mem (s : State) (kind : ReqKind) (who : ReqOwner) (line : Nat) (pol : CPol) (owner die port : Nat) :
    (postReq s kind who line pol owner die port).2.mem = s.mem := rfl
@[simp] theorem updReq_mem (s : State) (id : Nat) (f : Req → Req) : (updReq s id f).mem = s.mem := rfl
@[simp] theorem dropReq_mem (s : State) (id : Nat) : (dropReq s id).mem = s.mem := rfl
@[simp] theorem engineWrite_mem (s : State) (who : ReqOwner) (die port owner : Nat) (pol : CPol) (pa : Nat) (bs : List Byte) :
    (engineWrite s who die port owner pol pa bs).mem = s.mem := by unfold engineWrite; split <;> rfl
@[simp] theorem engineWriteP_mem (s : State) (who : ReqOwner) (die port owner : Nat) (pol : CPol) (pa : Nat) (bs : List Byte) (bad : BitVec 4) :
    (engineWriteP s who die port owner pol pa bs bad).mem = s.mem := by simp [engineWriteP]
@[simp] theorem engineWrites_mem (s : State) (who : ReqOwner) (die port owner pa : Nat) (bs : List Byte) :
    (engineWrites s who die port owner pa bs).mem = s.mem := foldl_mem _ (fun _ _ => engineWrite_mem _ _ _ _ _ _ _ _) _ _
@[simp] theorem lineGet_mem (s : State) (a : Agent) (pa die port owner : Nat) (pol : CPol) : (lineGet s a pa die port owner pol).2.mem = s.mem := by
  unfold lineGet
  split
  · rfl
  · split
    · split <;> rfl
    · rfl
@[simp] theorem endAgent_mem (s : State) (a : Agent) : (endAgent s a).mem = s.mem := rfl

/-! Translation and reads (R88, R91, R93). -/

@[simp] theorem readIn_mem (s : State) (rd : Reader) (die pa n : Nat) : (readIn s rd die pa n).2.mem = s.mem := by
  have l := lineGet_mem s rd.1 pa die 15 rd.2 .keep
  unfold readIn
  split <;> rename_i h <;> rw [h] at l <;> exact l
@[simp] theorem readDesc_mem (s : State) (rd : Reader) (die ctx : Nat) : (readDesc s rd die ctx).2.mem = s.mem := by
  unfold readDesc
  dsimp only
  split
  · rfl
  · exact readIn_mem _ _ _ _ _
@[simp] theorem useDesc_mem (s : State) (rd : Reader) (die ctx : Nat) : (useDesc s rd die ctx).2.mem = s.mem := by
  unfold useDesc
  have r := readDesc_mem s rd die ctx
  split
  · rfl
  · split <;> rename_i h <;> rw [h] at r <;> exact r
theorem walkFrom_mem (rd : Reader) (die ctx va : Nat) (kind : WalkKind) (k : Nat) : ∀ (s : State) (level base : Nat),
    (walkFrom s rd die ctx va kind level base k).2.mem = s.mem := by
  induction k with
  | zero => intro s level base; rfl
  | succ k ih =>
    intro s level base
    have r := readIn_mem s rd die (base + 8 * levelIndex va level) 8
    unfold walkFrom
    dsimp only
    split
    · rw [ih]
    · split
      · rfl
      · split <;> rename_i h <;> rw [h] at r
        · exact r
        · repeat' split
          all_goals first | exact r | (rw [ih]; exact r)
@[simp] theorem walk_mem (s : State) (rd : Reader) (die ctx va : Nat) (kind : WalkKind) : (walk s rd die ctx va kind).2.mem = s.mem := by
  have u := useDesc_mem s rd die ctx
  unfold walk
  split
  · rfl
  · split <;> rename_i h <;> rw [h] at u
    · exact u
    · rename_i d s'
      have w := walkFrom_mem rd die ctx va kind 5 s' 0 (field d.1.toNat 8 44 * 256)
      split
      · exact u
      · split
        · exact u
        · split
          · rename_i g; rw [g] at w; exact w.trans u
          · exact w.trans u
@[simp] theorem tlbFill_mem (s : State) (core : Option Nat) (die : Nat) (e : TlbEntry) : (tlbFill s core die e).mem = s.mem := by unfold tlbFill; dsimp only; split <;> rfl
@[simp] theorem tlbUse_mem (s : State) (core : Option Nat) (die ctx va : Nat) : (tlbUse s core die ctx va).mem = s.mem := by
  unfold tlbUse
  repeat' split
  all_goals rfl
@[simp] theorem postWalk_mem (s : State) (a : Agent) (core : Option Nat) (die owner ctx va : Nat) (kind : WalkKind) :
    (postWalk s a core die owner ctx va kind).mem = s.mem := by unfold postWalk; dsimp only; split <;> rfl
@[simp] theorem translate_mem (s : State) (a : Agent) (core : Option Nat) (die owner ctx va : Nat) (kind : WalkKind) :
    (translate s a core die owner ctx va kind).2.mem = s.mem := by unfold translate; split <;> simp
/-- A translated access changes no byte of memory. -/
@[simp] theorem access_mem (s : State) (a : Agent) (core : Option Nat) (die owner ctx va : Nat) (kind : WalkKind) (u : Use) :
    (access s a core die owner ctx va kind u).2.mem = s.mem := by
  have t := translate_mem s a core die owner ctx (va57 va) kind
  unfold access
  split
  · rfl
  · split <;> rename_i h <;> rw [h] at t <;> exact t
theorem virtMap_mem (a : Agent) (core : Option Nat) (die owner ctx : Nat) (kind : WalkKind) (k : Nat) : ∀ (s : State) (va n : Nat),
    (virtMap s a core die owner ctx va n kind k).2.mem = s.mem := by
  induction k with
  | zero => intro s va n; rfl
  | succ k ih =>
    intro s va n
    unfold virtMap
    split
    · rfl
    · exact (ih _ _ _).trans (access_mem _ _ _ _ _ _ _ _ _)
theorem readLines_mem (a : Agent) (die port owner : Nat) (l : List VLine) : ∀ s : State, (readLines s a die port owner l).2.mem = s.mem := by
  induction l with
  | nil => intro s; rfl
  | cons e r ih =>
    intro s
    unfold readLines
    split
    · exact ih s
    · exact (ih _).trans (lineGet_mem _ _ _ _ _ _ _)
@[simp] theorem virtPeek_mem (s : State) (a : Agent) (core : Option Nat) (die owner ctx va n fuel : Nat) :
    (virtPeek s a core die owner ctx va n fuel).2.mem = s.mem := by
  have m := virtMap_mem a core die owner ctx .read fuel s va n
  unfold virtPeek
  split <;> rename_i h <;> rw [h] at m
  · exact m
  · exact (readLines_mem _ _ _ _ _ _).trans m
/-- Nor does a read through a context. -/
@[simp] theorem virtRead_mem (s : State) (a : Agent) (core : Option Nat) (die owner ctx va n fuel : Nat) :
    (virtRead s a core die owner ctx va n fuel).2.mem = s.mem := by
  have p := virtPeek_mem s a core die owner ctx va n fuel
  unfold virtRead
  split <;> rename_i h <;> rw [h] at p <;> exact p
theorem writeLines_mem (a : Agent) (die port owner : Nat) (l : List VLine) : ∀ (s : State) (bs : List Byte), (writeLines s a die port owner l bs).mem = s.mem := by
  induction l with
  | nil => intro s bs; rfl
  | cons e r ih =>
    intro s bs
    unfold writeLines
    dsimp only
    rw [ih]
    split
    · exact engineWrite_mem _ _ _ _ _ _ _ _
    · rfl
/-- A write through a context posts its requests: memory changes when the slices accept them. -/
@[simp] theorem virtWrite_mem (s : State) (a : Agent) (core : Option Nat) (die owner ctx va : Nat) (bs : List Byte) (fuel : Nat) :
    (virtWrite s a core die owner ctx va bs fuel).2.mem = s.mem := by
  have m := virtMap_mem a core die owner ctx .write fuel s va bs.length
  unfold virtWrite
  split <;> rename_i h <;> rw [h] at m
  · exact m
  · exact (writeLines_mem _ _ _ _ _ _ _).trans m

/-! Slices, rings and the monitor (R104, R411, R412). -/

@[simp] theorem setSlice_mem (s : State) (n : Nat) (sl : Slice) : (setSlice s n sl).mem = s.mem := rfl
@[simp] theorem evictWay_mem (s : State) (n k : Nat) : (evictWay s n k).mem = s.mem := by unfold evictWay; dsimp only; (repeat' split) <;> rfl
@[simp] theorem sliceTouch_mem (s : State) (line owner : Nat) (pol : CPol) (write : Bool) : (sliceTouch s line owner pol write).2.mem = s.mem := by
  unfold sliceTouch
  dsimp only
  split
  · rfl
  · split
    · split
      · rfl
      · rw [setSlice_mem, evictWay_mem]
    · rfl
@[simp] theorem settleRecords_mem (k : Nat) : ∀ s : State, (settleRecords s k).mem = s.mem := by
  induction k with
  | zero => intro s; rfl
  | succ k ih =>
    intro s
    unfold settleRecords
    split
    · rfl
    · dsimp only
      rw [ih]
      split <;> rfl
@[simp] theorem ringRecord_mem (s : State) (fault : Bool) (units : List (List DWord)) : (ringRecord s fault units).mem = s.mem := by
  unfold ringRecord
  dsimp only
  repeat' split
  all_goals first
    | rfl
    | (rw [settleRecords_mem]; exact foldl_mem _ (fun _ _ => engineWrite_mem _ _ _ _ _ _ _ _) _ _)
@[simp] theorem faultRecord_mem (s : State) (ws : List DWord) : (faultRecord s ws).mem = s.mem := ringRecord_mem _ _ _
@[simp] theorem eventUnits_mem (s : State) (us : List (List DWord)) : (eventUnits s us).mem = s.mem := ringRecord_mem _ _ _
@[simp] theorem eventRecord_mem (s : State) (ty cause q seq : Nat) (payload : List Nat) : (eventRecord s ty cause q seq payload).mem = s.mem := ringRecord_mem _ _ _
@[simp] theorem monitorWrite_mem (s : State) (line n port : Nat) (stamp : DWord) : (monitorWrite s line n port stamp).mem = s.mem := by
  refine foldl_mem _ (fun u j => ?_) _ s
  dsimp only
  split
  · exact eventRecord_mem _ _ _ _ _ _
  · rfl
/-- What a write accepted at a slice does to memory: its masked bytes, and nothing else (R104, R113). -/
theorem sliceWrite_mem (s : State) (line : Nat) (mask : LMask) (d : LineData) (port : Nat) :
    (sliceWrite s line mask d port).2.mem = memWriteMask s.mem line mask d := monitorWrite_mem _ _ _ _ _
/-- A slice write keeps memory canonical (R104, R113). -/
theorem memOk_sliceWrite {s : State} (line : Nat) (mask : LMask) (d : LineData) (port : Nat) (h : MemOk s) : MemOk (sliceWrite s line mask d port).2 := by
  unfold MemOk
  rw [sliceWrite_mem]
  exact memWriteMask_wf line mask d h

/-! Traps (R398 to R404). -/

@[simp] theorem updBolt_mem (s : State) (core bolt : Nat) (f : Bolt → Bolt) : (updBolt s core bolt f).mem = s.mem := rfl
@[simp] theorem dropFills_mem (s : State) (core : Nat) (line : Option Nat) : (dropFills s core line).mem = s.mem := rfl
@[simp] theorem takeFatal_mem (core slot : Nat) (finfo w1 w3 : DWord) (s : State) : (takeFatal core slot finfo w1 w3 s).mem = s.mem := by
  unfold takeFatal; split <;> rfl
/-- Taking a trap changes no byte of memory: the detail block goes by a request to its slice. -/
@[simp] theorem trapAt_mem (core slot path pc depth : Nat) (t : TrapInfo) (s : State) : (trapAt core slot path pc depth t s).mem = s.mem := by
  unfold trapAt
  split
  · rfl
  · lift_lets
    intro finfo w1 sk' s' l
    have e : s'.mem = s.mem := setSkein_mem _ _ _ _
    clear_value s' sk'
    split
    · rw [takeFatal_mem, e]
    · split
      · exact e
      · exact (updSkein_mem _ _ _ _).trans e
@[simp] theorem trapX_mem (x : Ctx) (t : TrapInfo) (s : State) : (trapX x t s).mem = s.mem := (trapAt_mem _ _ _ _ _ _ _).trans (onPath_mem _ _ _)

end Sys2Proof.Machine
end

