-- ==== Sys2Proof/Laws/PerInstr.lean ====
section
/-! SUPPORT. Statements made instruction by instruction. `encoding`: a well-formed instruction has a word exactly when it is an
instruction of the code, and no event of the device has one (R27, R34). -/

def Sys2Proof.Laws.encoding.Statement (i : Sys2Proof.Instr) : Prop := i.wf = true → (Sys2Proof.encode i).isSome = i.isCode

theorem Sys2Proof.Laws.encoding.clauseIssue : ∀ a0, Sys2Proof.Laws.encoding.Statement (Sys2Proof.Instr.clauseIssue a0) := by
  intros; intro _; rfl
theorem Sys2Proof.Laws.encoding.nop : Sys2Proof.Laws.encoding.Statement (Sys2Proof.Instr.nop) := by
  intros; intro _; rfl
theorem Sys2Proof.Laws.encoding.bra : ∀ a0 a1, Sys2Proof.Laws.encoding.Statement (Sys2Proof.Instr.bra a0 a1) := by
  intros; intro _; rfl
theorem Sys2Proof.Laws.encoding.brx : ∀ a0 a1, Sys2Proof.Laws.encoding.Statement (Sys2Proof.Instr.brx a0 a1) := by
  intros; intro _; rfl
theorem Sys2Proof.Laws.encoding.setj : ∀ a0 a1, Sys2Proof.Laws.encoding.Statement (Sys2Proof.Instr.setj a0 a1) := by
  intros; intro _; rfl
theorem Sys2Proof.Laws.encoding.join : ∀ a0, Sys2Proof.Laws.encoding.Statement (Sys2Proof.Instr.join a0) := by
  intros; intro _; rfl
theorem Sys2Proof.Laws.encoding.call : ∀ a0 a1 a2, Sys2Proof.Laws.encoding.Statement (Sys2Proof.Instr.call a0 a1 a2) := by
  intros; intro _; rfl
theorem Sys2Proof.Laws.encoding.callx : ∀ a0 a1 a2, Sys2Proof.Laws.encoding.Statement (Sys2Proof.Instr.callx a0 a1 a2) := by
  intros; intro _; rfl
theorem Sys2Proof.Laws.encoding.ret : ∀ a0, Sys2Proof.Laws.encoding.Statement (Sys2Proof.Instr.ret a0) := by
  intros; intro _; rfl
theorem Sys2Proof.Laws.encoding.exit : ∀ a0, Sys2Proof.Laws.encoding.Statement (Sys2Proof.Instr.exit a0) := by
  intros; intro _; rfl
theorem Sys2Proof.Laws.encoding.skeinEnd : ∀ a0 a1, Sys2Proof.Laws.encoding.Statement (Sys2Proof.Instr.skeinEnd a0 a1) := by
  intros; intro _; rfl
theorem Sys2Proof.Laws.encoding.kill : ∀ a0, Sys2Proof.Laws.encoding.Statement (Sys2Proof.Instr.kill a0) := by
  intros; intro _; rfl
theorem Sys2Proof.Laws.encoding.yield : ∀ a0, Sys2Proof.Laws.encoding.Statement (Sys2Proof.Instr.yield a0) := by
  intros; intro _; rfl
theorem Sys2Proof.Laws.encoding.sleep : ∀ a0 a1, Sys2Proof.Laws.encoding.Statement (Sys2Proof.Instr.sleep a0 a1) := by
  intros; intro _; rfl
theorem Sys2Proof.Laws.encoding.sleepExpiry : ∀ a0 a1 a2, Sys2Proof.Laws.encoding.Statement (Sys2Proof.Instr.sleepExpiry a0 a1 a2) := by
  intros; intro _; rfl
theorem Sys2Proof.Laws.encoding.trap : ∀ a0 a1, Sys2Proof.Laws.encoding.Statement (Sys2Proof.Instr.trap a0 a1) := by
  intros; intro _; rfl
theorem Sys2Proof.Laws.encoding.brk : ∀ a0 a1, Sys2Proof.Laws.encoding.Statement (Sys2Proof.Instr.brk a0 a1) := by
  intros; intro _; rfl
theorem Sys2Proof.Laws.encoding.rte : ∀ a0, Sys2Proof.Laws.encoding.Statement (Sys2Proof.Instr.rte a0) := by
  intros; intro _; rfl
theorem Sys2Proof.Laws.encoding.stitch : ∀ a0 a1 a2 a3, Sys2Proof.Laws.encoding.Statement (Sys2Proof.Instr.stitch a0 a1 a2 a3) := by
  intros; intro _; rfl
theorem Sys2Proof.Laws.encoding.add : ∀ a0 a1 a2 a3 a4, Sys2Proof.Laws.encoding.Statement (Sys2Proof.Instr.add a0 a1 a2 a3 a4) := by
  intros; intro _; rfl
theorem Sys2Proof.Laws.encoding.sub : ∀ a0 a1 a2 a3 a4, Sys2Proof.Laws.encoding.Statement (Sys2Proof.Instr.sub a0 a1 a2 a3 a4) := by
  intros; intro _; rfl
theorem Sys2Proof.Laws.encoding.addc : ∀ a0 a1 a2 a3 a4 a5, Sys2Proof.Laws.encoding.Statement (Sys2Proof.Instr.addc a0 a1 a2 a3 a4 a5) := by
  intros; intro _; rfl
theorem Sys2Proof.Laws.encoding.subc : ∀ a0 a1 a2 a3 a4 a5, Sys2Proof.Laws.encoding.Statement (Sys2Proof.Instr.subc a0 a1 a2 a3 a4 a5) := by
  intros; intro _; rfl
theorem Sys2Proof.Laws.encoding.mul : ∀ a0 a1 a2 a3 a4, Sys2Proof.Laws.encoding.Statement (Sys2Proof.Instr.mul a0 a1 a2 a3 a4) := by
  intros; intro _; rfl
theorem Sys2Proof.Laws.encoding.mulh : ∀ a0 a1 a2 a3 a4, Sys2Proof.Laws.encoding.Statement (Sys2Proof.Instr.mulh a0 a1 a2 a3 a4) := by
  intros; intro _; rfl
theorem Sys2Proof.Laws.encoding.mad : ∀ a0 a1 a2 a3 a4 a5, Sys2Proof.Laws.encoding.Statement (Sys2Proof.Instr.mad a0 a1 a2 a3 a4 a5) := by
  intros; intro _; rfl
theorem Sys2Proof.Laws.encoding.madw : ∀ a0 a1 a2 a3 a4 a5, Sys2Proof.Laws.encoding.Statement (Sys2Proof.Instr.madw a0 a1 a2 a3 a4 a5) := by
  intros; intro _; rfl
theorem Sys2Proof.Laws.encoding.div : ∀ a0 a1 a2 a3 a4, Sys2Proof.Laws.encoding.Statement (Sys2Proof.Instr.div a0 a1 a2 a3 a4) := by
  intros; intro _; rfl
theorem Sys2Proof.Laws.encoding.rem : ∀ a0 a1 a2 a3 a4, Sys2Proof.Laws.encoding.Statement (Sys2Proof.Instr.rem a0 a1 a2 a3 a4) := by
  intros; intro _; rfl
theorem Sys2Proof.Laws.encoding.min : ∀ a0 a1 a2 a3 a4, Sys2Proof.Laws.encoding.Statement (Sys2Proof.Instr.min a0 a1 a2 a3 a4) := by
  intros; intro _; rfl
theorem Sys2Proof.Laws.encoding.max : ∀ a0 a1 a2 a3 a4, Sys2Proof.Laws.encoding.Statement (Sys2Proof.Instr.max a0 a1 a2 a3 a4) := by
  intros; intro _; rfl
theorem Sys2Proof.Laws.encoding.abs : ∀ a0 a1 a2 a3, Sys2Proof.Laws.encoding.Statement (Sys2Proof.Instr.abs a0 a1 a2 a3) := by
  intros; intro _; rfl
theorem Sys2Proof.Laws.encoding.neg : ∀ a0 a1 a2 a3, Sys2Proof.Laws.encoding.Statement (Sys2Proof.Instr.neg a0 a1 a2 a3) := by
  intros; intro _; rfl
theorem Sys2Proof.Laws.encoding.shl : ∀ a0 a1 a2 a3 a4, Sys2Proof.Laws.encoding.Statement (Sys2Proof.Instr.shl a0 a1 a2 a3 a4) := by
  intros; intro _; rfl
theorem Sys2Proof.Laws.encoding.shr : ∀ a0 a1 a2 a3 a4, Sys2Proof.Laws.encoding.Statement (Sys2Proof.Instr.shr a0 a1 a2 a3 a4) := by
  intros; intro _; rfl
theorem Sys2Proof.Laws.encoding.sar : ∀ a0 a1 a2 a3 a4, Sys2Proof.Laws.encoding.Statement (Sys2Proof.Instr.sar a0 a1 a2 a3 a4) := by
  intros; intro _; rfl
theorem Sys2Proof.Laws.encoding.rot : ∀ a0 a1 a2 a3 a4, Sys2Proof.Laws.encoding.Statement (Sys2Proof.Instr.rot a0 a1 a2 a3 a4) := by
  intros; intro _; rfl
theorem Sys2Proof.Laws.encoding.cmp : ∀ a0 a1 a2 a3 a4 a5, Sys2Proof.Laws.encoding.Statement (Sys2Proof.Instr.cmp a0 a1 a2 a3 a4 a5) := by
  intros; intro _; rfl
theorem Sys2Proof.Laws.encoding.sel : ∀ a0 a1 a2 a3 a4 a5, Sys2Proof.Laws.encoding.Statement (Sys2Proof.Instr.sel a0 a1 a2 a3 a4 a5) := by
  intros; intro _; rfl
theorem Sys2Proof.Laws.encoding.mov : ∀ a0 a1 a2 a3, Sys2Proof.Laws.encoding.Statement (Sys2Proof.Instr.mov a0 a1 a2 a3) := by
  intros; intro _; rfl
theorem Sys2Proof.Laws.encoding.movk : ∀ a0 a1 a2 a3, Sys2Proof.Laws.encoding.Statement (Sys2Proof.Instr.movk a0 a1 a2 a3) := by
  intros; intro _; rfl
theorem Sys2Proof.Laws.encoding.lea : ∀ a0 a1 a2 a3 a4 a5, Sys2Proof.Laws.encoding.Statement (Sys2Proof.Instr.lea a0 a1 a2 a3 a4 a5) := by
  intros; intro _; rfl
theorem Sys2Proof.Laws.encoding.clz : ∀ a0 a1 a2 a3, Sys2Proof.Laws.encoding.Statement (Sys2Proof.Instr.clz a0 a1 a2 a3) := by
  intros; intro _; rfl
theorem Sys2Proof.Laws.encoding.popc : ∀ a0 a1 a2 a3, Sys2Proof.Laws.encoding.Statement (Sys2Proof.Instr.popc a0 a1 a2 a3) := by
  intros; intro _; rfl
theorem Sys2Proof.Laws.encoding.brev : ∀ a0 a1 a2 a3, Sys2Proof.Laws.encoding.Statement (Sys2Proof.Instr.brev a0 a1 a2 a3) := by
  intros; intro _; rfl
theorem Sys2Proof.Laws.encoding.sad : ∀ a0 a1 a2 a3 a4 a5, Sys2Proof.Laws.encoding.Statement (Sys2Proof.Instr.sad a0 a1 a2 a3 a4 a5) := by
  intros; intro _; rfl
theorem Sys2Proof.Laws.encoding.idx : ∀ a0 a1 a2 a3, Sys2Proof.Laws.encoding.Statement (Sys2Proof.Instr.idx a0 a1 a2 a3) := by
  intros; intro _; rfl
theorem Sys2Proof.Laws.encoding.and : ∀ a0 a1 a2 a3 a4, Sys2Proof.Laws.encoding.Statement (Sys2Proof.Instr.and a0 a1 a2 a3 a4) := by
  intros; intro _; rfl
theorem Sys2Proof.Laws.encoding.or : ∀ a0 a1 a2 a3 a4, Sys2Proof.Laws.encoding.Statement (Sys2Proof.Instr.or a0 a1 a2 a3 a4) := by
  intros; intro _; rfl
theorem Sys2Proof.Laws.encoding.xor : ∀ a0 a1 a2 a3 a4, Sys2Proof.Laws.encoding.Statement (Sys2Proof.Instr.xor a0 a1 a2 a3 a4) := by
  intros; intro _; rfl
theorem Sys2Proof.Laws.encoding.not : ∀ a0 a1 a2 a3, Sys2Proof.Laws.encoding.Statement (Sys2Proof.Instr.not a0 a1 a2 a3) := by
  intros; intro _; rfl
theorem Sys2Proof.Laws.encoding.tlut : ∀ a0 a1 a2 a3 a4 a5, Sys2Proof.Laws.encoding.Statement (Sys2Proof.Instr.tlut a0 a1 a2 a3 a4 a5) := by
  intros; intro _; rfl
theorem Sys2Proof.Laws.encoding.bfx : ∀ a0 a1 a2 a3 a4, Sys2Proof.Laws.encoding.Statement (Sys2Proof.Instr.bfx a0 a1 a2 a3 a4) := by
  intros; intro _; rfl
theorem Sys2Proof.Laws.encoding.bfi : ∀ a0 a1 a2 a3 a4 a5, Sys2Proof.Laws.encoding.Statement (Sys2Proof.Instr.bfi a0 a1 a2 a3 a4 a5) := by
  intros; intro _; rfl
theorem Sys2Proof.Laws.encoding.bpick : ∀ a0 a1 a2 a3 a4, Sys2Proof.Laws.encoding.Statement (Sys2Proof.Instr.bpick a0 a1 a2 a3 a4) := by
  intros; intro _; rfl
theorem Sys2Proof.Laws.encoding.lperm : ∀ a0 a1 a2 a3 a4 a5, Sys2Proof.Laws.encoding.Statement (Sys2Proof.Instr.lperm a0 a1 a2 a3 a4 a5) := by
  intros; intro _; rfl
theorem Sys2Proof.Laws.encoding.xchg : ∀ a0 a1 a2 a3, Sys2Proof.Laws.encoding.Statement (Sys2Proof.Instr.xchg a0 a1 a2 a3) := by
  intros; intro _; rfl
theorem Sys2Proof.Laws.encoding.pcon : ∀ a0 a1 a2, Sys2Proof.Laws.encoding.Statement (Sys2Proof.Instr.pcon a0 a1 a2) := by
  intros; intro _; rfl
theorem Sys2Proof.Laws.encoding.lgrp : ∀ a0 a1 a2 a3, Sys2Proof.Laws.encoding.Statement (Sys2Proof.Instr.lgrp a0 a1 a2 a3) := by
  intros; intro _; rfl
theorem Sys2Proof.Laws.encoding.kred : ∀ a0 a1 a2 a3 a4, Sys2Proof.Laws.encoding.Statement (Sys2Proof.Instr.kred a0 a1 a2 a3 a4) := by
  intros; intro _; rfl
theorem Sys2Proof.Laws.encoding.pset : ∀ a0 a1 a2 a3 a4, Sys2Proof.Laws.encoding.Statement (Sys2Proof.Instr.pset a0 a1 a2 a3 a4) := by
  intros; intro _; rfl
theorem Sys2Proof.Laws.encoding.pmov : ∀ a0 a1, Sys2Proof.Laws.encoding.Statement (Sys2Proof.Instr.pmov a0 a1) := by
  intros; intro _; rfl
theorem Sys2Proof.Laws.encoding.lanemask : ∀ a0 a1 a2, Sys2Proof.Laws.encoding.Statement (Sys2Proof.Instr.lanemask a0 a1 a2) := by
  intros; intro _; rfl
theorem Sys2Proof.Laws.encoding.fadd : ∀ a0 a1 a2 a3 a4, Sys2Proof.Laws.encoding.Statement (Sys2Proof.Instr.fadd a0 a1 a2 a3 a4) := by
  intros; intro _; rfl
theorem Sys2Proof.Laws.encoding.fmul : ∀ a0 a1 a2 a3 a4, Sys2Proof.Laws.encoding.Statement (Sys2Proof.Instr.fmul a0 a1 a2 a3 a4) := by
  intros; intro _; rfl
theorem Sys2Proof.Laws.encoding.ffma : ∀ a0 a1 a2 a3 a4 a5, Sys2Proof.Laws.encoding.Statement (Sys2Proof.Instr.ffma a0 a1 a2 a3 a4 a5) := by
  intros; intro _; rfl
theorem Sys2Proof.Laws.encoding.fmnx : ∀ a0 a1 a2 a3 a4 a5, Sys2Proof.Laws.encoding.Statement (Sys2Proof.Instr.fmnx a0 a1 a2 a3 a4 a5) := by
  intros; intro _; rfl
theorem Sys2Proof.Laws.encoding.fcmp : ∀ a0 a1 a2 a3 a4 a5, Sys2Proof.Laws.encoding.Statement (Sys2Proof.Instr.fcmp a0 a1 a2 a3 a4 a5) := by
  intros; intro _; rfl
theorem Sys2Proof.Laws.encoding.fcls : ∀ a0 a1 a2 a3 a4, Sys2Proof.Laws.encoding.Statement (Sys2Proof.Instr.fcls a0 a1 a2 a3 a4) := by
  intros; intro _; rfl
theorem Sys2Proof.Laws.encoding.frnd : ∀ a0 a1 a2 a3, Sys2Proof.Laws.encoding.Statement (Sys2Proof.Instr.frnd a0 a1 a2 a3) := by
  intros; intro _; rfl
theorem Sys2Proof.Laws.encoding.fscl : ∀ a0 a1 a2 a3 a4, Sys2Proof.Laws.encoding.Statement (Sys2Proof.Instr.fscl a0 a1 a2 a3 a4) := by
  intros; intro _; rfl
theorem Sys2Proof.Laws.encoding.dadd : ∀ a0 a1 a2 a3 a4, Sys2Proof.Laws.encoding.Statement (Sys2Proof.Instr.dadd a0 a1 a2 a3 a4) := by
  intros; intro _; rfl
theorem Sys2Proof.Laws.encoding.dmul : ∀ a0 a1 a2 a3 a4, Sys2Proof.Laws.encoding.Statement (Sys2Proof.Instr.dmul a0 a1 a2 a3 a4) := by
  intros; intro _; rfl
theorem Sys2Proof.Laws.encoding.dfma : ∀ a0 a1 a2 a3 a4 a5, Sys2Proof.Laws.encoding.Statement (Sys2Proof.Instr.dfma a0 a1 a2 a3 a4 a5) := by
  intros; intro _; rfl
theorem Sys2Proof.Laws.encoding.dmnx : ∀ a0 a1 a2 a3 a4 a5, Sys2Proof.Laws.encoding.Statement (Sys2Proof.Instr.dmnx a0 a1 a2 a3 a4 a5) := by
  intros; intro _; rfl
theorem Sys2Proof.Laws.encoding.dcmp : ∀ a0 a1 a2 a3 a4 a5, Sys2Proof.Laws.encoding.Statement (Sys2Proof.Instr.dcmp a0 a1 a2 a3 a4 a5) := by
  intros; intro _; rfl
theorem Sys2Proof.Laws.encoding.dcls : ∀ a0 a1 a2 a3 a4, Sys2Proof.Laws.encoding.Statement (Sys2Proof.Instr.dcls a0 a1 a2 a3 a4) := by
  intros; intro _; rfl
theorem Sys2Proof.Laws.encoding.drnd : ∀ a0 a1 a2 a3, Sys2Proof.Laws.encoding.Statement (Sys2Proof.Instr.drnd a0 a1 a2 a3) := by
  intros; intro _; rfl
theorem Sys2Proof.Laws.encoding.dscl : ∀ a0 a1 a2 a3 a4, Sys2Proof.Laws.encoding.Statement (Sys2Proof.Instr.dscl a0 a1 a2 a3 a4) := by
  intros; intro _; rfl
theorem Sys2Proof.Laws.encoding.hadd : ∀ a0 a1 a2 a3 a4, Sys2Proof.Laws.encoding.Statement (Sys2Proof.Instr.hadd a0 a1 a2 a3 a4) := by
  intros; intro _; rfl
theorem Sys2Proof.Laws.encoding.hmul : ∀ a0 a1 a2 a3 a4, Sys2Proof.Laws.encoding.Statement (Sys2Proof.Instr.hmul a0 a1 a2 a3 a4) := by
  intros; intro _; rfl
theorem Sys2Proof.Laws.encoding.hfma : ∀ a0 a1 a2 a3 a4 a5, Sys2Proof.Laws.encoding.Statement (Sys2Proof.Instr.hfma a0 a1 a2 a3 a4 a5) := by
  intros; intro _; rfl
theorem Sys2Proof.Laws.encoding.hmnx : ∀ a0 a1 a2 a3 a4 a5, Sys2Proof.Laws.encoding.Statement (Sys2Proof.Instr.hmnx a0 a1 a2 a3 a4 a5) := by
  intros; intro _; rfl
theorem Sys2Proof.Laws.encoding.hcmp : ∀ a0 a1 a2 a3 a4 a5, Sys2Proof.Laws.encoding.Statement (Sys2Proof.Instr.hcmp a0 a1 a2 a3 a4 a5) := by
  intros; intro _; rfl
theorem Sys2Proof.Laws.encoding.hcls : ∀ a0 a1 a2 a3 a4, Sys2Proof.Laws.encoding.Statement (Sys2Proof.Instr.hcls a0 a1 a2 a3 a4) := by
  intros; intro _; rfl
theorem Sys2Proof.Laws.encoding.hrnd : ∀ a0 a1 a2 a3, Sys2Proof.Laws.encoding.Statement (Sys2Proof.Instr.hrnd a0 a1 a2 a3) := by
  intros; intro _; rfl
theorem Sys2Proof.Laws.encoding.hscl : ∀ a0 a1 a2 a3 a4, Sys2Proof.Laws.encoding.Statement (Sys2Proof.Instr.hscl a0 a1 a2 a3 a4) := by
  intros; intro _; rfl
theorem Sys2Proof.Laws.encoding.cvt : ∀ a0 a1 a2 a3 a4 a5, Sys2Proof.Laws.encoding.Statement (Sys2Proof.Instr.cvt a0 a1 a2 a3 a4 a5) := by
  intros; intro _; rfl
theorem Sys2Proof.Laws.encoding.cvtn : ∀ a0 a1 a2 a3 a4 a5 a6, Sys2Proof.Laws.encoding.Statement (Sys2Proof.Instr.cvtn a0 a1 a2 a3 a4 a5 a6) := by
  intros; intro _; rfl
theorem Sys2Proof.Laws.encoding.cvtw : ∀ a0 a1 a2 a3 a4 a5, Sys2Proof.Laws.encoding.Statement (Sys2Proof.Instr.cvtw a0 a1 a2 a3 a4 a5) := by
  intros; intro _; rfl
theorem Sys2Proof.Laws.encoding.pack : ∀ a0 a1 a2 a3 a4 a5 a6, Sys2Proof.Laws.encoding.Statement (Sys2Proof.Instr.pack a0 a1 a2 a3 a4 a5 a6) := by
  intros; intro _; rfl
theorem Sys2Proof.Laws.encoding.unpk : ∀ a0 a1 a2 a3, Sys2Proof.Laws.encoding.Statement (Sys2Proof.Instr.unpk a0 a1 a2 a3) := by
  intros; intro _; rfl
theorem Sys2Proof.Laws.encoding.cvti : ∀ a0 a1 a2 a3 a4 a5 a6, Sys2Proof.Laws.encoding.Statement (Sys2Proof.Instr.cvti a0 a1 a2 a3 a4 a5 a6) := by
  intros; intro _; rfl
theorem Sys2Proof.Laws.encoding.cvtf : ∀ a0 a1 a2 a3 a4 a5 a6, Sys2Proof.Laws.encoding.Statement (Sys2Proof.Instr.cvtf a0 a1 a2 a3 a4 a5 a6) := by
  intros; intro _; rfl
theorem Sys2Proof.Laws.encoding.cvts : ∀ a0 a1 a2 a3 a4 a5, Sys2Proof.Laws.encoding.Statement (Sys2Proof.Instr.cvts a0 a1 a2 a3 a4 a5) := by
  intros; intro _; rfl
theorem Sys2Proof.Laws.encoding.rcp : ∀ a0 a1 a2, Sys2Proof.Laws.encoding.Statement (Sys2Proof.Instr.rcp a0 a1 a2) := by
  intros; intro _; rfl
theorem Sys2Proof.Laws.encoding.rsq : ∀ a0 a1 a2, Sys2Proof.Laws.encoding.Statement (Sys2Proof.Instr.rsq a0 a1 a2) := by
  intros; intro _; rfl
theorem Sys2Proof.Laws.encoding.sqrt : ∀ a0 a1 a2, Sys2Proof.Laws.encoding.Statement (Sys2Proof.Instr.sqrt a0 a1 a2) := by
  intros; intro _; rfl
theorem Sys2Proof.Laws.encoding.ex2 : ∀ a0 a1 a2, Sys2Proof.Laws.encoding.Statement (Sys2Proof.Instr.ex2 a0 a1 a2) := by
  intros; intro _; rfl
theorem Sys2Proof.Laws.encoding.lg2 : ∀ a0 a1 a2, Sys2Proof.Laws.encoding.Statement (Sys2Proof.Instr.lg2 a0 a1 a2) := by
  intros; intro _; rfl
theorem Sys2Proof.Laws.encoding.sin : ∀ a0 a1 a2, Sys2Proof.Laws.encoding.Statement (Sys2Proof.Instr.sin a0 a1 a2) := by
  intros; intro _; rfl
theorem Sys2Proof.Laws.encoding.cos : ∀ a0 a1 a2, Sys2Proof.Laws.encoding.Statement (Sys2Proof.Instr.cos a0 a1 a2) := by
  intros; intro _; rfl
theorem Sys2Proof.Laws.encoding.tanh : ∀ a0 a1 a2, Sys2Proof.Laws.encoding.Statement (Sys2Proof.Instr.tanh a0 a1 a2) := by
  intros; intro _; rfl
theorem Sys2Proof.Laws.encoding.ld : ∀ a0 a1 a2 a3 a4 a5 a6, Sys2Proof.Laws.encoding.Statement (Sys2Proof.Instr.ld a0 a1 a2 a3 a4 a5 a6) := by
  intros; intro _; rfl
theorem Sys2Proof.Laws.encoding.st : ∀ a0 a1 a2 a3 a4 a5 a6 a7, Sys2Proof.Laws.encoding.Statement (Sys2Proof.Instr.st a0 a1 a2 a3 a4 a5 a6 a7) := by
  intros; intro _; rfl
theorem Sys2Proof.Laws.encoding.ldb : ∀ a0 a1 a2 a3 a4 a5, Sys2Proof.Laws.encoding.Statement (Sys2Proof.Instr.ldb a0 a1 a2 a3 a4 a5) := by
  intros; intro _; rfl
theorem Sys2Proof.Laws.encoding.stb : ∀ a0 a1 a2 a3 a4 a5 a6, Sys2Proof.Laws.encoding.Statement (Sys2Proof.Instr.stb a0 a1 a2 a3 a4 a5 a6) := by
  intros; intro _; rfl
theorem Sys2Proof.Laws.encoding.ldk : ∀ a0 a1 a2 a3 a4 a5 a6, Sys2Proof.Laws.encoding.Statement (Sys2Proof.Instr.ldk a0 a1 a2 a3 a4 a5 a6) := by
  intros; intro _; rfl
theorem Sys2Proof.Laws.encoding.stk : ∀ a0 a1 a2 a3 a4 a5 a6, Sys2Proof.Laws.encoding.Statement (Sys2Proof.Instr.stk a0 a1 a2 a3 a4 a5 a6) := by
  intros; intro _; rfl
theorem Sys2Proof.Laws.encoding.ldp : ∀ a0 a1 a2 a3 a4 a5, Sys2Proof.Laws.encoding.Statement (Sys2Proof.Instr.ldp a0 a1 a2 a3 a4 a5) := by
  intros; intro _; rfl
theorem Sys2Proof.Laws.encoding.stp : ∀ a0 a1 a2 a3 a4 a5, Sys2Proof.Laws.encoding.Statement (Sys2Proof.Instr.stp a0 a1 a2 a3 a4 a5) := by
  intros; intro _; rfl
theorem Sys2Proof.Laws.encoding.ldw : ∀ a0 a1 a2 a3 a4, Sys2Proof.Laws.encoding.Statement (Sys2Proof.Instr.ldw a0 a1 a2 a3 a4) := by
  intros; intro _; rfl
theorem Sys2Proof.Laws.encoding.atom : ∀ a0 a1 a2 a3 a4 a5 a6 a7, Sys2Proof.Laws.encoding.Statement (Sys2Proof.Instr.atom a0 a1 a2 a3 a4 a5 a6 a7) := by
  intros; intro _; rfl
theorem Sys2Proof.Laws.encoding.atomc : ∀ a0 a1 a2 a3 a4 a5 a6, Sys2Proof.Laws.encoding.Statement (Sys2Proof.Instr.atomc a0 a1 a2 a3 a4 a5 a6) := by
  intros; intro _; rfl
theorem Sys2Proof.Laws.encoding.fence : ∀ a0 a1 a2, Sys2Proof.Laws.encoding.Statement (Sys2Proof.Instr.fence a0 a1 a2) := by
  intros; intro _; rfl
theorem Sys2Proof.Laws.encoding.cflush : ∀ a0 a1 a2 a3, Sys2Proof.Laws.encoding.Statement (Sys2Proof.Instr.cflush a0 a1 a2 a3) := by
  intros; intro _; rfl
theorem Sys2Proof.Laws.encoding.cinv : ∀ a0 a1 a2 a3, Sys2Proof.Laws.encoding.Statement (Sys2Proof.Instr.cinv a0 a1 a2 a3) := by
  intros; intro _; rfl
theorem Sys2Proof.Laws.encoding.pref : ∀ a0 a1 a2 a3, Sys2Proof.Laws.encoding.Statement (Sys2Proof.Instr.pref a0 a1 a2 a3) := by
  intros; intro _; rfl
theorem Sys2Proof.Laws.encoding.seqr : ∀ a0 a1, Sys2Proof.Laws.encoding.Statement (Sys2Proof.Instr.seqr a0 a1) := by
  intros; intro _; rfl
theorem Sys2Proof.Laws.encoding.tload : ∀ a0 a1 a2 a3 a4, Sys2Proof.Laws.encoding.Statement (Sys2Proof.Instr.tload a0 a1 a2 a3 a4) := by
  intros; intro _; rfl
theorem Sys2Proof.Laws.encoding.tstore : ∀ a0 a1 a2 a3 a4, Sys2Proof.Laws.encoding.Statement (Sys2Proof.Instr.tstore a0 a1 a2 a3 a4) := by
  intros; intro _; rfl
theorem Sys2Proof.Laws.encoding.tgather : ∀ a0 a1 a2 a3 a4, Sys2Proof.Laws.encoding.Statement (Sys2Proof.Instr.tgather a0 a1 a2 a3 a4) := by
  intros; intro _; rfl
theorem Sys2Proof.Laws.encoding.tscat : ∀ a0 a1 a2 a3 a4, Sys2Proof.Laws.encoding.Statement (Sys2Proof.Instr.tscat a0 a1 a2 a3 a4) := by
  intros; intro _; rfl
theorem Sys2Proof.Laws.encoding.tpeer : ∀ a0 a1 a2 a3, Sys2Proof.Laws.encoding.Statement (Sys2Proof.Instr.tpeer a0 a1 a2 a3) := by
  intros; intro _; rfl
theorem Sys2Proof.Laws.encoding.tfill : ∀ a0 a1 a2, Sys2Proof.Laws.encoding.Statement (Sys2Proof.Instr.tfill a0 a1 a2) := by
  intros; intro _; rfl
theorem Sys2Proof.Laws.encoding.coll : ∀ a0 a1 a2 a3 a4, Sys2Proof.Laws.encoding.Statement (Sys2Proof.Instr.coll a0 a1 a2 a3 a4) := by
  intros; intro _; rfl
theorem Sys2Proof.Laws.encoding.trel : ∀ a0 a1, Sys2Proof.Laws.encoding.Statement (Sys2Proof.Instr.trel a0 a1) := by
  intros; intro _; rfl
theorem Sys2Proof.Laws.encoding.ppush : ∀ a0 a1 a2, Sys2Proof.Laws.encoding.Statement (Sys2Proof.Instr.ppush a0 a1 a2) := by
  intros; intro _; rfl
theorem Sys2Proof.Laws.encoding.ppop : ∀ a0 a1 a2, Sys2Proof.Laws.encoding.Statement (Sys2Proof.Instr.ppop a0 a1 a2) := by
  intros; intro _; rfl
theorem Sys2Proof.Laws.encoding.pstat : ∀ a0 a1 a2 a3, Sys2Proof.Laws.encoding.Statement (Sys2Proof.Instr.pstat a0 a1 a2 a3) := by
  intros; intro _; rfl
theorem Sys2Proof.Laws.encoding.pclose : ∀ a0 a1, Sys2Proof.Laws.encoding.Statement (Sys2Proof.Instr.pclose a0 a1) := by
  intros; intro _; rfl
theorem Sys2Proof.Laws.encoding.preopen : ∀ a0 a1, Sys2Proof.Laws.encoding.Statement (Sys2Proof.Instr.preopen a0 a1) := by
  intros; intro _; rfl
theorem Sys2Proof.Laws.encoding.pwait : ∀ a0 a1 a2, Sys2Proof.Laws.encoding.Statement (Sys2Proof.Instr.pwait a0 a1 a2) := by
  intros; intro _; rfl
theorem Sys2Proof.Laws.encoding.mma : ∀ a0 a1 a2 a3 a4 a5, Sys2Proof.Laws.encoding.Statement (Sys2Proof.Instr.mma a0 a1 a2 a3 a4 a5) := by
  intros; intro _; rfl
theorem Sys2Proof.Laws.encoding.mmac : ∀ a0 a1 a2 a3 a4 a5 a6, Sys2Proof.Laws.encoding.Statement (Sys2Proof.Instr.mmac a0 a1 a2 a3 a4 a5 a6) := by
  intros; intro _; rfl
theorem Sys2Proof.Laws.encoding.accz : ∀ a0 a1, Sys2Proof.Laws.encoding.Statement (Sys2Proof.Instr.accz a0 a1) := by
  intros; intro _; rfl
theorem Sys2Proof.Laws.encoding.accl : ∀ a0 a1 a2, Sys2Proof.Laws.encoding.Statement (Sys2Proof.Instr.accl a0 a1 a2) := by
  intros; intro _; rfl
theorem Sys2Proof.Laws.encoding.accd : ∀ a0 a1 a2 a3, Sys2Proof.Laws.encoding.Statement (Sys2Proof.Instr.accd a0 a1 a2 a3) := by
  intros; intro _; rfl
theorem Sys2Proof.Laws.encoding.adpf : ∀ a0 a1 a2 a3, Sys2Proof.Laws.encoding.Statement (Sys2Proof.Instr.adpf a0 a1 a2 a3) := by
  intros; intro _; rfl
theorem Sys2Proof.Laws.encoding.barInit : ∀ a0 a1 a2, Sys2Proof.Laws.encoding.Statement (Sys2Proof.Instr.barInit a0 a1 a2) := by
  intros; intro _; rfl
theorem Sys2Proof.Laws.encoding.barArrive : ∀ a0 a1, Sys2Proof.Laws.encoding.Statement (Sys2Proof.Instr.barArrive a0 a1) := by
  intros; intro _; rfl
theorem Sys2Proof.Laws.encoding.barWait : ∀ a0 a1, Sys2Proof.Laws.encoding.Statement (Sys2Proof.Instr.barWait a0 a1) := by
  intros; intro _; rfl
theorem Sys2Proof.Laws.encoding.waitc : ∀ a0 a1 a2, Sys2Proof.Laws.encoding.Statement (Sys2Proof.Instr.waitc a0 a1 a2) := by
  intros; intro _; rfl
theorem Sys2Proof.Laws.encoding.baste : ∀ a0, Sys2Proof.Laws.encoding.Statement (Sys2Proof.Instr.baste a0) := by
  intros; intro _; rfl
theorem Sys2Proof.Laws.encoding.hem : ∀ a0, Sys2Proof.Laws.encoding.Statement (Sys2Proof.Instr.hem a0) := by
  intros; intro _; rfl
theorem Sys2Proof.Laws.encoding.taskPublication : ∀ a0 a1, Sys2Proof.Laws.encoding.Statement (Sys2Proof.Instr.taskPublication a0 a1) := by
  intros; intro _; rfl
theorem Sys2Proof.Laws.encoding.taskDiscard : ∀ a0 a1, Sys2Proof.Laws.encoding.Statement (Sys2Proof.Instr.taskDiscard a0 a1) := by
  intros; intro _; rfl
theorem Sys2Proof.Laws.encoding.grow : ∀ a0 a1, Sys2Proof.Laws.encoding.Statement (Sys2Proof.Instr.grow a0 a1) := by
  intros; intro _; rfl
theorem Sys2Proof.Laws.encoding.shrink : ∀ a0 a1, Sys2Proof.Laws.encoding.Statement (Sys2Proof.Instr.shrink a0 a1) := by
  intros; intro _; rfl
theorem Sys2Proof.Laws.encoding.sread : ∀ a0 a1 a2, Sys2Proof.Laws.encoding.Statement (Sys2Proof.Instr.sread a0 a1 a2) := by
  intros; intro _; rfl
theorem Sys2Proof.Laws.encoding.swrite : ∀ a0 a1 a2, Sys2Proof.Laws.encoding.Statement (Sys2Proof.Instr.swrite a0 a1 a2) := by
  intros; intro _; rfl
theorem Sys2Proof.Laws.encoding.loadReply : ∀ a0 a1 a2 a3 a4, Sys2Proof.Laws.encoding.Statement (Sys2Proof.Instr.loadReply a0 a1 a2 a3 a4) := by
  intros; intro _; rfl
theorem Sys2Proof.Laws.encoding.writeAcknowledgement : ∀ a0, Sys2Proof.Laws.encoding.Statement (Sys2Proof.Instr.writeAcknowledgement a0) := by
  intros; intro _; rfl
theorem Sys2Proof.Laws.encoding.storeQueueEntryToL1 : ∀ a0 a1, Sys2Proof.Laws.encoding.Statement (Sys2Proof.Instr.storeQueueEntryToL1 a0 a1) := by
  intros; intro _; rfl
theorem Sys2Proof.Laws.encoding.requestPortSend : ∀ a0 a1, Sys2Proof.Laws.encoding.Statement (Sys2Proof.Instr.requestPortSend a0 a1) := by
  intros; intro _; rfl
theorem Sys2Proof.Laws.encoding.sliceAccept : ∀ a0, Sys2Proof.Laws.encoding.Statement (Sys2Proof.Instr.sliceAccept a0) := by
  intros; intro _; rfl
theorem Sys2Proof.Laws.encoding.sliceFillReturn : ∀ a0, Sys2Proof.Laws.encoding.Statement (Sys2Proof.Instr.sliceFillReturn a0) := by
  intros; intro _; rfl
theorem Sys2Proof.Laws.encoding.hbmSlotService : ∀ a0 a1 a2, Sys2Proof.Laws.encoding.Statement (Sys2Proof.Instr.hbmSlotService a0 a1 a2) := by
  intros; intro _; rfl
theorem Sys2Proof.Laws.encoding.dieLinkSlot : ∀ a0, Sys2Proof.Laws.encoding.Statement (Sys2Proof.Instr.dieLinkSlot a0) := by
  intros; intro _; rfl
theorem Sys2Proof.Laws.encoding.dieLinkFlitArrival : ∀ a0 a1, Sys2Proof.Laws.encoding.Statement (Sys2Proof.Instr.dieLinkFlitArrival a0 a1) := by
  intros; intro _; rfl
theorem Sys2Proof.Laws.encoding.translationWalk : ∀ a0 a1, Sys2Proof.Laws.encoding.Statement (Sys2Proof.Instr.translationWalk a0 a1) := by
  intros; intro _; rfl
theorem Sys2Proof.Laws.encoding.copyLineTransfer : ∀ a0 a1, Sys2Proof.Laws.encoding.Statement (Sys2Proof.Instr.copyLineTransfer a0 a1) := by
  intros; intro _; rfl
theorem Sys2Proof.Laws.encoding.copyComplete : ∀ a0 a1, Sys2Proof.Laws.encoding.Statement (Sys2Proof.Instr.copyComplete a0 a1) := by
  intros; intro _; rfl
theorem Sys2Proof.Laws.encoding.collResult : ∀ a0 a1 a2, Sys2Proof.Laws.encoding.Statement (Sys2Proof.Instr.collResult a0 a1 a2) := by
  intros; intro _; rfl
theorem Sys2Proof.Laws.encoding.pipePushReserve : ∀ a0 a1, Sys2Proof.Laws.encoding.Statement (Sys2Proof.Instr.pipePushReserve a0 a1) := by
  intros; intro _; rfl
theorem Sys2Proof.Laws.encoding.pipePopReserve : ∀ a0 a1, Sys2Proof.Laws.encoding.Statement (Sys2Proof.Instr.pipePopReserve a0 a1) := by
  intros; intro _; rfl
theorem Sys2Proof.Laws.encoding.pipePushCommit : ∀ a0 a1, Sys2Proof.Laws.encoding.Statement (Sys2Proof.Instr.pipePushCommit a0 a1) := by
  intros; intro _; rfl
theorem Sys2Proof.Laws.encoding.pipePopComplete : ∀ a0 a1, Sys2Proof.Laws.encoding.Statement (Sys2Proof.Instr.pipePopComplete a0 a1) := by
  intros; intro _; rfl
theorem Sys2Proof.Laws.encoding.pipeCredit : ∀ a0 a1 a2, Sys2Proof.Laws.encoding.Statement (Sys2Proof.Instr.pipeCredit a0 a1 a2) := by
  intros; intro _; rfl
theorem Sys2Proof.Laws.encoding.pipeSpillComplete : ∀ a0 a1, Sys2Proof.Laws.encoding.Statement (Sys2Proof.Instr.pipeSpillComplete a0 a1) := by
  intros; intro _; rfl
theorem Sys2Proof.Laws.encoding.planStart : ∀ a0, Sys2Proof.Laws.encoding.Statement (Sys2Proof.Instr.planStart a0) := by
  intros; intro _; rfl
theorem Sys2Proof.Laws.encoding.planEnd : ∀ a0, Sys2Proof.Laws.encoding.Statement (Sys2Proof.Instr.planEnd a0) := by
  intros; intro _; rfl
theorem Sys2Proof.Laws.encoding.balancerSample : Sys2Proof.Laws.encoding.Statement (Sys2Proof.Instr.balancerSample) := by
  intros; intro _; rfl
theorem Sys2Proof.Laws.encoding.deadlockSample : Sys2Proof.Laws.encoding.Statement (Sys2Proof.Instr.deadlockSample) := by
  intros; intro _; rfl
theorem Sys2Proof.Laws.encoding.deadlockProbe : ∀ a0 a1 a2 a3 a4, Sys2Proof.Laws.encoding.Statement (Sys2Proof.Instr.deadlockProbe a0 a1 a2 a3 a4) := by
  intros; intro _; rfl
theorem Sys2Proof.Laws.encoding.stageHalt : ∀ a0, Sys2Proof.Laws.encoding.Statement (Sys2Proof.Instr.stageHalt a0) := by
  intros; intro _; rfl
theorem Sys2Proof.Laws.encoding.qtailWrite : ∀ a0 a1, Sys2Proof.Laws.encoding.Statement (Sys2Proof.Instr.qtailWrite a0 a1) := by
  intros; intro _; rfl
theorem Sys2Proof.Laws.encoding.entryStart : ∀ a0, Sys2Proof.Laws.encoding.Statement (Sys2Proof.Instr.entryStart a0) := by
  intros; intro _; rfl
theorem Sys2Proof.Laws.encoding.copyEntryComplete : ∀ a0 a1, Sys2Proof.Laws.encoding.Statement (Sys2Proof.Instr.copyEntryComplete a0 a1) := by
  intros; intro _; rfl
theorem Sys2Proof.Laws.encoding.invalidationComplete : ∀ a0 a1, Sys2Proof.Laws.encoding.Statement (Sys2Proof.Instr.invalidationComplete a0 a1) := by
  intros; intro _; rfl
theorem Sys2Proof.Laws.encoding.entryComplete : ∀ a0, Sys2Proof.Laws.encoding.Statement (Sys2Proof.Instr.entryComplete a0) := by
  intros; intro _; rfl
theorem Sys2Proof.Laws.encoding.dispatchTurn : ∀ a0, Sys2Proof.Laws.encoding.Statement (Sys2Proof.Instr.dispatchTurn a0) := by
  intros; intro _; rfl
theorem Sys2Proof.Laws.encoding.boltEnd : ∀ a0 a1, Sys2Proof.Laws.encoding.Statement (Sys2Proof.Instr.boltEnd a0 a1) := by
  intros; intro _; rfl
theorem Sys2Proof.Laws.encoding.gridComplete : ∀ a0, Sys2Proof.Laws.encoding.Statement (Sys2Proof.Instr.gridComplete a0) := by
  intros; intro _; rfl
theorem Sys2Proof.Laws.encoding.wsGateEnter : ∀ a0, Sys2Proof.Laws.encoding.Statement (Sys2Proof.Instr.wsGateEnter a0) := by
  intros; intro _; rfl
theorem Sys2Proof.Laws.encoding.wsRefreshWindowEnd : ∀ a0 a1, Sys2Proof.Laws.encoding.Statement (Sys2Proof.Instr.wsRefreshWindowEnd a0 a1) := by
  intros; intro _; rfl
theorem Sys2Proof.Laws.encoding.registerRequestGrant : ∀ a0, Sys2Proof.Laws.encoding.Statement (Sys2Proof.Instr.registerRequestGrant a0) := by
  intros; intro _; rfl
theorem Sys2Proof.Laws.encoding.registerDeadlockBreak : ∀ a0, Sys2Proof.Laws.encoding.Statement (Sys2Proof.Instr.registerDeadlockBreak a0) := by
  intros; intro _; rfl
theorem Sys2Proof.Laws.encoding.headRequestTimeout : ∀ a0, Sys2Proof.Laws.encoding.Statement (Sys2Proof.Instr.headRequestTimeout a0) := by
  intros; intro _; rfl
theorem Sys2Proof.Laws.encoding.granuleSpillComplete : ∀ a0, Sys2Proof.Laws.encoding.Statement (Sys2Proof.Instr.granuleSpillComplete a0) := by
  intros; intro _; rfl
theorem Sys2Proof.Laws.encoding.granuleRefill : ∀ a0, Sys2Proof.Laws.encoding.Statement (Sys2Proof.Instr.granuleRefill a0) := by
  intros; intro _; rfl
theorem Sys2Proof.Laws.encoding.baseKStep : ∀ a0 a1, Sys2Proof.Laws.encoding.Statement (Sys2Proof.Instr.baseKStep a0 a1) := by
  intros; intro _; rfl
theorem Sys2Proof.Laws.encoding.hitLastTerms : ∀ a0 a1, Sys2Proof.Laws.encoding.Statement (Sys2Proof.Instr.hitLastTerms a0 a1) := by
  intros; intro _; rfl
theorem Sys2Proof.Laws.encoding.adapterChunkFill : ∀ a0 a1 a2, Sys2Proof.Laws.encoding.Statement (Sys2Proof.Instr.adapterChunkFill a0 a1 a2) := by
  intros; intro _; rfl
theorem Sys2Proof.Laws.encoding.replayIdentifierWork : ∀ a0 a1, Sys2Proof.Laws.encoding.Statement (Sys2Proof.Instr.replayIdentifierWork a0 a1) := by
  intros; intro _; rfl
theorem Sys2Proof.Laws.encoding.matrixRetire : ∀ a0 a1, Sys2Proof.Laws.encoding.Statement (Sys2Proof.Instr.matrixRetire a0 a1) := by
  intros; intro _; rfl
theorem Sys2Proof.Laws.encoding.boltPark : ∀ a0 a1, Sys2Proof.Laws.encoding.Statement (Sys2Proof.Instr.boltPark a0 a1) := by
  intros; intro _; rfl
theorem Sys2Proof.Laws.encoding.boltStop : ∀ a0 a1, Sys2Proof.Laws.encoding.Statement (Sys2Proof.Instr.boltStop a0 a1) := by
  intros; intro _; rfl
theorem Sys2Proof.Laws.encoding.contextRestore : ∀ a0 a1, Sys2Proof.Laws.encoding.Statement (Sys2Proof.Instr.contextRestore a0 a1) := by
  intros; intro _; rfl
theorem Sys2Proof.Laws.encoding.thermalMigration : ∀ a0, Sys2Proof.Laws.encoding.Statement (Sys2Proof.Instr.thermalMigration a0) := by
  intros; intro _; rfl
theorem Sys2Proof.Laws.encoding.stopreqWrite : ∀ a0 a1, Sys2Proof.Laws.encoding.Statement (Sys2Proof.Instr.stopreqWrite a0 a1) := by
  intros; intro _; rfl
theorem Sys2Proof.Laws.encoding.debugHalt : Sys2Proof.Laws.encoding.Statement (Sys2Proof.Instr.debugHalt) := by
  intros; intro _; rfl
theorem Sys2Proof.Laws.encoding.debugResume : Sys2Proof.Laws.encoding.Statement (Sys2Proof.Instr.debugResume) := by
  intros; intro _; rfl
theorem Sys2Proof.Laws.encoding.debugSnapshot : Sys2Proof.Laws.encoding.Statement (Sys2Proof.Instr.debugSnapshot) := by
  intros; intro _; rfl
theorem Sys2Proof.Laws.encoding.debugReload : Sys2Proof.Laws.encoding.Statement (Sys2Proof.Instr.debugReload) := by
  intros; intro _; rfl
theorem Sys2Proof.Laws.encoding.debugStep : Sys2Proof.Laws.encoding.Statement (Sys2Proof.Instr.debugStep) := by
  intros; intro _; rfl
theorem Sys2Proof.Laws.encoding.debugPark : Sys2Proof.Laws.encoding.Statement (Sys2Proof.Instr.debugPark) := by
  intros; intro _; rfl
theorem Sys2Proof.Laws.encoding.chcommit : Sys2Proof.Laws.encoding.Statement (Sys2Proof.Instr.chcommit) := by
  intros; intro _; rfl
theorem Sys2Proof.Laws.encoding.channelSlotCommitApply : Sys2Proof.Laws.encoding.Statement (Sys2Proof.Instr.channelSlotCommitApply) := by
  intros; intro _; rfl
theorem Sys2Proof.Laws.encoding.fabcommit : Sys2Proof.Laws.encoding.Statement (Sys2Proof.Instr.fabcommit) := by
  intros; intro _; rfl
theorem Sys2Proof.Laws.encoding.fabricCommitApply : Sys2Proof.Laws.encoding.Statement (Sys2Proof.Instr.fabricCommitApply) := by
  intros; intro _; rfl
theorem Sys2Proof.Laws.encoding.ualcommit : Sys2Proof.Laws.encoding.Statement (Sys2Proof.Instr.ualcommit) := by
  intros; intro _; rfl
theorem Sys2Proof.Laws.encoding.ualinkCommitApply : Sys2Proof.Laws.encoding.Statement (Sys2Proof.Instr.ualinkCommitApply) := by
  intros; intro _; rfl
theorem Sys2Proof.Laws.encoding.partcommit : Sys2Proof.Laws.encoding.Statement (Sys2Proof.Instr.partcommit) := by
  intros; intro _; rfl
theorem Sys2Proof.Laws.encoding.partitionCommitApply : Sys2Proof.Laws.encoding.Statement (Sys2Proof.Instr.partitionCommitApply) := by
  intros; intro _; rfl
theorem Sys2Proof.Laws.encoding.ualctlRoll : ∀ a0, Sys2Proof.Laws.encoding.Statement (Sys2Proof.Instr.ualctlRoll a0) := by
  intros; intro _; rfl
theorem Sys2Proof.Laws.encoding.keyAgreementComplete : ∀ a0 a1, Sys2Proof.Laws.encoding.Statement (Sys2Proof.Instr.keyAgreementComplete a0 a1) := by
  intros; intro _; rfl
theorem Sys2Proof.Laws.encoding.keyRetire : ∀ a0, Sys2Proof.Laws.encoding.Statement (Sys2Proof.Instr.keyRetire a0) := by
  intros; intro _; rfl
theorem Sys2Proof.Laws.encoding.ualinkFlitReceive : ∀ a0 a1 a2 a3 a4 a5, Sys2Proof.Laws.encoding.Statement (Sys2Proof.Instr.ualinkFlitReceive a0 a1 a2 a3 a4 a5) := by
  intros; intro _; rfl
theorem Sys2Proof.Laws.encoding.ualinkPortChange : ∀ a0 a1, Sys2Proof.Laws.encoding.Statement (Sys2Proof.Instr.ualinkPortChange a0 a1) := by
  intros; intro _; rfl
theorem Sys2Proof.Laws.encoding.attctlRequest : Sys2Proof.Laws.encoding.Statement (Sys2Proof.Instr.attctlRequest) := by
  intros; intro _; rfl
theorem Sys2Proof.Laws.encoding.attestationComplete : ∀ a0, Sys2Proof.Laws.encoding.Statement (Sys2Proof.Instr.attestationComplete a0) := by
  intros; intro _; rfl
theorem Sys2Proof.Laws.encoding.hostMemoryWrite : ∀ a0 a1 a2, Sys2Proof.Laws.encoding.Statement (Sys2Proof.Instr.hostMemoryWrite a0 a1 a2) := by
  intros; intro _; rfl
theorem Sys2Proof.Laws.encoding.hostMemoryRead : ∀ a0 a1, Sys2Proof.Laws.encoding.Statement (Sys2Proof.Instr.hostMemoryRead a0 a1) := by
  intros; intro _; rfl
theorem Sys2Proof.Laws.encoding.hostAtomic : ∀ a0 a1 a2 a3 a4, Sys2Proof.Laws.encoding.Statement (Sys2Proof.Instr.hostAtomic a0 a1 a2 a3 a4) := by
  intros; intro _; rfl
theorem Sys2Proof.Laws.encoding.ualinkInboundWrite : ∀ a0, Sys2Proof.Laws.encoding.Statement (Sys2Proof.Instr.ualinkInboundWrite a0) := by
  intros; intro _; rfl
theorem Sys2Proof.Laws.encoding.registerWrite : ∀ a0 a1 a2, Sys2Proof.Laws.encoding.Statement (Sys2Proof.Instr.registerWrite a0 a1 a2) := by
  intros; intro _; rfl
theorem Sys2Proof.Laws.encoding.resetRelease : Sys2Proof.Laws.encoding.Statement (Sys2Proof.Instr.resetRelease) := by
  intros; intro _; rfl
theorem Sys2Proof.Laws.encoding.firmwareVerifyDone : ∀ a0 a1 a2, Sys2Proof.Laws.encoding.Statement (Sys2Proof.Instr.firmwareVerifyDone a0 a1 a2) := by
  intros; intro _; rfl
theorem Sys2Proof.Laws.encoding.calibrationDone : ∀ a0, Sys2Proof.Laws.encoding.Statement (Sys2Proof.Instr.calibrationDone a0) := by
  intros; intro _; rfl
theorem Sys2Proof.Laws.encoding.initialisationDone : Sys2Proof.Laws.encoding.Statement (Sys2Proof.Instr.initialisationDone) := by
  intros; intro _; rfl
theorem Sys2Proof.Laws.encoding.sensorRefresh : ∀ a0 a1 a2 a3, Sys2Proof.Laws.encoding.Statement (Sys2Proof.Instr.sensorRefresh a0 a1 a2 a3) := by
  intros; intro _; rfl
theorem Sys2Proof.Laws.encoding.thermalTrip : ∀ a0, Sys2Proof.Laws.encoding.Statement (Sys2Proof.Instr.thermalTrip a0) := by
  intros; intro _; rfl
theorem Sys2Proof.Laws.encoding.ageReplan : ∀ a0, Sys2Proof.Laws.encoding.Statement (Sys2Proof.Instr.ageReplan a0) := by
  intros; intro _; rfl
theorem Sys2Proof.Laws.encoding.specialFunctionResult : ∀ a0 a1 a2, Sys2Proof.Laws.encoding.Statement (Sys2Proof.Instr.specialFunctionResult a0 a1 a2) := by
  intros; intro _; rfl
theorem Sys2Proof.Laws.encoding.sliceHitReply : ∀ a0, Sys2Proof.Laws.encoding.Statement (Sys2Proof.Instr.sliceHitReply a0) := by
  intros; intro _; rfl
theorem Sys2Proof.Laws.encoding.adapterEntriesRead : ∀ a0 a1, Sys2Proof.Laws.encoding.Statement (Sys2Proof.Instr.adapterEntriesRead a0 a1) := by
  intros; intro _; rfl
theorem Sys2Proof.Laws.encoding.ualinkPortSlot : ∀ a0, Sys2Proof.Laws.encoding.Statement (Sys2Proof.Instr.ualinkPortSlot a0) := by
  intros; intro _; rfl
theorem Sys2Proof.Laws.encoding.ualinkInboundReadAtomic : ∀ a0, Sys2Proof.Laws.encoding.Statement (Sys2Proof.Instr.ualinkInboundReadAtomic a0) := by
  intros; intro _; rfl
theorem Sys2Proof.Laws.encoding.cxlCacheSnoop : ∀ a0, Sys2Proof.Laws.encoding.Statement (Sys2Proof.Instr.cxlCacheSnoop a0) := by
  intros; intro _; rfl
theorem Sys2Proof.Laws.encoding.pipeHomeStateChange : ∀ a0 a1, Sys2Proof.Laws.encoding.Statement (Sys2Proof.Instr.pipeHomeStateChange a0 a1) := by
  intros; intro _; rfl
end

