-- ==== Sys2Proof/Laws/Slow.lean ====
section
/-! SUPPORT. Beginning an operation of a slow class, and the instructions whose whole effect is that. -/

namespace Sys2Proof.Machine

theorem pathBegun_none {x : Ctx} {c : Ctl} (op : Nat) (h : flagOf x c = none) :
    pathBegun x c op = fun pa => { (if x.inWord then dropGroup pa else advancePath pa) with wait := none, watchPass := false } := by
  funext pa; simp only [pathBegun, h]
theorem pathBegun_some {x : Ctx} {c : Ctl} {f : Nat} (op : Nat) (h : flagOf x c = some f) :
    pathBegun x c op = fun pa => { (if x.inWord then dropGroup { pa with flagOps := pa.flagOps ++ [(f, op)] }
      else advancePath { pa with flagOps := pa.flagOps ++ [(f, op)] }) with wait := none, watchPass := false } := by
  funext pa; simp only [pathBegun, h]

/-- Beginning an operation and stepping past its instruction. -/
theorem retire_beginOp {x : Ctx} {s : State} (c : Ctl) (h : skeinOf s x.core x.slot = some x.sk) (o : Op) :
    retire x (beginOp x c o s).2 =
      { setSkein s x.core x.slot (skeinBegun x c s.nextId { o with path := x.path, fromStitch := x.inWord }) with nextId := s.nextId + 1 } := by
  have h' : skeinOf { s with nextId := s.nextId + 1 } x.core x.slot = some x.sk := h
  unfold beginOp retire
  simp only [onSkein, onPath, updPath]
  rw [updSkein_of _ _ h', updSkein_setSkein]
  cases hf : flagOf x c with
  | none =>
    simp only [skeinBegun, pathBegun_none _ hf]
    rfl
  | some f =>
    simp only [skeinBegun, pathBegun_some _ hf]
    unfold updPathSk
    simp only [nupdate_nupdate]
    rfl

/-- The shape `aluSlow`. -/
theorem aluSlow_begins {i : Instr} {c : Ctl} {x : Ctx} {s : State} {w : Nat} {d : VK} {f : Ctx → Nat → DWord}
    (hx : exec i s = aluSlow i c w d f s) (h : Ready { activeMarks := Instr.isFloat i } (Instr.use i) c x s) (hf : flagRoom x c = true) :
    BeginsSlow i c (activeCtx x c) s w d (f (activeCtx x c)) := by
  unfold BeginsSlow Begins
  rw [hx]
  unfold aluSlow
  rw [issue_ready h rfl]
  have hf' : flagRoom (activeCtx x c) c = true := hf
  simp only [hf', Bool.not_true, Bool.false_eq_true, if_false]
  have hs : skeinOf s (activeCtx x c).core (activeCtx x c).slot = some (activeCtx x c).sk := ctxOf_skein (x := x) h.1
  rw [retire_beginOp c hs]

end Sys2Proof.Machine
end

