-- ==== Sys2Proof/Tests/Slice0.lean ====
section
/-! SUPPORT. The model's own tests: words written out from the encoding tables, ill-formed instructions that are refused, one step on
small states, and for every obligation with hypotheses a state and operands that meet them. -/

namespace Sys2Proof.Tests
set_option Elab.async false
open Sys2Proof Sys2Proof.Machine


/-! Decoding: the words that the worked examples of the spec print, then one word per constructor, written out field by field
from R27 Table 1, R34 Table 3, R42 Table 4 and R44 Table 6. -/

/-- Guard p7, no hints. -/
def always : Ctl := ⟨7, false, false, false, 0⟩
/-- A word from the three 32-bit parts that the spec prints, high part first. -/
def parts (h m l : Nat) : Option Instr := decodeTableWord 96 (h * 2 ^ 64 + m * 2 ^ 32 + l)
/-- Operand fields: a vector register, a uniform register, an index of class 10, the immediate. -/
def fv (n : Nat) : Nat := n
def fk (n : Nat) : Nat := 256 + n
def fx (n : Nat) : Nat := 512 + n
def fi : Nat := 768
/-- A word by its fields, guard p7: opcode, D, A, B, modifier, sub-operation, immediate, format slot. -/
def word (op : Nat) (d a b mod sub imm : Nat := 0) (fs : Nat := 0) : Option Instr :=
  decodeTableWord 96 (op + 7 * 2 ^ 8 + d * 2 ^ 12 + a * 2 ^ 22 + b * 2 ^ 32 + mod * 2 ^ 42 + fs * 2 ^ 48 + sub * 2 ^ 51 + imm * 2 ^ 56)

theorem test_decode_printed_clause :  -- 02 R48, worked example
    [parts 0 0 0x01000300, parts 0 0x00000800 0x01008764, parts 0 0x04000800 0x01009764, parts 0 0x00001807 0x0180A710,
     parts 0 0 0x00001300, parts 0 0x00001809 0x0200B710, parts 0 0x0800080B 0x01000765, parts 0 0 0x00000708] =
    [some (.clauseIssue ⟨3, 0, some 0, none, false⟩), some (.ld always (.v 8) (.v 4) 0 .n32 .sk .keep),
     some (.ld always (.v 9) (.v 4) 4 .n32 .sk .keep), some (.add always (.v 10) (.v 6) (.v 7) ⟨.i32, false⟩),
     some (.clauseIssue ⟨3, 1, none, none, false⟩), some (.add always (.v 11) (.v 8) (.v 9) ⟨.i32, false⟩),
     some (.st always (.v 4) (.v 11) 8 .n32 .sk .keep false), some (.exit always)] := by decide
theorem test_decode_printed_memory :  -- 07 Table 4, 08, 09 Table 4
    [parts 1 0x06000000 0x40A04774, parts 0 0x00000201 0x8100077C, parts 0 0x18000000 0x0000078C, parts 0 0x18000000 0x0000078D,
     parts 0 0x30008009 0x01000767, parts 1 0x00080800 0x01808769, parts 0 0x00088000 0x0000076E] =
    [some (.tload always 4 2 6 .keep), some (.ppush always 4 1), some (.grow always 24), some (.shrink always 24),
     some (.stb always (.v 4) (.v 9) 0x30 .dev .keep false), some (.ldp always 8 6 0x100 .n32 1), some (.fence always .rel .dev)] := by decide
theorem test_decode_printed_lane_and_float :  -- 11, 12
    [parts 2 0x01000806 0x0100A712, parts 0 0x00101805 0x01202722, parts 0 0x00180000 0x80D04736, parts 0 0x01100B00 0x02014734,
     parts 0 0x21004419 0x0441473E, parts 0 0x000A1400 0x00C08755, parts 0x003F803F 0x80008300 0x0100A74C] =
    [some (.addc always (.v 10) (.v 4) (.v 6) 1 .n32), some (.cmp always 2 (.v 4) (.v 5) .lt ⟨.i32, false⟩), some (.pcon always (.ballot 4) 3),
     some (.lperm always (.v 20) (.v 8) (.imm 1) .down false), some (.ffma always (.v 20) (.v 17) (.v 25) (.v 33) ⟨.rz, false, false, true, false⟩),
     some (.cvtn always (.v 8) (.v 3) .f32 true 2 1), some (.hadd always (.v 10) (.v 4) (.imm 0x3F803F80) ⟨.rne, false, false, false, true⟩)] := by decide
theorem test_decode_printed_control :  -- 13, 14, 15, 16 Table 7, 17 Table 3
    [parts 0x14 0x28080609 0x82203782, parts 0 0x00010000 0x80E0A786, parts 0 0x0F000000 0x00000703, parts 0 0x05000000 0x00000101,
     parts 0 0 0x00000208, parts 0x00FFFFFF 0xEC000800 0x00000705, parts 0 0x00000400 0x0A20370F, parts 0 0x04000000 0xC0200788,
     parts 0 0x00080000 0x00201788, parts 0 0x00100000 0x00201788, parts 0 0 0x80C00789, parts 0 0x01000000 0x80000789,
     parts 0 0x21000000 0x0000070B, parts 0x12 0x34000000 0x0000070D, parts 0 0 0x0000070C, parts 0 0x0B000000 0x0010878E, parts 0 0x0C000000 0x0240078F] =
    [some (.mma always 3 8 9 true (some ⟨40, 5⟩)), some (.accd always 10 3 1), some (.setj always 15), some (.bra ⟨1, false, false, false, 0⟩ 5),
     some (.exit ⟨2, false, false, false, 0⟩), some (.call always 2 0xFFFFFFEC), some (.stitch always 3 40 true), some (.barInit always 0 (.imm 4)),
     some (.barArrive always 1), some (.barWait always 1), some (.waitc always 3 0), some (.waitc always 0 1),
     some (.trap always 0x21), some (.brk always 0x1234), some (.rte always), some (.sread always (.k 8) 11), some (.swrite always (.v 9) 12)] := by decide

theorem test_decode_control :
    [word 0xF0, word 0x01 (imm := 0xFFFFFFFF), word 0x02 (a := fv 9), word 0x03 (imm := 4), word 0x04, word 0x05 (mod := 29) (imm := 1), word 0x06 (a := fv 9) (mod := 3),
     word 0x07, word 0x08, word 0x09, word 0x0A (a := fi) (imm := 100), word 0x0B (imm := 0x21), word 0x0C, word 0x0D (imm := 5), word 0x0E,
     word 0x0F (d := fx 2) (a := fv 253)] =
    [some .nop, some (.bra always 0xFFFFFFFF), some (.brx always 9), some (.setj always 4), some (.join always), some (.call always 29 1), some (.callx always 3 9),
     some (.ret always), some (.exit always), some (.yield always), some (.sleep always (.imm 100)), some (.trap always 0x21), some (.rte always), some (.brk always 5), some (.kill always),
     some (.stitch always 2 253 false)] := by decide
theorem test_decode_integer :
    [word 0x10 (fv 1) (fk 2) (fi) 2 0 7, word 0x11 (fk 1) (fk 2) (fk 3) 14, word 0x12 (fv 10) (fv 4) (fv 6) 2 0 (fx 1), word 0x13 (fv 10) (fv 4) (fv 6) 7 0 (fx 6),
     word 0x14 (fv 2) (fv 4) (fv 6) 3, word 0x15 (fv 2) (fv 4) (fv 6) 7, word 0x16 (fv 1) (fv 2) (fv 3) 2 0 (fk 4), word 0x17 (fv 2) (fv 3) (fv 4) 6 0 (fv 8),
     word 0x18 (fv 1) (fv 2) (fv 3) 6, word 0x19 (fv 1) (fv 2) (fv 3) 0, word 0x1A (fv 1) (fv 2) (fv 3) 4, word 0x1B (fv 1) (fv 2) (fv 3) 1, word 0x1C (fv 1) (fv 2) 0 14, word 0x1D (fv 1) (fv 2) 0 5] =
    [some (.add always (.v 1) (.k 2) (.imm 7) ⟨.n32, false⟩), some (.sub always (.k 1) (.k 2) (.k 3) ⟨.i32, true⟩), some (.addc always (.v 10) (.v 4) (.v 6) 1 .n32),
     some (.subc always (.v 10) (.v 4) (.v 6) 6 .i64), some (.mul always (.v 2) (.v 4) (.v 6) ⟨.n64, false⟩), some (.mulh always (.v 2) (.v 4) (.v 6) ⟨.i64, false⟩),
     some (.mad always (.v 1) (.v 2) (.v 3) (.k 4) ⟨.n32, false⟩), some (.madw always (.v 2) (.v 3) (.v 4) (.v 8) ⟨.i32, false⟩), some (.div always (.v 1) (.v 2) (.v 3) ⟨.i32, false⟩),
     some (.rem always (.v 1) (.v 2) (.v 3) ⟨.n8, false⟩), some (.min always (.v 1) (.v 2) (.v 3) ⟨.i8, false⟩), some (.max always (.v 1) (.v 2) (.v 3) ⟨.n16, false⟩),
     some (.abs always (.v 1) (.v 2) ⟨.i32, true⟩), some (.neg always (.v 1) (.v 2) ⟨.i16, false⟩)] := by decide
theorem test_decode_shift_and_move :
    [word 0x1E (fv 1) (fv 2) (fv 3) 10, word 0x1F (fv 1) (fv 2) (fv 3) 2, word 0x20 (fv 1) (fv 2) (fv 3) 6, word 0x21 (fv 2) (fv 4) (fv 3) 3, word 0x22 (fx 2) (fv 4) (fv 5) 6 5,
     word 0x23 (fv 2) (fv 4) (fv 6) 3 0 (fx 5), word 0x24 (fv 2) (fk 4) 0 3, word 0x25 (fk 1) (fv 2) (fk 3), word 0x26 (fv 2) (fv 4) (fv 6) (6 + 8 * 7), word 0x27 (fv 1) (fv 2) 0 2,
     word 0x28 (fv 1) (fv 2) 0 0, word 0x29 (fv 2) (fv 4) 0 3, word 0x2A (fv 1) (fv 2) (fv 3) 0 0 (fv 4), word 0x2B (fv 1) (fk 2) 0 0 2] =
    [some (.shl always (.v 1) (.v 2) (.v 3) ⟨.n32, true⟩), some (.shr always (.v 1) (.v 2) (.v 3) ⟨.n32, false⟩), some (.sar always (.v 1) (.v 2) (.v 3) ⟨.i32, false⟩),
     some (.rot always (.v 2) (.v 4) (.v 3) ⟨.n64, false⟩), some (.cmp always 2 (.v 4) (.v 5) .ge ⟨.i32, false⟩), some (.sel always (.v 2) (.v 4) (.v 6) 5 .n64),
     some (.mov always (.v 2) (.k 4) true), some (.movk always 1 2 (.k 3)), some (.lea always (.v 2) (.v 4) (.v 6) true 7), some (.clz always (.v 1) (.v 2) ⟨.n32, false⟩),
     some (.popc always (.v 1) (.v 2) ⟨.n8, false⟩), some (.brev always (.v 2) (.v 4) ⟨.n64, false⟩), some (.sad always (.v 1) (.v 2) (.v 3) (.v 4) ⟨.n8, false⟩), some (.idx always (.v 1) (.k 2) .sub)] := by decide
theorem test_decode_logic_and_lanes :
    [word 0x2C (fv 1) (fv 2) (fv 3) 2, word 0x2D (fv 2) (fv 4) (fv 6) 3, word 0x2E (fk 1) (fk 2) (fi) 2 0 0xFFFFFFFF, word 0x2F (fv 1) (fv 2) 0 2, word 0x30 (fv 1) (fv 2) (fv 3) 0x16 2 (fv 4),
     word 0x31 (fv 2) (fv 4) (fv 1) 7, word 0x32 (fv 1) (fv 2) (fv 3) 2 0 (fv 4), word 0x33 (fv 1) (fv 2) (fv 3) 0 0 (fv 4), word 0x34 (fv 1) (fv 2) (fv 3) 2 4, word 0x35 (fv 1) (fv 2) (fk 3),
     word 0x36 (fx 1) (fx 3) 0 0 2, word 0x37 (fv 8) (fv 3) 0 2 0, word 0x38 (fk 2) (fv 3) 0 2 0, word 0x39 (fx 1) (fx 2) (fx 3) 0 3, word 0x3A (fx 1) (fv 9) 0 0 1, word 0x3B (fv 9) 0 0 0 4] =
    [some (.and always (.v 1) (.v 2) (.v 3) false), some (.or always (.v 2) (.v 4) (.v 6) true), some (.xor always (.k 1) (.k 2) (.imm 0xFFFFFFFF) false), some (.not always (.v 1) (.v 2) false),
     some (.tlut always (.v 1) (.v 2) (.v 3) (.v 4) 0x96), some (.bfx always (.v 2) (.v 4) (.v 1) .i64), some (.bfi always (.v 1) (.v 2) (.v 3) (.v 4) .n32), some (.bpick always (.v 1) (.v 2) (.v 3) (.v 4)),
     some (.lperm always (.v 1) (.v 2) (.v 3) .rot false), some (.xchg always (.v 1) (.v 2) (.k 3)), some (.pcon always (.same 1) 3), some (.lgrp always (.set 8) (.v 3) false),
     some (.kred always 2 3 .add ⟨.n32, false⟩), some (.pset always 1 2 3 .andn), some (.pmov always (.vp 1 9)), some (.lanemask always 9 .eq)] := by decide
theorem test_decode_float :
    [word 0x3C (fv 1) (fv 2) (fv 3) 1, word 0x3D (fv 1) (fv 2) (fv 3) 4, word 0x3E (fv 1) (fv 2) (fv 3) 8 0 (fv 4), word 0x3F (fv 1) (fv 2) (fv 3) 0 1, word 0x40 (fx 1) (fv 2) (fv 3) 0 6, word 0x41 (fx 1) (fv 2) (fk 3),
     word 0x42 (fv 1) (fv 2) 0 2, word 0x43 (fv 1) (fv 2) (fv 3) 32, word 0x44 (fv 2) (fv 4) (fv 6), word 0x45 (fv 2) (fv 4) (fv 6), word 0x46 (fv 2) (fv 4) (fv 6) 0 0 (fv 8), word 0x47 (fv 2) (fv 4) (fv 6),
     word 0x48 (fx 1) (fv 4) (fv 6) 0 7, word 0x49 (fx 1) (fv 4) (fv 5), word 0x4A (fv 2) (fv 4) 0 3, word 0x4B (fv 2) (fv 4) (fv 5)] =
    [some (.fadd always (.v 1) (.v 2) (.v 3) ⟨.rz, false, false, false, false⟩), some (.fmul always (.v 1) (.v 2) (.v 3) ⟨.rne, true, false, false, false⟩), some (.ffma always (.v 1) (.v 2) (.v 3) (.v 4) ⟨.rne, false, true, false, false⟩),
     some (.fmnx always (.v 1) (.v 2) (.v 3) true ⟨.rne, false, false, false, false⟩), some (.fcmp always 1 (.v 2) (.v 3) .nan ⟨.rne, false, false, false, false⟩), some (.fcls always 1 (.v 2) (.k 3) ⟨.rne, false, false, false, false⟩),
     some (.frnd always (.v 1) (.v 2) ⟨.rm, false, false, false, false⟩), some (.fscl always (.v 1) (.v 2) (.v 3) ⟨.rne, false, false, false, true⟩), some (.dadd always (.v 2) (.v 4) (.v 6) ⟨.rne, false, false, false, false⟩),
     some (.dmul always (.v 2) (.v 4) (.v 6) ⟨.rne, false, false, false, false⟩), some (.dfma always (.v 2) (.v 4) (.v 6) (.v 8) ⟨.rne, false, false, false, false⟩), some (.dmnx always (.v 2) (.v 4) (.v 6) false ⟨.rne, false, false, false, false⟩),
     some (.dcmp always 1 (.v 4) (.v 6) .num ⟨.rne, false, false, false, false⟩), some (.dcls always 1 (.v 4) (.v 5) ⟨.rne, false, false, false, false⟩), some (.drnd always (.v 2) (.v 4) ⟨.rp, false, false, false, false⟩),
     some (.dscl always (.v 2) (.v 4) (.v 5) ⟨.rne, false, false, false, false⟩)] := by decide
theorem test_decode_half_and_convert :
    [word 0x4C (fv 1) (fv 2) (fv 3) 32, word 0x4D (fv 1) (fv 2) (fv 3), word 0x4E (fv 1) (fv 2) (fv 3) 16 0 (fv 4), word 0x4F (fv 1) (fv 2) (fv 3), word 0x50 (fx 6) (fv 2) (fv 3) 0 0, word 0x51 (fx 0) (fv 2) (fv 3),
     word 0x52 (fv 1) (fv 2), word 0x53 (fv 1) (fv 2) (fv 3), word 0x54 (fv 2) (fv 3) 0 (1 + 4 * 0 + 16 * 1), word 0x55 (fv 1) (fv 2) 0 5 7 (fs := 3), word 0x56 (fv 1) (fv 2) 0 1 2 (fs := 6), word 0x57 (fv 1) (fv 2) (fv 3) 36,
     word 0x58 (fv 2) (fv 3) 0 0, word 0x59 (fv 1) (fv 2) 0 (1 + 4 * 1 + 16 * 2) 1, word 0x5A (fv 1) (fv 2) 0 (0 + 4 * 1 + 16 * 2) 0, word 0x5B (fv 1) (fv 2) 0 12 6] =
    [some (.hadd always (.v 1) (.v 2) (.v 3) ⟨.rne, false, false, false, true⟩), some (.hmul always (.v 1) (.v 2) (.v 3) ⟨.rne, false, false, false, false⟩), some (.hfma always (.v 1) (.v 2) (.v 3) (.v 4) ⟨.rne, false, false, true, false⟩),
     some (.hmnx always (.v 1) (.v 2) (.v 3) false ⟨.rne, false, false, false, false⟩), some (.hcmp always 6 (.v 2) (.v 3) .eq ⟨.rne, false, false, false, false⟩), some (.hcls always 0 (.v 2) (.v 3) ⟨.rne, false, false, false, false⟩),
     some (.hrnd always (.v 1) (.v 2) ⟨.rne, false, false, false, false⟩), some (.hscl always (.v 1) (.v 2) (.v 3) ⟨.rne, false, false, false, false⟩), some (.cvt always (.v 2) (.v 3) .rz .f64 .f32), some (.cvtn always (.v 1) (.v 2) .f32 true 3 7),
     some (.cvtw always (.v 1) (.v 2) .f32 6 2), some (.pack always (.v 1) (.v 2) (.v 3) .rne true true), some (.unpk always (.v 2) (.v 3) false), some (.cvti always (.v 1) (.v 2) .rz .f32 .w32 true),
     some (.cvtf always (.v 1) (.v 2) .rne .f32 .w32 false), some (.cvts always (.v 1) (.v 2) .i8 .i32 true)] := by decide
theorem test_decode_special_function :
    [word 0x5C (fv 1) (fv 2), word 0x5D (fv 1) (fv 2), word 0x5E (fv 1) (fv 2), word 0x5F (fv 1) (fv 2), word 0x60 (fk 1) (fk 2), word 0x61 (fv 1) fi 0 0 0 0x3F800000, word 0x62 (fv 1) (fv 2), word 0x63 (fv 1) (fv 2)] =
    [some (.rcp always (.v 1) (.v 2)), some (.rsq always (.v 1) (.v 2)), some (.sqrt always (.v 1) (.v 2)), some (.ex2 always (.v 1) (.v 2)), some (.lg2 always (.k 1) (.k 2)), some (.sin always (.v 1) (.imm 0x3F800000)),
     some (.cos always (.v 1) (.v 2)), some (.tanh always (.v 1) (.v 2))] := by decide
theorem test_decode_memory :
    [word 0x64 (fv 8) (fv 4) 0 (6 + 8 * 4) 1 0xFFFFFFF0, word 0x65 0 (fv 4) (fv 6) (3 + 8 * 6) 7 8, word 0x66 (fv 1) (fk 2) 0 8 3 1, word 0x67 0 (fv 4) (fv 9) 0 4, word 0x68 (fk 2) (fk 4) 0 3 0 16, word 0x69 (fv 1) (fv 2) 0 4 3 4,
     word 0x6A 0 (fv 2) (fv 3) 2 2 0, word 0x6B (fv 1) (fv 2) 0 5 0 2, word 0x6C (fv 1) (fv 4) (fv 3) (2 + 8 * 3) 7 4, word 0x6D (fv 2) (fv 4) (fv 6) (3 + 8 * 2) 0 (fv 8), word 0x6E 0 0 0 (8 * 6) 3, word 0x6F 0 (fv 4) 0 0 0 128,
     word 0x70 0 0 0 8 1, word 0x71 0 (fk 4) 0 0 1 64, word 0x72 0 (fk 4) (fk 1) 2 0 4, word 0x73 (fv 2)] =
    [some (.ld always (.v 8) (.v 4) 0xFFFFFFF0 .n128 .dev .byp), some (.st always (.v 4) (.v 6) 8 .n64 .sys .strm true), some (.ldb always (.v 1) (.k 2) 1 .bolt .strm), some (.stb always (.v 4) (.v 9) 0 .sk .keep true),
     some (.ldk always 2 4 16 true .sk .keep), some (.ldp always 1 2 4 .i8 3), some (.stp always 2 (.v 3) 0 .n32 2), some (.ldw always 1 2 2 .i16), some (.atom always (.v 1) (.v 4) (.v 3) 4 .inc .n32 .die),
     some (.atomc always (.v 2) (.v 4) (.v 6) (.v 8) .n64 .clu), some (.fence always .sc .sys), some (.cflush always (some (.v 4)) 128 .sk), some (.cinv always none 0 .bolt), some (.pref always (.k 4) 64 true),
     some (.stk always 4 1 4 false .sk .keep), some (.seqr always (.v 2))] := by decide
theorem test_decode_tiles_and_pipes :
    [word 0x74 (fx 255) (fk 2) 0 3 0 (fk 6), word 0x75 0 (fk 2) (fx 4) 0 0 (fk 6), word 0x76 (fx 4) (fk 2) (fv 6), word 0x77 0 (fk 2) (fx 4) 1 0 (fv 6), word 0x78 (fx 4) (fx 5) 0 0 3, word 0x79 (fx 4) (fv 5),
     word 0x7A (fx 4) (fx 5) (fk 6) 0 4, word 0x7B (fx 4), word 0x7C 0 (fx 4) (fx 63), word 0x7D (fx 4) (fx 63), word 0x7E (fk 4) (fx 5) 0 0 3, word 0x7F 0 (fx 5), word 0x80 0 (fx 5) 0 0 1, word 0x81 0 (fx 5)] =
    [some (.tload always 255 2 6 .strm), some (.tstore always 2 4 6 .keep), some (.tgather always 4 2 6 .keep), some (.tscat always 2 4 6 .byp), some (.tpeer always 4 5 3), some (.tfill always 4 (.v 5)),
     some (.coll always 4 5 6 .gath), some (.trel always 4), some (.ppush always 4 63), some (.ppop always 4 63), some (.pstat always 4 5 .state), some (.pclose always 5), some (.pwait always 5 true), some (.preopen always 5)] := by decide
theorem test_decode_matrix_and_system :
    [word 0x82 (fx 3) (fx 8) (fx 9) 1 1 (40 + 1024 * 5), word 0x83 (fx 31) (fx 30) (fx 255) 0 0 0 7, word 0x84 (fx 31), word 0x85 (fx 3) (fx 8), word 0x86 (fx 8) (fx 3) 0 0 0 0 1, word 0x87 0 (fv 5) fi 0 2 9, word 0x88 (fx 23) (fk 5) 0 0 0,
     word 0x88 (fx 23) 0 0 0 1, word 0x88 (fx 23) 0 0 0 2, word 0x89 0 (fx 7) 0 0 0 63, word 0x8A, word 0x8B, word 0x8C 0 0 0 0 0 8, word 0x8D 0 0 0 0 0 240, word 0x8E (fk 8) 0 0 0 0 11, word 0x8F 0 (fv 9) 0 0 0 12,
     word 0x8F 0 fi 0 0 0 (0x123456 * 256 + 12)] =
    [some (.mma always 3 8 9 true (some ⟨40, 5⟩)), some (.mmac always 31 30 255 7 false none), some (.accz always 31), some (.accl always 3 8), some (.accd always 8 3 1), some (.adpf always (.v 5) (.imm 9) .bm), some (.barInit always 23 (.k 5)),
     some (.barArrive always 23), some (.barWait always 23), some (.waitc always 7 63), some (.baste always), some (.hem always), some (.grow always 8), some (.shrink always 240), some (.sread always (.k 8) 11), some (.swrite always (.v 9) 12),
     some (.swrite always (.imm 0x123456) 12)] := by decide
/-- Hint fields and the guard: negated p2, yield, retain B, second set flag. -/
theorem test_decode_hints : decodeTableWord 96 (0x08 + 2 * 2 ^ 8 + 2 ^ 11 + 2 ^ 88 + 2 * 2 ^ 89 + 2 ^ 91) = some (.exit ⟨2, true, true, true, 2⟩) := by decide
/-- R29, R31, R32, R40, R43, R44: a reserved opcode, an odd pair, a pair past the end, class 11 in D, class 10 in a plain source, two immediates,
a uniform destination beside a vector source, class 11 in C, index limits, unassigned modifier and sub-operation values. -/
theorem test_decode_refuses :
    [word 0x90, word 0xEF, word 0x44 (fv 3) (fv 4) (fv 6), word 0x44 (fk 62) (fk 64) (fk 2), word 0x10 fi (fv 1) (fv 2) 2, word 0x10 (fv 1) (fx 1) (fv 2) 2, word 0x10 (fv 1) fi fi 2, word 0x10 (fk 1) (fv 1) (fk 2) 2,
     word 0x16 (fv 1) (fv 2) (fv 3) 2 0 fi, word 0x39 (fx 8) (fx 1) (fx 2), word 0x84 (fx 32), word 0x88 (fx 24) 0 0 0 1, word 0x7F 0 (fx 64), word 0x89 0 (fx 8), word 0x64 (fv 8) (fv 4) 0 7, word 0x65 0 (fv 4) (fv 6) 4,
     word 0x6E 0 0 0 (8 * 7), word 0x22 (fx 2) (fv 4) (fv 5) 6 6, word 0x05 (mod := 30), word 0x0F (d := fx 2) (a := fv 254), word 0x8E (fk 8) 0 0 0 0 13, word 0x50 (fx 7) (fv 2) (fv 3), word 0x17 (fv 2) (fv 3) (fv 4) 7 0 (fv 8),
     parts 0 0 0x00000000, parts 0 0 0x00000900, parts 0 0 0x19000100].all Option.isNone = true := by decide
/-! Well-formedness: each check refuses an ill-formed term. -/

theorem test_wf_refuses_registers :  -- R28, R32: indexes, pairs, quadruples
    [.add always (.v 256) (.v 0) (.v 0) ⟨.n32, false⟩, .add always (.k 64) (.k 0) (.k 0) ⟨.n32, false⟩, .add always (.v 1) (.v 0) (.v 0) ⟨.n64, false⟩, .mov always (.v 0) (.k 63) true,
     .dadd always (.v 2) (.v 3) (.v 4) ⟨.rne, false, false, false, false⟩, .lgrp always (.set 2) (.v 0) false, .lgrp always (.same 8) (.v 0) false, .pcon always (.ballot 62) 0, .pcon always (.count 64) 0,
     .pcon always (.all 0) 8, .pset always 0 8 0 .and, .pmov always (.pv 256 0), .pmov always (.unpk 256), .kred always 63 0 .add ⟨.n64, false⟩, .lanemask always 256 .lt, .movk always 64 0 (.v 0), .brx always 256,
     .ld always (.v 2) (.v 4) 0 .n128 .sk .keep, .ld always (.v 0) (.v 3) 0 .n32 .sk .keep, .ldk always 1 4 0 true .sk .keep, .seqr always (.v 1), .unpk always (.v 1) (.v 0) false,
     .cvt always (.v 1) (.v 0) .rne .f64 .f32].all (fun i : Instr => !i.wf) = true := by decide
theorem test_wf_refuses_classes :  -- R29, R31: the immediate, uniform destinations
    [.add always (.v 0) (.imm 0) (.imm 0) ⟨.n32, false⟩, .add always (.k 0) (.v 0) (.k 0) ⟨.n32, false⟩, .mad always (.v 0) (.imm 0) (.v 0) (.v 0) ⟨.n32, false⟩, .mad always (.k 0) (.k 0) (.k 0) (.v 0) ⟨.n32, false⟩,
     .addc always (.v 0) (.v 0) (.imm 0) 1 .n32, .fcmp always 8 (.v 0) (.v 0) .eq ⟨.rne, false, false, false, false⟩, .hcmp always 7 (.v 0) (.v 0) .eq ⟨.rne, false, false, false, false⟩,
     .adpf always (.imm 0) (.imm 0) .both, .ld always (.k 0) (.v 4) 0 .n32 .sk .keep, .atom always (.k 0) (.k 4) (.v 0) 0 .add .n32 .sk].all (fun i : Instr => !i.wf) = true := by decide
theorem test_wf_refuses_fields :  -- R34, R43 to R45: headers, assigned values, index limits
    [.clauseIssue ⟨0, 0, none, none, false⟩, .clauseIssue ⟨9, 0, none, none, false⟩, .clauseIssue ⟨1, 0, some 12, none, false⟩, .clauseIssue ⟨1, 0, none, some 12, false⟩, .exit ⟨8, false, false, false, 0⟩, .exit ⟨0, false, false, false, 4⟩,
     .call always 30 0, .callx always 30 0, .stitch always 8 0 false, .stitch always 0 254 false, .madw always (.v 0) (.v 0) (.v 0) (.v 0) ⟨.n64, false⟩, .sel always (.v 0) (.v 0) (.v 0) 0 .n8, .bfx always (.v 0) (.v 0) (.v 0) .i16,
     .lea always (.v 0) (.v 0) (.v 0) true 8, .cvtn always (.v 0) (.v 0) .f32 false 8 0, .cvtw always (.v 0) (.v 0) .f32 0 8, .st always (.v 0) (.v 0) 0 .i8 .sk .keep false, .stp always 0 (.v 0) 0 .i16 0, .ldp always 0 0 0 .n32 4,
     .tload always 256 0 0 .keep, .tpeer always 0 0 4, .ppush always 0 64, .mma always 32 0 0 false none, .mma always 0 0 0 false (some ⟨256, 0⟩), .mmac always 0 32 0 0 false none, .mmac always 0 0 0 8 false none, .accd always 0 32 0,
     .barArrive always 24, .waitc always 8 0, .waitc always 0 64, .sread always (.v 0) 13, .swrite always (.v 0) 13, .sread always (.v 1) 8, .swrite always (.imm 0x1000000) 12].all (fun i : Instr => !i.wf) = true := by decide
theorem test_wf_refuses_events :  -- units the package has not (R13, R14)
    [.skeinEnd 192 0, .skeinEnd 0 64, .boltEnd 192 0, .requestPortSend 4 0, .requestPortSend 0 16, .sliceAccept 64, .hbmSlotService 384 0 [], .dieLinkSlot 16, .wsRefreshWindowEnd 0 32, .storeQueueEntryToL1 0 4, .copyLineTransfer 0 ⟨4, 0, []⟩,
     .collResult 4096 0 [], .collResult 0 4 [], .qtailWrite 65536 0, .ualctlRoll 16, .thermalTrip 192, .registerWrite 16777216 true 0, .registerWrite 4 true 0, .registerWrite 2 false 0].all (fun i : Instr => !i.wf) = true := by decide
theorem test_wf_accepts_limits :
    [.add always (.v 255) (.v 255) (.k 63) ⟨.n32, false⟩, .mov always (.k 62) (.k 62) true, .lgrp always (.set 252) (.v 0) false, .clauseIssue ⟨8, 0xFFF, some 11, some 0, true⟩, .stitch always 7 253 true, .call always 29 0,
     .swrite always (.imm 0xFFFFFF) 12, .sread always (.k 62) 8, .skeinEnd 191 63, .sliceAccept 63].all Instr.wf = true := by decide
/-! A small machine: core 0 of a ready device runs one skein in slot 0, single-path, with lanes 0 and 1, an open window of 16 positions, and one
page of memory translated. -/

/-- Two running lanes. -/
def two : LMask := 3
def path1 : Path := { pc := 10, clause := some { words := [0], pos := 0, set1 := some 0, set2 := some 1 }, mask := two, win := ⟨0, 16⟩ }
/-- v0 and v2 of lanes 0 and 1, k0 and k2, p1 in lane 0. -/
def skein1 : Skein :=
  { bolt := 1, index := 0, globals := 16, exited := allLanes ^^^ two, paths := [(0, path1)],
    vregs := [(0, [7, 0xFFFFFFFF]), (2, [3, 0])], kregs := [(0, 5), (2, 0x100)], preds := [(1, 1)] }
def launch1 : Launch := { backing := 30, skeins := 1, globals := 16, accums := 2, ctxArea := 0x100000, stride := 0x10000 }
def grid1 : Grid :=
  { launch := launch1, queue := 3, seq := 9, plan := none, part := 8, prio := 0, started := 0, todo := [], saved := [], running := 1, blockwise := none
    failed := false, stopped := false, boltsStopped := 0, done := false, lastEnd := none }
def bolt1 : Bolt := { grid := 1, block := 0, slots := [0], accs := [0, 1] }
/-- Virtual 0 to 16 MiB of context 0 stands at physical 0. -/
def page1 : TlbEntry := { ctx := 0, va := 0, size := 0x1000000, pa := 0, type := 0, x := true, w := true }
def core1 : Core := { skeins := [(0, skein1)], bolts := [(1, bolt1)], nextBolt := 2, tlb := [page1] }
def dev1 : Device := { (State.reset).dev with phase := .ready, cores := BitVec.allOnes 192, slices := BitVec.allOnes 64, sram := 15, hbmStacks := BitVec.allOnes 12, second := 15, wstore := 15 }
def s1 : State := { State.reset with dev := dev1, cores := [(0, core1)], grids := [(1, grid1)], cur := some ⟨0, 0, 0, none⟩ }
/-- The same machine with another skein, or another core. -/
def withSkein (sk : Skein) : State := { s1 with cores := [(0, { core1 with skeins := [(0, sk)] })] }
def withCore (c : Core) : State := { s1 with cores := [(0, c)] }
def withDev (d : Device) : State := { s1 with dev := d }
/-- The instruction in hand. -/
def ctx (s : State) : Ctx := (ctxOf s).getD default
/-- p1, which holds in lane 0 alone. -/
def inP1 : Ctl := ⟨1, false, false, false, 0⟩
/-- The instruction passes the checks of its issue on a state, with a guard. -/
def Passes (s : State) (k : Checks) (c : Ctl) (i : Instr) : Bool := decide (Ready k (Instr.use i) c (ctx s) s)
/-- The next state. -/
def after (i : Instr) (s : State) : State := match exec i s with | .next t => t | _ => s
def sk' (s : State) : Skein := (skeinOf s 0 0).getD default
/-- Lane `l` of vector register `n`, of the skein in slot 0. -/
def lane (s : State) (n l : Nat) : Nat := (vlane (vget (sk' s) n) l).toNat

/-! Hypotheses that can be met: for each obligation, states and operands for each of its clauses. -/

/-- IntegerArithmetic, CarryChain, Shifts, BitCounts, MovesAndCompares, LogicAndFields: every instruction passes its checks on one state, under a guard
that holds in one lane, with a window's last register, the last uniform register, a pair and an immediate among the operands. -/
theorem witness_integer : ∀ i ∈ ([.add inP1 (.v 31) (.v 0) (.imm 1) ⟨.n8, true⟩, .sub inP1 (.k 63) (.k 0) (.k 2) ⟨.i32, false⟩, .mul inP1 (.v 4) (.v 0) (.v 2) ⟨.n64, false⟩, .mulh inP1 (.v 4) (.v 0) (.v 2) ⟨.i64, false⟩,
    .mad inP1 (.v 4) (.v 0) (.v 2) (.k 0) ⟨.i16, true⟩, .madw inP1 (.v 4) (.v 0) (.v 2) (.v 2) ⟨.i32, true⟩, .min inP1 (.v 4) (.v 0) (.v 2) ⟨.i8, false⟩, .max inP1 (.v 4) (.v 0) (.v 2) ⟨.n16, false⟩, .abs inP1 (.v 4) (.v 0) ⟨.i32, true⟩,
    .neg inP1 (.v 4) (.v 0) ⟨.i8, false⟩, .sad inP1 (.v 4) (.v 0) (.v 2) (.v 2) ⟨.n8, false⟩, .addc inP1 (.v 4) (.v 0) (.v 2) 1 .n32, .subc inP1 (.v 4) (.v 0) (.v 2) 7 .i64, .shl inP1 (.v 4) (.v 0) (.imm 255) ⟨.i32, true⟩,
    .shr inP1 (.v 4) (.v 0) (.imm 32) ⟨.n32, false⟩, .sar inP1 (.v 4) (.v 0) (.v 2) ⟨.i64, false⟩, .rot inP1 (.v 4) (.v 0) (.v 2) ⟨.n8, false⟩, .clz inP1 (.v 4) (.v 5) ⟨.n32, false⟩, .popc inP1 (.v 4) (.v 0) ⟨.n8, false⟩,
    .brev inP1 (.v 4) (.v 0) ⟨.n64, false⟩, .cmp inP1 7 (.v 0) (.v 2) .lt ⟨.i32, false⟩, .sel inP1 (.v 4) (.v 0) (.v 2) 1 .n64, .mov inP1 (.k 62) (.k 2) true, .movk inP1 63 0 (.imm 127), .lea inP1 (.v 4) (.v 0) (.v 2) true 7,
    .idx inP1 (.v 4) (.v 0) .grid, .and inP1 (.v 4) (.v 0) (.v 2) true, .or inP1 (.v 4) (.v 0) (.v 2) false, .xor inP1 (.v 4) (.v 0) (.v 2) false, .not inP1 (.v 4) (.v 0) true, .tlut inP1 (.v 4) (.v 0) (.v 2) (.k 0) 0x96,
    .bfx inP1 (.v 4) (.v 0) (.v 2) .i64, .bfi inP1 (.v 4) (.v 0) (.v 2) (.k 2) .n32, .bpick inP1 (.v 4) (.v 0) (.v 2) (.k 2)] : List Instr), Passes s1 {} inP1 i := by decide
/-- Division: the same, with room on the flag; and an operation that waits with its result. -/
def quotient : Op := { cls := .special, path := 0, body := .result (delayed (activeCtx (ctx s1) always) 2 (.k 62) (fun l => if l = 0 then 2 else 0xFFFFFFFFFF)) }
def dividing : State := withSkein { skein1 with ops := [(5, quotient)] }
theorem witness_division : (∀ i ∈ ([.div always (.v 4) (.v 0) (.v 2) ⟨.i32, true⟩, .rem always (.v 4) (.v 0) (.v 2) ⟨.n64, false⟩] : List Instr), Passes s1 {} always i) ∧ flagRoom (ctx s1) always = true ∧
    (activeCtx (ctx dividing) always).act ≠ 0 ∧ skeinOf dividing 0 0 = some (ctx dividing).sk ∧ NMap.get? (ctx dividing).sk.ops 5 = some quotient ∧
    quotient.body = .result (delayed (activeCtx (ctx dividing) always) 2 (.k 62) (fun l => if l = 0 then 2 else 0xFFFFFFFFFF)) := by decide +kernel
/-- LaneOperations, Predicates. -/
theorem witness_lanes : ∀ i ∈ ([.lperm always (.v 4) (.v 0) (.v 2) .rot true, .xchg always (.v 4) (.v 0) (.imm 127), .pcon always (.all 2) 1, .pcon always (.any 7) 1, .pcon always (.same 2) 7, .pcon always (.ballot 60) 1, .pcon always (.count 63) 1,
    .lgrp always (.same 2) (.v 0) true, .lgrp always (.set 4) (.v 0) false, .kred always 4 0 .xor ⟨.n64, false⟩, .lanemask always 31 .eq, .pset always 7 1 2 .andn, .pmov always (.pv 4 7), .pmov always (.vp 2 0), .pmov always (.pack 4),
    .pmov always (.unpk 0)] : List Instr), Passes s1 {} always i := by decide
/-- FloatArithmetic, HalfPrecision, FloatCompareAndScale, Conversions. -/
theorem witness_float : let m : FMod := ⟨.rm, true, false, true, true⟩
    ∀ i ∈ ([.fadd always (.v 4) (.v 0) (.v 2) m, .fmul always (.v 4) (.v 0) (.imm 0x3F800000) m, .ffma always (.v 4) (.v 0) (.v 2) (.k 0) m, .dadd always (.v 4) (.v 0) (.v 2) m, .dmul always (.k 4) (.k 0) (.k 2) m,
    .dfma always (.v 4) (.v 0) (.v 2) (.v 6) m, .hadd always (.v 4) (.v 0) (.v 2) m, .hmul always (.v 4) (.v 0) (.v 2) m, .hfma always (.v 4) (.v 0) (.v 2) (.v 6) m, .hrnd always (.v 4) (.v 0) m, .hscl always (.v 4) (.v 0) (.v 2) m,
    .hmnx always (.v 4) (.v 0) (.v 2) true m, .hcmp always 6 (.v 0) (.v 2) .num m, .hcls always 0 (.v 0) (.v 2) m, .fmnx always (.v 4) (.v 0) (.v 2) false m, .frnd always (.v 4) (.v 0) m, .fscl always (.v 4) (.v 0) (.v 2) m,
    .fcmp always 7 (.v 0) (.v 2) .nan m, .fcls always 2 (.v 0) (.imm 1023) m, .dmnx always (.v 4) (.v 0) (.v 2) true m, .drnd always (.v 4) (.v 0) m, .dscl always (.v 4) (.v 0) (.v 2) m, .dcmp always 2 (.v 0) (.v 2) .eq m,
    .dcls always 2 (.v 0) (.v 2) m, .cvt always (.v 4) (.v 0) .rz .f64 .bf16, .pack always (.v 4) (.v 0) (.v 2) .rp true true, .unpk always (.v 4) (.v 0) false, .cvti always (.v 4) (.v 0) .rne .f64 .w64 true,
    .cvtf always (.v 4) (.v 0) .rne .f16 .w8 false, .cvts always (.v 4) (.v 0) .i8 .n64 true] : List Instr), Passes s1 {} always i := by decide
/-- Rounding: a value that every format holds, one that only rounds to infinity, and one zero of each sign. -/
theorem witness_rounding : finiteVal (ffDecode .f16 (roundFF .f16 .rne (.fin false 1 0))) = true ∧ finiteVal (ffDecode .f16 (roundFF .f16 .rne (.fin false 1 16))) = false ∧
    finiteVal (.fin true 0 0) = true ∧ (0 : Nat) < 1 := by decide
/-- NarrowConversions: slot 0 names an 8-bit format, with a position inside the register and one past its end. -/
def slotState : State := { s1 with grids := [(1, { grid1 with launch := { launch1 with fslots := [0x84] } })] }
theorem witness_narrow : launchSlot ((ctx slotState).launch slotState) 0 = (.narrow ⟨8, 4, false, false⟩, 0) ∧ (⟨8, 4, false, false⟩ : Narrow).k * (3 + 1) ≤ 32 ∧ 32 < (⟨8, 4, false, false⟩ : Narrow).k * (4 + 1) ∧
    (∀ i ∈ ([.cvtn always (.v 4) (.v 0) .f32 true 0 3, .cvtw always (.v 4) (.v 0) .f32 0 3, .cvtn always (.v 4) (.v 0) .f32 true 0 4, .cvtw always (.v 4) (.v 0) .f32 0 4] : List Instr), Passes slotState {} always i) := by decide
/-- SpecialFunctions: the checks pass; and a register of each kind of special value. -/
theorem witness_special : Passes s1 {} always (.rcp always (.v 4) (.v 0)) ∧ flagRoom (ctx s1) always = true ∧ ffDecode .f32 0x7FC00000 = .nan ∧ ffDecode .f32 0xFF800000 = .inf true ∧
    ffDecode .f32 0x80000000 = .fin true 0 (-149) ∧ ffDecode .f32 0x80000001 = .fin true 1 (-149) := by decide
/-- GuardFalse: p2 holds in no lane. -/
theorem witness_guard_false : let i : Instr := .add ⟨2, false, false, false, 0⟩ (.v 4) (.v 0) (.v 2) ⟨.n32, false⟩
    i.wf = true ∧ i ≠ .nop ∧ (encodeFields i).map Fields.ctl = some ⟨2, false, false, false, 0⟩ ∧ ctxOf s1 = some (ctx s1) ∧ guardLanes (ctx s1) ⟨2, false, false, false, 0⟩ = 0 := by decide
/-- Scheduling: a SLEEP of no clock and one of five; a path whose sleep ends in the present core clock, and one whose sleep ends in the next. -/
def sleeper (t : Nat) : State := withSkein { skein1 with paths := [(0, { path1 with sleep := some t })] }
theorem witness_scheduling : Passes s1 { guard := .any } always (.yield always) ∧ Passes s1 { guard := .any } always (.sleep always (.imm 0)) ∧ Passes s1 { guard := .any } always (.sleep always (.k 0)) ∧
    (srcWord (activeCtx (ctx s1) always) (.imm 0) 0).toNat = 0 ∧ (srcWord (activeCtx (ctx s1) always) (.k 0) 0).toNat ≠ 0 ∧
    ((pathOf (sleeper 0) 0 0 0).bind Path.sleep = some 0 ∧ 0 ≤ (coreOf (sleeper 0) 0).phase) ∧ ((pathOf (sleeper 1) 0 0 0).bind Path.sleep = some 1 ∧ ¬1 ≤ (coreOf (sleeper 1) 0).phase) := by decide
/-- Bytes of one line that an agent has. -/
theorem hand (s : State) (ag : Agent) (pa n : Nat) (bs : List Byte) (ln : AgentLine) (h : s.lines.find? (fun l => decide (l.agent = ag) && decide (l.line = pa / 128)) = some ln)
    (hn : pa % 128 + n ≤ 128) (hb : bs = (List.range n).map (fun i => lineByte ln.data (pa % 128 + i))) : InHand s ag pa n bs := by
  subst hb
  refine ⟨by simp, fun j hj => ⟨ln, ?_, ?_⟩⟩
  · rw [show (pa + j) / 128 = pa / 128 by omega]; exact h
  · rw [show (pa + j) % 128 = pa % 128 + j by omega]; simp [hj]
/-- A skein without stack entries and records waits for nothing. -/
theorem no_waits (sk : Skein) (m : LMask) (h1 : sk.stack ++ sk.paths.flatMap (fun p => p.2.own) = []) (h2 : sk.records = []) : AllWait sk m :=
  ⟨by rw [h1]; simp, by rw [h2]; simp⟩
/-- ClauseIssue: the clause at PC 10 is one EXIT; one word of a reserved opcode; and an EXIT whose header waits for a flag that counts an operation. -/
def coded (w : Nat) (flags : List (Nat × Nat)) : State :=
  { withSkein { skein1 with paths := [(0, { path1 with clause := none, flagOps := flags })] } with lines := [⟨.fetch 0 0 0, 1, BitVec.ofNat 1024 (w * 2 ^ 32), 0, 0⟩] }
theorem fetched_one (w : Nat) (h : (∀ j, j < 12 → canonical ((132 + j) % 2 ^ 64) = true ∧ tlbFind (coreOf (coded w []) 0).tlb ((ctx (coded w [])).launch (coded w [])).ctx (va57 ((132 + j) % 2 ^ 64)) = some page1 ∧
      tlbAccess page1 (va57 ((132 + j) % 2 ^ 64)) .fetch = .ok ⟨132 + j, 0⟩ ∧ useCheck (coded w []) (ctx (coded w [])).die ⟨132 + j, 0⟩ .fetch = .ok ⟨132 + j, 0⟩ ∧ (132 + j) / 128 = 1 ∧
      (leBytes 12 w)[j]? = some (lineByte (BitVec.ofNat 1024 (w * 2 ^ 32)) ((132 + j) % 128))) ∧ (leBytes 12 w).length = 12) :
    Fetched (ctx (coded w [])) (coded w []) 132 12 (leBytes 12 w) :=
  ⟨h.2, fun e he => by obtain rfl : e = page1 := List.mem_singleton.mp he; decide, fun j hj => have k := h.1 j hj
    ⟨k.1, page1, ⟨132 + j, 0⟩, ⟨.fetch 0 0 0, 1, BitVec.ofNat 1024 (w * 2 ^ 32), 0, 0⟩, k.2.1, k.2.2.1, k.2.2.2.1,
      by show (coded w []).lines.find? (fun l => decide (l.agent = .fetch 0 0 0) && decide (l.line = (132 + j) / 128)) = _; rw [k.2.2.2.2.1]; rfl, k.2.2.2.2.2⟩⟩
theorem witness_clause_fetched : Fetched (ctx (coded 0x708 [])) (coded 0x708 []) (codeAddr ((ctx (coded 0x708 [])).launch (coded 0x708 [])) 11) 12 (leBytes 12 0x708) :=
  fetched_one 0x708 (by decide +kernel)
theorem witness_clause_reserved : Fetched (ctx (coded 0x790 [])) (coded 0x790 []) (codeAddr ((ctx (coded 0x790 [])).launch (coded 0x790 [])) 11) 12 (leBytes 12 0x790) :=
  fetched_one 0x790 (by decide +kernel)
theorem witness_clause : wordsOf 1 (leBytes 12 0x708) = [0x708] ∧ wordOk 0x708 true = true ∧ wordsOf 1 (leBytes 12 0x790) = [0x790] ∧ wordOk 0x790 true = false ∧ (ctx (coded 0x708 [])).pa.flagOps = [] ∧
    (3, 1) ∈ (ctx (coded 0x708 [(3, 1)])).pa.flagOps ∧ (3 : Nat) < 12 ∧ (8 : BitVec 12).getLsbD 3 = true ∧ (ctx (coded 0x708 [(3, 1)])).sk.mat = none := by decide +kernel
/-- Branches: both lanes branch, or lane 0 alone does; a dual-path skein. -/
def dual : State := withSkein { skein1 with paths := [(0, { path1 with mask := 1 }), (1, { path1 with mask := 2, pc := 40, clause := none })] }
theorem witness_branches : (∀ s ∈ [s1, dual], (ctx s).lanes = without (ctx s).pa.mask (ctx s).sk.exited ∧ StacksFit (ctx s).sk 1 0) ∧ Passes s1 {} always (.bra always 5) ∧ Passes s1 {} inP1 (.bra inP1 0xFFFFFFF0) ∧
    Passes dual {} always (.brx always 0) ∧ without (ctx s1).lanes (activeCtx (ctx s1) always).act = 0 ∧ without (ctx s1).lanes (activeCtx (ctx s1) inP1).act ≠ 0 ∧
    ((lanesOf (activeCtx (ctx dual) always).act).map (fun l => vRead (activeCtx (ctx dual) always) 0 l)).toFinset.card ≤ 32 := by decide +kernel
/-- A path that holds 256 pending entries. -/
def fullStack : State := withSkein { skein1 with paths := [(0, { path1 with mask := 3, own := List.replicate 256 (.pend 90 4 ⟨0, 16⟩) }), (1, { path1 with mask := 8 })] }
theorem witness_full_stack : Passes fullStack {} inP1 (.bra inP1 5) ∧ Passes fullStack { guard := .coll } always (.setj always 5) ∧ singlePath (ctx fullStack).sk = false ∧ without (ctx fullStack).lanes (activeCtx (ctx fullStack) inP1).act ≠ 0 ∧
    target (ctx fullStack).pa 5 ≠ fallThrough (ctx fullStack).pa ∧ entryCount (ctx fullStack).sk = 256 := by decide +kernel
/-- SetAndJoin: an empty stack, and a join entry that expects the lanes of the path: all of them, or two and a third. -/
def joinState (e : LMask) : State := withSkein { skein1 with exited := allLanes ^^^ 7, stack := [.join 90 e 0 path1.win []] }
theorem witness_setj : Passes s1 { guard := .coll } always (.setj always 4) ∧ StacksFit (ctx s1).sk 1 0 ∧ Passes s1 {} always (.join always) ∧ topJoin (ctx s1).sk 0 = none := by decide
theorem witness_join : ∀ s ∈ [joinState two, joinState 7],
    Passes s {} always (.join always) ∧ Passes s {} inP1 (.join inP1) ∧ StacksFit (ctx s).sk 0 0 ∧ singlePath (ctx s).sk = true ∧ (ctx s).lanes = without (ctx s).pa.mask (ctx s).sk.exited ∧ without (ctx s).lanes (activeCtx (ctx s) always).act = 0 ∧
    without (ctx s).lanes (activeCtx (ctx s) inP1).act ≠ 0 := by decide
theorem witness_join_waits : ∀ s ∈ [joinState two, joinState 7], AllWait { (ctx s).sk with stack := [] } 0 := fun _ h => by
  rcases List.mem_pair.mp h with h | h <;> subst h <;> exact no_waits _ _ (by decide) (by decide)
theorem witness_join_stack : ((ctx (joinState two)).sk.stack = [.join 90 two 0 path1.win []] ∧ (ctx (joinState 7)).sk.stack = [.join 90 7 0 path1.win []]) ∧ within two two = true ∧ within two 7 = true ∧ within 1 7 = true ∧
    within (without two (ctx (joinState two)).sk.exited) two = true ∧ within (without 7 (ctx (joinState 7)).sk.exited) two = false ∧ within (without 7 (ctx (joinState 7)).sk.exited) 1 = false := by decide
/-- A join entry that expects lane 1 alone, and one under another window. -/
theorem witness_join_traps : let s := joinState 2
    let u := withSkein { skein1 with stack := [.join 90 two 0 ⟨8, 8⟩ []] }
    Passes s {} always (.join always) ∧ topJoin (ctx s).sk 0 = some (.join 90 2 0 path1.win []) ∧ 0 ∈ lanesOf (activeCtx (ctx s) always).act ∧ (2 : LMask).getLsbD 0 = false ∧
    Passes u {} always (.join always) ∧ topJoin (ctx u).sk 0 = some (.join 90 two 0 ⟨8, 8⟩ []) ∧ (ctx u).pa.win ≠ ⟨8, 8⟩ := by decide
theorem witness_join_tops : ∀ l ∈ lanesOf two, topRecord (ctx (joinState two)).sk l = keptTop [] l := by decide
/-- CallAndReturn: a call of the function at PC 14, whose frame the core holds, with the largest shift that the window bears and one more; CALLX of one target; a target that the core
does not hold, of a launch without a map; RET of all lanes of a record, of one of its two lanes, without a record, and of two records. -/
def calling : State := withCore { core1 with skeins := [(0, { skein1 with vregs := [(5, [14, 14])] })], mapCache := [(mapKey launch1, 14, 2)] }
/-- The map of one kernel, at PC 15, is at hand. -/
def mapless : State := { withSkein { skein1 with vregs := [(5, [14, 14])] } with lines := [⟨.frame 0 0 0, 0, BitVec.ofNat 1024 (15 + 2 * 2 ^ 32), 0, 0⟩] }
def record1 : FrameRec := ⟨4, 8, 16, 8, two, 0⟩
def returning : State := withSkein { skein1 with lk := [77, 77], records := [record1], paths := [(0, { path1 with win := ⟨8, 16⟩ })] }
def twoRecords : State := withSkein { skein1 with records := [⟨4, 8, 16, 8, 1, 0⟩, ⟨5, 8, 16, 8, 2, 0⟩], paths := [(0, { path1 with win := ⟨8, 16⟩ })] }
theorem witness_call : let x := ctx calling
    Passes calling {} always (.call always 1 4) ∧ Passes calling {} always (.callx always 1 5) ∧ x.lanes = without x.pa.mask x.sk.exited ∧ x.pa.win.size < 8 * 2 + 8 ∧ 8 * 1 + 8 ≤ x.pa.win.size ∧
    (∀ l ∈ lanesOf two, (coreOf calling 0).mapCache.find? (fun e => e.1 = mapKey (x.launch calling) ∧ e.2.1 = (vRead x 5 l).toNat) = some (mapKey (x.launch calling), (vRead x 5 l).toNat, 2)) ∧ target x.pa 4 = 14 ∧
    (lanesOf (activeCtx x always).act) = [0, 1] ∧ (∀ l ∈ lanesOf two, (vRead x 5 l).toNat = 14) ∧ StacksFit x.sk ((lanesOf (activeCtx x always).act).map (fun l => (vRead x 5 l).toNat)).toFinset.card 1 ∧
    (let top := max (topOf x.sk) (x.pa.win.base + 8 * 1 + 8 * 2)
     top ≤ 8 * (x.launch calling).backing ∧ (coreOf calling 0).regReqs = [] ∧ (top - topOf x.sk) / 8 ≤ freeGranules (coreOf calling 0)) ∧
    Passes mapless {} always (.call always 1 4) ∧ Passes mapless {} always (.callx always 1 5) ∧ (coreOf mapless 0).mapCache.find? (fun e => e.1 = mapKey ((ctx mapless).launch mapless) ∧ e.2.1 = 14) = none := by decide +kernel
theorem witness_map_lacks : MapLacks mapless (ctx mapless) 14 := by
  intro k hk
  obtain rfl : k = 0 := by have : (ctx mapless).launch mapless = launch1 := by decide
                           rw [this] at hk; exact Nat.lt_one_iff.mp hk
  exact ⟨page1, ⟨0, 0⟩, ⟨0, 0⟩, leBytes 8 (15 + 2 * 2 ^ 32), by decide +kernel, by decide, by decide, by decide +kernel, by decide +kernel, by decide +kernel,
    hand mapless _ _ _ _ ⟨.frame 0 0 0, 0, BitVec.ofNat 1024 (15 + 2 * 2 ^ 32), 0, 0⟩ rfl (by decide) (by decide +kernel), by decide +kernel⟩
theorem witness_return : let x := ctx returning
    Passes returning {} always (.ret always) ∧ Passes returning {} inP1 (.ret inP1) ∧ singlePath x.sk = true ∧ x.pa.own = [] ∧ x.sk.stack = [] ∧ x.sk.records = [record1] ∧ ([record1].map FrameRec.id).Nodup ∧ pendRegs x.sk = [] ∧
    (∀ l ∈ lanesOf two, topRecord x.sk l = some 4) ∧ without x.lanes (activeCtx x always).act = 0 ∧ without x.lanes (activeCtx x inP1).act ≠ 0 ∧ StacksFit x.sk 0 0 ∧
    StacksFit x.sk ((lanesOf two).map (fun l => vlane x.sk.lk l)).toFinset.card 0 ∧ within (without two x.sk.exited) two = true ∧ (∀ l ∈ lanesOf two, (vlane x.sk.lk l).toNat = 77) ∧
    Passes s1 {} always (.ret always) ∧ (∀ l ∈ lanesOf two, topRecord (ctx s1).sk l = none) ∧ Passes twoRecords {} always (.ret always) ∧ topRecord (ctx twoRecords).sk 0 ≠ topRecord (ctx twoRecords).sk 1 := by decide +kernel
theorem witness_return_waits : AllWait { (ctx returning).sk with records := [] } 0 ∧ AllWait { (ctx returning).sk with records := [{ record1 with arrived := 1 }] } 0 :=
  ⟨no_waits _ _ (by decide) (by decide), ⟨by rw [show (ctx returning).sk.stack ++ (ctx returning).sk.paths.flatMap (fun p => p.2.own) = [] from by decide]; simp,
    fun r h => by obtain rfl := List.mem_singleton.mp h; exact ⟨1, by decide, by decide, by decide⟩⟩⟩
/-- ExitAndKill: the last lanes exit, with and without a task open, or lane 0 alone. -/
theorem witness_exit : let x := ctx s1
    x.lanes = without x.pa.mask x.sk.exited ∧ x.sk.run = .running ∧ Passes s1 {} always (.exit always) ∧ Passes s1 {} inP1 (.exit inP1) ∧ Passes s1 { guard := .coll } always (.kill always) ∧ StacksFit x.sk 0 0 ∧ x.sk.deep = (0, 0) ∧
    (∀ e ∈ x.sk.paths, within (without e.2.mask x.sk.exited) (activeCtx x always).act = true) ∧ x.sk.taskOpen = false ∧ x.sk.copyFaults = [] ∧ x.sk.mat = none ∧ x.sk.exited ||| (activeCtx x always).act = allLanes ∧
    without x.lanes (activeCtx x inP1).act ≠ 0 ∧ (∀ e ∈ x.sk.paths, e.1 ≠ x.path → without e.2.mask (x.sk.exited ||| (activeCtx x inP1).act) ≠ 0) ∧ pendRegs x.sk = [] ∧
    (let s := withSkein { skein1 with taskOpen := true }
     Passes s {} always (.exit always) ∧ (∀ e ∈ (ctx s).sk.paths, within (without e.2.mask (ctx s).sk.exited) (activeCtx (ctx s) always).act = true) ∧ (ctx s).sk.taskOpen = true) := by decide +kernel
theorem witness_exit_waits : AllWait (ctx s1).sk (activeCtx (ctx s1) inP1).act := no_waits _ _ (by decide) (by decide)
/-- TrapEntry: a fatal trap, one without a handler, one in handler mode, and one that a handler takes, whose detail block stands in memory. -/
def handled : State := { s1 with grids := [(1, { grid1 with launch := { launch1 with handler := 1200 } })] }
theorem witness_trap : skeinOf s1 0 0 = some skein1 ∧ NMap.get? skein1.paths 0 = some path1 ∧ path1.stitchOp = none ∧ fatalCode 0x38 = true ∧ (launchOf s1 0 1).handler = 0 ∧ fatalCode 0x30 = false ∧
    (launchOf handled 0 1).handler ≠ 0 ∧ skein1.frame = none ∧
    (let s := withSkein { skein1 with control := [.detail [1, 2, 3, 4]] }
     let va := 0x800 + skeinSection (launchOf s 0 1) (((boltOf s 0 1).map Bolt.block).getD 0) 0
     (sk' s).control = [.detail [1, 2, 3, 4]] ∧ canonical va = true ∧ va % 128 + 32 ≤ 128 ∧ tlbFind (coreOf s 0).tlb (launchOf s 0 1).ctx (va57 va) = some page1 ∧
     tlbAccess page1 (va57 va) .write = .ok ⟨0x300800, 0⟩ ∧ useCheck s (dieOf 0) ⟨0x300800, 0⟩ .other = .ok ⟨0x300800, 0⟩ ∧ isMain 0x300800 = true ∧ 0x300800 % 128 + 32 ≤ 128) := by decide +kernel
/-- TrapInstructions: TRAP, BRK with and without the halt, RTE outside handler mode, dual-path, and in handler mode. -/
def inHandler : State := withSkein { skein1 with frame := some { paths := [(0, { path1 with pc := 40 })], trapPath := 0, stack := [], records := [] } }
theorem witness_traps : Passes s1 { guard := .any } always (.trap always 5) ∧ s1.dev.dbgcfg.getLsbD 1 = false ∧ (withDev { dev1 with dbgcfg := 2 }).dev.dbgcfg.getLsbD 1 = true ∧ Passes s1 { guard := .coll } always (.rte always) ∧
    (ctx s1).sk.frame = none ∧ Passes inHandler { guard := .coll } always (.rte always) ∧ (ctx inHandler).sk.frame ≠ none ∧ singlePath (ctx inHandler).sk = true ∧ (ctx inHandler).sk.mat = none ∧
    pendAbove (ctx inHandler).sk (topOf (sk' (after (.rte always) inHandler))) = false ∧ singlePath (ctx dual).sk = false := by decide +kernel
/-- Stitch: lane 0 supplies the word of `add v4, v0, v0`, lane 1 a word whose opcode a STITCH does not permit. -/
def stitching : State := withSkein { skein1 with vregs := [(0, [7, 8]), (6, [0x00004710, 0x00000708]), (7, [0x800, 0]), (8, [0, 0])] }
theorem witness_stitch : let y := activeCtx (ctx stitching) always
    Passes stitching { guard := .coll } always (.stitch always 2 6 true) ∧ (ctx stitching).depth = 0 ∧ flagRoom (ctx stitching) always = true ∧ wordCond y (laneWord y 6 0) = none ∧ wordCond y (laneWord y 6 1) = some 1 := by decide +kernel
/-- GrowAndShrink: the largest window that grows and shrinks, and the sizes past each end; a backing stack that is full. -/
theorem witness_windows : let w := (ctx s1).pa.win
    let small : State := { s1 with grids := [(1, { grid1 with launch := { launch1 with backing := 2 } })] }
    Passes s1 { guard := .coll } always (.grow always 224) ∧ Passes s1 { guard := .coll } always (.shrink always 8) ∧ 240 < w.size + 232 ∧ w.size + 224 ≤ 240 ∧ max (topOf (ctx s1).sk) (w.base + w.size + 224) ≤ 8 * ((ctx s1).launch s1).backing ∧
    (coreOf s1 0).regReqs = [] ∧ (max (topOf (ctx s1).sk) (w.base + w.size + 224) - topOf (ctx s1).sk) / 8 ≤ freeGranules (coreOf s1 0) ∧ Passes small { guard := .coll } always (.grow always 8) ∧
    8 * ((ctx small).launch small).backing < max (topOf (ctx small).sk) (w.base + w.size + 8) ∧ 8 + 8 ≤ w.size ∧ w.size < 8 + 16 ∧ pendRegs (ctx s1).sk = [] := by decide +kernel
/-- SpecialRegisters: every number; writes outside and inside handler mode, without and with a stopped matrix instruction. -/
def stopped : MatOp := { op := 7, kind := .mma 0 1 2 false, pc := 3, issued := 0, ad := none, looked := false, entries := [], steps := 4, replayBit := false, slots := [0, 0, 0], fills := [], direct := [], fault := none, handler := false, abandon := false }
def inHandlerMat : State := withSkein { sk' inHandler with mat := some stopped }
theorem witness_special_registers : (∀ r ∈ [0, 1, 2, 3, 4, 5, 6, 7, 10, 12], Passes s1 {} always (.sread always (.v 31) r)) ∧ (∀ r ∈ [8, 9, 11], Passes s1 {} always (.sread always (.k 62) r)) ∧
    Passes s1 {} always (.swrite always (.v 0) 12) ∧ Passes inHandler {} always (.swrite always (.v 0) 11) ∧ Passes inHandler {} always (.swrite always (.v 0) 9) ∧ Passes inHandlerMat {} always (.swrite always (.v 0) 9) ∧
    (ctx inHandlerMat).sk.mat = some stopped ∧ matStopped (ctx inHandlerMat).sk stopped = true ∧ (∀ r ∈ [0, 8], Passes inHandler {} always (.swrite always (.v 0) r)) ∧ (∀ r ∈ [9, 11], Passes s1 {} always (.swrite always (.v 0) r)) := by decide +kernel
/-- Loads and Stores: lanes 0 and 1 reach 0x100 and the last word of a line; a uniform pair holds 0x100. -/
def memState : State := withSkein { skein1 with vregs := [(4, [0x100, 0x17C]), (5, [0, 0]), (6, [0, 124]), (7, [0, 0xC000000 - 4])], kregs := [(2, 0x100), (6, 16)] }
def reached : Passed := [(0, 0x100, ⟨0x100, 0⟩), (1, 0x17C, ⟨0x17C, 0⟩)]
def words : Passed := [(0, 0x100, ⟨0x100, 0⟩), (1, 0x104, ⟨0x104, 0⟩)]
def oneWord : Passed := [(0, 0x100, ⟨0x100, 0⟩)]
def memCtx : Ctx := activeCtx (ctx memState) always
/-- A read or a write of `n` bytes. -/
def reads (n : Nat) (u : Use) (al : Nat) : Access := { kind := .read, use := u, size := n, align := al, rel := false, acq := true, reads := true, writes := false }
def writes (n : Nat) (u : Use) (al : Nat) (rd : Bool := false) : Access := { kind := .write, use := u, size := n, align := al, rel := true, acq := true, reads := rd, writes := true }
theorem witness_access_load : Accesses memCtx always (reads 4 (.plain 4) 4) (laneEas memCtx (.v 4) 0) (laneEas memCtx (.v 4) 0) memState reached :=
  ⟨by decide, by decide, by decide, by decide, by decide, fun e h => ⟨page1, ⟨e.2.1, 0⟩, (by decide : ∀ e ∈ reached, tlbFind (coreOf memState 0).tlb (memCtx.launch memState).ctx (va57 e.2.1) = some page1 ∧
    tlbAccess page1 (va57 e.2.1) .read = .ok ⟨e.2.1, 0⟩ ∧ useCheck memState memCtx.die ⟨e.2.1, 0⟩ (.plain 4) = .ok e.2.2) e h⟩, by decide⟩
theorem witness_access_block : Accesses memCtx always (reads 4 .other 16) (blockBases memCtx (.k 2) 0) (blockWords memCtx (.k 2) 0) memState words :=
  ⟨by decide, by decide, by decide, by decide, by decide, fun e h => ⟨page1, ⟨e.2.1, 0⟩, (by decide : ∀ e ∈ words, tlbFind (coreOf memState 0).tlb (memCtx.launch memState).ctx (va57 e.2.1) = some page1 ∧
    tlbAccess page1 (va57 e.2.1) .read = .ok ⟨e.2.1, 0⟩ ∧ useCheck memState memCtx.die ⟨e.2.1, 0⟩ .other = .ok e.2.2) e h⟩, by decide⟩
theorem witness_access_uniform : Accesses memCtx always (reads 8 .other 8) (oneEa memCtx (.k 2) 0) (oneEa memCtx (.k 2) 0) memState oneWord :=
  ⟨by decide, by decide, by decide, by decide, by decide, fun e h => ⟨page1, ⟨e.2.1, 0⟩, (by decide : ∀ e ∈ oneWord, tlbFind (coreOf memState 0).tlb (memCtx.launch memState).ctx (va57 e.2.1) = some page1 ∧
    tlbAccess page1 (va57 e.2.1) .read = .ok ⟨e.2.1, 0⟩ ∧ useCheck memState memCtx.die ⟨e.2.1, 0⟩ .other = .ok e.2.2) e h⟩, by decide⟩
theorem witness_access_store : Accesses memCtx always (writes 4 (.plain 4) 4) (laneEas memCtx (.v 4) 0) (laneEas memCtx (.v 4) 0) memState reached :=
  ⟨by decide, by decide, by decide, by decide, by decide, fun e h => ⟨page1, ⟨e.2.1, 0⟩, (by decide : ∀ e ∈ reached, tlbFind (coreOf memState 0).tlb (memCtx.launch memState).ctx (va57 e.2.1) = some page1 ∧
    tlbAccess page1 (va57 e.2.1) .write = .ok ⟨e.2.1, 0⟩ ∧ useCheck memState memCtx.die ⟨e.2.1, 0⟩ (.plain 4) = .ok e.2.2) e h⟩, by decide⟩
theorem witness_access_block_store : Accesses memCtx always (writes 4 .other 16) (blockBases memCtx (.k 2) 0) (blockWords memCtx (.k 2) 0) memState words :=
  ⟨by decide, by decide, by decide, by decide, by decide, fun e h => ⟨page1, ⟨e.2.1, 0⟩, (by decide : ∀ e ∈ words, tlbFind (coreOf memState 0).tlb (memCtx.launch memState).ctx (va57 e.2.1) = some page1 ∧
    tlbAccess page1 (va57 e.2.1) .write = .ok ⟨e.2.1, 0⟩ ∧ useCheck memState memCtx.die ⟨e.2.1, 0⟩ .other = .ok e.2.2) e h⟩, by decide⟩
theorem witness_access_uniform_store : Accesses memCtx always (writes 4 .other 4) (oneEa memCtx (.k 2) 0) (oneEa memCtx (.k 2) 0) memState oneWord :=
  ⟨by decide, by decide, by decide, by decide, by decide, fun e h => ⟨page1, ⟨e.2.1, 0⟩, (by decide : ∀ e ∈ oneWord, tlbFind (coreOf memState 0).tlb (memCtx.launch memState).ctx (va57 e.2.1) = some page1 ∧
    tlbAccess page1 (va57 e.2.1) .write = .ok ⟨e.2.1, 0⟩ ∧ useCheck memState memCtx.die ⟨e.2.1, 0⟩ .other = .ok e.2.2) e h⟩, by decide⟩
theorem witness_loads : loadRoom memCtx reached memState = true ∧ loadRoom memCtx words memState = true ∧ loadRoom memCtx oneWord memState = true ∧ Passes memState {} always (.ld always (.v 31) (.v 4) 0 .n32 .sk .keep) ∧
    Passes memState {} always (.ldb always (.v 0) (.k 2) 0 .sk .keep) ∧ Passes memState { guard := .coll } always (.ldk always 62 2 0 true .sk .keep) := by decide
theorem witness_stores : Passes memState {} always (.st always (.v 4) (.v 0) 0 .n32 .sk .keep false) ∧ Passes memState {} always (.stb always (.k 2) (.v 0) 0 .sk .keep true) ∧ Passes memState { guard := .coll } always (.stk always 2 0 0 false .sk .keep) ∧
    (∀ e ∈ reached, e.2.2.pa % 128 + 4 ≤ 128) ∧ (∀ e ∈ words, e.2.2.pa % 128 + 4 ≤ 128) ∧ (isDevice reached && deviceBusy memCtx) = false ∧ memCtx.sk.taskOpen = false ∧
    (dedup (NMap.keys memCtx.sk.versions ++ (storeLines memCtx (.v 0) 4 reached).map Prod.fst)).length ≤ 2048 := by decide
/-- The same skein inside an open task, for a versioned store. -/
theorem witness_task_store : let s := withSkein { (ctx memState).sk with taskOpen := true }
    Passes s {} always (.st always (.v 4) (.v 0) 0 .n32 .sk .keep true) ∧ ¬((true = false) ∨ (ctx s).sk.taskOpen = false) := by decide
/-- PeerAndWeight: the last word of a one-line tile; the last word of the weight store, with and without the gate. -/
def peerState (readers : List Nat) : State := { memState with cores := [(0, { core1 with skeins := [(0, (ctx memState).sk)], tiles := [(0, { present := true, state := .ready })] })], dies := [(0, { gateReaders := readers })] }
theorem witness_peer : let s := peerState [1]
    let y := activeCtx (ctx s) always
    (∀ i ∈ ([.ldp always 8 6 0 .n32 0, .stp always 6 (.v 0) 0 .n32 0, .ldw always 8 7 0 .n32] : List Instr), Passes s {} always i) ∧ memHeld y true true = false ∧ flagRoom y always = true ∧
    (∀ e ∈ [(0, 0), (1, 124)], e.2 < 2 ^ 27 ∧ e.2 % 2 ^ 19 % 4 = 0 ∧ tilePresent s 0 (e.2 / 2 ^ 19 % 2 ^ 8) = true ∧ e.2 % 2 ^ 19 + 4 ≤ 128 * (tileOf s 0 (e.2 / 2 ^ 19 % 2 ^ 8)).size) ∧
    (lanesOf y.act).map (fun l => (l, (vRead y 6 l + 0).toNat)) = [(0, 0), (1, 124)] ∧ (∀ i, i < 8 → watchLane s y true true 4 i [(0, 0), (1, 124)] = none) := by decide
theorem witness_weight : let s := peerState [1]
    holdsGate s (activeCtx (ctx s) always) = true ∧ s.dev.wstore.getLsbD 0 = true ∧ (lanesOf two).map (fun l => (l, (vRead (ctx s) 7 l + 0).toNat)) = [(0, 0), (1, 0xBFFFFFC)] ∧
    (∀ e ∈ [(0, 0), (1, 0xBFFFFFC)], e.2 % 4 = 0 ∧ e.2 + 4 ≤ 0xC000000) ∧ holdsGate (peerState []) (activeCtx (ctx (peerState [])) always) = false := by decide
/-- AtomicsAndFences: the accesses are those above, of whole elements; nothing holds the instructions back. -/
theorem witness_access_atomic : Accesses memCtx always (writes 4 .other 4 true) (laneEas memCtx (.v 4) 0) (laneEas memCtx (.v 4) 0) memState reached :=
  ⟨by decide, by decide, by decide, by decide, by decide, fun e h => ⟨page1, ⟨e.2.1, 0⟩, (by decide : ∀ e ∈ reached, tlbFind (coreOf memState 0).tlb (memCtx.launch memState).ctx (va57 e.2.1) = some page1 ∧
    tlbAccess page1 (va57 e.2.1) .write = .ok ⟨e.2.1, 0⟩ ∧ useCheck memState memCtx.die ⟨e.2.1, 0⟩ .other = .ok e.2.2) e h⟩, by decide⟩
theorem witness_access_line : Accesses memCtx always { kind := .read, use := .other, size := 1, align := 1, rel := false, acq := true, reads := false, writes := false } (laneEas memCtx (.v 4) 0) (laneEas memCtx (.v 4) 0) memState reached :=
  ⟨by decide, by decide, by decide, by decide, by decide, fun e h => ⟨page1, ⟨e.2.1, 0⟩, (by decide : ∀ e ∈ reached, tlbFind (coreOf memState 0).tlb (memCtx.launch memState).ctx (va57 e.2.1) = some page1 ∧
    tlbAccess page1 (va57 e.2.1) .read = .ok ⟨e.2.1, 0⟩ ∧ useCheck memState memCtx.die ⟨e.2.1, 0⟩ .other = .ok e.2.2) e h⟩, by decide⟩
theorem witness_atomics : (∀ i ∈ ([.atom always (.v 8) (.v 4) (.v 0) 0 .add .n32 .dev, .atomc always (.v 8) (.v 4) (.v 0) (.v 2) .i32 .sk, .cflush always (some (.v 4)) 0 .dev, .seqr always (.k 62), .pref always (.v 4) 0 true] : List Instr),
    Passes memState {} always i) ∧ Passes memState { guard := .any } always (.fence always .sc .sys) ∧ (∀ e ∈ reached, regionOf e.2.2.pa ≠ .host) ∧ memHeld memCtx false true = false ∧ flagRoom memCtx always = true ∧
    scopeRank .bolt ≤ 1 ∧ ¬scopeRank .clu ≤ 1 := by decide
/-- TileCopies: a tile of 64 rows of 32 F32 elements (128 bytes a row), in each state. The uniform pair k2 holds 0x100, k4 the pitch; v8 holds offsets of 16 bytes. -/
def tile (st : TileState) : TileEntry := { state := st, present := true, rows := 64, cols := 32, size := 64, fmt := 1 }
def tState (st : TileState) (sk : Skein := skein1) : State :=
  withCore { core1 with skeins := [(0, { sk with kregs := [(2, 0x100), (4, 128)], vregs := [(8, [0, 16])] })], bolts := [(1, { bolt1 with tiles := [3, 4] })], tiles := [(3, tile st), (4, tile .ready)] }
theorem witness_copy_in : let s := tState .empty
    let y := activeCtx (ctx s) always
    declared s (ctx s) 3 = true ∧ (ctx s).sk.copyFaults = [] ∧ matTile (ctx s).sk 3 = false ∧ memHeld y true true = false ∧ (∀ n ∈ [0, 1, 4], copyRoom s y always n = true) ∧ tileWait s y [] [3] = none ∧
    rowBytes ((ctx s).launch s) (tile .empty) ≤ 8192 ∧ canonical 0x100 = true ∧ 0x100 % 16 = 0 ∧ 128 % 16 = 0 ∧ (∀ l ∈ lanesOf two, canonical (0x100 + (vRead y 8 l).toNat) = true ∧ (0x100 + (vRead y 8 l).toNat) % 16 = 0) ∧
    Passes s { guard := .coll } always (.tload always 3 2 4 .keep) ∧ Passes s { guard := .coll } always (.tgather always 3 2 8 .keep) ∧ Passes s { guard := .coll } always (.tfill always 3 (.k 2)) := by decide
theorem witness_copy_out : let s := tState .ready
    let y := activeCtx (ctx s) always
    tileWait s y [3] [] = none ∧ tilePoison s 0 [3] = false ∧ Passes s { guard := .coll } always (.tstore always 2 3 4 .keep) ∧ Passes s { guard := .coll } always (.tscat always 2 3 8 .keep) ∧
    (tileOf s 0 3).holds = 0 ∧ (tileOf s 0 3).peerReads = 0 ∧ tileWait s y [] [3] = none ∧ Passes s { guard := .coll } always (.trel always 3) ∧ (tileOf (tState .filling) 0 3).state = .filling := by decide
/-- TPEER from core 1 of the core group, and from the core itself. -/
theorem witness_tpeer : let s := { tState .empty with cores := (tState .empty).cores ++ [(1, { tiles := [(7, tile .ready)] })] }
    let y := activeCtx (ctx s) always
    decide (Ready { guard := .coll } {} always (ctx s) s) = true ∧ tilePresent s 1 7 = true ∧ sameShape (tileOf s 1 7) (tileOf s 0 3) = true ∧ (tileOf s 1 7).state = .ready ∧ tileWait s y [] [3] = none ∧
    peerCore y 0 = 0 ∧ tilePresent s 0 4 = true ∧ sameShape (tileOf s 0 4) (tileOf s 0 3) = true ∧ (tileOf s 0 4).state = .ready := by decide
/-- CollectiveIssue: block 0 of this package is member 0 of group 0, whose descriptor at 0x2000 and list at 0x1000 have been read; group 1 has an invalid descriptor; block 5 is no member. -/
def cState (block : Nat := 0) : State :=
  let t := tState .empty (sk := { skein1 with kregs := [(1, 0)] })
  { t with
    cores := nupdate t.cores 0 (fun c => { c with bolts := c.bolts.map (fun b => (b.1, { b.2 with block := block })) })
    dev := { dev1 with grpBase := 0x2000 }, lines := [⟨.coll 0 0, 0x40, BitVec.ofNat 1024 (0x1000 + 2 ^ 96), 0, 0⟩, ⟨.coll 0 0, 0x20, 0, 0, 0⟩] }
def group0 : GroupDesc := ⟨0, 0, [(0, 0)]⟩
theorem held_group (block : Nat) (h : (cState block).dev.grpBase = 0x2000 ∧ (ctx (cState block)).core = 0 ∧ (ctx (cState block)).slot = 0) : GroupHeld (cState block) (ctx (cState block)) 0 group0 := by
  refine ⟨0x200, by decide, by decide, by decide, by decide, by decide, by decide, ?_, ?_⟩
  · rw [h.1, h.2.1, h.2.2]; exact hand _ _ _ _ _ ⟨.coll 0 0, 0x40, BitVec.ofNat 1024 (0x1000 + 2 ^ 96), 0, 0⟩ rfl (by decide) (by decide +kernel)
  · rw [h.2.1, h.2.2]; exact hand _ _ _ _ _ ⟨.coll 0 0, 0x20, 0, 0, 0⟩ rfl (by decide) (by decide +kernel)
theorem witness_group : GroupHeld (cState 0) (ctx (cState 0)) 0 group0 ∧ GroupHeld (cState 5) (ctx (cState 5)) 0 group0 ∧
    (∃ bs, InHand (cState 0) (.coll 0 0) (0x2000 + 32 * 1) 32 bs ∧ bitAt (leNat ((bs.drop 8).take 8)) 32 = false) :=
  ⟨held_group 0 (by decide +kernel), held_group 5 (by decide +kernel), (List.range 32).map (fun i => lineByte (BitVec.ofNat 1024 (0x1000 + 2 ^ 96)) (32 + i)),
    hand _ _ _ _ _ ⟨.coll 0 0, 0x40, BitVec.ofNat 1024 (0x1000 + 2 ^ 96), 0, 0⟩ rfl (by decide) rfl, by decide +kernel⟩
theorem witness_collective : let s := cState 0
    let y := activeCtx (ctx s) always
    let l := (ctx s).launch s
    Passes s { guard := .coll } always (.coll always 3 4 0 .sum) ∧ declared s (ctx s) 4 = true ∧ declared s (ctx s) 3 = true ∧ plainFmt (entryFmt l (tileOf s 0 4)).1 = true ∧ plainFmt (entryFmt l (tileOf s 0 3)).1 = true ∧
    sameShape (tileOf s 0 4) (tileOf s 0 3) = true ∧ group0.ctx = l.ctx ∧ (∀ k ∈ group0.members, k.1 = Config.packageNumber) ∧ group0.members[0]? = some (Config.packageNumber, 0) ∧
    ((boltOf s 0 1).map Bolt.block).getD 0 = 0 ∧ (tileOf s 0 3).rows = group0.members.length * (tileOf s 0 4).rows ∧ (collOutstanding s 0 1 0).length < 4 ∧ tilePoison s 0 [4] = false ∧ copyRoom s y always 5 = true ∧
    tileWait s y [4] [3] = none ∧ memHeld y true true = false ∧ (ctx s).sk.copyFaults = [] ∧ matTile (ctx s).sk 3 = false ∧ matTile (ctx s).sk 4 = false ∧ packetsOut s 0 0 0 = false := by decide +kernel
theorem witness_collective_refused : ∀ b ∈ [0, 5], let s := cState b
    let y := activeCtx (ctx s) always
    Passes s { guard := .coll } always (.coll always 3 4 0 .sum) ∧ tileWait s y [] [3] = none ∧ flagRoom y always = true ∧ counterRoom y 5 = true ∧
    (b = 5 → (Config.packageNumber, ((boltOf s 0 1).map Bolt.block).getD 0) ∉ group0.members) := by decide +kernel
/-- PipeInstructions: the grid is stage 0 of plan 9, and its handle 0 names pipe 0, whose producer is stage 0 or stage 1; its home is on the core's die, or on another. -/
def pipe0 (prod : Nat) (home : Nat := 0) : Pipe :=
  { fmt := 1, useSlot := false, fslot := 0, rows := 64, cols := 32, depth := 2, tileBytes := 8192, lines := 64, homeDie := home, slices := 1, producer := prod, consumer := 1 - prod
    remote := false, homeHere := true, remotePkg := 0, remotePipe := 0, vc := 0, free := 2, filled := 0, spilled := 0, mirror := 0, mirrorFilled := 0 }
def plan9 (p : Pipe) : Plan :=
  { queue := 3, seq := 8, part := 8, prio := 0, drainStop := false, spillBase := 0, spillCtx := 0, spillUnits := 0, podWindow := 0, balance := false, residency := 0, hyst := 0
    fullT := 0, emptyT := 0, record := 0, ctx := 0, stages := [], pipes := [(0, p)], sched := [], state := .running }
def pState (st : TileState) (p : Pipe) (rs : List Req := []) : State :=
  { tState st with grids := [(1, { grid1 with plan := some (9, 0), launch := { launch1 with handles := [0] } })], plans := [(9, plan9 p)], reqs := rs }
/-- The waiting request of the skein, granted slot 0, and the home's message that says so. -/
def granted0 : PipeWait := { core := 0, slot := 0, path := 0, since := 0, port := 0, granted := some (0, true) }
def message (m : PipeMsg) : Req :=
  { id := 40, kind := .msg m, who := .system, line := 0, policy := .keep, owner := 8, pipe := some (9, 0), die := 0, port := 0, homeDie := 1, homeSlice := 0, stage := .done, since := 0
    reservedEntry := false, way := 0, rdata := 0, rpoison := 0, rold := 0, stamp := 0 }
theorem witness_push : ∀ home ∈ [0, 1], let s := pState .ready (pipe0 0 home)
    let y := activeCtx (ctx s) always
    pipeBind s (ctx s) 0 = some (9, 0, 0, pipe0 0 home) ∧ declared s (ctx s) 3 = true ∧ (ctx s).sk.copyFaults = [] ∧ matTile (ctx s).sk 3 = false ∧ tileMatches ((ctx s).launch s) (tileOf s 0 3) (pipe0 0 home) = true ∧
    Ready { guard := .coll } {} always (ctx s) s ∧ memHeld y true true = false ∧ copyRoom s y always 2 = true ∧ tileWait s y [3] [] = none ∧ tilePoison s 0 [3] = false ∧ s.reqs = [] ∧ flagRoom y always = true ∧ (ctx s).core = 0 := by decide +kernel
theorem witness_pipe_ends : isProducer (pipe0 0) 0 = true ∧ isConsumer (pipe0 1) 0 = true ∧ (∀ p ∈ [pipe0 0, pipe0 1], p.pushWaits = [] ∧ p.popWaits = [] ∧ closedPipe p = false ∧ p.spill = none ∧ p.state ≠ .exhausted ∧ p.state ≠ .stopped ∧
    pstatValue p .filled = 0 ∧ 0 < pstatValue p .free) ∧ (∀ st ∈ [PipeState.closed, .exhausted], closedPipe { pipe0 0 with state := st } = true) ∧ dieOf 0 = (pipe0 0).homeDie ∧ dieOf 0 ≠ (pipe0 0 1).homeDie := by decide
theorem witness_closed : ∀ p ∈ [{ pipe0 0 with state := .closed }, { pipe0 1 with state := .exhausted, free := 0 }], pipeBind (pState .ready p) (ctx (pState .ready p)) 0 = some (9, 0, 0, p) := by decide +kernel
theorem witness_granted : let p := { pipe0 0 1 with pushWaits := [granted0] }
    let s := pState .ready p [message (.grant 0 0 0 true)]
    pipeBind s (ctx s) 0 = some (9, 0, 0, p) ∧ p.pushWaits.find? (waitOf (activeCtx (ctx s) always)) = some granted0 ∧ s.reqs = [message (.grant 0 0 0 true)] := by decide +kernel
theorem witness_pop : ∀ home ∈ [0, 1], let s := pState .empty (pipe0 1 home)
    let y := activeCtx (ctx s) always
    pipeBind s (ctx s) 0 = some (9, 0, 0, pipe0 1 home) ∧ declared s (ctx s) 3 = true ∧ tileMatches ((ctx s).launch s) (tileOf s 0 3) (pipe0 1 home) = true ∧ Ready { guard := .coll } {} always (ctx s) s ∧
    memHeld y true true = false ∧ copyRoom s y always 3 = true ∧ tileWait s y [] [3] = none ∧ Passes s { guard := .coll } always (.pstat always 2 0 .filled) ∧ flagRoom (ctx s) always = true := by decide +kernel
theorem witness_popped : let p := { pipe0 1 with filled := 1, free := 0, queue := [default], popWaits := [granted0] }
    let s := pState .empty p
    pipeBind s (ctx s) 0 = some (9, 0, 0, p) ∧ 0 < pstatValue p .filled ∧ pstatValue p .free = 0 ∧ closedPipe p = false ∧ p.popWaits.find? (waitOf (activeCtx (ctx s) always)) = some granted0 := by decide +kernel
/-- MatrixIssue: full active sets; A of 64 rows and 64 columns and B of 64 rows and 64 columns of F32 (K is 64), a slot of F32, and the tile that takes an ACCD. -/
def square (st : TileState) : TileEntry := { state := st, present := true, rows := 64, cols := 64, size := 128, fmt := 1 }
def mState : State :=
  let sk := { skein1 with exited := 0, paths := [(0, { path1 with mask := allLanes })] }
  let core := { core1 with skeins := [(0, sk)], bolts := [(1, { bolt1 with tiles := [3, 4, 5] })], accs := [(0, {}), (1, {})], tiles := [(3, square .ready), (4, square .ready), (5, square .empty)] }
  { withCore core with grids := [(1, { grid1 with launch := { launch1 with fslots := [1] } })] }
theorem witness_matrix_shapes : let s := mState
    let l := (ctx s).launch s
    let k := kOf (widthOf s 0 l (.mma 0 3 4 true))
    shapeIs l (tileOf s 0 3) 64 k = true ∧ shapeIs l (tileOf s 0 4) k 64 = true ∧ drainable (launchSlot l 0) = true ∧ aRange s 0 l (.mmac 0 1 4 0 true) = [1] ∧ shapeIs l (tileOf s 0 4) (kOf (widthOf s 0 l (.mmac 0 1 4 0 true))) 64 = true ∧
    shapeIs l (tileOf s 0 3) 64 64 = true ∧ (tileOf s 0 5).rows = 64 ∧ (tileOf s 0 5).cols = 64 ∧ slotMatches l (tileOf s 0 5) 0 = true := by decide +kernel
theorem witness_matrix_ready : let s := mState
    Passes s { guard := .coll, full := true, accs := [0] } always (.mma always 0 3 4 true none) ∧ Passes s { guard := .coll, full := true, accs := [0, 1] } always (.mmac always 0 1 4 0 true none) ∧
    decide (Ready { guard := .coll, full := true, accs := [0] } {} always (ctx s) s) = true ∧ Passes s { guard := .coll } always (.adpf always (.k 0) (.k 0) .both) := by decide +kernel
theorem witness_matrix_free : let s := mState
    let y := activeCtx (ctx s) always
    (ctx s).sk.mat = none ∧ (ctx s).sk.copyFaults = [] ∧ tilePoison s 0 [3, 4] = false ∧ counterRoom (ctx s) 6 = true ∧ counterRoom (ctx s) 7 = true ∧ flagRoom (ctx s) always = true ∧ tileWait s y [3, 4] [] = none ∧ tileWait s y [] [5] = none ∧
    (∀ n ∈ [0, 1], (accOf s 0 n).busy = none ∧ accTurn s y n = true) ∧ declared s (ctx s) 3 = true ∧ declared s (ctx s) 4 = true ∧ declared s (ctx s) 5 = true ∧ ((ctx s).launch s).adTable = 0 := by decide +kernel
/-- Barriers: point 0 of one skein, not set up, set up, arrived at and waited for. -/
def point (r : Rendezvous) (last : NMap Nat) : State := withCore { core1 with skeins := [(0, { skein1 with kregs := [(2, 1)], barLast := last, counters := [3] })], bolts := [(1, { bolt1 with points := [(0, r)] })] }
theorem witness_barriers : let s := point {} []
    let y := activeCtx (ctx s) always
    Passes s { guard := .coll, single := true } always (.barInit always 0 (.k 2)) ∧ decide (Ready { guard := .coll, single := true } {} always (ctx s) s) = true ∧ (boltOf s 0 1).isSome = true ∧ ({} : Rendezvous).init = false ∧
    (srcWord y (.k 2) 0).toNat = 1 ∧ ((ctx s).launch s).skeins = 1 ∧ decide (Ready { guard := .any } {} always (ctx s) s) = true ∧ (ctx s).sk.copyFaults = [] ∧ pendingMatFault (ctx s).sk = none ∧
    (ctx s).sk.counters.getD 0 0 ≤ 3 ∧ 2 < (ctx s).sk.counters.getD 0 0 := by decide +kernel
theorem witness_barrier_points : let s := point { init := true, expected := 1, arrived := [], phase := 4 } [(0, 3)]
    let u := point { init := true, expected := 2, arrived := [0], phase := 4 } [(0, 4)]
    let y := activeCtx (ctx s) always
    (ctx s).sk.index ∉ ([] : List Nat) ∧ memHeld y true true = false ∧ pathLoads (ctx s).sk 0 = [] ∧ (ctx s).sk.sq = [] ∧ NMap.get? (ctx s).sk.barLast 0 = some 3 ∧ NMap.get? (ctx u).sk.barLast 0 = some 4 ∧
    (ctx u).sk.index ∈ [0] ∧ decide (Ready { guard := .coll, single := true } {} always (ctx u) u) = true := by decide +kernel
/-- Tasks: none open, one open, and one whose publication waits with a version of line 2; one to be discarded. -/
def task (wait dis : Bool) : State := withSkein { skein1 with taskOpen := true, taskId := 1, taskCount := 2 ^ 18 - 1, hemWaiting := wait, discarding := dis, versions := [(2, (3, 0xBBAA))] }
theorem witness_tasks : decide (Ready { guard := .coll, single := true } {} always (ctx s1) s1) = true ∧ (ctx s1).sk.taskOpen = false ∧
    (let s := task false false
     decide (Ready { guard := .coll, single := true } {} always (ctx s) s) = true ∧ (ctx s).sk.taskOpen = true ∧ (ctx s).sk.hemWaiting = false ∧ memHeld (activeCtx (ctx s) always) true false = false ∧ flagRoom (ctx s) always = true) ∧
    (let s := task true false
     taskCopies s 0 0 = false ∧ (sk' s).ops = [] ∧ (sk' s).sq = [] ∧ (sk' s).held = [] ∧ (NMap.keys (sk' s).versions).Nodup ∧ isMain (128 * 2) = true ∧ s.dev.monitor = []) ∧ (sk' (task false true)).discarding = true ∧ taskCopies (task false true) 0 0 = false := by decide +kernel
/-- A request of core 0 for line 2, of a kind and at a stage. -/
def req (id : Nat) (kind : ReqKind) (who : ReqOwner) (stage : Stage) : Req :=
  { id := id, kind := kind, who := who, line := 2, policy := .keep, owner := 8, die := 0, port := 0, homeDie := 0, homeSlice := 5, stage := stage, since := 0, reservedEntry := false, way := 0, rdata := 0xAB
    rpoison := 0, rold := 0, stamp := 9 }
/-- MemoryReplies: a load of lane 0 from one line, with or without a place in the L1, whose reply has come, comes from outside the package, or was found in the core; an LDW; a PSTAT; an atomic; a
store of one entry. -/
def part1 (r : Option Nat) (keep : Bool := true) : LoadPart := { line := 2, found := 0, data := 0, req := r, arrived := false, poison := 0, allocate := keep, firstVictim := false }
def loading (r : Option Nat) (keep : Bool := true) : Op := { cls := .memory, path := 0, body := .load [part1 r keep] [⟨some 0, 0, 124, true⟩] 4 false [.v 20] }
def replyState (o : Op) (rs : List Req) (sq : List SqEntry := []) : State := { withSkein { skein1 with ops := [(6, o)], sq := sq } with reqs := rs, nextId := 50 }
theorem witness_load_reply : ∀ keep ∈ [true, false], let r := req 40 (.read allLanes) (.load 0 0 6 0) .done
    let s := replyState (loading (some 40) keep) [r]
    (skeinOf s 0 0).isSome = true ∧ opOf s 0 0 6 = some (loading (some 40) keep) ∧ reqOf s 40 = some r ∧ replyTurn s r = true ∧ 40 < s.nextId ∧ (part1 (some 40) keep).allocate = keep := by decide +kernel
theorem witness_load_parts : [part1 (some 40)][0]? = some (part1 (some 40)) ∧ [RegRef.v 20].Nodup ∧ (∀ e ∈ ([⟨some 0, 0, 124, true⟩] : List LoadElem), e.lane.isSome = true) ∧ (part1 none false).req = none ∧ (part1 none false).allocate = false ∧
    regionOf (128 * (part1 none).line) = .hbm 0 := by decide +kernel
/-- A line of the host window and one of another package. -/
theorem witness_remote_reply : ∀ line ∈ [0x4000000000000 / 128, 0x8020000000000 / 128], let r := { req 40 (.read allLanes) (.load 0 0 6 0) .remote with line := line }
    let s := replyState (loading (some 40)) [r]
    reqOf s 40 = some r ∧ (s.reqs.map Req.id).Nodup ∧ backRoom1 s r true = true := by decide +kernel
theorem witness_other_replies : inRefresh s1.clock 0x600000 = false ∧ [RegRef.v 20, .v 21].Nodup ∧ pipeOf (pState .empty (pipe0 1)) 9 0 = some (pipe0 1) ∧ dieOf 0 = (pipe0 1).homeDie ∧
    (let r := req 40 (.write 1 5) (.store 0 0 6) .done
     let s := replyState { cls := .memory, path := 0, body := .store 1 } [r]
     reqOf s 40 = some r ∧ replyTurn s r = true ∧ ackTurn s r = true ∧ (opOf s 0 0 6).map Op.body = some (.store 1)) ∧
    (let r := req 40 (.atomic ⟨.add, false, .n32, 124, 1, 0⟩) (.atomic 0 0 6 3) .done
     let s := replyState { cls := .memory, path := 0, body := .atomic [] 1 .dev [] .n32 [.v 20] true {} } [r]
     s.reqs.find? (fun q => decide (q.who = .atomic 0 0 6 3)) = some r ∧ replyTurn s r = true ∧ (s.reqs.map Req.id).Nodup) := by decide +kernel
/-- The head of the store queue of slot 0, into the L1 or through to its slice. -/
def entry (through : Bool) : SqEntry := { line := 2, mask := 1, data := 5, through := through, firstVictim := false, policy := .keep, device := false, op := if through then some 6 else none, entered := 0 }
theorem witness_store_queue : ∀ through ∈ [false, true], let s := replyState (loading none) [] [entry through]
    (coreOf s 0).sqTaken = [] ∧ earliestHead s 0 (quarterOf 0) = some (0, entry through) ∧ (sk' s).sq = [entry through] ∧ (sk' s).sqWait = [] ∧ isMain 0x100 = true := by decide +kernel
/-- SliceEvents: a request at its port, in the network, at its slice, and replies due and not yet due. -/
theorem witness_slice : let r := req 40 (.read allLanes) (.load 0 0 6 0) .port
    let s := replyState (loading (some 40)) [r]
    (s.reqs.map Req.id).Nodup ∧ NMap.get? (NMap.getD s.dies 0 {}).portSent 0 ≠ some s.clock ∧ r.isMsg = false ∧ reqOf s 40 = some r ∧
    s.reqs.find? (fun q => decide (q.stage = .port) && decide (q.die = 0) && decide (q.port = 0) && canSend s q) = some r := by decide +kernel
theorem witness_slice_accept : ∀ kind ∈ ([.read allLanes, .write 1 5, .prefetch, .clean, .atomic ⟨.add, false, .n32, 124, 1, 0⟩] : List ReqKind), let r := req 40 kind (.load 0 0 6 0) .net2
    let s := replyState (loading (some 40)) [r]
    Settled s ∧ (sliceOf s 5).lastAccept = none ∧ acceptChoice s 5 = some r ∧ entryFor s 5 8 = some false ∧ s.dev.monitor = [] ∧ victimRoom s 5 8 2 = true ∧ r.pipe = none ∧ isMain (128 * 2) = true ∧ 124 + itWidth .n32 / 8 ≤ 128 := by
  unfold Settled; decide +kernel
theorem witness_host_accept : let r := { req 40 (.read allLanes) (.load 0 0 6 0) .net2 with line := 0x4000000000000 / 128 }
    let s := replyState (loading (some 40)) [r]
    Settled s ∧ acceptChoice s 5 = some r ∧ entryFor s 5 8 = some false ∧ regionOf (128 * r.line) = .host := by unfold Settled; decide +kernel
theorem witness_pipe_slot : let r := { req 40 (.slotWrite 1 3 5) (.copy 0 6 3) .net2 with pipe := some (9, 0) }
    let s := pState .ready (pipe0 0) [r]
    Settled s ∧ acceptChoice s 5 = some r ∧ entryFor s 5 8 = some false ∧ pipeOf s 9 0 = some (pipe0 0) := by unfold Settled; decide +kernel
theorem witness_slice_reply : ∀ stage ∈ ([.accepted 0, .fill 0] : List Stage), ∀ who ∈ ([.load 0 0 6 0, .agent (.coll 0 0)] : List ReqOwner), let r := req 40 (.read allLanes) who stage
    let s := replyState (loading (some 40)) [r]
    reqOf s 40 = some r ∧ (s.reqs.map Req.id).Nodup ∧ (0 : Nat) ≤ s.clock ∧ s.clock < 1 ∧ backRoom1 s r true = true ∧ r.homeDie = r.die ∧ backRoom2 s r false = true := by decide +kernel
/-- LinkAndChannelEvents: slot 1 of a channel's frame, with a transfer of partition 0; a flit to send again, a request at the egress, a flit that arrives, once or for the fourth time in vain; walks. -/
def busy (fails : Nat := 3) : State :=
  let miss := { req 40 (.read allLanes) (.load 0 0 6 0) .miss with owner := 0 }
  let out := { req 41 (.read allLanes) (.load 0 0 6 0) .egress with owner := 0, homeDie := 1 }
  { s1 with clock := 40, reqs := [miss, out], dev := { dev1 with dlown := [(37, 0)] }, channels := [(channelOf 0x100, { slots := [(0, 0)] })],
            links := [(2, { flight := [⟨.part 0, [41], 3, 3, fails⟩, ⟨.part 1, [], 4, 4, 0⟩], resend := [] }), (3, { flight := [], resend := [⟨.unreserved, [7], 3, 3, 1⟩] })] }
theorem witness_channel : let ch := channelOf 0x100
    let c := NMap.getD busy.channels ch {}
    hbmSlot busy.clock = 1 ∧ c.lastSlot < 1 ∧ slotOwner c 1 = 0 ∧ transfers busy ch 0 (hbmStart 1) ≠ [] := by decide +kernel
theorem witness_link : let s := busy
    (let l := NMap.getD s.links 1 {}
     l.failed = false ∧ l.lastSlot = none ∧ 1 / 4 ≠ 1 % 4 ∧ linkPick s 1 (s.clock % 256) 0 = none ∧ l.resend = [] ∧
     (leastBy (fun (q : Req) => q.since) (s.reqs.filter (fun q => decide (egressDir q = some 1) && slotTakes s 1 (s.clock % 256) 1 q.cls))).isSome = true) ∧
    (let l := NMap.getD s.links 3 {}
     l.failed = false ∧ l.lastSlot = none ∧ 3 / 4 ≠ 3 % 4 ∧ (∀ j, j < 2 → linkPick s 3 (s.clock % 256) j = none) ∧ l.resend.find? (fun f => slotTakes s 3 (s.clock % 256) 2 f.cls) = some ⟨.unreserved, [7], 3, 3, 1⟩) ∧
    (∀ j, j ≤ 2 → linkPick s 2 (s.clock % 256) j = none) := by decide +kernel
theorem witness_flit : ∀ k ∈ [1, 3], let l := NMap.getD (busy k).links 2 {}
    l.flight.find? (fun f => decide (f.last + 24 ≤ (busy k).clock) && (l.flight ++ l.resend).all (fun g => decide (g.cls ≠ f.cls) || decide (f.sent ≤ g.sent))) = some ⟨.part 0, [41], 3, 3, k⟩ := by decide +kernel
/-- A walk of context 5 for an address behind entry 0 of the root table, whose words are these two. -/
def walker (kind : WalkKind) : WalkReq := { id := 7, agent := .skein 0 0, core := some 0, ctx := 5, va := 0x10000, kind := kind, owner := 8 }
def walking (kind : WalkKind) (root leaf : Nat) : State :=
  { s1 with dies := [(0, { walks := [walker kind] })], descs := [(5, (0x1000009, 0))], lines := [⟨.walk 7, 0x1000000 / 128, BitVec.ofNat 1024 root, 0, 0⟩, ⟨.walk 7, 0x1010000 / 128, BitVec.ofNat 1024 leaf, 0, 0⟩] }
theorem walked (k : WalkKind) (root leaf : Nat) (h1 : root < 2 ^ 64) (h2 : leaf < 2 ^ 64) (h3 : bitAt root 0 = true ∧ bitAt root 1 = false ∧ field root 52 4 = 0 ∧ field root 6 2 = 0) (h4 : field root 8 44 * 256 = 0x1010000)
    (h5 : leBytes 8 root = (List.range 8).map (fun i => lineByte (BitVec.ofNat 1024 root) (0 + i))) (h6 : leBytes 8 leaf = (List.range 8).map (fun i => lineByte (BitVec.ofNat 1024 leaf) (0 + i)))
    (h7 : regionPresent (walking k root leaf) 0x1000000 = true ∧ regionPresent (walking k root leaf) 0x1010000 = true) :
    TableWords (walking k root leaf) (walker k) 0x1000000 0 [root, leaf] := by
  have i0 : (0x1000000 + 8 * levelIndex (walker k).va 0 : Nat) = 0x1000000 := by show _ + 8 * levelIndex 0x10000 0 = _; decide
  have i1 : (0x1010000 + 8 * levelIndex (walker k).va 1 : Nat) = 0x1010000 := by show _ + 8 * levelIndex 0x10000 1 = _; decide
  refine ⟨h1, by rw [i0]; exact h7.1, ?_, fun _ => h3, ?_⟩
  · rw [i0]; exact hand _ _ _ _ _ ⟨.walk 7, 0x1000000 / 128, BitVec.ofNat 1024 root, 0, 0⟩ rfl (by decide) h5
  · rw [h4]; refine ⟨h2, by rw [i1]; exact h7.2, ?_, fun h => absurd rfl h, trivial⟩
    rw [i1]; exact hand _ _ _ _ _ ⟨.walk 7, 0x1010000 / 128, BitVec.ofNat 1024 leaf, 0, 0⟩ rfl (by decide) h6
theorem witness_walk_tables : TableWords (walking .read 0x01010001 3) (walker .read) 0x1000000 0 ([0x01010001] ++ [3]) ∧ TableWords (walking .write 0x01010001 3) (walker .write) 0x1000000 0 ([0x01010001] ++ [3]) ∧
    TableWords (walking .read 0x01010001 0) (walker .read) 0x1000000 0 ([0x01010001] ++ [0]) ∧ TableWords (walking .read 0x01010001 0x103) (walker .read) 0x1000000 0 ([0x01010001] ++ [0x103]) :=
  ⟨walked _ _ _ (by decide) (by decide) (by decide) (by decide) (by decide +kernel) (by decide +kernel) (by decide +kernel), walked _ _ _ (by decide) (by decide) (by decide) (by decide) (by decide +kernel) (by decide +kernel) (by decide +kernel),
   walked _ _ _ (by decide) (by decide) (by decide) (by decide) (by decide +kernel) (by decide +kernel) (by decide +kernel), walked _ _ _ (by decide) (by decide) (by decide) (by decide) (by decide +kernel) (by decide +kernel) (by decide +kernel)⟩
theorem witness_walk : ∀ k ∈ ([.read, .write] : List WalkKind), let s := walking k 0x01010001 3
    ((NMap.getD s.dies 0 {}).walks.take 16)[0]? = some (walker k) ∧ (NMap.getD s.dies 0 {}).walkCache = [] ∧ NMap.get? s.descs 5 = some (0x1000009, 0) ∧ descOk (0x1000009, 0) = true ∧
    field (0x1000009 : DWord).toNat 8 44 * 256 = 0x1000000 ∧ field 0x10000 39 18 < 2 ^ field (0x1000009 : DWord).toNat 1 5 ∧ (bitAt 3 0 = true ∧ bitAt 3 1 = true ∧ field 3 52 4 = 0 ∧ field 3 6 2 = 0 ∧ field 3 8 44 * 256 % pageSize 1 = 0) ∧
    bitAt 3 2 = false ∧ bitAt 0 0 = false ∧ bitAt 0x103 0 = true ∧ bitAt 0x103 1 = true ∧ field 0x103 8 44 * 256 % pageSize 1 ≠ 0 := by decide +kernel
/-- CopyEvents: each kind of copy in engine 3, two rows of 128 bytes; the tile of 64 rows at the base of the tile store; a load whose two lines have come. -/
def copy0 (k : CopyKind) : Copy :=
  { op := 6, slot := 0, kind := k, tile := 3, tileA := 3, policy := .keep, ctx := 0, rows := [⟨0, some 0x100⟩, ⟨63, some 0x180⟩], next := 0, total := 64, engine := some 3, poison := false, faultCode := 0
    faultVa := 0, linesDone := 0, inTask := false, moved := false, issued := 0 }
def copyState (c : Copy) : State :=
  let sk := { skein1 with ops := [(6, { cls := .async, path := 0, counter := some 0, body := .copy })], counters := [1, 0, 0, 0, 0, 0, 0, 0] }
  withCore { core1 with skeins := [(0, sk)], tiles := [(3, tile .filling)], copyq := [c] }
def copying (k : CopyKind) (moved : Bool := false) : State := copyState { copy0 k with moved := moved }
theorem witness_copy_line : ∀ k ∈ ([.tfill 7, .tpeer 1 7, .tload, .tgather, .tstore, .tscat] : List CopyKind), let s := copying k
    engineCopy (coreOf s 0).copyq 3 = some (copy0 k) ∧ (copy0 k).lastLine = none ∧ s.dev.watch = [] ∧ 0 < (copy0 k).total ∧ (copyPieces (copy0 k) 128)[0]? = some (0, some 0x100, 0, 128) ∧
    tlbFind (coreOf s 0).tlb 0 (va57 0x100) = some page1 ∧ (∀ z ∈ [(WalkKind.read, Use.copyRead), (.write, .other)], tlbAccess page1 (va57 0x100) z.1 = .ok ⟨0x100, 0⟩ ∧ useCheck s 0 ⟨0x100, 0⟩ z.2 = .ok ⟨0x100, 0⟩) ∧
    rowBytes (launchOf s 0 1) (tileOf s 0 3) = 128 := by decide +kernel
theorem witness_copy_lands : let c := { copy0 .tload with next := 2, total := 2, got := [(0, (5, 0)), (1, (6, 0))] }
    engineCopy (coreOf (copyState c) 0).copyq 3 = some c ∧ c.total = (copyPieces c 128).length ∧ (c.rows.map CopyRow.row).Nodup ∧ (∀ i, i < c.total → (NMap.get? c.got i).isSome = true) ∧
    rowBytes (launchOf (copyState c) 0 1) (tileOf (copyState c) 0 3) = 128 := by decide +kernel
theorem witness_copy_complete : ∀ k ∈ ([.tfill 7, .tpeer 1 7, .tload, .tgather, .tstore, .tscat] : List CopyKind),
    (coreOf (copying k true) 0).copyq.find? (fun k => decide (k.op = 6)) = some { copy0 k with moved := true } ∧ (skeinOf (copying k true) 0 0).isSome = true ∧ (copying k true).plans = [] ∧ (1, 7) ≠ ((0 : Nat), 3) := by decide +kernel
def using1 (op : CollOp) : State := { copying (.coll 0 2 0 op) true with collUses := [{ group := 0, gen := 2, op := op, members := [(0, 0)], channel := 0, got := [], mismatch := false }] }
theorem witness_coll_result : ∀ op ∈ [CollOp.sum, .bcast], let s := using1 op
    (s.collUses.find? (fun v => decide (v.group = 0) && decide (v.gen = 2))).isSome = true ∧ localMembers s 0 2 = [(0, 0, { copy0 (.coll 0 2 0 op) with moved := true }, launchOf s 0 1)] ∧
    (∀ z ∈ (coreOf s 0).copyq, ¬z.op < 6) ∧ Config.packageNumber = 0 := by decide +kernel
/-- PipeEvents: a push and a pop that wait, from the home's die or another, and the copies of each; the pipe has taken one tile in. -/
def waiting0 : PipeWait := { granted0 with granted := none }
def full1 : Pipe := { pipe0 0 with free := 1, filled := 1, slots := [(0, { state := .filled }), (1, { state := .reading })], queue := [⟨false, 0, false, false⟩, ⟨false, 1, true, false⟩] }
def pipeState (p : Pipe) (ks : List Copy) (wait : Option (WaitKind × Nat × Nat)) : State :=
  let sk := { skein1 with paths := [(0, { path1 with wait := wait })], ops := [(6, { cls := .async, path := 0, counter := some 2, body := .copy })] }
  let core := { core1 with skeins := [(0, sk)], tiles := [(3, tile .draining)], copyq := ks }
  { withCore core with plans := [(9, plan9 p)], grids := [(1, { grid1 with plan := some (9, 0) })], clock := 7 }
theorem witness_reserve : ∀ home ∈ [0, 1], let p := { full1 with homeDie := home, pushWaits := [waiting0] }
    let q := { full1 with homeDie := home, popWaits := [waiting0] }
    let s := pipeState p [] (some (.pipeFree 9 0, 3, 3))
    let t := pipeState q [] (some (.pipeFilled 9 0, 3, 3))
    pipeOf s 9 0 = some p ∧ s.reqs = [] ∧ (p.remote && p.homeHere) = false ∧ pstatValue p .free ≠ 0 ∧ nextWait s (.pipeFree 9 0) p.pushWaits = some waiting0 ∧ myTurn s 9 0 p (opKey 0 3 0) = true ∧ p.state = .opened ∧
    pipeOf t 9 0 = some q ∧ q.queue.find? (fun z => !z.taken) = some ⟨false, 0, false, false⟩ ∧ nextWait t (.pipeFilled 9 0) q.popWaits = some waiting0 ∧ myTurn t 9 0 q (opKey 0 2 0) = true ∧ q.homeHere = true := by decide +kernel
theorem witness_commit : ∀ inTask ∈ [true, false], let c := { copy0 (.ppush 9 0 0) with moved := true, inTask := inTask }
    let d := { copy0 (.ppop 9 0 1 false) with moved := true, inTask := inTask }
    let s := pipeState full1 [c] none
    let t := pipeState full1 [d] none
    movedCopy s 0 6 = some c ∧ movedCopy t 0 6 = some d ∧ s.plans.map (fun q => q.2.state) = [.running] ∧ dieOf 0 = full1.homeDie ∧ full1.remote = false ∧ myTurn s 9 0 full1 (opKey 0 0 0) = true ∧ myTurn t 9 0 full1 (opKey 0 1 0) = true ∧
    (skeinOf s 0 0).isSome = true := by decide +kernel
/-- At the home of a cross-package pipe: a first line, and a commit of a slot that has its lines. -/
theorem witness_inbox : let p := { full1 with remote := true, inbox := [(.line 5 0 [1], 2)] }
    let q := { full1 with remote := true, inbox := [(.commit [5], 2)], slots := [(0, { state := .writing, tag := some 5 })] }
    (∀ e ∈ p.slots, e.2.tag ≠ some 5) ∧ p.free ≠ 0 ∧ myTurn (pipeState p [] none) 9 0 p (opKey 2 3 15) = true ∧ tagSlot q 5 = some 0 ∧ myTurn (pipeState q [] none) 9 0 q (opKey 2 0 15) = true ∧ (pipeState q [] none).reqs = [] := by decide +kernel
theorem witness_credit : let p := { pipe0 0 with remote := true, homeHere := false, mirror := 1, remotePkg := 4, vc := 2 }
    let s := { pipeState p [] none with credits := [(4, 2, 0, 1)] }
    pipeOf s 9 0 = some p ∧ s.credits.find? (fun k => decide ((k.1, k.2.1, k.2.2.1) = (4, 2, 0))) = some (4, 2, 0, 1) ∧ remotePipe s 4 2 0 false = some 9 ∧ p.state = .opened ∧ p.mirror < p.depth := by decide +kernel
theorem witness_change : let close : PipeChange := { who := some (0, 0, 6), close := true }
    let reopen : PipeChange := { who := some (0, 0, 6), close := false }
    ({ full1 with changes := [close] } : Pipe).changes.find? (fun z => !z.sent) = some close ∧ full1.state = .opened ∧ full1.inbox = [] ∧ dieOf 0 = full1.homeDie ∧
    ({ full1 with changes := [reopen], state := .closed } : Pipe).changes.find? (fun z => !z.sent) = some reopen ∧ closedPipe { full1 with state := .closed } = true := by decide
theorem witness_spill : ∀ k ∈ [0, 2], let p := { full1 with spill := some (0, 2), spillStep := k }
    let s := pipeState p [] none
    pipeOf s 9 0 = some p ∧ (planOf s 9).map Plan.state = some .running ∧ (planOf s 9).map Plan.declared = some [] ∧ (planOf s 9).map Plan.laps = some [] ∧ (planOf s 9).map Plan.spillLap = some none ∧ p.lastOp ≠ some s.clock ∧ s.reqs = [] := by decide +kernel
/-- PlanEvents: a plan that waits, with room for its pipe and cores, and one that runs and whose one stage is done, has stopped, or is halting. -/
def stage0 (done : Bool) : Stage0 := { launch := 0, grid := 1, maxShare := [2, 0, 0, 0], minShare := [1, 0, 0, 0], initShare := [1, 0, 0, 0], share := [0], joining := [], cls := 0, clsCount := 0, blocked := 0, edges := [0], halted := false, done := done }
def withPlan (st : PlanState) (done : Bool) (clock : Nat) : State :=
  { s1 with plans := [(9, { plan9 (pipe0 0) with state := st, pipes := [], stages := [(0, { stage0 done with share := [] })], balance := true, stopNow := some 0 })], clock := clock, probes := [⟨1, 0, 1, 9, 0, []⟩] }
theorem witness_plan_start : let s := withPlan .waiting false 0
    let p := (planOf s 9).getD default
    p.state = .waiting ∧ slotsTaken s 9 p = false ∧ (placePlan s p.part 9 p.pipes (pinsNow s)).isSome = true ∧ (∀ d ∈ [0, 1, 2, 3], (takeCores s p d).isSome = true) := by decide +kernel
theorem witness_plan_events : (withPlan .running true 65536).clock % 65536 = 0 ∧ (withPlan .running true 65536).clock ≠ 0 ∧
    (planOf (withPlan .running true 65536) 9).map (fun p => (p.state, p.balance, p.balanced, p.sampled, p.stages.all (fun e => e.2.done))) = some (.running, true, none, none, true) ∧
    (withPlan .running true 65536).probes.find? (fun (m : Probe) => decide ((m.pkg, m.stage, m.count, m.plan, m.atStage) = (1, 0, 1, 9, 0))) = some ⟨1, 0, 1, 9, 0, []⟩ ∧
    (planOf (withPlan .stopping false 0) 9).map (fun p => (p.state, p.stopNow, (NMap.get? p.stages 0).map Stage0.grid)) = some (.stopping, some 0, some 1) ∧ grid1.running = 1 ∧
    (∀ g, NMap.get? { withPlan .stopping false 0 with grids := [(1, { grid1 with running := 0 })] }.grids 1 = some g → g.running = 0) := by
  refine ⟨by decide +kernel, by decide +kernel, by decide +kernel, by decide +kernel, by decide +kernel, by decide +kernel, ?_⟩
  intro g h; cases h; rfl
/-- QueueEvents: queue 5, whose descriptor stands at 0x30A0 with a ring of 16 entries at 0x4000, each type of entry, and an agent's lines. -/
def qEntry (type w3 w5 : Nat) (st : EntryState) : QEntry :=
  { seq := 8, words := [BitVec.ofNat 64 type, 0, 0, BitVec.ofNat 64 w3, 0x400, BitVec.ofNat 64 w5], state := st, failed := false, work := 0, moved := 0, part := 8, prio := 0, doneAddr := 0x2008 }
def queueState (e : QEntry) : State := { s1 with queues := [(5, { tail := 1, head := 1, nextSeq := 9, entries := [e] })], dies := [(0, { tlb := [page1] })] }
/-- A tail write has asked for the descriptor, which has come: a valid one, or not. -/
def tailAsked (w1 : Nat) : State :=
  { s1 with queues := [(5, { asked := some 1 })], lines := [⟨.front 65541, 97, BitVec.ofNat 1024 (w1 * 2 ^ 320), 0, 0⟩], dev := { dev1 with qtBase := 0x3000 } }
theorem witness_qtail : let s := { s1 with dev := { dev1 with qtBase := 0x3000 } }
    devReady s = true ∧ behindSlices (s.dev.qtBase + 32 * 5) = true ∧ s.dev.qtBase % 32 = 0 ∧ s.reqs = [] := by decide +kernel
theorem witness_tail_asked : ∀ w1 ∈ [0x80401, 0], let s := tailAsked w1
    devReady s = true ∧ (NMap.getD s.queues 5 {}).asked = some 1 ∧ (NMap.getD s.queues 5 {}).entries = [] ∧ (NMap.getD s.queues 5 {}).head = (NMap.getD s.queues 5 {}).tail ∧
    field 0x80401 20 4 ≤ 8 ∧ field 0x80401 8 5 = 4 ∧ (0x80401 : Nat) % 2 = 1 ∧ turnOwner s = 8 ∧ field 0x80401 20 4 = 0 := by decide +kernel
theorem witness_tail_hand : ∀ w1 ∈ [0x80401, 0], ∃ bs, InHand (tailAsked w1) (.front 65541) (0x3000 + 32 * 5) 32 bs ∧ recWord bs 8 = w1 := fun w1 h => by
  rcases List.mem_pair.mp h with h | h <;> subst h
  · exact ⟨_, hand _ _ _ _ _ ⟨.front 65541, 97, BitVec.ofNat 1024 (0x80401 * 2 ^ 320), 0, 0⟩ rfl (by decide) rfl, by decide +kernel⟩
  · exact ⟨_, hand _ _ _ _ _ ⟨.front 65541, 97, BitVec.ofNat 1024 (0 * 2 ^ 320), 0, 0⟩ rfl (by decide) rfl, by decide +kernel⟩
/-- The next entry of the ring has come. -/
def ringRead : State := { s1 with queues := [(5, { tail := 1, ringBase := 0x4000, ringBits := 4, part := 8 })], lines := [⟨.front 131077, 128, 4, 0, 0⟩] }
theorem witness_ring : let w := NMap.getD ringRead.queues 5 {}
    w.asked = none ∧ w.head ≠ w.tail ∧ queueOverrun w = false ∧ turnOwner ringRead = w.part ∧ w.ringBase % 64 = 0 := by decide +kernel
theorem witness_ring_hand : ∃ bs, InHand ringRead (.front 131077) (0x4000 + 64 * (0 % 2 ^ 4)) 64 bs := ⟨_, hand _ _ _ _ _ ⟨.front 131077, 128, 4, 0, 0⟩ rfl (by decide) rfl⟩
theorem witness_entry_start : ∀ e ∈ [qEntry 4 0 0 .waiting, qEntry 4 1 0 .waiting, qEntry 4 3 0 .waiting, qEntry 0 0 0 .waiting, qEntry 5 0 0 .waiting], let s := queueState e
    let w := NMap.getD s.queues 5 {}
    devReady s = true ∧ w.asked = none ∧ w.head = w.tail ∧ nextEntry w = some ([], e) ∧ entryOrdered s [] e = true := by decide +kernel
/-- A copy entry that has its line, or has not; an invalidation that begins, waits for the L1 lines, or for its requests; a completed head. -/
theorem witness_entry_run : ∀ ls ∈ ([[], [⟨.entry 5 8, 2, 7, 0, 0⟩]] : List (List AgentLine)), let s := { queueState (qEntry 3 0x100 128 .running) with lines := ls }
    runningEntry s 5 8 3 = some (qEntry 3 0x100 128 .running) ∧ s.reqs = [] ∧ tlbFind (NMap.getD s.dies 0 {}).tlb 0 (va57 0x100) = some page1 ∧ tlbFind (NMap.getD s.dies 0 {}).tlb 0 (va57 0x400) = some page1 ∧
    tlbAccess page1 0x100 .read = .ok ⟨0x100, 0⟩ ∧ tlbAccess page1 0x400 .write = .ok ⟨0x400, 0⟩ ∧ useCheck s 0 ⟨0x100, 0⟩ .other = .ok ⟨0x100, 0⟩ ∧ useCheck s 0 ⟨0x400, 0⟩ .other = .ok ⟨0x400, 0⟩ ∧ isMain 0x100 = true ∧ isMain 0x400 = true := by
  decide +kernel
theorem witness_entry_ends : (let e := { qEntry 3 0x100 128 .running with moved := 128 }
     runningEntry (queueState e) 5 8 3 = some e ∧ field (e.word 5) 0 40 ≤ e.moved) ∧
    (∀ b ∈ [none, some (0, 0)], let e := { qEntry 4 1 0 .running with began := b }
     runningEntry (queueState e) 5 8 4 = some e ∧ (∀ c ∈ (queueState e).cores, ∀ k ∈ c.2.skeins, k.2.sq = [] ∧ k.2.sqWait = [] ∧ k.2.ops = [])) ∧
    (let e := { qEntry 4 1 0 .running with began := some (0, 0), waits := some [4] }
     runningEntry (queueState e) 5 8 4 = some e ∧ (queueState e).reqs = []) ∧
    (let e := qEntry 4 1 0 .done
     ([e].takeWhile (fun e => e.state = .done)).getLast? = some e ∧ isMain e.doneAddr = true ∧ regionPresent (queueState e) e.doneAddr = true) := by decide +kernel
/-- A launch entry whose record stands at 0x400: code at 0x800 with a frame map of one entry, one skein of 128 lanes, one block on die 0. -/
def launchMem : List Host.Cell := [(0, 1), (8, 8), (0x401, 8), (0x434, 1), (0x43C, 2), (0x43E, 34), (0x446, 127), (0x4C4, 1), (0x804, 2)]
def launching : State :=
  { queueState (qEntry 1 0x400 0 .waiting) with lines := [0, 8, 9, 10, 11, 12, 16].map (fun n => ⟨.front 5, n, lineRead { s1 with mem := launchMem } n, 0, 0⟩) }
theorem witness_launch : let e := qEntry 1 0x400 0 .waiting
    let w := NMap.getD launching.queues 5 {}
    nextEntry w = some ([], e) ∧ entryOrdered launching [] e = true ∧ w.head = w.tail ∧ w.asked = none ∧ e.blockwise = false ∧
    (match acceptDesc launching (.front 5) 8 e.ctx with
     | (some d, v) => descOk d && (match readRecord v (.front 5) 8 e.ctx (e.word 3) with
       | (some (some (bs, ds)), u) => (match (checkLaunch u (.front 5) bs ds false 8 8 none false).1 with | some (.ok l) => decide (l.frame = 16) && !l.weight | _ => false)
       | _ => false)
     | _ => false) = true := by decide +kernel
/-- EndEvents: an exited skein with nothing left; its bolt, released; a grid with no block left, alone and in a plan; the gate free, with a reader or a writer first. -/
def ending (w : Option (Nat × Option (Nat × Nat)) := none) (area : Nat := 0) : State :=
  { withCore { core1 with skeins := [(0, { skein1 with run := .ended })], bolts := [(1, { bolt1 with release := some [], written := w })] } with
    grids := [(1, { grid1 with launch := { launch1 with eventArray := area } })], dies := [(0, { tlb := [page1] })] }
theorem witness_end : (let s := withSkein { skein1 with run := .exited }
      (sk' s).run = .exited ∧ (sk' s).sq = [] ∧ (sk' s).sqWait = [] ∧ (sk' s).ops = [] ∧ (sk' s).mat = none ∧ (sk' s).taskOpen = false ∧ (∀ n ∈ (sk' s).counters, n = 0)) ∧
    (∀ s ∈ [ending, ending (some (0, none)) 0x800, ending none 0x800], (boltOf s 0 1).isSome = true ∧ (NMap.get? s.grids 1).isSome = true ∧ (∀ e ∈ boltSkeins s 0 1, e.2.run = .ended) ∧ boltCopies s 0 1 = false ∧ waitsDone s .sys [] = true ∧ s.reqs = [])
    := by decide +kernel
theorem witness_event_word : let l := { launch1 with eventArray := 0x800 }
    l.eventArray + 8 * (0 - baseBlock l) = 0x800 ∧ behindSlices 0x800 = true ∧ regionPresent (ending none 0x800) 0x800 = true := by decide +kernel
theorem witness_event_page : FoundOnDie (ending none 0x800) (dieOf 0) 0 0x800 .write ⟨0x800, 0⟩ := ⟨by decide, page1, ⟨0x800, 0⟩, by decide +kernel, by decide +kernel, by decide +kernel⟩
theorem witness_grid_complete : let g := { grid1 with running := 0 }
    g.done = false ∧ g.running = 0 ∧ g.saved = [] ∧ (∀ e ∈ g.todo, e.2 = []) ∧ g.plan = none ∧ g.stopped = false ∧
    (let s := { withPlan .running false 0 with grids := [(1, { g with plan := some (9, 0) })] }
     (planOf s 9).map (fun p => (p.state, (NMap.get? p.stages 0).isSome)) = some (.running, true)) := by decide +kernel
theorem witness_gate : let s := { s1 with clock := 2048, dies := [(0, { gate := .read, gateReaders := [2], gateQueue := [⟨some 1, 0, 0, 0⟩] }), (1, { gateQueue := [⟨none, 5, 8, 0⟩] })] }
    (NMap.getD s.dies 0 {}).gateQueue = [⟨some 1, 0, 0, 0⟩] ∧ (NMap.getD s.dies 0 {}).gate ≠ .write ∧ (NMap.getD s.dies 1 {}).gateQueue = [⟨none, 5, 8, 0⟩] ∧ (NMap.getD s.dies 1 {}).gate = .free ∧ s.clock % 262144 = 2048 + 8192 * 0 := by decide +kernel
/-- DispatchAndStop: block 3 of a grid of four lanes less than a skein is still to dispatch; a saved bolt; a hot core and a cool one; bolts stopped in each way. -/
def dispatching (z : List SavedBolt) : State :=
  { s1 with cores := [], savedBolts := z, grids := [(1, { grid1 with running := 0, todo := if z = [] then [(0, [3])] else [], saved := z.map (fun b => (b.block, 0, none)), launch := { launch1 with lanes := 124, frame := 16, boltQuota := 8, accQuota := 8, tileQuota := 8, granQuota := 255 } })] }
def saved1 : SavedBolt := { grid := 1, block := 3, bolt := { bolt1 with block := 3 }, skeins := [(0, { skein1 with run := .stopped })], decls := [], priv := 0 }
theorem witness_dispatch : let s := dispatching []
    let u := endMigration (joinShares s 0) 0
    devReady s = true ∧ (NMap.getD u.dies 0 {}).lastTurn ≠ some (u.clock / 8) ∧ (pickBolt 0 (turnGrids u 0 (turnOwner u)) u).1 = some (.fresh 1 3 0) := by decide +kernel
theorem witness_restore : let u := endMigration (joinShares (dispatching [saved1]) 0) 0
    (pickBolt 0 (turnGrids u 0 (turnOwner u)) u).1 = some (.saved 1 saved1 0) ∧ (∀ w ∈ (dispatching [saved1]).savedBolts, w.grid = 1 → w.into = none) ∧ saved1 ∈ (pickBolt 0 (turnGrids u 0 (turnOwner u)) u).2.savedBolts := by decide +kernel
/-- A restore that has read its context: here a line could not be read. -/
def restoring : State :=
  { withCore { core1 with skeins := [(0, skein1)], bolts := [(1, { bolt1 with block := 3, slots := [1, 0] })] } with
    savedBolts := [{ saved1 with into := some (0, 1) }], dies := [(0, { lastTurn := some 0 })], grids := [(1, { grid1 with launch := { launch1 with ctxArea := 2 ^ 60 } })] }
theorem witness_restored : let s := restoring
    let l := launchOf s 0 1
    let b := (boltOf s 0 1).getD default
    s.savedBolts.filter (fun w => decide (w.grid = 1) && decide (w.into.map (fun c => dieOf c.1) = some 0)) = [{ saved1 with into := some (0, 1) }] ∧ (boltOf s 0 1).isSome = true ∧ (NMap.getD s.dies 0 {}).lastTurn = some (s.clock / 8) ∧
    ((boltSkeins s 0 1).map Prod.fst).Nodup ∧ (readAreas s (.context b.grid b.block) 0 l.ctx (ctxAreaOf l b.block) (restoreRegions s 0 l b (boltSkeins s 0 1))).1.isSome = true ∧ (∀ e ∈ boltSkeins s 0 1, b.slots.head? ≠ some e.1) := by decide +kernel
def hot : State := { s1 with clock := 65536 * 40000, cores := [(0, { core1 with bolts := [(1, { bolt1 with started := 0 })] })], dev := { dev1 with migcfg := 0x0A5F31, temps := [(0, 110)] } }
theorem witness_migration : let u := endMigration hot 0
    let d := NMap.getD u.dies 0 {}
    let v : State := { u with dies := NMap.insert u.dies 0 { d with migTurn := some u.clock } }
    u.clock % 65536 = 0 ∧ d.migTurn = none ∧ u.dev.migcfg.getLsbD 0 = true ∧ d.migration = none ∧ d.move = none ∧ hotCore v 0 = some 0 ∧ (oldestBolt v 0).map Prod.fst = some 1 ∧ (boltOf v 0 1).isSome = true ∧
    bolt1.started + migResidency v bolt1 ≤ v.clock ∧ (coolCore v 0 0 1 bolt1).isSome = true := by decide +kernel
def stopping (k : StopKind) : State := withCore { core1 with skeins := [(0, { skein1 with run := .stopped })], bolts := [(1, { bolt1 with stop := some k, release := some [], written := some (0, none) })] }
theorem witness_stop : (∀ k ∈ ([.park, .host, .save, .planHalt] : List StopKind), let s := stopping k
      (boltOf s 0 1).map Bolt.stop = some (some k) ∧ (boltOf s 0 1).map Bolt.written = some (some (0, none)) ∧ s.reqs = [] ∧ waitsDone s .dev [] = true ∧ stopReached s 0 1 k = true) ∧ NMap.get? (stopping .park).grids 1 = some grid1 ∧
    s1.grids.find? (fun e => decide (e.2.queue = 3) && decide (e.2.seq = 9) && e.2.plan.isNone && !e.2.done) = some (1, grid1) ∧ s1.plans = [] := by decide +kernel
/-- RegisterPool: a head request that fits, one that may be broken, and one that has waited; no granule of a skein spilled, and one of an idle skein to refill. -/
def request1 : RegRequest := { slot := 0, path := 0, top := 24, fills := [], since := 0, granted := false }
def asking (n : Nat) (r : RegRequest := request1) (t : Option (Nat × Nat × Nat) := none) : State := withCore { core1 with regReqs := [r], phase := n, headTimeout := t }
theorem witness_request : let c := coreOf (asking (65536 * 144)) 0
    headRequest c = some request1 ∧ (∀ q ∈ c.regReqs, q.granted = false) ∧ (skeinOf (asking 65536) 0 0).map (fun sk => (NMap.get? sk.paths request1.path).isSome) = some true ∧ requestNeed c request1 ≤ grantable c ∧ 65536 * 144 ≤ c.phase - request1.phase ∧
    (let r := { request1 with top := 24 + 8 * 300 }
     headRequest (coreOf (asking 0 r (some (0, 0, 0))) 0) = some r ∧ breakDue (asking 0 r (some (0, 0, 0))) 0 = true) := by decide +kernel
/-- A granule ordered to be spilled, its lines written or not; a granule of an idle skein to refill, whose lines have come. -/
def pool (spill sent : Bool) : State :=
  let g := { grid1 with launch := { launch1 with ctxArea := 0x10000 } }
  { withCore { core1 with skeins := [(0, { skein1 with spilled := if spill then [] else [1] })], spillQ := if spill then [(0, 0)] else [], spillSent := sent } with
    grids := [(1, g)], lines := if spill then [] else (List.range 32).map (fun n => ⟨.pool 0 0, (0x220000 + 4096) / 128 + n, 5, 0, 0⟩) }
theorem witness_spill_queue : ∀ sent ∈ [true, false], let s := pool true sent
    (coreOf s 0).spillQ = [(0, 0)] ∧ (coreOf s 0).spillSent = sent ∧ 8 * 0 < topOf (sk' s) ∧ 0 ∉ (sk' s).spilled ∧ agentBusy s (.pool 0 0) = false ∧ headRequest (coreOf s 0) = none ∧ granulePending (sk' s) 0 = false ∧ s.reqs = [] ∧
    (match (virtWrite s (.pool 0 0) (some 0) (dieOf 0) (partOf s 0) (launchOf s 0 (sk' s).bolt).ctx (backingBase s 0 (sk' s) + 4096 * 0)
      ((List.range 8).flatMap (fun i => regImage (vget (sk' s) (16 + 8 * 0 + i)))) (lineFuel 4096)).1 with | some none => true | _ => false) = true := by decide +kernel
theorem witness_refill : let s := pool false false
    let c := coreOf s 0
    c.regReqs = [] ∧ grantable c ≠ 0 ∧ (c.skeins.find? (fun e => decide (e.2.spilled ≠ []) && decide (e.2.run ≠ .ended))).isSome = true ∧ (sk' s).spilled.getLast? = some 1 ∧
    (match (virtRead s (.pool 0 0) (some 0) (dieOf 0) (partOf s 0) (launchOf s 0 (sk' s).bolt).ctx (backingBase s 0 (sk' s) + 4096 * 1) 4096 (lineFuel 4096)).1 with | some (.ok _) => true | _ => false) = true := by decide +kernel
/-- MatrixEvents: an instruction in each of its stages, with and without adapters. -/
def mat (k : MatKind) (steps : Nat) (ad : Option (Nat × Nat × Nat)) (looked rep : Bool) (slots : List Nat) : MatOp := 
  { op := 7, kind := k, pc := 3, issued := 0, ad := ad, looked := looked, entries := [], steps := steps, replayBit := rep, slots := slots, fills := [], direct := [], fault := none, handler := false, abandon := false }
def multiplying (m : MatOp) (tags : NMap Nat) : State := { mState with cores := (withCore { core1 with skeins := [(0, { skein1 with mat := some m })], accs := [(0, { tags := tags })], chunkFills := [{ id := 4, tag := ⟨0, 1, 2, false, 0⟩, va := 0x200, lines := 2, slot := 0, op := 7 }] }).cores, lines := [⟨.chunk 0 4, 4, 1, 0, 0⟩, ⟨.chunk 0 4, 5, 2, 0, 0⟩] }
theorem witness_matrix_steps : (∀ m ∈ [mat (.mma 0 3 4 true) 7 none true false [0, 0, 0], mat (.mma 0 3 4 false) 8 (some (2, 0, 0)) true false [0, 0, 0], mat (.mma 0 3 4 true) 8 (some (2, 0, 0)) true true [9, 0, 0],
      mat (.accz 0) 0 none true false [0, 0, 0], mat (.accl 0 3) 0 none true false [0, 0, 0], mat (.mmac 0 1 4 0 true) 8 none true false [0, 0, 0]], matReady (multiplying m []) 0 0 = some ({ skein1 with mat := some m }, m)) ∧
    (let m := mat (.mma 0 3 4 false) 8 (some (2, 0, 0)) true false [0, 0, 0]
     hitsReady (multiplying m []) 0 { skein1 with mat := some m } m = true ∧ isLast m.kind = false) ∧ rowsOf { tags := [] } 9 = [] := by decide +kernel
theorem witness_adapters : (∀ tags ∈ ([[], [(0, 9)]] : List (NMap Nat)), let m := mat (.mma 0 3 4 true) 0 (some (2, 0, 0)) false false [0, 0, 0]
      let s := multiplying m tags
      (sk' s).mat = some m ∧ m.looked = false ∧ m.fault = none ∧ matRuns s 0 (sk' s) m = true ∧ (sk' s).ops = [] ∧ identsOf (accOf s 0 (dOf s 0 (sk' s) m.kind)) = tags.map Prod.snd ∧ (matLaunch s 0 (sk' s)).adTable = 0) ∧
    (let s := multiplying (mat (.accz 0) 0 none true false [0, 0, 0]) []
     ((coreOf s 0).chunkFills.find? (fun f => decide (f.id = 4) && decide (f.slot = 0))).isSome = true ∧
     (match (virtRead s (.chunk 0 4) (some 0) (dieOf 0) (partOf s 0) 0 0x200 (128 * 2) 3).1 with | some (.ok _) => true | _ => false) = true) := by decide +kernel
theorem witness_oldest : (coreOf (multiplying (mat (.accz 0) 0 none true false [0, 0, 0]) []) 0).skeins.map Prod.fst = [0] := by decide +kernel
/-- DebugEvents: the skein that DBGSEL names, running or halted, for each command; one that must issue a push it has reserved; a snapshot that is written; a reload whose lines have come. -/
def debugging (r : RunState) (cmd : Nat) (snap : Bool := false) : State :=
  { withCore { core1 with skeins := [(0, { skein1 with run := r })], bolts := [(1, { bolt1 with snapshot := snap, accs := [], written := some (0, none) })] } with
    dev := { dev1 with dbgcmd := cmd }
    lines := if snap then ([(0x300400, 9), (0x302000, 64), (0x310000, 64)] : List (Nat × Nat)).flatMap (fun e => (List.range e.2).map (fun n => ⟨.context 1 0, e.1 / 128 + n, 5, 0, 0⟩)) else [] }
theorem witness_debug : (∀ z ∈ [(RunState.running, 1), (.halted, 2), (.haltedBrk, 2), (.halted, 3), (.halted, 5), (.halted, 6)], let s := debugging z.1 z.2
      selSkein s = some { skein1 with run := z.1 } ∧ s.dev.dbgcmd = z.2 ∧ dbgAllowed s z.2 = true) ∧ dbgAllowed (debugging .halted 4 true) 4 = true ∧ stopReached (debugging .halted 3) 0 1 .save = true ∧
    (boltOf (debugging .halted 6) 0 1).map Bolt.stop = some none ∧ (boltOf (debugging .halted 3) 0 1).map Bolt.written = some (some (0, none)) ∧ (debugging .halted 3).reqs = [] ∧
    (∀ e ∈ boltSkeins (debugging .running 1) 0 1, reservedIssue (debugging .running 1) 0 e = false) ∧ (NMap.keys (coreOf (debugging .running 1) 0).skeins).Pairwise (· < ·) := by decide +kernel
theorem witness_halt_pending : let s := { debugging .running 1 with plans := [(9, plan9 { pipe0 0 with pushWaits := [granted0] })] }
    dbgAllowed s 1 = true ∧ (boltSkeins s 0 1).any (fun e => decide (e.2.run = .running) && reservedIssue s 0 e) = true := by decide +kernel
theorem witness_reload : let s := debugging .halted 4 true
    let l := launchOf s 0 1
    let b := (boltOf s 0 1).getD default
    let sks := boltSkeins s 0 1
    (sks.map Prod.fst).Nodup ∧ (match (readAreas s (.context b.grid b.block) 0 l.ctx (ctxAreaOf l b.block) (reloadRegions s 0 l b sks (fun k => (List.range (topOf k / 8)).filter (fun g => g ∉ k.spilled)))).1 with
      | some (_, none) => true | _ => false) = true := by decide +kernel
/-- Commits: a commit before and after its boundary, accepted and refused; the ports at a frame, or in one. -/
def committing (t n : Nat) (adp : DWord) (ch : NMap Word) : State :=
  { s1 with clock := n, channels := [(0, { shadow := ch })], dev := { dev1 with chCommit := some t, fabCommit := some t, ualCommit := some t, partCommit := some t, adpcfg := ⟨0xFFFFFFFF00000001, adp⟩ } }
theorem witness_commit_times : let s := committing 5 65536 0xFFFFFFFF00000001 []
    hbmFrame 5 < hbmFrame s.clock ∧ 5 / 256 < s.clock / 256 ∧ 5 / 65536 < s.clock / 65536 ∧ hbmFrame 5 ≤ hbmFrame 6 ∧ (6 : Nat) / 256 ≤ 5 / 256 ∧ (65535 : Nat) / 65536 ≤ 5 / 65536 ∧ atPortFrame s = true ∧
    atPortFrame { s with ports := [(0, { up := true, slotCount := 63 })] } = false := by decide +kernel
theorem witness_commit_checks : let good := committing 5 65536 0xFFFFFFFF00000001 []
    let other := { committing 5 65536 0xFFFFFFFF00000000 [] with grids := [] }
    fabricBad good = false ∧ fabricBad other = false ∧ fabricBad (committing 5 65536 0x8FFFFFFF00000001 []) = true ∧ other.dev.adpcfg.now.getLsbD 0 ≠ other.dev.adpcfg.next.getLsbD 0 ∧
    partitionBad good = false ∧ partitionBad { good with dev := { good.dev with partClkNext := [(0, 0x2701)], partCoreNext := [(0, 1)] } } = true := by decide +kernel
theorem witness_channel_commit : let bad := (committing 5 65536 0 [(0, 0xFFFFFF8F)]).channels
    bad.all (fun e => decide (nibble (shadowWord e.2.shadow 0 0xFFFFFFFF) 1 = 8)) = true ∧ (committing 5 65536 0 []).channels.all (fun e => (List.range 128).all (fun k => decide (nibble (shadowWord e.2.shadow (k / 8) 0xFFFFFFFF) (k % 8) = 15))) = true := by
  decide +kernel
/-- UALink: a port that has just come up, one with a key, one with two, with flits to send and to send again, one flit refused three times; what waits for the slices. -/
def flit1 : UalFlit := { dest := 3, vc := 0, msg := .write 0x200 [1, 2] }
def inWrite (num pa : Nat) (bs : List Byte) (relaxed sent : Bool) : InboundWrite := { num := num, pa := pa, bytes := bs, relaxed := relaxed, vc := 0, sent := sent }
def podState (p : UalPort) (sent : Bool := false) : State :=
  { s1 with ports := [(2, p)], podBuf := [inWrite 4 0x17F [1, 2] false sent], podReads := [⟨3, .read 0x100 128, 0, 5⟩, ⟨2, .atomic 0x17C .add .n32 1, 1, 5⟩, ⟨9, .compareSwap 0x178 .n64 1 2, 3, 5⟩]
            lines := if sent then [⟨.pod 3, 2, 5, 1, 0⟩, ⟨.pod 2, 2, 5, 0, 0⟩] else [] }
def port1 : UalPort := { up := true, keys := [⟨false, 2 ^ 47 - 1⟩], rxKeys := [false], roll := true, txQueue := [flit1] }
theorem witness_keys : let fresh : UalPort := { up := true }
    let two : UalPort := { port1 with keys := [⟨false, 5⟩, ⟨true, 0⟩] }
    portRec (podState fresh) 2 = fresh ∧ fresh.up = true ∧ fresh.keys = [] ∧ port1.keys = [⟨false, 2 ^ 47 - 1⟩] ∧ port1.roll = true ∧ two.keys.length = 2 ∧ two.unacked = [] ∧ devReady (podState fresh) = true ∧ fresh.up ≠ false := by decide +kernel
theorem witness_port_slot : let p := { port1 with unacked := [⟨flit1, false, 1, true⟩] }
    let pick := fun q => (slotSources (podState q) q.slotCount).findSome? (pickFlit (podState q) 2 q)
    (podState p).dev.ualCommit = none ∧ usablePort port1 = true ∧ pick { port1 with txQueue := [] } = none ∧ pick p = some (.again 0) ∧ pick port1 = some (.fresh flit1) := by decide +kernel
/-- A port that waits for nothing, for a refused flit of another channel, or for a refused flit with a good one behind it. -/
def waitingFlit (seq : Nat) (came : Bool) (fails : Nat) : RxItem := ⟨false, { flit1 with seq := seq, src := 7 }, came, fails⟩
theorem witness_receive : ∀ l ∈ [[], [waitingFlit 4 false 3], [waitingFlit 4 false 1, waitingFlit 5 true 0]], let s := podState { port1 with rxLine := l, unacked := [⟨flit1, false, 2, false⟩] }
    devReady s = true ∧ usablePort (portRec s 2) = true ∧ (portRec s 2).keys ≠ [] ∧ false ∈ (portRec s 2).rxKeys ∧ true ∉ (portRec s 2).rxKeys ∧ (portRec s 2).rxKeys.length < 2 ∧ rxReady l [] = ([], l) ∧
    (∀ i ∈ l, i.flit.seq ≠ 9 ∧ i.fails < 4 ∧ ¬(i.flit.src = 0 ∧ i.flit.vc = 0)) ∧ ((portRec s 2).unacked.drop 0)[0]? = some ⟨flit1, false, 2, false⟩ ∧ (2 : Nat) < 3 := by decide +kernel
theorem witness_pod : ∀ sent ∈ [true, false], let s := podState port1 sent
    s.podBuf = [inWrite 4 0x17F [1, 2] false sent] ∧ agentBusy s (.pod 4) = false ∧ (s.podReads.find? (fun r => decide (r.vc = 1))).map InboundRead.num = some 2 ∧ (∀ w ∈ s.podBuf, w.vc ≠ 1 ∧ w.vc ≠ 3) ∧ reachable s 0x17F 2 = true ∧ s.reqs = [] ∧
    reachable s 0x17C 4 = true ∧ reachable s 0x178 8 = true ∧ (s.lines.find? (fun l => decide (l.agent = .pod 2) && decide (l.line = 0x17C / 128))).isSome = sent := by decide +kernel
/-- With no earlier read on its channel the write goes first, and with the write gone, the read. -/
theorem witness_pod_first : (∀ r ∈ ({ podState port1 with podReads := [] } : State).podReads, r.vc = 0 → 4 ≤ r.num) ∧ InHand (podState port1 true) (.pod 3) 0x100 128 ((List.range 128).map (fun i => lineByte 5 (0 + i))) ∧
    SickHand (podState port1 true) (.pod 3) 0x100 128 ∧ reachable (podState port1 true) 0x100 128 = true ∧ (∀ w ∈ (podState port1 true).podBuf, w.vc = 0 → 3 ≤ w.num) :=
  ⟨by decide, hand _ _ _ _ _ ⟨.pod 3, 2, 5, 1, 0⟩ rfl (by decide) rfl, ⟨0, ⟨.pod 3, 2, 5, 1, 0⟩, by decide, rfl, by decide⟩, by decide +kernel, by decide⟩
/-- HostEvents: a write of two lines that waits behind another, relaxed or not; a read and an atomic whose lines have come; atomics at the last place of a line; an attestation report. -/
def hosting (sent : Bool := false) : State :=
  { s1 with hostBuf := [inWrite 4 0x100 [1, 2] true sent, inWrite 5 0x17F [1, 2] false sent, inWrite 6 0x180 [7] false false], dev := { dev1 with attRequest := true, attBuf := 0x10000, attSent := sent }
            hostReads := [⟨7, 0x100, 128, none⟩, ⟨8, 0x17C, 4, some (hostAtom 0x17C .fetchAdd false 1 0)⟩], lines := [⟨.host 7, 2, 5, 0, 0⟩, ⟨.host 8, 2, 5, 0, 0⟩], nextId := 50 }
theorem witness_host : ∀ sent ∈ [true, false], let s := hosting sent
    reachable s 0x17F 512 = true ∧ devReady s = true ∧ s.hostBuf[2]? = some (inWrite 6 0x180 [7] false false) ∧ (s.hostBuf.take 2).any (fun v => !v.relaxed) = true ∧ s.hostBuf[1]? = some (inWrite 5 0x17F [1, 2] false sent) ∧
    (∀ v ∈ s.hostBuf.take 1, v.relaxed = true) ∧ isMain 0x17F = true ∧ regionPresent s 0x17F = true ∧ agentBusy s (.host 5) = false ∧ (∀ l ∈ s.lines, l.agent ≠ .host s.nextId) ∧
    s.hostReads[1]? = some ⟨8, 0x17C, 4, some (hostAtom 0x17C .fetchAdd false 1 0)⟩ ∧ s.lines.find? (fun l => decide (l.agent = .host 8) && decide (l.line = 0x17C / 128)) = some ⟨.host 8, 2, 5, 0, 0⟩ := by decide +kernel
theorem witness_host_reads : (hosting).hostReads[0]? = some ⟨7, 0x100, 128, none⟩ ∧ InHand (hosting) (.host 7) 0x100 128 ((List.range 128).map (fun i => lineByte 5 (0 + i))) :=
  ⟨by decide, hand _ _ _ _ _ ⟨.host 7, 2, 5, 0, 0⟩ rfl (by decide) rfl⟩
theorem witness_host_registers : let s := hosting
    0x178 % 8 = 0 ∧ 0x17C % 4 = 0 ∧ reachable s 0x178 8 = true ∧ reachable s 0x17C 4 = true ∧ 0x17A % 4 ≠ 0 ∧ (60 ≤ 110 ∧ (110 : Nat) ≤ 110) ∧ s.dev.throttle < 256 ∧ s.dev.ctxBase % 65536 = 0 ∧ s.dev.ctxBase < 2 ^ 52 := by decide +kernel
theorem witness_attestation : ∀ sent ∈ [true, false], let s := hosting sent
    s.dev.attRequest = true ∧ s.dev.attSent = sent ∧ agentBusy s .attest = false ∧ s.dev.attBuf % 128 = 0 ∧ (List.range 512).all (fun i => isMain (s.dev.attBuf + 128 * i) && regionPresent s (s.dev.attBuf + 128 * i)) = true ∧ s1.dev.attRequest = false := by
  decide +kernel
/-- PowerEvents: each phase; a sensor refresh with the telemetry block at each of its steps; a re-plan that waits. -/
def telemetry (k : Nat) : State := { s1 with dev := { dev1 with telBase := 0x2001, telStep := k }, dies := [(0, { replan := some 120 })] }
theorem witness_power : (State.reset).dev.phase = .verify ∧ (withDev { dev1 with phase := .calibrate }).dev.phase = .calibrate ∧ (withDev { dev1 with phase := .initialise }).dev.phase = .initialise ∧
    (∀ k ∈ [0, 1, 2, 3], let s := telemetry k
      let base := s.dev.telBase.toNat / 256 * 256
      devReady s = true ∧ s.dev.telStep = k ∧ s.clock % 65536 = 0 ∧ s.dev.refreshed ≠ some s.clock ∧ agentBusy s .telemetry = false ∧ isMain base = true ∧ regionPresent s base = true ∧ isMain (base + 128) = true ∧ regionPresent s (base + 128) = true) ∧
    agentBusy { telemetry 1 with reqs := [req 40 (.write 1 5) (.agent .telemetry) .net1] } .telemetry = true ∧
    (NMap.getD (telemetry 0).dies 0 {}).replan = some 120 ∧ (∀ i, i < 48 → partOf (telemetry 0) (48 * 0 + i) = 8) ∧ dev1.cores.getLsbD 191 = true := by decide +kernel
/-- StepRunsDecoded: a clause of one word, which decodes, does not, or waits; a path without a clause, whose header has come; an event and a tick. -/
def clauseOf (w : IWord) : Clause := { words := [w], pos := 0, set1 := some 0, set2 := some 1 }
def scheduled (c : Option Clause) : State :=
  { withSkein { skein1 with paths := [(0, { path1 with clause := c })], barLast := [(0, 4)] } with
    lines := [⟨.fetch 0 0 0, 0, BitVec.ofNat 1024 (0x01000100 * 2 ^ 960), 0, 0⟩, ⟨.fetch 0 0 0, 1, BitVec.ofNat 1024 (0x708 * 2 ^ 32), 0, 0⟩]
    cores := [(0, { core1 with skeins := [(0, { skein1 with paths := [(0, { path1 with clause := c })], barLast := [(0, 4)] })], bolts := [(1, { bolt1 with points := [(0, { init := true, expected := 2, arrived := [0], phase := 4 })] })] })] }
def cursor0 : Cursor := { core := 0, slot := 0, path := 0, lanes := none }
theorem sole_ready (v : State) (h1 : mayIssue v 0 0 0 = true) (h2 : (match runPath 0 0 0 v with | .next t => inClause v 0 0 0 && !waits 0 0 0 v t | _ => true) = true) : prepare 0 [(0, 0)] v = ([(0, 0)], v) := by
  simp only [prepare, List.foldl, h1]
  split
  · next h => simp at h
  · split
    · next t h => rw [h] at h2; simp at h2; simp [h2]
    · rfl
theorem witness_choice : ∀ w ∈ [0xF0, 0x90], let v := scheduled (some (clauseOf w))
    prepare 0 ([(0, 0)].filter (fun e => decide (quarterOf e.1 = quarterOf 0))) v = ([(0, 0)], v) ∧ chooseIssue v 0 [(0, 0)] = some (0, 0) ∧
    (pathOf (ageAfter 0 (quarterOf 0) [(0, 0)] 0 0 (clearYields 0 (quarterOf 0) v)) 0 0 0).map Path.clause = some (some (clauseOf w)) := fun w h => by
  rcases List.mem_pair.mp h with h | h <;> subst h <;> exact ⟨sole_ready _ (by decide +kernel) (by decide +kernel), by decide +kernel, by decide +kernel⟩
theorem witness_words : (match nextWord { path1 with clause := some (clauseOf 0xF0) } (clauseOf 0xF0) with | .word w _ => decide (decodeWord w = .ok .nop) | _ => false) = true ∧
    (match nextWord { path1 with clause := some (clauseOf 0x90) } (clauseOf 0x90) with | .word w _ => decide (decodeWord w = .error .reservedOpcode) | _ => false) = true := by decide +kernel
/-- A path that issues alone: its word is a NOP, or waits at a barrier point. -/
theorem witness_sole : (let v := scheduled (some (clauseOf 0xF0));
      mayIssue v 0 0 0 = true ∧ waits 0 0 0 v (after .nop { v with cur := some cursor0 }) = false) ∧
    (let v := scheduled (some (clauseOf (0x200788 + 2 ^ 52)));
      mayIssue v 0 0 0 = true ∧ (match nextWord { path1 with clause := some (clauseOf (0x200788 + 2 ^ 52)) } (clauseOf (0x200788 + 2 ^ 52)) with | .word w _ => decide (decodeWord w = .ok (.barWait always 0)) | _ => false) = true ∧
      waits 0 0 0 v (after (.barWait always 0) { v with cur := some cursor0 }) = true) := by decide +kernel
theorem witness_header : (match fetchHeader 0 0 0 { scheduled none with cur := some cursor0 } with
    | .header h t => decide (h.len = 1) && (match exec (.clauseIssue h) t with | .next _ => true | _ => false) | _ => false) = true ∧ mayIssue (scheduled none) 0 0 0 = true := by decide +kernel
theorem witness_tick : (match exec .channelSlotCommitApply s1 with
    | .next a => (match exec .fabricCommitApply a with | .next b => (match exec .partitionCommitApply b with | .next _ => true | _ => false) | _ => false) | _ => false) = true := by decide +kernel
theorem witness_encode : Instr.nop.wf = true ∧ Instr.nop.isCode = true ∧ (Instr.skeinEnd 0 0).wf = true ∧ (Instr.skeinEnd 0 0).isCode = false := by decide
/-- MemoryStaysCanonical: the state after reset, and a step from it. -/
theorem witness_canonical : MemOk State.reset ∧ (match step { State.reset with schedule := [.tick] } with | .next t => decide (t.clock = 1) | _ => false) = true := by
  exact ⟨by unfold MemOk; decide +kernel, by decide +kernel⟩
/-- AtomicsAndFences, as what waits in the core goes on: an operation of number 6 beside a skein's store queue and the lines of its L1. -/
def poking (b : OpBody) (sq : List SqEntry := []) (l1 : NMap L1Line := []) : State :=
  let s := replyState { cls := .memory, path := 0, body := b } [] sq
  { s with cores := [(0, { coreOf s 0 with l1 := l1 })] }
/-- A line of the L1 with these dirty bytes. -/
def l1Line (d : LMask) : L1Line := { valid := allLanes, dirty := d, data := 5, used := 0, firstVictim := false }
theorem witness_poke : ∀ b ∈ ([.fence .ar .sys {}, .fence .acq .dev {}, .fence .rel .sk {}, .flush true .dev none {}, .flush false .pod (some [2]) {}, .seqr [.v 20, .v 21] two 40, .seqr [.k 2, .k 3] two 40,
      .atomic [(0, 2, ⟨.add, false, .n32, 124, 1, 0⟩)] 1 .sk [] .n32 [.v 20] false {}, .atomic [] 0 .dev [(0, 5, false), (127, 7, true)] .n32 [.v 20] true {}] : List OpBody),
    ∀ sq ∈ [[], [entry false]], ∀ l1 ∈ ([[], [(2, l1Line 0)], [(2, l1Line 1)]] : List (NMap L1Line)), let s := poking b sq l1
    skeinOf s 0 0 = some (sk' s) ∧ (opOf s 0 0 6).map Op.body = some b ∧ s.reqs = [] ∧ s.podBuf = [] ∧ s.hostBuf = [] ∧ (sk' s).sq = sq ∧ (sk' s).sqWait = [] ∧ (coreOf s 0).l1 = l1 ∧
    (l1Line 0).dirty = 0 ∧ (l1Line 1).dirty ≠ 0 := by decide +kernel
theorem witness_poke_lists : ([RegRef.v 20, .v 21] : List RegRef).Nodup ∧ ([RegRef.k 2, .k 3] : List RegRef).Nodup ∧ ([(0, 5, false), (127, 7, true)] : List (Nat × DWord × Bool)).map Prod.fst = [0, 127] ∧
    ([0, 127] : List Nat).Nodup ∧ ({} : Progress).stage = 0 ∧ ({} : Progress).inbound = none ∧ ({} : Progress).loads = [] := by decide
/-- A write of the core that a release waits for. -/
theorem witness_held_release : HoldsRelease (replyState (loading none) [req 40 (.write 1 5) (.store 0 0 6) .net1]) 0 .dev (req 40 (.write 1 5) (.store 0 0 6) .net1) :=
  by
  refine ⟨by decide, by decide, fun c n i h => ?_, by decide⟩; simp [req] at h
/-- Stores: no slice holds a line, so no version has to wait for one. -/
theorem witness_store_ways : ∀ z ∈ reached ++ words, (sliceOf memState (homeSlice memState z.2.2.pa)).lines = [] := by decide +kernel
/-- COLL_RESULT of one member, for every operation, on a tile of F32 elements, and on a byte tile. -/
def resultState (op : CollOp) (fmt : Nat) : State :=
  let s := using1 op
  { s with cores := [(0, { coreOf s 0 with tiles := [(3, { tile .filling with fmt := fmt })] })] }
theorem witness_result : ∀ op ∈ [CollOp.sum, .max, .min, .bcast, .gath], ∀ fmt ∈ [1, 0], let s := resultState op fmt
    (s.collUses.find? (fun v => decide (v.group = 0) && decide (v.gen = 2))).map (fun q => (q.op, q.mismatch, q.got, q.members)) = some (op, false, [], [(0, 0)]) := by decide +kernel
theorem witness_result_copy : ∀ op ∈ [CollOp.sum, .max, .min, .bcast, .gath], ∀ fmt ∈ [1, 0], let s := resultState op fmt
    let k : Copy := { copy0 (.coll 0 2 0 op) with moved := true }
    localMembers s 0 2 = [(0, 0, k, launchOf s 0 1)] ∧ (coreOf s 0).copyq = [k] ∧ k.moved = true ∧ k.tile = 3 ∧ k.tileA = 3 := by decide +kernel
theorem witness_result_tile : ∀ fmt ∈ [1, 0], let s := resultState .sum fmt
    let l := launchOf s 0 1
    let e := tileOf s 0 3
    e.rows = 64 ∧ e.cols * entryW l e % 8 = 0 ∧ entryW l e % 8 = 0 ∧ plainFmt (entryFmt l e).1 = decide (fmt = 1) := by decide +kernel
/-- PipeEvents: a credit, a drop of a push of the producer package, and a spill whose writes have all been accepted. -/
theorem witness_drop : let q := { full1 with remote := true, inbox := [(.drop 5, 2)], slots := [(0, { state := .writing, tag := some 5 })] }
    let s := pipeState q [] none
    tagSlot q 5 = some 0 ∧ q.state = .opened ∧ q.homeHere = true ∧ s.reqs = [] ∧ myTurn s 9 0 q (opKey 2 0 15) = true := by decide +kernel
theorem witness_spilled : let p := { full1 with spill := some (0, 2), spillStep := 3, spillSince := 4 }
    let s := pipeState p [] none
    pipeOf s 9 0 = some p ∧ (planOf s 9).map (fun q => (q.state, q.declared, q.laps, q.spillLap)) = some (.running, [], [], none) ∧ myTurn s 9 0 p (spillKey p) = true ∧ p.homeHere = true ∧ p.remote = false := by decide +kernel
/-- Tasks: a task that holds a pushed slot, or a popped one, of the pipe on its die. -/
def holding1 (push wait : Bool) : State :=
  let s := pipeState { full1 with slots := [(1, { state := if push then .held else .retained })], lastOp := none } [] none
  { s with cores := [(0, { core1 with skeins := [(0, { skein1 with taskOpen := true, taskId := 1, hemWaiting := wait, discarding := !wait, held := [(push, 9, 0, if push then 1 else 2)] })] })] }
theorem witness_held : ∀ z ∈ [(true, true), (true, false), (false, false)], let s := holding1 z.1 z.2
    taskCopies s 0 0 = false ∧ (sk' s).hemWaiting = z.2 ∧ (sk' s).discarding = !z.2 ∧ (sk' s).publish = none ∧ (sk' s).ops = [] ∧ (sk' s).versions = [] ∧ s.reqs = [] ∧ (sk' s).held = [(z.1, 9, 0, if z.1 then 1 else 2 * 1)] := by decide +kernel
theorem witness_held_home : ∀ z ∈ [(true, true), (true, false), (false, false)], let s := holding1 z.1 z.2
    (pipeOf s 9 0).map (fun p => (p.homeHere, p.remote, p.homeDie, p.lastOp, homeKeys s 9 0 p)) = some (true, false, dieOf 0, none, []) := by decide +kernel
/-- PlanEvents: a stage that its plan starves and one that it presses, whose core the balancer may take: the pipe between them is full. -/
def balancing : Plan :=
  let p := plan9 { full1 with filled := 2, free := 0 }
  { p with balance := true, fullT := 200, emptyT := 50, stages := [(0, { stage0 false with share := [0, 1], minShare := [1, 0, 0, 0] }), (1, { stage0 false with grid := 2, share := [2], maxShare := [2, 0, 0, 0] })] }
def balanceState : State := { s1 with clock := 65536 * 100, plans := [(9, balancing)], cores := [(0, core1), (1, {}), (2, {})] }
theorem witness_balance : let s := balanceState
    let p := balancing
    s.clock % 65536 = 0 ∧ s.plans = [(9, p)] ∧ p.state = .running ∧ p.balance = true ∧ p.balanced ≠ some s.clock ∧ p.declared = [] ∧ p.acting = [] ∧ NMap.keys p.stages = [0, 1] ∧
    (∀ e ∈ p.stages, ∀ k ∈ e.2.share ++ e.2.joining, k / 48 = 0) ∧ (NMap.getD s.dies 0 {}).move = none ∧ (NMap.getD s.dies 0 {}).migration = none ∧ (NMap.getD s.dies 0 {}).balMoved ≠ some s.clock ∧
    (∀ b ∈ (coreOf s 0).bolts, b.2.started + (p.residency + 1) * 1800000 ≤ s.clock) ∧ (coreOf s 1).bolts = [] ∧ coreHalted s 0 = false ∧ coreHalted s 1 = false ∧ s.clock = 6553600 ∧
    256 * (coreOf s 1).skeins.length + 1 ≤ 256 * (coreOf s 0).skeins.length + 0 := by decide +kernel
theorem witness_classes : StageClass balancing 0 1 ∧ StageClass balancing 1 2 ∧ Pressure balancing 1 255 := by
  simp [StageClass, Pressure, Reads, Feeds, balancing, plan9, full1, pipe0, Occ]
/-- A ring of two stages: stage 0 waits to push into pipe 0, which is full, and stage 1, its consumer, waits to pop from pipe 1, which stage 0 feeds. -/
def ringPlan (stop : Bool) (used : List Nat) : Plan :=
  let p := plan9 { pipe0 0 with free := 0, filled := 2, slots := [(0, { state := .filled }), (1, { state := .filled })], queue := [⟨false, 1, false, false⟩, ⟨false, 0, false, false⟩] }
  { p with pipes := p.pipes ++ [(1, pipe0 0)], stages := [(0, { stage0 false with blocked := 15 }), (1, { stage0 false with grid := 2, blocked := 15 })], drainStop := stop, spillUnits := 1, spillUsed := used
           edgeAge := [(1, 15), (64, 15)] }
def ringState (stop : Bool) (used : List Nat) : State :=
  let core := fun (g : Nat) (w : WaitKind) => { core1 with skeins := [(0, { skein1 with paths := [(0, { path1 with wait := some (w, 5, 5) })] })], bolts := [(1, { bolt1 with grid := g })] }
  { s1 with clock := 65536 * 20, plans := [(9, ringPlan stop used)], cores := [(0, core 1 (.pipeFree 9 0)), (1, core 2 (.pipeFilled 9 1))]
            grids := [(1, { grid1 with plan := some (9, 0) }), (2, { grid1 with plan := some (9, 1) })] }
theorem witness_ring_blocked : ∀ stop ∈ [true, false], ∀ used ∈ [[], [0], [0, 1, 2, 3]], let s := ringState stop used
    let p := ringPlan stop used
    blockedEdges s p 0 (s.clock - 65536) = some [1] ∧ blockedEdges s p 1 (s.clock - 65536) = some [0] ∧ NMap.keys p.stages = [0, 1] ∧ (blockedEdges s p 0 s.clock).isSome = true ∧ (blockedEdges s p 1 s.clock).isSome = true ∧
    s.clock % 65536 = 0 ∧ s.plans.map Prod.fst = [9] ∧ planOf s 9 = some p ∧ p.laps = [] ∧ p.sampled = none ∧ p.edgeAge = [(1, 15), (64, 15)] ∧ NMap.keys p.pipes = [0, 1] := by decide +kernel
theorem witness_ring_pipes : ∀ used ∈ [[], [0], [0, 1, 2, 3]], let s := ringState false used
    let p := ringPlan false used
    p.drainStop = false ∧ p.state = .running ∧ p.declared = [] ∧ p.acting = [] ∧ (∀ e ∈ p.pipes, e.2.remote = false ∧ e.2.homeHere = true) ∧ s.dies = [] ∧ pushWaiting s 9 0 = true ∧ pushWaiting s 9 1 = false ∧
    (p.pipes.map (fun e => (e.2.free, e.2.producer, e.2.consumer, e.2.queue.find? (fun z => !z.spilled && !z.taken)))) = [(0, 0, 1, some ⟨false, 1, false, false⟩), (2, 0, 1, none)] ∧ p.spillUnits = 1 ∧ p.spillUsed = used := by decide +kernel
/-- QueueEvents: an invalidation of everything that an older store, an older load, or a request that it waits for, holds back. -/
def invalidating (w : Option (List Nat)) (sq : List SqEntry) (ops : NMap Op) (rs : List Req) : State :=
  { queueState { qEntry 4 3 0 .running with began := some (7, 5), waits := w } with cores := [(0, { core1 with skeins := [(0, { skein1 with sq := sq, ops := ops })], l1 := [(2, l1Line 1)] })], reqs := rs, nextId := 50 }
theorem witness_invalidation : ∀ z ∈ ([(none, [{ entry false with made := 7 }], [], []), (none, [], [], []), (none, [{ entry false with made := 8 }], [], []), (some [40], [], [], [req 40 (.read allLanes) (.load 0 0 6 0) .net1]),
      (some [40], [], [(4, loading none)], []), (some [40], [], [(5, loading none)], [])] : List (Option (List Nat) × List SqEntry × NMap Op × List Req)), let s := invalidating z.1 z.2.1 z.2.2.1 z.2.2.2
    (runningEntry s 5 8 4).map (fun e => (e.began, e.waits, field (e.word 3) 0 4)) = some (some (7, 5), z.1, 3) ∧ (sk' s).sq = z.2.1 ∧ (sk' s).sqWait = [] ∧ (sk' s).ops = z.2.2.1 ∧ s.reqs = z.2.2.2 ∧ (coreOf s 0).l1 = [(2, l1Line 1)] ∧
    (s.reqs.map Req.id).Nodup ∧ ∀ r ∈ s.reqs, r.id < s.nextId := by decide +kernel
/-- A cached line that an invalidation's dropped page covers. -/
theorem witness_dropped : page1.pa ≤ 128 * 2 ∧ 128 * 2 < page1.pa + page1.size ∧ page1.part = partOf s1 0 ∧ (l1Line 1).dirty ≠ 0 := by decide
/-- PlanEvents: a plan whose last stage has stopped and whose event record is, or is not yet, written. -/
theorem witness_final : let s := { withPlan .stopping false 0 with plans := (withPlan .stopping false 0).plans.map (fun e => (e.1, { e.2 with stopNow := none, finalRecord := some 7 })) }
    (planOf s 9).map (fun p => (p.state, p.stopNow, p.finalRecord)) = some (.stopping, none, some 7) ∧ s.records = [] := by decide +kernel
/-- DispatchAndStop: the save of a bolt whose context area one page maps. -/
def mapped (k : StopKind) : State :=
  withCore { core1 with tlb := [{ page1 with size := 2 ^ 30 }], skeins := [(0, { skein1 with run := .stopped })], bolts := [(1, { bolt1 with stop := some k, release := some [] })] }
theorem witness_save : ∀ k ∈ ([.park, .save, .planHalt] : List StopKind), let s := mapped k
    (boltOf s 0 1).map Bolt.stop = some (some k) ∧ (boltOf s 0 1).map Bolt.written = some none ∧ (boltOf s 0 1).map Bolt.release = some (some []) ∧ waitsDone s .dev [] = true ∧ stopReached s 0 1 k = true ∧
    (NMap.get? s.grids 1).isSome = true := by decide +kernel
theorem low_region (va : Nat) (h : va < 2 ^ 30) : regionOf va = .hbm 0 := by
  simp only [regionOf]; rw [if_pos (by omega), Nat.div_eq_of_lt (by omega)]
theorem low_present (s : State) (va : Nat) (h : va < 2 ^ 30) (hp : s.dev.hbmStacks.getLsbD 0 = true) : regionPresent s va = true := by
  simp only [regionPresent, low_region va h]; rw [show 3 * 0 + va % 0x3000000000 / 0x1000000000 = 0 by omega]; exact hp
theorem found_low (s : State) (core ctx va : Nat) (h : va < 2 ^ 30) (ht : (coreOf s core).tlb = [{ page1 with size := 2 ^ 30 }]) (hc : ctx = 0) (hp : s.dev.hbmStacks.getLsbD 0 = true) :
    FoundOnCore s core ctx va .write ⟨va, 0⟩ := by
  refine ⟨?_, { page1 with size := 2 ^ 30 }, ⟨va, 0⟩, ?_, ?_, ?_⟩
  · simp [canonical]; omega
  · rw [ht]; subst hc; simp [tlbFind, page1, va57]; omega
  · simp [tlbAccess, page1, baseBad, inAperture, regionOf, va57]; omega
  · simp [useCheck, low_region va h, low_present s va h hp]
theorem witness_mapped : ContextMapped (mapped .save) 0 1 ((boltOf (mapped .save) 0 1).getD default) (launchOf (mapped .save) 0 1) (fun o => ⟨0x100000 + o, 0⟩) := by
  refine ⟨by decide, by decide, by decide, by decide, by decide, by decide, by decide, fun o h0 h => ⟨?_, ?_, ?_, ?_⟩⟩
  · exact found_low _ _ _ _ (by show 0x100000 + o < 2 ^ 30; omega) (by decide) (by decide) (by decide)
  · show (0x100000 + o) % 128 = o % 128; omega
  · show behindSlices (0x100000 + o) = true; simp [behindSlices, low_region (0x100000 + o) (by omega)]
  · exact low_present _ _ (by show 0x100000 + o < 2 ^ 30; omega) (by decide)
/-- A saved context that reads zero everywhere: its check words hold. -/
def zeroed : State :=
  let s : State := { restoring with grids := [(1, grid1)], cores := [(0, { core1 with skeins := [(0, skein1)], bolts := [(1, { bolt1 with block := 3, slots := [0], accs := [] })], tlb := [{ page1 with size := 2 ^ 30 }] })] }
  { s with lines := (restoreRegions s 0 (launchOf s 0 1) ((boltOf s 0 1).getD default) (boltSkeins s 0 1)).flatMap (fun e =>
      (List.range ((e.2 + e.1 % 128 + 127) / 128)).map (fun n => ⟨.context 1 3, (0x100000 + e.1) / 128 + n, 0, 0, 0⟩)) }
theorem zero_check (bs : List Byte) (h : bs.all (fun b => decide (b = 0)) = true) : checkOk bs = true := by
  have crc : ∀ l : List Byte, (∀ b ∈ l, b = 0) → crc64 l = 0 := fun l h => by
    unfold crc64; induction l with
    | nil => rfl
    | cons a r ih => rw [List.foldl_cons, h a List.mem_cons_self, show crcByte 0 0 = 0 from by decide]; exact ih (fun b hb => h b (List.mem_cons_of_mem _ hb))
  have num : ∀ l : List Byte, (∀ b ∈ l, b = 0) → leNat l = 0 := fun l h => by
    induction l with
    | nil => rfl
    | cons a r ih => rw [leNat, h a List.mem_cons_self, ih (fun b hb => h b (List.mem_cons_of_mem _ hb))]; rfl
  have z : ∀ b ∈ bs, b = 0 := by simpa using h
  simp only [checkOk, num _ (fun b hb => z b (List.mem_of_mem_drop hb)), crc _ (fun b hb => z b (List.mem_of_mem_take hb)), decide_true]
theorem witness_restore_sound : (match (readAreas zeroed (.context 1 3) 0 0 0x100000 (restoreRegions zeroed 0 (launchOf zeroed 0 1) ((boltOf zeroed 0 1).getD default) (boltSkeins zeroed 0 1))).1 with
   | some r => r.2.isNone && (privRegions (launchOf zeroed 0 1)).all (fun e => (areaAt r e.1).all (fun b => decide (b = 0))) | none => false) = true ∧ zeroed.plans = [] ∧
    (NMap.getD zeroed.dies 0 {}).lastTurn = some (zeroed.clock / 8) ∧ zeroed.savedBolts = [{ saved1 with into := some (0, 1) }] ∧ ctxAreaOf (launchOf zeroed 0 1) 3 = 0x100000 := by decide +kernel
/-- RegisterPool: three skeins whose windows begin above position 0, the last an evicted one that has its windows back, and a head request that fits, that falls three
granules short, or that nothing covers. -/
def windowed (b : Nat) (w : Win) (ev : Bool) : Skein := { skein1 with born := b, evicted := ev, spilled := if ev then [0] else [], paths := [(0, { path1 with win := w })] }
def crowded (top : Nat) (ev : Bool) : State :=
  let r : RegRequest := { request1 with top := top }
  withCore { core1 with skeins := [(0, windowed 1 ⟨16, 16⟩ false), (1, windowed 5 ⟨8, 16⟩ ev), (2, windowed 5 ⟨8, 16⟩ false)], spillQ := [(0, 1)], regReqs := [r], headTimeout := some (0, 0, 0) }
theorem witness_pool_break : ∀ z ∈ [(1976, 3), (2432, 60)], let s := crowded z.1 false
    let c := coreOf s 0
    let vs := [(2, windowed 5 ⟨8, 16⟩ false, 8), (1, windowed 5 ⟨8, 16⟩ false, 8)]
    (headRequest c).map (fun r => (r.slot, requestNeed c r - grantable c)) = some (0, z.2) ∧ breakDue s 0 = true ∧ (NMap.keys c.skeins).Nodup ∧ (∀ e ∈ c.skeins, e.1 < 64) ∧ skeinOf s 0 0 = some (windowed 1 ⟨16, 16⟩ false) ∧
    (∀ e ∈ vs, (∀ w ∈ activeWins e.2.1, 8 ≤ w.base) ∧ ∃ w ∈ activeWins e.2.1, w.base = 8) ∧ vs.Nodup ∧ c.skeins.filter (fun e => decide (e.1 ≠ 0)) = [(1, windowed 5 ⟨8, 16⟩ false), (2, windowed 5 ⟨8, 16⟩ false)] := by decide +kernel
theorem witness_pool_grant : let s := crowded 40 true
    let c := coreOf s 0
    (headRequest c).map (fun r => decide (requestNeed c r ≤ grantable c)) = some true ∧ (∀ q ∈ c.regReqs, q.granted = true → q.fills = []) ∧ skeinOf s 0 1 = some (windowed 5 ⟨8, 16⟩ true) ∧
    (∀ g ∈ (windowed 5 ⟨8, 16⟩ true).spilled, 8 * g + 8 ≤ 8) ∧ (∀ w ∈ activeWins (windowed 5 ⟨8, 16⟩ true), 8 ≤ w.base) := by decide +kernel
/-- MatrixEvents: row 0 carries identifier 9, whose entry and chunks are at hand: a base k-step and the `.last` terms of a hit, and a replay; a drain. -/
def entry9 : AdEntry := { ident := 9, aBase := 0x1000, bBase := 0x2000, nBlocks := 1, kBlocks := 1, alpha := 0x40000000, rank := 2, fmt := 0 }
def adapted (k : MatKind) (steps : Nat) (rep : Bool) (slots : List Nat) : MatOp :=
  { mat k steps (some (2, 0, 0)) true rep slots with entries := [entry9], direct := [(⟨0, 9, 2, false, 0⟩, List.replicate 512 0x3C), (⟨0, 9, 2, true, 0⟩, List.replicate 512 0x3C)], order := [9] }
def tiled (m : MatOp) (tags : NMap Nat) : State :=
  let s := multiplying m tags
  { s with grids := mState.grids, cores := [(0, { coreOf s 0 with tiles := (coreOf mState 0).tiles })] }
theorem witness_adapter_hit : ∀ last ∈ [true, false], ∀ steps ∈ [0, 7, 8], let m := adapted (.mma 0 3 4 last) steps false [0, 7, 0]
    let s := tiled m [(0, 9), (1, 7)]
    matReady s 0 0 = some ({ skein1 with mat := some m }, m) ∧ hitsReady s 0 { skein1 with mat := some m } m = true ∧ m.entries.find? (fun e => decide (e.ident = 9)) = some entry9 ∧ identsOf (accOf s 0 0) = [7, 9] := by decide +kernel
theorem witness_adapter_replay : ∀ last ∈ [true, false], let m := adapted (.mma 0 3 4 last) 8 true [0, 9, 7]
    let s := tiled m [(0, 9), (1, 7)]
    let k := kOf (widthOf s 0 (matLaunch s 0 { skein1 with mat := some m }) m.kind)
    matReady s 0 0 = some ({ skein1 with mat := some m }, m) ∧ rowsOf (accOf s 0 0) 9 = [0] ∧ rowsOf (accOf s 0 0) 7 = [1] ∧ identReady s 0 0 m k 9 = true ∧ identReady s 0 0 m k 7 = false := by decide +kernel
theorem witness_drain : let s := tiled (mat (.accd 5 0 0) 0 none true false [0, 0, 0]) []
    (matReady s 0 0).map (fun e => e.2.kind) = some (.accd 5 0 0) ∧ (tileOf s 0 5).state = .empty ∧ fmtBits (launchSlot (launchOf s 0 1) 0).1 = 32 := by decide +kernel
/-- UALink: the refused flit itself comes; a write performed to its end, and one at the end of a line. HostEvents: places of the device register block, early and after a trip; a
plain register's writable bits. -/
theorem witness_rest : (∀ sent ∈ [true, false], restOf (inWrite 4 0x100 [1, 2] false sent) = none) ∧ (restOf (inWrite 4 0x17F [1, 2] false true)).map InboundWrite.pa = some 0x180 ∧
    (∀ i ∈ [waitingFlit 4 false 1], i.epoch = false ∧ i.flit.seq = 4 ∧ i.fails < 3) ∧ (waitingFlit 4 false 3).fails = 3 ∧ (∀ k ∈ [waitingFlit 5 true 0], k.came = true) := by decide
theorem witness_bar0 : (∀ o ∈ [0, 0x1268, 0xC000, 0xC007, 0xFFFFF], regionOf (0x2000000000000 + o) = .regs o) ∧ (State.reset).dev.phase ≠ .ready ∧ s1.dev.phase = .ready ∧ (withDev { dev1 with trip := true }).dev.trip = true ∧ s1.dev.trip = false ∧
    regionOf 0x100 ≠ .regs 0x100 := by decide +kernel
theorem witness_writable : Writable s1 0x1000 16 ∧ ¬Writable s1 0x1000 15 ∧ ¬Writable s1 0x1000 52 ∧ Writable s1 0x13E8 43 ∧ (0x1004 : Nat) / 8 * 8 = 0x1000 ∧ 0x1004 % 4 = 0 ∧ s1.dev.throttle < 256 :=
  ⟨⟨by decide, .inl (by decide)⟩, fun h => by simp [Writable] at h; omega, fun h => by simp [Writable] at h; omega, ⟨by decide, .inr (.inr (.inr (.inr (.inr (.inr (.inl ⟨7, by decide, .inr (.inl (by decide))⟩))))))⟩,
    by decide, by decide, by decide⟩
/-- PowerEvents: a part without a second core and with CXL memory, of whose cores one more fails. DebugEvents: a step begun and made; a halted bolt whose context is to be written. -/
theorem witness_part : let part : PartFuses := { (default : PartFuses) with cores := BitVec.allOnes 192 ^^^ 2 }
    part.cores.getLsbD 1 = false ∧ part.cores.getLsbD 0 = true ∧ dev1.cores.getLsbD 1 = true ∧ ([115, 30] : List (BitVec 8)).any (fun x => decide (115 ≤ x.toNat)) = true ∧ ([114] : List (BitVec 8)).all (fun x => decide (x.toNat < 115)) = true := by decide +kernel
theorem witness_step : let s := { debugging .halted 5 with dev := { dev1 with dbgcmd := 5, dbgBegun := true } }
    (selSkein s).map Skein.run = some .halted ∧ s.dev.dbgcmd = 5 ∧ s.dev.dbgBegun = true ∧ (debugging .halted 5).dev.dbgBegun = false := by decide +kernel
def snapping : State := { mapped .save with dev := { dev1 with dbgcmd := 3 }, cores := [(0, { coreOf (mapped .save) 0 with skeins := [(0, { skein1 with run := .haltedBrk })], bolts := [(1, bolt1)] })] }
theorem witness_snapshot : dbgAllowed snapping 3 = true ∧ (selSkein snapping).map Skein.run = some .haltedBrk ∧ stopReached snapping 0 1 .save = true ∧ (boltOf snapping 0 1).map Bolt.written = some none ∧ snapping.dev.dbgcmd = 3 := by decide +kernel
theorem witness_snapshot_mapped : ContextMapped snapping 0 1 bolt1 (launchOf snapping 0 1) (fun o => ⟨0x100000 + o, 0⟩) := by
  refine ⟨by decide, by decide, by decide, by decide, by decide, by decide, by decide, fun o h0 h => ⟨?_, ?_, ?_, ?_⟩⟩
  · exact found_low _ _ _ _ (by show 0x100000 + o < 2 ^ 30; omega) (by decide) (by decide) (by decide)
  · show (0x100000 + o) % 128 = o % 128; omega
  · show behindSlices (0x100000 + o) = true; simp [behindSlices, low_region (0x100000 + o) (by omega)]
  · exact low_present _ _ (by show 0x100000 + o < 2 ^ 30; omega) (by decide)
/-! One step of one instruction, and the worked examples of the spec. -/

/-- A skein of lanes 0 and 1 with these vector registers and predicates. -/
def regs (v : NMap VReg) (p : NMap LMask := []) : State := withSkein { skein1 with vregs := v, preds := p }
def lanes (s : State) (n : Nat) : List Nat := [lane s n 0, lane s n 1]
def preds (s : State) (n : Nat) : Nat := (pget (sk' s) n).toNat % 4
/-- What an instruction leaves in v10 of the two lanes. -/
def v10 (i : Instr) (v : NMap VReg) : List Nat := lanes (after i (regs v)) 10
def f32 : FMod := ⟨.rne, false, false, false, false⟩

theorem test_addc_low_words :  -- 11 Table 5
    (let t := after (.addc always (.v 10) (.v 4) (.v 6) 1 .n32) (regs [(4, [0xFFFFFFFF, 0x80000000]), (6, [1, 0x80000000])])
     (lanes t 10, preds t 1)) = ([0, 0], 3) := by decide +kernel
theorem test_addc_guarded :  -- 11 Table 5: lane 1 keeps its word and its carry
    (let t := after (.addc ⟨2, false, false, false, 0⟩ (.v 11) (.v 5) (.v 7) 1 .n32) (regs [(5, [1, 3]), (7, [0, 4]), (11, [0x55555555, 0x55555555])] [(1, 3), (2, 1)])
     (lanes t 11, preds t 1)) = ([2, 0x55555555], 2) := by decide +kernel
theorem test_addc_p7 :  -- 11 Table 5: p7 as carry reads true and keeps none
    v10 (.addc always (.v 10) (.v 4) (.v 6) 7 .n32) [(4, [0xFFFFFFFF, 0]), (6, [1, 0])] = [1, 1] := by decide +kernel
theorem test_sub_signed_saturates :  -- R54
    v10 (.sub always (.v 10) (.v 4) (.v 6) ⟨.i32, true⟩) [(4, [0x80000000, 5]), (6, [1, 7])] = [0x80000000, 0xFFFFFFFE] := by decide +kernel
theorem test_shl_by_width :  -- R264
    v10 (.shl always (.v 10) (.v 4) (.v 6) ⟨.n32, false⟩) [(4, [1, 1]), (6, [32, 31])] = [0, 0x80000000] := by decide +kernel
theorem test_sar_by_more :  -- R264
    v10 (.sar always (.v 10) (.v 4) (.v 6) ⟨.i32, false⟩) [(4, [0x80000000, 0x40000000]), (6, [200, 30])] = [0xFFFFFFFF, 1] := by decide +kernel
theorem test_tlut :  -- R272, 11: "B where A is set, C elsewhere" is 0xD8
    v10 (.tlut always (.v 10) (.v 4) (.v 5) (.v 6) 0xD8) [(4, [0xFF00FF00, 0]), (5, [0x11111111, 1]), (6, [0x22222222, 2])] = [0x11221122, 2] := by decide +kernel
theorem test_cmp_signed :  -- R266
    preds (after (.cmp always 2 (.v 4) (.v 6) .lt ⟨.i32, false⟩) (regs [(4, [0xFFFFFFFF, 1]), (6, [0, 0])])) 2 = 1 := by decide +kernel
theorem test_cvtn_saturates :  -- 12 Table 4: element 2 of lanes 0 and 1, through fs2 (b8p4x, scale -3)
    (let s := { regs [(2, [0x41EC0000, 0x40020000]), (8, [0x6858, 0x80FE])] with grids := [(1, { grid1 with launch := { launch1 with fslots := [0, 0, 0xFD94] } })] }
     lanes (after (.cvtn always (.v 8) (.v 2) .f32 true 2 2) s) 8) = [0x7E6858, 0x6080FE] := by decide +kernel
theorem test_cvtw :  -- 12 Table 4: element 1
    (let s := { regs [(8, [0x817E6858, 0x7E6080FE])] with grids := [(1, { grid1 with launch := { launch1 with fslots := [0, 0, 0xFD94] } })] }
     lanes (after (.cvtw always (.v 9) (.v 8) .f32 2 1) s) 9) = [0x40800000, 0x7FC00000] := by decide +kernel
theorem test_fmul :  -- 12 Table 4
    v10 (.fmul always (.v 10) (.v 4) (.v 6) f32) [(4, [0x3E800000, 0x7FC00000]), (6, [0x40800000, 0x7FC00000])] = [0x3F800000, 0x7FC00000] := by decide +kernel
theorem test_rounding_table :  -- 03 Table 9: 8, 16.25, 31.2 (of 3.9 as a binary32), 236, 248, and minus infinity
    (let b8p4x : Narrow := ⟨8, 4, false, true⟩
     let xs : List FVal := [.fin false 8 0, .fin false 65 (-2), .fin false 236 0, .fin false 248 0, .inf true]
     (xs.map (roundNarrow b8p4x false), xs.map (roundNarrow b8p4x true), xs.map (fmtDrain (.narrow b8p4x)))) =
    ([0x58, 0x60, 0x7F, 0x7F, 0xFF], [0x58, 0x60, 0x7E, 0x7E, 0xFE], [0x58, 0x60, 0x7E, 0x7E, 0xFF]) := by decide +kernel
theorem test_walk :  -- 04 Table 9
    (let m := [(0x1000010, 0x01010001), (0x1010468, 0x01020001), (0x1020158, 0x01030001), (0x1030038, 0x5234560007)]
     let s := { s1 with lines := m.map (fun e => ⟨.walk 7, e.1 / 128, BitVec.ofNat 1024 (e.2 * 2 ^ (8 * (e.1 % 128))), 0, 0⟩), descs := [(9, (0x1000009, 0))] }
     match (walk s (.walk 7, 8) 0 9 0x123456789AB .read).1 with | some (.ok e) => decide (e.pa + 0x89AB = 0x52345689AB) && e.w && !e.x && decide (e.type = 0) | _ => false) = true := by decide +kernel
theorem test_home_slice :  -- 05: package slice 21; 09 Table 5: package slices 24 and 16; 04: package channel 162
    [homeSlice s1 0x52345689AB, homeSlice s1 0x3123451F80, homeSlice s1 0x3123452000, channelOf 0x52345689AB] = [21, 24, 16, 162] := by decide +kernel
theorem test_exit_of_one_lane :  -- R350: lane 0 exits; lane 1 goes on behind the clause of one word at PC 10
    (let sk := sk' (after (.exit inP1) s1)
     (sk.exited.toNat % 4, sk.paths.map (fun e => e.2.pc))) = (1, [12]) := by decide +kernel
theorem test_trap_without_handler :  -- R404, 17 Table 1: a TRAP without a handler ends in a fatal trap
    ((sk' (after (.trap always 5) s1)).fatal.isSome, (boltOf (after (.trap always 5) s1) 0 1).map Bolt.stop) = (true, some (some .park)) := by decide +kernel
theorem test_step_from_reset :  -- the word of 02 R48 that adds v6 and v7 is the first instruction after reset
    (match step ((State.reset).withFetchWord 96 0x000018070180A710) with
     | .next t => decide (((skeinOf t 0 0).map (fun (k : Skein) => k.paths.map (fun e => e.2.clause.isSome))) = some [false])
     | _ => false) = true := by decide +kernel

end Sys2Proof.Tests
end

section
/-! PROOFS. What `exec` makes of an instruction of the code and of an event of the device, said once over all constructors; with it,
that a guard which holds nowhere passes an instruction over (O17). -/

namespace Sys2Proof.Machine

/-- The answer `o` is one passage through the shared issue check for a word with the guard and hint fields `c` (R9, R33). -/
inductive Issues (c : Ctl) (s : State) : Out → Prop
  | intro (k : Checks) (u : RU) (early : Ctx → State → Option TrapInfo) (body : Ctx → State → State) : Issues c s (issue k u c early body s)

theorem Issues.alu (i : Instr) (c : Ctl) (w : Nat) (d : VK) (f : Ctx → Nat → DWord) (s : State) : Issues c s (alu i c w d f s) := .intro ..
theorem Issues.aluP (i : Instr) (c : Ctl) (p : Nat) (f : Ctx → Nat → Bool) (s : State) : Issues c s (aluP i c p f s) := .intro ..
theorem Issues.aluP2 (i : Instr) (c : Ctl) (p : Nat) (f : Ctx → Nat → Nat → Bool) (s : State) : Issues c s (aluP2 i c p f s) := .intro ..
theorem Issues.aluSlow (i : Instr) (c : Ctl) (w : Nat) (d : VK) (f : Ctx → Nat → DWord) (s : State) : Issues c s (aluSlow i c w d f s) := .intro ..
theorem Issues.changePipe (c : Ctl) (q : Nat) (close : Bool) (s : State) : Issues c s (changePipe c q close s) := .intro ..

/-- What `exec` makes of an instruction of the code: NOP, a clause header, or a word that the shared issue check tries under the
guard and hint fields that its encoding carries (R27, R33, R41). -/
inductive CodeMeaning (i : Instr) (s : State) : Prop
  | nop (hi : i = .nop)
  | header (h : Header) (hi : i = .clauseIssue h)
  | word (c : Ctl) (runs : Issues c s (exec i s)) (ok : i.wf = true → c.ok = true)
      (fields : (encodeFields i).map Fields.ctl = some (c.fields 0).ctl)

/-- The one case split over the instructions of the code that O17 and O60 share. -/
theorem codeMeaning (i : Instr) (s : State) (hi : i.isCode = true) : CodeMeaning i s := by
  cases i
  case nop => exact .nop rfl
  case clauseIssue h => exact .header h rfl
  case' pcon f _ => cases f
  case' lgrp f _ _ => cases f
  case' pmov f => cases f
  all_goals try contradiction
  all_goals apply CodeMeaning.word
  -- the shared shapes of arithmetic and of the changes of a pipe's state
  case add.runs | sub.runs | mul.runs | mulh.runs | mad.runs | madw.runs | min.runs | max.runs | abs.runs | neg.runs | sad.runs | shl.runs | shr.runs
      | sar.runs | rot.runs | clz.runs | popc.runs | brev.runs | sel.runs | mov.runs | movk.runs | lea.runs | idx.runs | and.runs | or.runs | xor.runs
      | not.runs | tlut.runs | bfx.runs | bfi.runs | bpick.runs | fadd.runs | fmul.runs | ffma.runs | fmnx.runs | frnd.runs | fscl.runs | dadd.runs
      | dmul.runs | dfma.runs | dmnx.runs | drnd.runs | dscl.runs | hadd.runs | hmul.runs | hfma.runs | hmnx.runs | hrnd.runs | hscl.runs | cvt.runs
      | pack.runs | unpk.runs | cvti.runs | cvtf.runs | cvts.runs | lperm.runs | xchg.runs | kred.runs | lanemask.runs =>
    unfold exec
    exact .alu ..
  case cmp.runs | fcmp.runs | fcls.runs | dcmp.runs | dcls.runs | pset.runs =>
    unfold exec
    exact .aluP ..
  case hcmp.runs | hcls.runs =>
    unfold exec
    exact .aluP2 ..
  case div.runs | rem.runs | rcp.runs | rsq.runs | sqrt.runs | ex2.runs | lg2.runs | sin.runs | cos.runs | tanh.runs =>
    unfold exec
    exact .aluSlow ..
  case pclose.runs | preopen.runs =>
    unfold exec
    exact .changePipe ..
  -- every other word calls the check itself
  all_goals try (unfold exec; exact .intro ..)
  -- the guard and hint fields, then their ranges
  all_goals try rfl
  all_goals
    intro h
    simp only [Instr.wf, ok1, ok2, ok2p, ok3, okP, Bool.and_eq_true] at h
    tauto

/-- An event of the device answers a next state, whatever the state. -/
theorem event_next (i : Instr) (s : State) (hi : i.isCode = false) : ∃ t, exec i s = .next t := by
  cases i
  all_goals try contradiction
  all_goals exact ⟨_, rfl⟩

theorem encodeFields_event (i : Instr) (hi : i.isCode = false) : encodeFields i = none := by
  cases i
  all_goals try contradiction
  all_goals rfl

/-- Guard and hint fields in their ranges survive the encoder (R27). -/
theorem ctl_fields {c : Ctl} (h : c.ok = true) : (c.fields 0).ctl = c := by
  have bit (b : Bool) : (BitVec.ofBool b == 1#1) = b := by cases b <;> decide
  simp only [Ctl.ok, Bool.and_eq_true, decide_eq_true_eq] at h
  simp [Ctl.fields, Fields.ctl, Nat.mod_eq_of_lt h.1, Nat.mod_eq_of_lt h.2, bit]

theorem Issues.skip {c : Ctl} {s : State} {o : Out} {x : Ctx} (h : Issues c s o) (hx : ctxOf s = some x) (hg : guardLanes x c = 0) :
    o = .next (retire x s) := by
  cases h
  exact issue_skip hx hg

theorem Issues.next {c : Ctl} {s : State} {o : Out} {x : Ctx} (h : Issues c s o) (hx : ctxOf s = some x) : ∃ t, o = .next t := by
  cases h
  exact issue_next hx

/-- Settles O17: NOP is left out, a header and an event carry no guard, and every word goes through the issue check, which tries the guard
first. -/
theorem guardFalse : Obligations.GuardFalse := by
  unfold Obligations.GuardFalse
  intro i c s x hw hn hc hx hg
  cases hi : i.isCode with
  | false => simp [encodeFields_event i hi] at hc
  | true =>
    cases codeMeaning i s hi with
    | nop h => exact absurd h hn
    | header h h' => simp [h', encodeFields] at hc
    | word c' runs ok fields =>
      have hcc : c' = c := by
        rw [fields, ctl_fields (ok hw)] at hc
        exact Option.some.inj hc
      subst hcc
      exact runs.skip hx hg

end Sys2Proof.Machine
end

section
/-! PROOFS. No move stops the machine (O60): the one fault of `exec` is of a word without a skein, and a path that runs keeps its skein
while its header is fetched. -/

namespace Sys2Proof.Machine

theorem clauseIssueWith_next (stopped : Ctx → BitVec 12 → State → Option (TrapInfo × State)) (h : Header) {s : State} {x : Ctx} (hx : ctxOf s = some x) :
    ∃ t, clauseIssueWith stopped h s = .next t := by
  unfold clauseIssueWith
  rw [hx]
  dsimp only
  repeat' split
  all_goals exact ⟨_, rfl⟩

/-- An instruction stops the machine, if at all, only outside a skein. -/
theorem exec_next (i : Instr) {s : State} {x : Ctx} (hx : ctxOf s = some x) : ∃ t, exec i s = .next t := by
  cases hi : i.isCode with
  | false => exact event_next i s hi
  | true =>
    cases codeMeaning i s hi with
    | nop h =>
      subst h
      exact ⟨retire x s, by show execNop s = _; simp [execNop, hx]⟩
    | header h h' =>
      subst h'
      exact clauseIssueWith_next stoppedMatrix h hx
    | word c runs _ _ => exact runs.next hx

theorem ctxOf_of_cur {s : State} {cu : Cursor} {pa : Path} (hc : s.cur = some cu) (hp : pathOf s cu.core cu.slot cu.path = some pa) :
    ∃ x, ctxOf s = some x := by
  obtain ⟨sk, hs, ht⟩ := Option.bind_eq_some_iff.mp hp
  simp [ctxOf, hc, hs, ht]

/-- From `s` to `t` no skein changes, and the instruction in hand is the same. -/
def SameSkeins (s t : State) : Prop := t.cur = s.cur ∧ ∀ core slot, skeinOf t core slot = skeinOf s core slot

theorem SameSkeins.refl (s : State) : SameSkeins s s := ⟨rfl, fun _ _ => rfl⟩
theorem SameSkeins.trans {s t u : State} (h : SameSkeins s t) (g : SameSkeins t u) : SameSkeins s u :=
  ⟨g.1.trans h.1, fun core slot => (g.2 core slot).trans (h.2 core slot)⟩
theorem SameSkeins.of_cores {s t : State} (hc : t.cur = s.cur) (h : t.cores = s.cores) : SameSkeins s t :=
  ⟨hc, fun core slot => by simp only [skeinOf, coreOf, h]⟩

theorem lineGet_sameSkeins (s : State) (a : Agent) (pa die port owner : Nat) (pol : CPol) : SameSkeins s (lineGet s a pa die port owner pol).2 := by
  unfold lineGet
  repeat' split
  all_goals exact .of_cores rfl rfl
theorem tlbFill_sameSkeins (s : State) (core : Option Nat) (die : Nat) (e : TlbEntry) : SameSkeins s (tlbFill s core die e) := by
  cases core with
  | none => exact .of_cores rfl rfl
  | some c =>
    refine ⟨rfl, fun core slot => ?_⟩
    simp only [tlbFill, skeinOf, coreOf, NMap.getD, get?_nupdate]
    split
    · cases NMap.get? s.cores core <;> rfl
    · rfl
theorem tlbUse_sameSkeins (s : State) (core : Option Nat) (die ctx va : Nat) : SameSkeins s (tlbUse s core die ctx va) := by
  unfold tlbUse
  split
  · exact .refl s
  · split
    · exact .refl s
    · split
      · exact tlbFill_sameSkeins _ _ _ _
      · exact .refl s
theorem postWalk_sameSkeins (s : State) (a : Agent) (core : Option Nat) (die owner ctx va : Nat) (kind : WalkKind) :
    SameSkeins s (postWalk s a core die owner ctx va kind) := by
  unfold postWalk
  dsimp only
  split <;> exact .of_cores rfl rfl
theorem translate_sameSkeins (s : State) (a : Agent) (core : Option Nat) (die owner ctx va : Nat) (kind : WalkKind) :
    SameSkeins s (translate s a core die owner ctx va kind).2 := by
  unfold translate
  split
  · exact tlbUse_sameSkeins _ _ _ _ _
  · exact postWalk_sameSkeins _ _ _ _ _ _ _ _
theorem access_sameSkeins (s : State) (a : Agent) (core : Option Nat) (die owner ctx va : Nat) (kind : WalkKind) (u : Use) :
    SameSkeins s (access s a core die owner ctx va kind u).2 := by
  have t := translate_sameSkeins s a core die owner ctx (va57 va) kind
  unfold access
  split
  · exact .refl s
  · split <;> rename_i h <;> rw [h] at t <;> exact t
/-- Fetching code changes no skein: it asks for walks and lines, and fills translation caches. -/
theorem fetchBytes_sameSkeins (core slot path ctx : Nat) (k : Nat) : ∀ (s : State) (a n : Nat),
    SameSkeins s (fetchBytes s core slot path ctx a n k).2 := by
  induction k with
  | zero => exact fun s _ _ => .refl s
  | succ k ih =>
    intro s a n
    unfold fetchBytes
    split
    · exact .refl s
    · have ha := access_sameSkeins s (.fetch core slot path) (some core) (dieOf core) (partOf s core) ctx a .fetch .fetch
      dsimp only
      split <;> rename_i h <;> rw [h] at ha
      · exact ha
      · exact ha
      · rename_i x s'
        have hl := ha.trans (lineGet_sameSkeins s' (.fetch core slot path) x.pa (dieOf core) (portOf core) (partOf s' core) .keep)
        split <;> rename_i g <;> rw [g] at hl
        · exact hl
        · rename_i d s''
          have hf := hl.trans (ih s'' ((a + min n (128 - a % 128)) % 2 ^ 64) (n - min n (128 - a % 128)))
          split <;> rename_i f <;> rw [f] at hf <;> exact hf
theorem fetchHeader_sameSkeins {core slot path : Nat} {s t : State} {h : Header} (hf : fetchHeader core slot path s = .header h t) : SameSkeins s t := by
  unfold fetchHeader at hf
  split at hf
  · cases hf
  · rename_i sk _
    split at hf
    · cases hf
    · rename_i pa _
      have k := fetchBytes_sameSkeins core slot path (launchOf s core sk.bolt).ctx 4 s (codeAddr (launchOf s core sk.bolt) pa.pc) 12
      dsimp only at hf
      split at hf <;> rename_i g <;> rw [g] at k
      · cases hf
      · cases hf
      · split at hf
        · cases hf
        · split at hf <;> cases hf
          exact k

/-- The cursor that `runPath` sets names a path that is there, before the fetch of a header and after. -/
theorem runPath_next (core slot path : Nat) (s : State) : ∃ t, runPath core slot path s = .next t := by
  have hand (u : State) (pa : Path) (lanes : Option LMask) (hc : u.cur = some { core := core, slot := slot, path := path, lanes := lanes })
      (hp : pathOf u core slot path = some pa) : ∃ x, ctxOf u = some x := ctxOf_of_cur hc hp
  unfold runPath
  dsimp only
  split
  · exact ⟨_, rfl⟩
  · rename_i pa hp
    split
    · split
      · rename_i h t hf
        have k := fetchHeader_sameSkeins hf
        obtain ⟨x, hx⟩ := hand t pa none k.1 (by rw [← hp]; simp only [pathOf, k.2])
        exact exec_next _ hx
      · exact ⟨_, rfl⟩
    · split
      · split
        · rename_i _ lanes _ _ i _
          obtain ⟨x, hx⟩ := hand { s with cur := some { core := core, slot := slot, path := path, lanes := lanes } } pa lanes rfl hp
          exact exec_next _ hx
        · exact ⟨_, rfl⟩
      · split <;> exact ⟨_, rfl⟩
      · exact ⟨_, rfl⟩

theorem issueSlot_next (core q : Nat) (free : List (Nat × Nat)) (s : State) : ∃ t, issueSlot core q free s = .next t := by
  unfold issueSlot
  dsimp only
  split
  · exact ⟨_, rfl⟩
  · rename_i slot path _
    split
    · exact ⟨_, rfl⟩
    all_goals
      rename_i h
      obtain ⟨t, ht⟩ := runPath_next core slot path _
      rw [ht] at h
      cases h

theorem runMove_next (m : Move) (s : State) : ∃ t, runMove m s = .next t := by
  cases m with
  | slot core q ready => exact issueSlot_next core q ready s
  | event i =>
    simp only [runMove]
    split
    · exact ⟨_, rfl⟩
    · rename_i h
      have hi : i.isCode = false := by simp_all
      exact event_next i s hi
  | tick => exact ⟨_, rfl⟩

/-- Settles O60: a slot runs only paths that are there, an event always answers, and so does a tick. -/
theorem everyStepAnswers : Obligations.EveryStepAnswers := by
  unfold Obligations.EveryStepAnswers StepsOn step
  intro s
  split
  · exact runMove_next _ _
  · exact runMove_next _ _

end Sys2Proof.Machine
end

section
/-! PROOFS. A counterexample to O53. The port marks the poison of its line request by the request's number (`engineWriteP`), and so changes
every request of that number: where one bears it already, a host's write alters a request that is not its own. A counter gives the numbers
out, but O53 speaks of every state, and does not ask that the counter is ahead of the requests there are. -/

namespace Sys2Proof.Machine

/-- A package without cores has no operation to advance and no bolt to start. -/
theorem bufferMoved_eq_self {s : State} (h : s.cores = []) : bufferMoved s = s := by
  simp [bufferMoved, pokeAll, drainAcquire, NMap.keys, h]

/-- A host write of one byte that waits, arrived without poison. -/
def cleanWrite : InboundWrite := { num := 0, pa := 0, bytes := [0], relaxed := true, vc := 0 }
/-- A poisoned request under the number that the next request takes. -/
def sameNumber : Req :=
  { id := State.reset.nextId, kind := .prefetch, who := .system, line := 0, policy := .keep, owner := 8, die := 0, port := 15, homeDie := 0, homeSlice := 0
    stage := .port, since := 0, reservedEntry := false, way := 0, rdata := 0, rpoison := 15, rold := 0, stamp := 0 }
/-- The state after reset with the write waiting and the request on its way. -/
def numberTaken : State := { State.reset with hostBuf := [cleanWrite], reqs := [sameNumber] }

/-- The poison marks of the requests of the state that an instruction answers. -/
def poisonsAfter (o : Out) : List (BitVec 4) := match o with
  | .next t => t.reqs.map Req.rpoison
  | _ => []

/-- Refutes O53, in its clause on the line request of a waiting write: in `numberTaken` the write of one clean byte clears the poison of a
request that was on its way before. -/
theorem not_hostEvents : ¬ Obligations.HostEvents := by
  unfold Obligations.HostEvents
  intro h
  obtain ⟨-, waiting, -⟩ := h numberTaken
  obtain ⟨-, goes⟩ := waiting 0 cleanWrite true false rfl
  obtain ⟨sends, -⟩ := goes (.inl rfl)
  obtain ⟨u, r, run, hu, -⟩ := sends rfl rfl rfl
  have cores : u.cores = [] := by rw [hu]; rfl
  have kept : u.reqs = [sameNumber, r] := by rw [hu]; rfl
  have cleared : poisonsAfter (exec (.hostMemoryWrite 0 [] ⟨true, false⟩) numberTaken) = [0, 0] := by decide
  rw [run, bufferMoved_eq_self cores] at cleared
  simp [poisonsAfter, kept, sameNumber] at cleared

end Sys2Proof.Machine
end

section
/-! PROOFS. The encoder and the decoder agree (O58): what each puts into a field of a word, the other takes out of it. -/

namespace Sys2Proof

/-! The fields of a word (R27 Table 1). -/

@[simp] theorem Fields.ofWord_toWord (f : Fields) : Fields.ofWord f.toWord = f := by
  obtain ⟨op, gp, gn, ⟨dc, di⟩, ⟨ac, ai⟩, ⟨bc, bi⟩, mod, fs, sub, imm, yh, re, se⟩ := f
  simp only [Fields.ofWord, Fields.toWord, Fields.mk.injEq, Opnd.mk.injEq]
  refine ⟨?_, ?_, ?_, ⟨?_, ?_⟩, ⟨?_, ?_⟩, ⟨?_, ?_⟩, ?_, ?_, ?_, ?_, ?_, ?_, ?_⟩
  all_goals
    change BitVec.extractLsb' (n := 4+1+2+1+32+2+3+3+6+2+8+2+8+2+8+1+3+8) _ _ _ = _
    simp (disch := decide) only [BitVec.extractLsb'_append_eq_of_le, BitVec.extractLsb'_append_eq_of_add_le, BitVec.extractLsb'_eq_self,
      Nat.reduceSub, -Nat.reduceAdd]

/-- Opcode 0 is a header's. -/
theorem op_ne_zero_of_decodeFields {f : Fields} {i : Instr} (h : decodeFields f = .ok i) : f.op ≠ 0#8 := by
  intro z
  simp [decodeFields, decodeControl, z] at h

theorem decodeWord_toWord {f : Fields} {i : Instr} (h : decodeFields f = .ok i) : decodeWord f.toWord = .ok i := by
  have op : f.toWord.extractLsb' 0 8 = f.op := congrArg Fields.op (Fields.ofWord_toWord f)
  rw [decodeWord, op, if_neg (op_ne_zero_of_decodeFields h), Fields.ofWord_toWord, h]

/-! Operands (R28 to R32). -/

theorem vOk_lt {w n : Nat} (h : vOk w n = true) : n < 256 := by
  simp only [vOk, Bool.and_eq_true, decide_eq_true_eq] at h
  rcases Nat.eq_zero_or_pos w with rfl | hw
  · have := Nat.mod_zero n; omega
  · omega
theorem kOk_lt {w n : Nat} (h : kOk w n = true) : n < 256 := by
  simp only [kOk, Bool.and_eq_true, decide_eq_true_eq] at h
  omega

@[simp] theorem need_true (e : DecodeErr) : need e true = .ok () := rfl
@[simp] theorem Dec.ok_bind {α β : Type} (a : α) (k : α → Dec β) : ((.ok a : Dec α) >>= k) = k a := rfl

@[simp] theorem vreg_encV {w n : Nat} (h : vOk w n = true) : vreg (encV n) w = .ok n := by
  simp [vreg, encV, Nat.mod_eq_of_lt (vOk_lt h), h]
@[simp] theorem kreg_encK {w n : Nat} (h : kOk w n = true) : kreg (encK n) w = .ok n := by
  simp [kreg, encK, Nat.mod_eq_of_lt (kOk_lt h), h]
@[simp] theorem listed_encX {n lim : Nat} (hl : lim ≤ 256) (h : n < lim) : listed (encX n) lim = .ok n := by
  simp [listed, encX, Nat.mod_eq_of_lt (show n < 256 by omega), h]
@[simp] theorem vk_enc {w : Nat} {o : VK} (h : vkOk w o = true) : vk o.enc w = .ok o := by
  cases o with
  | v n => simp [vk, VK.enc, Nat.mod_eq_of_lt (vOk_lt h), show vOk w n = true from h]
  | k n => simp [vk, VK.enc, Nat.mod_eq_of_lt (kOk_lt h), show kOk w n = true from h]
@[simp] theorem dst_enc {w : Nat} {d : VK} {anyV : Bool} (h : dstOk w d anyV = true) : dst d.enc w anyV = .ok d := by
  simp only [dstOk, Bool.and_eq_true] at h
  simp [dst, h]
theorem src_enc {f : Fields} {w : Nat} {o : Src} (h : srcOk w o = true) (hi : ∀ x, o = .imm x → f.imm = x) : f.src o.enc w = .ok o := by
  cases o with
  | v n => simp [Fields.src, Src.enc, Nat.mod_eq_of_lt (vOk_lt h), show vOk w n = true from h]
  | k n => simp [Fields.src, Src.enc, Nat.mod_eq_of_lt (kOk_lt h), show kOk w n = true from h]
  | imm x => simp [Fields.src, Src.enc, hi x rfl]
/-- The only source takes the immediate field. -/
@[simp] theorem src_immOf {f : Fields} {w : Nat} {o : Src} (h : srcOk w o = true) (hf : f.imm = immOf o o) : f.src o.enc w = .ok o :=
  src_enc h (by rintro x rfl; exact hf)
theorem src_immOf_left {f : Fields} {w : Nat} {a b : Src} (h : srcOk w a = true) (hf : f.imm = immOf a b) : f.src a.enc w = .ok a :=
  src_enc h (by rintro x rfl; exact hf)
theorem src_immOf_right {f : Fields} {w : Nat} {a b : Src} (h : srcOk w b = true) (one : oneImm a b = true) (hf : f.imm = immOf a b) :
    f.src b.enc w = .ok b := by
  refine src_enc h ?_
  rintro x rfl
  cases a with
  | imm _ => cases one
  | v _ | k _ => exact hf
theorem reg_enc {f : Fields} {w : Nat} {o : Src} (h : srcOk w o = true) (hi : o.isImm = false) : f.reg o.enc w = .ok o := by
  rw [Fields.reg, src_enc h (by rintro x rfl; cases hi)]
  simp [hi]
/-- Operand C is read where it was written (R31). -/
theorem c_immC {f : Fields} {o : Opnd} (h : f.imm = immC o) : f.c = o := by
  obtain ⟨cls, ix⟩ := o
  simp only [Fields.c, h, immC, Opnd.mk.injEq]
  constructor
  all_goals
    change BitVec.extractLsb' (n := 22+2+8) _ _ _ = _
    simp (disch := decide) only [BitVec.extractLsb'_append_eq_of_le, BitVec.extractLsb'_append_eq_of_add_le, BitVec.extractLsb'_eq_self,
      Nat.reduceSub, -Nat.reduceAdd]

/-! The operand shapes. -/

theorem dec2_enc {f : Fields} {wd wa wb : Nat} {c : Ctl} {d : VK} {a b : Src} {k : VK → Src → Src → Instr} (h : ok2 wd wa wb c d a b = true)
    (hd : f.d = d.enc) (ha : f.a = a.enc) (hb : f.b = b.enc) (hi : f.imm = immOf a b) : f.dec2 wd wa wb k = .ok (k d a b) := by
  simp only [ok2, Bool.and_eq_true] at h
  obtain ⟨⟨⟨⟨-, oa⟩, ob⟩, one⟩, od⟩ := h
  simp [Fields.dec2, hd, ha, hb, src_immOf_left oa hi, src_immOf_right ob one hi, one, od]
theorem dec1_enc {f : Fields} {wd wa : Nat} {c : Ctl} {d : VK} {a : Src} {k : VK → Src → Instr} (h : ok1 wd wa c d a = true)
    (hd : f.d = d.enc) (ha : f.a = a.enc) (hi : f.imm = immOf a a) : f.dec1 wd wa k = .ok (k d a) := by
  simp only [ok1, Bool.and_eq_true] at h
  obtain ⟨⟨-, oa⟩, od⟩ := h
  simp [Fields.dec1, hd, ha, src_immOf oa hi, od]
theorem dec3_enc {f : Fields} {wd wa wb wc : Nat} {c : Ctl} {d cc : VK} {a b : Src} {k : VK → Src → Src → VK → Instr} (h : ok3 wd wa wb wc c d a b cc = true)
    (hd : f.d = d.enc) (ha : f.a = a.enc) (hb : f.b = b.enc) (hi : f.imm = immC cc.enc) : f.dec3 wd wa wb wc k = .ok (k d a b cc) := by
  simp only [ok3, Bool.and_eq_true, Bool.not_eq_true'] at h
  obtain ⟨⟨⟨⟨⟨⟨-, oa⟩, ob⟩, ia⟩, ib⟩, oc⟩, od⟩ := h
  simp [Fields.dec3, hd, ha, hb, c_immC hi, reg_enc oa ia, reg_enc ob ib, oc, od]
theorem dec2p_enc {f : Fields} {wd wa wb : Nat} {c : Ctl} {d : VK} {a b : Src} {p : Nat} {k : VK → Src → Src → Nat → Instr} (h : ok2p wd wa wb c d a b p = true)
    (hd : f.d = d.enc) (ha : f.a = a.enc) (hb : f.b = b.enc) (hi : f.imm = immC (encX p)) : f.dec2p wd wa wb k = .ok (k d a b p) := by
  simp only [ok2p, pOk, Bool.and_eq_true, Bool.not_eq_true', decide_eq_true_eq] at h
  obtain ⟨⟨⟨⟨⟨⟨-, oa⟩, ob⟩, ia⟩, ib⟩, op⟩, od⟩ := h
  simp [Fields.dec2p, hd, ha, hb, c_immC hi, reg_enc oa ia, reg_enc ob ib, listed_encX (by decide) op, od]
theorem decP_enc {f : Fields} {np wa wb : Nat} {c : Ctl} {p : Nat} {a b : Src} {k : Nat → Src → Src → Instr} (h : okP np wa wb c p a b = true)
    (hd : f.d = encX p) (ha : f.a = a.enc) (hb : f.b = b.enc) (hi : f.imm = immOf a b) : f.decP np wa wb k = .ok (k p a b) := by
  simp only [okP, Bool.and_eq_true, decide_eq_true_eq] at h
  obtain ⟨⟨⟨⟨-, oa⟩, ob⟩, one⟩, op⟩ := h
  simp [Fields.decP, hd, ha, hb, listed_encX (show 9 - np ≤ 256 by omega) (show p < 9 - np by omega), src_immOf_left oa hi, src_immOf_right ob one hi, one]

theorem ok2_ctl {wd wa wb : Nat} {c : Ctl} {d : VK} {a b : Src} (h : ok2 wd wa wb c d a b = true) : c.ok = true := by
  simp only [ok2, Bool.and_eq_true] at h; tauto
theorem ok1_ctl {wd wa : Nat} {c : Ctl} {d : VK} {a : Src} (h : ok1 wd wa c d a = true) : c.ok = true := by
  simp only [ok1, Bool.and_eq_true] at h; tauto
theorem ok3_ctl {wd wa wb wc : Nat} {c : Ctl} {d cc : VK} {a b : Src} (h : ok3 wd wa wb wc c d a b cc = true) : c.ok = true := by
  simp only [ok3, Bool.and_eq_true] at h; tauto
theorem ok2p_ctl {wd wa wb : Nat} {c : Ctl} {d : VK} {a b : Src} {p : Nat} (h : ok2p wd wa wb c d a b p = true) : c.ok = true := by
  simp only [ok2p, Bool.and_eq_true] at h; tauto
theorem okP_ctl {np wa wb : Nat} {c : Ctl} {p : Nat} {a b : Src} (h : okP np wa wb c p a b = true) : c.ok = true := by
  simp only [okP, Bool.and_eq_true] at h; tauto

/-! Modifiers and sub-operations (02 Table 5, R43, R45): every code is read back as what it stands for. -/

@[simp] theorem ICond.ofCode_code (x : ICond) : ICond.ofCode (x.code % 8) = .ok x := by cases x <;> rfl
@[simp] theorem FCond.ofCode_code (x : FCond) : FCond.ofCode (x.code % 8) = x := by cases x <;> rfl
@[simp] theorem IdxWhat.ofCode_code (x : IdxWhat) : IdxWhat.ofCode (x.code % 8) = .ok x := by cases x <;> rfl
@[simp] theorem PermMode.ofCode_code (x : PermMode) : PermMode.ofCode (x.code % 8) = .ok x := by cases x <;> rfl
@[simp] theorem KredOp.ofCode_code (x : KredOp) : KredOp.ofCode (x.code % 8) = .ok x := by cases x <;> rfl
@[simp] theorem PsetOp.ofCode_code (x : PsetOp) : PsetOp.ofCode (x.code % 8) = .ok x := by cases x <;> rfl
@[simp] theorem LmRel.ofCode_code (x : LmRel) : LmRel.ofCode (x.code % 8) = .ok x := by cases x <;> rfl
@[simp] theorem AtomOp.ofCode_code (x : AtomOp) : AtomOp.ofCode (x.code % 8) = x := by cases x <;> rfl
@[simp] theorem FenceKind.ofCode_code (x : FenceKind) : FenceKind.ofCode (x.code % 8) = .ok x := by cases x <;> rfl
@[simp] theorem CollOp.ofCode_code (x : CollOp) : CollOp.ofCode (x.code % 8) = .ok x := by cases x <;> rfl
@[simp] theorem PstatWhat.ofCode_code (x : PstatWhat) : PstatWhat.ofCode (x.code % 8) = .ok x := by cases x <;> rfl
@[simp] theorem AdpfWhat.ofCode_code (x : AdpfWhat) : AdpfWhat.ofCode (x.code % 8) = .ok x := by cases x <;> rfl


/-! Of the fields of an instruction, its guard, its hints and its modifiers are read back. -/

section
variable {c : Ctl} {op op' : BitVec 8} {n : Nat} {d a b : Opnd} {md : BitVec 6} {fs sub : BitVec 3} {imm : BitVec 32} {y : BitVec 1} {r : BitVec 2} {s : BitVec 1}
  {gp : BitVec 3} {gn : BitVec 1}

@[simp] theorem ctl_mk (h : c.ok = true) : Fields.ctl ⟨op, (c.fields n).gp, (c.fields n).gn, d, a, b, md, fs, sub, imm, (c.fields n).yieldHint, (c.fields n).retain,
    (c.fields n).second⟩ = c := Machine.ctl_fields h
@[simp] theorem op_fields : (c.fields n).op = BitVec.ofNat 8 n := rfl
@[simp] theorem sub_fields : (c.fields n).sub = 0#3 := rfl
@[simp] theorem imod_mk (m : IMod) : Fields.imod ⟨op, gp, gn, d, a, b, m.enc, fs, sub, imm, y, r, s⟩ = m := by
  obtain ⟨ty, sat⟩ := m
  cases ty <;> cases sat <;> simp [Fields.imod, Fields.it, Fields.modBits, Fields.modBit, IMod.enc, IType.code, IType.ofCode]
@[simp] theorem it_mk_imod (m : IMod) : Fields.it ⟨op, gp, gn, d, a, b, m.enc, fs, sub, imm, y, r, s⟩ = m.ty := congrArg IMod.ty (imod_mk m)
@[simp] theorem it_mk (t : IType) : Fields.it ⟨op, gp, gn, d, a, b, t.enc, fs, sub, imm, y, r, s⟩ = t := by
  cases t <;> simp [Fields.it, Fields.modBits, IType.enc, IType.code, IType.ofCode]
@[simp] theorem fmod_mk (m : FMod) : Fields.fmod ⟨op, gp, gn, d, a, b, m.enc, fs, sub, imm, y, r, s⟩ = m := by
  obtain ⟨dir, nA, nB, m4, m5⟩ := m
  cases dir <;> cases nA <;> cases nB <;> cases m4 <;> cases m5 <;> simp [Fields.fmod, Fields.modBits, Fields.modBit, FMod.enc, RMode.code, RMode.ofCode]
@[simp] theorem wide_mk (w : Bool) : Fields.wide ⟨op, gp, gn, d, a, b, wideEnc w, fs, sub, imm, y, r, s⟩ = .ok w := by
  cases w <;> simp [Fields.wide, Fields.modBits, wideEnc]
@[simp] theorem it3264_mk {t : IType} (h : t.is3264 = true) : Fields.it3264 ⟨op, gp, gn, d, a, b, t.enc, fs, sub, imm, y, r, s⟩ = .ok t := by
  simp [Fields.it3264, h]
@[simp] theorem isMax_mk (x : Bool) : Fields.isMax ⟨op, gp, gn, d, a, b, md, fs, BitVec.ofNat 3 x.toNat, imm, y, r, s⟩ = .ok x := by cases x <;> rfl
@[simp] theorem isMax_mk_bitSub (x : Bool) : Fields.isMax ⟨op, gp, gn, d, a, b, md, fs, bitSub x, imm, y, r, s⟩ = .ok x := by cases x <;> rfl
@[simp] theorem ctl_of_fields (h : c.ok = true) : (c.fields n).ctl = c := Machine.ctl_fields h
@[simp] theorem c_mk (o : Opnd) : Fields.c ⟨op, gp, gn, d, a, b, md, fs, sub, immC o, y, r, s⟩ = o := c_immC rfl
theorem modBits_mk (x lo len : Nat) : Fields.modBits ⟨op, gp, gn, d, a, b, BitVec.ofNat 6 x, fs, sub, imm, y, r, s⟩ lo len = x % 64 / 2 ^ lo % 2 ^ len := by
  simp [Fields.modBits, Nat.shiftRight_eq_div_pow]
/-- Three codes of two bits side by side. -/
theorem modBits_three {i j k : Nat} (hi : i < 4) (hj : j < 4) (hk : k < 4) :
    let f : Fields := ⟨op, gp, gn, d, a, b, BitVec.ofNat 6 (i + 4 * j + 16 * k), fs, sub, imm, y, r, s⟩
    f.modBits 0 2 = i ∧ f.modBits 2 2 = j ∧ f.modBits 4 2 = k := by
  simp only [modBits_mk]; omega
@[simp] theorem callShift_mk {x : Nat} (h : x < 30) : Fields.callShift ⟨op, gp, gn, d, a, b, BitVec.ofNat 6 x, fs, sub, imm, y, r, s⟩ = .ok x := by
  simp [Fields.callShift, modBits_mk, Nat.mod_eq_of_lt (show x < 64 by omega), Nat.mod_eq_of_lt (show x < 32 by omega), h]
@[simp] theorem modBit_zero_mk (t : Bool) : Fields.modBit ⟨op, gp, gn, d, a, b, if t = true then 1#6 else 0#6, fs, sub, imm, y, r, s⟩ 0 = t := by
  cases t <;> simp [Fields.modBit]
@[simp] theorem modBit_five_mk (t : Bool) : Fields.modBit ⟨op, gp, gn, d, a, b, BitVec.ofNat 6 (if t = true then 32 else 0), fs, sub, imm, y, r, s⟩ 5 = t := by
  cases t <;> simp [Fields.modBit]
@[simp] theorem it_mk_sat (t : IType) (x : Bool) : Fields.it ⟨op, gp, gn, d, a, b, BitVec.ofNat 6 (t.code + if x = true then 8 else 0), fs, sub, imm, y, r, s⟩ = t :=
  it_mk_imod ⟨t, x⟩
@[simp] theorem modBit_three_mk (t : IType) (x : Bool) :
    Fields.modBit ⟨op, gp, gn, d, a, b, BitVec.ofNat 6 (t.code + if x = true then 8 else 0), fs, sub, imm, y, r, s⟩ 3 = x :=
  congrArg IMod.sat (imod_mk ⟨t, x⟩)
@[simp] theorem dir_mk_pack (dir : RMode) (x z : Bool) : RMode.ofCode (Fields.modBits ⟨op, gp, gn, d, a, b,
    BitVec.ofNat 6 (dir.code + (if x = true then 4 else 0) + (if z = true then 32 else 0)), fs, sub, imm, y, r, s⟩ 0 2) = dir := by
  rw [modBits_mk]; cases dir <;> cases x <;> cases z <;> rfl
@[simp] theorem modBit_two_mk_pack (dir : RMode) (x z : Bool) : Fields.modBit ⟨op, gp, gn, d, a, b,
    BitVec.ofNat 6 (dir.code + (if x = true then 4 else 0) + (if z = true then 32 else 0)), fs, sub, imm, y, r, s⟩ 2 = x := by
  cases dir <;> cases x <;> cases z <;> simp [Fields.modBit, RMode.code]
@[simp] theorem modBit_five_mk_pack (dir : RMode) (x z : Bool) : Fields.modBit ⟨op, gp, gn, d, a, b,
    BitVec.ofNat 6 (dir.code + (if x = true then 4 else 0) + (if z = true then 32 else 0)), fs, sub, imm, y, r, s⟩ 5 = z := by
  cases dir <;> cases x <;> cases z <;> simp [Fields.modBit, RMode.code]
@[simp] theorem format_mk_sat (k : FF) (x : Bool) :
    FF.ofCode (Fields.modBits ⟨op, gp, gn, d, a, b, BitVec.ofNat 6 (k.code + if x = true then 4 else 0), fs, sub, imm, y, r, s⟩ 0 2) = k := by
  rw [modBits_mk]; cases k <;> cases x <;> rfl
@[simp] theorem modBit_two_mk_sat (k : FF) (x : Bool) :
    Fields.modBit ⟨op, gp, gn, d, a, b, BitVec.ofNat 6 (k.code + if x = true then 4 else 0), fs, sub, imm, y, r, s⟩ 2 = x := by
  cases k <;> cases x <;> simp [Fields.modBit, FF.code]
@[simp] theorem format_mk (k : FF) : FF.ofCode (Fields.modBits ⟨op, gp, gn, d, a, b, BitVec.ofNat 6 k.code, fs, sub, imm, y, r, s⟩ 0 2) = k := by
  rw [modBits_mk]; cases k <;> rfl
/-- Memory modifiers: the low three bits, and the scope above them (R43). -/
theorem modBits_memEnc {x : Nat} (h : x < 8) (sc : Scope) : Fields.modBits ⟨op, gp, gn, d, a, b, memEnc x sc, fs, sub, imm, y, r, s⟩ 0 3 = x := by
  rw [memEnc, modBits_mk]; cases sc <;> simp only [Scope.code] <;> omega
theorem scope_memEnc {x : Nat} (h : x < 8) (sc : Scope) : Fields.scope ⟨op, gp, gn, d, a, b, memEnc x sc, fs, sub, imm, y, r, s⟩ = .ok sc := by
  rw [Fields.scope, memEnc, modBits_mk, show (x + 8 * sc.code) % 64 / 2 ^ 3 % 2 ^ 3 = sc.code by cases sc <;> simp only [Scope.code] <;> omega]
  cases sc <;> rfl
@[simp] theorem scope_mk (sc : Scope) : Fields.scope ⟨op, gp, gn, d, a, b, memEnc 0 sc, fs, sub, imm, y, r, s⟩ = .ok sc := scope_memEnc (by decide) sc
@[simp] theorem scope_mk_size (sz : ASize) (sc : Scope) : Fields.scope ⟨op, gp, gn, d, a, b, memEnc sz.code sc, fs, sub, imm, y, r, s⟩ = .ok sc :=
  scope_memEnc (by cases sz <;> decide) sc
@[simp] theorem scope_mk_type (t : IType) (sc : Scope) : Fields.scope ⟨op, gp, gn, d, a, b, memEnc t.code sc, fs, sub, imm, y, r, s⟩ = .ok sc :=
  scope_memEnc (by cases t <;> decide) sc
@[simp] theorem scope_mk_wide (w : Bool) (sc : Scope) : Fields.scope ⟨op, gp, gn, d, a, b, memEnc (if w = true then 3 else 2) sc, fs, sub, imm, y, r, s⟩ = .ok sc :=
  scope_memEnc (by cases w <;> decide) sc
@[simp] theorem size_mk (sz : ASize) (sc : Scope) : ASize.ofCode (Fields.modBits ⟨op, gp, gn, d, a, b, memEnc sz.code sc, fs, sub, imm, y, r, s⟩ 0 3) = .ok sz := by
  rw [modBits_memEnc (by cases sz <;> decide)]; cases sz <;> rfl
@[simp] theorem size_mk_plain (sz : ASize) : ASize.ofCode (Fields.modBits ⟨op, gp, gn, d, a, b, BitVec.ofNat 6 sz.code, fs, sub, imm, y, r, s⟩ 0 3) = .ok sz := by
  rw [modBits_mk]; cases sz <;> rfl
@[simp] theorem storeSize_mk {sz : ASize} (h : sz.storable = true) (sc : Scope) :
    Fields.storeSize ⟨op, gp, gn, d, a, b, memEnc sz.code sc, fs, sub, imm, y, r, s⟩ = .ok sz := by
  simp [Fields.storeSize, h]
@[simp] theorem storeSize_mk_plain {sz : ASize} (h : sz.storable = true) :
    Fields.storeSize ⟨op, gp, gn, d, a, b, BitVec.ofNat 6 sz.code, fs, sub, imm, y, r, s⟩ = .ok sz := by
  simp [Fields.storeSize, h]
@[simp] theorem wide_mk_mem (w : Bool) (sc : Scope) : Fields.wide ⟨op, gp, gn, d, a, b, memEnc (if w = true then 3 else 2) sc, fs, sub, imm, y, r, s⟩ = .ok w := by
  rw [Fields.wide, modBits_memEnc (by cases w <;> decide)]; cases w <;> rfl
@[simp] theorem it_mk_mem (t : IType) (sc : Scope) : Fields.it ⟨op, gp, gn, d, a, b, memEnc t.code sc, fs, sub, imm, y, r, s⟩ = t := by
  rw [Fields.it, modBits_memEnc (by cases t <;> decide)]; cases t <;> rfl
@[simp] theorem cpSub_mk (cp : CPol) : Fields.cpSub ⟨op, gp, gn, d, a, b, md, fs, BitVec.ofNat 3 cp.code, imm, y, r, s⟩ = cp := by cases cp <;> rfl
@[simp] theorem cpSub_mk_store (cp : CPol) (v : Bool) : Fields.cpSub ⟨op, gp, gn, d, a, b, md, fs, BitVec.ofNat 3 (cp.code + if v = true then 4 else 0), imm, y, r, s⟩ = cp := by
  cases cp <;> cases v <;> simp [Fields.cpSub, CPol.code, CPol.ofCode]
@[simp] theorem getElem_two_store (cp : CPol) (v : Bool) : (BitVec.ofNat 3 (cp.code + if v = true then 4 else 0))[2] = v := by cases cp <;> cases v <;> rfl
@[simp] theorem getElem_zero_toNat (x : Bool) : (BitVec.ofNat 3 x.toNat)[0] = x := by cases x <;> rfl
@[simp] theorem cpMod_mk (cp : CPol) : Fields.cpMod ⟨op, gp, gn, d, a, b, BitVec.ofNat 6 cp.code, fs, sub, imm, y, r, s⟩ = cp := by
  rw [Fields.cpMod, modBits_mk]; cases cp <;> rfl
@[simp] theorem ad_mk {ad : Option AdRef} (h : adOk ad = true) : Fields.ad ⟨op, gp, gn, d, a, b, md, fs, bitSub ad.isSome, adImm ad, y, r, s⟩ = .ok ad := by
  cases ad with
  | none => rfl
  | some x =>
    obtain ⟨reg, layer⟩ := x
    simp only [adOk, Bool.and_eq_true, decide_eq_true_eq] at h
    have hc : Fields.c ⟨op, gp, gn, d, a, b, md, fs, bitSub true, adImm (some ⟨reg, layer⟩), y, r, s⟩ = encV reg := by
      simp only [Fields.c, adImm, encV, Opnd.mk.injEq]
      constructor
      all_goals
        change BitVec.extractLsb' (n := 14+8+2+8) _ _ _ = _
        simp (disch := decide) only [BitVec.extractLsb'_append_eq_of_le, BitVec.extractLsb'_append_eq_of_add_le, BitVec.extractLsb'_eq_self,
          Nat.reduceSub, -Nat.reduceAdd]
    have hl : (adImm (some ⟨reg, layer⟩)).extractLsb' 10 8 = BitVec.ofNat 8 layer := by
      change BitVec.extractLsb' (n := 14+8+2+8) 10 8 (0#14 ++ BitVec.ofNat 8 layer ++ 0#2 ++ BitVec.ofNat 8 reg) = _
      simp (disch := decide) only [BitVec.extractLsb'_append_eq_of_le, BitVec.extractLsb'_append_eq_of_add_le, BitVec.extractLsb'_eq_self,
        Nat.reduceSub, -Nat.reduceAdd]
    simp only [Fields.ad, Option.isSome_some, hc, hl, BitVec.toNat_ofNat, Nat.mod_eq_of_lt h.2]
    simp [bitSub, vOk, Nat.mod_one, show reg + 1 ≤ 256 by omega, vreg_encV]
end


@[simp] theorem RMode.ofCode_code (x : RMode) : RMode.ofCode x.code = x := by cases x <;> rfl
@[simp] theorem FF.ofCode_code (x : FF) : FF.ofCode x.code = x := by cases x <;> rfl
@[simp] theorem IWid.ofCode_code (x : IWid) : IWid.ofCode x.code = x := by cases x <;> rfl
@[simp] theorem IType.ofCode_code (x : IType) : IType.ofCode (x.code % 8) = x := by cases x <;> rfl
theorem RMode.code_lt (x : RMode) : x.code < 4 := by cases x <;> decide
theorem FF.code_lt (x : FF) : x.code < 4 := by cases x <;> decide
theorem IWid.code_lt (x : IWid) : x.code < 4 := by cases x <;> decide
theorem extract_low_setWidth (x : BitVec 16) : (x.setWidth 32).extractLsb' 0 16 = x := by
  apply BitVec.eq_of_toNat_eq
  simp only [BitVec.extractLsb'_toNat, BitVec.toNat_setWidth, Nat.shiftRight_zero]
  omega
theorem toNat_extract_ofNat {n x : Nat} (hn : n ≤ 32) (h : x < 2 ^ n) : ((BitVec.ofNat 32 x).extractLsb' 0 n).toNat = x := by
  have : 2 ^ n ≤ 2 ^ 32 := Nat.pow_le_pow_right (by decide) hn
  simp [BitVec.extractLsb'_toNat, Nat.mod_eq_of_lt (show x < 4294967296 by omega), Nat.mod_eq_of_lt h]
theorem tlut_table (t : BitVec 8) : (0#1 ++ t.extractLsb' 6 2 : BitVec 3).extractLsb' 0 2 ++ t.extractLsb' 0 6 = t := by
  decide +revert

/-- The number of a special register and, above it, an immediate of 24 bits (R45). -/
theorem extract_number {w : Word} {x : Nat} (h : x < 256) : ((w.extractLsb' 0 24 ++ BitVec.ofNat 8 x : BitVec 32).extractLsb' 0 8).toNat = x := by
  rw [BitVec.extractLsb'_append_eq_right, BitVec.toNat_ofNat, Nat.mod_eq_of_lt h]
theorem shift_number {w : Word} (h : w.toNat < 16777216) (v : BitVec 8) : (w.extractLsb' 0 24 ++ v : BitVec 32) >>> 8 = w := by
  apply BitVec.eq_of_toNat_eq
  have e : (w.extractLsb' 0 24 ++ v : BitVec 32).toNat = w.toNat * 256 + v.toNat := by
    have t := BitVec.toNat_append (w.extractLsb' 0 24) v
    rw [← Nat.shiftLeft_add_eq_or_of_lt v.isLt, Nat.shiftLeft_eq, BitVec.extractLsb'_toNat, Nat.shiftRight_zero, Nat.mod_eq_of_lt h] at t
    exact t
  have := v.isLt
  rw [BitVec.toNat_ushiftRight, Nat.shiftRight_eq_div_pow, e]
  omega

/-! Headers (R34 Table 3). -/

theorem encodeHeader_fields (h : Header) :
    (encodeHeader h).extractLsb' 0 8 = 0#8 ∧ (encodeHeader h).extractLsb' 8 4 = BitVec.ofNat 4 h.len ∧ (encodeHeader h).extractLsb' 12 12 = h.wait ∧
    (encodeHeader h).extractLsb' 24 1 = BitVec.ofBool h.set1.isSome ∧ (encodeHeader h).extractLsb' 25 4 = BitVec.ofNat 4 (h.set1.getD 0) ∧
    (encodeHeader h).extractLsb' 29 1 = BitVec.ofBool h.set2.isSome ∧ (encodeHeader h).extractLsb' 30 4 = BitVec.ofNat 4 (h.set2.getD 0) ∧
    (encodeHeader h).extractLsb' 34 1 = BitVec.ofBool h.yieldHint := by
  simp only [encodeHeader]
  refine ⟨?_, ?_, ?_, ?_, ?_, ?_, ?_, ?_⟩
  all_goals
    change BitVec.extractLsb' (n := 61+1+4+1+4+1+12+4+8) _ _ _ = _
    simp (disch := decide) only [BitVec.extractLsb'_append_eq_of_le, BitVec.extractLsb'_append_eq_of_add_le, BitVec.extractLsb'_eq_self,
      Nat.reduceSub, -Nat.reduceAdd]

theorem getLsbD_of_extract {w : IWord} {i : Nat} {b : Bool} (h : w.extractLsb' i 1 = BitVec.ofBool b) : w.getLsbD i = b := by
  have e := congrArg (fun v => v.getLsbD 0) h
  simpa using e

theorem decodeHeader_encodeHeader {h : Header} (ok : h.ok = true) : decodeHeader (encodeHeader h) = .ok h := by
  obtain ⟨-, len, wait, v1, f1, v2, f2, hint⟩ := encodeHeader_fields h
  simp only [decodeHeader, len, wait, f1, f2, getLsbD_of_extract v1, getLsbD_of_extract v2, getLsbD_of_extract hint]
  obtain ⟨n, m, set1, set2, y⟩ := h
  simp only [Header.ok, Bool.and_eq_true, decide_eq_true_eq] at ok
  obtain ⟨⟨⟨h1, h8⟩, s1⟩, s2⟩ := ok
  have flag {s : Option Nat} (hs : (match s with | some f => decide (f < 12) | none => true) = true) : s.getD 0 < 12 := by
    cases s with
    | none => decide
    | some f => simpa using hs
  have back (s : Option Nat) : (if s.isSome = true then some (s.getD 0) else none) = s := by cases s <;> rfl
  simp [Nat.mod_eq_of_lt (show n < 16 by omega), h1, h8, Nat.mod_eq_of_lt (show set1.getD 0 < 16 by have := flag s1; omega),
    Nat.mod_eq_of_lt (show set2.getD 0 < 16 by have := flag s2; omega), flag s1, flag s2, back]

/-! Every instruction of the code. -/

/-- The encoder gives the instruction fields, and the decoder reads the instruction from them. -/
def FieldsReadBack (i : Instr) : Prop := ∃ f, encodeFields i = some f ∧ decodeFields f = .ok i

/-- One case per row of 02 Table 6, by the shape of its operands where that says it all, else by the part of the opcode map it stands in. -/
theorem fieldsReadBack (i : Instr) (h : i.wf = true) (code : i.isCode = true) (word : ∀ h, i ≠ .clauseIssue h) : FieldsReadBack i := by
  cases i
  all_goals try contradiction
  case' pcon f _ => cases f
  case' lgrp f _ _ => cases f
  case' pmov f => cases f
  case nop => exact ⟨_, rfl, rfl⟩
  case clauseIssue h => exact absurd rfl (word _)
  all_goals refine ⟨_, rfl, ?_⟩
  -- D, A, B
  case add | sub | mul | mulh | div | rem | min | max | shl | shr | sar | rot | and | or | xor | lperm | xchg | fadd | fmul | fmnx | fscl | dadd | dmul | dmnx
      | dscl | hadd | hmul | hmnx | hscl | pack =>
    simp [decodeFields, decodeInteger, decodeLane, decodeFloat, decodeConvert, enc2, dec2_enc h, ok2_ctl h]
  -- D, A
  case abs | neg | clz | popc | brev | mov | idx | not | frnd | drnd | hrnd | unpk | cvts | rcp | rsq | sqrt | ex2 | lg2 | sin | cos | tanh =>
    simp [decodeFields, decodeInteger, decodeLane, decodeFloat, decodeConvert, enc1, dec1_enc h, ok1_ctl h]
  case cvt dir dst src | cvtf dir dst src _ =>
    simp [decodeFields, decodeConvert, enc1, dec1_enc h, ok1_ctl h, modBits_three dir.code_lt dst.code_lt src.code_lt]
  case cvti dir src dst _ =>
    simp [decodeFields, decodeConvert, enc1, dec1_enc h, ok1_ctl h, modBits_three dir.code_lt src.code_lt dst.code_lt]
  -- D, A, B, C
  case mad | sad | tlut | bpick | ffma | dfma | hfma =>
    simp [decodeFields, decodeInteger, decodeLane, decodeFloat, enc3, dec3_enc h, ok3_ctl h, tlut_table]
  -- D, A, B, C p
  case addc | subc =>
    simp [decodeFields, decodeInteger, enc3, dec2p_enc h, ok2p_ctl h]
  -- D p, A, B
  case cmp | fcmp | fcls | dcmp | dcls | hcmp | hcls =>
    simp [decodeFields, decodeInteger, decodeFloat, encP, decP_enc h, okP_ctl h]
  all_goals simp only [Instr.wf, pOk, Bool.and_eq_true, decide_eq_true_eq] at h
  -- the same shapes, of fewer types or with a number in its range
  case bfx => simp [decodeFields, decodeLane, enc2, dec2_enc h.2, ok2_ctl h.2, h.1]
  case lea sg sh => cases sg <;> simp [decodeFields, decodeInteger, enc2, dec2_enc h.2, ok2_ctl h.2, modBits_mk] <;> omega
  case cvtn | cvtw => simp [decodeFields, decodeConvert, enc1, dec1_enc h.2, ok1_ctl h.2, Nat.mod_eq_of_lt h.1.1, Nat.mod_eq_of_lt h.1.2]
  case madw | bfi => simp [decodeFields, decodeInteger, decodeLane, enc3, dec3_enc h.2, ok3_ctl h.2, h.1]
  case sel => simp [decodeFields, decodeInteger, enc3, dec2p_enc h.2, ok2p_ctl h.2, h.1]
  -- 0x01 to 0x0F
  case bra | brx | setj | join | call | callx | ret | exit | yield | sleep | rte | kill => simp [decodeFields, decodeControl, encI, h]
  case trap | brk => simp [decodeFields, decodeControl, encI, h, extract_low_setWidth]
  case stitch d a t => simp [decodeFields, decodeControl, h, encV, Nat.mod_eq_of_lt (show a < 256 by omega)]
  -- 0x10 to 0x3B
  case movk | pcon.all | pcon.any | pcon.same | pcon.ballot | pcon.count | lgrp.set | lgrp.same | kred | pset | pmov.pv | pmov.vp | pmov.pack | pmov.unpk
      | lanemask =>
    simp [decodeFields, decodeInteger, decodeLane, h]
  -- 0x64 to 0x73
  case ld | st | ldb | stb | ldk | stk | ldw | atom | atomc | fence | pref | seqr => simp [decodeFields, decodeMemory, h]
  case ldp p | stp p => simp [decodeFields, decodeMemory, h, Nat.mod_eq_of_lt h.2, Nat.mod_eq_of_lt (show p < 8 by omega)]
  case cflush a _ _ | cinv a _ _ => cases a <;> simp [decodeFields, decodeMemory, h, Fields.lineOrAll, bitSub]
  -- 0x74 to 0x81
  case tload | tstore | tgather | tscat | tfill | coll | trel | ppush | ppop | pstat | pclose | preopen | pwait => simp [decodeFields, decodeTile, h]
  case tpeer p => simp [decodeFields, decodeTile, h, Nat.mod_eq_of_lt h.2, Nat.mod_eq_of_lt (show p < 8 by omega)]
  -- 0x82 to 0x8F
  case mma | accz | accl | barInit | barArrive | barWait | baste | hem | grow | shrink => simp [decodeFields, decodeMatrix, encI, h]
  case mmac fs _ _ => simp [decodeFields, decodeMatrix, h, Nat.mod_eq_of_lt h.1.2]
  case accd fs => simp [decodeFields, decodeMatrix, h, Nat.mod_eq_of_lt h.2]
  case adpf a b _ =>
    obtain ⟨⟨⟨hg, ha⟩, hb⟩, one⟩ := h
    simp [decodeFields, decodeMatrix, hg, src_immOf_left (b := b) ha, src_immOf_right hb one, one]
  case waitc a m => simp [decodeFields, decodeMatrix, h, toNat_extract_ofNat (n := 6) (by decide) h.2]
  case sread d r => simp [decodeFields, decodeMatrix, h, toNat_extract_ofNat (n := 8) (by decide) (show r < 2 ^ 8 by omega)]
  case swrite a r =>
    obtain ⟨⟨⟨hg, hr⟩, ha⟩, hi⟩ := h
    cases a with
    | imm w =>
      simp only [decide_eq_true_eq] at hi
      simp [decodeFields, decodeMatrix, hg, hr, extract_number (show r < 256 by omega), Fields.src, Src.enc, shift_number hi]
    | v _ | k _ => simp [decodeFields, decodeMatrix, hg, hr, toNat_extract_ofNat (n := 8) (by decide) (show r < 2 ^ 8 by omega), src_enc ha]

theorem encode_of_not_header {i : Instr} (h : ∀ x, i ≠ .clauseIssue x) : encode i = (encodeFields i).map Fields.toWord := by
  unfold encode
  split
  · exact absurd rfl (h _)
  · rfl

theorem decodeWord_encodeHeader {h : Header} (ok : h.ok = true) : decodeWord (encodeHeader h) = .ok (.clauseIssue h) := by
  rw [decodeWord, if_pos (encodeHeader_fields h).1, decodeHeader_encodeHeader ok]
  rfl

/-- Settles O58: the fields of a word survive their places in it, each operand, modifier and sub-operation survives its field, and a header, which
has a layout of its own, survives its. -/
theorem encodeThenDecode : Obligations.EncodeThenDecode := by
  unfold Obligations.EncodeThenDecode
  intro i wf
  constructor
  · intro code
    by_cases header : ∃ h, i = .clauseIssue h
    · obtain ⟨h, rfl⟩ := header
      exact ⟨_, rfl, decodeWord_encodeHeader wf⟩
    · have word : ∀ h, i ≠ .clauseIssue h := fun h e => header ⟨h, e⟩
      obtain ⟨f, enc, dec⟩ := fieldsReadBack i wf code word
      exact ⟨f.toWord, by rw [encode_of_not_header word, enc]; rfl, decodeWord_toWord dec⟩
  · intro event
    rw [encode_of_not_header (by rintro h rfl; cases event), Machine.encodeFields_event i event]
    rfl

end Sys2Proof
end

section
/-! PROOFS. The words that the spec prints, and the opcodes above the table (O57). -/

namespace Sys2Proof

/-- The major opcode of a word is its lowest byte (R27). -/
theorem opcode_ofNat (r n : Nat) : (BitVec.ofNat 96 (256 * r + n)).extractLsb' 0 8 = BitVec.ofNat 8 n := by
  apply BitVec.eq_of_toNat_eq
  simp only [BitVec.extractLsb'_toNat, BitVec.toNat_ofNat, Nat.shiftRight_zero]
  omega

/-- R41: the hint region. -/
theorem decodeFields_hint {f : Fields} (h : 0xF0 ≤ f.op.toNat) : decodeFields f = .ok .nop := by
  have above (m : Nat) (hm : m ≤ 0xF0) : ¬ f.op.toNat < m := by omega
  simp [decodeFields, above]

/-- R42: the reserved opcodes. -/
theorem decodeFields_reserved {f : Fields} (h : 0x90 ≤ f.op.toNat) (h' : f.op.toNat < 0xF0) : decodeFields f = .error .reservedOpcode := by
  have above (m : Nat) (hm : m ≤ 0x90) : ¬ f.op.toNat < m := by omega
  simp [decodeFields, above, h']

/-- A word whose opcode is not that of a header is decoded by its fields. -/
theorem decodeWord_ofNat (r : Nat) {n : Nat} (h : 0 < n) (h' : n < 256) :
    ∃ f : Fields, f.op.toNat = n ∧ decodeWord (BitVec.ofNat 96 (256 * r + n)) = decodeFields f := by
  have op := opcode_ofNat r n
  have val : (BitVec.ofNat 8 n).toNat = n := by rw [BitVec.toNat_ofNat]; omega
  refine ⟨Fields.ofWord (BitVec.ofNat 96 (256 * r + n)), (congrArg BitVec.toNat op).trans val, ?_⟩
  rw [decodeWord, op, if_neg]
  intro zero
  rw [zero] at val
  simp at val
  omega

/-- Settles O57: each printed word is decoded, and above the table the opcode alone decides. -/
theorem decodeWords : Obligations.DecodeWords := by
  unfold Obligations.DecodeWords
  refine ⟨by decide, by decide, by decide, by decide, by decide, by decide, by decide, by decide, by decide, by decide, by decide, by decide, by decide,
    by decide, by decide, by decide, fun n r h => ?_, fun n r h h' => ?_⟩
  · obtain ⟨f, op, eq⟩ := decodeWord_ofNat r (n := 0xF0 + n) (by omega) (by omega)
    rw [Nat.add_assoc, eq, decodeFields_hint (by omega)]
  · obtain ⟨f, op, eq⟩ := decodeWord_ofNat r (n := n) (by omega) (by omega)
    rw [eq, decodeFields_reserved (by omega) (by omega)]

end Sys2Proof
end

section
/-! PROOFS. NOP, YIELD, SLEEP and SLEEP_EXPIRY (O18). -/

namespace Sys2Proof.Machine

theorem exec_nop {s : State} {x : Ctx} (h : ctxOf s = some x) : exec .nop s = .next (retire x s) := by
  show execNop s = _
  simp [execNop, h]

theorem pathOf_setSkein_self (s : State) (core slot p : Nat) (sk : Skein) : pathOf (setSkein s core slot sk) core slot p = NMap.get? sk.paths p := by
  simp [pathOf]

/-- SLEEP_EXPIRY touches the one path it names, and ends its sleep where the count has run out. -/
theorem sleepExpiry_wakes {s : State} {core slot path t : Nat} {sk : Skein} {pa : Path} (hs : skeinOf s core slot = some sk)
    (hp : NMap.get? sk.paths path = some pa) (ht : pa.sleep = some t) :
    ∃ u, exec (.sleepExpiry core slot path) s = .next u ∧
      pathOf u core slot path = some { pa with sleep := if t ≤ (coreOf s core).phase then none else some t } ∧
      (∀ p, p ≠ path → pathOf u core slot p = pathOf s core slot p) ∧ ∃ ps, u = setSkein s core slot { sk with paths := ps } := by
  have runs (f : Path → Path) : updPath s core slot path f = setSkein s core slot (updPathSk sk path f) := updSkein_of s _ hs
  refine ⟨_, rfl, ?_⟩
  simp only [runs]
  refine ⟨?_, fun p hne => ?_, _, rfl⟩
  · rw [pathOf_setSkein_self, updPathSk_paths, get?_nupdate_self, hp, Option.map_some]
    by_cases due : t ≤ (coreOf s core).phase
    · simp [ht, due]
    · simp only [ht, due, if_false]
      rw [← ht]
  · rw [pathOf_setSkein_self, updPathSk_paths, get?_nupdate_ne _ _ hne]
    simp [pathOf, hs]

/-- Settles O18: each of the three words has its effect once it passes the issue check; SLEEP with a count of zero is YIELD. -/
theorem scheduling : Obligations.Scheduling := by
  unfold Obligations.Scheduling
  intro c a s x y n
  refine ⟨exec_nop, fun h => ?_, fun h => ?_, fun core slot path sk pa t hs hp ht => sleepExpiry_wakes hs hp ht⟩
  · unfold exec execYield
    exact issue_ready h rfl
  have runs : exec (.sleep c a) s = .next (onPath y (fun pa => if n = 0 then { pa with yielded := true }
      else { pa with sleep := some ((coreOf s x.core).phase + 144 * n) }) (retire y s)) := by
    unfold exec execSleep
    exact issue_ready h rfl
  constructor
  · intro zero
    simpa [zero] using runs
  · intro count
    simpa [count] using runs

end Sys2Proof.Machine
end

section
/-! PROOFS. A clause is fetched, checked, held or kept waiting (O19). -/

namespace Sys2Proof.Machine

/-! Code bytes at hand: the fetch reads them line by line, and changes nothing. -/

/-- Two addresses of one line that whole pages cover alike find the same translation. -/
theorem tlbFind_same_line {l : List TlbEntry} (h : PagesAligned l) (ctx : Nat) {va i : Nat} (hi : va % 128 + i < 128) :
    tlbFind l ctx (va + i) = tlbFind l ctx va := by
  unfold tlbFind
  induction l with
  | nil => rfl
  | cons e r ih =>
    obtain ⟨base, size, -⟩ := h e List.mem_cons_self
    have covers : (e.ctx = ctx ∧ e.va ≤ va + i ∧ va + i < e.va + e.size) ↔ (e.ctx = ctx ∧ e.va ≤ va ∧ va < e.va + e.size) := by omega
    simp only [List.find?_cons, covers, ih fun x hx => h x (List.mem_cons_of_mem _ hx)]

theorem tlbFind_mem {l : List TlbEntry} {ctx va : Nat} {p : TlbEntry} (h : tlbFind l ctx va = some p) : p ∈ l ∧ p.va ≤ va := by
  have covers := List.find?_some h
  simp only [decide_eq_true_eq] at covers
  exact ⟨List.mem_of_find?_eq_some h, covers.2.1⟩

/-- A granted access is at the page's base and the offset in the page. -/
theorem tlbAccess_ok {p : TlbEntry} {va : Nat} {k : WalkKind} {X : Xl} (h : tlbAccess p va k = .ok X) : X = ⟨p.pa + (va - p.va), p.type⟩ := by
  unfold tlbAccess at h
  split at h
  · cases h
  · split at h
    · cases h
    · split at h
      · cases h
      · exact (Except.ok.inj h).symm

/-- A fetch whose translation the core's translation cache holds is translated at once. -/
theorem access_fetch {s : State} {a : Agent} {core die owner ctx va : Nat} {p : TlbEntry} {X : Xl} (hc : canonical va = true)
    (hp : tlbFind (coreOf s core).tlb ctx (va57 va) = some p) (hX : tlbAccess p (va57 va) .fetch = .ok X) (hu : useCheck s die X .fetch = .ok X) :
    access s a (some core) die owner ctx va .fetch .fetch = (some (.ok X), s) := by
  have found : tlbFind (NMap.getD s.cores core {}).tlb ctx (va57 va) = some p := hp
  have tr : translate s a (some core) die owner ctx (va57 va) .fetch = (some (.ok X), s) := by
    simp [translate, tlbResult, tlbLook, tlbUse, found, hX]
  simp [access, hc, tr, hu]

/-- The first line of the bytes at hand: its translation, its data, and the bytes in it. -/
theorem fetched_line {x : Ctx} {s : State} {a n : Nat} {bs : List Byte} (ha : a < 2 ^ 64) (hn : 0 < n) (h : Fetched x s a n bs) :
    ∃ X ln, (∀ ag owner, access s ag (some x.core) (dieOf x.core) owner (x.launch s).ctx a .fetch .fetch = (some (.ok X), s)) ∧
      s.lines.find? (fun l => decide (l.agent = .fetch x.core x.slot x.path) && decide (l.line = X.pa / 128)) = some ln ∧
      bs.take (min n (128 - a % 128)) = lineBytes ln.data (X.pa % 128) (min n (128 - a % 128)) := by
  obtain ⟨len, aligned, bytes⟩ := h
  obtain ⟨hc, p, X, ln, hp, hX, hu, hl, -⟩ := bytes 0 hn
  rw [Nat.add_zero, Nat.mod_eq_of_lt ha] at hc hp hX
  refine ⟨X, ln, fun ag owner => access_fetch hc hp hX hu, hl, ?_⟩
  obtain ⟨mem, le⟩ := tlbFind_mem hp
  obtain ⟨base, -, page⟩ := aligned p mem
  have eX := tlbAccess_ok hX
  apply List.ext_getElem?
  intro i
  by_cases hi : i < min n (128 - a % 128)
  · obtain ⟨-, p', X', ln', hp', hX', -, hl', hb'⟩ := bytes i (by omega)
    have va : va57 ((a + i) % 2 ^ 64) = va57 a + i := by simp only [va57] at *; omega
    rw [va, tlbFind_same_line aligned _ (by simp only [va57]; omega), hp] at hp'
    obtain rfl := Option.some.inj hp'
    have eX' := tlbAccess_ok hX'
    have line : X'.pa / 128 = X.pa / 128 ∧ X'.pa % 128 = X.pa % 128 + i := by
      rw [eX, eX']
      simp only [va57] at *
      omega
    rw [line.1, hl] at hl'
    obtain rfl := Option.some.inj hl'
    rw [List.getElem?_take_of_lt hi, hb', line.2]
    simp [lineBytes, hi]
  · rw [List.getElem?_take_eq_none (by omega)]
    simp [lineBytes]
    omega

theorem fetched_drop {x : Ctx} {s : State} {a n m : Nat} {bs : List Byte} (hm : m ≤ n) (h : Fetched x s a n bs) :
    Fetched x s ((a + m) % 2 ^ 64) (n - m) (bs.drop m) := by
  obtain ⟨len, aligned, bytes⟩ := h
  refine ⟨by simp [len], aligned, fun j hj => ?_⟩
  have at' : ((a + m) % 2 ^ 64 + j) % 2 ^ 64 = (a + (m + j)) % 2 ^ 64 := by omega
  rw [at', List.getElem?_drop]
  exact bytes (m + j) (by omega)

/-- The fetch of bytes at hand gives them: by induction on the lines that they touch. -/
theorem fetchBytes_of_fetched {x : Ctx} {s : State} (k : Nat) : ∀ {a n : Nat} {bs : List Byte}, a < 2 ^ 64 → n = 0 ∨ a % 128 + n ≤ 128 * k → Fetched x s a n bs →
    fetchBytes s x.core x.slot x.path (x.launch s).ctx a n k = (some (.ok bs), s) := by
  induction k with
  | zero =>
    intro a n bs _ hk h
    rw [List.eq_nil_of_length_eq_zero (show bs.length = 0 by rw [h.1]; omega), fetchBytes]
  | succ k ih =>
    intro a n bs ha hk h
    rw [fetchBytes]
    split
    · rename_i zero
      rw [List.eq_nil_of_length_eq_zero (show bs.length = 0 by rw [h.1, zero])]
    · rename_i pos
      obtain ⟨X, ln, acc, found, taken⟩ := fetched_line ha (Nat.pos_of_ne_zero pos) h
      have more : n - min n (128 - a % 128) = 0 ∨ (a + min n (128 - a % 128)) % 2 ^ 64 % 128 + (n - min n (128 - a % 128)) ≤ 128 * k := by omega
      have rest := ih (Nat.mod_lt _ (by decide)) more (fetched_drop (Nat.min_le_left n (128 - a % 128)) h)
      simp only [acc, lineGet, found, rest, ← taken, List.take_append_drop]

/-! The checks of a clause (R35), and its wait (R36). -/

theorem length_wordsOf (n : Nat) (bs : List Byte) : (wordsOf n bs).length = n := by simp [wordsOf]

theorem isLast_zero (w : IWord) (r : List IWord) : decide (0 + 1 = (w :: r).length) = r.isEmpty := by cases r <;> simp

theorem firstBad_eq_none {ws : List IWord} : ∀ (k : Nat), (∀ j w, ws[j]? = some w → wordOk w (decide (j + 1 = ws.length)) = true) → firstBad ws k = none := by
  induction ws with
  | nil => exact fun _ _ => rfl
  | cons w r ih =>
    intro k ok
    have here : wordOk w r.isEmpty = true := isLast_zero w r ▸ ok 0 w rfl
    rw [firstBad, if_pos here]
    exact ih _ fun j v hj => by simpa using ok (j + 1) v hj

theorem firstBad_eq_some {ws : List IWord} : ∀ {i : Nat} (k : Nat), (∃ w, ws[i]? = some w ∧ wordOk w (decide (i + 1 = ws.length)) = false) →
    (∀ j w, j < i → ws[j]? = some w → wordOk w (decide (j + 1 = ws.length)) = true) → firstBad ws k = some (k + i) := by
  induction ws with
  | nil => rintro i k ⟨w, hw, -⟩; simp at hw
  | cons v r ih =>
    intro i k bad ok
    cases i with
    | zero =>
      obtain ⟨w, hw, hb⟩ := bad
      obtain rfl := Option.some.inj hw
      have here : wordOk v r.isEmpty = false := isLast_zero v r ▸ hb
      simp [firstBad, here]
    | succ i =>
      have here : wordOk v r.isEmpty = true := isLast_zero v r ▸ ok 0 v (by omega) rfl
      rw [firstBad, if_pos here, ih (i := i) (k + 1) (by simpa using bad) fun j w hj hw => by simpa using ok (j + 1) w (by omega) hw]
      congr 1
      omega

theorem waitMet_iff (pa : Path) (m : BitVec 12) : waitMet pa m = true ↔ ∀ f o, (f, o) ∈ pa.flagOps → f < 12 → m.getLsbD f = false := by
  simp only [waitMet, flagPending, List.all_eq_true, List.mem_range, Bool.or_eq_true, Bool.not_eq_true', List.any_eq_false, decide_eq_true_eq]
  constructor
  · intro h f o mem lt
    rcases h f lt with clear | idle
    · exact clear
    · exact absurd rfl (idle (f, o) mem)
  · intro h f lt
    cases set : m.getLsbD f with
    | false => exact .inl rfl
    | true => exact .inr fun e mem eq => by simpa [set] using h f e.2 (eq ▸ mem) lt

/-- Settles O19: the bytes at hand are the words of the clause; their checks come first, then the wait. -/
theorem clauseIssue : Obligations.ClauseIssue := by
  unfold Obligations.ClauseIssue
  intro h bs s x hx len at_hand ws u
  have fetch := fetchBytes_of_fetched (a := codeAddr (x.launch s) (x.pa.pc + 1)) 4 (Nat.mod_lt _ (by decide)) (by omega) at_hand
  have runs : exec (.clauseIssue h) s = clauseIssueWith stoppedMatrix h s := rfl
  rw [runs]
  simp only [clauseIssueWith, hx, fetch]
  refine ⟨fun k bad ok => ?_, fun ok => ?_⟩
  · have first : firstBad (wordsOf h.len bs) 1 = some (1 + k) := firstBad_eq_some 1 (by simpa only [length_wordsOf] using bad) (by simpa only [length_wordsOf] using ok)
    simp only [first, Nat.add_comm 1 k]
    rfl
  · have first : firstBad (wordsOf h.len bs) 1 = none := firstBad_eq_none 1 (by simpa only [length_wordsOf] using ok)
    simp only [first]
    refine ⟨fun idle => ?_, fun matrix busy => ?_⟩
    · rw [if_pos ((waitMet_iff _ _).2 idle)]
    · obtain ⟨f, o, mem, lt, set⟩ := busy
      have waits : ¬ waitMet x.pa h.wait = true := fun met => by simpa [set] using (waitMet_iff _ _).1 met f o mem lt
      have running : stoppedMatrix x h.wait s = none := by simp [stoppedMatrix, matrix]
      simp only [if_neg waits, running]

end Sys2Proof.Machine
end

section
/-! PROOFS. A counterexample to O20. A path is found by its number, and a change to a path changes every entry of that number. Where two entries bear
one number, the pending group of a branch is pushed twice, so that the stack may pass the 32 entries that the device holds (R340) where O20 counts on
one entry more. Paths have different numbers in every skein that the machine makes, but O20 speaks of every state. -/

namespace Sys2Proof.Machine

/-- Lanes 0 and 1 at PC 0. -/
def pairPath : Path := { pc := 0, mask := 3 }
/-- A skein with 31 stack entries and two paths of one number; p0 holds in lane 0. -/
def twinned : Skein := { bolt := 0, index := 0, paths := [(0, pairPath), (0, pairPath)], stack := List.replicate 31 (.pend 0 1 ⟨0, 8⟩), preds := [(0, 1)] }
/-- Its path 0 has an instruction in hand. -/
def twinnedInHand : State :=
  { State.reset with cores := [(0, { skeins := [(0, twinned)] })], cur := some { core := 0, slot := 0, path := 0, lanes := none } }
def twinnedCtx : Ctx := { core := 0, slot := 0, path := 0, sk := twinned, pa := pairPath, lanes := 3, act := 0, pc := 0, depth := 0 }

/-- The entries and records of the skein in slot 0 of core 0 that lie in its context area, in the state that an instruction answers. -/
def deepAfter : Out → Option (Nat × Nat)
  | .next t => (skeinOf t 0 0).map Skein.deep
  | _ => none

/-- Refutes O20, in its clause on a path of a dual-path skein: BRA by p0 from `twinnedInHand` leaves an entry to spill, and the skein that O20 gives has
none. -/
theorem not_branches : ¬ Obligations.Branches := by
  unfold Obligations.Branches
  intro h
  obtain ⟨bra, -⟩ := h ⟨0, false, false, false, 0⟩ 5 0 twinnedInHand twinnedCtx (by decide +kernel)
  obtain ⟨t, run, -, skein⟩ := bra (by decide +kernel) (by decide +kernel)
  have spills : deepAfter (exec (.bra ⟨0, false, false, false, 0⟩ 5) twinnedInHand) = some (1, 0) := by decide +kernel
  have stays := congrArg (Option.map Skein.deep) skein
  rw [run] at spills
  exact absurd (stays.symm.trans spills) (by decide +kernel)

end Sys2Proof.Machine
end

section
/-! PROOFS. A counterexample to O56. A slot of a quarter first lets the skeins of the quarter make their accesses to control state (`controlTurn`, R340,
R401), and then prepares and chooses among what is left; O56 prepares the state before those accesses. -/

namespace Sys2Proof.Machine

/-- A skein that is to fill a stack entry from its context area before it may issue again (R340). -/
def filling : Skein := { bolt := 1, index := 1, globals := 16, control := [.fill 0 0 0] }
/-- A skein about to issue NOP (R41) in a slot of the first quarter, and `filling` beside it. -/
def besideFilling : State := setSkein (State.reset.withFetchWord 96 0xF0) 0 1 filling
/-- The path that issues. -/
def nopPath : Path := { pc := 0, mask := allLanes, win := ⟨0, 240⟩, clause := some { words := [0xF0], pos := 0, set1 := some 0, set2 := some 1 } }

/-- How many requests are on their way in the state that a step answers. -/
def requestsAfter : Host.Outcome State Fault Refusal → Nat
  | .next t => t.reqs.length
  | _ => 0

/-- Refutes O56, in its clause on the issue slot: from `besideFilling` the step asks for the line that the other skein is to read, and the state
that O56 gives does not. -/
theorem not_stepRunsDecoded : ¬ Obligations.StepRunsDecoded := by
  unfold Obligations.StepRunsDecoded
  intro h
  obtain ⟨slot, -⟩ := h besideFilling []
  obtain ⟨runs, -⟩ := slot 0 0 [(0, 0)] [(0, 0)] 0 0 nopPath { besideFilling with schedule := [] } rfl (by decide +kernel) (by decide +kernel) (by decide +kernel)
  have issued := runs _ 0xF0 none .nop rfl rfl (by decide +kernel)
  have differ : requestsAfter (step besideFilling) = 1 := by decide +kernel
  rw [issued] at differ
  exact absurd differ (by decide +kernel)

end Sys2Proof.Machine
end

section
/-! PROOFS. The grid of a format (R55, R69): the magnitudes that its magnitude codes stand for, their order, and where `gridFloor` finds a magnitude among
them. A magnitude is a real number here, so that the same lemmas serve the exact values of R69 and the results of R75. -/

namespace Sys2Proof.Machine

/-- The magnitude of a magnitude code under `t` trailing bits and least bit 2^q, without an upper bound. -/
noncomputable def gridVal (t : Nat) (q : Int) (c : Nat) : ℝ :=
  if c / 2 ^ t = 0 then c * 2 ^ q else ((2 ^ t + c % 2 ^ t : Nat) : ℝ) * 2 ^ (q + (c / 2 ^ t : Nat) - 1)

/-- A code in terms of the unit 2^u of its binade: the units above the least one, then the multiple of the unit. -/
def unitCode (t : Nat) (q u : Int) (k : Nat) : Nat := (u - q).toNat * 2 ^ t + k

variable {t : Nat} {q : Int}

/-- A multiple of a unit, up to and with the first magnitude of the next binade. -/
theorem gridVal_unitCode {u : Int} {k : Nat} (hq : q ≤ u) (hk : k ≤ 2 ^ (t + 1)) (hu : u = q ∨ 2 ^ t ≤ k) :
    gridVal t q (unitCode t q u k) = k * 2 ^ u := by
  have pos : 0 < 2 ^ t := Nat.two_pow_pos t
  obtain ⟨d, hd⟩ := Int.eq_ofNat_of_zero_le (Int.sub_nonneg.mpr hq)
  obtain rfl : u = q + d := by omega
  have code : unitCode t q (q + d) k = k + 2 ^ t * d := by
    unfold unitCode; rw [hd, Int.toNat_natCast]; ring
  rw [code, gridVal, Nat.add_mul_div_left _ _ pos, Nat.add_mul_mod_self_left]
  rw [pow_succ] at hk
  rcases Nat.lt_or_ge k (2 ^ t) with small | large
  · obtain rfl : d = 0 := by omega
    simp [Nat.div_eq_of_lt small]
  · rcases Nat.lt_or_ge k (2 ^ t * 2) with inside | top
    · have one : k / 2 ^ t = 1 := Nat.div_eq_of_lt_le (by omega) (by omega)
      have rest : 2 ^ t + k % 2 ^ t = k := by have := Nat.div_add_mod k (2 ^ t); rw [one] at this; omega
      rw [one, if_neg (by omega), rest]
      congr 2; push_cast; ring
    · obtain rfl : k = 2 ^ t * 2 := by omega
      rw [Nat.mul_div_cancel_left _ pos, if_neg (by omega), Nat.mul_mod_right]
      have exponent : q + ((2 + d : Nat) : Int) - 1 = q + d + 1 := by push_cast; ring
      rw [exponent, zpow_add_one₀ two_ne_zero]
      push_cast; ring

/-- Every code is a multiple of the unit of its binade. -/
theorem exists_unitCode (t : Nat) (q : Int) (c : Nat) :
    ∃ u k, q ≤ u ∧ k < 2 ^ (t + 1) ∧ (u = q ∨ 2 ^ t ≤ k) ∧ c = unitCode t q u k := by
  have split := Nat.div_add_mod c (2 ^ t)
  have below := Nat.mod_lt c (Nat.two_pow_pos t)
  rw [pow_succ]
  unfold unitCode
  rcases Nat.eq_zero_or_pos (c / 2 ^ t) with zero | above
  · exact ⟨q, c, le_rfl, by rw [zero] at split; omega, .inl rfl, by simp⟩
  · refine ⟨q + (c / 2 ^ t - 1 : Nat), 2 ^ t + c % 2 ^ t, by omega, by omega, .inr (by omega), ?_⟩
    obtain ⟨d, hd⟩ := Nat.exists_eq_succ_of_ne_zero above.ne'
    rw [add_sub_cancel_left, Int.toNat_natCast, hd, Nat.succ_sub_one]
    conv_lhs => rw [← split, hd]
    rw [Nat.succ_eq_add_one]; ring

theorem unitCode_succ (t : Nat) (q u : Int) (k : Nat) : unitCode t q u k + 1 = unitCode t q u (k + 1) := Nat.add_assoc ..

theorem gridVal_lt_succ (c : Nat) : gridVal t q c < gridVal t q (c + 1) := by
  obtain ⟨u, k, hq, hk, hu, rfl⟩ := exists_unitCode t q c
  rw [unitCode_succ, gridVal_unitCode hq hk.le hu, gridVal_unitCode hq hk (by omega)]
  exact mul_lt_mul_of_pos_right (by exact_mod_cast Nat.lt_succ_self k) (by positivity)

theorem gridVal_strictMono : StrictMono (gridVal t q) := strictMono_nat_of_lt_succ gridVal_lt_succ

@[simp] theorem gridVal_zero : gridVal t q 0 = 0 := by simp [gridVal]
theorem gridVal_nonneg (c : Nat) : 0 ≤ gridVal t q c := by
  simpa using (gridVal_strictMono (t := t) (q := q)).monotone (Nat.zero_le c)

/-- Where a magnitude stands: at or above the magnitude of `p.1` and below the next; 0 on it, 2 in the middle between the two, 3 above the middle. -/
structure Places (t : Nat) (q : Int) (x : ℝ) (p : Nat × Nat) : Prop where
  low : gridVal t q p.1 ≤ x
  high : x < gridVal t q (p.1 + 1)
  exact : p.2 = 0 ↔ x = gridVal t q p.1
  middle : p.2 = 2 ↔ 2 * x = gridVal t q p.1 + gridVal t q (p.1 + 1)
  above : p.2 = 3 ↔ gridVal t q p.1 + gridVal t q (p.1 + 1) < 2 * x

/-- The digit that says where a remainder `r` stands under `s`. -/
def placeDigit (r s : Nat) : Nat := if r = 0 then 0 else if 2 * r < s then 1 else if 2 * r = s then 2 else 3

theorem placeDigit_eq_zero {r s : Nat} : placeDigit r s = 0 ↔ r = 0 := by unfold placeDigit; split_ifs <;> simp_all
theorem placeDigit_eq_two {r s : Nat} (h : 0 < s) : placeDigit r s = 2 ↔ 2 * r = s := by unfold placeDigit; split_ifs <;> simp <;> omega
theorem placeDigit_eq_three {r s : Nat} : placeDigit r s = 3 ↔ s < 2 * r := by unfold placeDigit; split_ifs <;> simp <;> omega
theorem placeDigit_small {r s : Nat} (hr : 0 < r) (h : 2 * r < s) : placeDigit r s = 1 := by
  rw [placeDigit, if_neg hr.ne', if_pos h]

/-- A magnitude in units, as a quotient `k` and a remainder `r` under `s`. -/
theorem Places.of_units {u : Int} {k r s : Nat} {x : ℝ} (hq : q ≤ u) (hk : k < 2 ^ (t + 1)) (hu : u = q ∨ 2 ^ t ≤ k) (hr : r < s)
    (hx : s * x = (s * k + r) * 2 ^ u) : Places t q x (unitCode t q u k, placeDigit r s) := by
  have low := gridVal_unitCode hq hk.le hu
  have high := gridVal_unitCode (k := k + 1) hq hk (by omega)
  have pos : (0 : ℝ) < 2 ^ u := by positivity
  have hs : (0 : ℝ) < s := by exact_mod_cast (by omega : 0 < s)
  obtain ⟨y, rfl⟩ : ∃ y, x = y * 2 ^ u := ⟨x / 2 ^ u, by field_simp⟩
  have hy : s * y = s * k + r := mul_right_cancel₀ pos.ne' (by linarith)
  have order (a b : ℝ) : a * 2 ^ u < b * 2 ^ u ↔ s * a < s * b := by
    rw [mul_lt_mul_iff_left₀ pos, mul_lt_mul_iff_right₀ hs]
  have equal (a b : ℝ) : a * 2 ^ u = b * 2 ^ u ↔ s * a = s * b := by
    rw [mul_left_inj' pos.ne', mul_right_inj' hs.ne']
  have two : 2 * (y * 2 ^ u) = (2 * y) * 2 ^ u := by ring
  have sum : (k * 2 ^ u : ℝ) + ((k + 1 : Nat) : ℝ) * 2 ^ u = (2 * k + 1) * 2 ^ u := by push_cast; ring
  have twice : (s : ℝ) * (2 * y) = s * (2 * k) + 2 * r := by linarith
  constructor <;> simp only [unitCode_succ, low, high, two, sum]
  · rw [← not_lt, order, hy, not_lt]; linarith [(Nat.cast_nonneg r : (0 : ℝ) ≤ r)]
  · rw [order, hy]; push_cast; rw [mul_add, mul_one]
    have : (r : ℝ) < s := by exact_mod_cast hr
    linarith
  · rw [equal, hy, add_eq_left, Nat.cast_eq_zero, placeDigit_eq_zero]
  · have cast : (s : ℝ) * (2 * y) = s * (2 * k + 1) ↔ 2 * r = s := by
      rw [twice, mul_add, mul_one, add_right_inj]; exact_mod_cast Iff.rfl
    rw [equal, cast, placeDigit_eq_two (by omega)]
  · have cast : (s : ℝ) * (2 * k + 1) < s * (2 * y) ↔ s < 2 * r := by
      rw [twice, mul_add, mul_one, add_lt_add_iff_left]; exact_mod_cast Iff.rfl
    rw [order, cast, placeDigit_eq_three]

/-- The unit of the binade that a magnitude m × 2^e lies in. -/
def gridUnit (t : Nat) (q : Int) (m : Nat) (e : Int) : Int := max q (e + Nat.log2 m - t)

/-- The cut of the shift at two bits more than the length of `m` changes no place. -/
theorem gridFloor_eq {m : Nat} (hm : 0 < m) (t : Nat) (q e : Int) :
    let u := gridUnit t q m e
    let s := 2 ^ (u - e).toNat
    gridFloor t q m e = if u ≤ e then (unitCode t q u (m * 2 ^ (e - u).toNat), 0) else (unitCode t q u (m / s), placeDigit (m % s) s) := by
  intro u s
  have top : e + ((Nat.log2 m + 1 : Nat) : Int) - 1 - t = e + Nat.log2 m - t := by push_cast; ring
  have unit : (if e + Nat.log2 m - t < q then q else e + Nat.log2 m - t) = u := by
    simp only [u, gridUnit]; split_ifs <;> omega
  simp only [gridFloor, hm.ne', if_false, top, unit]
  by_cases h : u ≤ e
  · simp only [h, if_true]; rfl
  rw [if_neg h, if_neg h]
  change (unitCode t q u _, placeDigit _ _) = _
  rcases Nat.le_total (u - e).toNat (Nat.log2 m + 1 + 2) with near | far
  · rw [min_eq_left near]
  · have short : m * 4 < 2 ^ (Nat.log2 m + 1 + 2) := by
      rw [pow_add]; exact Nat.mul_lt_mul_of_pos_right Nat.lt_log2_self (by norm_num)
    have long : 2 ^ (Nat.log2 m + 1 + 2) ≤ s := Nat.pow_le_pow_right two_pos far
    rw [min_eq_right far, Nat.div_eq_of_lt (by omega), Nat.div_eq_of_lt (by omega), Nat.mod_eq_of_lt (by omega), Nat.mod_eq_of_lt (by omega),
      placeDigit_small hm (by omega), placeDigit_small hm (by omega)]

/-- What `gridFloor` finds is where the magnitude stands. -/
theorem gridFloor_places (t : Nat) (q : Int) (m : Nat) (e : Int) : Places t q (m * 2 ^ e) (gridFloor t q m e) := by
  rcases Nat.eq_zero_or_pos m with rfl | hm
  · have zero := Places.of_units (t := t) (k := 0) (r := 0) (s := 1) (x := 0) (le_refl q) (Nat.two_pow_pos _) (.inl rfl) one_pos (by simp)
    simpa [gridFloor, unitCode, placeDigit] using zero
  have least : 2 ^ Nat.log2 m ≤ m := Nat.log2_self_le hm.ne'
  have most : m < 2 ^ (Nat.log2 m + 1) := Nat.lt_log2_self
  have floor : q ≤ gridUnit t q m e := le_max_left ..
  have binade : e + Nat.log2 m - t ≤ gridUnit t q m e := le_max_right ..
  have unit : gridUnit t q m e = q ∨ gridUnit t q m e = e + Nat.log2 m - t := max_choice ..
  rw [gridFloor_eq hm]
  generalize gridUnit t q m e = u at *
  generalize Nat.log2 m = l at *
  split_ifs with h
  · obtain ⟨d, rfl⟩ : ∃ d : Nat, e = u + d := ⟨(e - u).toNat, by omega⟩
    rw [add_sub_cancel_left, Int.toNat_natCast]
    refine Places.of_units (r := 0) (s := 1) floor ?_ (unit.imp_right fun unit => ?_) one_pos ?_
    · calc m * 2 ^ d < 2 ^ (l + 1) * 2 ^ d := Nat.mul_lt_mul_of_pos_right most (Nat.two_pow_pos d)
        _ = 2 ^ (l + 1 + d) := (pow_add ..).symm
        _ ≤ 2 ^ (t + 1) := Nat.pow_le_pow_right two_pos (by omega)
    · obtain rfl : t = l + d := by omega
      rw [pow_add]; exact Nat.mul_le_mul_right _ least
    · rw [zpow_add₀ two_ne_zero, zpow_natCast]; push_cast; ring
  · obtain ⟨d, rfl⟩ : ∃ d : Nat, u = e + d := ⟨(u - e).toNat, by omega⟩
    rw [add_sub_cancel_left, Int.toNat_natCast]
    refine Places.of_units floor ?_ (unit.imp_right fun unit => ?_) (Nat.mod_lt _ (Nat.two_pow_pos d)) ?_
    · apply Nat.div_lt_of_lt_mul
      calc m < 2 ^ (l + 1) := most
        _ ≤ 2 ^ (d + (t + 1)) := Nat.pow_le_pow_right two_pos (by omega)
        _ = 2 ^ d * 2 ^ (t + 1) := pow_add ..
    · rw [Nat.le_div_iff_mul_le (Nat.two_pow_pos d), ← pow_add]
      exact (Nat.pow_le_pow_right two_pos (by omega)).trans least
    · have whole : ((2 ^ d * (m / 2 ^ d) + m % 2 ^ d : Nat) : ℝ) = m := by exact_mod_cast Nat.div_add_mod m (2 ^ d)
      push_cast at whole ⊢
      rw [whole, zpow_add₀ two_ne_zero, zpow_natCast]; ring

end Sys2Proof.Machine
end

section
/-! PROOFS. Rounding to a wide format (R69) over the grid: the code that each direction chooses for a magnitude, and what a code decodes to. -/

namespace Sys2Proof.Machine

section
variable {t : Nat} {q : Int} {x : ℝ} {p : Nat × Nat}

theorem Places.gridVal_le_iff (h : Places t q x p) {k : Nat} : gridVal t q k ≤ x ↔ k ≤ p.1 :=
  ⟨fun le => Nat.lt_succ_iff.mp (gridVal_strictMono.lt_iff_lt.mp (le.trans_lt h.high)), fun le => (gridVal_strictMono.monotone le).trans h.low⟩

theorem Places.nonneg (h : Places t q x p) : 0 ≤ x := (gridVal_nonneg _).trans h.low

/-- The least code at or above the magnitude. -/
def codeAbove (p : Nat × Nat) : Nat := if p.2 = 0 then p.1 else p.1 + 1

theorem Places.le_gridVal_iff (h : Places t q x p) {k : Nat} : x ≤ gridVal t q k ↔ codeAbove p ≤ k := by
  unfold codeAbove
  split_ifs with zero
  · rw [h.exact.mp zero, gridVal_strictMono.le_iff_le]
  · rw [Nat.succ_le_iff, ← not_le, ← h.gridVal_le_iff, not_le]
    refine ⟨fun le => le.lt_of_ne fun eq => zero (h.exact.mpr ?_), le_of_lt⟩
    have : k ≤ p.1 := h.gridVal_le_iff.mp eq.ge
    have := (gridVal_strictMono (t := t) (q := q)).monotone this
    exact le_antisymm (le.trans this) h.low

/-- The nearest code, of two as near the even one. -/
def codeNear (p : Nat × Nat) : Nat := roundCode .rne false p

theorem roundCode_rne (neg : Bool) (p : Nat × Nat) : roundCode .rne neg p = codeNear p := rfl

/-- The nearest code is the lower up to the middle, and the upper from the middle on. -/
theorem Places.codeNear_cases (h : Places t q x p) :
    (codeNear p = p.1 ∧ 2 * x ≤ gridVal t q p.1 + gridVal t q (p.1 + 1) ∧ (2 * x = gridVal t q p.1 + gridVal t q (p.1 + 1) → p.1 % 2 = 0)) ∨
    (codeNear p = p.1 + 1 ∧ gridVal t q p.1 + gridVal t q (p.1 + 1) ≤ 2 * x ∧
      (2 * x = gridVal t q p.1 + gridVal t q (p.1 + 1) → (p.1 + 1) % 2 = 0)) := by
  unfold codeNear roundCode
  rcases lt_trichotomy (2 * x) (gridVal t q p.1 + gridVal t q (p.1 + 1)) with below | mid | above
  · have two : p.2 ≠ 2 := fun two => below.ne (h.middle.mp two)
    have three : p.2 ≠ 3 := fun three => below.not_gt (h.above.mp three)
    exact .inl ⟨by simp [two, three], below.le, fun eq => absurd eq below.ne⟩
  · have two : p.2 = 2 := h.middle.mpr mid
    rcases Nat.mod_two_eq_zero_or_one p.1 with even | odd
    · exact .inl ⟨by simp [two, even], mid.le, fun _ => even⟩
    · exact .inr ⟨by simp [two, odd], mid.ge, fun _ => by omega⟩
  · have three : p.2 = 3 := h.above.mpr above
    exact .inr ⟨by simp [three], above.le, fun eq => absurd eq above.ne'⟩

/-- None is nearer, and of two as near the result is the even one. -/
theorem Places.codeNear_nearest (h : Places t q x p) (k : Nat) :
    |gridVal t q (codeNear p) - x| ≤ |gridVal t q k - x| ∧
      (|gridVal t q (codeNear p) - x| = |gridVal t q k - x| → gridVal t q k ≠ gridVal t q (codeNear p) → codeNear p % 2 = 0) := by
  have low := h.low
  have high := h.high
  have side : gridVal t q k ≤ gridVal t q p.1 ∨ gridVal t q (p.1 + 1) ≤ gridVal t q k := by
    rcases Nat.lt_or_ge p.1 k with lt | ge
    · exact .inr (gridVal_strictMono.monotone lt)
    · exact .inl (gridVal_strictMono.monotone ge)
  rcases h.codeNear_cases with ⟨eq, mid, tie⟩ | ⟨eq, mid, tie⟩ <;> rw [eq]
  · rw [abs_of_nonpos (by linarith : gridVal t q p.1 - x ≤ 0)]
    rcases side with below | above
    · rw [abs_of_nonpos (by linarith)]
      exact ⟨by linarith, fun same ne => absurd (by linarith) ne⟩
    · rw [abs_of_nonneg (by linarith)]
      exact ⟨by linarith, fun same _ => tie (by linarith)⟩
  · rw [abs_of_nonneg (by linarith : 0 ≤ gridVal t q (p.1 + 1) - x)]
    rcases side with below | above
    · rw [abs_of_nonpos (by linarith)]
      exact ⟨by linarith, fun same _ => tie (by linarith)⟩
    · rw [abs_of_nonneg (by linarith)]
      exact ⟨by linarith, fun same ne => absurd (by linarith) ne⟩

/-- The nearest code lies above an odd one exactly from the middle between it and the next on. -/
theorem Places.lt_codeNear_iff (h : Places t q x p) {k : Nat} (odd : k % 2 = 1) :
    k < codeNear p ↔ gridVal t q k + gridVal t q (k + 1) ≤ 2 * x := by
  have mono := (gridVal_strictMono (t := t) (q := q)).monotone
  have low := h.low
  have high := h.high
  rcases Nat.lt_trichotomy k p.1 with lt | rfl | gt
  · refine iff_of_true ?_ (by linarith [mono (Nat.succ_le_of_lt lt), mono lt.le])
    rcases h.codeNear_cases with ⟨eq, -⟩ | ⟨eq, -⟩ <;> omega
  · rcases h.codeNear_cases with ⟨eq, mid, tie⟩ | ⟨eq, mid, -⟩
    · refine iff_of_false (by omega) fun le => ?_
      have := tie (le_antisymm mid le)
      omega
    · exact iff_of_true (by omega) mid
  · refine iff_of_false ?_ ?_
    · rcases h.codeNear_cases with ⟨eq, -⟩ | ⟨eq, -⟩ <;> omega
    · have := mono (Nat.succ_le_of_lt gt)
      have := gridVal_lt_succ (t := t) (q := q) k
      simp only [Nat.succ_eq_add_one] at *
      linarith

end

/-! Wide formats (03 Table 2). -/

theorem ffE_pos (f : FF) : 2 ≤ ffE f := by cases f <;> decide
theorem ffSign_eq (f : FF) : ffSign f = 2 ^ ffE f * 2 ^ ffT f := pow_add ..
theorem ffWidth_pow (f : FF) : 2 ^ ffWidth f = 2 * ffSign f := by rw [ffWidth, ffSign, add_assoc, pow_add, pow_one]
theorem ffInf_add (f : FF) : ffInf f + 2 ^ ffT f = ffSign f := by
  rw [ffInf, ffSign_eq, Nat.sub_mul, one_mul]
  exact Nat.sub_add_cancel (Nat.le_mul_of_pos_left _ (Nat.two_pow_pos _))
theorem ffInf_lt (f : FF) : ffInf f < ffSign f := by have := ffInf_add f; have := Nat.two_pow_pos (ffT f); omega
theorem ffInf_pos (f : FF) : 0 < ffInf f := by cases f <;> decide
theorem ffInf_even (f : FF) : ffInf f % 2 = 0 := by cases f <;> decide
theorem ffSign_even (f : FF) : ffSign f % 2 = 0 := by cases f <;> decide

/-- A magnitude code below the sign bit with its exponent field all ones stands for no finite value. -/
theorem exponent_ones_iff (f : FF) {k : Nat} (h : k < ffSign f) : k / 2 ^ ffT f = 2 ^ ffE f - 1 ↔ ffInf f ≤ k := by
  have pos := Nat.two_pow_pos (ffT f)
  have upper : k / 2 ^ ffT f < 2 ^ ffE f := Nat.div_lt_of_lt_mul (by rwa [mul_comm, ← ffSign_eq])
  rw [ffInf, ← Nat.le_div_iff_mul_le pos]
  omega

/-- What a sign and a magnitude code decode to. -/
def ffValue (f : FF) (neg : Bool) (k : Nat) : FVal :=
  if k / 2 ^ ffT f = 2 ^ ffE f - 1 then (if k % 2 ^ ffT f = 0 then .inf neg else .nan)
  else if k / 2 ^ ffT f = 0 then .fin neg (k % 2 ^ ffT f) (ffMin f)
  else .fin neg (2 ^ ffT f + k % 2 ^ ffT f) (ffMin f + (k / 2 ^ ffT f : Nat) - 1)

theorem ffDecode_signCode (f : FF) (neg : Bool) {k : Nat} (h : k < ffSign f) : ffDecode f (signCode neg (ffSign f) k) = ffValue f neg k := by
  have rest : signCode neg (ffSign f) k % ffSign f = k := by
    cases neg
    · exact Nat.mod_eq_of_lt h
    · exact (Nat.add_mod_left ..).trans (Nat.mod_eq_of_lt h)
  have sign : decide (ffSign f ≤ signCode neg (ffSign f) k % 2 ^ ffWidth f) = neg := by
    rw [ffWidth_pow]
    cases neg
    · rw [signCode, if_neg (by decide), Nat.mod_eq_of_lt (by omega)]; exact decide_eq_false (by omega)
    · rw [signCode, if_pos rfl, Nat.mod_eq_of_lt (by omega)]; exact decide_eq_true (by omega)
  unfold ffDecode ffValue
  simp only [rest, sign]

/-- Every code decodes as a sign and a magnitude code. -/
theorem exists_ffValue (f : FF) (c : Nat) : ∃ neg k, k < ffSign f ∧ ffDecode f c = ffValue f neg k :=
  ⟨_, c % ffSign f, Nat.mod_lt _ (Nat.two_pow_pos _), rfl⟩

/-- A real number with a sign. -/
def signed (neg : Bool) (x : ℝ) : ℝ := if neg then -x else x

@[simp] theorem signed_true (x : ℝ) : signed true x = -x := rfl
@[simp] theorem signed_false (x : ℝ) : signed false x = x := rfl
@[simp] theorem abs_signed (neg : Bool) (x : ℝ) : |signed neg x| = |x| := by cases neg <;> simp

theorem ratOf_fin (neg : Bool) (m : Nat) (e : Int) : (ratOf (.fin neg m e) : ℝ) = signed neg (m * 2 ^ e) := by
  cases neg <;> simp [ratOf]

theorem exists_fin {v : FVal} (h : finiteVal v = true) : ∃ n m e, v = .fin n m e := by
  cases v with
  | nan => cases h
  | inf n => cases h
  | fin n m e => exact ⟨n, m, e, rfl⟩

theorem finiteVal_ffValue (f : FF) (neg : Bool) {k : Nat} (h : k < ffSign f) : finiteVal (ffValue f neg k) = true ↔ k < ffInf f := by
  have ones := exponent_ones_iff f h
  unfold ffValue
  split_ifs with inf zero sub
  · exact iff_of_false (by simp [finiteVal]) (by omega)
  · exact iff_of_false (by simp [finiteVal]) (by omega)
  · exact iff_of_true rfl (by omega)
  · exact iff_of_true rfl (by omega)

/-- The grid of a format. -/
noncomputable abbrev ffGrid (f : FF) (k : Nat) : ℝ := gridVal (ffT f) (ffMin f) k

/-- The value of a code below infinity. -/
theorem ratOf_ffValue (f : FF) (neg : Bool) {k : Nat} (h : k < ffInf f) :
    (ratOf (ffValue f neg k) : ℝ) = signed neg (ffGrid f k) ∧ signOf (ffValue f neg k) = neg := by
  have ones := exponent_ones_iff f (h.trans (ffInf_lt f))
  unfold ffValue ffGrid gridVal
  rw [if_neg (by omega)]
  split_ifs with zero
  · have := Nat.div_add_mod k (2 ^ ffT f)
    rw [zero, mul_zero, zero_add] at this
    exact ⟨by rw [ratOf_fin, this], rfl⟩
  · exact ⟨ratOf_fin .., rfl⟩

theorem ffValue_inf (f : FF) (neg : Bool) : ffValue f neg (ffInf f) = .inf neg := by
  have pos := Nat.two_pow_pos (ffT f)
  simp only [ffValue, ffInf, Nat.mul_div_cancel _ pos, Nat.mul_mod_left, if_true]

/-- The finite codes are those of a sign and a magnitude code below infinity. -/
theorem exists_of_finiteVal {f : FF} {c : Nat} (h : finiteVal (ffDecode f c) = true) :
    ∃ neg k, k < ffInf f ∧ (ratOf (ffDecode f c) : ℝ) = signed neg (ffGrid f k) := by
  obtain ⟨neg, k, below, eq⟩ := exists_ffValue f c
  rw [eq, finiteVal_ffValue f neg below] at h
  exact ⟨neg, k, h, by rw [eq, (ratOf_ffValue f neg h).1]⟩

/-- The magnitude code of a rounded result (R69). -/
def roundedMag (f : FF) (dirn : RMode) (neg : Bool) (p : Nat × Nat) : Nat :=
  if ffInf f ≤ roundCode dirn neg p then overflowCode f dirn neg else roundCode dirn neg p

theorem roundFF_fin (f : FF) (dirn : RMode) (neg : Bool) (m : Nat) (e : Int) :
    roundFF f dirn (.fin neg m e) = signCode neg (ffSign f) (roundedMag f dirn neg (gridFloor (ffT f) (ffMin f) m e)) := rfl

/-- The directions that round a sign away from zero. -/
def roundsAway (dirn : RMode) (neg : Bool) : Bool :=
  match dirn with
  | .rm => neg
  | .rp => !neg
  | _ => false

theorem roundedMag_rne (f : FF) (neg : Bool) (p : Nat × Nat) : roundedMag f .rne neg p = min (codeNear p) (ffInf f) := by
  rw [roundedMag, roundCode_rne, overflowCode]
  split_ifs with h
  · exact (min_eq_right h).symm
  · exact (min_eq_left (by omega)).symm

theorem roundedMag_away {f : FF} {dirn : RMode} {neg : Bool} (h : roundsAway dirn neg = true) (p : Nat × Nat) :
    roundedMag f dirn neg p = min (codeAbove p) (ffInf f) := by
  have code : roundCode dirn neg p = codeAbove p := by
    cases dirn <;> simp_all [roundsAway, roundCode, codeAbove]
  have past : overflowCode f dirn neg = ffInf f := by cases dirn <;> simp_all [roundsAway, overflowCode]
  rw [roundedMag, code, past]
  split_ifs with h
  · exact (min_eq_right h).symm
  · exact (min_eq_left (by omega)).symm

theorem roundedMag_toward {f : FF} {dirn : RMode} {neg : Bool} (h : roundsAway dirn neg = false) (near : dirn ≠ .rne) (p : Nat × Nat) :
    roundedMag f dirn neg p = min p.1 (ffInf f - 1) := by
  have code : roundCode dirn neg p = p.1 := by cases dirn <;> simp_all [roundsAway, roundCode]
  have past : overflowCode f dirn neg = ffInf f - 1 := by cases dirn <;> simp_all [roundsAway, overflowCode]
  rw [roundedMag, code, past]
  split_ifs with h
  · exact (min_eq_right (by omega)).symm
  · exact (min_eq_left (by omega)).symm

theorem roundedMag_le (f : FF) (dirn : RMode) (neg : Bool) (p : Nat × Nat) : roundedMag f dirn neg p ≤ ffInf f := by
  have past : overflowCode f dirn neg ≤ ffInf f := by
    unfold overflowCode
    cases dirn <;> cases neg <;> simp
  unfold roundedMag
  split_ifs with h
  · exact past
  · omega

/-- A rounded result is an infinity, or a finite number of the value's sign. -/
theorem ffDecode_rounded (f : FF) (dirn : RMode) (neg : Bool) (p : Nat × Nat) :
    let k := roundedMag f dirn neg p
    let r := ffDecode f (signCode neg (ffSign f) k)
    (k = ffInf f ∧ r = .inf neg) ∨ (k < ffInf f ∧ finiteVal r = true ∧ signOf r = neg ∧ (ratOf r : ℝ) = signed neg (ffGrid f k)) := by
  intro k r
  have le : k ≤ ffInf f := roundedMag_le f dirn neg p
  have lt := ffInf_lt f
  have decode : r = ffValue f neg k := ffDecode_signCode f neg (by omega)
  rcases le.eq_or_lt with eq | below
  · exact .inl ⟨eq, by rw [decode, eq, ffValue_inf]⟩
  · obtain ⟨value, sign⟩ := ratOf_ffValue f neg below
    exact .inr ⟨below, by rwa [decode, finiteVal_ffValue f neg (by omega)], by rw [decode, sign], by rw [decode, value]⟩

end Sys2Proof.Machine
end

section
/-! PROOFS. Rounding (O9): the four directions by order and nearness, overflow, and the exact sum and product. -/

namespace Sys2Proof.Machine

section
variable {f : FF} {x : ℝ} {p : Nat × Nat}

theorem signed_not (d : Bool) (y : ℝ) : signed d y = -signed (!d) y := by cases d <;> simp

/-- Toward zero: the greatest finite magnitude at or below the value, whatever the sign of the other number. -/
theorem toward_greatest (h : Places (ffT f) (ffMin f) x p) :
    ffGrid f (min p.1 (ffInf f - 1)) ≤ x ∧
      ∀ d k, k < ffInf f → signed d (ffGrid f k) ≤ x → signed d (ffGrid f k) ≤ ffGrid f (min p.1 (ffInf f - 1)) := by
  refine ⟨h.gridVal_le_iff.mpr (min_le_left ..), fun d k below le => ?_⟩
  cases d
  · exact gridVal_strictMono.monotone (le_min (h.gridVal_le_iff.mp le) (by omega))
  · rw [signed_true]; linarith [gridVal_nonneg (t := ffT f) (q := ffMin f) k, gridVal_nonneg (t := ffT f) (q := ffMin f) (min p.1 (ffInf f - 1))]

/-- Away from zero: the least magnitude at or above the value, whatever the sign of the other number. -/
theorem away_least (h : Places (ffT f) (ffMin f) x p) (d : Bool) (k : Nat) (le : x ≤ signed d (ffGrid f k)) :
    ffGrid f (codeAbove p) ≤ signed d (ffGrid f k) := by
  cases d
  · exact gridVal_strictMono.monotone (h.le_gridVal_iff.mp le)
  · have zero : ffGrid f k = 0 := by
      have := gridVal_nonneg (t := ffT f) (q := ffMin f) k
      rw [signed_true] at le
      linarith [h.nonneg]
    rw [signed_true, zero, neg_zero] at le ⊢
    have := h.le_gridVal_iff (k := 0)
    rw [gridVal_zero] at this
    rw [Nat.le_zero.mp (this.mp le)]
    exact gridVal_zero.le

/-- To nearest, whatever the sign of the other number. -/
theorem near_least (h : Places (ffT f) (ffMin f) x p) (d : Bool) (k : Nat) :
    |ffGrid f (codeNear p) - x| ≤ |signed d (ffGrid f k) - x| ∧
      (|ffGrid f (codeNear p) - x| = |signed d (ffGrid f k) - x| → signed d (ffGrid f k) ≠ ffGrid f (codeNear p) → codeNear p % 2 = 0) := by
  cases d
  · exact h.codeNear_nearest k
  · obtain ⟨zero, tie⟩ := h.codeNear_nearest 0
    have pos := gridVal_nonneg (t := ffT f) (q := ffMin f) k
    have nonneg := h.nonneg
    rw [gridVal_zero, zero_sub, abs_neg, abs_of_nonneg nonneg] at zero tie
    have far : |signed true (ffGrid f k) - x| = ffGrid f k + x := by
      rw [signed_true, abs_of_nonpos (by linarith)]; ring
    rw [far]
    refine ⟨by linarith, fun same ne => ?_⟩
    obtain none : ffGrid f k = 0 := by linarith
    refine tie (by linarith) fun eq => ne ?_
    rw [signed_true, none, neg_zero, eq]

/-- The difference of two numbers, the second with a sign, is that of the numbers with that sign turned. -/
theorem abs_signed_sub (n d : Bool) (y : ℝ) : |signed d y - signed n x| = |signed (d != n) y - x| := by
  cases n <;> cases d <;> simp only [signed_true, signed_false, bne_self_eq_false, Bool.false_bne, Bool.true_bne, Bool.not_false] <;>
    rw [← abs_neg] <;> congr 1 <;> ring

end

theorem roundedMag_away_finite {f : FF} {dirn : RMode} {n : Bool} {p : Nat × Nat} (away : roundsAway dirn n = true)
    (below : roundedMag f dirn n p < ffInf f) : roundedMag f dirn n p = codeAbove p := by
  rw [roundedMag_away away] at *; omega

/-- What a direction says of a finite result `r` of the value `v` against another finite number `c`; `even` is the parity of the result (R69). -/
def Directed (dirn : RMode) (r v c : ℝ) (even : Prop) : Prop :=
  match dirn with
  | .rm => r ≤ v ∧ (c ≤ v → c ≤ r)
  | .rp => v ≤ r ∧ (v ≤ c → r ≤ c)
  | .rz => |r| ≤ |v| ∧ 0 ≤ r * v ∧ (|c| ≤ |v| → |c| ≤ |r|)
  | .rne => |r - v| ≤ |c - v| ∧ (|r - v| = |c - v| → c ≠ r → even)

/-- R69 for a finite result: what each direction says of it against each finite number. -/
theorem rounded_finite (f : FF) (dirn : RMode) (n : Bool) {x : ℝ} {p : Nat × Nat} (h : Places (ffT f) (ffMin f) x p)
    (below : roundedMag f dirn n p < ffInf f) (d : Bool) {k : Nat} (hk : k < ffInf f) :
    Directed dirn (signed n (ffGrid f (roundedMag f dirn n p))) (signed n x) (signed d (ffGrid f k)) (roundedMag f dirn n p % 2 = 0) := by
  obtain ⟨low, greatest⟩ := toward_greatest h
  cases dirn
  case rne =>
    rw [roundedMag_rne] at below
    have code : roundedMag f .rne n p = codeNear p := by rw [roundedMag_rne]; omega
    simp only [Directed, code, abs_signed_sub, bne_self_eq_false, signed_false]
    obtain ⟨near, tie⟩ := near_least h (d != n) k
    refine ⟨near, fun same ne => tie same fun eq => ne ?_⟩
    rw [← eq]; cases n <;> cases d <;> simp
  case rz =>
    have code := roundedMag_toward (f := f) (dirn := .rz) (neg := n) rfl (by decide) p
    simp only [Directed, code, abs_signed]
    rw [abs_of_nonneg (gridVal_nonneg _), abs_of_nonneg (gridVal_nonneg _), abs_of_nonneg h.nonneg]
    refine ⟨low, ?_, greatest false k hk⟩
    have : 0 ≤ ffGrid f (min p.1 (ffInf f - 1)) * x := mul_nonneg (gridVal_nonneg _) h.nonneg
    cases n <;> simpa using this
  case rm =>
    cases n
    · simpa only [Directed, signed_false, roundedMag_toward (f := f) (dirn := .rm) (neg := false) rfl (by decide) p] using ⟨low, greatest d k hk⟩
    · have code := roundedMag_away_finite (dirn := .rm) (n := true) rfl below
      simpa only [Directed, code, signed_true, signed_not d, neg_le_neg_iff] using ⟨h.le_gridVal_iff.mpr le_rfl, away_least h (!d) k⟩
  case rp =>
    cases n
    · have code := roundedMag_away_finite (dirn := .rp) (n := false) rfl below
      simpa only [Directed, code, signed_false] using ⟨h.le_gridVal_iff.mpr le_rfl, away_least h d k⟩
    · simpa only [Directed, signed_true, signed_not d, neg_le_neg_iff, roundedMag_toward (f := f) (dirn := .rp) (neg := true) rfl (by decide) p]
        using ⟨low, greatest (!d) k hk⟩

/-- The middle above the largest finite magnitude (R69). -/
theorem ffGrid_overflow (f : FF) :
    ffGrid f (ffInf f - 1) + ffGrid f (ffInf f) = 2 * ((2 ^ (ffT f + 2) - 1) * 2 ^ ((ffBias f : Int) - ffT f - 1)) := by
  have pos := Nat.two_pow_pos (ffT f)
  set u : Int := (ffBias f : Int) - ffT f
  have bias : 2 ^ ffE f - 2 = 2 * ffBias f := by cases f <;> decide
  have units : (u - ffMin f).toNat = 2 ^ ffE f - 3 := by simp only [u, ffMin]; omega
  have many : 4 ≤ 2 ^ ffE f := (Nat.pow_le_pow_right two_pos (ffE_pos f) : 2 ^ 2 ≤ 2 ^ ffE f)
  have least : ffMin f ≤ u := by simp only [u, ffMin]; omega
  have code : ffInf f = unitCode (ffT f) (ffMin f) u (2 ^ (ffT f + 1)) := by
    rw [unitCode, units, ffInf, pow_succ, mul_comm (2 ^ ffT f) 2, ← Nat.add_mul]
    congr 1; omega
  have before : ffInf f - 1 = unitCode (ffT f) (ffMin f) u (2 ^ (ffT f + 1) - 1) := by
    rw [code, unitCode, unitCode, Nat.add_sub_assoc (Nat.one_le_two_pow)]
  rw [before, code, ffGrid, ffGrid, gridVal_unitCode least (Nat.sub_le ..) (.inr ?_), gridVal_unitCode least le_rfl (.inr ?_),
    Nat.cast_sub Nat.one_le_two_pow, zpow_sub_one₀ two_ne_zero]
  · push_cast; ring
  all_goals rw [pow_succ]; omega

/-- R69 for a result beyond the largest finite number. -/
theorem rounded_infinite (f : FF) (dirn : RMode) (n : Bool) {x : ℝ} {p : Nat × Nat} (h : Places (ffT f) (ffMin f) x p)
    (beyond : roundedMag f dirn n p = ffInf f) : (dirn = .rne ∨ roundsAway dirn n = true) ∧ ∀ k, k < ffInf f → ffGrid f k < x := by
  have pos := ffInf_pos f
  cases away : roundsAway dirn n
  · by_cases near : dirn = .rne
    · subst near
      refine ⟨.inl rfl, fun k hk => ?_⟩
      rw [roundedMag_rne] at beyond
      have even := ffInf_even f
      have middle := (h.lt_codeNear_iff (k := ffInf f - 1) (by omega)).mp (by omega)
      rw [Nat.sub_add_cancel pos] at middle
      have step := gridVal_lt_succ (t := ffT f) (q := ffMin f) (ffInf f - 1)
      rw [Nat.sub_add_cancel pos] at step
      have order : ffGrid f k ≤ ffGrid f (ffInf f - 1) := gridVal_strictMono.monotone (by omega)
      linarith
    · rw [roundedMag_toward away near] at beyond; omega
  · rw [roundedMag_away away] at beyond
    refine ⟨.inr rfl, fun k hk => ?_⟩
    by_contra le
    have := h.le_gridVal_iff.mp (not_lt.mp le)
    omega

/-- R69: to nearest, the overflow begins in the middle. -/
theorem roundedMag_rne_overflow (f : FF) (n : Bool) {x : ℝ} {p : Nat × Nat} (h : Places (ffT f) (ffMin f) x p) :
    roundedMag f .rne n p = ffInf f ↔ (2 ^ (ffT f + 2) - 1) * 2 ^ ((ffBias f : Int) - ffT f - 1) ≤ x := by
  have pos := ffInf_pos f
  have even := ffInf_even f
  have middle := h.lt_codeNear_iff (k := ffInf f - 1) (by omega)
  rw [Nat.sub_add_cancel pos] at middle
  have half := ffGrid_overflow f
  have reaches : roundedMag f .rne n p = ffInf f ↔ ffInf f - 1 < codeNear p := by rw [roundedMag_rne]; omega
  rw [reaches, middle, half, mul_le_mul_iff_right₀ two_pos]

theorem signCode_mod_two (f : FF) (n : Bool) (k : Nat) : signCode n (ffSign f) k % 2 = k % 2 := by
  have := ffSign_even f
  cases n <;> simp only [signCode, Bool.false_eq_true, if_false, if_true]
  omega

/-- An exact zero difference, and the sum otherwise. -/
theorem fAdd_fin {down i j : Bool} {m n : Nat} {d g : Int} (hm : m ≠ 0) (hn : n ≠ 0) :
    fAdd down (.fin i m d) (.fin j n g) =
      let s := fInt i m d (min d g) + fInt j n g (min d g)
      if s = 0 then .fin down 0 0 else .fin (decide (s < 0)) s.natAbs (min d g) := by
  simp [fAdd, hm, hn]

theorem ratOf_zero (n : Bool) (e : Int) : ratOf (.fin n 0 e) = 0 := by simp [ratOf]

/-- A signed integer in units of a power of two. -/
theorem ratOf_natAbs (s : Int) (e : Int) : ratOf (.fin (decide (s < 0)) s.natAbs e) = s * 2 ^ e := by
  rcases lt_or_ge s 0 with neg | nonneg
  · simp [ratOf, neg, abs_of_neg]
  · simp [ratOf, not_lt.mpr nonneg, abs_of_nonneg nonneg]

/-- A value in units of a lower power of two. -/
theorem fInt_mul (i : Bool) (m : Nat) {d e : Int} (h : e ≤ d) : (fInt i m d e : Rat) * 2 ^ e = ratOf (.fin i m d) := by
  obtain ⟨k, rfl⟩ : ∃ k : Nat, d = e + k := ⟨(d - e).toNat, by omega⟩
  rw [fInt, add_sub_cancel_left, Int.toNat_natCast, ratOf, zpow_add₀ two_ne_zero, zpow_natCast]
  cases i <;> push_cast <;> simp <;> ring

theorem fAdd_finite (down : Bool) (i j : Bool) (m n : Nat) (d g : Int) :
    finiteVal (fAdd down (.fin i m d) (.fin j n g)) = true ∧
      ratOf (fAdd down (.fin i m d) (.fin j n g)) = ratOf (.fin i m d) + ratOf (.fin j n g) := by
  by_cases hm : m = 0
  · subst hm
    by_cases hn : n = 0
    · subst hn; simp [fAdd, finiteVal, ratOf_zero]
    · simp [fAdd, hn, finiteVal, ratOf_zero]
  by_cases hn : n = 0
  · subst hn; simp [fAdd, hm, finiteVal, ratOf_zero]
  rw [fAdd_fin hm hn, ← fInt_mul i m (min_le_left d g), ← fInt_mul j n (min_le_right d g), ← add_mul, ← Int.cast_add]
  generalize fInt i m d (min d g) + fInt j n g (min d g) = s
  change finiteVal (if s = 0 then _ else _) = true ∧ ratOf (if s = 0 then _ else _) = _
  split_ifs with zero
  · exact ⟨rfl, by rw [zero, ratOf_zero, Int.cast_zero, zero_mul]⟩
  · exact ⟨rfl, ratOf_natAbs ..⟩

/-- A sum that is zero, of a first addend that is not, is an exact difference. -/
theorem fAdd_cancel (down i j : Bool) {m : Nat} (n : Nat) (d g : Int) (hm : 0 < m) (h : ratOf (.fin i m d) + ratOf (.fin j n g) = 0) :
    fAdd down (.fin i m d) (.fin j n g) = .fin down 0 0 := by
  have hn : n ≠ 0 := by
    rintro rfl
    rw [ratOf_zero, add_zero] at h
    have : ratOf (.fin i m d) ≠ 0 := by cases i <;> simp [ratOf, hm.ne', zpow_ne_zero]
    exact this h
  rw [← fInt_mul i m (min_le_left d g), ← fInt_mul j n (min_le_right d g), ← add_mul, ← Int.cast_add,
    mul_eq_zero_iff_right (zpow_ne_zero _ two_ne_zero), Int.cast_eq_zero] at h
  rw [fAdd_fin hm.ne' hn]
  exact if_pos h

theorem ratOf_fMul (i j : Bool) (m n : Nat) (d g : Int) :
    ratOf (fMul (.fin i m d) (.fin j n g)) = ratOf (.fin i m d) * ratOf (.fin j n g) := by
  simp only [fMul, ratOf, zpow_add₀ (two_ne_zero' Rat)]
  cases i <;> cases j <;> push_cast <;> simp <;> ring

section
variable {f : FF} {n : Bool} {m : Nat} {e : Int} {dirn : RMode}

/-- The rounded code of a finite value is an infinity or a finite number. -/
theorem roundFF_cases (f : FF) (n : Bool) (m : Nat) (e : Int) (dirn : RMode) :
    let k := roundedMag f dirn n (gridFloor (ffT f) (ffMin f) m e)
    let r := ffDecode f (roundFF f dirn (.fin n m e))
    (k = ffInf f ∧ r = .inf n) ∨ (k < ffInf f ∧ finiteVal r = true ∧ signOf r = n ∧ (ratOf r : ℝ) = signed n (ffGrid f k)) :=
  ffDecode_rounded f dirn n (gridFloor (ffT f) (ffMin f) m e)

theorem abs_ratOf_fin (n : Bool) (m : Nat) (e : Int) : |(ratOf (.fin n m e) : ℝ)| = m * 2 ^ e := by
  rw [ratOf_fin, abs_signed, abs_of_nonneg (by positivity)]

theorem roundFF_directed (finite : finiteVal (ffDecode f (roundFF f dirn (.fin n m e))) = true) {c : Nat} (hc : finiteVal (ffDecode f c) = true) :
    Directed dirn (ratOf (ffDecode f (roundFF f dirn (.fin n m e)))) (ratOf (.fin n m e)) (ratOf (ffDecode f c))
      (roundFF f dirn (.fin n m e) % 2 = 0) := by
  obtain ⟨d, k, hk, other⟩ := exists_of_finiteVal hc
  obtain ⟨-, inf⟩ | ⟨below, -, -, rounded⟩ := roundFF_cases f n m e dirn
  · rw [inf] at finite; cases finite
  · rw [rounded, other, ratOf_fin, roundFF_fin, signCode_mod_two]
    exact rounded_finite f dirn n (gridFloor_places ..) below d hk

theorem roundFF_beyond (infinite : finiteVal (ffDecode f (roundFF f dirn (.fin n m e))) = false) :
    ffDecode f (roundFF f dirn (.fin n m e)) = .inf n ∧ (dirn = .rne ∨ roundsAway dirn n = true) ∧
      ∀ c, finiteVal (ffDecode f c) = true → |(ratOf (ffDecode f c) : ℝ)| < |(ratOf (.fin n m e) : ℝ)| := by
  obtain ⟨beyond, inf⟩ | ⟨-, finite, -⟩ := roundFF_cases f n m e dirn
  · obtain ⟨direction, larger⟩ := rounded_infinite f dirn n (gridFloor_places ..) beyond
    refine ⟨inf, direction, fun c hc => ?_⟩
    obtain ⟨d, k, hk, other⟩ := exists_of_finiteVal hc
    rw [other, abs_signed, abs_of_nonneg (gridVal_nonneg k), abs_ratOf_fin]
    exact larger k hk
  · rw [infinite] at finite; cases finite

theorem roundFF_rne_overflow :
    finiteVal (ffDecode f (roundFF f .rne (.fin n m e))) = false ↔
      (2 ^ (ffT f + 2) - 1) * 2 ^ ((ffBias f : Int) - ffT f - 1) ≤ |(ratOf (.fin n m e) : ℝ)| := by
  rw [abs_ratOf_fin, ← roundedMag_rne_overflow f n (gridFloor_places ..)]
  obtain ⟨beyond, inf⟩ | ⟨below, finite, -⟩ := roundFF_cases f n m e .rne
  · exact iff_of_true (by rw [inf]; rfl) beyond
  · exact iff_of_false (by rw [finite]; decide) below.ne

end

theorem roundFF_inf (f : FF) (dirn : RMode) (i : Bool) : ffDecode f (roundFF f dirn (.inf i)) = .inf i :=
  (ffDecode_signCode f i (ffInf_lt f)).trans (ffValue_inf f i)

/-- Settles O9: every direction is judged on the grid of the format, and a sum is formed in units of the lower power of two. -/
theorem rounding : Obligations.Rounding := by
  unfold Obligations.Rounding
  refine ⟨fun f n m e dirn => ⟨fun finite => ⟨?_, fun c hc => ?_⟩, fun infinite => ?_, fun near => ?_, roundFF_inf f dirn, ?_⟩,
    fun down a b => ⟨fun ha hb => ?_, ?_, fun i j => ⟨rfl, rfl⟩, fun i j m e => ⟨rfl, rfl, rfl, by rw [fMul, bne_comm]⟩,
      fun i j m n d g => ⟨_, _, rfl⟩, fun i j d g => ⟨0, ?_⟩, fun i j m n d g hm h => ⟨0, fAdd_cancel down i j n d g hm h⟩⟩⟩
  · obtain ⟨-, inf⟩ | ⟨-, -, sign, -⟩ := roundFF_cases f n m e dirn
    · rw [inf] at finite; cases finite
    · exact sign
  · have spec := roundFF_directed finite hc
    cases dirn <;> simp only [Directed] at spec <;> exact_mod_cast spec
  · obtain ⟨inf, direction, larger⟩ := roundFF_beyond infinite
    refine ⟨inf, direction.imp_right fun away => ?_, fun c hc => by exact_mod_cast larger c hc⟩
    cases dirn <;> simp_all [roundsAway]
  · subst near
    rw [roundFF_rne_overflow, ← Rat.cast_le (K := ℝ)]
    push_cast
    rfl
  · cases f <;> rfl
  · obtain ⟨i, m, d, rfl⟩ := exists_fin ha
    obtain ⟨j, n, g, rfl⟩ := exists_fin hb
    obtain ⟨finite, sum⟩ := fAdd_finite down i j m n d g
    exact ⟨finite, sum, rfl, ratOf_fMul i j m n d g⟩
  · cases a <;> cases b <;> exact ⟨rfl, rfl, rfl, rfl⟩
  · simp [fAdd]

end Sys2Proof.Machine
end

section
/-! PROOFS. The fixed-point exponential of the special functions (R75): the terms of its series, each a floor, and their sum. -/

namespace Sys2Proof.Machine

/-- A loop over the numbers below `n` keeps what each of its rounds keeps. -/
theorem foldl_range_induction {α : Type} (P : Nat → α → Prop) (f : α → Nat → α) {a : α} (n : Nat) (start : P 0 a)
    (round : ∀ i b, i < n → P i b → P (i + 1) (f b i)) : P n ((List.range n).foldl f a) := by
  induction n with
  | zero => exact start
  | succ n ih =>
    rw [List.range_succ, List.foldl_append]
    exact round n _ (Nat.lt_succ_self n) (ih fun i b hi => round i b (by omega))

/-- A floor lies less than one below its quotient. -/
theorem div_sub_one_lt (a b : Nat) : (a : ℝ) / b - 1 < (a / b : Nat) := by
  rw [← Nat.floor_div_eq_div (K := ℝ), sub_lt_iff_lt_add]
  exact Nat.lt_floor_add_one _

/-- The i-th term of the exponential series of `r` with `F` for one, as the loop of `fxExp` forms it. -/
def fxTerm (F r : Nat) : Nat → Nat
  | 0 => F
  | i + 1 => fxTerm F r i * r / F / (i + 1)

/-- The i-th term of the exponential series. -/
noncomputable def expTerm (x : ℝ) (i : Nat) : ℝ := x ^ i / i.factorial

theorem expTerm_zero (x : ℝ) : expTerm x 0 = 1 := by simp [expTerm]
theorem expTerm_succ (x : ℝ) (i : Nat) : expTerm x (i + 1) = expTerm x i * x / (i + 1) := by
  unfold expTerm
  rw [pow_succ, Nat.factorial_succ]
  push_cast
  field_simp

section
variable {F r : Nat} {x : ℝ}

/-- A term is at most ten units of the last place below the term of the series. -/
theorem fxTerm_bounds (hF : 0 < F) (hr : (r : ℝ) = x * F) (h0 : 0 ≤ x) (h : x ≤ 1) (i : Nat) :
    (fxTerm F r i : ℝ) ≤ expTerm x i * F ∧ expTerm x i * F - (if i = 0 then 0 else 10) ≤ fxTerm F r i := by
  have one : (0 : ℝ) < F := by exact_mod_cast hF
  induction i with
  | zero => simp [fxTerm, expTerm_zero]
  | succ i ih =>
    obtain ⟨high, low⟩ := ih
    have pos : (0 : ℝ) < (i : ℝ) + 1 := by positivity
    have product : ((fxTerm F r i * r : Nat) : ℝ) / F = fxTerm F r i * x := by push_cast; rw [hr]; field_simp
    have above := Nat.cast_div_le (α := ℝ) (m := fxTerm F r i * r) (n := F)
    have below := div_sub_one_lt (fxTerm F r i * r) F
    have above' := Nat.cast_div_le (α := ℝ) (m := fxTerm F r i * r / F) (n := i + 1)
    have below' := div_sub_one_lt (fxTerm F r i * r / F) (i + 1)
    rw [product] at above below
    push_cast at above' below'
    have scaled : expTerm x (i + 1) * F = expTerm x i * F * x / (i + 1) := by rw [expTerm_succ]; ring
    rw [scaled, if_neg (Nat.succ_ne_zero i), fxTerm]
    refine ⟨above'.trans (div_le_div_of_nonneg_right (above.trans (mul_le_mul_of_nonneg_right high h0)) pos.le), le_trans ?_ below'.le⟩
    rw [div_sub' pos.ne', div_sub' pos.ne', div_le_div_iff_of_pos_right pos]
    have lower : (expTerm x i * F - (if i = 0 then 0 else 10)) * x ≤ fxTerm F r i * x := mul_le_mul_of_nonneg_right low h0
    rcases Nat.eq_zero_or_pos i with rfl | hi
    · simp only [if_true, sub_zero, Nat.cast_zero] at lower ⊢; linarith
    · rw [if_neg hi.ne'] at lower
      have : (1 : ℝ) ≤ i := by exact_mod_cast hi
      linarith

/-- The series of the exponential up to the term where the loop stops. -/
theorem exp_sub_sum_le (h0 : 0 ≤ x) (h : x ≤ 1) (hF : F * 162 ≤ Nat.factorial 161 * 161) :
    ∑ i ∈ Finset.range 161, expTerm x i ≤ Real.exp x ∧ Real.exp x * F ≤ (∑ i ∈ Finset.range 161, expTerm x i) * F + 1 := by
  refine ⟨Real.sum_le_exp_of_nonneg h0 161, ?_⟩
  have power : x ^ 161 ≤ 1 := pow_le_one₀ h0 h
  have bound := mul_le_mul_of_nonneg_right (Real.exp_bound' h0 h (n := 161) (by norm_num)) (Nat.cast_nonneg F)
  have hF' : (F : ℝ) * 162 ≤ Nat.factorial 161 * 161 := by exact_mod_cast hF
  have pos : (0 : ℝ) < Nat.factorial 161 * 161 := by positivity
  generalize Nat.factorial 161 = N at *
  have rest : x ^ 161 * ((161 : Nat) + 1) / (N * (161 : Nat)) * F ≤ 1 := by
    push_cast
    rw [div_mul_eq_mul_div, div_le_one pos]
    nlinarith [Nat.cast_nonneg (α := ℝ) F]
  rw [add_mul] at bound
  exact bound.trans (add_le_add_right rest _)

/-- The sum of the terms lies below the exponential by less than 2,000 units of the last place. -/
theorem sum_fxTerm_bounds (hF : 0 < F) (hF' : F * 162 ≤ Nat.factorial 161 * 161) (hr : (r : ℝ) = x * F) (h0 : 0 ≤ x) (h : x ≤ 1) :
    ((∑ i ∈ Finset.range 161, fxTerm F r i : Nat) : ℝ) ≤ Real.exp x * F ∧
      Real.exp x * F - 2000 ≤ (∑ i ∈ Finset.range 161, fxTerm F r i : Nat) := by
  have terms := fun i => fxTerm_bounds hF hr h0 h i
  obtain ⟨low, high⟩ := exp_sub_sum_le h0 h hF'
  rw [Nat.cast_sum]
  constructor
  · calc _ ≤ ∑ i ∈ Finset.range 161, expTerm x i * F := Finset.sum_le_sum fun i _ => (terms i).1
      _ = (∑ i ∈ Finset.range 161, expTerm x i) * F := (Finset.sum_mul ..).symm
      _ ≤ Real.exp x * F := mul_le_mul_of_nonneg_right low (Nat.cast_nonneg F)
  · have each : ∑ i ∈ Finset.range 161, (expTerm x i * F - 10) ≤ ∑ i ∈ Finset.range 161, (fxTerm F r i : ℝ) :=
      Finset.sum_le_sum fun i _ => by have := (terms i).2; split_ifs at this <;> linarith
    rw [Finset.sum_sub_distrib, ← Finset.sum_mul, Finset.sum_const, Finset.card_range, nsmul_eq_mul] at each
    push_cast at each
    linarith

end

theorem fxOne_pos : 0 < fxOne := by decide +kernel

theorem exp_loop (F r n : Nat) :
    (List.range n).foldl (fun (t : Nat × Nat) i => (t.1 * r / F / (i + 1), t.2 + t.1 * r / F / (i + 1))) (F, F) =
      (fxTerm F r n, ∑ i ∈ Finset.range (n + 1), fxTerm F r i) := by
  refine foldl_range_induction (fun i t => t = (fxTerm F r i, ∑ j ∈ Finset.range (i + 1), fxTerm F r j)) _ n ?_ ?_
  · rw [Finset.sum_range_one]; rfl
  · rintro i _ - rfl
    rw [Finset.sum_range_succ _ (i + 1)]; rfl

theorem fxExp_eq (r : Nat) : fxExp r = ∑ i ∈ Finset.range 161, fxTerm fxOne r i := by
  rw [fxExp, exp_loop]

/-- The fixed-point exponential lies below the exact one by less than 2,000 units of its last place. -/
theorem fxExp_bounds {r : Nat} {x : ℝ} (hr : (r : ℝ) = x * fxOne) (h0 : 0 ≤ x) (h : x ≤ 1) :
    (fxExp r : ℝ) ≤ Real.exp x * fxOne ∧ Real.exp x * fxOne - 2000 ≤ fxExp r := by
  rw [fxExp_eq]
  exact sum_fxTerm_bounds fxOne_pos (by decide +kernel) hr h0 h

end Sys2Proof.Machine
end

section
/-! PROOFS. RCP, SQRT and RSQ (R75): a floor and a sticky bit stand where the exact result stands. -/

namespace Sys2Proof.Machine

/-- Two magnitudes in the same unit interval stand at the same side of every whole number. -/
theorem natCast_le_iff_of_floor {a b : ℝ} {fl : Nat} (ha : fl < a) (ha' : a < fl + 1) (hb : fl < b) (hb' : b < fl + 1) (z : Nat) :
    ((z : ℝ) ≤ a ↔ (z : ℝ) ≤ b) ∧ a ≠ z ∧ b ≠ z := by
  rcases Nat.lt_or_ge fl z with above | below
  · have : (fl : ℝ) + 1 ≤ z := by exact_mod_cast above
    exact ⟨iff_of_false (by linarith) (by linarith), by linarith, by linarith⟩
  · have : (z : ℝ) ≤ fl := by exact_mod_cast below
    exact ⟨iff_of_true (by linarith) (by linarith), by linarith, by linarith⟩

/-- A cell of the grid that is not finer than two units of 2^E begins, ends and has its middle at whole numbers of those units. -/
theorem exists_whole_cell {t : Nat} {q E : Int} {c fl : Nat} {b : ℝ} (many : 2 ^ (t + 2) ≤ fl) (hb : fl < b) (high : b * 2 ^ E < gridVal t q (c + 1)) :
    ∃ lo hi mid : Nat, gridVal t q c = lo * 2 ^ E ∧ gridVal t q (c + 1) = hi * 2 ^ E ∧
      gridVal t q c + gridVal t q (c + 1) = 2 * (mid * 2 ^ E) := by
  obtain ⟨u, k, hq, hk, hu, rfl⟩ := exists_unitCode t q c
  rw [unitCode_succ, gridVal_unitCode (k := k + 1) hq hk (by omega)] at *
  rw [gridVal_unitCode hq hk.le hu]
  have finer : E < u := by
    by_contra coarse
    have units : (2 : ℝ) ^ u ≤ 2 ^ E := zpow_le_zpow_right₀ (by norm_num) (by omega)
    have count : ((k + 1 : Nat) : ℝ) ≤ fl := by rw [pow_succ] at hk many; exact_mod_cast (by omega : k + 1 ≤ fl)
    have : ((k + 1 : Nat) : ℝ) * 2 ^ u ≤ fl * 2 ^ E := mul_le_mul count units (by positivity) (by positivity)
    have := mul_lt_mul_of_pos_right hb (by positivity : (0 : ℝ) < 2 ^ E)
    linarith
  obtain ⟨d, rfl⟩ : ∃ d : Nat, u = E + 1 + d := ⟨(u - E - 1).toNat, by omega⟩
  refine ⟨k * (2 * 2 ^ d), (k + 1) * (2 * 2 ^ d), (2 * k + 1) * 2 ^ d, ?_⟩
  rw [zpow_add₀ two_ne_zero, zpow_add_one₀ two_ne_zero, zpow_natCast]
  push_cast
  exact ⟨by ring, by ring, by ring⟩

/-- A magnitude moved within a unit interval that is finer than half the grid keeps its place. -/
theorem Places.of_floor {t : Nat} {q E : Int} {a b : ℝ} {fl : Nat} {p : Nat × Nat} (h : Places t q (b * 2 ^ E) p) (many : 2 ^ (t + 2) ≤ fl)
    (ha : fl < a) (ha' : a < fl + 1) (hb : fl < b) (hb' : b < fl + 1) : Places t q (a * 2 ^ E) p := by
  have pos : (0 : ℝ) < 2 ^ E := by positivity
  have side (z : Nat) : ((z : ℝ) * 2 ^ E ≤ a * 2 ^ E ↔ (z : ℝ) * 2 ^ E ≤ b * 2 ^ E) ∧ a * 2 ^ E ≠ z * 2 ^ E ∧ b * 2 ^ E ≠ z * 2 ^ E := by
    rw [mul_le_mul_iff_left₀ pos, mul_le_mul_iff_left₀ pos, Ne, mul_left_inj' pos.ne', Ne, mul_left_inj' pos.ne']
    exact natCast_le_iff_of_floor ha ha' hb hb' z
  obtain ⟨low, high, exact, middle, above⟩ := h
  obtain ⟨lo, hi, mid, cellLo, cellHi, cellMid⟩ := exists_whole_cell many hb high
  obtain ⟨sideLo, neLo, neLo'⟩ := side lo
  obtain ⟨sideMid, neMid, neMid'⟩ := side mid
  rw [cellLo] at low exact
  rw [cellMid, mul_right_inj' two_ne_zero] at middle
  rw [cellMid, mul_lt_mul_iff_right₀ two_pos, ← neMid'.symm.le_iff_lt] at above
  constructor
  · rw [cellLo]; exact sideLo.mpr low
  · rw [cellHi] at high ⊢
    exact not_le.mp fun le => high.not_ge ((side hi).1.mp le)
  · rw [cellLo, exact]; exact iff_of_false neLo' neLo
  · rw [cellMid, mul_right_inj' two_ne_zero, middle]; exact iff_of_false neMid' neMid
  · rw [cellMid, mul_lt_mul_iff_right₀ two_pos, ← neMid.symm.le_iff_lt, above, sideMid]

/-- The number that `sticky` stands for, in the units of its floor: the floor, or a half above it. -/
theorem sticky_places {t : Nat} {q E : Int} {a : ℝ} {fl : Nat} {exact : Bool} (many : 2 ^ (t + 2) ≤ fl) (ha : fl ≤ a) (ha' : a < fl + 1)
    (h : exact = true ↔ a = fl) : Places t q (a * 2 ^ E) (gridFloor t q (2 * fl + (if exact then 0 else 1)) (E - 1)) := by
  have places := gridFloor_places t q (2 * fl + (if exact then 0 else 1)) (E - 1)
  have half : ((2 * fl + (if exact then 0 else 1) : Nat) : ℝ) * 2 ^ (E - 1) = (fl + (if exact then 0 else 1 / 2)) * 2 ^ E := by
    rw [zpow_sub_one₀ two_ne_zero]; split_ifs <;> push_cast <;> ring
  rw [half] at places
  cases exact
  · have above : (fl : ℝ) < a := ha.lt_of_ne fun eq => by simpa using h.mpr eq.symm
    exact places.of_floor many above ha' (by simp) (by norm_num)
  · rw [h.mp rfl]; simpa using places

/-- A code that a real number's place rounds to in binary32 to nearest: no finite binary32 value is nearer. -/
theorem nearest_of_places {f : FF} {n : Bool} {x : ℝ} {p : Nat × Nat} (h : Places (ffT f) (ffMin f) x p) :
    let r := ffDecode f (signCode n (ffSign f) (roundedMag f .rne n p))
    finiteVal r = true → ∀ k, finiteVal (ffDecode f k) = true → |(ratOf r : ℝ) - signed n x| ≤ |(ratOf (ffDecode f k) : ℝ) - signed n x| := by
  intro r finite k hk
  obtain ⟨d, j, hj, other⟩ := exists_of_finiteVal hk
  obtain ⟨-, inf⟩ | ⟨below, -, -, rounded⟩ := ffDecode_rounded f .rne n p
  · simp only [r, inf] at finite; cases finite
  · rw [rounded, other]
    exact (rounded_finite f .rne n h below d hj).1

/-- No finite binary32 value is nearer to `z` than that of the code, where that is finite (R75). -/
def NearestTo (c : Nat) (z : ℝ) : Prop :=
  finiteVal (ffDecode .f32 c) = true → ∀ k, finiteVal (ffDecode .f32 k) = true →
    |(ratOf (ffDecode .f32 c) : ℝ) - z| ≤ |(ratOf (ffDecode .f32 k) : ℝ) - z|

/-- A sticky value rounds to what is nearest to the number between its floor and the next. -/
theorem sticky_nearest {n : Bool} {E : Int} {a : ℝ} {fl : Nat} {exact : Bool} (many : 2 ^ 25 ≤ fl) (ha : fl ≤ a) (ha' : a < fl + 1)
    (h : exact = true ↔ a = fl) : NearestTo (roundFF .f32 .rne (sticky n fl exact E)) (signed n (a * 2 ^ E)) :=
  nearest_of_places (f := .f32) (sticky_places many ha ha' h)

/-! What a binary32 code decodes to. -/

theorem ffValue_f32 (neg : Bool) (k : Nat) : ffValue .f32 neg k =
    if k / 8388608 = 255 then (if k % 8388608 = 0 then .inf neg else .nan)
    else if k / 8388608 = 0 then .fin neg (k % 8388608) (-149)
    else .fin neg (8388608 + k % 8388608) (-149 + (k / 8388608 : Nat) - 1) := rfl

/-- A finite binary32 value is below 2^24 in units of a power of two from 2^−149 to 2^104; a zero is in the least unit. -/
theorem ffDecode_fin_bounds {c : Nat} {n : Bool} {m : Nat} {e : Int} (h : ffDecode .f32 c = .fin n m e) :
    m < 2 ^ 24 ∧ -149 ≤ e ∧ e ≤ 104 ∧ (m < 2 ^ 23 → e = -149) := by
  obtain ⟨neg, k, hk, eq⟩ := exists_ffValue .f32 c
  have below : k < 2147483648 := hk
  rw [eq, ffValue_f32] at h
  split_ifs at h with inf nan zero <;> cases h <;> refine ⟨?_, ?_, ?_, ?_⟩ <;> omega

/-- The exponent of a finite binary32 value is that of its exponent field. -/
theorem ffDecode_exponent {c : Nat} {n : Bool} {m : Nat} {e : Int} (h : ffDecode .f32 c = .fin n m e) :
    e + 150 = max 1 (c % ffSign .f32 / 2 ^ 23 : Nat) := by
  have eq : ffDecode .f32 c = ffValue .f32 _ (c % ffSign .f32) := rfl
  rw [eq, ffValue_f32] at h
  split_ifs at h with inf nan zero <;> cases h <;> omega

/-! The reciprocal. -/

theorem rcpCode_nearest {w : Word} {n : Bool} {m : Nat} {e : Int} (hm : 0 < m) (h : ffDecode .f32 w.toNat = .fin n m e) :
    NearestTo (rcpCode w) (1 / (ratOf (.fin n m e) : ℝ)) := by
  have pos : (0 : ℝ) < m := by exact_mod_cast hm
  have below := (ffDecode_fin_bounds h).1
  have value : 1 / (ratOf (.fin n m e) : ℝ) = signed n ((2 ^ 64 : Nat) / m * 2 ^ (-64 - e)) := by
    rw [ratOf_fin, sub_eq_add_neg, zpow_add₀ two_ne_zero, zpow_neg, zpow_neg]
    cases n <;> push_cast <;> simp only [signed_true, signed_false] <;> field_simp <;> norm_num
  rw [rcpCode, h, value]
  simp only [hm.ne', if_false]
  refine sticky_nearest ?_ Nat.cast_div_le (by linarith [div_sub_one_lt (2 ^ 64) m]) ?_
  · rw [Nat.le_div_iff_mul_le hm]; omega
  · rw [decide_eq_true_iff, div_eq_iff pos.ne']
    have := Nat.div_add_mod (2 ^ 64) m
    constructor
    · intro zero
      rw [zero, add_zero, mul_comm] at this
      exact_mod_cast this.symm
    · intro eq
      have eq' : 2 ^ 64 = 2 ^ 64 / m * m := by exact_mod_cast eq
      exact Nat.mod_eq_zero_of_dvd ⟨2 ^ 64 / m, by rw [mul_comm]; exact eq'⟩

/-! The roots. -/

theorem isqrtFrom_spec (n : Nat) : ∀ k r, r * r ≤ n → n < (r + 2 ^ k) * (r + 2 ^ k) →
    isqrtFrom n k r * isqrtFrom n k r ≤ n ∧ n < (isqrtFrom n k r + 1) * (isqrtFrom n k r + 1)
  | 0, r, low, high => ⟨low, high⟩
  | k + 1, r, low, high => by
    rw [isqrtFrom]
    split_ifs with h
    · exact isqrtFrom_spec n k _ h (by rwa [add_assoc, ← mul_two, ← pow_succ])
    · exact isqrtFrom_spec n k r low (not_le.mp h)

theorem isqrt_eq_sqrt (n : Nat) : isqrt n = Nat.sqrt n := by
  have start : n < (0 + 2 ^ (Nat.log2 n / 2 + 1)) * (0 + 2 ^ (Nat.log2 n / 2 + 1)) := by
    rw [zero_add, ← pow_add]
    exact Nat.lt_log2_self.trans_le (Nat.pow_le_pow_right two_pos (by omega))
  obtain ⟨low, high⟩ := isqrtFrom_spec n _ 0 (Nat.zero_le n) start
  exact Nat.eq_sqrt.mpr ⟨low, high⟩

/-- The integer root of the floor of a real number is the floor of its root, which it is where its square is the number. -/
theorem sqrt_floor {n : Nat} {y : ℝ} (low : n ≤ y) (high : y < n + 1) :
    (Nat.sqrt n : ℝ) ≤ Real.sqrt y ∧ Real.sqrt y < Nat.sqrt n + 1 ∧ (Real.sqrt y = Nat.sqrt n ↔ (Nat.sqrt n * Nat.sqrt n : ℝ) = y) := by
  have nonneg : 0 ≤ y := (Nat.cast_nonneg n).trans low
  have below : (Nat.sqrt n * Nat.sqrt n : ℝ) ≤ n := by exact_mod_cast Nat.sqrt_le n
  have above : (n : ℝ) + 1 ≤ (Nat.sqrt n + 1) * (Nat.sqrt n + 1) := by exact_mod_cast Nat.lt_succ_sqrt n
  refine ⟨Real.le_sqrt_of_sq_le (by rw [sq]; linarith), (Real.sqrt_lt' (by positivity)).mpr (by rw [sq]; linarith), ?_⟩
  rw [Real.sqrt_eq_iff_mul_self_eq nonneg (Nat.cast_nonneg _), eq_comm]

/-- A positive value m × 2^e with an even exponent: the significand and half the exponent. -/
theorem exists_even_exponent (m : Nat) (e : Int) :
    ((if e % 2 = 0 then m else 2 * m : Nat) : ℝ) * 2 ^ (2 * ((if e % 2 = 0 then e else e - 1) / 2)) = m * 2 ^ e := by
  split_ifs with even
  · congr 2; omega
  · have : e = 2 * ((e - 1) / 2) + 1 := by omega
    conv_rhs => rw [this, zpow_add_one₀ two_ne_zero]
    push_cast; ring

theorem sqrt_zpow_two_mul (h : Int) : Real.sqrt (2 ^ (2 * h)) = 2 ^ h := by
  rw [mul_comm, zpow_mul]
  exact_mod_cast Real.sqrt_sq (by positivity)

theorem sqrtCode_nearest {w : Word} {m : Nat} {e : Int} (hm : 0 < m) (h : ffDecode .f32 w.toNat = .fin false m e) :
    NearestTo (sqrtCode w) (Real.sqrt (ratOf (.fin false m e) : ℝ)) := by
  rw [sqrtCode, h, ratOf_fin, signed_false, ← exists_even_exponent]
  simp only [hm.ne', if_false, Bool.false_eq_true, rootVal, isqrt_eq_sqrt]
  have positive : 0 < if e % 2 = 0 then m else 2 * m := by split_ifs <;> omega
  generalize (if e % 2 = 0 then m else 2 * m) = k at *
  generalize (if e % 2 = 0 then e else e - 1) / 2 = g at *
  have value : Real.sqrt (k * 2 ^ (2 * g)) = signed false (Real.sqrt (k * 2 ^ 64 : Nat) * 2 ^ (g - 32)) := by
    have : ((2 : ℝ) ^ 64) = 2 ^ (2 * (32 : Int)) := by norm_num
    rw [signed_false, Nat.cast_mul, Nat.cast_pow, Nat.cast_ofNat, this, Real.sqrt_mul (Nat.cast_nonneg k), Real.sqrt_mul (Nat.cast_nonneg k),
      sqrt_zpow_two_mul, sqrt_zpow_two_mul, mul_assoc, ← zpow_add₀ two_ne_zero]
    congr 2; ring
  obtain ⟨low, high, exact⟩ := sqrt_floor (n := k * 2 ^ 64) le_rfl (lt_add_one _)
  rw [value]
  refine sticky_nearest (Nat.le_sqrt.mpr ?_) low high ?_
  · exact (by norm_num : 2 ^ 25 * 2 ^ 25 ≤ 1 * 2 ^ 64).trans (Nat.mul_le_mul_right _ positive)
  · rw [decide_eq_true_iff, exact]; exact_mod_cast Iff.rfl

theorem rsqCode_nearest {w : Word} {m : Nat} {e : Int} (hm : 0 < m) (h : ffDecode .f32 w.toNat = .fin false m e) :
    NearestTo (rsqCode w) (1 / Real.sqrt (ratOf (.fin false m e) : ℝ)) := by
  have below := (ffDecode_fin_bounds h).1
  rw [rsqCode, h, ratOf_fin, signed_false, ← exists_even_exponent]
  simp only [hm.ne', if_false, Bool.false_eq_true, isqrt_eq_sqrt]
  have positive : 0 < if e % 2 = 0 then m else 2 * m := by split_ifs <;> omega
  have small : (if e % 2 = 0 then m else 2 * m) ≤ 2 ^ 25 := by split_ifs <;> omega
  generalize (if e % 2 = 0 then m else 2 * m) = k at *
  generalize (if e % 2 = 0 then e else e - 1) / 2 = g at *
  have pos : (0 : ℝ) < k := by exact_mod_cast positive
  have value : 1 / Real.sqrt (k * 2 ^ (2 * g)) = signed false (Real.sqrt ((2 ^ 128 : Nat) / k) * 2 ^ (-g - 64)) := by
    have : ((2 : ℝ) ^ 128) = 2 ^ (2 * (64 : Int)) := by norm_num
    rw [signed_false, Nat.cast_pow, Nat.cast_ofNat, this, Real.sqrt_mul (Nat.cast_nonneg k), Real.sqrt_div' _ (Nat.cast_nonneg k),
      sqrt_zpow_two_mul, sqrt_zpow_two_mul, zpow_sub₀ two_ne_zero, zpow_neg]
    have : 0 < Real.sqrt k := Real.sqrt_pos.mpr pos
    field_simp
  obtain ⟨low, high, exact⟩ := sqrt_floor (n := 2 ^ 128 / k) (y := (2 ^ 128 : Nat) / k) Nat.cast_div_le (by linarith [div_sub_one_lt (2 ^ 128) k])
  rw [value]
  refine sticky_nearest (Nat.le_sqrt.mpr ?_) low high ?_
  · rw [Nat.le_div_iff_mul_le positive]
    exact (Nat.mul_le_mul_left _ small).trans (by norm_num)
  · rw [decide_eq_true_iff, exact, eq_div_iff pos.ne']; exact_mod_cast Iff.rfl

end Sys2Proof.Machine
end

section
/-! PROOFS. The special functions (O15): the operations they begin, their special values (R76), EX2 of a whole number and LG2 of a power of two, and the bound
on TANH. -/

namespace Sys2Proof.Machine

/-! A code fits a register. -/

theorem signCode_lt (n : Bool) {k : Nat} (h : k ≤ ffInf .f32) : signCode n (ffSign .f32) k < 2 ^ 32 := by
  have := ffInf_lt .f32
  have sign : ffSign .f32 = 2 ^ 31 := rfl
  cases n <;> simp only [signCode, Bool.false_eq_true, if_false, if_true] <;> omega

theorem roundFF_lt (dirn : RMode) (v : FVal) : roundFF .f32 dirn v < 2 ^ 32 := by
  cases v with
  | nan => exact (by decide : ffNan .f32 < 2 ^ 32)
  | inf n => exact signCode_lt n le_rfl
  | fin n m e => exact signCode_lt n (roundedMag_le ..)

/-- The magnitude code of a faithful result: the lower or the upper of two neighbours, at most infinity. -/
def faithfulMag (f : FaithFn) (w : Word) (m : Nat) (e : Int) : Nat :=
  let lo := min (gridFloor 23 (ffMin .f32) m e).1 (ffInf .f32 - 1)
  if Config.pickUpper f w then lo + 1 else lo

theorem faithfulMag_le (f : FaithFn) (w : Word) (m : Nat) (e : Int) :
    faithfulMag f w m e ≤ (gridFloor 23 (ffMin .f32) m e).1 + 1 ∧ faithfulMag f w m e ≤ ffInf .f32 := by
  have := ffInf_pos .f32
  rw [faithfulMag]
  split_ifs <;> omega

theorem faithful_lt (f : FaithFn) (w : Word) (n : Bool) (m : Nat) (e : Int) : faithful f w n m e < 2 ^ 32 :=
  signCode_lt n (faithfulMag_le f w m e).2

theorem ex2Code_lt (w : Word) : ex2Code w < 2 ^ 32 := by
  unfold ex2Code
  split
  · decide
  · split_ifs <;> decide
  · dsimp only
    split_ifs
    · exact roundFF_lt ..
    · exact roundFF_lt ..
    · exact roundFF_lt ..
    · exact faithful_lt ..

theorem lg2Code_lt (w : Word) : lg2Code w < 2 ^ 32 := by
  unfold lg2Code
  split
  · decide
  · split_ifs <;> decide
  · dsimp only
    split_ifs
    · decide
    · decide
    · exact roundFF_lt ..
    · exact faithful_lt ..

theorem sinCode_lt (w : Word) : sinCode w < 2 ^ 32 := by
  unfold sinCode
  split
  · decide
  · decide
  · split_ifs
    · exact w.isLt
    · exact faithful_lt ..

theorem cosCode_lt (w : Word) : cosCode w < 2 ^ 32 := by
  unfold cosCode
  split
  · decide
  · decide
  · split_ifs
    · exact roundFF_lt ..
    · exact faithful_lt ..

theorem tanhCode_lt (w : Word) : tanhCode w < 2 ^ 32 := by
  unfold tanhCode
  split
  · decide
  · exact roundFF_lt ..
  · split_ifs
    · exact w.isLt
    · exact faithful_lt ..
    · exact faithful_lt ..

/-- A code in the low half of a doubleword. -/
theorem loWord_ofNat_toNat {k : Nat} (h : k < 2 ^ 32) : (loWord (BitVec.ofNat 64 k)).toNat = k := by
  rw [loWord, BitVec.toNat_setWidth, BitVec.toNat_ofNat]
  omega

/-- An instruction of a special function whose code fits a register begins an operation that will write the code (R308). -/
theorem special_begins {i : Instr} {c : Ctl} {d : VK} {a : Src} {s : State} {x : Ctx} {f : Word → Nat}
    (hx : exec i s = aluSlow i c 1 d (fun x l => BitVec.ofNat 64 (f (srcWord x a l))) s) (fits : ∀ w, f w < 2 ^ 32)
    (h : Ready { activeMarks := Instr.isFloat i } (Instr.use i) c x s) (room : flagRoom x c = true) :
    ∃ g, BeginsSlow i c (activeCtx x c) s 1 d g ∧ ∀ l, (loWord (g l)).toNat = f (srcWord (activeCtx x c) a l) :=
  ⟨_, aluSlow_begins hx h room, fun _ => loWord_ofNat_toNat (fits _)⟩

/-! Special values (R76). -/

/-- A code has a value, and is the canonical NaN where that is a NaN. -/
def HasValue (c : Nat) (r : FVal) : Prop := ffDecode .f32 c = r ∧ (r = .nan → c = 0x7FC00000)

theorem hasValue_nan : HasValue (ffNan .f32) .nan := ⟨by decide, fun _ => rfl⟩
theorem hasValue_inf (n : Bool) : HasValue (signCode n (ffSign .f32) (ffInf .f32)) (.inf n) :=
  ⟨(ffDecode_signCode .f32 n (ffInf_lt .f32)).trans (ffValue_inf .f32 n), nofun⟩
theorem hasValue_zero (n : Bool) : HasValue (signCode n (ffSign .f32) 0) (.fin n 0 (-149)) :=
  ⟨ffDecode_signCode .f32 n (by decide), nofun⟩
theorem hasValue_one (n : Bool) : HasValue (roundFF .f32 .rne (.fin n 1 0)) (.fin n (2 ^ 23) (-23)) := ⟨by cases n <;> decide, nofun⟩

/-! Whole results. -/

/-- A value whose significand fits the format and whose exponent is not too small stands on the grid. -/
theorem gridFloor_exact {t m : Nat} {q e : Int} (fits : Nat.log2 m ≤ t) (h : q ≤ e) : (gridFloor t q m e).2 = 0 := by
  rcases Nat.eq_zero_or_pos m with rfl | hm
  · rfl
  · have unit : gridUnit t q m e ≤ e := max_le h (by omega)
    rw [gridFloor_eq hm, if_pos unit]

/-- A value that stands on the grid, below the largest finite number, is its own rounded value. -/
theorem ratOf_roundFF_exact {n : Bool} {m : Nat} {e : Int} (fits : Nat.log2 m ≤ 23) (h : -149 ≤ e) (small : (m : ℝ) * 2 ^ e < 2 ^ (127 : Int)) :
    finiteVal (ffDecode .f32 (roundFF .f32 .rne (.fin n m e))) = true ∧
      ratOf (ffDecode .f32 (roundFF .f32 .rne (.fin n m e))) = ratOf (.fin n m e) := by
  have places := gridFloor_places 23 (-149) m e
  have exact := gridFloor_exact fits h
  have near : codeNear (gridFloor 23 (-149) m e) = (gridFloor 23 (-149) m e).1 := by
    simp [codeNear, roundCode, exact]
  obtain ⟨beyond, inf⟩ | ⟨below, finite, -, value⟩ := roundFF_cases .f32 n m e .rne
  · have overflow := (roundedMag_rne_overflow .f32 n places).mp beyond
    have : (2 : ℝ) ^ (127 : Int) ≤ (2 ^ (ffT .f32 + 2) - 1) * 2 ^ ((ffBias .f32 : Int) - ffT .f32 - 1) := by
      have bias : (ffBias .f32 : Int) - ffT .f32 - 1 = 103 := by decide
      rw [bias]
      norm_num [ffT]
    linarith
  · refine ⟨finite, ?_⟩
    have code : roundedMag .f32 .rne n (gridFloor 23 (-149) m e) = (gridFloor 23 (-149) m e).1 := by
      have := below
      rw [roundedMag_rne] at this ⊢
      change min (codeNear (gridFloor 23 (-149) m e)) _ < _ at this
      rw [near] at this ⊢
      omega
    rw [← Rat.cast_inj (α := ℝ), value, ratOf_fin, places.exact.mp exact]
    exact congrArg (fun k => signed n (ffGrid .f32 k)) code

theorem fInt_zero (n : Bool) (m : Nat) : fInt n m 0 0 = (if n then -1 else 1) * m := by cases n <;> simp [fInt]

/-- A whole value with a negative exponent: the significand is a multiple of the power of two, and the quotient is the value. -/
theorem whole_of_neg_exponent {n : Bool} {m k : Nat} {q : Int} (hq : ratOf (.fin n m (-k)) = q) : m % 2 ^ k = 0 ∧ fInt n (m / 2 ^ k) 0 0 = q := by
  have value : ((if n then -1 else 1) * m : Int) = q * 2 ^ k := by
    have : ((if n then -1 else 1 : Int) : Rat) * m * (2 : Rat) ^ (-(k : Int)) = q := by rw [← hq, ratOf]; cases n <;> simp
    rw [zpow_neg, zpow_natCast, ← div_eq_mul_inv, div_eq_iff (by positivity)] at this
    exact_mod_cast this
  have size : m = q.natAbs * 2 ^ k := by
    have := congrArg Int.natAbs value
    rw [Int.natAbs_mul, Int.natAbs_mul, Int.natAbs_pow, Int.natAbs_natCast] at this
    cases n <;> simpa using this
  refine ⟨by rw [size]; exact Nat.mul_mod_left .., ?_⟩
  rw [size, Nat.mul_div_cancel _ (Nat.two_pow_pos k), fInt_zero]
  refine mul_right_cancel₀ (pow_ne_zero k (two_ne_zero' Int)) ?_
  rw [mul_assoc, ← value, size]
  push_cast
  rfl

/-- EX2 of a whole number (R76). -/
theorem ex2Code_int {w : Word} {n : Bool} {m : Nat} {e q : Int} (h : ffDecode .f32 w.toNat = .fin n m e) (hq : ratOf (.fin n m e) = q) :
    ex2Code w = roundFF .f32 .rne (.fin false 1 q) := by
  rw [ex2Code, h]
  by_cases hm : m = 0
  · subst hm
    rw [ratOf_zero] at hq
    obtain rfl : q = 0 := by exact_mod_cast hq.symm
    simp only [if_true]
  simp only [hm, if_false]
  rcases le_or_gt 0 e with he | he
  · have whole := fInt_mul n m he
    rw [zpow_zero, mul_one, hq] at whole
    simp only [he, true_or, if_true]
    rw [Int.cast_inj.mp whole]
  · obtain ⟨k, rfl⟩ : ∃ k : Nat, e = -k := ⟨(-e).toNat, by omega⟩
    obtain ⟨whole, quotient⟩ := whole_of_neg_exponent hq
    have exponent : (-(-(k : Int))).toNat = k := by omega
    rw [exponent]
    simp only [whole, or_true, if_true, he.not_ge, if_false, quotient]

/-- LG2 of a power of two (R76). -/
theorem lg2Code_pow {w : Word} {n : Bool} {m : Nat} {e q : Int} (h : ffDecode .f32 w.toNat = .fin n m e) (hq : ratOf (.fin n m e) = 2 ^ q) :
    ratOf (ffDecode .f32 (lg2Code w)) = q := by
  obtain ⟨small, least, most, -⟩ := ffDecode_fin_bounds h
  have pos : (0 : Rat) < 2 ^ q := by positivity
  obtain rfl : n = false := by
    cases n
    · rfl
    · rw [← hq] at pos
      simp only [ratOf, if_true, neg_mul, one_mul, neg_pos] at pos
      exact absurd pos (not_lt.mpr (by positivity))
  have value : (m : Rat) * 2 ^ e = 2 ^ q := by rw [← hq]; simp [ratOf]
  have hm : m ≠ 0 := by rintro rfl; simp at value; exact pos.ne' value.symm
  have order : e ≤ q := by
    rw [← zpow_le_zpow_iff_right₀ (one_lt_two (α := Rat)), ← value]
    exact le_mul_of_one_le_left (by positivity) (by exact_mod_cast Nat.one_le_iff_ne_zero.mpr hm)
  obtain ⟨k, rfl⟩ : ∃ k : Nat, q = e + k := ⟨(q - e).toNat, by omega⟩
  obtain rfl : m = 2 ^ k := by
    rw [zpow_add₀ two_ne_zero, mul_comm, zpow_natCast] at value
    exact_mod_cast mul_left_cancel₀ (by positivity) value
  have short : k < 24 := (Nat.pow_lt_pow_iff_right one_lt_two).mp small
  rw [lg2Code, h]
  simp only [hm, if_false, Bool.false_eq_true, Nat.log2_two_pow, if_true, fOfInt]
  have fits : Nat.log2 (e + k).natAbs ≤ 23 := by
    rcases Nat.eq_zero_or_pos (e + k).natAbs with zero | positive
    · rw [zero]; decide
    · exact Nat.le_of_lt_succ ((Nat.log2_lt positive.ne').mpr (by omega))
  have below : ((e + k).natAbs : ℝ) * 2 ^ (0 : Int) < 2 ^ (127 : Int) := by
    have : ((e + k).natAbs : ℝ) ≤ 200 := by exact_mod_cast (by omega : (e + k).natAbs ≤ 200)
    rw [zpow_zero, mul_one]
    exact this.trans_lt (by norm_num)
  rw [(ratOf_roundFF_exact fits (by decide) below).2, ratOf_natAbs, zpow_zero, mul_one]

/-! TANH does not exceed 1. -/

/-- The magnitude code of one. -/
def oneMag : Nat := 127 * 2 ^ 23

theorem ffGrid_oneMag : ffGrid .f32 oneMag = 1 := by
  have code := gridVal_unitCode (t := 23) (q := -149) (u := -23) (k := 2 ^ 23) (by decide) (by decide) (.inr le_rfl)
  have same : unitCode 23 (-149) (-23) (2 ^ 23) = oneMag := by decide
  rw [same] at code
  refine code.trans ?_
  norm_num

/-- A faithful result of a magnitude below one does not exceed one. -/
theorem faithful_le_one (f : FaithFn) (w : Word) (n : Bool) {m : Nat} {e : Int} (h : (m : ℝ) * 2 ^ e < 1) :
    finiteVal (ffDecode .f32 (faithful f w n m e)) = true ∧ |ratOf (ffDecode .f32 (faithful f w n m e))| ≤ 1 := by
  have below : (gridFloor 23 (ffMin .f32) m e).1 < oneMag := by
    have := (gridFloor_places 23 (ffMin .f32) m e).low.trans_lt h
    rw [← ffGrid_oneMag] at this
    exact gridVal_strictMono.lt_iff_lt.mp this
  have mag : faithfulMag f w m e ≤ oneMag := (faithfulMag_le f w m e).1.trans below
  have finite : faithfulMag f w m e < ffInf .f32 := mag.trans_lt (by decide)
  have decode : ffDecode .f32 (faithful f w n m e) = ffValue .f32 n (faithfulMag f w m e) := ffDecode_signCode .f32 n (finite.trans (ffInf_lt _))
  rw [decode, finiteVal_ffValue .f32 n (finite.trans (ffInf_lt _))]
  refine ⟨finite, ?_⟩
  rw [← Rat.cast_le (K := ℝ), Rat.cast_abs, (ratOf_ffValue .f32 n finite).1, abs_signed, abs_of_nonneg (gridVal_nonneg _), Rat.cast_one, ← ffGrid_oneMag]
  exact gridVal_strictMono.monotone mag

/-- The fixed-point logarithm lies between a half and one. -/
theorem fxLn2_bounds : fxOne < 2 * fxLn2 ∧ fxLn2 < fxOne := by decide +kernel

theorem fxExp_le {r : Nat} (h : r ≤ fxOne) : fxExp r ≤ 3 * fxOne := by
  have one : (0 : ℝ) < fxOne := by exact_mod_cast fxOne_pos
  have unit : (r : ℝ) / fxOne ≤ 1 := (div_le_one one).mpr (by exact_mod_cast h)
  have bound := (fxExp_bounds (x := r / fxOne) (div_mul_cancel₀ _ one.ne').symm (div_nonneg (Nat.cast_nonneg r) one.le) unit).1
  have three : Real.exp (r / fxOne) ≤ 3 := (Real.exp_le_exp.mpr unit).trans (by linarith [Real.exp_one_lt_d9])
  exact_mod_cast bound.trans (mul_le_mul_of_nonneg_right three one.le)

/-- The reciprocal of e^2x in fixed point, below 64. -/
def fxInvExp (t : Nat) : Nat := fxOne * fxOne / fxExp (t % fxLn2) / 2 ^ (t / fxLn2)

theorem fxInvExp_pos {t : Nat} (h : t < fxOne * 128) : 0 < fxInvExp t := by
  obtain ⟨least, most⟩ := fxLn2_bounds
  have rest : t % fxLn2 ≤ fxOne := (Nat.mod_lt t (by omega)).le.trans most.le
  have quotient : t / fxLn2 ≤ 256 := by
    refine (Nat.div_lt_of_lt_mul (h.trans ?_)).le
    linarith
  have exponential := fxExp_le rest
  have positive : 0 < fxExp (t % fxLn2) := by
    rw [fxExp_eq]; exact Finset.sum_pos' (fun _ _ => Nat.zero_le _) ⟨0, by simp, fxOne_pos⟩
  have large : 2 ^ 256 * 3 ≤ fxOne := by decide +kernel
  rw [fxInvExp, Nat.div_div_eq_div_mul]
  refine Nat.div_pos ?_ (Nat.mul_pos positive (Nat.two_pow_pos _))
  calc fxExp (t % fxLn2) * 2 ^ (t / fxLn2) ≤ 3 * fxOne * 2 ^ 256 := Nat.mul_le_mul exponential (Nat.pow_le_pow_right two_pos quotient)
    _ = 2 ^ 256 * 3 * fxOne := by ring
    _ ≤ fxOne * fxOne := Nat.mul_le_mul_right _ large

/-- TANH of a finite value that is not zero is a faithful result of a magnitude below one. -/
theorem tanhCode_le_one {w : Word} {n : Bool} {m : Nat} {e : Int} (h : ffDecode .f32 w.toNat = .fin n m e) :
    finiteVal (ffDecode .f32 (tanhCode w)) = true ∧ |ratOf (ffDecode .f32 (tanhCode w))| ≤ 1 := by
  have unit (k : Nat) (hk : k < fxOne) : (k : ℝ) * 2 ^ (-600 : Int) < 1 := by
    rw [zpow_neg, ← div_eq_mul_inv, div_lt_one (by positivity)]
    exact_mod_cast hk
  rw [tanhCode, h]
  dsimp only
  split_ifs with zero large
  · subst zero
    rw [h, ratOf_zero, abs_zero]
    exact ⟨rfl, zero_le_one⟩
  · exact faithful_le_one _ _ _ (unit _ (by decide +kernel))
  · refine faithful_le_one _ _ _ (unit _ ?_)
    obtain ⟨small, least, -⟩ := ffDecode_fin_bounds h
    have exponent := ffDecode_exponent h
    have twice : m * 2 ^ (e + 601).toNat < fxOne * 128 :=
      calc m * 2 ^ (e + 601).toNat < 2 ^ 24 * 2 ^ (e + 601).toNat := Nat.mul_lt_mul_of_pos_right small (Nat.two_pow_pos _)
        _ = 2 ^ (24 + (e + 601).toNat) := (pow_add ..).symm
        _ ≤ 2 ^ (600 + 7) := pow_le_pow_right₀ one_le_two (by omega)
        _ = fxOne * 128 := by decide +kernel
    have y := fxInvExp_pos twice
    change (fxOne - fxInvExp _) * fxOne / (fxOne + fxInvExp _) < fxOne
    have one := fxOne_pos
    refine Nat.div_lt_of_lt_mul ?_
    exact Nat.mul_lt_mul_of_pos_right (by omega) one

/-- Settles O15: a special value is read off the code, a sticky floor rounds as the exact result does, and the exact cases stand on the grid. -/
theorem specialFunctions : Obligations.SpecialFunctions := by
  unfold Obligations.SpecialFunctions
  refine ⟨fun c d a s x room ready => ?_, fun w => ⟨fun nan => ?_, fun n inf => ?_, fun n e zero => ?_, fun m e hm negative => ?_, fun n m e hm h => ?_,
    fun m e hm h => ?_, fun finite => ?_⟩⟩
  · exact ⟨special_begins rfl (fun _ => roundFF_lt ..) ready room, special_begins rfl (fun _ => roundFF_lt ..) ready room,
      special_begins rfl (fun _ => roundFF_lt ..) ready room, special_begins rfl ex2Code_lt ready room, special_begins rfl lg2Code_lt ready room,
      special_begins rfl sinCode_lt ready room, special_begins rfl cosCode_lt ready room, special_begins rfl tanhCode_lt ready room⟩
  · beta_reduce
    unfold rcpCode rsqCode sqrtCode ex2Code lg2Code sinCode cosCode tanhCode
    rw [nan]
    exact ⟨hasValue_nan, hasValue_nan, hasValue_nan, hasValue_nan, hasValue_nan, hasValue_nan, hasValue_nan, hasValue_nan⟩
  · beta_reduce
    unfold rcpCode rsqCode sqrtCode ex2Code lg2Code sinCode cosCode tanhCode
    rw [inf]
    cases n
    · exact ⟨hasValue_zero false, hasValue_zero false, hasValue_inf false, hasValue_inf false, hasValue_inf false, hasValue_nan, hasValue_nan,
        hasValue_one false⟩
    · exact ⟨hasValue_zero true, hasValue_nan, hasValue_nan, hasValue_zero false, hasValue_nan, hasValue_nan, hasValue_nan, hasValue_one true⟩
  · obtain rfl : e = -149 := (ffDecode_fin_bounds zero).2.2.2 (by norm_num)
    beta_reduce
    unfold rcpCode rsqCode sqrtCode ex2Code lg2Code sinCode cosCode tanhCode
    rw [zero]
    exact ⟨hasValue_inf n, hasValue_inf n, hasValue_zero n, hasValue_one false, hasValue_inf true, ⟨zero, nofun⟩, hasValue_one false,
      ⟨zero, nofun⟩⟩
  · beta_reduce
    unfold rsqCode sqrtCode lg2Code
    rw [negative]
    obtain ⟨k, rfl⟩ := Nat.exists_eq_succ_of_ne_zero hm.ne'
    exact ⟨hasValue_nan, hasValue_nan, hasValue_nan⟩
  · rw [h]; exact rcpCode_nearest hm h
  · rw [h]; exact ⟨sqrtCode_nearest hm h, rsqCode_nearest hm h⟩
  · obtain ⟨n, m, e, h⟩ := exists_fin finite
    rw [h]
    exact ⟨fun q hq => ex2Code_int h hq, fun q hq => lg2Code_pow h hq, tanhCode_le_one h⟩

end Sys2Proof.Machine
end

section
/-! PROOFS. A counterexample to O41. The clause on the arrival of a flit gives each request in it a place where it is next. But a reply on its
way back can be of a kind that nothing takes there: the package drops it, and no request is left. -/

namespace Sys2Proof.Machine

/-- A reply of a load on its way back over link 1, under the kind of a slot write. -/
def strayReply : Req :=
  { id := 0, kind := .slotWrite 0 0 0, who := .load 0 0 0 0, line := 0, policy := .keep, owner := 8, die := 0, port := 15, homeDie := 1, homeSlice := 0
    stage := .replyLink, since := 0, reservedEntry := false, way := 0, rdata := 0, rpoison := 0, rold := 0, stamp := 0 }
/-- The flit that carries it, sent at clock 0. -/
def strayFlit : Flit := { cls := .unreserved, reqs := [0], sent := 0, last := 0, fails := 0 }
/-- The state after reset with the flit on its way, 24 clocks later. -/
def flitOnLink : State := { State.reset with clock := 24, reqs := [strayReply], links := [(1, { flight := [strayFlit] })] }

/-- The requests of the state that an instruction answers. -/
def reqsAfter (o : Out) : List Req := match o with
  | .next t => t.reqs
  | _ => []

/-- Refutes O41, in its clause on the arrival of a flit: in `flitOnLink` the flit arrives sound, and its reply is dropped. -/
theorem not_linkAndChannelEvents : ¬ Obligations.LinkAndChannelEvents := by
  unfold Obligations.LinkAndChannelEvents
  intro h
  obtain ⟨-, -, -, arrival, -⟩ := h flitOnLink
  obtain ⟨sound, -⟩ := arrival 1 strayFlit (by decide)
  obtain ⟨t, run, -, -, places⟩ := sound (by decide)
  obtain ⟨-, -, reply⟩ := places strayReply (.head _) (.head _)
  obtain ⟨q, hq, -⟩ := reply rfl rfl ⟨0, 0, 0, 0, rfl⟩
  have dropped : (reqsAfter (exec (.dieLinkFlitArrival 1 true) flitOnLink)).length = 0 := by decide
  rw [run] at dropped
  exact List.ne_nil_of_mem hq (List.length_eq_zero_iff.1 dropped)

end Sys2Proof.Machine
end

section
/-! PROOFS. The operations of the core's memory system, of the fabric and of loads and stores leave memory as it is (for O59); and how that is said
of an operation that answers with a pair, an option or a step. -/

namespace Sys2Proof.Machine

@[simp] theorem mem_ite (c : Prop) [Decidable c] (s t : State) : (if c then s else t).mem = if c then s.mem else t.mem := apply_ite State.mem c s t
@[simp] theorem snd_ite {α β : Type} (c : Prop) [Decidable c] (s t : α × β) : (if c then s else t).2 = if c then s.2 else t.2 :=
  apply_ite Prod.snd c s t
/-- What a lemma on the state of a pair says of that state where a match has taken the pair apart. -/
theorem mem_of_pair {α : Type} {p : α × State} {a : α} {t : State} (h : p = (a, t)) : t.mem = p.2.mem := by rw [h]
/-- A fold over pairs with a state leaves memory as it is where each turn does. -/
theorem foldl_snd_mem {α β : Type} (f : β × State → α → β × State) (hf : ∀ a e, (f a e).2.mem = a.2.mem) (l : List α) :
    ∀ a : β × State, (l.foldl f a).2.mem = a.2.mem := by
  induction l with
  | nil => exact fun _ => rfl
  | cons e r ih => exact fun a => (ih (f a e)).trans (hf a e)
/-- Every state an optional answer holds has the memory of `s`. -/
def KeepsIf (s : State) (o : Option State) : Prop := ∀ t, o = some t → t.mem = s.mem
theorem keepsIf_ite {s : State} {c : Prop} [Decidable c] {a b : Option State} (ha : KeepsIf s a) (hb : KeepsIf s b) :
    KeepsIf s (if c then a else b) := by
  split
  · exact ha
  · exact hb
@[simp] theorem keepsIf_none (s : State) : KeepsIf s none := fun _ h => by cases h
@[simp] theorem keepsIf_some (s t : State) : KeepsIf s (some t) ↔ t.mem = s.mem := by simp [KeepsIf]
/-- A step that answers leaves memory as it is. -/
def KeepsMem (s : State) (o : Out) : Prop := ∀ t, o = .next t → t.mem = s.mem
@[simp] theorem keepsMem_next (s t : State) : KeepsMem s (.next t) ↔ t.mem = s.mem := by simp [KeepsMem]
@[simp] theorem keepsMem_fault (s : State) (f : Fault) : KeepsMem s (.fault f) := by simp [KeepsMem]
theorem keepsMem_event {f : State → State} {s : State} (h : (f s).mem = s.mem) : KeepsMem s (event f s) := (keepsMem_next s (f s)).2 h
theorem keepsMem_issue {k : Checks} {u : RU} {c : Ctl} {early : Ctx → State → Option TrapInfo} {body : Ctx → State → State} {s : State}
    (h : ∀ x, (body x s).mem = s.mem) : KeepsMem s (issue k u c early body s) := by
  unfold issue
  dsimp only
  (repeat' split) <;> simp [h]
theorem keepsMem_alu (i : Instr) (c : Ctl) (w : Nat) (d : VK) (f : Ctx → Nat → DWord) (s : State) : KeepsMem s (alu i c w d f s) :=
  keepsMem_issue fun _ => by simp
theorem keepsMem_aluP (i : Instr) (c : Ctl) (p : Nat) (f : Ctx → Nat → Bool) (s : State) : KeepsMem s (aluP i c p f s) :=
  keepsMem_issue fun _ => by simp
theorem keepsMem_aluP2 (i : Instr) (c : Ctl) (p : Nat) (f : Ctx → Nat → Nat → Bool) (s : State) : KeepsMem s (aluP2 i c p f s) :=
  keepsMem_issue fun _ => by simp

/-! Physical memory and the rings of records. -/

@[simp] theorem clearWay_mem (s : State) (n k : Nat) : (clearWay s n k).mem = s.mem := by
  unfold clearWay
  split <;> simp
@[simp] theorem raiseMsix_mem (s : State) (v : Nat) : (raiseMsix s v).mem = s.mem := by simp [raiseMsix]
@[simp] theorem hostSend_mem (s : State) (k : HostKind) : (hostSend s k).mem = s.mem := by simp [hostSend]
@[simp] theorem addPoison_mem (s : State) (line : Nat) (bad : BitVec 4) : (addPoison s line bad).mem = s.mem := by simp [addPoison]
@[simp] theorem recordAccepted_mem (s : State) (id : Nat) : (recordAccepted s id).mem = s.mem := by simp [recordAccepted]

/-! Translation. -/

@[simp] theorem freeBytes_mem (s : State) (n : Nat) : (freeBytes s n).2.mem = s.mem := by simp [freeBytes]
@[simp] theorem readOut_mem (rd : Reader) (die k : Nat) : ∀ (s : State) (pa n : Nat), (readOut s rd die pa n k).2.mem = s.mem := by
  induction k with
  | zero => exact fun _ _ _ => rfl
  | succ k ih =>
    intro s pa n
    unfold readOut
    split
    · rfl
    · simp [ih]

/-! Skeins. -/

@[simp] theorem updGrid_mem (s : State) (g : Nat) (f : Grid → Grid) : (updGrid s g f).mem = s.mem := by simp [updGrid]
@[simp] theorem staleFills_mem (s : State) (core : Nat) (p : LoadPart → Bool) : (staleFills s core p).mem = s.mem := by simp [staleFills]
@[simp] theorem dropFillsIf_mem (s : State) (core : Nat) (p : Nat → Bool) : (dropFillsIf s core p).mem = s.mem := by simp [dropFillsIf]
@[simp] theorem detailFails_mem (core slot : Nat) (cond : Nat × Nat) (s : State) : (detailFails core slot cond s).mem = s.mem := by
  unfold detailFails
  dsimp only
  (repeat' split) <;> simp

/-! Operations in flight. -/

@[simp] theorem beginOp_mem (x : Ctx) (c : Ctl) (o : Op) (s : State) : (beginOp x c o s).2.mem = s.mem := by simp [beginOp]
@[simp] theorem finishOp_mem (s : State) (core slot op : Nat) : (finishOp s core slot op).mem = s.mem := by simp [finishOp]
@[simp] theorem setOp_mem (s : State) (core slot op : Nat) (o : Op) : (setOp s core slot op o).mem = s.mem := by simp [setOp]

/-! Requests, the L1 data cache and the store queue. -/

@[simp] theorem postCore_mem (s : State) (kind : ReqKind) (who : ReqOwner) (line : Nat) (pol : CPol) (core : Nat) :
    (postCore s kind who line pol core).2.mem = s.mem := by
  simp [postCore]
@[simp] theorem updL1_mem (s : State) (core : Nat) (f : NMap L1Line → NMap L1Line) : (updL1 s core f).mem = s.mem := by simp [updL1]
@[simp] theorem writeBackLine_mem (s : State) (core : Nat) (slot : Option Nat) (line : Nat) : (writeBackLine s core slot line).mem = s.mem := by
  unfold writeBackLine
  split <;> simp
@[simp] theorem writeBackAll_mem (s : State) (core : Nat) (slot : Option Nat) : (writeBackAll s core slot).mem = s.mem := by
  simp [writeBackAll, foldl_mem]
@[simp] theorem acquireL1_mem (s : State) (core : Nat) : (acquireL1 s core).mem = s.mem := by simp [acquireL1]
@[simp] theorem l1Room_mem (s : State) (core line : Nat) : (l1Room s core line).mem = s.mem := by
  unfold l1Room
  dsimp only
  (repeat' split) <;> simp
@[simp] theorem l1Put_mem (s : State) (core line : Nat) (f : L1Line → L1Line) : (l1Put s core line f).mem = s.mem := by simp [l1Put]
@[simp] theorem l1Fill_mem (s : State) (core line : Nat) (d : LineData) (first : Bool) : (l1Fill s core line d first).mem = s.mem := by simp [l1Fill]
@[simp] theorem l1Merge_mem (s : State) (core : Nat) (e : SqEntry) : (l1Merge s core e).mem = s.mem := by simp [l1Merge]
@[simp] theorem l1Through_mem (s : State) (core : Nat) (e : SqEntry) : (l1Through s core e).mem = s.mem := by simp [l1Through]
@[simp] theorem fillNewer_mem (s : State) (core line took : Nat) : (fillNewer s core line took).mem = s.mem := by simp [fillNewer]
@[simp] theorem releaseStep_mem (s : State) (core slot : Nat) (sk : Skein) (scope : Scope) (pg : Progress) :
    (releaseStep s core slot sk scope pg).2.mem = s.mem := by
  simp [releaseStep]
@[simp] theorem acquireStep_mem (s : State) (core : Nat) (sk : Skein) (scope : Scope) (pg : Progress) :
    (acquireStep s core sk scope pg).2.mem = s.mem := by
  simp [acquireStep]
@[simp] theorem fenceStep_mem (s : State) (core slot : Nat) (sk : Skein) (k : FenceKind) (scope : Scope) (pg : Progress) :
    (fenceStep s core slot sk k scope pg).2.2.mem = s.mem := by
  simp [fenceStep]
@[simp] theorem flushStep_mem (s : State) (core slot : Nat) (sk : Skein) (inv : Bool) (scope : Scope) (lines : Option (List Nat)) (pg : Progress) :
    (flushStep s core slot sk inv scope lines pg).2.2.mem = s.mem := by
  have clean (l : List Nat) (a : List Nat × State) : (l.foldl (fun (a : List Nat × State) l =>
      ((a.1 ++ [(postCore a.2 .clean (.prefetch core) l .byp core).1], (postCore a.2 .clean (.prefetch core) l .byp core).2) :
    List Nat × State)) a).2.mem = a.2.mem :=
    foldl_snd_mem _ (fun _ _ => by simp) l a
  unfold flushStep
  dsimp only
  (repeat' split) <;> simp [foldl_mem, clean]
@[simp] theorem atomicStep_mem (s : State) (core slot op : Nat) (sk : Skein) (todo : List (Nat × Nat × AtomReq)) (left : Nat) (scope : Scope)
    (got : List (Nat × DWord × Bool)) (ty : IType) (dst : List RegRef) (sent : Bool) (pg : Progress) :
    (atomicStep s core slot op sk todo left scope got ty dst sent pg).2.2.mem = s.mem := by
  simp [atomicStep, foldl_mem]
@[simp] theorem pokeOp_mem (core slot : Nat) (s : State) (op : Nat) : (pokeOp core slot s op).mem = s.mem := by
  unfold pokeOp
  dsimp only
  (repeat' split) <;> simp
@[simp] theorem pokeCore_mem (s : State) (core : Nat) : (pokeCore s core).mem = s.mem := by simp [pokeCore, foldl_mem]
@[simp] theorem pokeAll_mem (s : State) : (pokeAll s).mem = s.mem := by simp [pokeAll, foldl_mem]
@[simp] theorem drainAcquire_mem (s : State) : (drainAcquire s).mem = s.mem := by simp [drainAcquire, foldl_mem]
@[simp] theorem bufferMoved_mem (s : State) : (bufferMoved s).mem = s.mem := by simp [bufferMoved]
@[simp] theorem sendPrefetch_mem (s : State) (core : Nat) (l2 : Bool) (x : Xl) : (sendPrefetch s core l2 x).mem = s.mem := by
  unfold sendPrefetch
  split <;> simp

/-! Ports, slices, channels, links and walks. -/

@[simp] theorem podSend_mem (s : State) (f : UalFlit) : (podSend s f).mem = s.mem := by simp [podSend]
@[simp] theorem absorb_mem (s : State) (r : Req) : (absorb s r).mem = s.mem := by
  unfold absorb
  split <;> simp
@[simp] theorem arrive_mem (s : State) (r : Req) : (arrive s r).mem = s.mem := by simp [arrive]
@[simp] theorem advanceReq_mem (s : State) (id : Nat) : (advanceReq s id).mem = s.mem := by
  unfold advanceReq
  (repeat' split) <;> simp
@[simp] theorem advanceNet_mem (s : State) : (advanceNet s).mem = s.mem := by simp [advanceNet, foldl_mem]
@[simp] theorem noteAccept_mem (s : State) (r : Req) : (noteAccept s r).mem = s.mem := by
  unfold noteAccept
  split <;> simp
@[simp] theorem execRequestPortSend_keepsMem (die port : Nat) (s : State) : KeepsMem s (execRequestPortSend die port s) := keepsMem_event (by
  dsimp only
  (repeat' split) <;> simp [foldl_mem])
@[simp] theorem updPipe_mem (s : State) (plan pipe : Nat) (f : Pipe → Pipe) : (updPipe s plan pipe f).mem = s.mem := by simp [updPipe]
@[simp] theorem performSlot_mem (s : State) (r : Req) : (performSlot s r).mem = s.mem := by
  unfold performSlot
  (repeat' split) <;> simp
@[simp] theorem performHost_mem (s : State) (r : Req) : (performHost s r).mem = s.mem := by
  unfold performHost
  (repeat' split) <;> simp [foldl_mem]
@[simp] theorem replyOut_mem (s : State) (r : Req) : (replyOut s r).mem = s.mem := by
  unfold replyOut
  (repeat' split) <;> simp
@[simp] theorem eccOn_mem (s : State) (r : Req) (die corrected : Nat) (bad : List Nat) : (eccOn s r die corrected bad).mem = s.mem := by simp [eccOn]
@[simp] theorem eccSlot_mem (s : State) (r : Req) (bad : List Nat) : (eccSlot s r bad).mem = s.mem := by
  unfold eccSlot
  split <;> simp
@[simp] theorem execSliceHitReply_keepsMem (req : SliceReply) (s : State) : KeepsMem s (execSliceHitReply req s) := keepsMem_event (by
  dsimp only
  (repeat' split) <;> simp)
@[simp] theorem execSliceFillReturn_keepsMem (req : SliceReply) (s : State) : KeepsMem s (execSliceFillReturn req s) := keepsMem_event (by
  dsimp only
  (repeat' split) <;> simp)
@[simp] theorem serveTransfer_mem (ch : Nat) (s : State) (t : Transfer) : (serveTransfer ch s t).mem = s.mem := by cases t <;> rfl
@[simp] theorem execHbmSlotService_keepsMem (ch corrected : Nat) (bad : List Nat) (s : State) :
    KeepsMem s (execHbmSlotService ch corrected bad s) :=
  keepsMem_event (by simp [foldl_mem])
@[simp] theorem execDieLinkSlot_keepsMem (x : Nat) (s : State) : KeepsMem s (execDieLinkSlot x s) := keepsMem_event (by
  dsimp only
  (repeat' split) <;> simp)
@[simp] theorem execDieLinkFlitArrival_keepsMem (x : Nat) (crcOk : Bool) (s : State) : KeepsMem s (execDieLinkFlitArrival x crcOk s) :=
  keepsMem_event (by
  dsimp only
  split <;> simp)
@[simp] theorem execTranslationWalk_keepsMem (die index : Nat) (s : State) : KeepsMem s (execTranslationWalk die index s) := keepsMem_event (by
  dsimp only
  split
  · rfl
  · split <;> rename_i h
    · simp [mem_of_pair h]
    · split
      · split <;> simp [mem_of_pair h]
      all_goals simp [mem_of_pair h])
@[simp] theorem storeEntryDone_mem (s : State) (core slot op : Nat) : (storeEntryDone s core slot op).mem = s.mem := by
  unfold storeEntryDone
  (repeat' split) <;> simp
@[simp] theorem takeStamp_mem (s : State) (who : ReqOwner) (stamp : DWord) : (takeStamp s who stamp).mem = s.mem := by
  unfold takeStamp
  split <;> simp
@[simp] theorem execWriteAcknowledgement_keepsMem (req : Nat) (s : State) : KeepsMem s (execWriteAcknowledgement req s) := keepsMem_event (by
  dsimp only
  (repeat' split) <;> simp)

/-! Loads, stores, atomics and cache maintenance. -/

@[simp] theorem gateIf_mem (p : Passed → State → Bool) (xs : Passed) (s : State) : (gateIf p xs s).2.mem = s.mem := by simp [gateIf]
@[simp] theorem clearWalkFaults_mem (s : State) (core slot : Nat) : (clearWalkFaults s core slot).mem = s.mem := by simp [clearWalkFaults]
@[simp] theorem skeinRecord_mem (s : State) (core slot : Nat) (ws : List DWord) (clock flags : Nat) :
    (skeinRecord s core slot ws clock flags).mem = s.mem := by
  unfold skeinRecord
  split <;> simp
@[simp] theorem watchCheck_mem (s : State) (x : Ctx) (reads writes : Bool) (size : Nat) (l : List (Nat × Nat)) :
    (watchCheck s x reads writes size l).2.mem = s.mem := by
  unfold watchCheck
  dsimp only
  (repeat' split) <;> simp [foldl_mem]
@[simp] theorem trapWatch_mem (x : Ctx) (t : TrapInfo) (s : State) : (trapWatch x t s).mem = s.mem := by simp [trapWatch]
/-- An access changes no byte of memory where neither the wait for its room nor its start does (R219). -/
theorem memAccess_mem (x : Ctx) (c : Ctl) (k : Access) (bases acc : List (Nat × Nat)) {room : Passed → State → Room × State}
    {go : Passed → State → State}
    (hroom : ∀ xs s, (room xs s).2.mem = s.mem) (hgo : ∀ xs s, (go xs s).mem = s.mem)
    (s : State) : (memAccess x c k bases acc room go s).mem = s.mem := by
  unfold memAccess
  split
  · simp
  · dsimp only
    split
    · simp
    · split
      · simp
      · split
        · simp
        · split
          · simp [foldl_mem]
          · split
            · simp [foldl_mem]
            · split <;> rename_i h
              · simp [mem_of_pair h, hroom, foldl_mem]
              · simp [mem_of_pair h, hroom, foldl_mem]
              · split <;> rename_i g <;> simp [mem_of_pair g, mem_of_pair h, hroom, hgo, foldl_mem]
@[simp] theorem loadPart_mem (x : Ctx) (op : Nat) (sc : Scope) (cp : CPol) (size : Nat) (xs : Passed) (s : State) (ix line : Nat) :
    (loadPart x op sc cp size xs s ix line).2.mem = s.mem := by
  unfold loadPart
  dsimp only
  (repeat' split) <;> simp
@[simp] theorem beginLoad_mem (x : Ctx) (c : Ctl) (sc : Scope) (cp : CPol) (size : Nat) (signed : Bool) (dst : List RegRef)
    (lane : Nat → Option Nat) (grp : Nat → Nat) (xs : Passed) (s : State) :
    (beginLoad x c sc cp size signed dst lane grp xs s).mem = s.mem := by
  unfold beginLoad
  simp only [retire_mem, beginOp_mem]
  exact foldl_snd_mem _ (fun _ _ => by simp) _ _
@[simp] theorem execLd_keepsMem (c : Ctl) (d a : VK) (off : Word) (sz : ASize) (sc : Scope) (cp : CPol) (s : State) :
    KeepsMem s (execLd c d a off sz sc cp s) :=
  keepsMem_issue fun _ => by simp [memAccess_mem]
@[simp] theorem execLdb_keepsMem (c : Ctl) (d a : VK) (off : Word) (sc : Scope) (cp : CPol) (s : State) : KeepsMem s (execLdb c d a off sc cp s) :=
  keepsMem_issue fun _ => by simp [memAccess_mem]
@[simp] theorem execLdk_keepsMem (c : Ctl) (d a : Nat) (off : Word) (wide : Bool) (sc : Scope) (cp : CPol) (s : State) :
    KeepsMem s (execLdk c d a off wide sc cp s) :=
  keepsMem_issue fun _ => by simp [memAccess_mem]
@[simp] theorem pinVersion_mem (s : State) (n k task line : Nat) : (pinVersion s n k task line).mem = s.mem := by simp [pinVersion]
@[simp] theorem versionRoom_mem (x : Ctx) (s : State) (lines : List Nat) : (versionRoom x s lines).2.mem = s.mem := by
  have keeps (l : List Nat) (f : Bool × State × State → Nat → Bool × State × State) (hf : ∀ a e, (f a e).2.1.mem = a.2.1.mem) :
      ∀ a, (l.foldl f a).2.1.mem = a.2.1.mem := by
    induction l with
    | nil => exact fun _ => rfl
    | cons e r ih => exact fun a => (ih _).trans (hf a e)
  unfold versionRoom
  refine keeps _ _ (fun a e => ?_) _
  dsimp only
  (repeat' split) <;> simp
@[simp] theorem addVersion_mem (x : Ctx) (s : State) (line : Nat) (mask : LMask) (d : LineData) : (addVersion x s line mask d).mem = s.mem := by
  unfold addVersion
  dsimp only
  (repeat' split) <;> simp
@[simp] theorem storeGate_mem (x : Ctx) (b : VK) (size : Nat) (ver : Bool) (xs : Passed) (s : State) :
    (storeGate x b size ver xs s).2.mem = s.mem := by
  simp [storeGate]
@[simp] theorem beginStore_mem (x : Ctx) (c : Ctl) (b : VK) (sc : Scope) (cp : CPol) (size : Nat) (ver : Bool) (xs : Passed) (s : State) :
    (beginStore x c b sc cp size ver xs s).mem = s.mem := by
  simp [beginStore, foldl_mem]
@[simp] theorem execSt_keepsMem (c : Ctl) (a b : VK) (off : Word) (sz : ASize) (sc : Scope) (cp : CPol) (ver : Bool) (s : State) :
    KeepsMem s (execSt c a b off sz sc cp ver s) :=
  keepsMem_issue fun _ => by simp [memAccess_mem]
@[simp] theorem execStb_keepsMem (c : Ctl) (a b : VK) (off : Word) (sc : Scope) (cp : CPol) (ver : Bool) (s : State) :
    KeepsMem s (execStb c a b off sc cp ver s) :=
  keepsMem_issue fun _ => by simp [memAccess_mem]
@[simp] theorem execStk_keepsMem (c : Ctl) (a b : Nat) (off : Word) (wide : Bool) (sc : Scope) (cp : CPol) (s : State) :
    KeepsMem s (execStk c a b off wide sc cp s) :=
  keepsMem_issue fun _ => by simp [memAccess_mem]
@[simp] theorem setTileBytes_mem (s : State) (core a : Nat) (bs : List Byte) : (setTileBytes s core a bs).mem = s.mem := by simp [setTileBytes]
@[simp] theorem beginTaken_mem (x : Ctx) (c : Ctl) (size : Nat) (signed : Bool) (dst : List RegRef) (vals : List (Nat × List Byte)) (s : State) :
    (beginTaken x c size signed dst vals s).mem = s.mem := by
  simp [beginTaken]
@[simp] theorem execLdp_keepsMem (c : Ctl) (d a : Nat) (off : Word) (sz : ASize) (peer : Nat) (s : State) :
    KeepsMem s (execLdp c d a off sz peer s) := keepsMem_issue fun x => by
  dsimp only
  split
  · simp
  · split
    · simp
    · split
      · simp
      · split <;> rename_i h <;> simp [mem_of_pair h]
@[simp] theorem beginPeerStore_mem (x : Ctx) (c : Ctl) (s : State) : (beginPeerStore x c s).mem = s.mem := by simp [beginPeerStore]
@[simp] theorem execStp_keepsMem (c : Ctl) (a : Nat) (b : VK) (off : Word) (sz : ASize) (peer : Nat) (s : State) :
    KeepsMem s (execStp c a b off sz peer s) := keepsMem_issue fun x => by
  dsimp only
  split
  · simp
  · split
    · simp
    · split
      · simp
      · split <;> rename_i h <;> simp [mem_of_pair h, foldl_mem]
@[simp] theorem execLdw_keepsMem (c : Ctl) (d a : Nat) (off : Word) (sz : ASize) (s : State) : KeepsMem s (execLdw c d a off sz s) :=
  keepsMem_issue fun x => by
  dsimp only
  split
  · simp
  · split
    · simp
    · split
      · simp
      · split <;> rename_i h <;> simp [mem_of_pair h]
@[simp] theorem atomicGo_mem (x : Ctx) (c : Ctl) (d a : VK) (off : Word) (op : Option AtomOp) (ty : IType) (sc : Scope) (b cv : Nat → DWord)
    (s : State) : (atomicGo x c d a off op ty sc b cv s).mem = s.mem :=
  memAccess_mem _ _ _ _ _ (fun _ _ => gateIf_mem _ _ _) (fun _ _ => by simp) _
@[simp] theorem execAtom_keepsMem (c : Ctl) (d a b : VK) (off : Word) (op : AtomOp) (ty : IType) (sc : Scope) (s : State) :
    KeepsMem s (execAtom c d a b off op ty sc s) :=
  keepsMem_issue fun _ => by simp
@[simp] theorem execAtomc_keepsMem (c : Ctl) (d a b cc : VK) (ty : IType) (sc : Scope) (s : State) : KeepsMem s (execAtomc c d a b cc ty sc s) :=
  keepsMem_issue fun _ => by simp
@[simp] theorem execFence_keepsMem (c : Ctl) (k : FenceKind) (sc : Scope) (s : State) : KeepsMem s (execFence c k sc s) :=
  keepsMem_issue fun _ => by simp
@[simp] theorem flushGo_mem (x : Ctx) (c : Ctl) (inv : Bool) (a : Option VK) (off : Word) (sc : Scope) (s : State) :
    (flushGo x c inv a off sc s).mem = s.mem := by
  cases a with
  | none =>
    simp only [flushGo]
    (repeat' split) <;> simp
  | some r => exact memAccess_mem _ _ _ _ _ (fun _ _ => gateIf_mem _ _ _) (fun _ _ => by simp) _
@[simp] theorem execCflush_keepsMem (c : Ctl) (a : Option VK) (off : Word) (sc : Scope) (s : State) : KeepsMem s (execCflush c a off sc s) :=
  keepsMem_issue fun _ => by simp
@[simp] theorem execCinv_keepsMem (c : Ctl) (a : Option VK) (off : Word) (sc : Scope) (s : State) : KeepsMem s (execCinv c a off sc s) :=
  keepsMem_issue fun _ => by simp
@[simp] theorem execPref_keepsMem (c : Ctl) (a : VK) (off : Word) (l2 : Bool) (s : State) : KeepsMem s (execPref c a off l2 s) :=
  keepsMem_issue fun x => by
  dsimp only
  split
  · simp
  · rw [retire_mem]
    refine foldl_mem _ (fun s va => ?_) _ _
    split <;> rename_i h <;> simp [mem_of_pair h]
@[simp] theorem execSeqr_keepsMem (c : Ctl) (d : VK) (s : State) : KeepsMem s (execSeqr c d s) := keepsMem_issue fun _ => by simp

/-! The register block. -/

/-- A register write that starts nothing sets registers and shadows only. -/
theorem regSet_mem {s t : State} {o : Nat} {mask v : DWord} (h : regSet s o mask v = some t) : t.mem = s.mem := by
  have keeps : KeepsIf s (regSet s o mask v) := by
    unfold regSet
    dsimp only
    repeat' apply keepsIf_ite
    all_goals simp
  exact keeps t h

/-! Replies to loads. -/

@[simp] theorem partFill_mem (s : State) (core : Nat) (p : LoadPart) (line : LineData) (poison : BitVec 4) (took : Nat) :
    (partFill s core p line poison took).mem = s.mem := by
  simp [partFill]
@[simp] theorem partDone_mem (s : State) (core slot op : Nat) (o : Op) (parts : List LoadPart) (elems : List LoadElem) (size : Nat) (signed : Bool)
    (dst : List RegRef) (i : Nat) (p : LoadPart) (line : LineData) (poison : BitVec 4) (took : Nat) :
    (partDone s core slot op o parts elems size signed dst i p line poison took).mem = s.mem := by
  simp [partDone]
@[simp] theorem weightReply_mem (s : State) (core slot op : Nat) (elems : List (Nat × Nat)) (size : Nat) (signed : Bool) (dst : List RegRef)
    (corrected : Nat) (bad : List Nat) :
    (weightReply s core slot op elems size signed dst corrected bad).mem = s.mem := by
  simp [weightReply]
@[simp] theorem atomicReply_mem (s : State) (core slot op : Nat) (o : Op) (r : Req) (old : DWord) (bad : Bool) (lane : Nat) :
    (atomicReply s core slot op o r old bad lane).mem = s.mem := by
  unfold atomicReply
  split <;> simp
@[simp] theorem prefetchReply_mem (s : State) (core id : Nat) : (prefetchReply s core id).mem = s.mem := by
  unfold prefetchReply
  (repeat' split) <;> simp
@[simp] theorem answerRemote_mem (s : State) (r : Req) (ext : List Byte) (bad : List Nat) : (answerRemote s r ext bad).mem = s.mem := by
  unfold answerRemote
  (repeat' split) <;> simp
@[simp] theorem postMsg_mem (s : State) (m : PipeMsg) (plan pipe fromDie toDie : Nat) : (postMsg s m plan pipe fromDie toDie).mem = s.mem := by
  simp [postMsg]
@[simp] theorem pstatReply_mem (s : State) (core slot op k plan pipe : Nat) (what : PstatWhat) :
    (pstatReply s core slot op k plan pipe what).mem = s.mem := by
  unfold pstatReply
  (repeat' split) <;> simp
@[simp] theorem execLoadReply_keepsMem (core slot op part : Nat) (ext : Answer) (s : State) : KeepsMem s (execLoadReply core slot op part ext s) :=
  keepsMem_event (by
  dsimp only
  (repeat' split) <;> simp)

/-! The matrix instruction of a skein. -/

@[simp] theorem endMatrix_mem (s : State) (core slot : Nat) : (endMatrix s core slot).mem = s.mem := by
  unfold endMatrix
  split <;> simp
@[simp] theorem resumeMatrix_mem (s : State) (core slot : Nat) : (resumeMatrix s core slot).mem = s.mem := by
  unfold resumeMatrix
  split <;> simp

/-! Fetching. -/

@[simp] theorem fetchBytes_mem (core slot path ctx k : Nat) : ∀ (s : State) (a n : Nat), (fetchBytes s core slot path ctx a n k).2.mem = s.mem := by
  induction k with
  | zero => exact fun _ _ _ => rfl
  | succ k ih =>
    intro s a n
    unfold fetchBytes
    split
    · rfl
    · dsimp only
      split <;> rename_i h
      · simp [mem_of_pair h]
      · simp [mem_of_pair h]
      · split <;> rename_i g
        · simp [mem_of_pair g, mem_of_pair h]
        · split <;> rename_i f <;> simp [mem_of_pair f, ih, mem_of_pair g, mem_of_pair h]
@[simp] theorem endFetch_mem (s : State) (core slot path : Nat) : (endFetch s core slot path).mem = s.mem := by simp [endFetch]
@[simp] theorem ageAfter_mem (core q : Nat) (ready : List (Nat × Nat)) (slot path : Nat) (s : State) :
    (ageAfter core q ready slot path s).mem = s.mem := by
  simp [ageAfter]
@[simp] theorem clearYields_mem (core q : Nat) (s : State) : (clearYields core q s).mem = s.mem := by simp [clearYields]
@[simp] theorem afterIssue_mem (core slot path : Nat) (before s : State) : (afterIssue core slot path before s).mem = s.mem := by simp [afterIssue]

/-! STITCH. -/

@[simp] theorem execStitch_keepsMem (c : Ctl) (d a : Nat) (t : Bool) (s : State) : KeepsMem s (execStitch c d a t s) :=
  keepsMem_issue fun _ => by simp
@[simp] theorem stitchRetire_mem (x : Ctx) (s : State) : (stitchRetire x s).mem = s.mem := by
  unfold stitchRetire
  (repeat' split) <;> simp

/-! Deferred faults. -/

theorem reportAt_mem {x : Ctx} {p : CopyFault → Bool} {mat : Bool} {s t : State} (h : reportAt x p mat s = some t) : t.mem = s.mem := by
  unfold reportAt at h
  repeat' split at h
  all_goals cases h
  all_goals simp
theorem stoppedMatrix_mem {x : Ctx} {m : BitVec 12} {s t : State} {i : TrapInfo} (h : stoppedMatrix x m s = some (i, t)) : t.mem = s.mem := by
  unfold stoppedMatrix at h
  repeat' split at h
  all_goals cases h
  all_goals simp
@[simp] theorem execClauseIssue_keepsMem (h : Header) (s : State) : KeepsMem s (execClauseIssue h s) := by
  unfold execClauseIssue clauseIssueWith
  split
  · simp
  · dsimp only
    split <;> rename_i f
    · simp [mem_of_pair f]
    · simp [mem_of_pair f]
    · split
      · simp [mem_of_pair f]
      · split
        · simp [mem_of_pair f]
        · split <;> rename_i g
          · simp [stoppedMatrix_mem g, mem_of_pair f]
          · simp [mem_of_pair f]

end Sys2Proof.Machine
end

section
/-! PROOFS. The operations of copies, matrix work, pipes, tasks and groups leave memory as it is (for O59). -/

namespace Sys2Proof.Machine

/-! Tiles and copy engines. -/

@[simp] theorem updTile_mem (s : State) (core t : Nat) (f : TileEntry → TileEntry) : (updTile s core t f).mem = s.mem := by simp [updTile]
@[simp] theorem beginCopy_mem (x : Ctx) (c : Ctl) (ctr : Nat) (mk : Copy → Copy) (s : State) : (beginCopy x c ctr mk s).mem = s.mem := by
  simp [beginCopy]
@[simp] theorem startFill_mem (s : State) (core t : Nat) : (startFill s core t).mem = s.mem := by simp [startFill]
@[simp] theorem startDrain_mem (s : State) (core t : Nat) : (startDrain s core t).mem = s.mem := by simp [startDrain]
@[simp] theorem memCopy_mem (x : Ctx) (c : Ctl) (kind : CopyKind) (ctr t : Nat) (inbound : Bool) (pol : CPol) (rows : List CopyRow)
    (addrs : List (Nat × Nat)) (extra : Option TrapInfo) (s : State) :
    (memCopy x c kind ctr t inbound pol rows addrs extra s).mem = s.mem := by
  unfold memCopy
  split
  · rename_i h
    exact reportAt_mem h
  · (repeat' split) <;> simp
@[simp] theorem execTload_keepsMem (c : Ctl) (d a pitch : Nat) (cp : CPol) (s : State) : KeepsMem s (execTload c d a pitch cp s) :=
  keepsMem_issue fun _ => by simp
@[simp] theorem execTstore_keepsMem (c : Ctl) (a b pitch : Nat) (cp : CPol) (s : State) : KeepsMem s (execTstore c a b pitch cp s) :=
  keepsMem_issue fun _ => by simp
@[simp] theorem execTgather_keepsMem (c : Ctl) (d a b : Nat) (cp : CPol) (s : State) : KeepsMem s (execTgather c d a b cp s) :=
  keepsMem_issue fun _ => by simp
@[simp] theorem execTscat_keepsMem (c : Ctl) (a b cc : Nat) (cp : CPol) (s : State) : KeepsMem s (execTscat c a b cc cp s) :=
  keepsMem_issue fun _ => by simp
@[simp] theorem execTpeer_keepsMem (c : Ctl) (d a peer : Nat) (s : State) : KeepsMem s (execTpeer c d a peer s) := keepsMem_issue fun x => by
  dsimp only
  split
  · rename_i h
    exact reportAt_mem h
  · (repeat' split) <;> simp
@[simp] theorem execTfill_keepsMem (c : Ctl) (d : Nat) (a : Src) (s : State) : KeepsMem s (execTfill c d a s) := keepsMem_issue fun x => by
  split
  · rename_i h
    exact reportAt_mem h
  · (repeat' split) <;> simp
@[simp] theorem emptyTile_mem (s : State) (core t : Nat) : (emptyTile s core t).mem = s.mem := by simp [emptyTile]
@[simp] theorem execTrel_keepsMem (c : Ctl) (d : Nat) (s : State) : KeepsMem s (execTrel c d s) := keepsMem_issue fun x => by
  split
  · rename_i h
    exact reportAt_mem h
  · (repeat' split) <;> simp
@[simp] theorem updCopy_mem (s : State) (core op : Nat) (f : Copy → Copy) : (updCopy s core op f).mem = s.mem := by simp [updCopy]
@[simp] theorem watchCopy_mem (s : State) (core : Nat) (c : Copy) (write : Bool) (va n : Nat) : (watchCopy s core c write va n).mem = s.mem := by
  unfold watchCopy
  split
  · rfl
  · split <;> rename_i h <;> simp [mem_of_pair h]
@[simp] theorem pieceSent_mem (s : State) (core op : Nat) : (pieceSent s core op).mem = s.mem := by simp [pieceSent]
@[simp] theorem pieceBad_mem (s : State) (core op code va : Nat) : (pieceBad s core op code va).mem = s.mem := by simp [pieceBad]
@[simp] theorem postCopy_mem (s : State) (core : Nat) (c : Copy) (kind : ReqKind) (pa : Nat) : (postCopy s core c kind pa).mem = s.mem := by
  simp [postCopy]
@[simp] theorem inPiece_mem (s : State) (core : Nat) (c : Copy) (e : EngineLine) (p : Nat × Option Nat × Nat × Nat) :
    (inPiece s core c e p).mem = s.mem := by
  unfold inPiece
  split
  · simp
  · split <;> rename_i h
    · simp [mem_of_pair h]
    · simp [mem_of_pair h]
    · (repeat' split) <;> simp [mem_of_pair h]
@[simp] theorem outPiece_mem (s : State) (core : Nat) (c : Copy) (rb : Nat) (p : Nat × Option Nat × Nat × Nat) :
    (outPiece s core c rb p).mem = s.mem := by
  unfold outPiece
  split
  · simp
  · split <;> rename_i h <;> simp [mem_of_pair h]
@[simp] theorem landRows_mem (s : State) (core : Nat) (c : Copy) (rb : Nat) : (landRows s core c rb).mem = s.mem := by simp [landRows, foldl_mem]
@[simp] theorem landLines_mem (s : State) (core : Nat) (c : Copy) (size : Nat) : (landLines s core c size).mem = s.mem := by
  simp [landLines, foldl_mem]
@[simp] theorem peerPiece_mem (s : State) (core : Nat) (c : Copy) (p t size : Nat) : (peerPiece s core c p t size).mem = s.mem := by simp [peerPiece]
@[simp] theorem postSlot_mem (s : State) (core : Nat) (c : Copy) (plan pipe : Nat) (p : Pipe) (kind : ReqKind) (slot : Nat) :
    (postSlot s core c plan pipe p kind slot).mem = s.mem := by
  simp [postSlot]
@[simp] theorem pushPiece_mem (s : State) (core : Nat) (c : Copy) (plan pipe slot size : Nat) :
    (pushPiece s core c plan pipe slot size).mem = s.mem := by
  unfold pushPiece
  split <;> simp
@[simp] theorem popPiece_mem (s : State) (core : Nat) (c : Copy) (plan pipe slot : Nat) (spilled : Bool) :
    (popPiece s core c plan pipe slot spilled).mem = s.mem := by
  unfold popPiece
  split
  · split
    · dsimp only
      split <;> rename_i h <;> simp [mem_of_pair h]
    · simp
  · rfl
@[simp] theorem sendPiece_mem (s : State) (core : Nat) (c : Copy) (el : EngineLine) : (sendPiece s core c el).mem = s.mem := by
  unfold sendPiece
  dsimp only
  (repeat' split) <;> simp
@[simp] theorem landPieces_mem (s : State) (core : Nat) (c : Copy) : (landPieces s core c).mem = s.mem := by
  unfold landPieces
  split <;> simp
@[simp] theorem execCopyLineTransfer_keepsMem (core : Nat) (eng : EngineLine) (s : State) : KeepsMem s (execCopyLineTransfer core eng s) :=
  keepsMem_event (by
  dsimp only
  (repeat' split) <;> simp)
@[simp] theorem closeCopy_mem (s : State) (core : Nat) (c : Copy) : (closeCopy s core c).mem = s.mem := by simp [closeCopy]
@[simp] theorem fillDone_mem (s : State) (core t : Nat) (poison fault : Bool) : (fillDone s core t poison fault).mem = s.mem := by simp [fillDone]
@[simp] theorem drainDone_mem (s : State) (core t : Nat) (fault : Bool) : (drainDone s core t fault).mem = s.mem := by simp [drainDone]
@[simp] theorem execCopyComplete_keepsMem (core op : Nat) (s : State) : KeepsMem s (execCopyComplete core op s) := keepsMem_event (by
  split
  · rfl
  · rename_i c _
    dsimp only
    split
    · rfl
    · cases c.kind <;> simp)

/-! The matrix unit. -/

@[simp] theorem updAcc_mem (s : State) (core n : Nat) (f : AccTile → AccTile) : (updAcc s core n f).mem = s.mem := by simp [updAcc]
@[simp] theorem beginMatrix_mem (x : Ctx) (c : Ctl) (kind : MatKind) (ad : Option AdRef) (s : State) : (beginMatrix x c kind ad s).mem = s.mem := by
  unfold beginMatrix
  dsimp only
  (repeat' split) <;> simp [foldl_mem]
@[simp] theorem matrixGo_mem (x : Ctx) (c : Ctl) (kind : MatKind) (ad : Option AdRef) (s : State) : (matrixGo x c kind ad s).mem = s.mem := by
  unfold matrixGo
  dsimp only
  split
  · rename_i h
    exact reportAt_mem h
  · simp
@[simp] theorem execMma_keepsMem (c : Ctl) (d a b : Nat) (last : Bool) (ad : Option AdRef) (s : State) : KeepsMem s (execMma c d a b last ad s) :=
  keepsMem_issue fun _ => by simp
@[simp] theorem execMmac_keepsMem (c : Ctl) (d a b fs : Nat) (last : Bool) (ad : Option AdRef) (s : State) :
    KeepsMem s (execMmac c d a b fs last ad s) :=
  keepsMem_issue fun _ => by simp
@[simp] theorem execAccz_keepsMem (c : Ctl) (d : Nat) (s : State) : KeepsMem s (execAccz c d s) := keepsMem_issue fun _ => by simp
@[simp] theorem execAccl_keepsMem (c : Ctl) (d a : Nat) (s : State) : KeepsMem s (execAccl c d a s) := keepsMem_issue fun _ => by simp
@[simp] theorem execAccd_keepsMem (c : Ctl) (d a fs : Nat) (s : State) : KeepsMem s (execAccd c d a fs s) := keepsMem_issue fun _ => by simp
theorem adPut_mem {s t : State} {die owner : Nat} {c : ChunkTag} {bytes : List Byte} {users : List (Nat × Nat)}
    (h : adPut s die owner c bytes users = some t) : t.mem = s.mem := by
  unfold adPut at h
  dsimp only at h
  repeat' split at h
  all_goals cases h
  all_goals rfl
@[simp] theorem adDrop_mem (s : State) (ctx : Option Nat) : (adDrop s ctx).mem = s.mem := by simp [adDrop, foldl_mem]
@[simp] theorem readHeader_mem (s : State) (a : Agent) (core ctx table : Nat) : (readHeader s a core ctx table).2.mem = s.mem := by simp [readHeader]
@[simp] theorem readEntry_mem (s : State) (a : Agent) (core ctx table ident layer layers : Nat) :
    (readEntry s a core ctx table ident layer layers).2.mem = s.mem := by
  simp [readEntry]
@[simp] theorem readEntries_mem (a : Agent) (core ctx table layer layers count : Nat) (fits : AdEntry → Bool) (l : List Nat) : ∀ s : State,
    (readEntries s a core ctx table layer layers count fits l).2.mem = s.mem := by
  induction l with
  | nil => exact fun _ => rfl
  | cons n r ih =>
    intro s
    unfold readEntries
    dsimp only
    split
    · rfl
    · simp [ih]
@[simp] theorem beginFills_mem (s : State) (core slot op : Nat) (l : List (AdEntry × ChunkTag)) : (beginFills s core slot op l).2.mem = s.mem := by
  simp [beginFills]
@[simp] theorem useChunks_mem (s : State) (core slot : Nat) (ts : List ChunkTag) : (useChunks s core slot ts).mem = s.mem := by simp [useChunks]
@[simp] theorem lookUp_mem (s : State) (core slot : Nat) (sk : Skein) (m : MatOp) (layer kap nu : Nat) :
    (lookUp s core slot sk m layer kap nu).mem = s.mem := by
  unfold lookUp
  dsimp only
  split
  · simp
  · split
    · simp
    · split <;> rename_i h
      · simp [mem_of_pair h]
      · simp [mem_of_pair h]
      · simp [mem_of_pair h]
      · split <;> rename_i g <;> simp [mem_of_pair g, mem_of_pair h]
@[simp] theorem adpfEntry_mem (s : State) (a : Agent) (core : Nat) (l : Launch) (ident layer : Nat) :
    (adpfEntry s a core l ident layer).2.mem = s.mem := by
  unfold adpfEntry
  split
  · rfl
  · split <;> rename_i h
    · split <;> rename_i g <;> simp [mem_of_pair g, mem_of_pair h]
    · simp [mem_of_pair h]
    · simp [mem_of_pair h]
@[simp] theorem adpfStep_mem (core slot : Nat) (s : State) (op : Nat) : (adpfStep core slot s op).mem = s.mem := by
  unfold adpfStep
  split
  · split
    · dsimp only
      split <;> rename_i h
      · simp [mem_of_pair h]
      · split <;> simp [mem_of_pair h]
    · rfl
  · rfl
@[simp] theorem execAdapterEntriesRead_keepsMem (core slot : Nat) (s : State) : KeepsMem s (execAdapterEntriesRead core slot s) := keepsMem_event (by
  dsimp only
  (repeat' split) <;> simp [foldl_mem])
@[simp] theorem fillEnded_mem (s : State) (core : Nat) (f : ChunkFill) (fault : Option MatFault) (direct : Option (List Byte)) :
    (fillEnded s core f fault direct).mem = s.mem := by
  unfold fillEnded
  dsimp only
  (repeat' split) <;> simp
@[simp] theorem execAdapterChunkFill_keepsMem (core slot fill : Nat) (s : State) : KeepsMem s (execAdapterChunkFill core slot fill s) :=
  keepsMem_event (by
  split
  · rfl
  · split <;> rename_i h
    · simp [mem_of_pair h]
    · dsimp only
      split
      · simp [mem_of_pair h]
      · split
        · rename_i put
          split at put
          · cases put
          · simp [adPut_mem put, mem_of_pair h]
        · simp [mem_of_pair h])
@[simp] theorem afterUnit_mem (s : State) (core slot : Nat) (sk : Skein) (m : MatOp) (t : AccTile) (f : MatOp → MatOp) :
    (afterUnit s core slot sk m t f).mem = s.mem := by
  simp [afterUnit]
@[simp] theorem execBaseKStep_keepsMem (core slot : Nat) (s : State) : KeepsMem s (execBaseKStep core slot s) := keepsMem_event (by split <;> simp)
@[simp] theorem execHitLastTerms_keepsMem (core slot : Nat) (s : State) : KeepsMem s (execHitLastTerms core slot s) := keepsMem_event (by
  dsimp only
  (repeat' split) <;> simp)
@[simp] theorem execReplayIdentifierWork_keepsMem (core slot : Nat) (s : State) : KeepsMem s (execReplayIdentifierWork core slot s) :=
  keepsMem_event (by
  dsimp only
  (repeat' split) <;> simp)
@[simp] theorem accWork_mem (s : State) (core : Nat) (sk : Skein) (m : MatOp) : (accWork s core sk m).mem = s.mem := by
  unfold accWork
  split <;> simp
@[simp] theorem execMatrixRetire_keepsMem (core slot : Nat) (s : State) : KeepsMem s (execMatrixRetire core slot s) :=
  keepsMem_event (by split <;> simp)
@[simp] theorem execAdpf_keepsMem (c : Ctl) (a b : Src) (what : AdpfWhat) (s : State) : KeepsMem s (execAdpf c a b what s) :=
  keepsMem_issue fun _ => by simp

/-! Pipes. -/

@[simp] theorem settlePipe_mem (s : State) (plan pipe : Nat) : (settlePipe s plan pipe).mem = s.mem := by simp [settlePipe]
@[simp] theorem raiseFree_mem (s : State) (plan pipe k : Nat) : (raiseFree s plan pipe k).mem = s.mem := by
  unfold raiseFree
  (repeat' split) <;> simp [foldl_mem]
@[simp] theorem commitPush_mem (s : State) (plan pipe : Nat) (slots : List Nat) : (commitPush s plan pipe slots).mem = s.mem := by
  unfold commitPush
  split <;> simp
@[simp] theorem releaseTile_mem (s : State) (plan pipe slot : Nat) (spilled : Bool) : (releaseTile s plan pipe slot spilled).mem = s.mem := by
  simp [releaseTile]
@[simp] theorem returnTile_mem (s : State) (plan pipe slot : Nat) (spilled : Bool) : (returnTile s plan pipe slot spilled).mem = s.mem := by
  simp [returnTile]
@[simp] theorem unreserve_mem (s : State) (plan pipe slot : Nat) : (unreserve s plan pipe slot).mem = s.mem := by simp [unreserve]
@[simp] theorem freePush_mem (s : State) (plan pipe slot : Nat) : (freePush s plan pipe slot).mem = s.mem := by
  unfold freePush
  split <;> simp
@[simp] theorem stampHome_mem (s : State) (plan pipe : Nat) : (stampHome s plan pipe).mem = s.mem := by simp [stampHome]
@[simp] theorem toHome_mem (s : State) (m : PipeMsg) (plan pipe : Nat) (p : Pipe) (core : Nat) : (toHome s m plan pipe p core).mem = s.mem := by
  simp [toHome]
@[simp] theorem toCore_mem (s : State) (m : PipeMsg) (plan pipe : Nat) (p : Pipe) (core : Nat) : (toCore s m plan pipe p core).mem = s.mem := by
  simp [toCore]
@[simp] theorem askHome_mem (s : State) (x : Ctx) (plan pipe : Nat) (p : Pipe) (push : Bool) : (askHome s x plan pipe p push).mem = s.mem := by
  simp [askHome]
@[simp] theorem endAsk_mem (x : Ctx) (plan pipe : Nat) (push : Bool) (s : State) : (endAsk x plan pipe push s).mem = s.mem := by simp [endAsk]
@[simp] theorem takeAsks_mem (s : State) (plan pipe : Nat) : (takeAsks s plan pipe).mem = s.mem := by
  unfold takeAsks
  exact foldl_mem _ (fun _ _ => by (repeat' split) <;> simp) _ _
@[simp] theorem dropPipeWaits_mem (core slot : Nat) (s : State) : (dropPipeWaits core slot s).mem = s.mem := by simp [dropPipeWaits, foldl_mem]
@[simp] theorem execPpush_keepsMem (c : Ctl) (a q : Nat) (s : State) : KeepsMem s (execPpush c a q s) := keepsMem_issue fun x => by
  split
  · rfl
  · split
    · (repeat' split) <;> simp
    · split
      · rename_i h
        exact reportAt_mem h
      · (repeat' split) <;> simp
@[simp] theorem execPpop_keepsMem (c : Ctl) (d q : Nat) (s : State) : KeepsMem s (execPpop c d q s) := keepsMem_issue fun x => by
  split
  · rfl
  · split
    · (repeat' split) <;> simp
    · split
      · rename_i h
        exact reportAt_mem h
      · (repeat' split) <;> simp
@[simp] theorem execPstat_keepsMem (c : Ctl) (d q : Nat) (what : PstatWhat) (s : State) : KeepsMem s (execPstat c d q what s) :=
  keepsMem_issue fun _ => by
  dsimp only
  split <;> simp
@[simp] theorem execPwait_keepsMem (c : Ctl) (q : Nat) (filled : Bool) (s : State) : KeepsMem s (execPwait c q filled s) := keepsMem_issue fun _ => by
  dsimp only
  split <;> simp
theorem keepsMem_changePipe (c : Ctl) (q : Nat) (close : Bool) (s : State) : KeepsMem s (changePipe c q close s) := keepsMem_issue fun x => by
  split
  · rfl
  · split
    · simp
    · dsimp only
      split <;> simp
@[simp] theorem setPipeState_mem (s : State) (plan pipe : Nat) (close : Bool) : (setPipeState s plan pipe close).mem = s.mem := by simp [setPipeState]
@[simp] theorem endChange_mem (s : State) (plan pipe : Nat) (p : Pipe) (h : PipeChange) : (endChange s plan pipe p h).mem = s.mem := by
  unfold endChange
  split <;> simp
@[simp] theorem takeChanges_mem (s : State) (plan pipe : Nat) : (takeChanges s plan pipe).mem = s.mem := by
  unfold takeChanges
  exact foldl_mem _ (fun _ _ => by (repeat' split) <;> simp) _ _
@[simp] theorem applyChange_mem (s : State) (plan pipe : Nat) (p : Pipe) : (applyChange s plan pipe p).mem = s.mem := by
  unfold applyChange
  split <;> simp
@[simp] theorem execPipeHomeStateChange_keepsMem (plan pipe : Nat) (s : State) : KeepsMem s (execPipeHomeStateChange plan pipe s) :=
  keepsMem_event (by
  dsimp only
  (repeat' split) <;> simp)
@[simp] theorem closeStagePipe_mem (s : State) (plan pipe : Nat) (p : Pipe) : (closeStagePipe s plan pipe p).mem = s.mem := by simp [closeStagePipe]
@[simp] theorem postLine_mem (s : State) (plan pipe : Nat) (p : Pipe) (slot i : Nat) (bs : List Byte) :
    (postLine s plan pipe p slot i bs).mem = s.mem := by
  simp [postLine]
@[simp] theorem inboxLine_mem (s : State) (plan pipe : Nat) (p : Pipe) : (inboxLine s plan pipe p).mem = s.mem := by
  unfold inboxLine
  (repeat' split) <;> simp
@[simp] theorem inboxCommit_mem (s : State) (plan pipe : Nat) (p : Pipe) : (inboxCommit s plan pipe p).mem = s.mem := by
  unfold inboxCommit
  (repeat' split) <;> simp [foldl_mem]
@[simp] theorem answerGrant_mem (s : State) (plan pipe : Nat) (p : Pipe) (w : PipeWait) (push : Bool) :
    (answerGrant s plan pipe p w push).mem = s.mem := by
  simp [answerGrant]
@[simp] theorem execPipePushReserve_keepsMem (plan pipe : Nat) (s : State) : KeepsMem s (execPipePushReserve plan pipe s) := keepsMem_event (by
  dsimp only
  (repeat' split) <;> simp)
@[simp] theorem execPipePopReserve_keepsMem (plan pipe : Nat) (s : State) : KeepsMem s (execPipePopReserve plan pipe s) := keepsMem_event (by
  dsimp only
  (repeat' split) <;> simp)
/-- A commit or a completion of a copy at the home changes no byte of memory where neither its act nor its close does. -/
theorem performAt_mem (s : State) (core : Nat) (c : Copy) (plan pipe : Nat) (push : Bool) {act close : State → State}
    (hact : ∀ s, (act s).mem = s.mem) (hclose : ∀ s, (close s).mem = s.mem) : (performAt s core c plan pipe push act close).mem = s.mem := by
  unfold performAt
  dsimp only
  (repeat' split) <;> simp [hact, hclose]
@[simp] theorem execPipePushCommit_keepsMem (core : Nat) (op : PushRef) (s : State) : KeepsMem s (execPipePushCommit core op s) := keepsMem_event (by
  split
  · rename_i pipe
    cases pipeOf s core pipe <;> simp
  · split
    · rfl
    · split
      · exact performAt_mem _ _ _ _ _ _ (fun s => by split <;> simp) (fun s => by simp)
      · rfl)
@[simp] theorem execPipePopComplete_keepsMem (core op : Nat) (s : State) : KeepsMem s (execPipePopComplete core op s) := keepsMem_event (by
  split
  · rfl
  · split
    · exact performAt_mem _ _ _ _ _ _ (fun s => by split <;> simp) (fun s => by simp)
    · rfl)
@[simp] theorem execPipeCredit_keepsMem (plan pipe filled : Nat) (s : State) : KeepsMem s (execPipeCredit plan pipe filled s) := keepsMem_event (by
  dsimp only
  split <;> simp)
@[simp] theorem recvPipe_mem (s : State) (src vc pipe : Nat) (m : PipeIn) : (recvPipe s src vc pipe m).mem = s.mem := by
  unfold recvPipe
  split <;> simp
@[simp] theorem recvCredit_mem (s : State) (src vc pipe filled : Nat) : (recvCredit s src vc pipe filled).mem = s.mem := by simp [recvCredit]
@[simp] theorem recvApplied_mem (s : State) (src vc pipe : Nat) : (recvApplied s src vc pipe).mem = s.mem := by
  unfold recvApplied
  (repeat' split) <;> simp
@[simp] theorem recvSample_mem (s : State) (src vc pipe filled : Nat) : (recvSample s src vc pipe filled).mem = s.mem := by
  unfold recvSample
  split <;> simp

/-! Tasks, barriers and special registers. -/

@[simp] theorem execBaste_keepsMem (c : Ctl) (s : State) : KeepsMem s (execBaste c s) := keepsMem_issue fun _ => by simp
@[simp] theorem execHem_keepsMem (c : Ctl) (s : State) : KeepsMem s (execHem c s) := keepsMem_issue fun _ => by simp
@[simp] theorem unpinVersions_mem (s : State) (key : Nat) : (unpinVersions s key).mem = s.mem := by simp [unpinVersions]
@[simp] theorem publishWindow_mem (core slot : Nat) (s : State) (v : Nat × LMask × LineData) : (publishWindow core slot s v).mem = s.mem := by
  unfold publishWindow
  split <;> simp
@[simp] theorem tellHomes_mem (s : State) (core slot : Nat) (sk : Skein) : (tellHomes s core slot sk).mem = s.mem := by
  unfold tellHomes
  exact foldl_mem _ (fun _ _ => by (repeat' split) <;> simp) _ _
@[simp] theorem forgetTask_mem (s : State) (core slot : Nat) : (forgetTask s core slot).mem = s.mem := by simp [forgetTask]
@[simp] theorem publishPipe_mem (held : List (Bool × Nat × Nat × Nat)) (s : State) (e : Nat × Nat) : (publishPipe held s e).mem = s.mem := by
  simp [publishPipe, foldl_mem]
@[simp] theorem beginPublish_mem (core slot : Nat) (s : State) : (beginPublish core slot s).mem = s.mem := by
  unfold beginPublish
  (repeat' split) <;> simp [foldl_mem]
@[simp] theorem readyPublish_mem (core slot : Nat) (s : State) : (readyPublish core slot s).mem = s.mem := by
  unfold readyPublish
  split <;> simp
@[simp] theorem endPublish_mem (core slot : Nat) (s : State) : (endPublish core slot s).mem = s.mem := by
  unfold endPublish
  split <;> simp
@[simp] theorem discardHeld_mem (s : State) (h : Bool × Nat × Nat × Nat) : (discardHeld s h).mem = s.mem := by simp [discardHeld]
@[simp] theorem discardTask_mem (s : State) (core slot : Nat) (sk : Skein) : (discardTask s core slot sk).mem = s.mem := by
  simp [discardTask, foldl_mem]
@[simp] theorem execTaskDiscard_keepsMem (core slot : Nat) (s : State) : KeepsMem s (execTaskDiscard core slot s) := keepsMem_event (by
  dsimp only
  split <;> simp)
@[simp] theorem setPoint_mem (s : State) (x : Ctx) (d : Nat) (p : Rendezvous) : (setPoint s x d p).mem = s.mem := by simp [setPoint]
@[simp] theorem execBarInit_keepsMem (c : Ctl) (d : Nat) (a : Src) (s : State) : KeepsMem s (execBarInit c d a s) := keepsMem_issue fun _ => by simp
@[simp] theorem releasePoint_mem (x : Ctx) (d phase : Nat) (s : State) : (releasePoint x d phase s).mem = s.mem := by simp [releasePoint]
@[simp] theorem execBarArrive_keepsMem (c : Ctl) (d : Nat) (s : State) : KeepsMem s (execBarArrive c d s) := keepsMem_issue fun _ => by simp
@[simp] theorem execBarWait_keepsMem (c : Ctl) (d : Nat) (s : State) : KeepsMem s (execBarWait c d s) := keepsMem_issue fun _ => by
  dsimp only
  (repeat' split) <;> simp
@[simp] theorem execWaitc_keepsMem (c : Ctl) (a m : Nat) (s : State) : KeepsMem s (execWaitc c a m s) := keepsMem_issue fun x => by
  split
  · rename_i h
    exact reportAt_mem h
  · split <;> simp
@[simp] theorem execSread_keepsMem (c : Ctl) (d : VK) (r : Nat) (s : State) : KeepsMem s (execSread c d r s) := keepsMem_issue fun _ => by simp
@[simp] theorem execSwrite_keepsMem (c : Ctl) (a : Src) (r : Nat) (s : State) : KeepsMem s (execSwrite c a r s) := keepsMem_issue fun _ => by
  dsimp only
  (repeat' split) <;> simp

/-! Groups. -/

@[simp] theorem readGroup_mem (s : State) (core slot g : Nat) : (readGroup s core slot g).2.mem = s.mem := by
  unfold readGroup
  dsimp only
  split <;> rename_i h
  · simp [mem_of_pair h]
  · split
    · simp [mem_of_pair h]
    · split <;> rename_i g
      · simp [mem_of_pair g, mem_of_pair h]
      · split <;> simp [mem_of_pair g, mem_of_pair h]
@[simp] theorem groupSend_mem (s : State) (dest vc g gen : Nat) (t : GroupTile) : (groupSend s dest vc g gen t).mem = s.mem := by
  simp [groupSend, foldl_mem]
@[simp] theorem sendTile_mem (s : State) (d : GroupDesc) (g gen : Nat) (op : CollOp) (t : GroupTile) : (sendTile s d g gen op t).mem = s.mem := by
  simp [sendTile, foldl_mem]
@[simp] theorem joinUse_mem (s : State) (d : GroupDesc) (g gen : Nat) (op : CollOp) : (joinUse s d g gen op).mem = s.mem := by simp [joinUse]
@[simp] theorem refuseUse_mem (x : Ctx) (d : Nat) (s : State) : (refuseUse x d s).mem = s.mem := by simp [refuseUse]
@[simp] theorem execColl_keepsMem (c : Ctl) (d a b : Nat) (op : CollOp) (s : State) : KeepsMem s (execColl c d a b op s) := keepsMem_issue fun x => by
  split
  · rename_i h
    exact reportAt_mem h
  · dsimp only
    split <;> rename_i h
    · simp [mem_of_pair h]
    · (repeat' split) <;> simp [mem_of_pair h]
@[simp] theorem closeColl_mem (s : State) (core : Nat) (k : Copy) (bad : Bool) : (closeColl s core k bad).mem = s.mem := by simp [closeColl]
@[simp] theorem sendResult_mem (s : State) (u : CollUse) (group gen : Nat) (tiles : NMap GroupTile) :
    (sendResult s u group gen tiles).mem = s.mem := by
  simp [sendResult, foldl_mem]
@[simp] theorem sendMismatch_mem (s : State) (u : CollUse) (group gen : Nat) (msgs : List GroupTile) :
    (sendMismatch s u group gen msgs).mem = s.mem := by
  simp [sendMismatch, foldl_mem]
@[simp] theorem execCollResult_keepsMem (group gen : Nat) (remote : List GroupTile) (s : State) : KeepsMem s (execCollResult group gen remote s) :=
  keepsMem_event (by
  dsimp only
  (repeat' split) <;> simp [foldl_mem])
@[simp] theorem recvGroupTile_mem (s : State) (g gen : Nat) (t : GroupTile) : (recvGroupTile s g gen t).mem = s.mem := by simp [recvGroupTile]

end Sys2Proof.Machine
end

section
/-! PROOFS. The operations of skeins, bolts, the front end and plans leave memory as it is (for O59). -/

namespace Sys2Proof.Machine

/-! Reconvergence. -/

@[simp] theorem spillControl_mem (x : Ctx) (s : State) : (spillControl x s).mem = s.mem := by
  unfold spillControl
  split <;> simp
@[simp] theorem controlMove_mem (s : State) (core slot ctx : Nat) (sk : Skein) (m : ControlMove) :
    (controlMove s core slot ctx sk m).2.mem = s.mem := by
  cases m with
  | spill va _ _ =>
    simp only [controlMove]
    split <;> rename_i h <;> simp [mem_of_pair h]
  | fill va _ _ =>
    simp only [controlMove]
    split <;> rename_i h <;> simp [mem_of_pair h]
  | detail ws =>
    simp only [controlMove]
    split <;> rename_i h
    · simp [mem_of_pair h]
    · simp [mem_of_pair h]
    · split <;> simp [mem_of_pair h]
@[simp] theorem controlFails_mem (core slot : Nat) (sk : Skein) (m : ControlMove) (c : Nat × Nat × Nat) (s : State) :
    (controlFails core slot sk m c s).mem = s.mem := by
  unfold controlFails
  split <;> simp
@[simp] theorem controlStep_mem (core slot : Nat) (s : State) : (controlStep core slot s).mem = s.mem := by
  unfold controlStep
  split
  · rfl
  · split
    · rfl
    · split <;> rename_i h <;> simp [mem_of_pair h]
@[simp] theorem controlTurn_mem (core q : Nat) (s : State) : (controlTurn core q s).mem = s.mem := by simp [controlTurn, foldl_mem]
@[simp] theorem requestFills_mem (core slot : Nat) (s : State) : (requestFills core slot s).mem = s.mem := by
  unfold requestFills
  split <;> simp
@[simp] theorem keepOrders_mem (core slot : Nat) (s : State) : (keepOrders core slot s).mem = s.mem := by
  unfold keepOrders
  split <;> simp
@[simp] theorem commitControl_mem (x : Ctx) (sk : Skein) (s : State) : (commitControl x sk s).mem = s.mem := by simp [commitControl]

/-! The register pool. -/

@[simp] theorem requestTop_mem (x : Ctx) (top : Nat) (s : State) : (requestTop x top s).2.mem = s.mem := by
  unfold requestTop
  dsimp only
  (repeat' split) <;> simp
@[simp] theorem execGrow_keepsMem (c : Ctl) (n : Word) (s : State) : KeepsMem s (execGrow c n s) := keepsMem_issue fun x => by
  dsimp only
  split
  · simp
  · split
    · simp
    · split <;> rename_i h <;> simp [mem_of_pair h]
@[simp] theorem execShrink_keepsMem (c : Ctl) (n : Word) (s : State) : KeepsMem s (execShrink c n s) := keepsMem_issue fun _ => by simp
@[simp] theorem scanMap_mem (core slot path ctx pc k : Nat) : ∀ (s : State) (a : Nat), (scanMap s core slot path ctx a pc k).2.mem = s.mem := by
  induction k with
  | zero => exact fun _ _ => rfl
  | succ k ih =>
    intro s a
    unfold scanMap
    split <;> rename_i h
    · simp [mem_of_pair h]
    · simp [mem_of_pair h]
    · dsimp only
      split <;> simp [ih, mem_of_pair h]
@[simp] theorem frameOf_mem (s : State) (core slot path : Nat) (l : Launch) (pc : Nat) : (frameOf s core slot path l pc).2.mem = s.mem := by
  unfold frameOf
  dsimp only
  split
  · rfl
  · split
    · rename_i h
      simp [mem_of_pair h]
    · simp
@[simp] theorem registerSpill_mem (core slot code va : Nat) (s : State) : (registerSpill core slot code va s).mem = s.mem := by
  unfold registerSpill
  split <;> simp
@[simp] theorem endSpill_mem (core : Nat) (s : State) : (endSpill core s).mem = s.mem := by simp [endSpill]
@[simp] theorem spillGranule_mem (core slot g : Nat) (s : State) : (spillGranule core slot g s).mem = s.mem := by
  unfold spillGranule
  dsimp only
  split
  · simp
  · split
    · simp
    · split
      · split <;> simp
      · split
        · rfl
        · split <;> rename_i h <;> simp [mem_of_pair h]
@[simp] theorem fillGranule_mem (core slot g : Nat) (s : State) : (fillGranule core slot g s).mem = s.mem := by
  unfold fillGranule
  split
  · rfl
  · dsimp only
    split <;> rename_i h <;> simp [mem_of_pair h]
@[simp] theorem orderSpills_mem (core : Nat) (r : RegRequest) (cands : List (Nat × Nat)) (s : State) : (orderSpills core r cands s).mem = s.mem := by
  simp [orderSpills]
@[simp] theorem keepVictims_mem (core : Nat) (s : State) : (keepVictims core s).mem = s.mem := by simp [keepVictims, foldl_mem]
@[simp] theorem grantHead_mem (core : Nat) (s : State) : (grantHead core s).mem = s.mem := by
  unfold grantHead
  dsimp only
  (repeat' split) <;> simp
@[simp] theorem fillGranted_mem (core : Nat) (s : State) : (fillGranted core s).mem = s.mem := by
  unfold fillGranted
  dsimp only
  (repeat' split) <;> simp
@[simp] theorem execRegisterRequestGrant_keepsMem (core : Nat) (s : State) : KeepsMem s (execRegisterRequestGrant core s) := keepsMem_event (by
  dsimp only
  (repeat' split) <;> simp)
@[simp] theorem evictLosers_mem (core : Nat) (s : State) : (evictLosers core s).mem = s.mem := by simp [evictLosers, foldl_mem]
@[simp] theorem execRegisterDeadlockBreak_keepsMem (core : Nat) (s : State) : KeepsMem s (execRegisterDeadlockBreak core s) := keepsMem_event (by
  dsimp only
  (repeat' split) <;> simp)
@[simp] theorem execHeadRequestTimeout_keepsMem (core : Nat) (s : State) : KeepsMem s (execHeadRequestTimeout core s) := keepsMem_event (by
  split
  · rfl
  · split <;> simp)
@[simp] theorem execGranuleSpillComplete_keepsMem (core : Nat) (s : State) : KeepsMem s (execGranuleSpillComplete core s) :=
  keepsMem_event (by split <;> simp)
@[simp] theorem execGranuleRefill_keepsMem (core : Nat) (s : State) : KeepsMem s (execGranuleRefill core s) := keepsMem_event (by
  dsimp only
  (repeat' split) <;> simp)

/-! Bolts, grids and contexts. -/

@[simp] theorem takeResources_mem (s : State) (core g : Nat) (l : Launch) (block : Nat) (tile : TileEntry → TileEntry) :
    (takeResources s core g l block tile).2.2.mem = s.mem := by
  simp [takeResources]
@[simp] theorem admitBolt_mem (s : State) (gn : Nat) (g : Grid) (block core : Nat) : (admitBolt s gn g block core).mem = s.mem := by
  have put (l : List (Nat × Nat)) (u : State) (k : State → Nat × Nat → Skein) : (l.foldl (fun s e => setSkein s core e.1 (k s e)) u).mem = u.mem :=
    foldl_mem _ (fun _ _ => setSkein_mem _ _ _ _) l u
  simp [admitBolt, put]
@[simp] theorem foldl_endAgent_mem {α : Type} (g : α → Agent) (l : List α) (s : State) : (l.foldl (fun s e => endAgent s (g e)) s).mem = s.mem :=
  foldl_mem _ (fun _ _ => endAgent_mem _ _) l s
@[simp] theorem endAgents_mem (s : State) (l : List Agent) : (endAgents s l).mem = s.mem := foldl_endAgent_mem id l s
@[simp] theorem returnResources_mem (s : State) (core bolt : Nat) : (returnResources s core bolt).mem = s.mem := by
  unfold returnResources
  split <;> simp
@[simp] theorem boltRelease_mem (s : State) (core bolt : Nat) (scope : Scope) : (boltRelease s core bolt scope).2.mem = s.mem := by
  unfold boltRelease
  split <;> simp
@[simp] theorem leaveGate_mem (s : State) (g die : Nat) : (leaveGate s g die).mem = s.mem := by simp [leaveGate]
@[simp] theorem execSkeinEnd_keepsMem (core slot : Nat) (s : State) : KeepsMem s (execSkeinEnd core slot s) := keepsMem_event (by
  dsimp only
  (repeat' split) <;> simp)
@[simp] theorem eventWord_mem (s : State) (core bolt : Nat) (b : Bolt) : (eventWord s core bolt b).mem = s.mem := by
  unfold eventWord
  dsimp only
  split
  · simp
  · split
    · simp
    · split <;> rename_i h <;> simp [mem_of_pair h]
@[simp] theorem execBoltEnd_keepsMem (core bolt : Nat) (s : State) : KeepsMem s (execBoltEnd core bolt s) := keepsMem_event (by
  split
  · rfl
  · split
    · rfl
    · split <;> rename_i h
      · simp [mem_of_pair h]
      · dsimp only
        split
        · split <;> simp [mem_of_pair h]
        · (repeat' split) <;> simp [mem_of_pair h])
@[simp] theorem entryDone'_mem (s : State) (q seq : Nat) (failed : Bool) : (entryDone' s q seq failed).mem = s.mem := by simp [entryDone']
@[simp] theorem execGridComplete_keepsMem (grid : Nat) (s : State) : KeepsMem s (execGridComplete grid s) := keepsMem_event (by
  dsimp only
  (repeat' split) <;> simp [foldl_mem])
@[simp] theorem mapRegions_mem (a : Agent) (core ctx base : Nat) (l : List (Nat × List Byte)) : ∀ s :
    State, (mapRegions s a core ctx base l).2.mem = s.mem := by
  induction l with
  | nil => exact fun _ => rfl
  | cons e r ih =>
    intro s
    simp [mapRegions, ih, virtMap_mem]
@[simp] theorem writeContext_mem (s : State) (core bolt : Nat) : (writeContext s core bolt).2.mem = s.mem := by
  have written (a : Agent) (die port : Nat) (owner : State → Nat) (l : List (List VLine × List Byte)) (u : State) :
      (l.foldl (fun s e => writeLines s a die port (owner s) e.1 e.2) u).mem = u.mem := foldl_mem _ (fun _ _ => writeLines_mem _ _ _ _ _ _ _) l u
  unfold writeContext
  split
  · rfl
  · dsimp only
    split
    · rfl
    · split <;> rename_i h
      · simp [mem_of_pair h]
      · rw [updBolt_mem, endAgent_mem, written _ _ _ (fun s => partOf s core)]
        simp [mem_of_pair h]
@[simp] theorem beginStop_mem (s : State) (core bolt : Nat) (k : StopKind) : (beginStop s core bolt k).mem = s.mem := by simp [beginStop, foldl_mem]
@[simp] theorem settleSkein_mem (core : Nat) (s : State) (e : Nat × Skein) : (settleSkein core s e).mem = s.mem := by simp [settleSkein, foldl_mem]
@[simp] theorem abandonAll_mem (s : State) (core bolt : Nat) : (abandonAll s core bolt).mem = s.mem := by simp [abandonAll, foldl_mem]
@[simp] theorem parkRecords_mem (s : State) (core bolt : Nat) (cond : Option (Nat × Nat)) : (parkRecords s core bolt cond).mem = s.mem := by
  have records (f : State → Nat × Skein → State)
    (hf : ∀ s e, (f s e).mem = s.mem) : ((boltSkeins s core bolt).foldl f s).mem = s.mem := foldl_mem f hf _ s
  unfold parkRecords
  dsimp only
  split
  · rw [skeinRecord_mem, records]
    exact fun _ _ => by split <;> simp
  · exact records _ (fun _ _ => by split <;> simp)
@[simp] theorem parkNow_mem (s : State) (core bolt : Nat) : (parkNow s core bolt).mem = s.mem := by
  unfold parkNow
  split
  · rfl
  · split <;> rename_i h <;> simp [mem_of_pair h, foldl_mem]
@[simp] theorem execBoltPark_keepsMem (core bolt : Nat) (s : State) : KeepsMem s (execBoltPark core bolt s) := keepsMem_event (by
  split
  · rfl
  · split <;> rename_i h <;> simp [mem_of_pair h])
@[simp] theorem failSave_mem (s : State) (core bolt : Nat) (c : Nat × Nat) : (failSave s core bolt c).mem = s.mem := by simp [failSave, foldl_mem]
@[simp] theorem saveNow_mem (s : State) (core bolt : Nat) (again : Bool) : (saveNow s core bolt again).mem = s.mem := by
  unfold saveNow
  split
  · rfl
  · split <;> rename_i h
    · simp [mem_of_pair h, foldl_mem]
    · simp [mem_of_pair h, foldl_mem]
    · dsimp only
      split
      · split <;> simp [mem_of_pair h, foldl_mem]
      · simp [mem_of_pair h, foldl_mem]
@[simp] theorem execBoltStop_keepsMem (core bolt : Nat) (s : State) : KeepsMem s (execBoltStop core bolt s) := keepsMem_event (by
  split
  · rfl
  · split
    · rfl
    · rfl
    · split
      · rfl
      · split <;> rename_i h
        · simp [mem_of_pair h]
        · split <;> simp [mem_of_pair h, foldl_mem])
@[simp] theorem readArea_mem (s : State) (a : Agent) (core ctx va n : Nat) : (readArea s a core ctx va n).2.mem = s.mem := by
  unfold readArea
  split <;> rename_i h <;> simp [mem_of_pair h]
@[simp] theorem readAreas_mem (a : Agent) (core ctx base : Nat) (l : List (Nat × Nat)) : ∀ s :
    State, (readAreas s a core ctx base l).2.mem = s.mem := by
  induction l with
  | nil => exact fun _ => rfl
  | cons r l ih => exact fun s => (ih _).trans (readArea_mem _ _ _ _ _ _)
@[simp] theorem readAccs_mem (s : State) (core : Nat) (r : Areas) (accs : List Nat) : (readAccs s core r accs).mem = s.mem := by
  simp [readAccs, foldl_mem]
@[simp] theorem readTiles_mem (s : State) (core : Nat) (r : Areas) (l : Launch) : (readTiles s core r l).mem = s.mem := by simp [readTiles, foldl_mem]
@[simp] theorem holdAgain_mem (s : State) (core slot : Nat) : (holdAgain s core slot).mem = s.mem := by
  unfold holdAgain
  (repeat' split) <;> simp [foldl_mem]
@[simp] theorem restoreBolt_mem (s : State) (gn : Nat) (g : Grid) (v : SavedBolt) (core : Nat) : (restoreBolt s gn g v core).mem = s.mem := by
  unfold restoreBolt
  exact foldl_mem _ (fun _ _ => by (repeat' split) <;> simp) _ _
@[simp] theorem continueRestore_mem (s : State) (v : SavedBolt) : (continueRestore s v).mem = s.mem := by
  unfold continueRestore
  split
  · rfl
  · split
    · rfl
    · dsimp only
      split <;> rename_i h
      · simp [mem_of_pair h]
      · (repeat' split) <;> simp [mem_of_pair h, foldl_mem]
@[simp] theorem gateRequest_mem (s : State) (die : Nat) (w : GateReq) : (gateRequest s die w).mem = s.mem := by simp [gateRequest]
@[simp] theorem gateLeaveWriter_mem (s : State) (die q seq : Nat) : (gateLeaveWriter s die q seq).mem = s.mem := by simp [gateLeaveWriter]
@[simp] theorem execWsGateEnter_keepsMem (die : Nat) (s : State) : KeepsMem s (execWsGateEnter die s) := keepsMem_event (by
  dsimp only
  (repeat' split) <;> simp)
@[simp] theorem execWsRefreshWindowEnd_keepsMem (die group : Nat) (s : State) : KeepsMem s (execWsRefreshWindowEnd die group s) :=
  keepsMem_event (by simp [foldl_mem])

/-! Launch and plan records. -/

@[simp] theorem frontRead_mem (s : State) (g : Agent) (owner ctx a n : Nat) : (frontRead s g owner ctx a n).2.mem = s.mem := by
  unfold frontRead
  split <;> rename_i h <;> simp [mem_of_pair h]
@[simp] theorem acceptDesc_mem (s : State) (g : Agent) (owner ctx : Nat) : (acceptDesc s g owner ctx).2.mem = s.mem := by
  unfold acceptDesc
  split <;> rename_i h <;> simp [mem_of_pair h]
@[simp] theorem readRecord_mem (s : State) (g : Agent) (owner ctx a : Nat) : (readRecord s g owner ctx a).2.mem = s.mem := by
  unfold readRecord
  split <;> rename_i h
  · simp [mem_of_pair h]
  · simp [mem_of_pair h]
  · split <;> simp [mem_of_pair h]
@[simp] theorem checkLaunch_mem (s : State) (g : Agent) (bs : List Byte) (ds : List Nat) (stage : Bool) (part cores : Nat) (array : Option Nat)
    (bind : Bool) :
    (checkLaunch s g bs ds stage part cores array bind).2.mem = s.mem := by
  unfold checkLaunch
  dsimp only
  split <;> rename_i h
  · simp [mem_of_pair h]
  · (repeat' split) <;> simp [mem_of_pair h]
@[simp] theorem readStages_mem (g : Agent) (owner ctx : Nat) (l : List Stage0) : ∀ s : State, (readStages s g owner ctx l).2.mem = s.mem := by
  induction l with
  | nil => exact fun _ => rfl
  | cons t r ih => exact fun s => (ih _).trans (readRecord_mem _ _ _ _ _)
@[simp] theorem readPlan_mem (s : State) (g : Agent) (owner ctx a : Nat) : (readPlan s g owner ctx a).2.mem = s.mem := by
  unfold readPlan
  split <;> rename_i h <;> simp [mem_of_pair h]
@[simp] theorem checkPlan_mem (s : State) (g : Agent) (r : PlanRec) : (checkPlan s g r).2.mem = s.mem := by
  unfold checkPlan
  dsimp only
  split <;> rename_i h
  · simp [mem_of_pair h]
  · (repeat' split) <;> simp [mem_of_pair h]

/-! Work queues. -/

@[simp] theorem takeTail_mem (q v : Nat) (bs : List Byte) (s : State) : (takeTail q v bs s).mem = s.mem := by simp [takeTail]
@[simp] theorem tailStep_mem (q : Nat) (s : State) : (tailStep q s).mem = s.mem := by
  unfold tailStep
  split
  · rfl
  · split <;> rename_i h <;> simp [mem_of_pair h]
@[simp] theorem qtailWrite_mem (q : Nat) (v : Word) (s : State) : (qtailWrite q v s).mem = s.mem := by simp [qtailWrite]
@[simp] theorem execQtailWrite_keepsMem (q : Nat) (v : Word) (s : State) : KeepsMem s (execQtailWrite q v s) := keepsMem_event (by simp)
@[simp] theorem fetchEntry_mem (q : Nat) (s : State) : (fetchEntry q s).mem = s.mem := by
  unfold fetchEntry
  dsimp only
  split
  · rfl
  · split <;> rename_i h <;> simp [mem_of_pair h]
@[simp] theorem updEntry_mem (s : State) (q seq : Nat) (f : QEntry → QEntry) : (updEntry s q seq f).mem = s.mem := by simp [updEntry]
@[simp] theorem entryRuns_mem (s : State) (q seq work : Nat) : (entryRuns s q seq work).mem = s.mem := by simp [entryRuns]
@[simp] theorem refuse_mem (s : State) (q seq rule item : Nat) : (refuse s q seq rule item).mem = s.mem := by simp [refuse]
@[simp] theorem newGrid_mem (s : State) (l : Launch) (q : Nat) (e : QEntry) (plan : Option (Nat × Nat)) (part : Nat)
    (bw : Option (Nat × Nat × Nat × Nat)) :
    (newGrid s l q e plan part bw).2.mem = s.mem := by
  simp [newGrid]
@[simp] theorem askGates_mem (s : State) (gn : Nat) : (askGates s gn).mem = s.mem := by
  unfold askGates
  (repeat' split) <;> simp [foldl_mem]
@[simp] theorem frontDone_mem (s : State) (q : Nat) : (frontDone s q).mem = s.mem := by simp [frontDone]
@[simp] theorem startLaunch_mem (s : State) (q : Nat) (e : QEntry) : (startLaunch s q e).mem = s.mem := by
  unfold startLaunch
  split <;> rename_i h
  · simp [mem_of_pair h]
  · simp [mem_of_pair h]
  · split <;> rename_i g <;> simp [mem_of_pair g, mem_of_pair h]
@[simp] theorem checkStages_mem (g : Agent) (r : PlanRec) (part : Nat) (l : List (List Byte × List Nat)) : ∀ s :
    State, (checkStages s g r part l).2.mem = s.mem := by
  induction l with
  | nil => exact fun _ => rfl
  | cons rec l ih =>
    intro s
    unfold checkStages
    split <;> rename_i h <;> simp [ih, mem_of_pair h]
@[simp] theorem newPlan_mem (s : State) (r : PlanRec) (ls : List Launch) (q : Nat) (e : QEntry) : (newPlan s r ls q e).2.mem = s.mem := by
  unfold newPlan
  exact foldl_snd_mem _ (fun _ _ => by simp) _ _
@[simp] theorem startPlanEntry_mem (s : State) (q : Nat) (e : QEntry) : (startPlanEntry s q e).mem = s.mem := by
  unfold startPlanEntry
  split
  · rfl
  · split <;> rename_i h
    · simp [mem_of_pair h]
    · simp [mem_of_pair h]
    · split <;> rename_i g
      · simp [mem_of_pair g, mem_of_pair h]
      · simp [mem_of_pair g, mem_of_pair h]
      · split <;> rename_i f <;> simp [mem_of_pair f, mem_of_pair g, mem_of_pair h]
@[simp] theorem copyDest_mem (s : State) (g : Agent) (owner ctx a : Nat) : (copyDest s g owner ctx a).2.mem = s.mem := by
  unfold copyDest
  split
  · rfl
  · split <;> rename_i h
    · simp [mem_of_pair h]
    · simp [mem_of_pair h]
    · split <;> simp [mem_of_pair h]
@[simp] theorem endCopyEntry_mem (s : State) (q seq : Nat) (failed : Bool) : (endCopyEntry s q seq failed).mem = s.mem := by simp [endCopyEntry]
@[simp] theorem startCopy_mem (s : State) (q : Nat) (e : QEntry) : (startCopy s q e).mem = s.mem := by
  unfold startCopy
  split
  · simp
  · split <;> rename_i h
    · simp [mem_of_pair h]
    · dsimp only
      (repeat' split) <;> simp [mem_of_pair h]
@[simp] theorem startEntry_mem (s : State) (q : Nat) (e : QEntry) : (startEntry s q e).mem = s.mem := by
  unfold startEntry
  dsimp only
  split
  · simp
  · split
    · simp
    · split <;> rename_i h <;> simp [mem_of_pair h]
@[simp] theorem execEntryStart_keepsMem (q : Nat) (s : State) : KeepsMem s (execEntryStart q s) := keepsMem_event (by
  dsimp only
  (repeat' split) <;> simp)
@[simp] theorem dropScope_mem (s : State) (e : QEntry) : (dropScope s e).mem = s.mem := by simp [dropScope]
@[simp] theorem dropLines_mem (s : State) (ts : List TlbEntry) : (dropLines s ts).mem = s.mem := by simp [dropLines, foldl_mem]
@[simp] theorem execInvalidationComplete_keepsMem (q seq : Nat) (s : State) : KeepsMem s (execInvalidationComplete q seq s) := keepsMem_event (by
  dsimp only
  (repeat' split) <;> simp)
@[simp] theorem execEntryComplete_keepsMem (q : Nat) (s : State) : KeepsMem s (execEntryComplete q s) := keepsMem_event (by
  dsimp only
  split <;> simp)

/-! Plans. -/

@[simp] theorem updPlan_mem (s : State) (pn : Nat) (f : Plan → Plan) : (updPlan s pn f).mem = s.mem := by simp [updPlan]
@[simp] theorem updStage_mem (s : State) (pn st : Nat) (f : Stage0 → Stage0) : (updStage s pn st f).mem = s.mem := by simp [updStage]
@[simp] theorem clearPins_mem (s : State) (m : PinMap) : (clearPins s m).2.mem = s.mem := by
  unfold clearPins
  exact foldl_snd_mem _ (fun _ _ => by simp [foldl_mem]) _ _
@[simp] theorem pinLines_mem (s : State) (m : PinMap) : (pinLines s m).mem = s.mem := by
  unfold pinLines
  exact foldl_mem _ (fun _ _ => by simp) _ _
@[simp] theorem startPlan_mem (s : State) (plan : Nat) (p : Plan) (pins : PinMap) (cores : List (NMap (List Nat))) :
    (startPlan s plan p pins cores).mem = s.mem := by
  simp [startPlan, foldl_mem]
@[simp] theorem execPlanStart_keepsMem (plan : Nat) (s : State) : KeepsMem s (execPlanStart plan s) := keepsMem_event (by
  split
  · rfl
  · split
    · rfl
    · split
      · split <;> rename_i h <;> simp [mem_of_pair h]
      · rfl)
@[simp] theorem sendLap_mem (s : State) (pn : Nat) (l : RingLap) : (sendLap s pn l).mem = s.mem := by
  unfold sendLap
  split <;> simp
@[simp] theorem passLap_mem (pn : Nat) (s : State) (l : RingLap) : (passLap pn s l).mem = s.mem := by
  unfold passLap
  split <;> simp
@[simp] theorem passLaps_mem (s : State) (pn : Nat) (p : Plan) : (passLaps s pn p).mem = s.mem := by
  unfold passLaps
  exact foldl_mem _ (fun _ _ => by simp) _ _
@[simp] theorem tellEnded_mem (s : State) (p : Plan) : (tellEnded s p).mem = s.mem := by simp [tellEnded, foldl_mem]
@[simp] theorem endPlan_mem (s : State) (pn : Nat) (failed : Bool) : (endPlan s pn failed).mem = s.mem := by
  unfold endPlan
  split
  · rfl
  · simp
@[simp] theorem execPlanEnd_keepsMem (plan : Nat) (s : State) : KeepsMem s (execPlanEnd plan s) := keepsMem_event (by
  split
  · rfl
  · split <;> simp)
@[simp] theorem joinShares_mem (s : State) (die : Nat) : (joinShares s die).mem = s.mem := by
  unfold joinShares
  refine foldl_mem _ (fun _ _ => foldl_mem _ (fun _ _ => foldl_mem _ (fun _ _ => ?_) _ _) _ _) _ _
  split
  · rfl
  · split
    · simp
    · exact foldl_mem _ (fun _ _ => by split <;> simp) _ _
@[simp] theorem endMigration_mem (s : State) (die : Nat) : (endMigration s die).mem = s.mem := by
  unfold endMigration
  dsimp only
  (repeat' split) <;> simp
@[simp] theorem startMove_mem (s : State) (pn die : Nat) (m : Nat × Nat × Nat) : (startMove s pn die m).mem = s.mem := by
  simp [startMove, foldl_mem]
@[simp] theorem sendSamples_mem (s : State) (p : Plan) : (sendSamples s p).mem = s.mem := by simp [sendSamples, foldl_mem]
@[simp] theorem decideMove_mem (die : Nat) (s : State) (pn : Nat) : (decideMove die s pn).mem = s.mem := by
  unfold decideMove
  (repeat' split) <;> simp
@[simp] theorem balancerSample_mem (s : State) : (balancerSample s).mem = s.mem := by
  unfold balancerSample
  split
  · rfl
  · refine (foldl_mem _ (fun _ _ => foldl_mem _ (fun _ _ => by simp) _ _) _ _).trans (foldl_mem _ (fun _ _ => ?_) _ _)
    split <;> simp
@[simp] theorem execBalancerSample_keepsMem (s : State) : KeepsMem s (execBalancerSample s) := keepsMem_event (by simp)
@[simp] theorem noteRoom_mem (s : State) : (noteRoom s).mem = s.mem := by simp [noteRoom]
@[simp] theorem dropSaved_mem (s : State) (v : SavedBolt) : (dropSaved s v).mem = s.mem := by simp [dropSaved, foldl_mem]
@[simp] theorem dropUndispatched_mem (s : State) (gn : Nat) : (dropUndispatched s gn).mem = s.mem := by simp [dropUndispatched, foldl_mem]
@[simp] theorem leaveGates_mem (s : State) (gn : Nat) : (leaveGates s gn).mem = s.mem := by simp [leaveGates, foldl_mem]
@[simp] theorem stopGrid_mem (s : State) (gn : Nat) (k : StopKind) : (stopGrid s gn k).mem = s.mem := by simp [stopGrid, foldl_mem]
@[simp] theorem planRecord_mem (s : State) (p : Plan) : (planRecord s p).mem = s.mem := by simp [planRecord]
@[simp] theorem finishStop_mem (s : State) (pn : Nat) : (finishStop s pn).mem = s.mem := by
  unfold finishStop
  split <;> simp
@[simp] theorem haltNext_mem (s : State) (pn : Nat) : (haltNext s pn).mem = s.mem := by
  unfold haltNext
  (repeat' split) <;> simp
@[simp] theorem beginPlanStop_mem (s : State) (pn cause : Nat) (ring : List Nat) : (beginPlanStop s pn cause ring).mem = s.mem := by
  unfold beginPlanStop
  split
  · rfl
  · dsimp only
    split <;> simp
@[simp] theorem execStageHalt_keepsMem (plan : Nat) (s : State) : KeepsMem s (execStageHalt plan s) := keepsMem_event (by
  dsimp only
  (repeat' split) <;> simp [foldl_mem])
@[simp] theorem beginSpill_mem (s : State) (pn n : Nat) (ring : List Nat) (lap : Option RingLap) : (beginSpill s pn n ring lap).2.mem = s.mem := by
  unfold beginSpill
  (repeat' split) <;> simp
@[simp] theorem restartRing_mem (s : State) (pn : Nat) (ring : List Nat) : (restartRing s pn ring).mem = s.mem := by simp [restartRing]
@[simp] theorem spillLap_mem (s : State) (pn : Nat) (l : RingLap) (h n : Nat) : (spillLap s pn l h n).mem = s.mem := by
  unfold spillLap
  dsimp only
  split
  · split <;> rename_i h <;> simp [mem_of_pair h]
  · simp
@[simp] theorem startLap_mem (s : State) (pn : Nat) (l : RingLap) (phase : RingPhase) : (startLap s pn l phase).mem = s.mem := by
  unfold startLap
  split <;> simp
@[simp] theorem takeLap_mem (s : State) (pn : Nat) (p : Plan) (l : RingLap) : (takeLap s pn p l).mem = s.mem := by
  unfold takeLap
  dsimp only
  (repeat' split) <;> simp
@[simp] theorem recvRing_mem (s : State) (src vc : Nat) (hops : List RingHop) (first pos : Nat) (phase : RingPhase) (pipe side : Nat) :
    (recvRing s src vc hops first pos phase pipe side).mem = s.mem := by
  unfold recvRing
  (repeat' split) <;> simp
@[simp] theorem recvEnded_mem (s : State) (src vc pipe side : Nat) : (recvEnded s src vc pipe side).mem = s.mem := by
  unfold recvEnded
  dsimp only
  (repeat' split) <;> simp
@[simp] theorem actRing_mem (s : State) (pn : Nat) (p : Plan) (r : DeclaredRing) : (actRing s pn p r).mem = s.mem := by
  unfold actRing
  split
  · simp
  · split
    · simp
    · split
      · simp
      · split <;> rename_i h <;> simp [mem_of_pair h]
@[simp] theorem actRings_mem (pn k : Nat) : ∀ s : State, (actRings pn k s).mem = s.mem := by
  induction k with
  | zero => exact fun _ => rfl
  | succ k ih =>
    intro s
    unfold actRings
    (repeat' split) <;> simp [ih]
@[simp] theorem actDeclared_mem (s : State) (pn : Nat) : (actDeclared s pn).mem = s.mem := actRings_mem _ _ _
@[simp] theorem readSlot_mem (s : State) (plan pipe part : Nat) (q : Pipe) (slot : Nat) : (readSlot s plan pipe part q slot).mem = s.mem := by
  simp [readSlot, foldl_mem]
@[simp] theorem failSpill_mem (s : State) (pn : Nat) (p : Plan) : (failSpill s pn p).mem = s.mem := by
  unfold failSpill
  split <;> simp
@[simp] theorem endSpill'_mem (s : State) (pn n : Nat) (p : Plan) (sl u : Nat) : (endSpill' s pn n p sl u).mem = s.mem := by
  unfold endSpill'
  split <;> simp
@[simp] theorem execPipeSpillComplete_keepsMem (plan pipe : Nat) (s : State) : KeepsMem s (execPipeSpillComplete plan pipe s) := keepsMem_event (by
  split
  · split
    · rfl
    · split
      · rfl
      · split
        · simp
        · split
          · rfl
          · simp
          · split <;> rename_i h <;> simp [mem_of_pair h]
        · split <;> simp
        · split <;> simp
  · rfl)
@[simp] theorem declareCross_mem (s : State) (pn : Nat) (hops : List RingHop) : (declareCross s pn hops).mem = s.mem := by simp [declareCross]
@[simp] theorem probeEdges_mem (pn pkg stage k : Nat) :
    ∀ (s : State) (st count : Nat) (hops : List RingHop), (probeEdges pn pkg stage k s st count hops).mem = s.mem := by
  induction k with
  | zero => exact fun _ _ _ _ => rfl
  | succ k ih =>
    intro s st count hops
    unfold probeEdges
    split
    · rfl
    · split
      · rfl
      · refine foldl_mem _ (fun _ _ => ?_) _ _
        dsimp only
        (repeat' split) <;> simp [ih]
@[simp] theorem samplePlan_mem (s : State) (pn : Nat) : (samplePlan s pn).mem = s.mem := by
  unfold samplePlan
  split
  · rfl
  · dsimp only
    split
    · rfl
    · rw [actDeclared_mem]
      split
      · exact foldl_mem _ (fun _ _ => probeEdges_mem _ _ _ _ _ _ _ _) _ _
      · rfl
@[simp] theorem deadlockSample_mem (s : State) : (deadlockSample s).mem = s.mem := by simp [deadlockSample, foldl_mem]
@[simp] theorem execDeadlockSample_keepsMem (s : State) : KeepsMem s (execDeadlockSample s) := keepsMem_event (by simp)
@[simp] theorem actWaiting_mem (s : State) : (actWaiting s).mem = s.mem := by simp [actWaiting, foldl_mem]
@[simp] theorem recvProbe_mem (s : State) (src vc pkg stage count pipe side : Nat) (hops : List RingHop) :
    (recvProbe s src vc pkg stage count pipe side hops).mem = s.mem := by
  unfold recvProbe
  (repeat' split) <;> simp
@[simp] theorem execDeadlockProbe_keepsMem (pkg stage count plan atStage : Nat) (s : State) :
    KeepsMem s (execDeadlockProbe pkg stage count plan atStage s) := keepsMem_event (by
  dsimp only
  (repeat' split) <;> simp)
@[simp] theorem hostStop_mem (q seq : Nat) (s : State) : (hostStop q seq s).mem = s.mem := by
  unfold hostStop
  dsimp only
  split
  · exact beginPlanStop_mem _ _ _ _
  · split
    · exact stopGrid_mem _ _ _
    · rfl
@[simp] theorem execStopreqWrite_keepsMem (q seq : Nat) (s : State) : KeepsMem s (execStopreqWrite q seq s) := keepsMem_event (by simp)

end Sys2Proof.Machine
end

section
/-! PROOFS. The operations of commits, control flow, the debug interface, the ports and the host leave memory as it is (for O59). -/

namespace Sys2Proof.Machine

/-! Commits. -/

@[simp] theorem startChCommit_mem (s : State) : (startChCommit s).mem = s.mem := by simp [startChCommit]
@[simp] theorem execChcommit_keepsMem (s : State) : KeepsMem s (execChcommit s) := keepsMem_event (by simp)
@[simp] theorem applyChannels_mem (s : State) : (applyChannels s).mem = s.mem := by
  unfold applyChannels
  split <;> simp
@[simp] theorem execChannelSlotCommitApply_keepsMem (s : State) : KeepsMem s (execChannelSlotCommitApply s) := keepsMem_event (by simp)
@[simp] theorem startFabCommit_mem (s : State) : (startFabCommit s).mem = s.mem := by simp [startFabCommit]
@[simp] theorem execFabcommit_keepsMem (s : State) : KeepsMem s (execFabcommit s) := keepsMem_event (by simp)
@[simp] theorem evictAdapterWays_mem (s : State) : (evictAdapterWays s).mem = s.mem := by simp [evictAdapterWays, foldl_mem]
@[simp] theorem applyFabric_mem (s : State) : (applyFabric s).mem = s.mem := by
  unfold applyFabric
  split <;> simp
@[simp] theorem execFabricCommitApply_keepsMem (s : State) : KeepsMem s (execFabricCommitApply s) := keepsMem_event (by simp)
@[simp] theorem startUalCommit_mem (s : State) : (startUalCommit s).mem = s.mem := by simp [startUalCommit]
@[simp] theorem execUalcommit_keepsMem (s : State) : KeepsMem s (execUalcommit s) := keepsMem_event (by simp)
@[simp] theorem applyUalink_mem (s : State) : (applyUalink s).mem = s.mem := by simp [applyUalink]
@[simp] theorem execUalinkCommitApply_keepsMem (s : State) : KeepsMem s (execUalinkCommitApply s) := keepsMem_event (by simp)
@[simp] theorem startPartCommit_mem (s : State) : (startPartCommit s).mem = s.mem := by simp [startPartCommit]
@[simp] theorem execPartcommit_keepsMem (s : State) : KeepsMem s (execPartcommit s) := keepsMem_event (by simp)
@[simp] theorem applyPartitions_mem (s : State) : (applyPartitions s).mem = s.mem := by
  unfold applyPartitions
  (repeat' split) <;> simp [foldl_mem]
@[simp] theorem execPartitionCommitApply_keepsMem (s : State) : KeepsMem s (execPartitionCommitApply s) := keepsMem_event (by simp)
@[simp] theorem beforeTick_mem (s : State) : (beforeTick s).mem = s.mem := by simp [beforeTick]

/-! Control flow. -/

@[simp] theorem execNop_keepsMem (s : State) : KeepsMem s (execNop s) := by
  unfold execNop
  split <;> simp
@[simp] theorem branchTo_mem (x : Ctx) (groups : List Group) (branch : Bool) (sk : Skein) (s : State) :
    (branchTo x groups branch sk s).mem = s.mem := by
  simp [branchTo]
@[simp] theorem execBra_keepsMem (c : Ctl) (tgt : Word) (s : State) : KeepsMem s (execBra c tgt s) := keepsMem_issue fun _ => by simp
@[simp] theorem execBrx_keepsMem (c : Ctl) (a : Nat) (s : State) : KeepsMem s (execBrx c a s) := keepsMem_issue fun _ => by simp
@[simp] theorem execSetj_keepsMem (c : Ctl) (tgt : Word) (s : State) : KeepsMem s (execSetj c tgt s) := keepsMem_issue fun _ => by simp
@[simp] theorem execJoin_keepsMem (c : Ctl) (s : State) : KeepsMem s (execJoin c s) := keepsMem_issue fun _ => by
  dsimp only
  split <;> simp
@[simp] theorem callFrames_mem (core slot path : Nat) (l : Launch) (ts : List Nat) : ∀ s :
    State, (callFrames s core slot path l ts).2.mem = s.mem := by
  induction ts with
  | nil => exact fun _ => rfl
  | cons t r ih =>
    intro s
    unfold callFrames
    split <;> rename_i h
    · simp [mem_of_pair h]
    · simp [mem_of_pair h]
    · split
      · split
        · rename_i g
          simp [mem_of_pair g, ih, mem_of_pair h]
        · simp [ih, mem_of_pair h]
      · simp [mem_of_pair h]
@[simp] theorem callTo_mem (x : Ctx) (u : RU) (shift : Nat) (f : Nat → Nat) (s : State) : (callTo x u shift f s).mem = s.mem := by
  unfold callTo
  dsimp only
  split <;> rename_i h
  · simp [mem_of_pair h]
  · simp [mem_of_pair h]
  · split
    · simp [mem_of_pair h]
    · split
      · simp [mem_of_pair h]
      · split
        · simp [mem_of_pair h]
        · split <;> rename_i g <;> simp [mem_of_pair g, mem_of_pair h]
@[simp] theorem execCall_keepsMem (c : Ctl) (s8 : Nat) (tgt : Word) (s : State) : KeepsMem s (execCall c s8 tgt s) := keepsMem_issue fun _ => by simp
@[simp] theorem execCallx_keepsMem (c : Ctl) (s8 a : Nat) (s : State) : KeepsMem s (execCallx c s8 a s) := keepsMem_issue fun _ => by simp
@[simp] theorem execRet_keepsMem (c : Ctl) (s : State) : KeepsMem s (execRet c s) := keepsMem_issue fun _ => by
  dsimp only
  split <;> simp
@[simp] theorem execExit_keepsMem (c : Ctl) (s : State) : KeepsMem s (execExit c s) := keepsMem_issue fun x => by
  split
  · simp
  · split
    · rename_i h
      split at h
      · exact reportAt_mem h
      · cases h
    · dsimp only
      (repeat' split) <;> simp
@[simp] theorem execKill_keepsMem (c : Ctl) (s : State) : KeepsMem s (execKill c s) := keepsMem_issue fun _ => by simp
@[simp] theorem execYield_keepsMem (c : Ctl) (s : State) : KeepsMem s (execYield c s) := keepsMem_issue fun _ => by simp
@[simp] theorem execSleep_keepsMem (c : Ctl) (a : Src) (s : State) : KeepsMem s (execSleep c a s) := keepsMem_issue fun _ => by simp
@[simp] theorem execSleepExpiry_keepsMem (core slot path : Nat) (s : State) : KeepsMem s (execSleepExpiry core slot path s) :=
  keepsMem_event (by simp)
@[simp] theorem execTrap_keepsMem (c : Ctl) (code : BitVec 16) (s : State) : KeepsMem s (execTrap c code s) := keepsMem_issue fun _ => by simp
@[simp] theorem execBrk_keepsMem (c : Ctl) (code : BitVec 16) (s : State) : KeepsMem s (execBrk c code s) := keepsMem_issue fun _ => by simp
@[simp] theorem execRte_keepsMem (c : Ctl) (s : State) : KeepsMem s (execRte c s) := keepsMem_issue fun _ => by
  dsimp only
  split <;> simp

/-! Arithmetic. -/

theorem keepsMem_aluSlow (i : Instr) (c : Ctl) (w : Nat) (d : VK) (f : Ctx → Nat → DWord) (s : State) : KeepsMem s (aluSlow i c w d f s) :=
  keepsMem_issue fun _ => by
  split <;> simp
@[simp] theorem execAddc_keepsMem (c : Ctl) (d : VK) (a b : Src) (p : Nat) (ty : IType) (s : State) : KeepsMem s (execAddc c d a b p ty s) :=
  keepsMem_issue fun _ => by simp
@[simp] theorem execSubc_keepsMem (c : Ctl) (d : VK) (a b : Src) (p : Nat) (ty : IType) (s : State) : KeepsMem s (execSubc c d a b p ty s) :=
  keepsMem_issue fun _ => by simp
@[simp] theorem execSpecialFunctionResult_keepsMem (core slot op : Nat) (s : State) : KeepsMem s (execSpecialFunctionResult core slot op s) :=
  keepsMem_event (by
  split
  · split <;> simp
  · rfl)

/-! Conversions. -/

@[simp] theorem execCvtn_keepsMem (c : Ctl) (d : VK) (a : Src) (src : FF) (sat : Bool) (fs pos : Nat) (s : State) :
    KeepsMem s (execCvtn c d a src sat fs pos s) :=
  keepsMem_issue fun x => by split <;> simp
@[simp] theorem execCvtw_keepsMem (c : Ctl) (d : VK) (a : Src) (dst : FF) (fs pos : Nat) (s : State) : KeepsMem s (execCvtw c d a dst fs pos s) :=
  keepsMem_issue fun x => by split <;> simp

/-! Dispatchers. -/

@[simp] theorem blockReady_mem (s : State) (die gn : Nat) (g : Grid) (block : Nat) : (blockReady s die gn g block).2.mem = s.mem := by
  unfold blockReady
  split
  · rfl
  · split <;> rename_i h <;> simp [mem_of_pair h]
@[simp] theorem readyBlock_mem (die gn : Nat) (g : Grid) (l : List Nat) : ∀ s : State, (readyBlock die gn g l s).2.mem = s.mem := by
  induction l with
  | nil => exact fun _ => endAgent_mem _ _
  | cons b r ih =>
    intro s
    unfold readyBlock
    split <;> rename_i h <;> simp [ih, mem_of_pair h]
@[simp] theorem pickBolt_mem (die : Nat) (l : List (Nat × Grid)) : ∀ s : State, (pickBolt die l s).2.mem = s.mem := by
  induction l with
  | nil => exact fun _ => rfl
  | cons e r ih =>
    intro s
    unfold pickBolt
    split
    · rfl
    · split
      · exact ih s
      · split <;> rename_i h <;> simp [ih, mem_of_pair h]
@[simp] theorem place_mem (s : State) (p : Pick) : (place s p).mem = s.mem := by
  cases p <;> (unfold place; dsimp only; split <;> simp)
@[simp] theorem serveTurn_mem (die : Nat) (want : Pick → Bool) (s : State) : (serveTurn die want s).mem = s.mem := by
  unfold serveTurn
  split
  · rfl
  · dsimp only
    split
    · simp
    · split <;> rename_i h
      · split <;> simp [mem_of_pair h]
      · simp [mem_of_pair h]
@[simp] theorem execDispatchTurn_keepsMem (die : Nat) (s : State) : KeepsMem s (execDispatchTurn die s) := keepsMem_event (by simp)
@[simp] theorem execContextRestore_keepsMem (die grid : Nat) (s : State) : KeepsMem s (execContextRestore die grid s) :=
  keepsMem_event (by simp [foldl_mem])
@[simp] theorem execThermalMigration_keepsMem (die : Nat) (s : State) : KeepsMem s (execThermalMigration die s) := keepsMem_event (by
  dsimp only
  (repeat' split) <;> simp)

/-! The debug interface. -/

@[simp] theorem dbgWrite_mem (cmd : Nat) (s : State) : (dbgWrite cmd s).mem = s.mem := by simp [dbgWrite]
theorem dbgEvent_mem (cmd : Nat) {f : Nat → Nat → Skein → State → Bool × State} (hf : ∀ core slot sk s, (f core slot sk s).2.mem = s.mem)
    (s : State) :
    (dbgEvent cmd f s).mem = s.mem := by
  unfold dbgEvent
  split
  · rfl
  · dsimp only
    split
    · rfl
    · split
      · rfl
      · split <;> rename_i h <;> simp [mem_of_pair h, hf]
@[simp] theorem onBolt_mem (s : State) (core bolt : Nat) (f : Skein → Skein) : (onBolt s core bolt f).mem = s.mem := by simp [onBolt, foldl_mem]
@[simp] theorem haltSkein_mem (core : Nat) (s : State) (e : Nat × Skein) : (haltSkein core s e).mem = s.mem := by simp [haltSkein]
@[simp] theorem execDebugHalt_keepsMem (s : State) : KeepsMem s (execDebugHalt s) := keepsMem_event (dbgEvent_mem _ (fun core slot sk s => by
  dsimp only
  split <;> simp [foldl_mem]) s)
@[simp] theorem execDebugResume_keepsMem (s : State) : KeepsMem s (execDebugResume s) := keepsMem_event (dbgEvent_mem _ (fun core slot sk s => by
  refine (foldl_mem _ (fun _ _ => ?_) _ _).trans (onBolt_mem _ _ _ _)
  split <;> simp) s)
@[simp] theorem contextFault_mem (s : State) (core slot : Nat) (sk : Skein) (c : Nat × Nat) : (contextFault s core slot sk c).mem = s.mem := by
  simp [contextFault]
@[simp] theorem execDebugSnapshot_keepsMem (s : State) : KeepsMem s (execDebugSnapshot s) := keepsMem_event (dbgEvent_mem _ (fun core slot sk s => by
  split
  · rfl
  · split <;> rename_i h
    · simp [mem_of_pair h]
    · dsimp only
      split <;> simp [mem_of_pair h]) s)
@[simp] theorem execDebugReload_keepsMem (s : State) : KeepsMem s (execDebugReload s) := keepsMem_event (dbgEvent_mem _ (fun core slot sk s => by
  have put (l : List (Nat × Skein)) (u : State)
    (k : State → Nat × Skein → Skein) : (l.foldl (fun s e => setSkein s core e.1 (k s e)) u).mem = u.mem :=
    foldl_mem _ (fun _ _ => setSkein_mem _ _ _ _) l u
  split
  · rfl
  · dsimp only
    split <;> rename_i h
    · simp [mem_of_pair h]
    · split <;> simp [mem_of_pair h, put]) s)
@[simp] theorem execDebugStep_keepsMem (s : State) : KeepsMem s (execDebugStep s) := keepsMem_event (by
  split
  · split <;> rfl
  · exact dbgEvent_mem _ (fun core slot sk s => by simp) s)
@[simp] theorem execDebugPark_keepsMem (s : State) : KeepsMem s (execDebugPark s) := keepsMem_event (dbgEvent_mem _ (fun core slot sk s => by simp) s)

/-! UALink ports. -/

@[simp] theorem setPort_mem (s : State) (x : Nat) (p : UalPort) : (setPort s x p).mem = s.mem := by simp [setPort]
@[simp] theorem noteStatus_mem (before after : UalPort) (s : State) : (noteStatus before after s).mem = s.mem := by simp [noteStatus]
@[simp] theorem remapPorts_mem (s : State) : (remapPorts s).mem = s.mem := by simp [remapPorts, foldl_mem]
@[simp] theorem execUalinkPortChange_keepsMem (x : Nat) (up : Bool) (s : State) : KeepsMem s (execUalinkPortChange x up s) := keepsMem_event (by simp)
@[simp] theorem failPort_mem (s : State) (x : Nat) : (failPort s x).mem = s.mem := by simp [failPort]
@[simp] theorem requestRoll_mem (x : Nat) (s : State) : (requestRoll x s).mem = s.mem := by simp [requestRoll]
@[simp] theorem execUalctlRoll_keepsMem (x : Nat) (s : State) : KeepsMem s (execUalctlRoll x s) := keepsMem_event (by simp)
@[simp] theorem execKeyAgreementComplete_keepsMem (x : Nat) (ok : Bool) (s : State) : KeepsMem s (execKeyAgreementComplete x ok s) :=
  keepsMem_event (by simp)
@[simp] theorem execKeyRetire_keepsMem (x : Nat) (s : State) : KeepsMem s (execKeyRetire x s) := keepsMem_event (by
  dsimp only
  split <;> simp)
@[simp] theorem execUalinkPortSlot_keepsMem (x : Nat) (s : State) : KeepsMem s (execUalinkPortSlot x s) := keepsMem_event (by
  dsimp only
  (repeat' split) <;> simp)
@[simp] theorem podBack_mem (s : State) (src vc pa : Nat) (bytes : List Byte) (bad : Bool) : (podBack s src vc pa bytes bad).mem = s.mem := by
  unfold podBack
  dsimp only
  (repeat' split) <;> simp
@[simp] theorem deliverFlit_mem (s : State) (f : UalFlit) : (deliverFlit s f).mem = s.mem := by
  unfold deliverFlit
  split <;> simp
@[simp] theorem flitRefused_mem (s : State) (x i : Nat) : (flitRefused s x i).mem = s.mem := by
  unfold flitRefused
  dsimp only
  (repeat' split) <;> simp
@[simp] theorem execUalinkFlitReceive_keepsMem (x : Nat) (tagOk : Bool) (epoch : Bool) (acked : Nat) (nacked : Option Nat) (flit : UalFlit)
    (s : State) :
    KeepsMem s (execUalinkFlitReceive x tagOk epoch acked nacked flit s) := keepsMem_event (by
  dsimp only
  (repeat' split) <;> simp [foldl_mem])

/-! The host. -/

@[simp] theorem startWrite_mem (s : State) (o : Nat) (mask v : DWord) : (startWrite s o mask v).mem = s.mem := by simp [startWrite]
@[simp] theorem regWrite_mem (s : State) (off : Nat) (wide : Bool) (v : DWord) : (regWrite s off wide v).mem = s.mem := by
  unfold regWrite
  split
  · rfl
  · dsimp only
    split
    · rename_i h
      exact regSet_mem h
    · simp
@[simp] theorem execRegisterWrite_keepsMem (off : Nat) (wide : Bool) (v : DWord) (s : State) : KeepsMem s (execRegisterWrite off wide v s) :=
  keepsMem_event (by simp)
@[simp] theorem writeRegLine_mem (s : State) (off : Nat) (e : SqEntry) : (writeRegLine s off e).mem = s.mem := by simp [writeRegLine, foldl_mem]
@[simp] theorem admitEntries_mem (s : State) (core slot : Nat) : (admitEntries s core slot).mem = s.mem := by
  unfold admitEntries
  split
  · rfl
  · exact (foldl_mem _ (fun _ _ => by split <;> simp) _ _).trans (setSkein_mem _ _ _ _)
@[simp] theorem leaveQueue_mem (s : State) (core slot : Nat) (e : SqEntry) : (leaveQueue s core slot e).mem = s.mem := by
  unfold leaveQueue
  (repeat' split) <;> simp
@[simp] theorem execStoreQueueEntryToL1_keepsMem (core quarter : Nat) (s : State) : KeepsMem s (execStoreQueueEntryToL1 core quarter s) :=
  keepsMem_event (by
  dsimp only
  (repeat' split) <;> simp)
@[simp] theorem portRead_mem (a : Agent) (k : Nat) : ∀ (s : State) (pa n : Nat), (portRead s a pa n k).2.mem = s.mem := by
  induction k with
  | zero => exact fun _ _ _ => rfl
  | succ k ih =>
    intro s pa n
    unfold portRead
    split
    · rfl
    · simp [ih]
@[simp] theorem answer_mem (s : State) (r : List Byte × Bool) : (answer s r).mem = s.mem := by simp [answer]
@[simp] theorem portAtomic_mem (s : State) (a : Agent) (pa : Nat) (x : AtomReq) : (portAtomic s a pa x).mem = s.mem := by simp [portAtomic]
@[simp] theorem portWrite_mem (s : State) (a : Agent) (w : InboundWrite) : (portWrite s a w).2.mem = s.mem := by simp [portWrite]
@[simp] theorem execHostMemoryWrite_keepsMem (pa : Nat) (bytes : List Byte) (relaxed : TlpAttr) (s : State) :
    KeepsMem s (execHostMemoryWrite pa bytes relaxed s) := keepsMem_event (by
  dsimp only
  (repeat' split) <;> simp)
@[simp] theorem hostAnswer_mem (s : State) (i : Nat) : (hostAnswer s i).mem = s.mem := by
  unfold hostAnswer
  split
  · rfl
  · dsimp only
    split
    · split <;> simp
    · (repeat' split) <;> simp
@[simp] theorem hostRegRead_mem (s : State) (off len : Nat) : (hostRegRead s off len).mem = s.mem := by simp [hostRegRead]
@[simp] theorem execHostMemoryRead_keepsMem (pa len : Nat) (s : State) : KeepsMem s (execHostMemoryRead pa len s) := keepsMem_event (by
  dsimp only
  split <;> simp)
@[simp] theorem execHostAtomic_keepsMem (pa : Nat) (op : HostAtomicOp) (wide : Bool) (x y : DWord) (s : State) :
    KeepsMem s (execHostAtomic pa op wide x y s) :=
  keepsMem_event (by simp)
@[simp] theorem execCxlCacheSnoop_keepsMem (_pa : Nat) (s : State) : KeepsMem s (execCxlCacheSnoop _pa s) := keepsMem_event (by simp)
@[simp] theorem execUalinkInboundWrite_keepsMem (vc : Nat) (s : State) : KeepsMem s (execUalinkInboundWrite vc s) := keepsMem_event (by
  dsimp only
  (repeat' split) <;> simp)
@[simp] theorem podFetch_mem (s : State) (r : InboundRead) : (podFetch s r).2.mem = s.mem := by
  unfold podFetch
  dsimp only
  (repeat' split) <;> simp
@[simp] theorem podAnswer_mem (s : State) (r : InboundRead) (v : List Byte × Bool) : (podAnswer s r v).mem = s.mem := by simp [podAnswer, foldl_mem]
@[simp] theorem execUalinkInboundReadAtomic_keepsMem (vc : Nat) (s : State) : KeepsMem s (execUalinkInboundReadAtomic vc s) := keepsMem_event (by
  split
  · rfl
  · split
    · rfl
    · split
      · rfl
      · split <;> rename_i h <;> simp [mem_of_pair h])
@[simp] theorem execAttctlRequest_keepsMem (s : State) : KeepsMem s (execAttctlRequest s) := keepsMem_event (by simp)
@[simp] theorem execAttestationComplete_keepsMem (report : List Byte) (s : State) : KeepsMem s (execAttestationComplete report s) :=
  keepsMem_event (by simp)

/-! Lane operations. -/

@[simp] theorem execPcon_keepsMem (c : Ctl) (f : PconForm) (a : Nat) (s : State) : KeepsMem s (execPcon c f a s) := keepsMem_issue fun _ => by simp
@[simp] theorem execLgrp_keepsMem (c : Ctl) (f : LgrpForm) (a : Src) (wide : Bool) (s : State) : KeepsMem s (execLgrp c f a wide s) :=
  keepsMem_issue fun _ => by simp
@[simp] theorem execPmov_keepsMem (c : Ctl) (f : PmovForm) (s : State) : KeepsMem s (execPmov c f s) := keepsMem_issue fun _ => by simp

/-! Power-up, sensors and telemetry. -/

@[simp] theorem execFirmwareVerifyDone_keepsMem (rsaOk slhOk : Bool) (version : BitVec 16) (s : State) :
    KeepsMem s (execFirmwareVerifyDone rsaOk slhOk version s) :=
  keepsMem_event (by simp)
@[simp] theorem execCalibrationDone_keepsMem (r : CalResult) (s : State) : KeepsMem s (execCalibrationDone r s) := keepsMem_event (by simp)
@[simp] theorem setFreeClock_mem (f : State → Nat → Nat) (s : State) (c : Nat) : (setFreeClock f s c).mem = s.mem := by simp [setFreeClock]
@[simp] theorem ageDie_mem (ages : List (BitVec 8 × Option Nat)) (s : State) (d : Nat) : (ageDie ages s d).mem = s.mem := by
  unfold ageDie
  split <;> simp
@[simp] theorem telWrite_mem (s : State) (off : Nat) (bs : List Byte) : (telWrite s off bs).mem = s.mem := by simp [telWrite]
@[simp] theorem telStepDo_mem (s : State) : (telStepDo s).mem = s.mem := by
  unfold telStepDo
  (repeat' split) <;> simp
@[simp] theorem tripped_mem (s : State) : (tripped s).mem = s.mem := by simp [tripped]
@[simp] theorem execSensorRefresh_keepsMem (temps : List (BitVec 8)) (pwr energy : DWord) (ages : List (BitVec 8 × Option Nat)) (s : State) :
    KeepsMem s (execSensorRefresh temps pwr energy ages s) :=
  keepsMem_event (by simp [foldl_mem])
@[simp] theorem execThermalTrip_keepsMem (sensor : Nat) (s : State) : KeepsMem s (execThermalTrip sensor s) := keepsMem_event (by simp)
@[simp] theorem execAgeReplan_keepsMem (die : Nat) (s : State) : KeepsMem s (execAgeReplan die s) := keepsMem_event (by
  dsimp only
  (repeat' split) <;> simp [foldl_mem])

end Sys2Proof.Machine
end

section
/-! PROOFS. Every step keeps memory canonical (O59): an accepted request, a published task and a copy entry write lines at their home,
initialisation and reset clear memory, and every other instruction and event leaves it as it is. -/

namespace Sys2Proof.Machine

theorem memOk_performMain {s : State} (r : Req) (h : MemOk s) : MemOk (performMain s r) := by
  have touched (pol : CPol) (write : Bool) : MemOk (sliceTouch s r.line r.owner pol write).2 := memOk_of_mem h (sliceTouch_mem _ _ _ _ _)
  unfold performMain
  dsimp only
  split
  · exact memOk_of_mem h (by simp)
  · exact memOk_of_mem h (by simp)
  · exact memOk_of_mem (memOk_sliceWrite _ _ _ _ (touched _ _)) ((updReq_mem _ _ _).trans (addPoison_mem _ _ _))
  · exact memOk_of_mem (memOk_sliceWrite _ _ _ _ (touched _ _)) (updReq_mem _ _ _)
  · refine memOk_of_mem h ?_
    split <;> simp
  all_goals exact h

/-- What the slice that took the request does with it (R104, R140). -/
theorem memOk_performed {s : State} (r : Req) (h : MemOk s) :
    MemOk (if r.pipe.isSome then performSlot s r else if isMain (128 * r.line) then performMain s r else performHost s r) := by
  split
  · exact memOk_of_mem h (by simp)
  · split
    · exact memOk_performMain r h
    · exact memOk_of_mem h (by simp)

theorem memOk_execSliceAccept {s t : State} (slice : Nat) (h : MemOk s) (run : execSliceAccept slice s = .next t) : MemOk t := by
  obtain rfl := Host.Outcome.next.inj run
  have net : MemOk (advanceNet s) := memOk_of_mem h (by simp)
  dsimp only
  split
  · exact net
  · split
    · exact net
    · rename_i r _
      split
      · exact net
      · split
        · split
          · exact memOk_of_mem (memOk_performed _ (memOk_of_mem net (by simp)))
              ((pokeCore_mem _ _).trans ((noteAccept_mem _ _).trans (advanceNet_mem _)))
          · exact memOk_of_mem (memOk_performed _ (memOk_of_mem net (by simp))) ((noteAccept_mem _ _).trans (advanceNet_mem _))
        · exact net

theorem memOk_publishLine {s : State} (core : Nat) (v : Nat × LMask × LineData) (h : MemOk s) : MemOk (publishLine core s v).2 := by
  unfold publishLine
  exact memOk_of_mem (memOk_sliceWrite _ _ _ _ (memOk_of_mem h (sliceTouch_mem _ _ _ _ _))) ((dropFills_mem _ _ _).trans (updL1_mem _ _ _))

theorem memOk_foldl_snd {α β : Type} (f : β × State → α → β × State) (hf : ∀ a e, MemOk a.2 → MemOk (f a e).2) (l : List α) :
    ∀ a : β × State, MemOk a.2 → MemOk (l.foldl f a).2 := by
  induction l with
  | nil => exact fun _ h => h
  | cons e r ih => exact fun a h => ih _ (hf a e h)

theorem memOk_publishTask {s : State} (core slot : Nat) (h : MemOk s) : MemOk (publishTask core slot s) := by
  have told (l : List (Nat × Nat)) (u : State) : (l.foldl (fun s e => match pipeOf s e.1 e.2 with
      | some p => toCore s (.taskDone core slot) e.1 e.2 p core
      | none => s) u).mem = u.mem := foldl_mem _ (fun _ _ => by split <;> simp) _ _
  unfold publishTask
  split
  · exact h
  · split
    · split
      · exact h
      · dsimp only
        refine memOk_of_mem ?_ ((unpinVersions_mem _ _).trans (updSkein_mem _ _ _ _))
        refine memOk_foldl_snd _ (fun a v ha => ?_) _ _ (memOk_of_mem h ?_)
        · exact memOk_publishLine core v ha
        · exact (told _ _).trans ((foldl_mem _ (fun _ _ => publishPipe_mem _ _ _) _ _).trans (forgetTask_mem _ _ _))
    · exact h

theorem memOk_execTaskPublication {s t : State} (core slot : Nat) (h : MemOk s) (run : execTaskPublication core slot s = .next t) : MemOk t := by
  obtain rfl := Host.Outcome.next.inj run
  exact memOk_of_mem (memOk_publishTask core slot (memOk_of_mem h (by simp))) (endPublish_mem _ _ _)

theorem memOk_putLine {s : State} (g : Agent) (dst owner : Nat) (d : LineData) (bad : BitVec 4) (h : MemOk s) :
    MemOk (putLine s g dst owner d bad) := by
  unfold putLine
  split
  · exact memOk_of_mem (memOk_rawWrite _ _ _ h) (addPoison_mem _ _ _)
  · exact memOk_of_mem h (by simp)

theorem memOk_copyEntryStep {s : State} (q : Nat) (e : QEntry) (h : MemOk s) : MemOk (copyEntryStep s q e) := by
  unfold copyEntryStep
  dsimp only
  split
  · exact h
  · split
    · exact memOk_of_mem h (by simp)
    · generalize hx : access s _ _ _ _ _ _ _ _ = x
      generalize hy : copyDest x.2 _ _ _ _ = y
      have hy2 : y.2.mem = s.mem := by rw [← hy, ← hx]; simp
      split
      · exact memOk_of_mem h hy2
      · exact memOk_of_mem h hy2
      · exact memOk_of_mem h (by simp [hy2])
      · exact memOk_of_mem h (by simp [hy2])
      · split
        · split
          · exact memOk_of_mem h hy2
          · exact memOk_of_mem h (by simp [hy2])
        · split <;> rename_i hl
          · exact memOk_of_mem h (by simp [mem_of_pair hl, hy2])
          · exact memOk_of_mem (memOk_putLine _ _ _ _ _ (memOk_of_mem h (by simp [mem_of_pair hl, hy2]))) (updEntry_mem _ _ _ _)

theorem memOk_execCopyEntryComplete {s t : State} (q seq : Nat) (h : MemOk s) (run : execCopyEntryComplete q seq s = .next t) : MemOk t := by
  obtain rfl := Host.Outcome.next.inj run
  dsimp only
  split
  · exact memOk_copyEntryStep q _ h
  · exact h

theorem memOk_execInitialisationDone {s t : State} (h : MemOk s) (run : execInitialisationDone s = .next t) : MemOk t := by
  obtain rfl := Host.Outcome.next.inj run
  dsimp only
  split
  · exact h
  · exact memOk_of_mem memOk_reset rfl

theorem memOk_execResetRelease {s t : State} (run : execResetRelease s = .next t) : MemOk t := by
  obtain rfl := Host.Outcome.next.inj run
  exact memOk_of_mem memOk_reset rfl

theorem memOk_exec {i : Instr} {s t : State} (h : MemOk s) (run : exec i s = .next t) : MemOk t := by
  cases i
  case sliceAccept n => exact memOk_execSliceAccept n h run
  case taskPublication core slot => exact memOk_execTaskPublication core slot h run
  case copyEntryComplete q seq => exact memOk_execCopyEntryComplete q seq h run
  case initialisationDone => exact memOk_execInitialisationDone h run
  case resetRelease => exact memOk_execResetRelease run
  case' pcon f _ => cases f
  case' lgrp f _ _ => cases f
  case' pmov f => cases f
  all_goals refine memOk_of_mem h ((?_ : KeepsMem s (exec _ s)) t run)
  -- the shared shapes of arithmetic and of the changes of a pipe's state
  case add | sub | mul | mulh | mad | madw | min | max | abs | neg | sad | shl | shr | sar | rot | clz | popc | brev | sel | mov | movk | lea | idx
      | and | or | xor | not | tlut | bfx | bfi | bpick | fadd | fmul | ffma | fmnx | frnd | fscl | dadd | dmul | dfma | dmnx | drnd | dscl | hadd
      | hmul | hfma | hmnx | hrnd | hscl | cvt | pack | unpk | cvti | cvtf | cvts | lperm | xchg | kred | lanemask =>
    unfold exec
    exact keepsMem_alu _ _ _ _ _ _
  case cmp | fcmp | fcls | dcmp | dcls | pset =>
    unfold exec
    exact keepsMem_aluP _ _ _ _ _
  case hcmp | hcls =>
    unfold exec
    exact keepsMem_aluP2 _ _ _ _ _
  case div | rem | rcp | rsq | sqrt | ex2 | lg2 | sin | cos | tanh =>
    unfold exec
    exact keepsMem_aluSlow _ _ _ _ _ _
  case pclose | preopen =>
    unfold exec
    exact keepsMem_changePipe _ _ _ _
  -- every other instruction and event has its own lemma above
  all_goals
    unfold exec
    simp

/-- The state that the fetch of a header leaves. -/
def HeaderFetch.state : HeaderFetch → State
  | .header _ s => s
  | .done s => s

theorem fetchHeader_mem (core slot path : Nat) (s : State) : (fetchHeader core slot path s).state.mem = s.mem := by
  unfold fetchHeader
  split
  · rfl
  · split
    · rfl
    · dsimp only
      split <;> rename_i h
      · simp [HeaderFetch.state, mem_of_pair h]
      · simp [HeaderFetch.state, mem_of_pair h]
      · split
        · simp [HeaderFetch.state, mem_of_pair h]
        · split <;> simp [HeaderFetch.state, mem_of_pair h]

theorem memOk_runPath {s t : State} (core slot path : Nat) (h : MemOk s) (run : runPath core slot path s = .next t) : MemOk t := by
  unfold runPath at run
  dsimp only at run
  split at run
  · cases run
    exact h
  · split at run
    · have fetched := fetchHeader_mem core slot path { s with cur := some { core := core, slot := slot, path := path, lanes := none } }
      split at run <;> rename_i hf <;> rw [hf] at fetched
      · exact memOk_exec (memOk_of_mem h fetched) run
      · cases run
        exact memOk_of_mem h fetched
    · split at run
      · split at run
        · exact memOk_exec (by exact memOk_of_mem h rfl) run
        · cases run
          exact memOk_of_mem h (trapAt_mem _ _ _ _ _ _ _)
      · split at run <;> cases run
        · exact memOk_of_mem h (stitchRetire_mem _ _)
        · exact memOk_of_mem h rfl
      · cases run
        exact memOk_of_mem h rfl

theorem memOk_prepare {s : State} (core : Nat) (cands : List (Nat × Nat)) (h : MemOk s) : MemOk (prepare core cands s).2 := by
  refine memOk_foldl_snd _ (fun a e ha => ?_) cands ([], s) h
  split
  · exact ha
  · split <;> rename_i run
    · split
      · exact memOk_runPath core e.1 e.2 ha run
      · exact ha
    · exact ha

theorem memOk_issueSlot {s t : State} (core q : Nat) (free : List (Nat × Nat)) (h : MemOk s) (run : issueSlot core q free s = .next t) :
    MemOk t := by
  have prepared := memOk_prepare core (free.filter (fun e => quarterOf e.1 = q)) (memOk_of_mem h (controlTurn_mem core q s))
  unfold issueSlot at run
  dsimp only at run
  split at run
  · cases run
    exact memOk_of_mem prepared (clearYields_mem _ _ _)
  · split at run <;> rename_i ran <;> cases run
    exact memOk_of_mem (memOk_runPath _ _ _ (memOk_of_mem prepared (by simp)) ran) (afterIssue_mem _ _ _ _ _)

theorem tickClock_mem (s : State) : (tickClock s).mem = s.mem := beforeTick_mem s

theorem memOk_runMove {m : Move} {s t : State} (h : MemOk s) (run : runMove m s = .next t) : MemOk t := by
  cases m with
  | slot core q ready => exact memOk_issueSlot core q ready h run
  | event i =>
    simp only [runMove] at run
    split at run
    · cases run
      exact h
    · exact memOk_exec h run
  | tick =>
    cases run
    exact memOk_of_mem h (tickClock_mem s)

/-- Settles O59: the moves of a step are slots, events and ticks, and each keeps the canonical form. -/
theorem memoryStaysCanonical : Obligations.MemoryStaysCanonical := by
  unfold Obligations.MemoryStaysCanonical step
  intro s t h run
  split at run
  · exact memOk_runMove (by exact memOk_of_mem h rfl) run
  · exact memOk_runMove (by exact memOk_of_mem h rfl) run

end Sys2Proof.Machine
end

section
/-! PROOFS. Commits of shadowed settings (O51): what refuses a commit of the channels' slots, which lines a switch of the adapter cache evicts, and
the clocks of the cores after a commit of the partitions. -/

namespace Sys2Proof

/-! Maps. -/

theorem NMap.get?_map {α β : Type} (m : NMap α) (f : α → β) (n : Nat) :
    NMap.get? (m.map (fun e => (e.1, f e.2)) : NMap β) n = (NMap.get? m n).map f := by
  induction m with
  | nil => rfl
  | cons e r ih =>
    simp only [List.map_cons, NMap.get?]
    split
    · rfl
    · exact ih
theorem NMap.mem_keys_of_get? {α : Type} {m : NMap α} {n : Nat} {a : α} (h : NMap.get? m n = some a) : n ∈ NMap.keys m := by
  induction m with
  | nil => cases h
  | cons e r ih =>
    simp only [NMap.get?] at h
    split at h
    · rename_i hn
      exact hn ▸ .head _
    · exact .tail _ (ih h)

namespace Machine

/-! The owners of the slots of a channel (R84). -/

theorem wordNibbles_map_range (w : Nat → Nat) (n : Nat) :
    wordNibbles ((List.range n).map w) = (List.range (8 * n)).map (fun k => nibble (w (k / 8)) (k % 8)) := by
  induction n with
  | zero => rfl
  | succ n ih =>
    have last : wordNibbles [w n] = (List.range 8).map (fun i => nibble (w ((8 * n + i) / 8)) ((8 * n + i) % 8)) := by
      simp only [wordNibbles, List.flatMap_cons, List.flatMap_nil, List.append_nil]
      refine List.map_congr_left fun i hi => ?_
      have : i < 8 := List.mem_range.1 hi
      rw [show (8 * n + i) / 8 = n by omega, show (8 * n + i) % 8 = i by omega]
    have split : wordNibbles ((List.range n).map w ++ [w n]) = wordNibbles ((List.range n).map w) ++ wordNibbles [w n] := List.flatMap_append
    rw [List.range_succ, List.map_append, List.map_singleton, split, ih, last, Nat.mul_succ, List.range_add, List.map_append, List.map_map]
    rfl

/-- The owner code that a channel's shadow gives a slot. -/
def shadowCode (c : Channel) (k : Nat) : Nat := nibble (shadowWord c.shadow (k / 8) 0xFFFFFFFF) (k % 8)
/-- A shadow that breaks R84: a code of no owner, or fewer than 16 unreserved slots. -/
def ShadowBad (c : Channel) : Prop :=
  (∃ k, 1 ≤ k ∧ k < 128 ∧ 8 ≤ shadowCode c k ∧ shadowCode c k ≤ 14) ∨
    ((Finset.Icc 1 127).filter (fun k => shadowCode c k = 15)).card < 16

theorem channelBad_iff (c : Channel) : channelBad c = true ↔ ShadowBad c := by
  have codes : (wordNibbles ((List.range 16).map (fun w => shadowWord c.shadow w 0xFFFFFFFF))).drop 1 = (List.range' 1 127).map (shadowCode c) := by
    rw [wordNibbles_map_range, ← List.map_drop]
    rfl
  have unreserved : unowned ((List.range' 1 127).map (shadowCode c)) = ((Finset.Icc 1 127).filter (fun k => shadowCode c k = 15)).card := by
    rw [unowned, List.filter_map, List.length_map]
    rfl
  unfold channelBad
  rw [codes]
  simp only [unreserved, Bool.or_eq_true, decide_eq_true_eq, ShadowBad, List.any_eq_true, List.mem_map, List.mem_range'_1, badOwner, Bool.and_eq_true]
  refine or_congr_left ⟨?_, ?_⟩
  · rintro ⟨_, ⟨k, ⟨lo, hi⟩, rfl⟩, h⟩
    exact ⟨k, lo, hi, h⟩
  · rintro ⟨k, lo, hi, h⟩
    exact ⟨_, ⟨k, ⟨lo, hi⟩, rfl⟩, h⟩

/-! Lines that leave the ways of the adapter cache (R104, R117). -/

/-- What evictions leave alone: all but the slices, and the victims that the channels hold. -/
def besidesSlices (s : State) : State := { s with slices := [], channels := [] }
theorem besidesSlices_evictWay (s : State) (n k : Nat) : besidesSlices (evictWay s n k) = besidesSlices s := by
  unfold evictWay
  dsimp only
  repeat' split
  all_goals rfl
/-- The line that a slice holds under a key of its table. -/
def lineAt (s : State) (m j : Nat) : Option SliceLine := NMap.get? (sliceOf s m).lines j
theorem lineAt_evictWay (s : State) (n k m j : Nat) : lineAt (evictWay s n k) m j = if m = n ∧ j = k then none else lineAt s m j := by
  have erased (u : State) (hu : u.slices = NMap.insert s.slices n { sliceOf s n with lines := NMap.erase (sliceOf s n).lines k }) :
      lineAt u m j = if m = n ∧ j = k then none else lineAt s m j := by
    unfold lineAt sliceOf
    rw [hu, NMap.getD_insert]
    by_cases hm : m = n
    · by_cases hj : j = k
      · simp [hm, hj]
      · simp [hm, hj, NMap.get?_erase_ne, sliceOf]
    · simp [hm]
  unfold evictWay
  dsimp only
  split
  · rename_i h
    split
    · rename_i e
      rw [e.1, e.2]
      exact h
    · rfl
  · split
    · split <;> exact erased _ rfl
    · exact erased _ rfl

/-- The ways `ks` of slice `n` are cleared. -/
theorem lineAt_evictWays (n : Nat) (ks : List Nat) (m j : Nat) : ∀ s : State,
    lineAt (ks.foldl (fun s k => evictWay s n k) s) m j = if m = n ∧ j ∈ ks then none else lineAt s m j := by
  induction ks with
  | nil => simp
  | cons k r ih =>
    intro s
    rw [List.foldl_cons, ih, lineAt_evictWay]
    simp only [List.mem_cons, and_or_left, or_comm (a := m = n ∧ j = k), ite_or]

/-- The lines of a slice that lie in adapter ways leave it. -/
def clearUpper (s : State) (n : Nat) : State :=
  ((NMap.keys (sliceOf s n).lines).filter (fun k => decide (generalWays s (n / 16) ≤ k % 16))).foldl (fun s k => evictWay s n k) s

theorem evictAdapterWays_eq (s : State) : evictAdapterWays s = (NMap.keys s.slices).foldl clearUpper s := rfl

theorem generalWays_congr {s t : State} (h : besidesSlices t = besidesSlices s) (d : Nat) : generalWays t d = generalWays s d :=
  (congrArg (fun u => generalWays u d) h :)

theorem lineAt_clearUpper (s : State) (n m j : Nat) :
    lineAt (clearUpper s n) m j = if m = n ∧ generalWays s (m / 16) ≤ j % 16 then none else lineAt s m j := by
  rw [clearUpper, lineAt_evictWays]
  by_cases hm : m = n
  · subst hm
    by_cases hk : generalWays s (m / 16) ≤ j % 16
    · cases hl : lineAt s m j with
      | none => simp
      | some l => simp [hk, NMap.mem_keys_of_get? hl]
    · simp [hk]
  · simp [hm]

/-- A fold keeps what each of its turns keeps. -/
theorem foldl_keeps {α β : Type} (g : State → β) (f : State → α → State) (hf : ∀ s a, g (f s a) = g s) (l : List α) :
    ∀ s : State, g (l.foldl f s) = g s := by
  induction l with
  | nil => exact fun _ => rfl
  | cons a r ih => exact fun s => (ih (f s a)).trans (hf s a)

theorem besidesSlices_clearUpper (s : State) (n : Nat) : besidesSlices (clearUpper s n) = besidesSlices s :=
  foldl_keeps besidesSlices _ (fun s k => besidesSlices_evictWay s n k) _ s
theorem besidesSlices_evictAdapterWays (s : State) : besidesSlices (evictAdapterWays s) = besidesSlices s :=
  foldl_keeps besidesSlices clearUpper besidesSlices_clearUpper _ s

theorem lineAt_clearUppers (m j : Nat) (ns : List Nat) : ∀ s : State,
    lineAt (ns.foldl clearUpper s) m j = if m ∈ ns ∧ generalWays s (m / 16) ≤ j % 16 then none else lineAt s m j := by
  induction ns with
  | nil => simp
  | cons n r ih =>
    intro s
    rw [List.foldl_cons, ih, lineAt_clearUpper, generalWays_congr (besidesSlices_clearUpper s n)]
    by_cases hk : generalWays s (m / 16) ≤ j % 16
    · simp only [hk, and_true, List.mem_cons, or_comm (a := m = n), ite_or]
    · simp [hk]

theorem evictAdapterWays_dev (s : State) : (evictAdapterWays s).dev = s.dev := (congrArg State.dev (besidesSlices_evictAdapterWays s) :)
theorem evictAdapterWays_cores (s : State) : (evictAdapterWays s).cores = s.cores := (congrArg State.cores (besidesSlices_evictAdapterWays s) :)
theorem evictAdapterWays_adCache (s : State) : (evictAdapterWays s).adCache = s.adCache :=
  (congrArg State.adCache (besidesSlices_evictAdapterWays s) :)

/-- After the switch no line is in an adapter way. -/
theorem lt_generalWays_of_evictAdapterWays {s : State} {n k : Nat} {l : SliceLine} (h : lineAt (evictAdapterWays s) n k = some l) :
    k % 16 < generalWays (evictAdapterWays s) (n / 16) := by
  rw [generalWays_congr (besidesSlices_evictAdapterWays s)]
  rw [evictAdapterWays_eq, lineAt_clearUppers] at h
  split at h
  · cases h
  · rename_i stays
    by_contra upper
    have absent : n ∉ NMap.keys s.slices := fun hn => stays ⟨hn, Nat.le_of_not_lt upper⟩
    cases listed : NMap.get? s.slices n with
    | some _ => exact absent (NMap.mem_keys_of_get? listed)
    | none => simp [lineAt, sliceOf, NMap.getD, listed, NMap.get?] at h

/-! The clocks of the cores (R442). -/

/-- A core after the clocks of the cores before `n` are set. -/
def clockSet (s : State) (before after : Nat → Option (Nat × Nat)) (n c : Nat) : Core :=
  if c < n then { coreOf s c with clockN := clockAfter s (before c) (after c) c } else coreOf s c
theorem coreOf_setClocks (s : State) (before after : Nat → Option (Nat × Nat)) (n : Nat) :
    let u := (List.range n).foldl (fun s c =>
      let k := clockAfter s (before c) (after c) c
      if k = (coreOf s c).clockN then s else updCore s c (fun e => { e with clockN := k })) s
    u = { s with cores := u.cores } ∧ ∀ c, coreOf u c = clockSet s before after n c := by
  refine foldl_range_induction (fun i (u : State) => u = { s with cores := u.cores } ∧ ∀ c, coreOf u c = clockSet s before after i c) _ n
    ⟨rfl, fun c => by simp [clockSet]⟩ ?_
  rintro i u - ⟨hu, hc⟩
  have own : coreOf u i = coreOf s i := by rw [hc, clockSet, if_neg (lt_irrefl i)]
  have dies : u.dies = s.dies := by rw [hu]
  have clock : clockAfter u (before i) (after i) i = clockAfter s (before i) (after i) i := by
    unfold clockAfter
    rw [dies, own]
  dsimp only
  rw [clock, own]
  split
  · rename_i same
    refine ⟨hu, fun c => ?_⟩
    rw [hc, clockSet, clockSet]
    rcases Nat.lt_trichotomy c i with lt | rfl | gt
    · simp [lt, Nat.lt_succ_of_lt lt]
    · simp [same]
    · simp [Nat.not_lt_of_lt gt, show ¬ c < i + 1 by omega]
  · refine ⟨by rw [hu]; rfl, fun c => ?_⟩
    rw [coreOf_updCore, clockSet]
    rcases Nat.lt_trichotomy c i with lt | rfl | gt
    · simp [lt.ne, hc, clockSet, lt, Nat.lt_succ_of_lt lt]
    · simp [own]
    · simp [gt.ne', hc, clockSet, Nat.not_lt_of_lt gt, show ¬ c < i + 1 by omega]

/-! The four commits. -/

/-- A write of 1 to each of the commit bits. -/
theorem commits_start {s : State} (h : devReady s = true) :
    exec .chcommit s = .next { s with dev := { s.dev with chCommit := some (s.dev.chCommit.getD s.clock) } } ∧
    exec .fabcommit s = .next { s with dev := { s.dev with fabCommit := some (s.dev.fabCommit.getD s.clock) } } ∧
    exec .ualcommit s = .next { s with dev := { s.dev with ualCommit := some (s.dev.ualCommit.getD s.clock) } } ∧
    exec .partcommit s = .next { s with dev := { s.dev with partCommit := some (s.dev.partCommit.getD s.clock) } } := by
  simp [exec, execChcommit, execFabcommit, execUalcommit, execPartcommit, event, h, startChCommit, startFabCommit, startUalCommit, startPartCommit]

/-- CHANNEL_SLOT_COMMIT_APPLY (R86). -/
theorem channelSlotCommitApply_cases {s : State} {t : Nat} (waiting : s.dev.chCommit = some t) :
    (hbmFrame s.clock ≤ hbmFrame t → exec .channelSlotCommitApply s = .next s) ∧
    (hbmFrame t < hbmFrame s.clock → (∃ e ∈ s.channels, ShadowBad e.2) →
      exec .channelSlotCommitApply s = .next { s with dev := { s.dev with chCommit := none, chRefused := true } }) ∧
    (hbmFrame t < hbmFrame s.clock → (∀ e ∈ s.channels, ¬ShadowBad e.2) → ∃ u, exec .channelSlotCommitApply s = .next u ∧
      u = { s with channels := u.channels, dev := { s.dev with chCommit := none } } ∧
      ∀ n, NMap.get? u.channels n = (NMap.get? s.channels n).map (fun c => { c with slots := c.shadow })) := by
  have applies : exec .channelSlotCommitApply s = .next (applyChannels s) := rfl
  rw [applies]
  simp only [← channelBad_iff, Bool.not_eq_true, applyChannels, waiting]
  refine ⟨fun early => ?_, fun due refused => ?_, fun due taken => ?_⟩
  · rw [if_pos early]
  · rw [if_neg (Nat.not_le.2 due), if_pos (List.any_eq_true.2 refused)]
  · have sound : ¬ s.channels.any (fun e => channelBad e.2) = true := by simpa using taken
    rw [if_neg (Nat.not_le.2 due), if_neg sound]
    exact ⟨_, rfl, rfl, fun n => NMap.get?_map s.channels (fun c => { c with slots := c.shadow }) n⟩

/-- FABRIC_COMMIT_APPLY (R117). -/
theorem fabricCommitApply_cases {s : State} {t : Nat} (waiting : s.dev.fabCommit = some t) :
    (s.clock / 256 ≤ t / 256 → exec .fabricCommitApply s = .next s) ∧
    (t / 256 < s.clock / 256 → fabricBad s = true →
      exec .fabricCommitApply s = .next { s with dev := { s.dev with fabCommit := none, fabRefused := true } }) ∧
    (t / 256 < s.clock / 256 → fabricBad s = false → ∃ u, exec .fabricCommitApply s = .next u ∧ u.mem = s.mem ∧ u.cores = s.cores ∧
      u.dev = { s.dev with
        fabCommit := none, slown := { s.dev.slown with now := s.dev.slown.next }, slqres := { s.dev.slqres with now := s.dev.slqres.next }
        slway := { s.dev.slway with now := s.dev.slway.next }, adpcfg := { s.dev.adpcfg with now := s.dev.adpcfg.next }
        dlown := s.dev.dlownNext } ∧
      (s.dev.adpcfg.now.getLsbD 0 = s.dev.adpcfg.next.getLsbD 0 → u = { s with dev := u.dev }) ∧
      (s.dev.adpcfg.now.getLsbD 0 ≠ s.dev.adpcfg.next.getLsbD 0 → u.adCache = [] ∧
        ∀ n k l, NMap.get? (sliceOf u n).lines k = some l → k % 16 < generalWays u (n / 16))) := by
  have applies : exec .fabricCommitApply s = .next (applyFabric s) := rfl
  rw [applies]
  simp only [applyFabric, waiting]
  refine ⟨fun early => ?_, fun due refused => ?_, fun due taken => ?_⟩
  · rw [if_pos early]
  · rw [if_neg (Nat.not_le.2 due), if_pos refused]
  · rw [if_neg (Nat.not_le.2 due), if_neg (by simp [taken])]
    refine ⟨_, rfl, ?_⟩
    by_cases same : s.dev.adpcfg.now.getLsbD 0 = s.dev.adpcfg.next.getLsbD 0
    · rw [if_neg (by simpa using same)]
      exact ⟨rfl, rfl, rfl, fun _ => rfl, fun turned => absurd same turned⟩
    · rw [if_pos (by simpa using same)]
      exact ⟨evictAdapterWays_mem _, evictAdapterWays_cores _, evictAdapterWays_dev _, fun eq => absurd eq same,
        fun _ => ⟨evictAdapterWays_adCache _, fun _ _ _ h => lt_generalWays_of_evictAdapterWays h⟩⟩

theorem atPortFrame_iff (s : State) :
    atPortFrame s = true ↔ ∀ e ∈ s.ports, e.2.up = true → e.2.failed = false → e.2.slotCount % 64 = 0 := by
  unfold atPortFrame
  rw [List.all_eq_true]
  refine forall₂_congr fun e _ => ?_
  cases e.2.up <;> cases e.2.failed <;> simp

/-- UALINK_COMMIT_APPLY, at no boundary and at one (R433). -/
theorem ualinkCommitApply_waits {s : State} (h : s.dev.ualCommit = none ∨ atPortFrame s = false) : exec .ualinkCommitApply s = .next s := by
  have applies : exec .ualinkCommitApply s = .next (applyUalink s) := rfl
  rw [applies, applyUalink, if_pos]
  rcases h with h | h <;> simp [h]
theorem ualinkCommitApply_due {s : State} {t : Nat} (waiting : s.dev.ualCommit = some t) (frame : atPortFrame s = true) :
    exec .ualinkCommitApply s = .next { s with dev := if ualinkBad s then { s.dev with ualCommit := none, ualRefused := true }
      else { s.dev with ualCommit := none, ualvcown := { s.dev.ualvcown with now := s.dev.ualvcown.next }, ualslot := s.dev.ualslotNext } } := by
  have applies : exec .ualinkCommitApply s = .next (applyUalink s) := rfl
  rw [applies, applyUalink, if_neg (by simp [waiting, frame])]
  split <;> rfl

/-- PARTITION_COMMIT_APPLY (R442). -/
theorem partitionCommitApply_cases {s : State} {t : Nat} (waiting : s.dev.partCommit = some t) :
    (s.clock / 65536 ≤ t / 65536 → exec .partitionCommitApply s = .next s) ∧
    (t / 65536 < s.clock / 65536 → partitionBad s = true →
      exec .partitionCommitApply s = .next { s with dev := { s.dev with partCommit := none, partRefused := true } }) ∧
    (t / 65536 < s.clock / 65536 → partitionBad s = false → ∃ u, exec .partitionCommitApply s = .next u ∧
      u = { s with cores := u.cores, dev := { s.dev with partCommit := none, partClk := s.dev.partClkNext, partCore := s.dev.partCoreNext } } ∧
      ∀ c, coreOf u c = if c < 192 then
        { coreOf s c with clockN := clockAfter s (holding s.dev.partClk s.dev.partCore c) (holding s.dev.partClkNext s.dev.partCoreNext c) c }
        else coreOf s c) := by
  have applies : exec .partitionCommitApply s = .next (applyPartitions s) := rfl
  rw [applies]
  simp only [applyPartitions, waiting]
  refine ⟨fun early => ?_, fun due refused => ?_, fun due taken => ?_⟩
  · rw [if_pos early]
  · rw [if_neg (Nat.not_le.2 due), if_pos refused]
  · rw [if_neg (Nat.not_le.2 due), if_neg (by simp [taken])]
    exact ⟨_, rfl, coreOf_setClocks
      { s with dev := { s.dev with partCommit := none, partClk := s.dev.partClkNext, partCore := s.dev.partCoreNext } }
      (holding s.dev.partClk s.dev.partCore) (holding s.dev.partClkNext s.dev.partCoreNext) 192⟩

/-- Settles O51: each commit before its boundary, refused and applied. -/
theorem commits : Obligations.Commits := by
  unfold Obligations.Commits
  intro s
  exact ⟨commits_start, fun _ => channelSlotCommitApply_cases, fun _ => fabricCommitApply_cases, atPortFrame_iff s, ualinkCommitApply_waits,
    fun _ => ualinkCommitApply_due, fun _ => partitionCommitApply_cases⟩

end Machine
end Sys2Proof
end

section
/-! PROOFS. The ends of skeins, bolts and grids (O46): what each returns and leaves alone, the event word of a bolt, the gate of the weight store
and the end of a refresh window. -/

namespace Sys2Proof

theorem NMap.mem_of_get? {α : Type} {m : NMap α} {n : Nat} {a : α} (h : NMap.get? m n = some a) : (n, a) ∈ m := by
  induction m with
  | nil => cases h
  | cons e r ih =>
    simp only [NMap.get?] at h
    split at h
    · rename_i hn
      cases h
      exact hn ▸ .head _
    · exact .tail _ (ih h)

namespace Machine

/-! What the operations change. -/

/-- All of a state but its cores. -/
def besidesCores (s : State) : State := { s with cores := [] }
/-- All of a state but its plans and requests. -/
def besidesPlans (s : State) : State := { s with plans := [], reqs := [] }

theorem besidesCores_updBolt (s : State) (core bolt : Nat) (f : Bolt → Bolt) : besidesCores (updBolt s core bolt f) = besidesCores s := rfl
theorem boltOf_updBolt (s : State) (core bolt : Nat) (f : Bolt → Bolt) : boltOf (updBolt s core bolt f) core bolt = (boltOf s core bolt).map f := by
  simp [boltOf, updBolt]

theorem besidesPlans_updPipe (s : State) (plan pipe : Nat) (f : Pipe → Pipe) : besidesPlans (updPipe s plan pipe f) = besidesPlans s := rfl
theorem besidesPlans_dropPipeWaits (core slot : Nat) (s : State) : besidesPlans (dropPipeWaits core slot s) = besidesPlans s := by
  unfold dropPipeWaits
  dsimp only
  refine (foldl_keeps besidesPlans _ (fun s pl => ?_) _ _).trans rfl
  exact foldl_keeps besidesPlans _ (fun s e => besidesPlans_updPipe s _ _ _) _ s

/-! SKEIN_END (R350, R385). -/

/-- A skein has exited and nothing of it is left to do. -/
structure Over (sk : Skein) : Prop where
  exited : sk.run = .exited
  queue : sk.sq = []
  waiting : sk.sqWait = []
  ops : sk.ops = []
  mat : sk.mat = none
  task : sk.taskOpen = false
  faults : sk.copyFaults = []
  counters : ∀ n ∈ sk.counters, n = 0

theorem skeinEnd_over {core slot : Nat} {s : State} {sk : Skein} (h : skeinOf s core slot = some sk) (o : Over sk) :
    exec (.skeinEnd core slot) s = .next (updSkein (dropPipeWaits core slot
      (updGrid s (((boltOf s core sk.bolt).map Bolt.grid).getD 0) (fun g => { g with lastEnd := some s.clock })))
      core slot (fun sk => { sk with run := .ended, vregs := [], vmarks := [], spilled := [] })) := by
  obtain ⟨exited, queue, waiting, ops, mat, task, faults, counters⟩ := o
  have zero : sk.counters.all (fun n => decide (n = 0)) = true := by simpa using counters
  simp [exec, execSkeinEnd, event, h, exited, queue, waiting, ops, mat, task, faults, zero]

theorem skeinEnd_keeps {core slot : Nat} {s : State} {sk : Skein} (h : skeinOf s core slot = some sk) (o : Over sk) :
    ∃ t, exec (.skeinEnd core slot) s = .next t ∧ t.mem = s.mem ∧
      skeinOf t core slot = some { sk with run := .ended, vregs := [], vmarks := [], spilled := [] } ∧
      ∀ n, n ≠ core → coreOf t n = coreOf s n := by
  refine ⟨_, skeinEnd_over h o, by simp, ?_, ?_⟩
  all_goals
    generalize hu : dropPipeWaits core slot _ = u
    have cores : u.cores = s.cores := by
      rw [← hu]
      exact (congrArg State.cores (besidesPlans_dropPipeWaits core slot _) :)
    have same (n : Nat) : coreOf u n = coreOf s n := by rw [coreOf, cores, coreOf]
  · rw [skeinOf_updSkein, show skeinOf u core slot = some sk by rw [skeinOf, same]; exact h]
    rfl
  · intro n hn
    rw [updSkein_of u _ (show skeinOf u core slot = some sk by rw [skeinOf, same]; exact h), coreOf_setSkein, if_neg hn, same]

/-! BOLT_END (R385). -/

theorem endAgents_cores (s : State) (l : List Agent) : (endAgents s l).cores = s.cores := foldl_keeps State.cores endAgent (fun _ _ => rfl) l s
theorem endAgents_grids (s : State) (l : List Agent) : (endAgents s l).grids = s.grids := foldl_keeps State.grids endAgent (fun _ _ => rfl) l s
theorem endAgents_clock (s : State) (l : List Agent) : (endAgents s l).clock = s.clock := foldl_keeps State.clock endAgent (fun _ _ => rfl) l s

theorem returnResources_grids (s : State) (core bolt : Nat) : (returnResources s core bolt).grids = s.grids := by
  unfold returnResources
  split
  · rfl
  · exact endAgents_grids _ _
theorem returnResources_clock (s : State) (core bolt : Nat) : (returnResources s core bolt).clock = s.clock := by
  unfold returnResources
  split
  · rfl
  · exact endAgents_clock _ _
/-- The core keeps neither the bolt nor its skeins. -/
theorem returnResources_core {s : State} {core bolt : Nat} {b : Bolt} (h : boltOf s core bolt = some b) :
    boltOf (returnResources s core bolt) core bolt = none ∧
    ∀ k sk, skeinOf (returnResources s core bolt) core k = some sk → sk.bolt ≠ bolt := by
  unfold returnResources
  rw [h]
  constructor
  · simp [boltOf]
  · intro k sk hk
    simp only [skeinOf, coreOf_updCore_self] at hk
    simpa using (List.mem_filter.1 (NMap.mem_of_get? hk)).2

theorem leaveGate_cores (s : State) (g die : Nat) : (leaveGate s g die).cores = s.cores := by
  unfold leaveGate
  split <;> rfl
theorem leaveGate_grids (s : State) (g die : Nat) : (leaveGate s g die).grids = s.grids := by
  unfold leaveGate
  split <;> rfl

/-- A bolt leaves its core, its grid and the gate of its die. -/
def boltGone (s : State) (core bolt : Nat) (b : Bolt) : State :=
  let u := returnResources s core bolt
  leaveGate (updGrid u b.grid (fun g => { g with running := g.running - 1, lastEnd := some u.clock })) b.grid (dieOf core)

theorem boltGone_keeps {s : State} {core bolt : Nat} {b c : Bolt} {g : Grid} (h : boltOf s core bolt = some c)
    (hg : NMap.get? s.grids b.grid = some g) :
    let t := boltGone s core bolt b
    t.mem = s.mem ∧ boltOf t core bolt = none ∧ NMap.get? t.grids b.grid = some { g with running := g.running - 1, lastEnd := some s.clock } ∧
      ∀ k sk, skeinOf t core k = some sk → sk.bolt ≠ bolt := by
  obtain ⟨noBolt, noSkein⟩ := returnResources_core h
  have cores : (boltGone s core bolt b).cores = (returnResources s core bolt).cores := leaveGate_cores _ _ _
  have same : coreOf (boltGone s core bolt b) core = coreOf (returnResources s core bolt) core := by rw [coreOf, cores, coreOf]
  refine ⟨by simp [boltGone], ?_, ?_, ?_⟩
  · rw [boltOf, same]
    exact noBolt
  · rw [boltGone, leaveGate_grids]
    simp [updGrid, returnResources_grids, returnResources_clock, hg]
  · intro k sk hk
    rw [skeinOf, same] at hk
    exact noSkein k sk hk

/-- The event word of a bolt that has not written it: none for a bolt of a stopping plan (R463). -/
def afterWord (s : State) (core bolt : Nat) (b : Bolt) : State :=
  if b.written.isSome then s
  else if stoppedPlan s b then updBolt s core bolt (fun b => { b with written := some (0, none) })
  else eventWord s core bolt b

/-- A bolt whose skeins have ended, with its copies and its release done. -/
structure BoltOver (s : State) (core bolt : Nat) (b : Bolt) (w : List Nat) : Prop where
  here : boltOf s core bolt = some b
  ended : ∀ e ∈ boltSkeins s core bolt, e.2.run = .ended
  copies : boltCopies s core bolt = false
  release : b.release = some w
  acknowledged : waitsDone s .sys w = true

theorem boltEnd_over {s : State} {core bolt : Nat} {b : Bolt} {w : List Nat} (o : BoltOver s core bolt b w) :
    exec (.boltEnd core bolt) s = .next (let u := afterWord s core bolt b
      if ((boltOf u core bolt).bind Bolt.written).isNone || agentBusy u (.context b.grid b.block) then u else boltGone u core bolt b) := by
  obtain ⟨here, ended, copies, release, acknowledged⟩ := o
  have all : (boltSkeins s core bolt).all (fun e => decide (e.2.run = .ended)) = true := by simpa using ended
  have released : boltRelease s core bolt .sys = (true, s) := by simp [boltRelease, here, release, acknowledged]
  have go : exec (.boltEnd core bolt) s = .next _ := rfl
  rw [go]
  simp only [here, all, copies, released]
  rfl

theorem stoppedPlan_iff {s : State} {b : Bolt} {g : Grid} (hg : NMap.get? s.grids b.grid = some g) :
    stoppedPlan s b = true ↔ ∃ pl st p, g.plan = some (pl, st) ∧ planOf s pl = some p ∧ p.state = .stopping := by
  unfold stoppedPlan planOf
  rw [hg]
  cases hp : g.plan with
  | none => simp [hp]
  | some e =>
    obtain ⟨pl, st⟩ := e
    cases hq : NMap.get? s.plans pl <;> simp [hp, hq]

/-- A bolt that has no event word to write counts as one that has written it. -/
theorem afterWord_written {s : State} {core bolt : Nat} {b : Bolt} {g : Grid} (here : boltOf s core bolt = some b)
    (hg : NMap.get? s.grids b.grid = some g) (noWord : g.launch.eventArray = 0 ∨ b.written.isSome = true ∨ stoppedPlan s b = true) :
    besidesCores (afterWord s core bolt b) = besidesCores s ∧
      ∃ c, boltOf (afterWord s core bolt b) core bolt = some c ∧ c.written.isSome = true := by
  unfold afterWord
  by_cases written : b.written.isSome = true
  · rw [if_pos written]
    exact ⟨rfl, b, here, written⟩
  · have sent : besidesCores (updBolt s core bolt (fun b => { b with written := some (0, none) })) = besidesCores s ∧
        ∃ c, boltOf (updBolt s core bolt (fun b => { b with written := some (0, none) })) core bolt = some c ∧ c.written.isSome = true := by
      refine ⟨rfl, { b with written := some (0, none) }, ?_, rfl⟩
      rw [boltOf_updBolt, here]
      rfl
    rw [if_neg written]
    by_cases stopped : stoppedPlan s b = true
    · rw [if_pos stopped]
      exact sent
    · rw [if_neg stopped, eventWord, hg]
      have off : g.launch.eventArray = 0 := by tauto
      simp only [off, if_true]
      exact sent

theorem boltEnd_gone {s : State} {core bolt : Nat} {b : Bolt} {g : Grid} {w : List Nat} (o : BoltOver s core bolt b w)
    (hg : NMap.get? s.grids b.grid = some g) (noWord : g.launch.eventArray = 0 ∨ b.written.isSome = true ∨ stoppedPlan s b = true)
    (idle : agentBusy s (.context b.grid b.block) = false) :
    ∃ t, exec (.boltEnd core bolt) s = .next t ∧ t.mem = s.mem ∧ boltOf t core bolt = none ∧
      NMap.get? t.grids b.grid = some { g with running := g.running - 1, lastEnd := some s.clock } ∧
      ∀ k sk, skeinOf t core k = some sk → sk.bolt ≠ bolt := by
  obtain ⟨rest, c, hc, written⟩ := afterWord_written o.here hg noWord
  refine ⟨boltGone (afterWord s core bolt b) core bolt b, ?_, ?_⟩
  · have idle' : agentBusy (afterWord s core bolt b) (.context b.grid b.block) = false :=
      (congrArg (fun u => agentBusy u (.context b.grid b.block)) rest :).trans idle
    rw [boltEnd_over o]
    simp [hc, idle', Option.isSome_iff_ne_none.1 written]
  · have grids : (afterWord s core bolt b).grids = s.grids := (congrArg State.grids rest :)
    have mem : (afterWord s core bolt b).mem = s.mem := (congrArg State.mem rest :)
    have clock : (afterWord s core bolt b).clock = s.clock := (congrArg State.clock rest :)
    obtain ⟨keeps, noBolt, grid, noSkein⟩ := boltGone_keeps hc (by rw [grids]; exact hg)
    exact ⟨keeps.trans mem, noBolt, by rw [grid, clock], noSkein⟩

/-! The event word (R385). -/

/-- An agent's write is translated at once where its die's translation cache holds the page. -/
theorem access_foundOnDie {s : State} {die ctx va : Nat} {kind : WalkKind} {y : Xl} (a : Agent) (owner : Nat) (h : FoundOnDie s die ctx va kind y) :
    access s a none die owner ctx va kind .other = (some (.ok y), s) := by
  obtain ⟨canon, p, X, found, allowed, used⟩ := h
  simp [access, canon, translate, tlbResult, tlbLook, tlbUse, found, allowed, used]

theorem length_leBytes (n x : Nat) : (leBytes n x).length = n := by
  induction n generalizing x with
  | zero => rfl
  | succ n ih => simp [leBytes, ih]

/-- Eight bytes at an aligned address lie in one line. -/
theorem virtMap_word {s : State} {die ctx va : Nat} {kind : WalkKind} {y : Xl} (a : Agent) (owner : Nat) (h : FoundOnDie s die ctx va kind y)
    (aligned : va % 8 = 0) : virtMap s a none die owner ctx va 8 kind 2 = (some [⟨va, 8, .ok y⟩], s) := by
  have here : min 8 (128 - va % 128) = 8 := by omega
  simp [virtMap, here, access_foundOnDie a owner h]

/-- What ends with the operation of an agent leaves a list of requests alone where no read of it is the agent's. -/
theorem endAgent_reqs {s : State} {a : Agent} (h : ∀ r ∈ s.reqs, r.who = .agent a → ∃ m d, r.kind = .write m d) :
    (endAgent s a).reqs = s.reqs := by
  refine (List.map_congr_left fun r hr => ?_).trans (List.map_id _)
  split
  · rename_i reads
    obtain ⟨own, kind⟩ := Bool.and_eq_true_iff.1 reads
    obtain ⟨m, d, hk⟩ := h r hr (of_decide_eq_true own)
    simp [hk] at kind
  · rfl

/-- The write of a word of eight bytes at an aligned address that the die's translation cache holds: one request. -/
theorem virtWrite_word {s : State} {die ctx va : Nat} {y : Xl} (a : Agent) (owner x : Nat) (h : FoundOnDie s die ctx va .write y)
    (aligned : va % 8 = 0) (slices : behindSlices y.pa = true) (present : regionPresent s y.pa = true) (idle : ∀ r ∈ s.reqs, r.who ≠ .agent a) :
    ∃ u r, virtWrite s a none die owner ctx va (leBytes 8 x) 2 = (some none, u) ∧ u.cores = s.cores ∧ u.mem = s.mem ∧
      u.reqs = s.reqs ++ [r] ∧ r.line = y.pa / 128 ∧ r.who = .agent a ∧
      r.kind = .write (maskBytes (y.pa % 128) 8) (lineOf (y.pa % 128) (leBytes 8 x)) ∧ r.onWay = true := by
  have mapped := virtMap_word a owner h aligned
  have whole : (leBytes 8 x).take 8 = leBytes 8 x := List.take_of_length_le (length_leBytes 8 x).le
  unfold virtWrite
  rw [length_leBytes, mapped]
  simp only [writeLines, engineWrite, slices, present, Bool.and_self, if_true, whole, length_leBytes, firstLineBad]
  refine ⟨_, _, rfl, rfl, rfl, endAgent_reqs ?_, rfl, rfl, rfl, rfl⟩
  intro r hr own
  rcases List.mem_append.1 hr with old | new
  · exact absurd own (idle r old)
  · exact ⟨_, _, by rw [List.mem_singleton.1 new]⟩

theorem boltEnd_word {s : State} {core bolt : Nat} {b : Bolt} {g : Grid} {w : List Nat} {y : Xl} (o : BoltOver s core bolt b w)
    (hg : NMap.get? s.grids b.grid = some g) (array : g.launch.eventArray ≠ 0) (written : b.written = none) (runs : ¬stoppedPlan s b = true)
    (idle : ∀ r ∈ s.reqs, r.who ≠ .agent (.context b.grid b.block))
    (found : FoundOnDie s (dieOf core) g.launch.ctx (g.launch.eventArray + 8 * (b.block - baseBlock g.launch)) .write y)
    (aligned : (g.launch.eventArray + 8 * (b.block - baseBlock g.launch)) % 8 = 0) (slices : behindSlices y.pa = true)
    (present : regionPresent s y.pa = true) :
    ∃ t r, exec (.boltEnd core bolt) s = .next t ∧ t.mem = s.mem ∧ boltOf t core bolt = some { b with written := some (0, none) } ∧
      t.reqs = s.reqs ++ [r] ∧ r.line = y.pa / 128 ∧ r.who = .agent (.context b.grid b.block) ∧
      r.kind = .write (maskBytes (y.pa % 128) 8) (lineOf (y.pa % 128) (leBytes 8 (g.queue * 2 ^ 48 + g.seq))) := by
  obtain ⟨u, r, wrote, cores, mem, reqs, line, who, kind, onWay⟩ := virtWrite_word (.context b.grid b.block) (partOf s core)
    (g.queue * 2 ^ 48 + g.seq) found aligned slices present idle
  have after : afterWord s core bolt b = updBolt u core bolt (fun b => { b with written := some (0, none) }) := by
    rw [afterWord, if_neg (by simp [written]), if_neg runs, eventWord, hg]
    simp only [array, if_false, wrote]
  have here : boltOf u core bolt = some b := by
    rw [boltOf, coreOf, cores]
    exact o.here
  have busy : agentBusy (afterWord s core bolt b) (.context b.grid b.block) = true := by
    rw [after]
    exact List.any_eq_true.2 ⟨r, by simp [updBolt, updCore, setCore, reqs], by simp [who, onWay]⟩
  refine ⟨afterWord s core bolt b, r, ?_, ?_, ?_, ?_, line, who, kind⟩
  · rw [boltEnd_over o]
    simp [busy]
  · rw [after, updBolt_mem, mem]
  · rw [after, boltOf_updBolt, here]
    rfl
  · rw [after]
    exact reqs

/-! GRID_COMPLETE (R136, R385). -/

/-- A grid whose bolts have all ended. -/
structure GridOver (g : Grid) : Prop where
  reported : g.done = false
  running : g.running = 0
  saved : g.saved = []
  todo : ∀ e ∈ g.todo, e.2 = []

theorem GridOver.check {g : Grid} (o : GridOver g) :
    ¬(g.done || g.running ≠ 0 || g.saved ≠ [] || g.todo.any (fun e => decide (e.2 ≠ []))) = true := by
  have todo : g.todo.any (fun e => decide (e.2 ≠ [])) = false := by simpa using o.todo
  rw [todo, o.reported, o.running, o.saved]
  decide

theorem gridComplete_alone {s : State} {n : Nat} {g : Grid} (hg : NMap.get? s.grids n = some g) (o : GridOver g) (plan : g.plan = none)
    (stopped : g.stopped = false) :
    exec (.gridComplete n) s = .next (entryDone' (updGrid s n (fun g => { g with done := true })) g.queue g.seq g.failed) := by
  have go : exec (.gridComplete n) s = .next _ := rfl
  rw [go]
  simp only [hg]
  rw [if_neg o.check]
  simp only [plan, stopped, Bool.or_false, Bool.false_eq_true, if_false]

/-- The stages of a plan. -/
def stagesOf (s : State) (pl : Nat) : Option (NMap Stage0) := (planOf s pl).map Plan.stages

theorem stagesOf_updPipe (s : State) (pl pipe : Nat) (f : Pipe → Pipe) : stagesOf (updPipe s pl pipe f) pl = stagesOf s pl := by
  unfold stagesOf planOf updPipe
  simp only [get?_nupdate_self, Option.map_map]
  rfl

/-- To close a pipe of a stage changes pipes alone. -/
theorem closeStagePipe_keeps (s : State) (pl pipe : Nat) (p : Pipe) :
    besidesPlans (closeStagePipe s pl pipe p) = besidesPlans s ∧ stagesOf (closeStagePipe s pl pipe p) pl = stagesOf s pl := by
  unfold closeStagePipe
  split
  · unfold setPipeState settlePipe
    exact ⟨rfl, (stagesOf_updPipe _ _ _ _).trans (stagesOf_updPipe _ _ _ _)⟩
  · exact ⟨rfl, stagesOf_updPipe _ _ _ _⟩

/-- The stage of a plan is over. -/
def stageDone (s : State) (pl st : Nat) : State :=
  { s with plans := nupdate s.plans pl (fun p => { p with stages := nupdate p.stages st (fun t => { t with done := true }) }) }
/-- The end of a stage closes a pipe that the stage feeds. -/
def closeFed (pl st : Nat) (s : State) (e : Nat × Pipe) : State := if isProducer e.2 st then closeStagePipe s pl e.1 e.2 else s

theorem closeFed_keeps (pl st : Nat) (s : State) (e : Nat × Pipe) :
    besidesPlans (closeFed pl st s e) = besidesPlans s ∧ stagesOf (closeFed pl st s e) pl = stagesOf s pl := by
  unfold closeFed
  split
  · exact closeStagePipe_keeps s pl e.1 e.2
  · exact ⟨rfl, rfl⟩

theorem gridComplete_ofPlan {s : State} {n pl st : Nat} {g : Grid} {p : Plan} (hg : NMap.get? s.grids n = some g) (o : GridOver g)
    (plan : g.plan = some (pl, st)) (hp : planOf s pl = some p) (running : p.state = .running) :
    exec (.gridComplete n) s = .next (p.pipes.foldl (closeFed pl st) (stageDone (updGrid s n (fun g => { g with done := true })) pl st)) := by
  have go : exec (.gridComplete n) s = .next _ := rfl
  rw [go]
  simp only [hg]
  rw [if_neg o.check]
  have listed : NMap.get? (updGrid s n (fun g => { g with done := true })).plans pl = some p := hp
  simp only [plan, listed, running, ne_eq, not_true_eq_false, if_false]
  rfl

theorem gridComplete_stage {s : State} {n pl st : Nat} {g : Grid} {p : Plan} {b : Stage0} (hg : NMap.get? s.grids n = some g) (o : GridOver g)
    (plan : g.plan = some (pl, st)) (hp : planOf s pl = some p) (running : p.state = .running) (hb : NMap.get? p.stages st = some b) :
    ∃ t p', exec (.gridComplete n) s = .next t ∧ planOf t pl = some p' ∧ (NMap.get? p'.stages st).map Stage0.done = some true ∧
      (NMap.get? t.grids n).map Grid.done = some true ∧ t.mem = s.mem ∧ t.cores = s.cores := by
  rw [gridComplete_ofPlan hg o plan hp running]
  have first : stagesOf (stageDone (updGrid s n (fun g => { g with done := true })) pl st) pl =
      some (nupdate p.stages st (fun t => { t with done := true })) := by
    have listed : NMap.get? s.plans pl = some p := hp
    simp [stagesOf, planOf, stageDone, updGrid, listed]
  have reported : (NMap.get? (stageDone (updGrid s n (fun g => { g with done := true })) pl st).grids n).map Grid.done = some true := by
    simp [stageDone, updGrid, hg]
  have rest := foldl_keeps besidesPlans (closeFed pl st) (fun s e => (closeFed_keeps pl st s e).1) p.pipes
    (stageDone (updGrid s n (fun g => { g with done := true })) pl st)
  have stages := foldl_keeps (fun s => stagesOf s pl) (closeFed pl st) (fun s e => (closeFed_keeps pl st s e).2) p.pipes
    (stageDone (updGrid s n (fun g => { g with done := true })) pl st)
  obtain ⟨p', hp', done⟩ := Option.map_eq_some_iff.1 (stages.trans first)
  refine ⟨_, p', rfl, hp', by simp [done, hb], ?_, (congrArg State.mem rest :), (congrArg State.cores rest :)⟩
  exact (congrArg (fun u => (NMap.get? u.grids n).map Grid.done) rest :).trans reported

/-! The gate of the weight store (R101), and the refresh windows (R100). -/

theorem wsGateEnter_reader {s : State} {die g : Nat} {w : GateReq} {r : List GateReq} (asked : w.since < s.clock)
    (first : (NMap.getD s.dies die {}).gateQueue = w :: r) (reader : w.grid = some g) (gate : (NMap.getD s.dies die {}).gate ≠ .write) :
    let d := NMap.getD s.dies die {}
    exec (.wsGateEnter die) s = .next { s with
      dies := NMap.insert s.dies die { d with gate := .read, gateReaders := d.gateReaders ++ [g], gateQueue := r } } := by
  simp [exec, execWsGateEnter, event, first, Nat.not_le.2 asked, reader, gate]

theorem wsGateEnter_writer {s : State} {die : Nat} {w : GateReq} {r : List GateReq} (asked : w.since < s.clock)
    (first : (NMap.getD s.dies die {}).gateQueue = w :: r) (writer : w.grid = none) (gate : (NMap.getD s.dies die {}).gate = .free) :
    let d := NMap.getD s.dies die {}
    exec (.wsGateEnter die) s = .next { s with
      dies := NMap.insert s.dies die { d with gate := .write, gateWriter := some (w.queue, w.seq), gateQueue := r } } := by
  simp [exec, execWsGateEnter, event, first, Nat.not_le.2 asked, writer, gate]

theorem wsRefreshWindowEnd_due {s : State} {die group : Nat} (due : s.clock % 262144 = 2048 + 8192 * group) :
    exec (.wsRefreshWindowEnd die group) s = .next ((List.range 48).foldl (fun s n => pokeCore s (48 * die + n)) s) := by
  simp [exec, execWsRefreshWindowEnd, event, due]

theorem inRefresh_windowEnd {clock group a : Nat} (due : clock % 262144 = 2048 + 8192 * group) (line : a / 0x600000 = group) :
    inRefresh clock a = false := by
  simp [inRefresh, due, line]

/-- Settles O46: SKEIN_END, BOLT_END and GRID_COMPLETE, and the gate and the windows of the weight store. -/
theorem endEvents : Obligations.EndEvents := by
  unfold Obligations.EndEvents
  refine ⟨fun core slot s sk here exited queue waiting ops mat task faults counters =>
      skeinEnd_keeps here ⟨exited, queue, waiting, ops, mat, task, faults, counters⟩,
    fun core bolt s b g w here hg ended copies release acknowledged => ?_,
    fun n s g hg reported running saved todo =>
      ⟨gridComplete_alone hg ⟨reported, running, saved, todo⟩, fun pl st p b => gridComplete_stage hg ⟨reported, running, saved, todo⟩⟩,
    fun die group s w r => ⟨fun g => wsGateEnter_reader, wsGateEnter_writer,
      fun due => ⟨wsRefreshWindowEnd_due due, fun a => inRefresh_windowEnd due⟩⟩⟩
  have o : BoltOver s core bolt b w := ⟨here, ended, copies, release, acknowledged⟩
  dsimp only
  rw [← stoppedPlan_iff hg]
  exact ⟨boltEnd_gone o hg, fun y array written runs idle found aligned _ slices present =>
    boltEnd_word o hg array written runs idle found aligned slices present⟩

end Machine
end Sys2Proof
end

section
/-! PROOFS. A counterexample to O40. O40 has SLICE_HIT_REPLY keep the request of a load, in the reply network or done at its port. But at
the port the package drops the acknowledgement of every slot write, whoever made it (`absorb`). The machine makes slot writes for pipes alone and never
for a load, but O40 speaks of every state, and of the kinds of requests without a pipe it leaves out prefetches and flushes only. -/

namespace Sys2Proof.Machine

/-- A load's request to line 0 of its own die under the kind of a slot write, accepted, with its reply due at clock 0 (R112). -/
def strayHit : Req := { strayReply with homeDie := 0, stage := .accepted 0 }
/-- The state after reset with the request in the queue of slice 0. -/
def strayHitDue : State := { State.reset with reqs := [strayHit] }

/-- Refutes O40, in its clause on the reply of a hit: from `strayHitDue` SLICE_HIT_REPLY leaves no request, where O40 gives one that is on its way
back or done. -/
theorem not_sliceEvents : ¬ Obligations.SliceEvents := by
  unfold Obligations.SliceEvents
  intro h
  obtain ⟨-, -, replies, -⟩ := h strayHitDue strayHit (by decide) rfl
  obtain ⟨hitReply, -⟩ := replies 0 0 [] (by decide) (by decide) rfl (by decide) (by decide)
  obtain ⟨t, run, -, onItsWay, -⟩ := hitReply rfl
  obtain ⟨q, hq, -⟩ := onItsWay ⟨0, 0, 0, 0, .inl rfl⟩
  have dropped : reqsAfter (exec (.sliceHitReply ⟨strayHit.id, 0, []⟩) strayHitDue) = [] := by decide
  rw [run] at dropped
  exact List.ne_nil_of_mem (List.mem_of_find?_eq_some hq) dropped

end Sys2Proof.Machine
end

section
/-! PROOFS. A counterexample to O43. A grant to a core on another die is posted under the number that `nextId` names and then moved on by that
number. The machine keeps the numbers of its requests below `nextId`, but O43 speaks of every state, and its hypothesis on requests is about
those of the pipe alone: another request under that number moves in the grant's place, and where it arrives every request of its number
leaves the network with it. -/

namespace Sys2Proof.Machine

/-- The reply of a prefetch, one step from its port, under the number that the next request takes. -/
def prefetchBack : Req :=
  { id := State.reset.nextId, kind := .prefetch, who := .prefetch 0, line := 0, policy := .keep, owner := 8, die := 0, port := 0, homeDie := 0, homeSlice := 0
    stage := .reply, since := 0, reservedEntry := false, way := 0, rdata := 0, rpoison := 0, rold := 0, stamp := 0 }
/-- A push of core 48, on die 1, that waits at a home on die 0. -/
def farPush : PipeWait := { core := 48, slot := 0, path := 0, since := 0, port := 0, granted := none }
/-- An open pipe homed on die 0 with one free slot, for which the push waits. -/
def pushedPipe : Pipe :=
  { fmt := 1, useSlot := false, fslot := 0, rows := 1, cols := 16, depth := 1, tileBytes := 128, lines := 1, homeDie := 0, slices := 1, producer := 0, consumer := 1
    remote := false, homeHere := true, remotePkg := 0, remotePipe := 0, vc := 0, free := 1, filled := 0, spilled := 0, mirror := 0, mirrorFilled := 0
    pushWaits := [farPush] }
/-- The running plan of that pipe. -/
def pushedPlan : Plan :=
  { queue := 0, seq := 0, part := 8, prio := 0, drainStop := false, spillBase := 0, spillCtx := 0, spillUnits := 0, podWindow := 0, balance := false, residency := 0
    hyst := 0, fullT := 0, emptyT := 0, record := 0, ctx := 0, stages := [], pipes := [(0, pushedPipe)], sched := [], state := .running }
/-- The skein whose one path waits for the pipe. -/
def pushingSkein : Skein := { bolt := 1, index := 0, paths := [(0, { pc := 0, wait := some (.pipeFree 0 0, 0, 0) })] }
/-- The state after reset with the push waiting and the reply on its way. -/
def grantNumberTaken : State :=
  { State.reset with plans := [(0, pushedPlan)], cores := [(48, { skeins := [(0, pushingSkein)] })], reqs := [prefetchBack] }

/-- Refutes O43, in its clause on a push reservation from another die: from `grantNumberTaken` PIPE_PUSH_RESERVE leaves no message, where O43
gives one with the grant. -/
theorem not_pipeEvents : ¬ Obligations.PipeEvents := by
  unfold Obligations.PipeEvents
  intro h
  obtain ⟨reserve, -⟩ := h 0 0 0 0 grantNumberTaken pushedPipe rfl
  obtain ⟨-, fromFar⟩ := reserve farPush (by decide) rfl rfl (by decide) (by decide) (by decide)
  obtain ⟨t, run, -, r, hr, -, grant, -⟩ := fromFar (by decide)
  have kinds : (reqsAfter (exec (.pipePushReserve 0 0) grantNumberTaken)).map Req.kind = [.prefetch] := by decide
  rw [run] at kinds
  have sent : r.kind ∈ t.reqs.map Req.kind := List.mem_map_of_mem hr
  rw [show t.reqs.map Req.kind = [.prefetch] from kinds, grant] at sent
  simp at sent

end Sys2Proof.Machine
end

section
/-! PROOFS. What the operations of plans leave alone: the clock, the probes that have come, and, of every plan, what a stop, a spill or a round
does not change. -/

namespace Sys2Proof

theorem NMap.get?_mapKey {α β : Type} (m : NMap α) (f : Nat → α → β) (n : Nat) :
    NMap.get? (m.map (fun e => (e.1, f e.1 e.2)) : NMap β) n = (NMap.get? m n).map (f n) := by
  induction m with
  | nil => rfl
  | cons e r ih =>
    simp only [List.map_cons, NMap.get?]
    split
    · rename_i hn
      rw [← hn]
      rfl
    · exact ih

namespace Machine

/-! Operations that change no plan. -/

/-- The clock, the plans and the probes of a state. -/
def plansView (s : State) : Nat × NMap Plan × List Probe := (s.clock, s.plans, s.probes)
/-- A plan without its pipes. -/
def barePlan (p : Plan) : Plan := { p with pipes := [] }
/-- The clock, the plans but for their pipes, and the probes. -/
def stagesView (s : State) : Nat × NMap Plan × List Probe := (s.clock, s.plans.map (fun e => (e.1, barePlan e.2)), s.probes)
/-- All of a state but the UALink ports. -/
def besidesPorts (s : State) : State := { s with ports := [] }

theorem stagesView_of_plansView {s t : State} (h : plansView t = plansView s) : stagesView t = stagesView s :=
  (congrArg (fun v => (v.1, v.2.1.map (fun e : Nat × Plan => (e.1, barePlan e.2)), v.2.2)) h :)
theorem plansView_of_besidesPorts {s t : State} (h : besidesPorts t = besidesPorts s) : plansView t = plansView s :=
  (congrArg plansView h :)

theorem planOf_of_plansView {s t : State} (h : plansView t = plansView s) (pl : Nat) : planOf t pl = planOf s pl :=
  (congrArg (fun v => NMap.get? v.2.1 pl) h :)
theorem planOf_of_stagesView {s t : State} (h : stagesView t = stagesView s) (pl : Nat) :
    (planOf t pl).map barePlan = (planOf s pl).map barePlan := by
  have eq := congrArg (fun v => NMap.get? v.2.1 pl) h
  simpa only [stagesView, NMap.get?_map, planOf] using eq
theorem exists_planOf_of_stagesView {s t : State} (h : stagesView t = stagesView s) {pl : Nat} {p : Plan} (hp : planOf s pl = some p) :
    ∃ q, planOf t pl = some q ∧ barePlan q = barePlan p := by
  have eq := planOf_of_stagesView h pl
  rw [hp] at eq
  exact Option.map_eq_some_iff.1 eq

theorem planOf_updPlan_self (s : State) (pl : Nat) (f : Plan → Plan) : planOf (updPlan s pl f) pl = (planOf s pl).map f :=
  get?_nupdate_self _ _ _
theorem planOf_updPlan_ne (s : State) {pl pn : Nat} (f : Plan → Plan) (h : pl ≠ pn) : planOf (updPlan s pn f) pl = planOf s pl :=
  get?_nupdate_ne _ _ h

theorem besidesPorts_sendLap (s : State) (pn : Nat) (l : RingLap) : besidesPorts (sendLap s pn l) = besidesPorts s := by
  unfold sendLap
  split <;> rfl
theorem besidesPorts_passLap (pn : Nat) (s : State) (l : RingLap) : besidesPorts (passLap pn s l) = besidesPorts s := by
  unfold passLap
  split
  · split
    · rfl
    · exact besidesPorts_sendLap _ _ _
  · split
    · rfl
    · exact besidesPorts_sendLap _ _ _
  · exact besidesPorts_sendLap _ _ _
theorem besidesPorts_passLaps (s : State) (pn : Nat) (p : Plan) : besidesPorts (passLaps s pn p) = besidesPorts s :=
  foldl_keeps besidesPorts (passLap pn) (besidesPorts_passLap pn) _ s
theorem besidesPorts_tellEnded (s : State) (p : Plan) : besidesPorts (tellEnded s p) = besidesPorts s :=
  foldl_keeps besidesPorts _ (fun s e => by split <;> rfl) _ s
theorem besidesPorts_sendSamples (s : State) (p : Plan) : besidesPorts (sendSamples s p) = besidesPorts s :=
  foldl_keeps besidesPorts _ (fun s e => by split <;> rfl) _ s

theorem plansView_endAgents (pl : Nat) (m : NMap Pipe) (s : State) :
    plansView (m.foldl (fun s e => endAgent s (.spill pl e.1)) s) = plansView s :=
  foldl_keeps plansView (fun s e => endAgent s (.spill pl e.1)) (fun _ _ => rfl) m s
theorem plansView_leaveGates (s : State) (gn : Nat) : plansView (leaveGates s gn) = plansView s :=
  foldl_keeps plansView _ (fun s d => by unfold leaveGate; split <;> rfl) _ s
theorem plansView_updSkein (s : State) (core slot : Nat) (f : Skein → Skein) : plansView (updSkein s core slot f) = plansView s := by
  simp [plansView]
theorem plansView_beginStop (s : State) (core bolt : Nat) (k : StopKind) : plansView (beginStop s core bolt k) = plansView s := by
  unfold beginStop
  refine (foldl_keeps plansView _ (fun s e => ?_) _ _).trans rfl
  exact plansView_updSkein s core e.1 _

theorem plansView_engineWrite (s : State) (who : ReqOwner) (die port owner : Nat) (pol : CPol) (pa : Nat) (bs : List Byte) :
    plansView (engineWrite s who die port owner pol pa bs) = plansView s := by
  unfold engineWrite
  split <;> rfl
theorem plansView_settleRecords (k : Nat) : ∀ s : State, plansView (settleRecords s k) = plansView s := by
  induction k with
  | zero => exact fun _ => rfl
  | succ k ih =>
    intro s
    unfold settleRecords
    split
    · rfl
    · dsimp only
      rw [ih]
      split <;> rfl
theorem plansView_ringRecord (s : State) (fault : Bool) (units : List (List DWord)) : plansView (ringRecord s fault units) = plansView s := by
  cases fault
  all_goals
    simp only [ringRecord, Bool.false_eq_true, if_false, if_true]
    split
    · rfl
    · split
      · rfl
      · rw [plansView_settleRecords]
        exact foldl_keeps plansView _ (fun _ _ => plansView_engineWrite _ _ _ _ _ _ _ _) _ _
theorem plansView_planRecord (s : State) (p : Plan) : plansView (planRecord s p) = plansView s := plansView_ringRecord _ _ _

/-! Operations that change pipes alone of a plan. -/

theorem stagesView_updPipe (s : State) (pl n : Nat) (f : Pipe → Pipe) : stagesView (updPipe s pl n f) = stagesView s := by
  refine congrArg (fun m : NMap Plan => (s.clock, m, s.probes)) ?_
  rw [updPipe, nupdate, List.map_map]
  refine List.map_congr_left fun e _ => ?_
  simp only [Function.comp_apply]
  split <;> rfl
theorem stagesView_settlePipe (s : State) (pl n : Nat) : stagesView (settlePipe s pl n) = stagesView s := stagesView_updPipe _ _ _ _
theorem stagesView_stampHome (s : State) (pl n : Nat) : stagesView (stampHome s pl n) = stagesView s := stagesView_updPipe _ _ _ _
theorem stagesView_raiseFree (s : State) (pl n k : Nat) : stagesView (raiseFree s pl n k) = stagesView s := by
  unfold raiseFree
  split
  · rfl
  · split
    · dsimp only
      split
      · refine (foldl_keeps stagesView _ (fun s e => ?_) _ _).trans (stagesView_updPipe s pl n _)
        rfl
      · exact stagesView_updPipe _ _ _ _
    · exact stagesView_updPipe _ _ _ _
theorem stagesView_unreserve (s : State) (pl n slot : Nat) : stagesView (unreserve s pl n slot) = stagesView s :=
  (stagesView_settlePipe _ _ _).trans ((stagesView_raiseFree _ _ _ _).trans (stagesView_updPipe _ _ _ _))
theorem stagesView_freePush (s : State) (pl n slot : Nat) : stagesView (freePush s pl n slot) = stagesView s := by
  unfold freePush
  split
  · rfl
  · split
    · exact stagesView_unreserve _ _ _ _
    · exact (stagesView_settlePipe _ _ _).trans (stagesView_updPipe s pl n _)
theorem stagesView_discardHeld (s : State) (h : Bool × Nat × Nat × Nat) : stagesView (discardHeld s h) = stagesView s := by
  unfold discardHeld
  split
  · exact stagesView_freePush _ _ _ _
  · exact (stagesView_settlePipe _ _ _).trans (stagesView_updPipe _ _ _ _)
theorem stagesView_dropSaved (s : State) (v : SavedBolt) : stagesView (dropSaved s v) = stagesView s := by
  unfold dropSaved
  dsimp only
  split
  · rfl
  · refine Eq.trans (foldl_keeps stagesView _ (fun s e => stagesView_stampHome s _ _) _ _) ?_
    refine foldl_keeps stagesView _ (fun s k => ?_) _ _
    exact foldl_keeps stagesView discardHeld stagesView_discardHeld k.held s
theorem stagesView_dropUndispatched (s : State) (gn : Nat) : stagesView (dropUndispatched s gn) = stagesView s :=
  (foldl_keeps stagesView dropSaved stagesView_dropSaved _ _).trans rfl
theorem stagesView_stopGrid (s : State) (gn : Nat) (k : StopKind) : stagesView (stopGrid s gn k) = stagesView s := by
  refine (stagesView_of_plansView (plansView_leaveGates _ gn)).trans (.trans ?_ (stagesView_dropUndispatched s gn))
  refine foldl_keeps stagesView _ (fun s c => foldl_keeps stagesView _ (fun s b => ?_) _ s) _ _
  exact stagesView_of_plansView (plansView_beginStop s c.1 b.1 k)

/-! What a controller that acts for one plan leaves alone. -/

/-- The stage is there, and blocked for no period. -/
def Unblocked (p : Plan) (st : Nat) : Prop := (NMap.get? p.stages st).map Stage0.blocked = some 0
/-- What an action for a plan keeps of that plan: when it was sampled, and the stages that are not blocked. -/
structure SampleKept (p q : Plan) : Prop where
  sampled : q.sampled = p.sampled
  unblocked : ∀ st, Unblocked p st → Unblocked q st
/-- An action for plan `pn`: the clock and the probes stay, every plan keeps its sample, and every other plan its state. -/
structure ActsFor (pn : Nat) (s t : State) : Prop where
  clock : t.clock = s.clock
  probes : t.probes = s.probes
  plans : ∀ pl p, planOf s pl = some p → ∃ q, planOf t pl = some q ∧ SampleKept p q ∧ (pl ≠ pn → q.state = p.state)

theorem SampleKept.refl (p : Plan) : SampleKept p p := ⟨rfl, fun _ => id⟩
theorem SampleKept.of_stages {p q : Plan} (sampled : q.sampled = p.sampled) (stages : q.stages = p.stages) : SampleKept p q :=
  ⟨sampled, fun st h => by rwa [Unblocked, stages]⟩
theorem SampleKept.trans {p q r : Plan} (h : SampleKept p q) (h' : SampleKept q r) : SampleKept p r :=
  ⟨h'.sampled.trans h.sampled, fun st hs => h'.unblocked st (h.unblocked st hs)⟩

/-- A change of the stages of a plan that blocks none of them keeps its sample. -/
theorem SampleKept.of_map {p q : Plan} (sampled : q.sampled = p.sampled) (f : Nat → Stage0 → Stage0) (calm : ∀ st t, t.blocked = 0 → (f st t).blocked = 0)
    (stages : q.stages = p.stages.map (fun e => (e.1, f e.1 e.2))) : SampleKept p q := by
  refine ⟨sampled, fun st h => ?_⟩
  obtain ⟨t, ht, zero⟩ := Option.map_eq_some_iff.1 h
  rw [Unblocked, stages, NMap.get?_mapKey, ht]
  exact congrArg some (calm st t zero)

theorem ActsFor.refl (pn : Nat) (s : State) : ActsFor pn s s := ⟨rfl, rfl, fun _ p hp => ⟨p, hp, .refl p, fun _ => rfl⟩⟩
theorem ActsFor.trans {pn : Nat} {s t u : State} (h : ActsFor pn s t) (h' : ActsFor pn t u) : ActsFor pn s u := by
  refine ⟨h'.clock.trans h.clock, h'.probes.trans h.probes, fun pl p hp => ?_⟩
  obtain ⟨q, hq, kept, state⟩ := h.plans pl p hp
  obtain ⟨r, hr, kept', state'⟩ := h'.plans pl q hq
  exact ⟨r, hr, kept.trans kept', fun ne => (state' ne).trans (state ne)⟩
theorem ActsFor.of_stagesView {pn : Nat} {s t : State} (h : stagesView t = stagesView s) : ActsFor pn s t := by
  refine ⟨congrArg (fun v => v.1) h, congrArg (fun v => v.2.2) h, fun pl p hp => ?_⟩
  obtain ⟨q, hq, bare⟩ := exists_planOf_of_stagesView h hp
  exact ⟨q, hq, .of_stages (congrArg Plan.sampled bare :) (congrArg Plan.stages bare :), fun _ => (congrArg Plan.state bare :)⟩
theorem ActsFor.of_plansView {pn : Nat} {s t : State} (h : plansView t = plansView s) : ActsFor pn s t :=
  .of_stagesView (stagesView_of_plansView h)
theorem ActsFor.of_besidesPorts {pn : Nat} {s t : State} (h : besidesPorts t = besidesPorts s) : ActsFor pn s t :=
  .of_plansView (plansView_of_besidesPorts h)
theorem ActsFor.updPlan {pn : Nat} {s : State} {f : Plan → Plan} (h : ∀ p, planOf s pn = some p → SampleKept p (f p)) :
    ActsFor pn s (updPlan s pn f) := by
  refine ⟨rfl, rfl, fun pl p hp => ?_⟩
  by_cases same : pl = pn
  · subst same
    exact ⟨f p, by rw [planOf_updPlan_self, hp]; rfl, h p hp, fun ne => absurd rfl ne⟩
  · exact ⟨p, by rw [planOf_updPlan_ne s f same]; exact hp, .refl p, fun _ => rfl⟩
theorem ActsFor.foldl {α : Type} {pn : Nat} {f : State → α → State} (h : ∀ s a, ActsFor pn s (f s a)) (l : List α) :
    ∀ s, ActsFor pn s (l.foldl f s) := by
  induction l with
  | nil => exact fun s => .refl pn s
  | cons a r ih => exact fun s => (h s a).trans (ih (f s a))

theorem actsFor_sendLap (s : State) (pn : Nat) (l : RingLap) : ActsFor pn s (sendLap s pn l) := .of_besidesPorts (besidesPorts_sendLap s pn l)

/-- What is left of a plan that has ended (06 Table 8). -/
def endedPlan (p : Plan) : Plan :=
  { p with state := .ended, spillUsed := [], discarded := (p.pipes.map (fun e => e.2.queue.length)).foldl (· + ·) 0, declared := [], acting := [], laps := [], spillLap := none, stopNow := none
           stages := p.stages.map (fun t => (t.1, { t.2 with share := [], joining := [] })), pipes := p.pipes.map (fun e => (e.1, { e.2 with slots := [], queue := [], spill := none })) }
/-- The slices without the pinned lines of a plan's pipes (R149). -/
def unpinned (s : State) (pl : Nat) : NMap Slice :=
  s.slices.map (fun e => (e.1, { e.2 with pins := e.2.pins.filter (fun q => match q.2 with
    | .slotLine k _ _ => decide (k ≠ pl)
    | .version _ _ => true) }))

/-- The dies forget the balancer's moves for a plan. -/
def movesOver (s : State) (pl : Nat) : State :=
  { s with dies := s.dies.map (fun d => (d.1, { d.2 with move := if (d.2.move.map Prod.fst) = some pl then none else d.2.move })) }
/-- The end of a plan before its entry completes: its pipes' lines are unpinned, and the rounds and the other packages told. -/
def planLeft (s : State) (pl : Nat) (p : Plan) : State :=
  let u := passLaps { s with slices := unpinned s pl } pl p
  let v := movesOver (updPlan u pl (fun q => { endedPlan q with discarded := (endedPlan p).discarded })) pl
  p.pipes.foldl (fun s e => endAgent s (.spill pl e.1)) (tellEnded v p)

theorem endPlan_eq {s : State} {pl : Nat} {p : Plan} (h : planOf s pl = some p) (failed : Bool) :
    endPlan s pl failed = entryDone' (planLeft s pl p) p.queue p.seq failed := by
  rw [endPlan, h]
  rfl
theorem plansView_planLeft (s : State) (pl : Nat) (p : Plan) :
    plansView (planLeft s pl p) = plansView (updPlan s pl (fun q => { endedPlan q with discarded := (endedPlan p).discarded })) := by
  refine (plansView_endAgents pl p.pipes _).trans ((plansView_of_besidesPorts (besidesPorts_tellEnded _ p)).trans ?_)
  exact (congrArg (fun u => plansView (updPlan u pl (fun q => { endedPlan q with discarded := (endedPlan p).discarded })))
    (besidesPorts_passLaps { s with slices := unpinned s pl } pl p) :)
theorem slices_planLeft (s : State) (pl : Nat) (p : Plan) : (planLeft s pl p).slices = unpinned s pl := by
  refine (foldl_keeps State.slices (fun s e => endAgent s (.spill pl e.1)) (fun _ _ => rfl) p.pipes _).trans ?_
  refine (congrArg State.slices (besidesPorts_tellEnded _ p) :).trans ?_
  exact (congrArg State.slices (besidesPorts_passLaps { s with slices := unpinned s pl } pl p) :)

theorem planOf_endPlan {s : State} {pn : Nat} {p : Plan} (h : planOf s pn = some p) (failed : Bool) :
    planOf (endPlan s pn failed) pn = some (endedPlan p) := by
  rw [endPlan_eq h, show planOf (entryDone' _ p.queue p.seq failed) pn = planOf (planLeft s pn p) pn from rfl,
    planOf_of_plansView (plansView_planLeft s pn p), planOf_updPlan_self, h]
  rfl
theorem slices_endPlan {s : State} {pn : Nat} {p : Plan} (h : planOf s pn = some p) (failed : Bool) :
    (endPlan s pn failed).slices = unpinned s pn := by
  rw [endPlan_eq h]
  exact slices_planLeft s pn p

theorem actsFor_endPlan (s : State) (pn : Nat) (failed : Bool) : ActsFor pn s (endPlan s pn failed) := by
  cases h : planOf s pn with
  | none =>
    rw [endPlan, h]
    exact .refl pn s
  | some p =>
    rw [endPlan_eq h]
    refine .trans (.updPlan fun q _ => ?_) (.of_plansView (show plansView (entryDone' _ p.queue p.seq failed) = _ from plansView_planLeft s pn p))
    exact .of_map rfl (fun _ t => { t with share := [], joining := [] }) (fun _ _ zero => zero) rfl

theorem actsFor_finishStop (s : State) (pn : Nat) : ActsFor pn s (finishStop s pn) := by
  unfold finishStop
  split
  · exact .refl pn s
  · split
    · exact .refl pn s
    · exact actsFor_endPlan s pn true
theorem actsFor_haltNext (s : State) (pn : Nat) : ActsFor pn s (haltNext s pn) := by
  unfold haltNext
  split
  · exact .refl pn s
  · rename_i p _
    split
    · refine .trans (.of_plansView (plansView_planRecord s p)) (.trans (.updPlan fun _ _ => ?_) (actsFor_finishStop _ pn))
      exact .of_stages rfl rfl
    · have noted (st : Nat) : ActsFor pn s (updPlan s pn (fun p => { p with stopOrder := p.stopOrder ++ [st], stopNow := some st })) :=
        .updPlan fun _ _ => .of_stages rfl rfl
      dsimp only
      split
      · exact (noted _).trans (.of_stagesView (stagesView_stopGrid _ _ _))
      · exact noted _

/-- A plan whose stop begins, before the halt of its first stage (R160). -/
def stoppingPlan (cause : Nat) (ring going : List Nat) (p : Plan) : Plan :=
  { p with state := .stopping, stopCause := cause, stopOrder := [], declared := [], acting := ring, laps := [], spillLap := none, spillUsed := p.spillUsed.filter (fun u => u ∉ going)
           pipes := p.pipes.map (fun e => (e.1, { e.2 with state := .stopped, spill := none, spillStep := 0 })) }

theorem beginPlanStop_eq {s : State} {pn cause : Nat} {ring : List Nat} {p : Plan} (h : planOf s pn = some p) (live : ¬(p.state = .stopping ∨ p.state = .ended)) :
    ∃ t going, plansView t = plansView s ∧ beginPlanStop s pn cause ring = haltNext (updPlan t pn (stoppingPlan cause ring going)) pn := by
  unfold beginPlanStop
  rw [h]
  dsimp only
  rw [if_neg live]
  exact ⟨_, _, (plansView_endAgents pn p.pipes _).trans (plansView_of_besidesPorts (besidesPorts_passLaps s pn p)), rfl⟩

theorem actsFor_beginPlanStop (s : State) (pn cause : Nat) (ring : List Nat) : ActsFor pn s (beginPlanStop s pn cause ring) := by
  cases h : planOf s pn with
  | none =>
    rw [beginPlanStop, h]
    exact .refl pn s
  | some p =>
    by_cases live : p.state = .stopping ∨ p.state = .ended
    · rw [beginPlanStop, h]
      dsimp only
      rw [if_pos live]
      exact .refl pn s
    · obtain ⟨t, going, view, eq⟩ := beginPlanStop_eq (cause := cause) (ring := ring) h live
      rw [eq]
      refine .trans (.of_plansView view) (.trans (.updPlan fun _ _ => ?_) (actsFor_haltNext _ pn))
      exact .of_stages rfl rfl

/-! Rounds and rings (R156 to R159). -/

theorem actsFor_beginSpill (s : State) (pn n : Nat) (ring : List Nat) (lap : Option RingLap) : ActsFor pn s (beginSpill s pn n ring lap).2 := by
  unfold beginSpill
  split
  · exact .refl pn s
  · split
    · refine .trans (.updPlan fun _ _ => ?_) (.of_stagesView (stagesView_updPipe _ _ _ _))
      exact .of_stages rfl rfl
    · exact .refl pn s
theorem actsFor_beginSpill_eq {s t : State} {pn n : Nat} {ring : List Nat} {lap : Option RingLap} {b : Bool} (h : beginSpill s pn n ring lap = (b, t)) :
    ActsFor pn s t := by
  have acts := actsFor_beginSpill s pn n ring lap
  rwa [h] at acts
theorem actsFor_restartRing (s : State) (pn : Nat) (ring : List Nat) : ActsFor pn s (restartRing s pn ring) :=
  .updPlan fun p _ => .of_map rfl (fun st t => if st ∈ ring then { t with blocked := 0 } else t) (fun st t zero => by split <;> simp [zero])
    (List.map_congr_left fun t _ => by split <;> rfl)
theorem actsFor_acting (s : State) (pn : Nat) (ring : List Nat) :
    ActsFor pn s (updPlan s pn (fun p => { p with acting := dedup (p.acting ++ ring) })) := .updPlan fun _ _ => .of_stages rfl rfl
theorem actsFor_spillLap (s : State) (pn : Nat) (l : RingLap) (h n : Nat) : ActsFor pn s (spillLap s pn l h n) := by
  unfold spillLap
  dsimp only
  split
  · split
    · exact actsFor_beginSpill_eq ‹_›
    · exact (actsFor_beginSpill_eq ‹_›).trans ((actsFor_sendLap _ _ _).trans (actsFor_beginPlanStop _ _ _ _))
  · exact actsFor_sendLap _ _ _
theorem actsFor_startLap (s : State) (pn : Nat) (l : RingLap) (phase : RingPhase) : ActsFor pn s (startLap s pn l phase) := by
  unfold startLap
  cases phase with
  | stop c => exact (actsFor_sendLap _ _ _).trans (actsFor_beginPlanStop _ _ _ _)
  | done => exact (actsFor_sendLap _ _ _).trans (actsFor_restartRing _ _ _)
  | collect _ => exact (actsFor_acting _ _ _).trans (actsFor_sendLap _ _ _)
  | spill h n => exact actsFor_spillLap _ _ _ _ _
theorem actsFor_takeLap (s : State) (pn : Nat) (p : Plan) (l : RingLap) : ActsFor pn s (takeLap s pn p l) := by
  unfold takeLap
  dsimp only
  split
  · split
    · exact .refl pn s
    · exact (actsFor_sendLap _ _ _).trans (actsFor_beginPlanStop _ _ _ _)
  · split
    · exact .refl pn s
    · exact (actsFor_sendLap _ _ _).trans (actsFor_restartRing _ _ _)
  · split
    · exact actsFor_startLap _ _ _ _
    · exact actsFor_spillLap _ _ _ _ _
  · split
    · split <;> exact actsFor_startLap _ _ _ _
    · split
      · exact actsFor_startLap _ _ _ _
      · exact (actsFor_acting _ _ _).trans (actsFor_sendLap _ _ _)
theorem actsFor_actRing (s : State) (pn : Nat) (p : Plan) (r : DeclaredRing) : ActsFor pn s (actRing s pn p r) := by
  unfold actRing
  split
  · exact actsFor_startLap _ _ _ _
  · split
    · exact actsFor_beginPlanStop _ _ _ _
    · split
      · exact actsFor_beginPlanStop _ _ _ _
      · split
        · exact actsFor_beginSpill_eq ‹_›
        · exact (actsFor_beginSpill_eq ‹_›).trans (actsFor_beginPlanStop _ _ _ _)
theorem actsFor_actRings (pn k : Nat) : ∀ s : State, ActsFor pn s (actRings pn k s) := by
  induction k with
  | zero => exact fun s => .refl pn s
  | succ k ih =>
    intro s
    unfold actRings
    split
    · exact .refl pn s
    · rename_i p hp
      have taken (q : Plan) (sampled : q.sampled = p.sampled) (stages : q.stages = p.stages) : ActsFor pn s (updPlan s pn (fun _ => q)) := by
        refine .updPlan fun p' hp' => ?_
        cases hp.symm.trans hp'
        exact .of_stages sampled stages
      split
      · exact .refl pn s
      · split
        · split
          · exact .refl pn s
          · dsimp only
            refine .trans (.trans ?_ (actsFor_takeLap _ _ _ _)) (ih _)
            exact taken _ rfl rfl
        · exact .refl pn s
        · split
          · exact .refl pn s
          · dsimp only
            refine .trans ?_ (ih _)
            split
            · refine .trans ?_ (actsFor_actRing _ _ _ _)
              exact taken _ rfl rfl
            · exact taken _ rfl rfl
theorem actsFor_actDeclared (s : State) (pn : Nat) : ActsFor pn s (actDeclared s pn) := actsFor_actRings pn _ s
theorem actsFor_declareCross (s : State) (pn : Nat) (hops : List RingHop) : ActsFor pn s (declareCross s pn hops) :=
  .updPlan fun p _ => by
    split
    · exact .refl p
    · exact .of_stages rfl rfl
theorem actsFor_probeEdges (pn pkg stage k : Nat) :
    ∀ (s : State) (st count : Nat) (hops : List RingHop), ActsFor pn s (probeEdges pn pkg stage k s st count hops) := by
  induction k with
  | zero => exact fun s _ _ _ => .refl pn s
  | succ k ih =>
    intro s st count hops
    unfold probeEdges
    split
    · exact .refl pn s
    · split
      · exact .refl pn s
      · refine .foldl (fun s e => ?_) _ s
        dsimp only
        split
        · split
          · exact .of_plansView rfl
          · exact .refl pn s
        · split
          · split
            · exact actsFor_declareCross _ _ _
            · exact .refl pn s
          · split
            · exact .refl pn s
            · exact ih _ _ _ _

end Machine
end Sys2Proof
end

section
/-! PROOFS. PLAN_START, PLAN_END and STAGE_HALT, and a probe that has come (O44). -/

namespace Sys2Proof.Machine

/-! PLAN_START (R147, R148). -/

/-- All of a state but its slices, its dies and its UALink ports. -/
def besidesFabric (s : State) : State := { s with slices := [], dies := [], ports := [] }

/-- Ways that hold no line need no clearing. -/
theorem clearPins_of_clear {s : State} {m : PinMap}
    (clear : ∀ e ∈ m, ∀ k ∈ NMap.keys e.2, NMap.get? (sliceOf s e.1).pins k = none → NMap.get? (sliceOf s e.1).lines k = none) :
    clearPins s m = (true, s) := by
  induction m with
  | nil => rfl
  | cons e r ih =>
    let new := (NMap.keys e.2).filter (fun k => (NMap.get? (sliceOf s e.1).pins k).isNone)
    have empty : ∀ k ∈ new, NMap.get? (sliceOf s e.1).lines k = none := fun k hk =>
      clear e (.head _) k (List.mem_filter.1 hk).1 (Option.isNone_iff_eq_none.1 (List.mem_filter.1 hk).2)
    have same : new.foldl (fun s k => clearWay s e.1 k) s = s :=
      List.foldlRecOn (motive := fun t => t = s) new _ rfl fun t ht k hk => by
        rw [ht, clearWay, empty k hk]
    have all : new.all (wayClear s e.1) = true := List.all_eq_true.2 fun k hk => Option.isNone_iff_eq_none.2 (empty k hk)
    have step : clearPins s (e :: r) = clearPins s r := by
      conv_lhs => rw [clearPins, List.foldl_cons]
      show List.foldl _ (true && new.all (wayClear (new.foldl (fun s k => clearWay s e.1 k) s) e.1), new.foldl (fun s k => clearWay s e.1 k) s) r = _
      rw [same, all]
      rfl
    rw [step, ih fun e he => clear e (.tail _ he)]

/-- The Initial cores of a stage on every die. -/
def initialCores (cores : List (NMap (List Nat))) (st : Nat) : List Nat := cores.flatMap (fun c => NMap.getD c st [])
/-- A plan that has just started: cores without bolts are in their share, the others join it. -/
def startedPlan (s : State) (cores : List (NMap (List Nat))) (p : Plan) : Plan :=
  let empty := fun c => decide ((coreOf s c).bolts = [])
  { p with state := .running, stages := p.stages.map (fun t =>
      (t.1, { t.2 with share := (initialCores cores t.1).filter empty, joining := (initialCores cores t.1).filter (fun c => !empty c) })) }

theorem besidesFabric_askGates (s : State) (gn : Nat) : besidesFabric (askGates s gn) = besidesFabric s := by
  unfold askGates
  split
  · rfl
  · split
    · refine foldl_keeps besidesFabric _ (fun _ _ => ?_) _ s
      rfl
    · rfl
theorem besidesFabric_startPlan (s : State) (pl : Nat) (p : Plan) (pins : PinMap) (cores : List (NMap (List Nat))) :
    besidesFabric (startPlan s pl p pins cores) = besidesFabric (updPlan s pl (startedPlan s cores)) := by
  unfold startPlan
  refine (foldl_keeps besidesFabric _ (fun s e => ?_) _ _).trans ?_
  · split
    · refine foldl_keeps besidesFabric _ (fun _ _ => ?_) _ s
      rfl
    · rfl
  · refine (foldl_keeps besidesFabric _ (fun s t => besidesFabric_askGates s _) _ _).trans ?_
    have pinned : besidesFabric (pinLines s pins) = besidesFabric s := by
      refine foldl_keeps besidesFabric _ (fun _ _ => ?_) pins s
      rfl
    exact (congrArg (fun u => besidesFabric (updPlan u pl (startedPlan s cores))) pinned :)

theorem mem_startedPlan {s : State} {cores : List (NMap (List Nat))} {p : Plan} {st : Nat} {b : Stage0}
    (h : NMap.get? (startedPlan s cores p).stages st = some b) (c : Nat) : c ∈ b.share ++ b.joining ↔ c ∈ initialCores cores st := by
  have get := NMap.get?_mapKey p.stages (fun n (t : Stage0) => { t with
    share := (initialCores cores n).filter (fun c => decide ((coreOf s c).bolts = [])), joining := (initialCores cores n).filter (fun c => !decide ((coreOf s c).bolts = [])) }) st
  obtain ⟨t, -, rfl⟩ := Option.map_eq_some_iff.1 (get.symm.trans h)
  simp only [List.mem_append, List.mem_filter, decide_eq_true_eq, Bool.not_eq_true', decide_eq_false_iff_not]
  tauto

theorem planStart_starts {s : State} {pl : Nat} {p : Plan} {pins : PinMap} {c0 c1 c2 c3 : NMap (List Nat)} (hp : planOf s pl = some p)
    (waiting : p.state = .waiting) (slots : slotsTaken s pl p = false) (placed : placePlan s p.part pl p.pipes (pinsNow s) = some pins)
    (clear : ∀ e ∈ pins, ∀ k ∈ NMap.keys e.2, NMap.get? (sliceOf s e.1).pins k = none → NMap.get? (sliceOf s e.1).lines k = none)
    (h0 : takeCores s p 0 = some c0) (h1 : takeCores s p 1 = some c1) (h2 : takeCores s p 2 = some c2) (h3 : takeCores s p 3 = some c3) :
    exec (.planStart pl) s = .next (startPlan s pl p pins [c0, c1, c2, c3]) := by
  show Host.Outcome.next _ = _
  simp only [hp, waiting, slots, placed, h0, h1, h2, h3, clearPins_of_clear clear]
  simp

theorem planOf_startPlan {s : State} {pl : Nat} {p : Plan} (hp : planOf s pl = some p) (pins : PinMap) (cores : List (NMap (List Nat))) :
    planOf (startPlan s pl p pins cores) pl = some (startedPlan s cores p) := by
  have same := congrArg (fun u => planOf u pl) (besidesFabric_startPlan s pl p pins cores)
  have started : planOf (updPlan s pl (startedPlan s cores)) pl = some (startedPlan s cores p) := by rw [planOf_updPlan_self, hp]; rfl
  exact (same :).trans started

/-! PLAN_END (R149). -/

theorem planEnd_ends {s : State} {pl : Nat} {p : Plan} (hp : planOf s pl = some p) (running : p.state = .running)
    (done : ∀ e ∈ p.stages, e.2.done = true) : ∃ failed, exec (.planEnd pl) s = .next (endPlan s pl failed) := by
  have all : p.stages.all (fun t => t.2.done) = true := List.all_eq_true.2 done
  refine ⟨p.stages.any (fun t => ((NMap.get? s.grids t.2.grid).map Grid.failed).getD false), ?_⟩
  show Host.Outcome.next _ = _
  simp only [hp, running, all, and_self, if_true]

theorem unpinned_keeps_no_line (s : State) (pl : Nat) : ∀ e ∈ unpinned s pl, ∀ z ∈ e.2.pins, ∀ k i, z.2 ≠ .slotLine pl k i := by
  intro e he z hz k i hzi
  obtain ⟨e', -, rfl⟩ := List.mem_map.1 he
  have kept := (List.mem_filter.1 hz).2
  rw [hzi] at kept
  simp at kept

/-! STAGE_HALT (R161, R162). -/

theorem keys_nupdate {α : Type} (m : NMap α) (n : Nat) (f : α → α) : NMap.keys (nupdate m n f) = NMap.keys m := by
  rw [NMap.keys, nupdate, List.map_map]
  refine List.map_congr_left fun e _ => ?_
  simp only [Function.comp_apply]
  split <;> rfl

theorem finishStop_eq {s : State} {pn id : Nat} {p : Plan} (hp : planOf s pn = some p) (stopping : p.state = .stopping) (final : p.finalRecord = some id) :
    finishStop s pn = if s.records.any (fun r => r.id = id) then s else endPlan s pn true := by
  rw [finishStop, hp, Option.bind_some, if_pos stopping, final]

/-- The next halt begins: the order of stops and the stage being halted are noted, and no more of the plan but its pipes changes. -/
theorem planOf_haltNext_some {s : State} {pn st : Nat} {p : Plan} (hp : planOf s pn = some p) (next : nextHalt p = some st) :
    ∃ q, planOf (haltNext s pn) pn = some q ∧ barePlan q = barePlan { p with stopOrder := p.stopOrder ++ [st], stopNow := some st } := by
  have noted : planOf (updPlan s pn (fun p => { p with stopOrder := p.stopOrder ++ [st], stopNow := some st })) pn =
      some { p with stopOrder := p.stopOrder ++ [st], stopNow := some st } := by
    rw [planOf_updPlan_self, hp]
    rfl
  unfold haltNext
  rw [hp]
  dsimp only
  rw [next]
  dsimp only
  split
  · exact exists_planOf_of_stagesView (stagesView_stopGrid _ _ _) noted
  · exact ⟨_, noted, rfl⟩

/-- After the last stage the record of the stop is written; where it needs no writes the plan ends at once. -/
theorem planOf_haltNext_none {s : State} {pn : Nat} {p : Plan} (hp : planOf s pn = some p) (stopping : p.state = .stopping) (next : nextHalt p = none) :
    let r := { p with finalRecord := some s.nextId }
    planOf (haltNext s pn) pn = some r ∨ planOf (haltNext s pn) pn = some (endedPlan r) := by
  have recorded : planOf (updPlan (planRecord s p) pn (fun p => { p with finalRecord := some s.nextId })) pn = some { p with finalRecord := some s.nextId } := by
    rw [planOf_updPlan_self, planOf_of_plansView (plansView_planRecord s p), hp]
    rfl
  have eq : haltNext s pn = finishStop (updPlan (planRecord s p) pn (fun p => { p with finalRecord := some s.nextId })) pn := by
    rw [haltNext, hp]
    dsimp only
    rw [next]
  dsimp only
  rw [eq, finishStop_eq recorded stopping rfl]
  split
  · exact .inl recorded
  · exact .inr (planOf_endPlan recorded true)

theorem get?_endedPlan (p : Plan) (st : Nat) :
    NMap.get? (endedPlan p).stages st = (NMap.get? p.stages st).map (fun t => { t with share := [], joining := [] }) :=
  (NMap.get?_map p.stages (fun t : Stage0 => { t with share := [], joining := [] }) st :)

/-- A stage that has halted. -/
def haltedStage (p : Plan) (st : Nat) : Plan := { p with stopNow := none, stages := nupdate p.stages st (fun t => { t with halted := true }) }

theorem nextHalt_haltedStage (p : Plan) (st : Nat) : nextHalt (haltedStage p st) = nextHalt p := by
  unfold nextHalt
  rw [show NMap.keys (haltedStage p st).stages = NMap.keys p.stages from keys_nupdate p.stages st (fun t => { t with halted := true })]
  rfl

theorem stageHalt_halts {s : State} {pl st : Nat} {p : Plan} {b : Stage0} (hp : planOf s pl = some p) (stopping : p.state = .stopping)
    (now : p.stopNow = some st) (hb : NMap.get? p.stages st = some b) (empty : ∀ g, NMap.get? s.grids b.grid = some g → g.running = 0)
    (kept : ∀ v ∈ s.savedBolts, v.grid = b.grid → v.dropping = false) :
    ∃ u, planOf u pl = some (haltedStage p st) ∧ u.nextId = s.nextId ∧ exec (.stageHalt pl) s = .next (haltNext u pl) := by
  have dropped : droppedBolts s b.grid = [] := List.filter_eq_nil_iff.2 fun v hv => by simpa using kept v hv
  have idle : (NMap.get? s.grids b.grid).any (fun g => !decide (g.running = 0)) = false := by
    cases hg : NMap.get? s.grids b.grid with
    | none => rfl
    | some g => simp [empty g hg]
  refine ⟨updStage (updPlan s pl (fun p => { p with stopNow := none })) pl st (fun t => { t with halted := true }), ?_, rfl, ?_⟩
  · rw [updStage, planOf_updPlan_self, planOf_updPlan_self, hp]
    rfl
  · show Host.Outcome.next _ = _
    simp [hp, now, hb, dropped, idle, stopping]

theorem stageHalt_result {s : State} {pl st : Nat} {p : Plan} {b : Stage0} (hp : planOf s pl = some p) (stopping : p.state = .stopping)
    (now : p.stopNow = some st) (hb : NMap.get? p.stages st = some b) (empty : ∀ g, NMap.get? s.grids b.grid = some g → g.running = 0)
    (kept : ∀ v ∈ s.savedBolts, v.grid = b.grid → v.dropping = false) :
    ∃ t p', exec (.stageHalt pl) s = .next t ∧ planOf t pl = some p' ∧ (NMap.get? p'.stages st).map Stage0.halted = some true ∧
      (nextHalt p = none → p'.state = .ended ∨ (p'.state = .stopping ∧ p'.stopNow = none ∧ p'.finalRecord = some s.nextId)) ∧
      ∀ k, nextHalt p = some k → p'.stopOrder = p.stopOrder ++ [k] ∧ p'.stopNow = some k := by
  obtain ⟨u, hu, number, run⟩ := stageHalt_halts hp stopping now hb empty kept
  have halted : (NMap.get? (haltedStage p st).stages st).map Stage0.halted = some true := by simp [haltedStage, hb]
  cases next : nextHalt p with
  | some k =>
    obtain ⟨q, hq, bare⟩ := planOf_haltNext_some hu ((nextHalt_haltedStage p st).trans next)
    have stages : q.stages = (haltedStage p st).stages := (congrArg Plan.stages bare :)
    refine ⟨_, q, run, hq, by rw [stages]; exact halted, fun none => by simp at none, fun k' hk => ?_⟩
    cases hk
    exact ⟨(congrArg Plan.stopOrder bare :), (congrArg Plan.stopNow bare :)⟩
  | none =>
    rcases planOf_haltNext_none hu stopping ((nextHalt_haltedStage p st).trans next) with waits | ended
    · exact ⟨_, _, run, waits, halted, fun _ => .inr ⟨stopping, rfl, congrArg some number⟩, fun k hk => by simp at hk⟩
    · refine ⟨_, _, run, ended, ?_, fun _ => .inl rfl, fun k hk => by simp at hk⟩
      rw [get?_endedPlan, Option.map_map]
      exact halted

/-- With the record of the stop on its way the plan waits; once that is written it ends. -/
theorem stageHalt_final {s : State} {pl id : Nat} {p : Plan} (hp : planOf s pl = some p) (stopping : p.state = .stopping)
    (now : p.stopNow = none) (final : p.finalRecord = some id) :
    exec (.stageHalt pl) s = .next (if s.records.any (fun r => r.id = id) then s else endPlan s pl true) := by
  rw [← finishStop_eq hp stopping final]
  show Host.Outcome.next _ = _
  simp only [hp, now]

/-! DEADLOCK_PROBE (R157). -/

theorem deadlockProbe_taken {s : State} {pl pkg stage count at_ : Nat} {p : Plan} {m : Probe} (hp : planOf s pl = some p)
    (come : s.probes.find? (fun (m : Probe) => decide ((m.pkg, m.stage, m.count, m.plan, m.atStage) = (pkg, stage, count, pl, at_))) = some m) :
    ∃ t, exec (.deadlockProbe pkg stage count pl at_) s = .next t ∧ ActsFor pl { s with probes := s.probes.erase m } t ∧
      (((NMap.get? p.stages at_).map Stage0.blocked).getD 0 = 0 → t = { s with probes := s.probes.erase m }) := by
  have here : planOf { s with probes := s.probes.erase m } pl = some p := hp
  refine ⟨_, rfl, ?_, fun zero => ?_⟩
  · beta_reduce
    rw [come]
    dsimp only
    rw [here]
    dsimp only
    split
    · exact .refl pl _
    · split
      · split
        · exact (actsFor_declareCross _ _ _).trans (actsFor_actDeclared _ _)
        · exact .refl pl _
      · split
        · exact .refl pl _
        · exact (actsFor_probeEdges _ _ _ _ _ _ _ _).trans (actsFor_actDeclared _ _)
  · beta_reduce
    rw [come]
    dsimp only
    rw [here]
    dsimp only
    rw [if_pos (.inr zero)]

end Sys2Proof.Machine
end

section
/-! PROOFS. The balancer's sample (O44): the classes of the stages, the choice of donor, recipient and core, and the move that it begins. -/

namespace Sys2Proof

theorem NMap.get?_of_mem {α : Type} {m : NMap α} (sorted : (NMap.keys m).Pairwise (· < ·)) {n : Nat} {a : α} (h : (n, a) ∈ m) :
    NMap.get? m n = some a := by
  induction m with
  | nil => cases h
  | cons e r ih =>
    obtain ⟨before, rest⟩ := List.pairwise_cons.1 sorted
    rcases List.mem_cons.1 h with rfl | later
    · exact if_pos rfl
    · have ne : e.1 ≠ n := (before n (List.mem_map.2 ⟨_, later, rfl⟩)).ne
      exact (if_neg ne).trans (ih rest later)

namespace Machine

/-! Choices from a list. -/

theorem leastBy_mem {α : Type} {f : α → Nat} {l : List α} {a : α} (h : leastBy f l = some a) : a ∈ l := by
  induction l generalizing a with
  | nil => cases h
  | cons x r ih =>
    simp only [leastBy] at h
    split at h
    · cases h
      exact .head _
    · rename_i b hb
      split at h
      · cases h
        exact .head _
      · cases h
        exact .tail _ (ih hb)

/-- An element is the least of a list where every other has a greater key, or an equal one and a later place. -/
theorem leastBy_eq_some {α : Type} {f : α → Nat} {R : α → α → Prop} {l : List α} {a : α} (order : l.Pairwise (fun x y => ¬R y x)) (mem : a ∈ l)
    (least : ∀ b ∈ l, f a < f b ∨ b = a ∨ (f a = f b ∧ R a b)) : leastBy f l = some a := by
  induction l with
  | nil => cases mem
  | cons x r ih =>
    obtain ⟨before, rest⟩ := List.pairwise_cons.1 order
    simp only [leastBy]
    by_cases first : x = a
    · subst first
      split
      · rfl
      · rename_i b hb
        have le : f x ≤ f b := by
          rcases least b (.tail _ (leastBy_mem hb)) with lt | rfl | ⟨eq, -⟩
          · exact lt.le
          · exact le_rfl
          · exact eq.le
        rw [if_pos le]
    · have later : a ∈ r := (List.mem_cons.1 mem).resolve_left (Ne.symm first)
      have lt : f a < f x := by
        rcases least x (.head _) with lt | eq | ⟨-, after⟩
        · exact lt
        · exact absurd eq first
        · exact absurd after (before a later)
      rw [ih rest later fun b hb => least b (.tail _ hb)]
      exact if_neg (Nat.not_le.2 lt)

/-- The first element that meets a condition. -/
theorem find?_eq_some_first {α : Type} {P : α → Bool} {R : α → α → Prop} {l : List α} {a : α} (order : l.Pairwise (fun x y => ¬R y x)) (mem : a ∈ l)
    (holds : P a = true) (first : ∀ b ∈ l, P b = true → b = a ∨ R a b) : l.find? P = some a := by
  induction l with
  | nil => cases mem
  | cons x r ih =>
    obtain ⟨before, rest⟩ := List.pairwise_cons.1 order
    rw [List.find?_cons]
    split
    · rename_i hx
      by_cases same : x = a
      · rw [same]
      · have later : a ∈ r := (List.mem_cons.1 mem).resolve_left (Ne.symm same)
        exact absurd ((first x (.head _) hx).resolve_left same) (before a later)
    · rename_i hx
      have later : a ∈ r := (List.mem_cons.1 mem).resolve_left fun same => by rw [← same, holds] at hx; cases hx
      exact ih rest later fun b hb => first b (.tail _ hb)

theorem foldl_max_spec (l : List Nat) : (∀ x ∈ l, x ≤ l.foldl max 0) ∧ (l.foldl max 0 = 0 ∨ l.foldl max 0 ∈ l) := by
  obtain ⟨mem, upper⟩ := List.max?_eq_some_iff.1 (List.max?_cons' (x := 0) (xs := l))
  exact ⟨fun x hx => upper x (.tail _ hx), List.mem_cons.1 mem⟩

/-! Classes and pressures (R150, R151). -/

theorem mem_inputPipes {p : Plan} {st : Nat} {q : Pipe} : q ∈ inputPipes p st ↔ Reads p st q := by
  simp [inputPipes, isConsumer, Reads]
theorem mem_outputPipes {p : Plan} {st : Nat} {q : Pipe} : q ∈ outputPipes p st ↔ Feeds p st q := by
  simp only [outputPipes, isProducer, Feeds, List.mem_filter, List.mem_map, Bool.and_eq_true, decide_eq_true_eq, Bool.not_eq_true', Bool.and_eq_false_iff]
  refine and_congr ⟨?_, ?_⟩ (and_congr_right fun _ => ?_)
  · rintro ⟨e, he, rfl⟩
    exact ⟨e.1, he⟩
  · rintro ⟨n, hn⟩
    exact ⟨_, hn, rfl⟩
  · cases q.remote <;> cases q.homeHere <;> decide
theorem inputPipes_eq_nil {p : Plan} {st : Nat} : inputPipes p st = [] ↔ ¬∃ q, Reads p st q := by
  simp only [List.eq_nil_iff_forall_not_mem, mem_inputPipes, not_exists]

/-- A stage is pressed, or starved, by the pipes that it reads from; by those that it feeds where it reads from none. -/
def pressedBy (p : Plan) (st : Nat) : Bool :=
  if (inputPipes p st).map occupancy = [] then ((outputPipes p st).map occupancy).all (fun o => decide (o ≤ p.emptyT))
  else ((inputPipes p st).map occupancy).any (fun o => decide (p.fullT ≤ o))
def starvedBy (p : Plan) (st : Nat) : Bool :=
  if (inputPipes p st).map occupancy = [] then ((outputPipes p st).map occupancy).all (fun o => decide (p.fullT ≤ o))
  else ((inputPipes p st).map occupancy).all (fun o => decide (o ≤ p.emptyT))

theorem stageClass_eq (p : Plan) (st : Nat) : stageClass p st = if pressedBy p st then 2 else if starvedBy p st then 1 else 0 := rfl

theorem all_inputs {p : Plan} {st : Nat} {P : Nat → Bool} : ((inputPipes p st).map occupancy).all P = true ↔ ∀ q, Reads p st q → P (Occ q) = true := by
  simp only [List.all_map, List.all_eq_true, mem_inputPipes]
  rfl
theorem any_inputs {p : Plan} {st : Nat} {P : Nat → Bool} : ((inputPipes p st).map occupancy).any P = true ↔ ∃ q, Reads p st q ∧ P (Occ q) = true := by
  simp only [List.any_map, List.any_eq_true, mem_inputPipes]
  rfl
theorem all_outputs {p : Plan} {st : Nat} {P : Nat → Bool} : ((outputPipes p st).map occupancy).all P = true ↔ ∀ q, Feeds p st q → P (Occ q) = true := by
  simp only [List.all_map, List.all_eq_true, mem_outputPipes]
  rfl

theorem pressedBy_iff {p : Plan} {st : Nat} : pressedBy p st = true ↔
    (∃ q, Reads p st q ∧ p.fullT ≤ Occ q) ∨ (¬(∃ q, Reads p st q) ∧ ∀ q, Feeds p st q → Occ q ≤ p.emptyT) := by
  unfold pressedBy
  split
  · rename_i none
    have noInput : ¬∃ q, Reads p st q := inputPipes_eq_nil.1 (List.map_eq_nil_iff.1 none)
    simp only [all_outputs, decide_eq_true_eq]
    exact ⟨fun h => .inr ⟨noInput, h⟩, fun h => (h.resolve_left fun ⟨q, hq, _⟩ => noInput ⟨q, hq⟩).2⟩
  · rename_i some
    simp only [any_inputs, decide_eq_true_eq]
    exact ⟨.inl, fun h => h.resolve_right fun h => some (List.map_eq_nil_iff.2 (inputPipes_eq_nil.2 h.1))⟩
theorem starvedBy_iff {p : Plan} {st : Nat} : starvedBy p st = true ↔
    ((∃ q, Reads p st q) ∧ ∀ q, Reads p st q → Occ q ≤ p.emptyT) ∨ (¬(∃ q, Reads p st q) ∧ ∀ q, Feeds p st q → p.fullT ≤ Occ q) := by
  unfold starvedBy
  split
  · rename_i none
    have noInput : ¬∃ q, Reads p st q := inputPipes_eq_nil.1 (List.map_eq_nil_iff.1 none)
    simp only [all_outputs, decide_eq_true_eq]
    exact ⟨fun h => .inr ⟨noInput, h⟩, fun h => (h.resolve_left fun h => noInput h.1).2⟩
  · rename_i some
    have input : ∃ q, Reads p st q := not_not.1 fun none => some (List.map_eq_nil_iff.2 (inputPipes_eq_nil.2 none))
    simp only [all_inputs, decide_eq_true_eq]
    exact ⟨fun h => .inl ⟨input, h⟩, fun h => (h.resolve_right fun h => h.1 input).2⟩

theorem stageClass_iff {p : Plan} {st k : Nat} : StageClass p st k ↔ stageClass p st = k := by
  unfold StageClass
  dsimp only
  rw [← pressedBy_iff, ← starvedBy_iff, stageClass_eq]
  cases pressedBy p st <;> cases starvedBy p st <;> simp [eq_comm]

theorem pressure_spec (p : Plan) (st : Nat) : Pressure p st (pressure p st) := by
  have toInput {x : Nat} : x ∈ (inputPipes p st).map occupancy ↔ ∃ q, Reads p st q ∧ Occ q = x := by
    simp only [List.mem_map, mem_inputPipes]
    rfl
  have toOutput {x : Nat} : x ∈ (outputPipes p st).map occupancy ↔ ∃ q, Feeds p st q ∧ Occ q = x := by
    simp only [List.mem_map, mem_outputPipes]
    rfl
  unfold pressure
  split
  · rename_i none
    have noInput : ¬∃ q, Reads p st q := inputPipes_eq_nil.1 (List.map_eq_nil_iff.1 none)
    obtain ⟨upper, attained⟩ := foldl_max_spec ((outputPipes p st).map occupancy)
    refine ⟨fun input => absurd input noInput, fun _ => ⟨Nat.sub_le _ _, fun q hq => ?_, ?_⟩⟩
    · exact Nat.sub_le_sub_left (upper _ (toOutput.2 ⟨q, hq, rfl⟩)) 255
    · rcases attained with zero | mem
      · exact .inl (by rw [zero])
      · obtain ⟨q, hq, eq⟩ := toOutput.1 mem
        exact .inr ⟨q, hq, by rw [eq]⟩
  · rename_i some
    have input : ∃ q, Reads p st q := not_not.1 fun none => some (List.map_eq_nil_iff.2 (inputPipes_eq_nil.2 none))
    obtain ⟨upper, attained⟩ := foldl_max_spec ((inputPipes p st).map occupancy)
    refine ⟨fun _ => ⟨?_, fun q hq => upper _ (toInput.2 ⟨q, hq, rfl⟩)⟩, fun noInput => absurd input noInput⟩
    rcases attained with zero | mem
    · obtain ⟨q, hq⟩ := input
      exact ⟨q, hq, zero.trans (Nat.le_zero.1 (zero ▸ upper _ (toInput.2 ⟨q, hq, rfl⟩))).symm⟩
    · obtain ⟨q, hq, eq⟩ := toInput.1 mem
      exact ⟨q, hq, eq.symm⟩

theorem pressure_le (p : Plan) (st : Nat) : pressure p st ≤ 255 := by
  obtain ⟨inputs, none⟩ := pressure_spec p st
  by_cases some : ∃ q, Reads p st q
  · obtain ⟨⟨q, -, eq⟩, -⟩ := inputs some
    rw [eq]
    exact min_le_left _ _
  · exact (none some).1

end Machine
end Sys2Proof
end

section
/-! PROOFS. The balancer's sample of all plans, and the move of a plan that is alone on one die (O44). -/

namespace Sys2Proof.Machine

/-! The sample (R150). -/

/-- A stage as a sample of its plan leaves it. -/
def classedStage (p : Plan) (st : Nat) (b : Stage0) : Stage0 :=
  { b with cls := stageClass p st, clsCount := if stageClass p st = b.cls then b.clsCount + 1 else 1 }
/-- The plans that a sample takes. -/
def unsampled (s : State) : List Nat := (s.plans.filter (fun e => e.2.state = .running ∧ e.2.balanced ≠ some s.clock)).map Prod.fst
/-- The sample of one plan. -/
def sampleShares (s : State) (pn : Nat) : State :=
  match planOf s pn with
  | some p => sendSamples (updPlan s pn (fun p => classify p s.clock)) p
  | none => s

theorem balancerSample_eq {s : State} (due : s.clock % 65536 = 0) :
    exec .balancerSample s = .next ((List.range 4).foldl (fun t die => (unsampled s).foldl (decideMove die) t) ((unsampled s).foldl sampleShares s)) := by
  show Host.Outcome.next (balancerSample s) = _
  rw [balancerSample, if_neg (not_not.2 due)]
  rfl

theorem classify_stages {p : Plan} (balance : p.balance = true) (now : Nat) :
    (classify p now).stages = p.stages.map (fun t => (t.1, classedStage p t.1 t.2)) := by
  simp only [classify, balance]
  rfl
theorem get?_classify {p : Plan} (balance : p.balance = true) (now st : Nat) :
    NMap.get? (classify p now).stages st = (NMap.get? p.stages st).map (classedStage p st) := by
  rw [classify_stages balance]
  exact NMap.get?_mapKey p.stages (classedStage p) st

theorem plansView_sampleShares (s : State) (pn : Nat) : plansView (sampleShares s pn) = plansView (updPlan s pn (fun p => classify p s.clock)) := by
  unfold sampleShares
  cases h : planOf s pn with
  | some p => exact plansView_of_besidesPorts (besidesPorts_sendSamples _ p)
  | none =>
    have absent : ∀ e ∈ s.plans, e.1 ≠ pn := by
      intro e he same
      have mem : ∀ m : NMap Plan, e ∈ m → NMap.get? m pn ≠ none := by
        intro m
        induction m with
        | nil => intro h; cases h
        | cons x r ih =>
          intro he
          simp only [NMap.get?]
          split
          · simp
          · rename_i ne
            rcases List.mem_cons.1 he with rfl | later
            · exact absurd same ne
            · exact ih later
      exact mem s.plans he h
    have same : nupdate s.plans pn (fun p => classify p s.clock) = s.plans :=
      (List.map_congr_left fun e he => if_neg (absent e he)).trans (List.map_id _)
    simp only [plansView, updPlan, same]

/-- The pipes of a plan and what else its classes rest on. -/
structure SameFlow (p q : Plan) : Prop where
  balance : q.balance = true
  pipes : q.pipes = p.pipes
  full : q.fullT = p.fullT
  empty : q.emptyT = p.emptyT
  stages : ∀ st b, NMap.get? p.stages st = some b → (NMap.get? q.stages st).isSome = true
/-- A plan that has been sampled. -/
structure Classed (now : Nat) (p q : Plan) : Prop where
  balanced : q.balanced = some now
  classes : ∀ st b, NMap.get? p.stages st = some b → ∃ b', NMap.get? q.stages st = some b' ∧ b'.cls = stageClass p st

theorem SameFlow.stageClass_eq {p q : Plan} (h : SameFlow p q) (st : Nat) : stageClass q st = stageClass p st := by
  unfold stageClass inputPipes outputPipes
  rw [h.pipes, h.full, h.empty]
theorem SameFlow.classify {p q : Plan} (h : SameFlow p q) (now : Nat) : SameFlow p (classify q now) ∧ Classed now p (classify q now) := by
  refine ⟨⟨h.balance, h.pipes, h.full, h.empty, fun st b hb => ?_⟩, rfl, fun st b hb => ?_⟩
  · rw [get?_classify h.balance, Option.isSome_map]
    exact h.stages st b hb
  · obtain ⟨c, hc⟩ := Option.isSome_iff_exists.1 (h.stages st b hb)
    exact ⟨_, by rw [get?_classify h.balance, hc]; rfl, h.stageClass_eq st⟩

theorem planOf_sampleShares (s : State) (pn pl : Nat) :
    planOf (sampleShares s pn) pl = if pl = pn then (planOf s pl).map (fun p => classify p s.clock) else planOf s pl := by
  rw [planOf_of_plansView (plansView_sampleShares s pn)]
  split
  · rename_i same
    rw [same, planOf_updPlan_self]
  · rename_i ne
    exact planOf_updPlan_ne s _ ne
theorem clock_sampleShares (s : State) (pn : Nat) : (sampleShares s pn).clock = s.clock := congrArg (fun v => v.1) (plansView_sampleShares s pn)

theorem foldl_sampleShares {pl : Nat} {p : Plan} (l : List Nat) : ∀ {s : State} {q : Plan}, planOf s pl = some q → SameFlow p q →
    pl ∈ l ∨ Classed s.clock p q → ∃ q', planOf (l.foldl sampleShares s) pl = some q' ∧ Classed s.clock p q' := by
  induction l with
  | nil => exact fun hq _ classed => ⟨_, hq, classed.resolve_left fun h => by cases h⟩
  | cons pn r ih =>
    intro s q hq flow sampled
    rw [List.foldl_cons, ← clock_sampleShares s pn]
    by_cases same : pl = pn
    · have hq' : planOf (sampleShares s pn) pl = some (classify q s.clock) := by rw [planOf_sampleShares, if_pos same, hq]; rfl
      exact ih hq' (flow.classify s.clock).1 (.inr (clock_sampleShares s pn ▸ (flow.classify s.clock).2))
    · have hq' : planOf (sampleShares s pn) pl = some q := by rw [planOf_sampleShares, if_neg same, hq]
      refine ih hq' flow (sampled.imp (fun mem => (List.mem_cons.1 mem).resolve_left same) fun classed => ?_)
      rwa [clock_sampleShares]

/-! What the moves of cores leave alone. -/

/-- A stage, and a plan, without what a move changes: shares and counts. -/
def stillStage (t : Stage0) : Stage0 := { t with share := [], joining := [], clsCount := 0 }
def stillPlan (p : Plan) : Plan := { p with stages := p.stages.map (fun t => (t.1, stillStage t.2)) }
/-- The plans but for what moves change. -/
def stillPlans (s : State) : NMap Plan := s.plans.map (fun e => (e.1, stillPlan e.2))

theorem stillPlans_of_plansView {s t : State} (h : plansView t = plansView s) : stillPlans t = stillPlans s :=
  (congrArg (fun v => v.2.1.map (fun e : Nat × Plan => (e.1, stillPlan e.2))) h :)
theorem stillPlans_updStage (s : State) (pn st : Nat) (f : Stage0 → Stage0)
    (hf : ∀ t, stillStage (f t) = stillStage t) :
    stillPlans (updStage s pn st f) = stillPlans s := by
  have still (p : Plan) : stillPlan { p with stages := nupdate p.stages st f } = stillPlan p := by
    refine congrArg (fun m : NMap Stage0 => { p with stages := m }) ?_
    rw [nupdate, List.map_map]
    refine List.map_congr_left fun t _ => ?_
    simp only [Function.comp_apply]
    split
    · exact congrArg (Prod.mk t.1) (hf t.2)
    · rfl
  rw [stillPlans, stillPlans, updStage, updPlan, nupdate, List.map_map]
  refine List.map_congr_left fun e _ => ?_
  simp only [Function.comp_apply]
  split
  · exact congrArg (Prod.mk e.1) (still e.2)
  · rfl

/-- A core leaves the share of a stage; it is taken for another one; and it joins the share for which it was taken. -/
def leaveShare (c : Nat) (t : Stage0) : Stage0 := { t with share := t.share.filter (fun k => k ≠ c), clsCount := 0 }
def awaitCore (c : Nat) (t : Stage0) : Stage0 := { t with joining := t.joining ++ [c], clsCount := 0 }
def joinCore (c : Nat) (t : Stage0) : Stage0 := { t with share := t.share ++ [c], joining := t.joining.filter (fun k => k ≠ c) }

/-- What holds of every state that the joining of cores passes through, when every core that joins keeps it. -/
theorem joinShares_induction {die : Nat} {P : State → Prop} {s : State} (start : P s) (view : ∀ t u, plansView u = plansView t → P t → P u)
    (join : ∀ t, P t → ∀ e ∈ s.plans, ∀ st ∈ e.2.stages, ∀ c ∈ st.2.joining, dieOf c = die → P (updStage t e.1 st.1 (joinCore c))) :
    P (joinShares s die) := by
  unfold joinShares
  refine List.foldlRecOn (motive := P) _ _ start fun t ht e he => ?_
  refine List.foldlRecOn (motive := P) _ _ ht fun t ht st hst => ?_
  refine List.foldlRecOn (motive := P) _ _ ht fun t ht c hc => ?_
  split
  · exact ht
  · rename_i here
    have joined := join t ht e he st hst c hc (not_not.1 here)
    split
    · dsimp only
      split
      · exact view (updStage t e.1 st.1 (joinCore c)) _ rfl joined
      · exact joined
    · refine view t _ (foldl_keeps plansView _ (fun u b => ?_) _ t) ht
      split
      · exact plansView_beginStop _ _ _ _
      · rfl

theorem stillPlans_joinShares (s : State) (die : Nat) : stillPlans (joinShares s die) = stillPlans s :=
  joinShares_induction (P := fun t => stillPlans t = stillPlans s) rfl (fun _ _ same ht => (stillPlans_of_plansView same).trans ht)
    fun t ht _ _ _ _ _ _ _ => (stillPlans_updStage t _ _ (joinCore _) fun _ => rfl).trans ht

/-- The move of a core before it joins its new share: it leaves the old one, and its bolts are stopped. -/
def coreTaken (s : State) (pn die : Nat) (m : Nat × Nat × Nat) : State :=
  let u := updStage (updStage s pn m.1 (leaveShare m.2.2)) pn m.2.1 (awaitCore m.2.2)
  let v : State := { u with dies := NMap.insert u.dies die { NMap.getD u.dies die {} with move := some (pn, m) } }
  (coreOf v m.2.2).bolts.foldl (fun s b => if b.2.stop.isNone then beginStop s m.2.2 b.1 .save else s) v
theorem startMove_eq (s : State) (pn die : Nat) (m : Nat × Nat × Nat) : startMove s pn die m = joinShares (coreTaken s pn die m) die := rfl
theorem plansView_coreTaken (s : State) (pn die : Nat) (m : Nat × Nat × Nat) : plansView (coreTaken s pn die m) =
    plansView (updStage (updStage s pn m.1 (leaveShare m.2.2)) pn m.2.1 (awaitCore m.2.2)) := by
  refine (foldl_keeps plansView _ (fun s b => ?_) _ _).trans rfl
  split
  · exact plansView_beginStop _ _ _ _
  · rfl

theorem stillPlans_decideMove (die : Nat) (s : State) (pn : Nat) : stillPlans (decideMove die s pn) = stillPlans s := by
  unfold decideMove
  dsimp only
  split
  · rfl
  · split
    · rfl
    · split
      · rename_i m _
        rw [startMove_eq, stillPlans_joinShares, stillPlans_of_plansView (plansView_coreTaken _ _ _ _),
          stillPlans_updStage _ _ _ (awaitCore m.2.2) fun _ => rfl, stillPlans_updStage _ _ _ (leaveShare m.2.2) fun _ => rfl]
        rfl
      · rfl

/-- Moves of cores keep the classes of a sampled plan. -/
theorem classed_of_stillPlans {s t : State} {now pl : Nat} {p q : Plan} (same : stillPlans t = stillPlans s) (hq : planOf s pl = some q)
    (classed : Classed now p q) : ∃ q', planOf t pl = some q' ∧ Classed now p q' := by
  have eq : (planOf t pl).map stillPlan = (planOf s pl).map stillPlan := by
    have eq := congrArg (fun m => NMap.get? m pl) same
    simpa only [stillPlans, NMap.get?_map, planOf] using eq
  rw [hq] at eq
  obtain ⟨q', hq', still⟩ := Option.map_eq_some_iff.1 eq
  refine ⟨q', hq', (congrArg Plan.balanced still :).trans classed.balanced, fun st b hb => ?_⟩
  obtain ⟨c, hc, cls⟩ := classed.classes st b hb
  have stage : (NMap.get? q'.stages st).map Stage0.cls = (NMap.get? q.stages st).map Stage0.cls := by
    have eq := congrArg (fun r : Plan => (NMap.get? r.stages st).map Stage0.cls) still
    simp only [stillPlan, NMap.get?_map, Option.map_map] at eq
    exact eq
  rw [hc] at stage
  obtain ⟨c', hc', eq'⟩ := Option.map_eq_some_iff.1 stage
  exact ⟨c', hc', eq'.trans cls⟩

theorem balancerSample_classes {s : State} {pl : Nat} {p : Plan} (hp : planOf s pl = some p) (due : s.clock % 65536 = 0) (running : p.state = .running)
    (balance : p.balance = true) (fresh : p.balanced ≠ some s.clock) :
    ∃ t p', exec .balancerSample s = .next t ∧ planOf t pl = some p' ∧ p'.balanced = some s.clock ∧
      ∀ st b, NMap.get? p.stages st = some b → ∃ b', NMap.get? p'.stages st = some b' ∧ StageClass p st b'.cls := by
  have taken : pl ∈ unsampled s := List.mem_map.2 ⟨(pl, p), List.mem_filter.2 ⟨NMap.mem_of_get? hp, by simp [running, fresh]⟩, rfl⟩
  have flow : SameFlow p p := ⟨balance, rfl, rfl, rfl, fun _ _ hb => by rw [hb]; rfl⟩
  obtain ⟨q, hq, classed⟩ := foldl_sampleShares (unsampled s) hp flow (.inl taken)
  have moves : stillPlans ((List.range 4).foldl (fun t die => (unsampled s).foldl (decideMove die) t) ((unsampled s).foldl sampleShares s)) =
      stillPlans ((unsampled s).foldl sampleShares s) :=
    foldl_keeps stillPlans _ (fun t die => foldl_keeps stillPlans (decideMove die) (stillPlans_decideMove die) _ t) _ _
  obtain ⟨q', hq', classed'⟩ := classed_of_stillPlans moves hq classed
  refine ⟨_, q', balancerSample_eq due, hq', classed'.balanced, fun st b hb => ?_⟩
  obtain ⟨b', hb', cls⟩ := classed'.classes st b hb
  exact ⟨b', hb', stageClass_iff.2 cls.symm⟩

end Sys2Proof.Machine
end

section
/-! PROOFS. The balancer's move for a plan that is alone on one die (O44). -/

namespace Sys2Proof.Machine

/-! The choice (R151). -/

/-- The count of a class that a stage reaches in a sample. -/
def sampleCount (b : Stage0) (k : Nat) : Nat := if b.cls = k then b.clsCount + 1 else 1
/-- A stage has been of a class for as many samples as a move asks for. -/
def Eligible (p : Plan) (st : Nat) (b : Stage0) (k : Nat) : Prop := NMap.get? p.stages st = some b ∧ StageClass p st k ∧ p.hyst ≤ sampleCount b k
/-- A stage that may receive a core, and one that may give one. -/
def MayTake (p : Plan) (die st : Nat) (b : Stage0) : Prop := Eligible p st b 2 ∧ (b.share ++ b.joining).length < b.maxShare.getD die 0
def MayGive (p : Plan) (die st : Nat) (b : Stage0) : Prop := Eligible p st b 1 ∧ b.minShare.getD die 0 < (b.share ++ b.joining).length
/-- A core of the donor whose bolts have run for the minimum residency, and the value by which it is ranked. -/
def CoreReady (s : State) (p : Plan) (b : Stage0) (k : Nat) : Prop :=
  k ∈ b.share ∧ (∀ e ∈ (coreOf s k).bolts, e.2.started + (p.residency + 1) * 1800000 ≤ s.clock) ∧ coreHalted s k = false
def coreRank (s : State) (k : Nat) : Nat := 256 * (coreOf s k).skeins.length + k
/-- All cores of a plan's stages lie on one die. -/
def OnDie (die : Nat) (p : Plan) : Prop := ∀ e ∈ p.stages, ∀ k ∈ e.2.share ++ e.2.joining, dieOf k = die

/-- The donor, the recipient and the core of a sample's move on the die of a plan. -/
structure MoveChosen (s : State) (p : Plan) (die dn : Nat) (dd : Stage0) (rn : Nat) (rr : Stage0) (c : Nat) : Prop where
  balance : p.balance = true
  sorted : (NMap.keys p.stages).Pairwise (· < ·)
  onDie : OnDie die p
  cores : ∀ k ∈ dd.share, k < 192 ∧ k ∉ dd.joining
  takes : MayTake p die rn rr
  highest : ∀ st b u v, MayTake p die st b → Pressure p st u → Pressure p rn v → u < v ∨ (u = v ∧ rn ≤ st)
  gives : MayGive p die dn dd
  lowest : ∀ st b, MayGive p die st b → dn ≤ st
  ready : CoreReady s p dd c
  least : ∀ k, CoreReady s p dd k → coreRank s c ≤ coreRank s k

theorem keys_classify {p : Plan} (balance : p.balance = true) (now : Nat) : NMap.keys (classify p now).stages = NMap.keys p.stages := by
  rw [classify_stages balance, NMap.keys, List.map_map]
  rfl
theorem mem_classify {p : Plan} (balance : p.balance = true) (sorted : (NMap.keys p.stages).Pairwise (· < ·)) {now : Nat} {t : Nat × Stage0} :
    t ∈ (classify p now).stages ↔ ∃ b, NMap.get? p.stages t.1 = some b ∧ t.2 = classedStage p t.1 b := by
  rw [classify_stages balance, List.mem_map]
  constructor
  · rintro ⟨e, he, rfl⟩
    exact ⟨e.2, NMap.get?_of_mem sorted he, rfl⟩
  · rintro ⟨b, hb, eq⟩
    exact ⟨(t.1, b), NMap.mem_of_get? hb, by rw [← eq]⟩
theorem classify_onDie {die : Nat} {p : Plan} (balance : p.balance = true) (h : OnDie die p) (now : Nat) : OnDie die (classify p now) := by
  intro t ht
  rw [classify_stages balance] at ht
  obtain ⟨e, he, rfl⟩ := List.mem_map.1 ht
  exact h e he
theorem shareOn_of_onDie {die : Nat} {p : Plan} (h : OnDie die p) {t : Nat × Stage0} (ht : t ∈ p.stages) : shareOn t.2 die = t.2.share ++ t.2.joining :=
  List.filter_eq_self.2 fun k hk => decide_eq_true (h t ht k hk)
theorem shareOn_elsewhere {die d : Nat} {p : Plan} (h : OnDie die p) (ne : d ≠ die) {t : Nat × Stage0} (ht : t ∈ p.stages) : shareOn t.2 d = [] :=
  List.filter_eq_nil_iff.2 fun k hk here => ne ((of_decide_eq_true here).symm.trans (h t ht k hk))

/-- What the model asks of a recipient or donor of a sampled plan is what R151 asks. -/
theorem eligible_classed {p : Plan} {st k : Nat} {b : Stage0} (hb : NMap.get? p.stages st = some b) :
    (decide ((classedStage p st b).cls = k) && decide (p.hyst ≤ (classedStage p st b).clsCount)) = true ↔ Eligible p st b k := by
  rw [Eligible, stageClass_iff, Bool.and_eq_true, decide_eq_true_iff, decide_eq_true_iff]
  simp only [hb, true_and, classedStage]
  refine and_congr_right fun eq => ?_
  rw [eq, sampleCount]
  simp only [eq_comm (a := k)]

theorem stages_order {m : NMap Stage0} (sorted : (NMap.keys m).Pairwise (· < ·)) : m.Pairwise (fun x y => ¬y.1 < x.1) :=
  (List.pairwise_map.1 sorted).imp fun lt => Nat.lt_asymm lt

section
variable {s : State} {p : Plan} {die dn rn c : Nat} {dd rr : Stage0}

theorem MoveChosen.recipient (h : MoveChosen s p die dn dd rn rr c) (now : Nat) :
    leastBy (fun (t : Nat × Stage0) => 255 - pressure p t.1)
      ((classify p now).stages.filter (fun t => (decide (t.2.cls = 2) && decide (p.hyst ≤ t.2.clsCount)) && decide ((shareOn t.2 die).length < t.2.maxShare.getD die 0))) =
      some (rn, classedStage p rn rr) := by
  have onDie := classify_onDie h.balance h.onDie now
  have meaning {t : Nat × Stage0} (ht : t ∈ (classify p now).stages) {b : Stage0} (hb : NMap.get? p.stages t.1 = some b) (eq : t.2 = classedStage p t.1 b) :
      ((decide (t.2.cls = 2) && decide (p.hyst ≤ t.2.clsCount)) && decide ((shareOn t.2 die).length < t.2.maxShare.getD die 0)) = true ↔ MayTake p die t.1 b := by
    rw [shareOn_of_onDie onDie ht, Bool.and_eq_true, eq, eligible_classed hb, decide_eq_true_eq]
    rfl
  have sorted : (NMap.keys (classify p now).stages).Pairwise (· < ·) := by rw [keys_classify h.balance]; exact h.sorted
  refine leastBy_eq_some (R := fun x y => x.1 < y.1) ((stages_order sorted).filter _) ?_ fun t ht => ?_
  · have mem : (rn, classedStage p rn rr) ∈ (classify p now).stages := (mem_classify h.balance h.sorted).2 ⟨rr, h.takes.1.1, rfl⟩
    exact List.mem_filter.2 ⟨mem, (meaning mem h.takes.1.1 rfl).2 h.takes⟩
  · obtain ⟨mem, pass⟩ := List.mem_filter.1 ht
    obtain ⟨b, hb, eq⟩ := (mem_classify h.balance h.sorted).1 mem
    have le := pressure_le p rn
    rcases h.highest t.1 b _ _ ((meaning mem hb eq).1 pass) (pressure_spec p t.1) (pressure_spec p rn) with lt | ⟨same, after⟩
    · left
      dsimp only
      omega
    · rcases after.eq_or_lt with here | later
      · refine .inr (.inl (Prod.ext here.symm ?_))
        have hr := h.takes.1.1
        rw [here, hb] at hr
        rw [eq, ← here, Option.some.inj hr]
      · exact .inr (.inr ⟨by rw [same], later⟩)

theorem MoveChosen.donor (h : MoveChosen s p die dn dd rn rr c) (now : Nat) :
    (classify p now).stages.find? (fun t => (decide (t.2.cls = 1) && decide (p.hyst ≤ t.2.clsCount)) && decide (t.2.minShare.getD die 0 < (shareOn t.2 die).length)) =
      some (dn, classedStage p dn dd) := by
  have onDie := classify_onDie h.balance h.onDie now
  have meaning {t : Nat × Stage0} (ht : t ∈ (classify p now).stages) {b : Stage0} (hb : NMap.get? p.stages t.1 = some b) (eq : t.2 = classedStage p t.1 b) :
      ((decide (t.2.cls = 1) && decide (p.hyst ≤ t.2.clsCount)) && decide (t.2.minShare.getD die 0 < (shareOn t.2 die).length)) = true ↔ MayGive p die t.1 b := by
    rw [shareOn_of_onDie onDie ht, Bool.and_eq_true, eq, eligible_classed hb, decide_eq_true_eq]
    rfl
  have sorted : (NMap.keys (classify p now).stages).Pairwise (· < ·) := by rw [keys_classify h.balance]; exact h.sorted
  have mem : (dn, classedStage p dn dd) ∈ (classify p now).stages := (mem_classify h.balance h.sorted).2 ⟨dd, h.gives.1.1, rfl⟩
  refine find?_eq_some_first (R := fun x y => x.1 < y.1) (stages_order sorted) mem ((meaning mem h.gives.1.1 rfl).2 h.gives) fun t ht pass => ?_
  obtain ⟨b, hb, eq⟩ := (mem_classify h.balance h.sorted).1 ht
  rcases (h.lowest t.1 b ((meaning ht hb eq).1 pass)).eq_or_lt with here | later
  · refine .inl (Prod.ext here.symm ?_)
    have hd := h.gives.1.1
    rw [here, hb] at hd
    rw [eq, ← here, Option.some.inj hd]
  · exact .inr later

theorem MoveChosen.core (h : MoveChosen s p die dn dd rn rr c) :
    leastBy (fun k => 256 * residentSkeins (coreOf s k) + k)
      ((dd.share.filter (fun k => dieOf k = die)).filter (fun k => allRun s k ((p.residency + 1) * halfMs) && !coreHalted s k)) = some c := by
  have meaning {k : Nat} : k ∈ (dd.share.filter (fun k => dieOf k = die)).filter (fun k => allRun s k ((p.residency + 1) * halfMs) && !coreHalted s k) ↔
      CoreReady s p dd k := by
    simp only [List.mem_filter, decide_eq_true_eq, Bool.and_eq_true, Bool.not_eq_true', allRun, List.all_eq_true, CoreReady, halfMs]
    refine ⟨fun ⟨⟨mem, _⟩, ran, free⟩ => ⟨mem, fun b hb => of_decide_eq_true (ran b hb), free⟩,
      fun ⟨mem, ran, free⟩ => ⟨⟨mem, ?_⟩, fun b hb => decide_eq_true (ran b hb), free⟩⟩
    exact h.onDie _ (NMap.mem_of_get? h.gives.1.1) k (List.mem_append_left _ mem)
  refine leastBy_eq_some (R := fun _ _ => False) (List.pairwise_of_forall fun _ _ => id) (meaning.2 h.ready) fun k hk => ?_
  have ready := meaning.1 hk
  have rank := h.least k ready
  have small := (h.cores k ready.1).1
  have small' := (h.cores c h.ready.1).1
  simp only [coreRank] at rank
  simp only [residentSkeins]
  omega

theorem MoveChosen.balanceMove (h : MoveChosen s p die dn dd rn rr c) (now : Nat) {u : State} (cores : u.cores = s.cores) (clock : u.clock = s.clock) :
    balanceMove u (classify p now) die = some (dn, rn, c) := by
  have run : allRun u = allRun s := by
    funext k n
    simp only [allRun, coreOf, cores, clock]
  have halted : coreHalted u = coreHalted s := by
    funext k
    simp only [coreHalted, coreOf, cores]
  have core : coreOf u = coreOf s := by
    funext k
    simp only [coreOf, cores]
  unfold Sys2Proof.Machine.balanceMove
  dsimp only
  rw [show (classify p now).hyst = p.hyst from rfl, show pressure (classify p now) = pressure p from rfl, show (classify p now).residency = p.residency from rfl,
    h.recipient now, h.donor now, run, halted, core]
  dsimp only
  rw [show (classedStage p dn dd).share = dd.share from rfl, h.core]
  rfl

end

/-! The move (R152). -/

/-- The core has left the donor, and has joined the recipient or is on its way there; all cores of the plan are on the die. -/
structure CoreMoved (die dn rn c : Nat) (q : Plan) : Prop where
  donor : ∃ d, NMap.get? q.stages dn = some d ∧ c ∉ d.share ++ d.joining ∧ d.clsCount = 0
  recipient : ∃ r, NMap.get? q.stages rn = some r ∧ c ∈ r.share ++ r.joining ∧ r.clsCount = 0
  onDie : OnDie die q

theorem OnDie.nupdate {die : Nat} {q : Plan} (h : OnDie die q) {st : Nat} {f : Stage0 → Stage0}
    (hf : ∀ t, ∀ k ∈ (f t).share ++ (f t).joining, k ∈ t.share ++ t.joining ∨ dieOf k = die) :
    OnDie die { q with stages := Machine.nupdate q.stages st f } := by
  intro e he k hk
  obtain ⟨e', he', rfl⟩ := List.mem_map.1 he
  split at hk
  · exact (hf e'.2 k hk).elim (h e' he' k) id
  · exact h e' he' k hk

theorem mem_joinCore {c k : Nat} {t : Stage0} : k ∈ (joinCore c t).share ++ (joinCore c t).joining ↔ k ∈ t.share ++ t.joining ∨ k = c := by
  simp only [joinCore, List.mem_append, List.mem_filter, List.mem_singleton, decide_eq_true_eq, ne_eq]
  tauto

theorem CoreMoved.join {die dn rn c st k : Nat} {q : Plan} (h : CoreMoved die dn rn c q) (here : dieOf k = die) (other : st = dn → k ≠ c) :
    CoreMoved die dn rn c { q with stages := nupdate q.stages st (joinCore k) } := by
  obtain ⟨⟨d, hd, gone, zero⟩, ⟨r, hr, come, zero'⟩, onDie⟩ := h
  refine ⟨?_, ?_, onDie.nupdate fun t j hj => (mem_joinCore.1 hj).imp_right fun eq => by rw [eq]; exact here⟩
  · by_cases same : dn = st
    · refine ⟨joinCore k d, by rw [← same, get?_nupdate_self, hd]; rfl, fun mem => ?_, zero⟩
      exact (mem_joinCore.1 mem).elim gone fun eq => other same.symm eq.symm
    · exact ⟨d, by rw [get?_nupdate_ne _ _ same, hd], gone, zero⟩
  · by_cases same : rn = st
    · exact ⟨joinCore k r, by rw [← same, get?_nupdate_self, hr]; rfl, mem_joinCore.2 (.inl come), zero'⟩
    · exact ⟨r, by rw [get?_nupdate_ne _ _ same, hr], come, zero'⟩

/-- The cores that join their shares as a move starts leave it in force. -/
theorem coreMoved_joinShares {s : State} {pl die dn rn c : Nat} {q : Plan} (alone : s.plans = [(pl, q)]) (sorted : (NMap.keys q.stages).Pairwise (· < ·))
    (moved : CoreMoved die dn rn c q) : ∃ q', planOf (joinShares s die) pl = some q' ∧ CoreMoved die dn rn c q' := by
  have start : planOf s pl = some q := by rw [planOf, alone]; exact if_pos rfl
  refine joinShares_induction (P := fun t => ∃ q', planOf t pl = some q' ∧ CoreMoved die dn rn c q') ⟨q, start, moved⟩
    (fun t u view ⟨q', hq', moved'⟩ => ⟨q', (planOf_of_plansView view pl).trans hq', moved'⟩) ?_
  rintro t ⟨q', hq', moved'⟩ e he st hst k hk here
  rw [alone, List.mem_singleton] at he
  subst he
  refine ⟨_, by rw [updStage, planOf_updPlan_self, hq']; rfl, moved'.join here fun eq same => ?_⟩
  obtain ⟨d, hd, gone, -⟩ := moved.donor
  have hd' := NMap.get?_of_mem sorted hst
  rw [eq, hd] at hd'
  exact gone (List.mem_append_right _ (same ▸ Option.some.inj hd' ▸ hk))

/-- A plan as it is once a core has been taken. -/
def takenPlan (dn rn c : Nat) (p : Plan) : Plan := { p with stages := nupdate (nupdate p.stages dn (leaveShare c)) rn (awaitCore c) }

theorem coreMoved_takenPlan {die dn rn c : Nat} {p : Plan} {d r : Stage0} (hd : NMap.get? p.stages dn = some d) (hr : NMap.get? p.stages rn = some r)
    (ne : dn ≠ rn) (alone : c ∉ d.joining) (here : dieOf c = die) (onDie : OnDie die p) : CoreMoved die dn rn c (takenPlan dn rn c p) := by
  refine ⟨⟨leaveShare c d, ?_, ?_, rfl⟩, ⟨awaitCore c r, ?_, ?_, rfl⟩, ?_⟩
  · rw [takenPlan, get?_nupdate_ne _ _ ne, get?_nupdate_self, hd]
    rfl
  · simp [leaveShare, alone]
  · rw [takenPlan, get?_nupdate_self, get?_nupdate_ne _ _ ne.symm, hr]
    rfl
  · simp [awaitCore]
  · have left : OnDie die { p with stages := nupdate p.stages dn (leaveShare c) } := onDie.nupdate fun t k hk => by
      left
      simp only [leaveShare, List.mem_append, List.mem_filter] at hk ⊢
      tauto
    exact left.nupdate fun t k hk => by
      simp only [awaitCore, List.mem_append, List.mem_singleton] at hk ⊢
      rcases hk with mem | mem | rfl
      · exact .inl (.inl mem)
      · exact .inl (.inr mem)
      · exact .inr here

/-- On a die where a plan has no cores the balancer moves none. -/
theorem decideMove_elsewhere {s : State} {pl die d : Nat} {q : Plan} (hq : planOf s pl = some q) (onDie : OnDie die q) (ne : d ≠ die) :
    decideMove d s pl = s := by
  have noDonor : q.stages.find? (fun t => (decide (t.2.cls = 1) && decide (q.hyst ≤ t.2.clsCount)) && decide (t.2.minShare.getD d 0 < (shareOn t.2 d).length)) = none :=
    List.find?_eq_none.2 fun t ht => by simp [shareOn_elsewhere onDie ne ht]
  have none : balanceMove s q d = none := by
    unfold balanceMove
    dsimp only
    rw [noDonor]
    split
    · rename_i h
      cases h
    · rfl
  unfold decideMove
  dsimp only
  rw [hq]
  dsimp only
  rw [none]
  split <;> rfl
theorem foldl_decideMove_elsewhere {pl die : Nat} {q : Plan} (onDie : OnDie die q) {s : State} (hq : planOf s pl = some q) (l : List Nat) (ne : ∀ d ∈ l, d ≠ die) :
    l.foldl (fun t d => decideMove d t pl) s = s :=
  List.foldlRecOn (motive := fun t => t = s) l _ rfl fun t ht d hd => by
    rw [ht]
    exact decideMove_elsewhere hq onDie (ne d hd)

/-- The die of a plan takes part in no other move. -/
structure DieFree (s : State) (die : Nat) : Prop where
  move : (NMap.getD s.dies die {}).move = none
  migration : (NMap.getD s.dies die {}).migration = none
  moved : (NMap.getD s.dies die {}).balMoved ≠ some s.clock

theorem keys_takenPlan (dn rn c : Nat) (p : Plan) : NMap.keys (takenPlan dn rn c p).stages = NMap.keys p.stages :=
  (keys_nupdate _ _ _).trans (keys_nupdate _ _ _)

theorem decideMove_moves {u : State} {pl die dn rn c : Nat} {q : Plan} {d r : Stage0} (alone : u.plans = [(pl, q)]) (running : q.state = .running)
    (balance : q.balance = true) (free : DieFree u die) (declared : q.declared = []) (acting : q.acting = [])
    (chosen : balanceMove u q die = some (dn, rn, c)) (sorted : (NMap.keys q.stages).Pairwise (· < ·))
    (hd : NMap.get? q.stages dn = some d) (hr : NMap.get? q.stages rn = some r) (ne : dn ≠ rn) (notJoining : c ∉ d.joining) (here : dieOf c = die)
    (onDie : OnDie die q) : ∃ q', planOf (decideMove die u pl) pl = some q' ∧ CoreMoved die dn rn c q' := by
  have hq : planOf u pl = some q := by rw [planOf, alone]; exact if_pos rfl
  have noRing : ringOnDie u die = false := by simp [ringOnDie, alone, declared, acting]
  have go : decideMove die u pl = startMove { u with dies := NMap.insert u.dies die { NMap.getD u.dies die {} with balMoved := some u.clock } } pl die (dn, rn, c) := by
    unfold decideMove
    dsimp only
    rw [hq]
    dsimp only
    rw [chosen]
    simp [running, balance, free.move, free.migration, free.moved, noRing]
  rw [go, startMove_eq]
  generalize hv : coreTaken _ pl die (dn, rn, c) = v
  have plans : v.plans = [(pl, takenPlan dn rn c q)] := by
    have view := (congrArg (fun w => w.2.1) (plansView_coreTaken { u with dies := NMap.insert u.dies die { NMap.getD u.dies die {} with balMoved := some u.clock } } pl die (dn, rn, c)) :)
    rw [← hv]
    refine view.trans ?_
    simp only [updStage, updPlan, plansView, alone, nupdate_nupdate]
    simp [nupdate, takenPlan]
  exact coreMoved_joinShares plans (by rw [keys_takenPlan]; exact sorted) (coreMoved_takenPlan hd hr ne notJoining here onDie)

theorem balancerSample_moves {s : State} {pl die dn rn c : Nat} {p : Plan} {dd rr : Stage0} (due : s.clock % 65536 = 0) (alone : s.plans = [(pl, p)])
    (running : p.state = .running) (fresh : p.balanced ≠ some s.clock) (declared : p.declared = []) (acting : p.acting = [])
    (isDie : die < 4) (free : DieFree s die) (chosen : MoveChosen s p die dn dd rn rr c) :
    ∃ t p' d' r', exec .balancerSample s = .next t ∧ planOf t pl = some p' ∧ NMap.get? p'.stages dn = some d' ∧ NMap.get? p'.stages rn = some r' ∧
      c ∉ d'.share ∧ c ∈ r'.share ++ r'.joining ∧ d'.clsCount = 0 ∧ r'.clsCount = 0 := by
  have hp : planOf s pl = some p := by rw [planOf, alone]; exact if_pos rfl
  have now : unsampled s = [pl] := by simp [unsampled, alone, running, fresh]
  generalize hu : sampleShares s pl = u
  have besides : besidesPorts u = besidesPorts (updPlan s pl (fun p => classify p s.clock)) := by
    rw [← hu, sampleShares, hp]
    exact besidesPorts_sendSamples _ p
  have plans : u.plans = [(pl, classify p s.clock)] := by
    refine (congrArg State.plans besides :).trans ?_
    simp [besidesPorts, updPlan, alone, nupdate]
  have cores : u.cores = s.cores := (congrArg State.cores besides :)
  have dies : u.dies = s.dies := (congrArg State.dies besides :)
  have clock : u.clock = s.clock := (congrArg State.clock besides :)
  have hq : planOf u pl = some (classify p s.clock) := by rw [planOf, plans]; exact if_pos rfl
  have onDie := classify_onDie chosen.balance chosen.onDie s.clock
  have differ : dn ≠ rn := by
    intro same
    have donor := stageClass_iff.1 chosen.gives.1.2.1
    rw [same, stageClass_iff.1 chosen.takes.1.2.1] at donor
    cases donor
  have inDonor : c ∈ dd.share := chosen.ready.1
  obtain ⟨q, hq', moved⟩ := decideMove_moves (u := u) plans running chosen.balance
    ⟨by rw [dies]; exact free.move, by rw [dies]; exact free.migration, by rw [dies, clock]; exact free.moved⟩ declared acting
    (chosen.balanceMove s.clock cores clock) (by rw [keys_classify chosen.balance]; exact chosen.sorted)
    (d := classedStage p dn dd) (r := classedStage p rn rr)
    (by rw [get?_classify chosen.balance, chosen.gives.1.1]; rfl) (by rw [get?_classify chosen.balance, chosen.takes.1.1]; rfl)
    differ (chosen.cores c inDonor).2 (chosen.onDie _ (NMap.mem_of_get? chosen.gives.1.1) c (List.mem_append_left _ inDonor)) onDie
  have rest : (List.range 4).foldl (fun t d => decideMove d t pl) u = decideMove die u pl := by
    obtain ⟨before, after, eq⟩ := List.append_of_mem (List.mem_range.2 isDie)
    have distinct : (before ++ die :: after).Nodup := eq ▸ List.nodup_range
    obtain ⟨-, tail, apart⟩ := List.nodup_append.1 distinct
    rw [eq, List.foldl_append, foldl_decideMove_elsewhere onDie hq before fun d hd => apart d hd die (.head _), List.foldl_cons,
      foldl_decideMove_elsewhere moved.onDie hq' after fun d hd same => (List.nodup_cons.1 tail).1 (same ▸ hd)]
  obtain ⟨⟨d', hd', gone, zero⟩, ⟨r', hr', come, zero'⟩, -⟩ := moved
  refine ⟨decideMove die u pl, q, d', r', ?_, hq', hd', hr', fun mem => gone (List.mem_append_left _ mem), come, zero, zero'⟩
  rw [balancerSample_eq due, now, ← rest, ← hu]
  rfl

end Sys2Proof.Machine
end

section
/-! PROOFS. The deadlock detector's sample (O44): when plans were sampled, and which of their stages are blocked. -/

namespace Sys2Proof.Machine

/-- The stages that have been blocked since a reference count, with their edges (R154, R155). -/
def blockedNow (s : State) (p : Plan) : NMap (List Nat) :=
  p.stages.filterMap (fun t => (blockedEdges s p t.1 (s.clock - 65536)).map (fun e => (t.1, e)))
/-- A stage as a sample leaves it. -/
def sampledStage (blk : NMap (List Nat)) (st : Nat) (t : Stage0) : Stage0 :=
  { t with blocked := if (NMap.get? blk st).isSome then t.blocked + 1 else 0, edges := NMap.getD blk st [] }
/-- The rings, and then the stranded stages, that a sample declares (R156). -/
def newRings (p : Plan) (blk : NMap (List Nat)) : List DeclaredRing :=
  let stages := p.stages.map (fun t => (t.1, sampledStage blk t.1 t.2))
  let held := p.acting ++ p.declared.flatMap DeclaredRing.stages
  let due := ((ringsOf (agedEdges p blk) (NMap.keys blk)).filter (fun r => r.all (fun st => st ∉ held))).map (fun r => ({ stages := r, cause := 1 } : DeclaredRing))
  let stranded := (blk.filter (fun e => decide (16 ≤ ((NMap.get? stages e.1).map Stage0.blocked).getD 0) && decide (e.1 ∉ held) && e.2.all (deadEdge p))).map
    (fun e => ({ stages := [e.1], cause := 2 } : DeclaredRing))
  sortBy (fun d => d.stages.headD 0) (due ++ stranded)
/-- A plan as a sample leaves it, before its rings are acted on. -/
def sampledPlan (s : State) (p q : Plan) : Plan :=
  { q with sampled := some s.clock, stages := p.stages.map (fun t => (t.1, sampledStage (blockedNow s p) t.1 t.2)), edgeAge := agedEdges p (blockedNow s p)
           declared := q.declared ++ newRings p (blockedNow s p) }
/-- The probes of the blocked stages of a plan with pipes to other packages start on their way. -/
def probesStarted (s : State) (pn : Nat) (p : Plan) (blk : NMap (List Nat)) : State :=
  if p.pipes.any (fun e => e.2.remote) then (NMap.keys blk).foldl (fun s st => probeEdges pn Config.packageNumber st 16 s st (2 ^ 32) []) s else s

theorem samplePlan_eq {s : State} {pn : Nat} {p : Plan} (hp : planOf s pn = some p) (running : p.state = .running) (fresh : p.sampled ≠ some s.clock) :
    samplePlan s pn = actDeclared (probesStarted (updPlan s pn (sampledPlan s p)) pn p (blockedNow s p)) pn := by
  have go : ¬(p.state ≠ .running ∨ p.sampled = some s.clock) := by simp [running, fresh]
  unfold samplePlan
  rw [hp]
  dsimp only
  rw [if_neg go]
  rfl
theorem samplePlan_of_idle {s : State} {pn : Nat} {p : Plan} (hp : planOf s pn = some p) (idle : p.state ≠ .running ∨ p.sampled = some s.clock) :
    samplePlan s pn = s := by
  unfold samplePlan
  rw [hp]
  exact if_pos idle

theorem actsFor_probesStarted (s : State) (pn : Nat) (p : Plan) (blk : NMap (List Nat)) : ActsFor pn s (probesStarted s pn p blk) := by
  unfold probesStarted
  split
  · exact .foldl (fun _ _ => actsFor_probeEdges _ _ _ _ _ _ _ _) _ s
  · exact .refl pn s
theorem actsFor_afterSample {s : State} {pn : Nat} {p : Plan} (hp : planOf s pn = some p) (running : p.state = .running) (fresh : p.sampled ≠ some s.clock) :
    ActsFor pn (updPlan s pn (sampledPlan s p)) (samplePlan s pn) := by
  rw [samplePlan_eq hp running fresh]
  exact (actsFor_probesStarted _ _ _ _).trans (actsFor_actDeclared _ _)

theorem get?_sampledPlan (s : State) (p q : Plan) (st : Nat) :
    NMap.get? (sampledPlan s p q).stages st = (NMap.get? p.stages st).map (sampledStage (blockedNow s p) st) :=
  NMap.get?_mapKey p.stages (sampledStage (blockedNow s p)) st
theorem get?_blockedNow (s : State) (p : Plan) (st : Nat) (b : Stage0) (hb : NMap.get? p.stages st = some b) :
    NMap.get? (blockedNow s p) st = blockedEdges s p st (s.clock - 65536) := by
  have get (m : NMap Stage0) (f : Nat → Option (List Nat)) :
      NMap.get? (m.filterMap (fun t => (f t.1).map (fun e => (t.1, e))) : NMap (List Nat)) st = if (NMap.get? m st).isSome then f st else none := by
    induction m with
    | nil => rfl
    | cons t r ih =>
      rw [List.filterMap_cons]
      by_cases same : t.1 = st
      · subst same
        cases h : f t.1 with
        | none =>
          rw [Option.map_none]
          dsimp only
          rw [ih, h, ite_self, ite_self]
        | some e => simp [NMap.get?]
      · cases h : f t.1 with
        | none =>
          rw [Option.map_none]
          dsimp only
          rw [ih]
          simp [NMap.get?, same]
        | some e => simp [NMap.get?, same, ih]
  rw [blockedNow, get p.stages (fun st => blockedEdges s p st (s.clock - 65536)), hb]
  rfl

/-- A sample of a plan: it is sampled now, and a stage that has not been blocked counts no period. -/
theorem samplePlan_self {s : State} {pl : Nat} {p : Plan} (hp : planOf s pl = some p) (running : p.state = .running) (fresh : p.sampled ≠ some s.clock) :
    ∃ q, planOf (samplePlan s pl) pl = some q ∧ q.sampled = some s.clock ∧
      ∀ st b, NMap.get? p.stages st = some b → blockedEdges s p st (s.clock - 65536) = none → Unblocked q st := by
  have here : planOf (updPlan s pl (sampledPlan s p)) pl = some (sampledPlan s p p) := by rw [planOf_updPlan_self, hp]; rfl
  obtain ⟨q, hq, kept, -⟩ := (actsFor_afterSample hp running fresh).plans pl _ here
  refine ⟨q, hq, kept.sampled, fun st b hb none => kept.unblocked st ?_⟩
  have notBlocked : NMap.get? (blockedNow s p) st = Option.none := (get?_blockedNow s p st b hb).trans none
  rw [Unblocked, get?_sampledPlan, hb, Option.map_some, Option.map_some, sampledStage, notBlocked]
  rfl
theorem clock_samplePlan (s : State) (pn : Nat) : (samplePlan s pn).clock = s.clock := by
  cases hp : planOf s pn with
  | none => rw [samplePlan, hp]
  | some p =>
    by_cases idle : p.state ≠ .running ∨ p.sampled = some s.clock
    · rw [samplePlan_of_idle hp idle]
    · rw [not_or, not_not] at idle
      exact (actsFor_afterSample hp idle.1 idle.2).clock
/-- The sample of another plan leaves a plan's state and sample time alone. -/
theorem samplePlan_other {s : State} {pl pn : Nat} {p : Plan} (hp : planOf s pl = some p) (ne : pl ≠ pn) :
    ∃ q, planOf (samplePlan s pn) pl = some q ∧ q.sampled = p.sampled ∧ q.state = p.state := by
  cases hr : planOf s pn with
  | none =>
    refine ⟨p, ?_, rfl, rfl⟩
    rw [samplePlan, hr]
    exact hp
  | some r =>
    by_cases idle : r.state ≠ .running ∨ r.sampled = some s.clock
    · exact ⟨p, by rw [samplePlan_of_idle hr idle]; exact hp, rfl, rfl⟩
    · rw [not_or, not_not] at idle
      have here : planOf (updPlan s pn (sampledPlan s r)) pl = some p := by rw [planOf_updPlan_ne s _ ne]; exact hp
      obtain ⟨q, hq, kept, state⟩ := (actsFor_afterSample hr idle.1 idle.2).plans pl p here
      exact ⟨q, hq, kept.sampled, state ne⟩

theorem foldl_samplePlan {pl : Nat} (l : List Nat) : ∀ {s : State} {p : Plan}, planOf s pl = some p →
    p.sampled = some s.clock ∨ (pl ∈ l ∧ p.state = .running) → ∃ q, planOf (l.foldl samplePlan s) pl = some q ∧ q.sampled = some s.clock := by
  induction l with
  | nil => exact fun hp sampled => ⟨_, hp, sampled.resolve_right fun h => by cases h.1⟩
  | cons pn r ih =>
    intro s p hp sampled
    rw [List.foldl_cons, ← clock_samplePlan s pn]
    by_cases done : p.sampled = some s.clock
    · by_cases same : pl = pn
      · subst same
        rw [samplePlan_of_idle hp (.inr done)]
        exact ih hp (.inl done)
      · obtain ⟨q, hq, time, -⟩ := samplePlan_other hp same
        exact ih hq (.inl (by rw [time, done, clock_samplePlan]))
    · obtain ⟨mem, running⟩ := sampled.resolve_left done
      by_cases same : pl = pn
      · subst same
        obtain ⟨q, hq, time, -⟩ := samplePlan_self hp running done
        exact ih hq (.inl (by rw [time, clock_samplePlan]))
      · obtain ⟨q, hq, -, state⟩ := samplePlan_other hp same
        exact ih hq (.inr ⟨(List.mem_cons.1 mem).resolve_left same, state.trans running⟩)

theorem deadlockSample_eq {s : State} (due : s.clock % 65536 = 0) (started : s.clock ≠ 0) :
    exec .deadlockSample s = .next ((NMap.keys s.plans).foldl samplePlan s) := by
  show Host.Outcome.next (deadlockSample s) = _
  rw [deadlockSample, if_neg (by simp [due, started])]

theorem deadlockSample_samples {s : State} {pl : Nat} {p : Plan} (hp : planOf s pl = some p) (due : s.clock % 65536 = 0) (started : s.clock ≠ 0)
    (running : p.state = .running) (fresh : p.sampled ≠ some s.clock) :
    ∃ t p', exec .deadlockSample s = .next t ∧ planOf t pl = some p' ∧ p'.sampled = some s.clock ∧
      (s.plans = [(pl, p)] → ∀ st b, NMap.get? p.stages st = some b → blockedEdges s p st (s.clock - 65536) = none →
        (NMap.get? p'.stages st).map Stage0.blocked = some 0) := by
  by_cases alone : s.plans = [(pl, p)]
  · obtain ⟨q, hq, time, calm⟩ := samplePlan_self hp running fresh
    refine ⟨_, q, deadlockSample_eq due started, ?_, time, fun _ => calm⟩
    rw [alone]
    exact hq
  · obtain ⟨q, hq, time⟩ := foldl_samplePlan (NMap.keys s.plans) hp (.inr ⟨NMap.mem_keys_of_get? hp, running⟩)
    exact ⟨_, q, deadlockSample_eq due started, hq, time, fun h => absurd h alone⟩

end Sys2Proof.Machine
end

section
/-! PROOFS. A ring of two stages (O44): it is declared once its edges have lasted 16 periods, and acted on at once: the plan stops, or a tile
begins its way to a spill slot (R156 to R160). -/

namespace Sys2Proof.Machine

/-! Waits do not depend on what a sample changes. -/

/-- Plans with the same pipes and shares as those of a state: what waits of skeins and the dispatch of bolts look at. -/
structure SameWaits (s : State) (m : NMap Plan) : Prop where
  pipes : ∀ pl n, pipeOf { s with plans := m } pl n = pipeOf s pl n
  shared : sharedCores { s with plans := m } = sharedCores s
  share : ∀ pl st, ((NMap.get? m pl).bind (fun p => NMap.get? p.stages st)).map Stage0.share = ((NMap.get? s.plans pl).bind (fun p => NMap.get? p.stages st)).map Stage0.share

section
variable {s : State} {m : NMap Plan}

theorem SameWaits.pipeHolds (h : SameWaits s m) (pl n : Nat) (push : Bool) : pipeHolds { s with plans := m } pl n push = pipeHolds s pl n push := by
  unfold Machine.pipeHolds
  rw [h.pipes]
theorem SameWaits.pipeWaitOf (h : SameWaits s m) : pipeWaitOf { s with plans := m } = pipeWaitOf s := by
  funext k
  unfold Machine.pipeWaitOf
  simp only [h.pipeHolds]
theorem SameWaits.skeinWaits (h : SameWaits s m) : skeinWaits { s with plans := m } = skeinWaits s := by
  funext core slot sk t0
  simp only [Machine.skeinWaits, pathPipeWait, waitGranted, h.pipes, h.pipeWaitOf]
theorem SameWaits.savedWaits (h : SameWaits s m) : savedWaits { s with plans := m } = savedWaits s := by
  funext v t0 sk
  simp only [Machine.savedWaits, h.pipeWaitOf]
theorem SameWaits.pushWaiting (h : SameWaits s m) (pl n : Nat) : pushWaiting { s with plans := m } pl n = pushWaiting s pl n := by
  simp only [Machine.pushWaiting, h.skeinWaits, h.savedWaits]
theorem SameWaits.shareOk (h : SameWaits s m) (g : Grid) (core : Nat) : shareOk { s with plans := m } g core = shareOk s g core := by
  unfold Machine.shareOk
  split
  · rw [h.shared]
  · rename_i pl st _
    have eq := congrArg (fun o : Option (List Nat) => (o.map (fun l => decide (core ∈ l))).getD false) (h.share pl st)
    simp only [Option.map_map] at eq
    exact eq
theorem SameWaits.couldDispatch (h : SameWaits s m) (gn : Nat) (g : Grid) : couldDispatch { s with plans := m } gn g = couldDispatch s gn g := by
  have same (gran core : Nat) : admissible { s with plans := m } gn g gran core = admissible s gn g gran core := by
    simp only [admissible, h.shareOk]
    rfl
  simp only [Machine.couldDispatch, same]

/-- Two versions of a plan whose stages differ in no more than their blocked counts and edges block the same stages. -/
theorem SameWaits.blockedEdges (h : SameWaits s m) {p q : Plan} (pipes : q.pipes = p.pipes) {st : Nat}
    (stage : (NMap.get? q.stages st).map (fun t => (t.grid, t.done)) = (NMap.get? p.stages st).map (fun t => (t.grid, t.done))) (t0 : Nat) :
    blockedEdges { s with plans := m } q st t0 = blockedEdges s p st t0 := by
  have edge : waitEdge q = waitEdge p := by
    funext w
    simp only [waitEdge, pipes]
  cases hq : NMap.get? q.stages st with
  | none =>
    rw [hq] at stage
    have hp : NMap.get? p.stages st = none := Option.map_eq_none_iff.1 stage.symm
    simp only [Machine.blockedEdges, hp, hq, Option.bind_none]
  | some t =>
    rw [hq] at stage
    obtain ⟨t', hp, eq⟩ := Option.map_eq_some_iff.1 stage.symm
    obtain ⟨grid, done⟩ := Prod.mk.inj eq
    simp only [Machine.blockedEdges, hp, hq, Option.bind_some, ← grid]
    cases hg : NMap.get? s.grids t'.grid with
    | none => rfl
    | some g =>
      simp only [Option.map_some, h.skeinWaits, h.savedWaits, h.couldDispatch, edge, ← done, ← grid]
      rfl

end

theorem blockedEdges_live {s : State} {p : Plan} {st t0 : Nat} {l : List Nat} (h : blockedEdges s p st t0 = some l) :
    ∃ t, NMap.get? p.stages st = some t ∧ t.done = false := by
  unfold blockedEdges at h
  split at h
  · cases h
  · rename_i t g eq
    obtain ⟨t', ht, found⟩ := Option.bind_eq_some_iff.1 eq
    obtain ⟨g', -, pair⟩ := Option.map_eq_some_iff.1 found
    cases pair
    refine ⟨t, ht, Bool.eq_false_iff.2 fun done => ?_⟩
    dsimp only at h
    rw [if_pos (.inl done)] at h
    cases h

/-! The ring (R156). -/

/-- A set that is closed under edges stays as it is. -/
theorem closeEdges_of_closed {edge : Nat → List Nat} {l : List Nat} (closed : dedup (l ++ l.flatMap edge) = l) (k : Nat) : closeEdges edge k l = l := by
  induction k with
  | zero => rfl
  | succ k ih => rw [closeEdges, closed, ih]

/-- Two stages that wait for one another. -/
def twoEdges (a b : Nat) : NMap (List Nat) := [(a, [b]), (b, [a])]
/-- The ages of their edges. -/
def twoAges (a b x y : Nat) : NMap Nat := [(64 * a + b, x), (64 * b + a, y)]

section
variable {a b : Nat}

theorem dedup_pair (lt : a < b) : dedup [a, b] = [a, b] := by
  simp [dedup, lt.ne']
theorem agedEdges_two (lt : a < b) (p : Plan) :
    agedEdges p (twoEdges a b) = twoAges a b (1 + NMap.getD p.edgeAge (64 * a + b) 0) (1 + NMap.getD p.edgeAge (64 * b + a) 0) := by
  have after : ¬64 * b + a < 64 * a + b := by omega
  have apart : 64 * b + a ≠ 64 * a + b := by omega
  simp [agedEdges, twoEdges, twoAges, NMap.get?, NMap.insert, lt.ne, after, apart]

theorem reachFrom_two (lt : a < b) (small : b < 16) {x y : Nat} (old : 16 ≤ x) (old' : 16 ≤ y) :
    reachFrom (twoAges a b x y) a = [b, a] ∧ reachFrom (twoAges a b x y) b = [a, b] := by
  have toB : (64 * a + b) / 64 = a ∧ (64 * a + b) % 64 = b := by omega
  have toA : (64 * b + a) / 64 = b ∧ (64 * b + a) % 64 = a := by omega
  let edge := fun n => ((twoAges a b x y).filter (fun e => decide (e.1 / 64 = n) && decide (16 ≤ e.2))).map (fun e => e.1 % 64)
  have fromA : edge a = [b] := by simp [edge, twoAges, toA, toB, old, lt.ne']
  have fromB : edge b = [a] := by simp [edge, twoAges, toA, toB, old', lt.ne]
  have first : dedup ([b] ++ [b].flatMap edge) = [b, a] := by simp [dedup, fromB, lt.ne]
  have first' : dedup ([a] ++ [a].flatMap edge) = [a, b] := by simp [dedup, fromA, lt.ne']
  have closed : dedup ([b, a] ++ [b, a].flatMap edge) = [b, a] := by simp [dedup, fromA, fromB, lt.ne]
  have closed' : dedup ([a, b] ++ [a, b].flatMap edge) = [a, b] := by simp [dedup, fromA, fromB, lt.ne']
  constructor
  · show closeEdges edge 16 (edge a) = _
    rw [fromA, closeEdges, first, closeEdges_of_closed closed]
  · show closeEdges edge 16 (edge b) = _
    rw [fromB, closeEdges, first', closeEdges_of_closed closed']

theorem ringsOf_two (lt : a < b) (small : b < 16) {x y : Nat} (old : 16 ≤ x) (old' : 16 ≤ y) : ringsOf (twoAges a b x y) [a, b] = [[a, b]] := by
  obtain ⟨fromA, fromB⟩ := reachFrom_two lt small old old'
  simp [ringsOf, fromA, fromB, sortBy, insertBy, dedup, lt, Nat.lt_asymm lt]

end

/-! What the model acts on. -/

/-- The first declared ring is acted on, if its stages are blocked still. -/
theorem actRings_ring {s : State} {pn k : Nat} {p : Plan} {r : DeclaredRing} {rest : List DeclaredRing} (hp : planOf s pn = some p)
    (running : p.state = .running) (laps : p.laps = []) (declared : p.declared = r :: rest) (acting : p.acting = [])
    (free : moveInWay s p r.stages = false) :
    let q := { p with declared := rest }
    let u := updPlan s pn (fun _ => q)
    actRings pn (k + 1) s = actRings pn k (if stillBlocked u q r.stages then actRing u pn q r else u) := by
  rw [actRings, hp]
  dsimp only
  rw [if_neg (not_not.2 running), laps, declared]
  dsimp only
  rw [if_neg (by simp [acting, free])]

/-- A pipe of the ring that may give a tile to a spill slot (R158). -/
structure SpillCand (s : State) (pl : Nat) (p : Plan) (a b n : Nat) (q : Pipe) : Prop where
  mem : (n, q) ∈ p.pipes
  full : q.free = 0
  waiting : pushWaiting s pl n = true
  producer : q.producer = a ∨ q.producer = b
  consumer : q.consumer = a ∨ q.consumer = b
  tile : ∃ z ∈ q.queue, z.spilled = false ∧ z.taken = false

/-- The plan of two stages that have waited for one another for 16 periods, alone on the package, with nothing else in its way. -/
structure TwoRing (s : State) (pl : Nat) (p : Plan) (a b : Nat) : Prop where
  lt : a < b
  small : b < 16
  alone : s.plans = [(pl, p)]
  running : p.state = .running
  fresh : p.sampled ≠ some s.clock
  laps : p.laps = []
  declared : p.declared = []
  acting : p.acting = []
  home : ∀ e ∈ p.pipes, e.2.remote = false ∧ e.2.homeHere = true
  pipes : (NMap.keys p.pipes).Pairwise (· < ·)
  stages : (NMap.keys p.stages).Pairwise (· < ·)
  moves : ∀ d ∈ s.dies, d.2.move = none
  first : blockedEdges s p a (s.clock - 65536) = some [b]
  second : blockedEdges s p b (s.clock - 65536) = some [a]
  others : ∀ st, st ≠ a → st ≠ b → blockedEdges s p st (s.clock - 65536) = none
  still : (blockedEdges s p a s.clock).isSome = true
  still' : (blockedEdges s p b s.clock).isSome = true
  age : 15 ≤ NMap.getD p.edgeAge (64 * a + b) 0
  age' : 15 ≤ NMap.getD p.edgeAge (64 * b + a) 0

/-- The ring of two stages. -/
def twoRing (a b : Nat) : DeclaredRing := { stages := [a, b], cause := 1 }
/-- The plan as its ring is acted on: sampled, with nothing left declared. -/
def actingPlan (s : State) (p : Plan) : Plan := { sampledPlan s p p with declared := [] }

section
variable {s : State} {pl : Nat} {p : Plan} {a b : Nat} (h : TwoRing s pl p a b)
include h

theorem TwoRing.planOf : planOf s pl = some p := by
  rw [Machine.planOf, h.alone]
  exact if_pos rfl

theorem TwoRing.blockedNow : blockedNow s p = twoEdges a b := by
  obtain ⟨ta, hta, -⟩ := blockedEdges_live h.first
  obtain ⟨tb, htb, -⟩ := blockedEdges_live h.second
  have sorted : (Machine.blockedNow s p).Pairwise (fun x y => x.1 < y.1) := by
    refine List.Pairwise.filterMap _ (fun t t' lt x hx y hy => ?_) (List.pairwise_map.1 h.stages)
    obtain ⟨_, -, rfl⟩ := Option.map_eq_some_iff.1 hx
    obtain ⟨_, -, rfl⟩ := Option.map_eq_some_iff.1 hy
    exact lt
  have sorted' : (twoEdges a b).Pairwise (fun x y => x.1 < y.1) := by simp [twoEdges, h.lt]
  refine List.Pairwise.eq_of_mem_iff sorted sorted' fun e => ?_
  have mem : e ∈ Machine.blockedNow s p ↔ (∃ t, NMap.get? p.stages e.1 = some t) ∧ blockedEdges s p e.1 (s.clock - 65536) = some e.2 := by
    rw [Machine.blockedNow, List.mem_filterMap]
    constructor
    · rintro ⟨t, ht, eq⟩
      obtain ⟨l, hl, rfl⟩ := Option.map_eq_some_iff.1 eq
      exact ⟨⟨t.2, NMap.get?_of_mem h.stages ht⟩, hl⟩
    · rintro ⟨⟨t, ht⟩, hl⟩
      exact ⟨(e.1, t), NMap.mem_of_get? ht, by rw [hl]; rfl⟩
  rw [mem, twoEdges, List.mem_cons, List.mem_singleton]
  constructor
  · rintro ⟨-, hl⟩
    by_cases isA : e.1 = a
    · rw [isA, h.first] at hl
      exact .inl (Prod.ext isA (Option.some.inj hl).symm)
    · by_cases isB : e.1 = b
      · rw [isB, h.second] at hl
        exact .inr (Prod.ext isB (Option.some.inj hl).symm)
      · rw [h.others _ isA isB] at hl
        cases hl
  · rintro (rfl | rfl)
    · exact ⟨⟨ta, hta⟩, h.first⟩
    · exact ⟨⟨tb, htb⟩, h.second⟩

theorem TwoRing.newRings : newRings p (twoEdges a b) = [twoRing a b] := by
  obtain ⟨ta, hta, liveA⟩ := blockedEdges_live h.first
  obtain ⟨tb, htb, liveB⟩ := blockedEdges_live h.second
  have smallA : a < 16 := h.lt.trans h.small
  have noDeadEdge : deadEdge p a = false ∧ deadEdge p b = false := by
    simp [deadEdge, smallA, h.small, hta, htb, liveA, liveB]
  have keys : NMap.keys (twoEdges a b) = [a, b] := rfl
  have rings := ringsOf_two h.lt h.small (x := 1 + NMap.getD p.edgeAge (64 * a + b) 0) (y := 1 + NMap.getD p.edgeAge (64 * b + a) 0)
    (by have := h.age; omega) (by have := h.age'; omega)
  unfold Machine.newRings
  rw [agedEdges_two h.lt p, keys, rings, h.acting, h.declared]
  simp [twoEdges, noDeadEdge, sortBy, insertBy, twoRing]

theorem TwoRing.sampledPlan_declared : (sampledPlan s p p).declared = [twoRing a b] := by
  rw [sampledPlan, h.blockedNow, h.newRings, h.declared]
  rfl

theorem TwoRing.sameWaits : SameWaits s [(pl, actingPlan s p)] := by
  have share (f : Stage0 → List Nat) (hf : ∀ st t, f (sampledStage (Machine.blockedNow s p) st t) = f t) :
      (actingPlan s p).stages.flatMap (fun t => f t.2) = p.stages.flatMap (fun t => f t.2) := by
    simp only [actingPlan, sampledPlan, List.flatMap_map, hf]
  refine ⟨fun l n => ?_, ?_, fun l st => ?_⟩
  · simp only [pipeOf, h.alone, NMap.get?]
    split <;> rfl
  · have state : (actingPlan s p).state = .running := h.running
    simp only [sharedCores, h.alone, List.filter_cons, state, h.running, decide_true, Bool.true_or, if_true, List.filter_nil, List.flatMap_cons, List.flatMap_nil,
      share (fun t => t.share ++ t.joining) fun _ _ => rfl]
  · rw [h.alone]
    simp only [NMap.get?]
    split
    · rw [Option.bind_some, Option.bind_some, show NMap.get? (actingPlan s p).stages st = _ from get?_sampledPlan s p p st, Option.map_map]
      rfl
    · rfl

theorem TwoRing.stillBlocked : stillBlocked { s with plans := [(pl, actingPlan s p)] } (actingPlan s p) [a, b] = true := by
  have stage (st : Nat) : NMap.get? (actingPlan s p).stages st = (NMap.get? p.stages st).map (sampledStage (twoEdges a b) st) := by
    rw [← h.blockedNow]
    exact get?_sampledPlan s p p st
  have edges (st : Nat) : blockedEdges { s with plans := [(pl, actingPlan s p)] } (actingPlan s p) st s.clock = blockedEdges s p st s.clock :=
    h.sameWaits.blockedEdges (p := p) (q := actingPlan s p) rfl (by rw [stage, Option.map_map]; rfl) s.clock
  obtain ⟨ta, hta, -⟩ := blockedEdges_live h.first
  obtain ⟨tb, htb, -⟩ := blockedEdges_live h.second
  simp [Machine.stillBlocked, edges, h.still, h.still', stage, hta, htb, sampledStage, twoEdges, NMap.get?, h.lt.ne]

/-- The sample declares the ring and acts on it. -/
theorem TwoRing.samplePlan : samplePlan s pl = actRing { s with plans := [(pl, actingPlan s p)] } pl (actingPlan s p) (twoRing a b) := by
  have local_ : p.pipes.any (fun e => e.2.remote) = false := List.any_eq_false.2 fun e he => by simp [(h.home e he).1]
  have sampled : updPlan s pl (sampledPlan s p) = { s with plans := [(pl, sampledPlan s p p)] } := by
    simp [updPlan, nupdate, h.alone]
  have taken : updPlan { s with plans := [(pl, sampledPlan s p p)] } pl (fun _ => actingPlan s p) = { s with plans := [(pl, actingPlan s p)] } := by
    simp [updPlan, nupdate]
  have here : Machine.planOf { s with plans := [(pl, sampledPlan s p p)] } pl = some (sampledPlan s p p) := if_pos rfl
  have free : moveInWay { s with plans := [(pl, sampledPlan s p p)] } (sampledPlan s p p) [a, b] = false :=
    List.any_eq_false.2 fun d hd => by simp [h.moves d hd]
  have running : (sampledPlan s p p).state = .running := h.running
  have laps : (sampledPlan s p p).laps = [] := h.laps
  have acting : (sampledPlan s p p).acting = [] := h.acting
  rw [samplePlan_eq h.planOf h.running h.fresh, probesStarted, local_, sampled]
  simp only [Bool.false_eq_true, if_false, actDeclared, here, Option.map_some, Option.getD_some, laps, h.sampledPlan_declared, List.length_nil, List.length_singleton, Nat.zero_add]
  rw [actRings_ring here running laps h.sampledPlan_declared acting free]
  change actRings pl 0 (if Machine.stillBlocked (updPlan _ pl (fun _ => actingPlan s p)) (actingPlan s p) [a, b] then
    actRing (updPlan _ pl (fun _ => actingPlan s p)) pl (actingPlan s p) (twoRing a b) else updPlan _ pl (fun _ => actingPlan s p)) = _
  rw [taken, if_pos h.stillBlocked]
  rfl

theorem TwoRing.mem_ringCands (c : Nat × Nat) : c ∈ ringCands { s with plans := [(pl, actingPlan s p)] } pl (actingPlan s p) [a, b] none ↔
    ∃ n q, SpillCand s pl p a b n q ∧ c = (Config.packageNumber, n) := by
  have pipes : (actingPlan s p).pipes = p.pipes := rfl
  rw [ringCands, pipes, List.mem_filterMap]
  have chosen (e : Nat × Pipe) (he : e ∈ p.pipes) : (decide (pstatValue e.2 .free = 0) && Machine.pushWaiting { s with plans := [(pl, actingPlan s p)] } pl e.1) = true ∧
      (decide (e.2.producer ∈ [a, b]) && decide (e.2.consumer ∈ [a, b]) && (oldestFilled e.2).isSome) = true ↔ SpillCand s pl p a b e.1 e.2 := by
    have tile : (oldestFilled e.2).isSome = true ↔ ∃ z ∈ e.2.queue, z.spilled = false ∧ z.taken = false := by
      simp [oldestFilled, List.find?_isSome]
    rw [h.sameWaits.pushWaiting, pstatValue, (h.home e he).2, Bool.and_eq_true, Bool.and_eq_true, Bool.and_eq_true, tile]
    simp only [if_true, decide_eq_true_eq, List.mem_cons, List.not_mem_nil, or_false]
    exact ⟨fun ⟨⟨full, waiting⟩, ⟨producer, consumer⟩, tile⟩ => ⟨he, full, waiting, producer, consumer, tile⟩,
      fun ⟨_, full, waiting, producer, consumer, tile⟩ => ⟨⟨full, waiting⟩, ⟨producer, consumer⟩, tile⟩⟩
  constructor
  · rintro ⟨e, he, eq⟩
    have remote : e.2.remote = false := (h.home e he).1
    split at eq
    · simp only [remote, Bool.not_false, if_true] at eq
      split at eq
      · exact ⟨e.1, e.2, (chosen e he).1 ⟨‹_›, ‹_›⟩, (Option.some.inj eq).symm⟩
      · cases eq
    · cases eq
  · rintro ⟨n, q, cand, rfl⟩
    have remote : q.remote = false := (h.home _ cand.mem).1
    have home : (!q.remote) = true := by rw [remote]; rfl
    obtain ⟨waits, fits⟩ := (chosen (n, q) cand.mem).2 cand
    exact ⟨(n, q), cand.mem, by rw [if_pos waits, if_pos home, if_pos fits]⟩

end

end Sys2Proof.Machine
end

section
/-! PROOFS. What a ring of two stages leads to, and the plan events (O44). -/

namespace Sys2Proof.Machine

theorem exists_nextHalt {p : Plan} (fresh : p.stopOrder = []) (stages : NMap.keys p.stages ≠ []) : ∃ st, nextHalt p = some st := by
  obtain ⟨st, rest, keys⟩ := List.exists_cons_of_ne_nil stages
  have all : (NMap.keys p.stages).filter (fun st => st ∉ p.stopOrder) = st :: rest := by simp [fresh, keys]
  refine Option.isSome_iff_exists.1 ?_
  rw [nextHalt, all, Option.isSome_or]
  exact Bool.or_true _

/-- A stop that begins: the state and the cause are noted, whatever stage halts first. -/
theorem planOf_beginPlanStop {s : State} {pn : Nat} {p : Plan} (hp : planOf s pn = some p) (running : p.state = .running)
    (stages : NMap.keys p.stages ≠ []) (cause : Nat) (ring : List Nat) :
    ∃ q, planOf (beginPlanStop s pn cause ring) pn = some q ∧ q.state = .stopping ∧ q.stopCause = cause := by
  obtain ⟨t, going, view, eq⟩ := beginPlanStop_eq (cause := cause) (ring := ring) hp (by simp [running])
  have stopping : planOf (updPlan t pn (stoppingPlan cause ring going)) pn = some (stoppingPlan cause ring going p) := by
    rw [planOf_updPlan_self, planOf_of_plansView view, hp]
    rfl
  obtain ⟨st, next⟩ := exists_nextHalt (p := stoppingPlan cause ring going p) rfl stages
  obtain ⟨q, hq, bare⟩ := planOf_haltNext_some stopping next
  exact ⟨q, eq ▸ hq, (congrArg Plan.state bare :), (congrArg Plan.stopCause bare :)⟩

theorem mem_sortedInsert_self (n : Nat) (l : List Nat) : n ∈ sortedInsert n l := by
  induction l with
  | nil => exact .head _
  | cons k r ih =>
    unfold sortedInsert
    split
    · exact .head _
    · split
      · rename_i eq
        exact eq ▸ .head _
      · exact .tail _ ih

theorem beginSpill_begins {s : State} {pn n u slot : Nat} {p : Plan} {q : Pipe} (hp : planOf s pn = some p) (hq : NMap.get? p.pipes n = some q)
    (tile : oldestFilled q = some slot) (free : (List.range (4 * p.spillUnits)).find? (fun u => u ∉ p.spillUsed) = some u) (ring : List Nat) :
    ∃ t p', beginSpill s pn n ring none = (true, t) ∧ planOf t pn = some p' ∧ p'.state = p.state ∧ pipeOf t pn n = some { q with spill := some (slot, u), spillStep := 0 } ∧
      p'.spillUsed = sortedInsert u p.spillUsed ∧ p'.acting = dedup (p.acting ++ ring) := by
  let mark := fun q : Pipe => { q with spill := some (slot, u), spillStep := 0 }
  let act := fun p : Plan => { p with acting := dedup (p.acting ++ ring), spillUsed := sortedInsert u p.spillUsed, spillLap := none }
  have here : planOf (updPipe (updPlan s pn act) pn n mark) pn = some { act p with pipes := nupdate p.pipes n mark } := by
    rw [planOf, updPipe, get?_nupdate_self, ← planOf, planOf_updPlan_self, hp]
    rfl
  refine ⟨updPipe (updPlan s pn act) pn n mark, _, ?_, here, rfl, ?_, rfl, rfl⟩
  · rw [beginSpill, hp]
    dsimp only
    rw [hq, Option.bind_some, tile, free]
  · rw [pipeOf, ← planOf, here, Option.bind_some, get?_nupdate_self, hq]
    rfl

theorem beginSpill_noSlot {s : State} {pn : Nat} {p : Plan} (hp : planOf s pn = some p) (used : ∀ u, u < 4 * p.spillUnits → u ∈ p.spillUsed)
    (n : Nat) (ring : List Nat) (lap : Option RingLap) : beginSpill s pn n ring lap = (false, s) := by
  have none : (List.range (4 * p.spillUnits)).find? (fun u => u ∉ p.spillUsed) = none :=
    List.find?_eq_none.2 fun u hu => by simp [used u (List.mem_range.1 hu)]
  rw [beginSpill, hp]
  dsimp only
  rw [none]
  split
  · contradiction
  · rfl

/-- The state in which a ring of two stages is acted on. -/
def actingState (s : State) (pl : Nat) (p : Plan) : State := { s with plans := [(pl, actingPlan s p)] }

theorem planOf_actingState (s : State) (pl : Nat) (p : Plan) : planOf (actingState s pl p) pl = some (actingPlan s p) := if_pos rfl

section
variable {s : State} {pl : Nat} {p : Plan} {a b : Nat}

theorem spillCand_iff {n : Nat} {q : Pipe} : SpillCand s pl p a b n q ↔
    (n, q) ∈ p.pipes ∧ q.free = 0 ∧ pushWaiting s pl n = true ∧ (q.producer = a ∨ q.producer = b) ∧ (q.consumer = a ∨ q.consumer = b) ∧
      ∃ z ∈ q.queue, z.spilled = false ∧ z.taken = false :=
  ⟨fun ⟨mem, full, waiting, producer, consumer, tile⟩ => ⟨mem, full, waiting, producer, consumer, tile⟩,
    fun ⟨mem, full, waiting, producer, consumer, tile⟩ => ⟨mem, full, waiting, producer, consumer, tile⟩⟩

theorem TwoRing.deadlockSample (h : TwoRing s pl p a b) (due : s.clock % 65536 = 0) (started : s.clock ≠ 0) :
    exec .deadlockSample s = .next (actRing (actingState s pl p) pl (actingPlan s p) (twoRing a b)) := by
  rw [deadlockSample_eq due started, h.alone]
  exact congrArg Host.Outcome.next h.samplePlan

theorem TwoRing.stops (h : TwoRing s pl p a b) (cause : Nat) :
    ∃ q, Machine.planOf (beginPlanStop (actingState s pl p) pl cause [a, b]) pl = some q ∧ q.state = .stopping ∧ q.stopCause = cause := by
  obtain ⟨ta, hta, -⟩ := blockedEdges_live h.first
  have listed : a ∈ NMap.keys (actingPlan s p).stages := NMap.mem_keys_of_get? (get?_sampledPlan s p p a ▸ congrArg (Option.map _) hta)
  exact planOf_beginPlanStop (planOf_actingState s pl p) h.running (List.ne_nil_of_mem listed) cause [a, b]

/-- A plan that stops when it drains stops. -/
theorem actRing_drainStop (drain : p.drainStop = true) :
    actRing (actingState s pl p) pl (actingPlan s p) (twoRing a b) = beginPlanStop (actingState s pl p) pl 1 [a, b] := by
  have drain' : (actingPlan s p).drainStop = true := drain
  rw [actRing, if_neg (by simp [twoRing]), if_pos (.inl drain')]
  rfl

/-- The tile of the candidate that the model chooses is spilled, if there is a slot. -/
theorem actRing_spills (keep : p.drainStop = false) :
    actRing (actingState s pl p) pl (actingPlan s p) (twoRing a b) =
      match bestCand (ringCands (actingState s pl p) pl (actingPlan s p) [a, b] none) with
      | none => beginPlanStop (actingState s pl p) pl 3 [a, b]
      | some c => match beginSpill (actingState s pl p) pl c.2 [a, b] none with
        | (true, s) => s
        | (false, s) => beginPlanStop s pl 3 [a, b] := by
  have keep' : ¬((actingPlan s p).drainStop = true ∨ (twoRing a b).cause = 2) := by
    rw [show (actingPlan s p).drainStop = p.drainStop from rfl, keep]
    simp [twoRing]
  rw [actRing, if_neg (by simp [twoRing]), if_neg keep']
  rfl

/-- Without a candidate, or without a spill slot, the plan stops. -/
theorem TwoRing.stops_noSpill (h : TwoRing s pl p a b) (keep : p.drainStop = false)
    (no : (∀ n q, ¬SpillCand s pl p a b n q) ∨ ∀ u, u < 4 * p.spillUnits → u ∈ p.spillUsed) :
    actRing (actingState s pl p) pl (actingPlan s p) (twoRing a b) = beginPlanStop (actingState s pl p) pl 3 [a, b] := by
  rw [actRing_spills keep]
  cases hc : bestCand (ringCands (actingState s pl p) pl (actingPlan s p) [a, b] none) with
  | none => rfl
  | some c =>
    have used := no.resolve_left fun none => by
      obtain ⟨n, q, cand, -⟩ := (h.mem_ringCands c).1 (leastBy_mem hc)
      exact none n q cand
    dsimp only
    rw [beginSpill_noSlot (planOf_actingState s pl p) used]

/-- The lowest candidate is the model's choice. -/
theorem TwoRing.bestCand (h : TwoRing s pl p a b) {n : Nat} {q : Pipe} (cand : SpillCand s pl p a b n q) (lowest : ∀ k v, SpillCand s pl p a b k v → n ≤ k) :
    bestCand (ringCands (actingState s pl p) pl (actingPlan s p) [a, b] none) = some (Config.packageNumber, n) := by
  refine leastBy_eq_some (R := fun _ _ => False) (List.pairwise_of_forall fun _ _ => id) ((h.mem_ringCands _).2 ⟨n, q, cand, rfl⟩) fun c hc => ?_
  obtain ⟨k, v, other, rfl⟩ := (h.mem_ringCands c).1 hc
  rcases (lowest k v other).lt_or_eq with lt | rfl
  · exact .inl (Nat.add_lt_add_left lt _)
  · exact .inr (.inl rfl)

/-- The oldest filled tile of the lowest candidate begins its way to the lowest free spill slot. -/
theorem TwoRing.spills (h : TwoRing s pl p a b) (keep : p.drainStop = false) {n u : Nat} {q : Pipe} {z : PipeTile} (cand : SpillCand s pl p a b n q)
    (lowest : ∀ k v, SpillCand s pl p a b k v → n ≤ k) (oldest : q.queue.find? (fun z => !z.spilled && !z.taken) = some z)
    (inRange : u < 4 * p.spillUnits) (free : u ∉ p.spillUsed) (first : ∀ k, k < u → k ∈ p.spillUsed) :
    ∃ t p', actRing (actingState s pl p) pl (actingPlan s p) (twoRing a b) = t ∧ Machine.planOf t pl = some p' ∧ p'.state = .running ∧
      pipeOf t pl n = some { q with spill := some (z.slot, u), spillStep := 0 } ∧ u ∈ p'.spillUsed ∧ a ∈ p'.acting ∧ b ∈ p'.acting := by
  have tile : oldestFilled q = some z.slot := congrArg (Option.map PipeTile.slot) oldest
  have slot : (List.range (4 * p.spillUnits)).find? (fun u => u ∉ p.spillUsed) = some u :=
    List.find?_range_eq_some.2 ⟨by simpa using free, List.mem_range.2 inRange, fun k lt => by simpa using first k lt⟩
  obtain ⟨t, p', begins, hp', state, pipe, spillUsed, acting⟩ :=
    beginSpill_begins (planOf_actingState s pl p) (NMap.get?_of_mem h.pipes cand.mem) tile slot [a, b]
  have pair : p'.acting = [a, b] := by
    rw [acting, show (actingPlan s p).acting = [] from h.acting]
    exact dedup_pair h.lt
  refine ⟨t, p', ?_, hp', state.trans h.running, pipe, spillUsed ▸ mem_sortedInsert_self u _, ?_, ?_⟩
  · rw [actRing_spills keep, h.bestCand cand lowest]
    dsimp only
    rw [begins]
  · simp [pair]
  · simp [pair]

/-- What a sample of a ring of two stages leads to (R158 to R160). -/
theorem TwoRing.acted (h : TwoRing s pl p a b) (due : s.clock % 65536 = 0) (started : s.clock ≠ 0) :
    ∃ t p', exec .deadlockSample s = .next t ∧ Machine.planOf t pl = some p' ∧
      (p.drainStop = true → p'.state = .stopping ∧ p'.stopCause = 1) ∧
      (p.drainStop = false → ((∀ n q, ¬SpillCand s pl p a b n q) ∨ ∀ u, u < 4 * p.spillUnits → u ∈ p.spillUsed) → p'.state = .stopping ∧ p'.stopCause = 3) ∧
      (∀ n q z u, p.drainStop = false → SpillCand s pl p a b n q → (∀ k v, SpillCand s pl p a b k v → n ≤ k) →
        q.queue.find? (fun z => !z.spilled && !z.taken) = some z → u < 4 * p.spillUnits → u ∉ p.spillUsed → (∀ k, k < u → k ∈ p.spillUsed) →
        p'.state = .running ∧ pipeOf t pl n = some { q with spill := some (z.slot, u), spillStep := 0 } ∧ u ∈ p'.spillUsed ∧ a ∈ p'.acting ∧ b ∈ p'.acting) := by
  rw [h.deadlockSample due started]
  cases keep : p.drainStop with
  | true =>
    obtain ⟨q, hq, stop⟩ := h.stops 1
    exact ⟨_, q, rfl, actRing_drainStop keep ▸ hq, fun _ => stop, fun no => absurd no.symm Bool.false_ne_true, fun _ _ _ _ no => absurd no.symm Bool.false_ne_true⟩
  | false =>
    obtain ⟨p', hp', -⟩ := (actsFor_actRing (actingState s pl p) pl (actingPlan s p) (twoRing a b)).plans pl _ (planOf_actingState s pl p)
    refine ⟨_, p', rfl, hp', fun no => absurd no Bool.false_ne_true, fun _ no => ?_, fun n q z u _ cand lowest oldest inRange free first => ?_⟩
    · obtain ⟨q, hq, stop⟩ := h.stops 3
      rw [h.stops_noSpill keep no, hq] at hp'
      cases hp'
      exact stop
    · obtain ⟨t, q', rfl, hq', spilled⟩ := h.spills keep cand lowest oldest inRange free first
      rw [hq'] at hp'
      cases hp'
      exact spilled

end

/-- Settles O44, part by part: the dies, slices and ports are all that the start of a plan changes beside it (R147); the end of a plan is written out (R149); the
balancer classes every stage and moves the core that R151 ranks first; the sample of a ring of two stages reduces to one call of actRing (R156 to R160); a probe
acts for its own plan only (R157); a stop goes on stage by stage to its record (R161, R162). -/
theorem planEvents : Obligations.PlanEvents := by
  intro pl s p hp
  refine ⟨?start, ?stop, fun due running balance fresh => balancerSample_classes hp due running balance fresh, ?move, fun due started running fresh =>
    deadlockSample_samples hp due started running fresh, ?ring, ?probe, fun st b stopping now hb empty kept => stageHalt_result hp stopping now hb empty kept, ?final⟩
  case start =>
    intro pins c0 c1 c2 c3 waiting slots placed clear h0 h1 h2 h3
    refine ⟨_, startedPlan s [c0, c1, c2, c3] p, planStart_starts hp waiting slots placed clear h0 h1 h2 h3, planOf_startPlan hp _ _, rfl, startPlan_mem _ _ _ _ _, ?_,
      fun st b hb c => mem_startedPlan hb c⟩
    exact (congrArg State.cores (besidesFabric_startPlan s pl p pins [c0, c1, c2, c3]) :)
  case stop =>
    intro running done
    obtain ⟨failed, run⟩ := planEnd_ends hp running done
    refine ⟨_, endedPlan p, run, planOf_endPlan hp failed, rfl, rfl, fun e he => ?_, endPlan_mem _ _ _, rfl, fun e he => ?_, ?_⟩
    · obtain ⟨t, -, rfl⟩ := List.mem_map.1 he
      exact ⟨rfl, rfl⟩
    · obtain ⟨q, -, rfl⟩ := List.mem_map.1 he
      exact ⟨rfl, rfl⟩
    · rw [slices_endPlan hp failed]
      exact unpinned_keeps_no_line s pl
  case move =>
    intro die dn dd rn rr c
    dsimp only
    intro due alone running balance fresh declared acting sorted isDie onDie cores move migration moved takes highest gives lowest ready least
    exact balancerSample_moves due alone running fresh declared acting isDie ⟨move, migration, moved⟩
      ⟨balance, sorted, onDie, cores, takes, highest, gives, lowest, ready, least⟩
  case ring =>
    intro a b
    dsimp only
    intro lt small due started alone running fresh laps declared acting home pipes stages moves first second others still still' age age'
    have ring : TwoRing s pl p a b :=
      ⟨lt, small, alone, running, fresh, laps, declared, acting, home, pipes, stages, moves, first, second, others, still, still', age, age'⟩
    simpa only [spillCand_iff] using ring.acted due started
  case probe =>
    intro m pkg stage count at_ come
    obtain ⟨t, run, acts, calm⟩ := deadlockProbe_taken hp come
    refine ⟨t, run, acts.probes, fun zero => ?_⟩
    rw [acts.probes]
    exact calm zero
  case final =>
    intro id stopping now final
    rw [stageHalt_final hp stopping now final]
    refine ⟨fun ⟨r, hr, eq⟩ => ?_, fun written => ?_⟩
    · rw [if_pos (List.any_eq_true.2 ⟨r, hr, decide_eq_true eq⟩)]
    · rw [if_neg (by simpa using written)]
      exact ⟨_, endedPlan p, rfl, planOf_endPlan hp true, rfl⟩

end Sys2Proof.Machine
end

section
/-! PROOFS. A counterexample to O33. TPEER of a tile of its own core reports the pending fault of either tile that it names before it begins (R170), and waits
while another skein has waited longer for the tile that it reads (R175). O33 asks that D is quiet and free for it, and of the other tile only that it is
present, of D's shape and ready. -/

namespace Sys2Proof.Machine

/-- A tile of one byte that its core declares. -/
def smallTile (st : TileState) : TileEntry := { state := st, present := true }
/-- A path at an instruction in all lanes, and a skein of the bolt 1 with it; a copy from memory into tile 1 has met a hole, and the skein has not been
told yet. -/
def openPath : Path := { pc := 0, mask := allLanes }
def untold : Skein := { bolt := 1, index := 0, paths := [(0, openPath)], copyFaults := [⟨0, 1, 0x1C, 0x4000, 0, 0⟩] }
/-- Core 0 with that skein in hand, the empty tile 0 and the ready tile 1. -/
def untoldInHand : State :=
  { State.reset with
    dev := { State.reset.dev with cores := 1 }
    cores := [(0, { skeins := [(0, untold)], bolts := [(1, { grid := 0, block := 0, slots := [0], tiles := [0, 1] })], tiles := [(0, smallTile .empty), (1, smallTile .ready)] })]
    cur := some { core := 0, slot := 0, path := 0, lanes := none } }
def untoldCtx : Ctx := { core := 0, slot := 0, path := 0, sk := untold, pa := openPath, lanes := allLanes, act := 0, pc := 0, depth := 0 }

/-- How many copies the queue of core 0 holds in the state that an instruction answers. -/
def copiesAfter : Out → Option Nat
  | .next t => some (coreOf t 0).copyq.length
  | _ => none

/-- Refutes O33, in its clause on TPEER: from `untoldInHand` TPEER of tile 1 of its own core into tile 0 takes the copy fault of tile 1 as a trap and begins
no copy, where O33 gives one in the queue. -/
theorem not_tileCopies : ¬ Obligations.TileCopies := by
  unfold Obligations.TileCopies
  intro h
  obtain ⟨-, -, -, -, -, peer, -⟩ := h ⟨7, false, false, false, 0⟩ 0 1 0 0 0 (.imm 0) .keep untoldInHand untoldCtx (by decide) (by unfold quietTile; decide)
  obtain ⟨u, -, begun⟩ := peer ⟨by decide, by decide⟩ (by decide) (by decide) (by decide) (by decide) (by decide +kernel)
  have traps : copiesAfter (exec (.tpeer ⟨7, false, false, false, 0⟩ 0 1 0) untoldInHand) = some 0 := by decide +kernel
  unfold CopyBegun at begun
  rw [begun] at traps
  simp [copiesAfter, updCore, untoldCtx, activeCtx] at traps

end Sys2Proof.Machine
end

section
/-! PROOFS. A counterexample to O35. What an instruction sends to a pipe's home on another die is posted under the number that `nextId` names and then moved on
by that number (`postMsg`). As in O43, another request under that number moves in its place, and where it arrives every request of its number leaves
the network with it. The machine keeps the numbers of its requests below `nextId`, but O35 speaks of every state. -/

namespace Sys2Proof.Machine

/-- A path at an instruction in all lanes, and the skein of core 48, on die 1, with it; its bolt is of a stage of the plan 0 of `pushedPlan`, whose pipe has
its home on die 0. -/
def askingPath : Path := { pc := 0, mask := allLanes }
def asking : Skein := { bolt := 1, index := 0, paths := [(0, askingPath)] }
/-- The grid of that bolt is the stage 0, and its handle 0 names the pipe 0. -/
def askingGrid : Grid :=
  { launch := { handles := [0] }, queue := 0, seq := 0, plan := some (0, 0), part := 8, prio := 0, started := 0, todo := [], saved := [], running := 1
    blockwise := none, failed := false, stopped := false, boltsStopped := 0, done := false, lastEnd := none }
/-- The skein has an instruction in hand, and the reply of a prefetch is on its way under the number after the next. -/
def queryNumberTaken : State :=
  { State.reset with
    plans := [(0, pushedPlan)], grids := [(0, askingGrid)], reqs := [{ prefetchBack with id := State.reset.nextId + 1 }]
    cores := [(48, { skeins := [(0, asking)], bolts := [(1, { grid := 0, block := 0, slots := [0] })] })]
    cur := some { core := 48, slot := 0, path := 0, lanes := none } }
def askingCtx : Ctx := { core := 48, slot := 0, path := 0, sk := asking, pa := askingPath, lanes := allLanes, act := 0, pc := 0, depth := 0 }

/-- Refutes O35, in its clause on a change of a pipe whose home is on another die: PCLOSE from `queryNumberTaken` leaves no message, where O35 gives one with
the change. -/
theorem not_pipeInstructions : ¬ Obligations.PipeInstructions := by
  unfold Obligations.PipeInstructions
  intro h
  obtain ⟨-, -, -, change⟩ := h ⟨7, false, false, false, 0⟩ 0 0 0 0 0 0 .free (0, false) pushedPipe queryNumberTaken askingCtx rfl
  obtain ⟨-, fromFar⟩ := change rfl (by decide) (by decide) (by decide +kernel) true
  obtain ⟨⟨u, run, -⟩, sends⟩ := fromFar (by decide)
  obtain ⟨r, hr, sent, -⟩ := sends u run
  have kinds : (reqsAfter (exec (.pclose ⟨7, false, false, false, 0⟩ 0) queryNumberTaken)).map Req.kind = [.prefetch] := by decide +kernel
  have among : r.kind ∈ u.reqs.map Req.kind := List.mem_map_of_mem hr
  rw [show exec (.pclose ⟨7, false, false, false, 0⟩ 0) queryNumberTaken = .next u from run] at kinds
  rw [show u.reqs.map Req.kind = [.prefetch] from kinds, sent] at among
  simp at among

end Sys2Proof.Machine
end

section
/-! PROOFS. A counterexample to O42. An engine finds its copy by what the copy is (`engineCopy`), and what has come then lands for the first copy of the queue
that has the copy's number. The numbers of the copies of a core differ in every state that the machine makes, but O42 speaks of every state: where two
bear one number, the line of one moves and the bytes of the other land with it. -/

namespace Sys2Proof.Machine

/-- A fill of tile 0, of one byte, that no engine has taken. -/
def fillWaiting : Copy :=
  { op := 7, slot := 0, kind := .tfill 0, tile := 0, tileA := 0, policy := .keep, ctx := 0, rows := [], next := 0, total := 1, engine := none, poison := false
    faultCode := 0, faultVa := 0, linesDone := 0, inTask := false, moved := false, issued := 0 }
/-- A load of tile 1 under the same number, on engine 1, whose one line has come. -/
def loadLanding : Copy :=
  { fillWaiting with kind := .tload, tile := 1, tileA := 1, rows := [⟨0, some 0⟩], next := 1, engine := some 1, got := [(0, (1, 0))] }
/-- Core 0 with both copies in its queue, and the two tiles of one byte each in its tile store. -/
def copyNumberShared : State :=
  { State.reset with cores := [(0, { copyq := [loadLanding, fillWaiting], tiles := [(0, { state := .filling }), (1, { state := .filling, base := 1 })] })] }

/-- The byte at an address of the tile store of core 0 in the state that an event answers. -/
def tileByteAfter (a : Nat) : Out → Option Byte
  | .next t => some (tileByte t 0 a)
  | _ => none

/-- Refutes O42, in its clause on a line of TFILL: from `copyNumberShared` the line of engine 0 puts a byte into tile 1, where O42 changes no byte but those
of the line of tile 0. -/
theorem not_copyEvents : ¬ Obligations.CopyEvents := by
  unfold Obligations.CopyEvents
  intro h
  obtain ⟨lines, -⟩ := h
  obtain ⟨fill, -⟩ := lines 0 0 0 [] copyNumberShared fillWaiting (by decide) (by decide) rfl
  obtain ⟨t, bs, run, -, ⟨-, bytes⟩, len, -⟩ := fill 0 (by decide) rfl (by decide)
  have landed : tileByteAfter 128 (exec (.copyLineTransfer 0 ⟨0, 0, []⟩) copyNumberShared) = some 1 := by decide +kernel
  have kept := bytes 128
  rw [if_neg (by rw [len]; decide)] at kept
  rw [run, tileByteAfter, kept] at landed
  exact absurd landed (by decide +kernel)

end Sys2Proof.Machine
end

section
/-! PROOFS. A change of a tile's state, and the beginning of a copy (R168, R170). -/

namespace Sys2Proof.Machine

/-! Tile table entries. -/

theorem tileOf_updTile (s : State) (core d n e : Nat) (f : TileEntry → TileEntry) :
    tileOf (updTile s core d f) n e = (oneTile core d (f (tileOf s core d)) n e).getD (tileOf s n e) := by
  unfold tileOf updTile oneTile
  rw [coreOf_updCore]
  by_cases hn : n = core
  · subst hn
    by_cases he : e = d
    · simp [he]
    · simp [he, NMap.getD_insert_ne]
  · simp [hn]

/-- Changing one entry changes no other, and nothing but the tile table. -/
theorem tilesBecome_updTile (s : State) (core d : Nat) (f : TileEntry → TileEntry) : TilesBecome s (updTile s core d f) (oneTile core d (f (tileOf s core d))) := by
  refine ⟨rfl, fun n => ?_, fun n e => tileOf_updTile s core d n e f⟩
  simp only [updTile, coreOf_updCore]
  split
  · rename_i h
    rw [h]
  · rfl

theorem tilesBecome_trans {s t u : State} {f g : Nat → Nat → Option TileEntry} (h : TilesBecome s t f) (h' : TilesBecome t u g) :
    TilesBecome s u (fun n e => (g n e).or (f n e)) := by
  obtain ⟨rest, cores, tiles⟩ := h
  obtain ⟨rest', cores', tiles'⟩ := h'
  refine ⟨?_, fun n => ?_, fun n e => ?_⟩
  · rw [rest', rest]
  · rw [cores' n, cores n]
  · rw [tiles', tiles, Option.getD_or]

theorem tilesBecome_of_eq {s t : State} {f g : Nat → Nat → Option TileEntry} (h : TilesBecome s t f) (eq : ∀ n e, f n e = g n e) : TilesBecome s t g :=
  (funext fun n => funext fun e => eq n e : f = g) ▸ h

/-- What a change of the tile table leaves. -/
theorem tilesBecome_skein {s t : State} {f : Nat → Nat → Option TileEntry} (h : TilesBecome s t f) (core slot : Nat) : skeinOf t core slot = skeinOf s core slot := by
  rw [skeinOf, h.2.1, skeinOf]
theorem tilesBecome_bolt {s t : State} {f : Nat → Nat → Option TileEntry} (h : TilesBecome s t f) (core bolt : Nat) : boltOf t core bolt = boltOf s core bolt := by
  rw [boltOf, h.2.1, boltOf]
theorem tilesBecome_grids {s t : State} {f : Nat → Nat → Option TileEntry} (h : TilesBecome s t f) : t.grids = s.grids := by rw [h.1]
theorem tilesBecome_clock {s t : State} {f : Nat → Nat → Option TileEntry} (h : TilesBecome s t f) : t.clock = s.clock := by rw [h.1]

/-! The launch of a bolt. -/

/-- The launch is that of the bolt's grid. -/
theorem launchOf_congr {s t : State} {core bolt : Nat} (grids : t.grids = s.grids) (grid : (boltOf t core bolt).map Bolt.grid = (boltOf s core bolt).map Bolt.grid) :
    launchOf t core bolt = launchOf s core bolt := by
  have at' : ∀ u : State, gridOf u core bolt = ((boltOf u core bolt).map Bolt.grid).bind (NMap.get? u.grids) := fun u => by
    rw [gridOf, Option.bind_map]
    rfl
  rw [launchOf, at', grid, grids, ← at', launchOf]

/-! The beginning of a copy. -/

/-- A change to the queue of a core and one to a skein of it do not meet. -/
theorem updSkein_updCore_copyq (s : State) (core slot : Nat) (f : List Copy → List Copy) (g : Skein → Skein) :
    updSkein (updCore s core (fun k => { k with copyq := f k.copyq })) core slot g = updCore (updSkein s core slot g) core (fun k => { k with copyq := f k.copyq }) := by
  have same : skeinOf (updCore s core (fun k => { k with copyq := f k.copyq })) core slot = skeinOf s core slot := by simp [skeinOf]
  unfold updSkein
  rw [same]
  split
  · simp [setSkein]
  · rfl

/-- Putting a copy into the queue and stepping past its instruction. -/
theorem retire_beginCopy {x : Ctx} {s : State} (c : Ctl) (ctr : Nat) (mk : Copy → Copy) (h : skeinOf s x.core x.slot = some x.sk) :
    retire x (beginCopy x c ctr mk s) = updCore
      { setSkein s x.core x.slot (skeinBegun x c s.nextId { cls := .async, path := x.path, fromStitch := x.inWord, counter := some ctr, body := .copy }) with nextId := s.nextId + 1 }
      x.core (fun k => { k with copyq := k.copyq ++ [mk
        { op := s.nextId, slot := x.slot, kind := .tload, tile := 0, tileA := 0, policy := .keep, ctx := (x.launch s).ctx, rows := [], next := 0, total := 0
          engine := none, poison := false, faultCode := 0, faultVa := 0, linesDone := 0, inTask := x.sk.taskOpen, moved := false, issued := s.clock }] }) := by
  have begun := retire_beginOp c h { cls := .async, path := x.path, counter := some ctr, body := .copy }
  have same : (beginOp x c { cls := .async, path := x.path, counter := some ctr, body := .copy } s).2.grids = s.grids ∧
      (beginOp x c { cls := .async, path := x.path, counter := some ctr, body := .copy } s).2.clock = s.clock := by simp [beginOp, onSkein]
  have launch : x.launch (beginOp x c { cls := .async, path := x.path, counter := some ctr, body := .copy } s).2 = x.launch s := by
    refine launchOf_congr same.1 ?_
    have h' : skeinOf { s with nextId := s.nextId + 1 } x.core x.slot = some x.sk := h
    simp only [beginOp, onSkein, updSkein_of _ _ h', boltOf_setSkein]
    rfl
  unfold retire at begun ⊢
  simp only [beginCopy, onPath, updPath] at begun ⊢
  rw [updSkein_updCore_copyq _ _ _ (· ++ [_]), begun, launch, same.2]
  rfl

end Sys2Proof.Machine
end

section
/-! PROOFS. What an agent reads whose lines are at hand, and the group that a core's lines hold (R435). -/

namespace Sys2Proof.Machine

/-! Bytes at hand. -/

theorem inHand_drop {s : State} {ag : Agent} {pa n m : Nat} {bs : List Byte} (hm : m ≤ n) (h : InHand s ag pa n bs) : InHand s ag (pa + m) (n - m) (bs.drop m) := by
  obtain ⟨len, bytes⟩ := h
  refine ⟨by simp [len], fun j hj => ?_⟩
  rw [Nat.add_assoc, List.getElem?_drop]
  exact bytes (m + j) (by omega)

/-- The part of a line that is at hand. -/
theorem readIn_of_inHand {s : State} {ag : Agent} {pa n : Nat} {bs : List Byte} (o die : Nat) (hn : 0 < n) (h : InHand s ag pa n bs) :
    readIn s (ag, o) die pa (min n (128 - pa % 128)) = (some (bs.take (min n (128 - pa % 128))), s) := by
  obtain ⟨len, bytes⟩ := h
  obtain ⟨ln, found, -⟩ := bytes 0 hn
  rw [Nat.add_zero] at found
  simp only [readIn, lineGet, found]
  congr 2
  refine List.ext_getElem? fun i => ?_
  by_cases hi : i < min n (128 - pa % 128)
  · obtain ⟨ln', found', byte⟩ := bytes i (by omega)
    rw [show (pa + i) / 128 = pa / 128 by omega, found] at found'
    obtain rfl := Option.some.inj found'
    rw [List.getElem?_take_of_lt hi, byte, show (pa + i) % 128 = pa % 128 + i by omega]
    simp [hi]
  · rw [List.getElem?_take_eq_none (by omega), List.getElem?_eq_none (by simp; omega)]

/-- A read of bytes at hand gives them and asks for nothing: by induction on the lines that they touch. -/
theorem readOut_of_inHand {s : State} {ag : Agent} (o die k : Nat) : ∀ {pa n : Nat} {bs : List Byte}, n = 0 ∨ pa % 128 + n ≤ 128 * k → InHand s ag pa n bs →
    readOut s (ag, o) die pa n k = (some bs, s) := by
  induction k with
  | zero =>
    intro pa n bs hk h
    rw [List.eq_nil_of_length_eq_zero (show bs.length = 0 by rw [h.1]; omega), readOut]
  | succ k ih =>
    intro pa n bs hk h
    rw [readOut]
    split
    · rename_i zero
      rw [List.eq_nil_of_length_eq_zero (h.1.trans zero)]
    · rename_i pos
      have rest := ih (pa := pa + min n (128 - pa % 128)) (by omega) (inHand_drop (Nat.min_le_left n (128 - pa % 128)) h)
      simp [readIn_of_inHand o die (Nat.pos_of_ne_zero pos) h, rest]

/-! The words of a structure. -/

theorem leNat_leBytes (n : Nat) : ∀ x, leNat (leBytes n x) = x % 256 ^ n := by
  induction n with
  | zero => intro x; simp [leBytes, leNat, Nat.mod_one]
  | succ n ih =>
    intro x
    rw [leBytes, leNat, ih, Nat.pow_succ', Nat.mod_mul]
    simp

theorem words64_append {a : List Byte} (b : List Byte) (h : a.length = 8) : words64 (a ++ b) = leNat a :: words64 b := by
  have words : (a ++ b).length / 8 = b.length / 8 + 1 := by rw [List.length_append, h]; omega
  unfold words64
  rw [words, List.range_succ_eq_map, List.map_cons, List.map_map]
  congr 1
  · simp [← h]
  · refine List.map_congr_left fun i _ => ?_
    rw [Function.comp_apply, Nat.succ_eq_add_one, show 8 * (i + 1) = a.length + 8 * i by omega, List.drop_append, List.drop_eq_nil_of_le (Nat.le_add_right _ _),
      Nat.add_sub_cancel_left, List.nil_append]

theorem words64_nil : words64 [] = [] := rfl

theorem words64_leBytes (x : Nat) (b : List Byte) (h : x < 2 ^ 64) : words64 (leBytes 8 x ++ b) = x :: words64 b := by
  rw [words64_append b (length_leBytes 8 x), leNat_leBytes, Nat.mod_eq_of_lt (show x < 256 ^ 8 by omega)]

theorem words64_flatMap {α : Type} (f : α → Nat) : ∀ l : List α, (∀ k ∈ l, f k < 2 ^ 64) → words64 (l.flatMap (fun k => leBytes 8 (f k))) = l.map f
  | [], _ => words64_nil
  | k :: l, h => by
    rw [List.flatMap_cons, words64_leBytes _ _ (h k List.mem_cons_self), words64_flatMap f l fun j hj => h j (List.mem_cons_of_mem k hj), List.map_cons]

/-- The second word of a structure of 32 bytes. -/
theorem words64_second {bs : List Byte} (h : bs.length = 32) : (words64 bs).getD 1 0 = leNat ((bs.drop 8).take 8) := by
  simp [words64, h, List.range_succ]

/-! The descriptor of a group. -/

/-- The words of a valid descriptor (R435). -/
def groupWord (e : GroupDesc) : Nat := e.members.length - 1 + e.channel * 2 ^ 16 + e.ctx * 2 ^ 20 + 2 ^ 32
def memberWord (k : Nat × Nat) : Nat := k.1 + k.2 * 2 ^ 32

/-- A descriptor whose valid bit is clear names no group. -/
theorem readGroup_invalid {s : State} {core slot g : Nat} {bs : List Byte} (h : InHand s (.coll core slot) (s.dev.grpBase + 32 * g) 32 bs)
    (clear : bitAt (leNat ((bs.drop 8).take 8)) 32 = false) : readGroup s core slot g = (some none, s) := by
  simp only [readGroup, readOut_of_inHand _ _ 3 (by omega) h, words64_second h.1, clear]
  simp

theorem memberWord_fields {k : Nat × Nat} (h : k.1 < 1024 ∧ k.2 < 2 ^ 32) :
    memberWord k < 2 ^ 64 ∧ field (memberWord k) 10 22 = 0 ∧ (memberWord k % 1024, memberWord k / 2 ^ 32) = k := by
  obtain ⟨p, b⟩ := k
  simp only [memberWord, field, Prod.mk.injEq] at *
  omega

theorem groupWord_fields {e : GroupDesc} (some' : 0 < e.members.length) (few : e.members.length ≤ 4096) (ch : e.channel < 16) (cx : e.ctx < 4096) :
    groupWord e < 2 ^ 64 ∧ bitAt (groupWord e) 32 = true ∧ groupWord e / 2 ^ 33 = 0 ∧ field (groupWord e) 12 4 = 0 ∧ field (groupWord e) 0 12 + 1 = e.members.length ∧
    field (groupWord e) 16 4 = e.channel ∧ field (groupWord e) 20 12 = e.ctx := by
  simp only [groupWord, field, bitAt]
  refine ⟨?_, decide_eq_true ?_, ?_, ?_, ?_, ?_, ?_⟩ <;> omega

/-- The words of a descriptor's four fields. -/
theorem words64_descriptor {a b : Nat} (ha : a < 2 ^ 64) (hb : b < 2 ^ 64) : words64 (leBytes 8 a ++ leBytes 8 b ++ leBytes 16 0) = [a, b, 0, 0] := by
  have zeros : words64 (leBytes 16 0) = [0, 0] := by decide
  rw [List.append_assoc, words64_leBytes _ _ ha, words64_leBytes _ _ hb, zeros]

/-- The group that the core's lines hold is the one that its COLL reads. -/
theorem readGroup_of_held {s : State} {x : Ctx} {g : Nat} {e : GroupDesc} (h : GroupHeld s x g e) : readGroup s x.core x.slot g = (some (some e), s) := by
  obtain ⟨base, hbase, some', few, ch, cx, bounds, desc, list⟩ := h
  obtain ⟨small, valid, high, gap, count, chan, ctx⟩ := groupWord_fields some' few ch cx
  have words := words64_descriptor (show 8 * base < 2 ^ 64 by omega) small
  have names : words64 (e.members.flatMap (fun k => leBytes 8 (memberWord k))) = e.members.map memberWord :=
    words64_flatMap memberWord _ fun k hk => (memberWord_fields (bounds k hk)).1
  have clear : (e.members.map memberWord).all (fun w => decide (field w 10 22 = 0)) = true := by
    refine List.all_eq_true.2 fun w hw => ?_
    obtain ⟨k, hk, rfl⟩ := List.mem_map.1 hw
    exact decide_eq_true (memberWord_fields (bounds k hk)).2.1
  have back : (e.members.map memberWord).map (fun w => (w % 1024, w / 2 ^ 32)) = e.members := by
    rw [List.map_map]
    exact (List.map_congr_left fun k hk => (memberWord_fields (bounds k hk)).2.2).trans (List.map_id _)
  have at' : field (8 * base) 3 49 * 8 = 8 * base := by simp only [field]; omega
  have read := readOut_of_inHand (partOf s x.core) (dieOf x.core) 3 (by omega) desc
  have readList := readOut_of_inHand (partOf s x.core) (dieOf x.core) (lineFuel (8 * e.members.length)) (by simp only [lineFuel]; omega) list
  rw [show e.members.length - 1 + e.channel * 2 ^ 16 + e.ctx * 2 ^ 20 + 2 ^ 32 = groupWord e from rfl] at read
  rw [show (fun k : Nat × Nat => leBytes 8 (k.1 + k.2 * 2 ^ 32)) = fun k => leBytes 8 (memberWord k) from rfl] at readList
  simp only [readGroup, read, words, List.getD_cons_zero, List.getD_cons_succ, valid, high, gap, count, at', readList, names, clear, back, chan, ctx]
  have low : 8 * base / 2 ^ 52 = 0 := by omega
  simp only [low]
  simp

/-! The member of a use (R436). -/

theorem findIdx?_eq_some {α : Type} {p : α → Bool} : ∀ {l : List α} {m : Nat} {a : α}, l[m]? = some a → p a = true → (∀ j b, j < m → l[j]? = some b → p b = false) →
    findIdx? p l = some m
  | a :: l, 0, b, h, hp, _ => by
    obtain rfl : a = b := by simpa using h
    rw [findIdx?, if_pos hp]
  | a :: l, m + 1, b, h, hp, first => by
    have rest := findIdx?_eq_some (l := l) (m := m) (by simpa using h) hp fun j b hj hb => first (j + 1) b (by omega) (by simpa using hb)
    rw [findIdx?, if_neg (by simp [first 0 a (by omega) rfl]), rest, Option.map_some]

theorem findIdx?_eq_none {α : Type} {p : α → Bool} : ∀ {l : List α}, (∀ a ∈ l, p a = false) → findIdx? p l = none
  | [], _ => rfl
  | a :: l, h => by
    rw [findIdx?, if_neg (by simp [h a List.mem_cons_self]), findIdx?_eq_none fun b hb => h b (List.mem_cons_of_mem a hb), Option.map_none]

theorem memberOf_eq_some {s : State} {e : GroupDesc} {l : Launch} {block part m : Nat} (ctx : e.ctx = l.ctx)
    (ch : (∀ k ∈ e.members, k.1 = Config.packageNumber) ∨ channelOk s e.channel part = true)
    (here : e.members[m]? = some (Config.packageNumber, block)) (first : ∀ j, j < m → e.members[j]? ≠ some (Config.packageNumber, block)) :
    memberOf s e l block part = some m := by
  have open' : ¬(e.ctx ≠ l.ctx ∨ (e.members.any (fun k => decide (k.1 ≠ Config.packageNumber)) = true ∧ (!channelOk s e.channel part) = true)) := by
    rintro (ne | ⟨far, shut⟩)
    · exact ne ctx
    · obtain ⟨k, hk, ne⟩ := List.any_eq_true.1 far
      rcases ch with near | ok
      · exact of_decide_eq_true ne (near k hk)
      · simp [ok] at shut
  simp only [memberOf, if_neg open']
  refine findIdx?_eq_some here (by simp) fun j b hj hb => decide_eq_false fun eq => first j hj (eq ▸ hb)

theorem memberOf_eq_none {s : State} {e : GroupDesc} {l : Launch} {block part : Nat} (h : e.ctx ≠ l.ctx ∨ (Config.packageNumber, block) ∉ e.members) :
    memberOf s e l block part = none := by
  simp only [memberOf]
  split
  · rfl
  · rename_i open'
    refine findIdx?_eq_none fun k hk => decide_eq_false fun eq => ?_
    exact h.elim (fun ne => open' (.inl ne)) fun out => out (eq ▸ hk)

end Sys2Proof.Machine
end

section
/-! PROOFS. COLL (R178, R435, R436). -/

namespace Sys2Proof.Machine

/-! What the beginning of a use changes. -/

/-- The parts of a state that sending a tile and joining a use leave. -/
def besidesUses (s : State) : NMap Core × NMap Grid × Nat := (s.cores, s.grids, s.clock)

theorem besidesUses_groupSend (s : State) (dest vc g gen : Nat) (t : GroupTile) : besidesUses (groupSend s dest vc g gen t) = besidesUses s := by
  unfold groupSend
  exact foldl_keeps besidesUses (fun s i => podSend s _) (fun _ _ => rfl) _ s

theorem besidesUses_sendTile (s : State) (e : GroupDesc) (g gen : Nat) (op : CollOp) (t : GroupTile) : besidesUses (sendTile s e g gen op t) = besidesUses s := by
  unfold sendTile
  exact foldl_keeps besidesUses _ (fun s p => besidesUses_groupSend s p _ _ _ _) _ s

theorem besidesUses_joinUse (s : State) (e : GroupDesc) (g gen : Nat) (op : CollOp) : besidesUses (joinUse s e g gen op) = besidesUses s := by
  unfold joinUse
  split <;> rfl

/-- A member's use once its tile has left and it has joined the use of its group, the descriptor's lines given back. -/
def useBegun (s : State) (x : Ctx) (e : GroupDesc) (g gen n m a : Nat) (op : CollOp) : State :=
  let l := x.launch s
  updBolt (joinUse (sendTile (endAgent s (.coll x.core x.slot)) e g gen op (groupTileOf l (tileOf s x.core a) m (tileBytesOf s x.core a (tileSize l (tileOf s x.core a)))
    { op := op, members := e.members, channel := e.channel })) e g gen op) x.core x.sk.bolt (fun q => { q with collUses := NMap.insert q.collUses g n })

/-- The cores, the grids and the clock of `t` are those of `s`, but for what a bolt knows of its uses. -/
structure SameCores (s t : State) : Prop where
  skein : ∀ core slot, skeinOf t core slot = skeinOf s core slot
  tile : ∀ core e, tileOf t core e = tileOf s core e
  grid : ∀ core bolt, (boltOf t core bolt).map Bolt.grid = (boltOf s core bolt).map Bolt.grid
  grids : t.grids = s.grids
  clock : t.clock = s.clock

theorem sameCores_of_besidesUses {s t : State} (h : besidesUses t = besidesUses s) : SameCores s t := by
  simp only [besidesUses, Prod.mk.injEq] at h
  obtain ⟨cores, grids, clock⟩ := h
  constructor <;> simp only [skeinOf, tileOf, boltOf, coreOf, cores, grids, clock, implies_true]

theorem sameCores_collUses (s : State) (core bolt : Nat) (f : NMap Nat → NMap Nat) : SameCores s (updBolt s core bolt (fun q => { q with collUses := f q.collUses })) where
  skein n slot := by
    rw [skeinOf, skeinOf, updBolt, coreOf_updCore]
    split <;> simp_all
  tile n e := by
    rw [tileOf, tileOf, updBolt, coreOf_updCore]
    split <;> simp_all
  grid n b := by
    rw [boltOf, boltOf, updBolt, coreOf_updCore]
    split
    · rename_i h
      subst h
      rw [get?_nupdate]
      split <;> simp [Function.comp_def]
    · rfl
  grids := rfl
  clock := rfl

theorem SameCores.trans {s t u : State} (h : SameCores s t) (h' : SameCores t u) : SameCores s u where
  skein n k := (h'.skein n k).trans (h.skein n k)
  tile n k := (h'.tile n k).trans (h.tile n k)
  grid n k := (h'.grid n k).trans (h.grid n k)
  grids := h'.grids.trans h.grids
  clock := h'.clock.trans h.clock

theorem sameCores_endAgent (s : State) (ag : Agent) : SameCores s (endAgent s ag) := sameCores_of_besidesUses rfl

theorem sameCores_useBegun (s : State) (x : Ctx) (e : GroupDesc) (g gen n m a : Nat) (op : CollOp) : SameCores s (useBegun s x e g gen n m a op) := by
  refine SameCores.trans ?_ (sameCores_collUses _ _ _ fun q => NMap.insert q g n)
  exact sameCores_of_besidesUses ((besidesUses_joinUse _ _ _ _ _).trans (besidesUses_sendTile _ _ _ _ _ _))

/-! The issue of COLL. -/

theorem reportAt_none {x : Ctx} {p : CopyFault → Bool} {s : State} (h : ∀ f ∈ x.sk.copyFaults, p f = false) : reportAt x p false s = none := by
  rw [reportAt, pendingCopyFault, List.find?_eq_none.2 fun f hf => by simp [h f hf]]
  rfl

/-- COLL of declared tiles of the formats and shapes that R178 asks for meets no trap that rests on no register. -/
theorem collEarly_none {s : State} {x : Ctx} {d a : Nat} {op : CollOp} (ha : declared s x a = true) (hd : declared s x d = true)
    (plain : op = .sum ∨ op = .max ∨ op = .min → plainFmt (entryFmt (x.launch s) (tileOf s x.core a)).1 = true ∧ plainFmt (entryFmt (x.launch s) (tileOf s x.core d)).1 = true)
    (code : entryCode (x.launch s) (tileOf s x.core a) = entryCode (x.launch s) (tileOf s x.core d)) (cols : (tileOf s x.core a).cols = (tileOf s x.core d).cols)
    (rows : op = .gath ∨ (tileOf s x.core a).rows = (tileOf s x.core d).rows) : collEarly d a op x s = none := by
  have reads : reduces op = true → plainFmt (entryFmt (x.launch s) (tileOf s x.core a)).1 = true ∧ plainFmt (entryFmt (x.launch s) (tileOf s x.core d)).1 = true := fun r =>
    plain (by cases op <;> simp_all [reduces])
  have fits : ¬op = .gath → (tileOf s x.core a).rows = (tileOf s x.core d).rows := rows.resolve_left
  simp only [collEarly, allotEarly, List.all_cons, ha, hd, List.all_nil, Bool.and_self, if_true, Option.none_or]
  exact if_neg (by simpa [code, cols] using ⟨reads, fits⟩)

/-- No fault of the tiles of COLL waits to be reported. -/
theorem coll_unreported {s : State} {x : Ctx} {a d : Nat} (ha : quietTile x a) (hd : quietTile x d) :
    reportAt x (fun f => decide (f.tile = a) || decide (f.tile = d)) (matTile x.sk a || matTile x.sk d) s = none := by
  rw [ha.2, hd.2]
  exact reportAt_none fun f hf => by simp [ha.1 f hf, hd.1 f hf]

/-- The tiles that a member gives to its use, the uses of the group that its bolt has issued, and the block that makes it a member. -/
def collSources (a m : Nat) (op : CollOp) : List Nat := if op ≠ .bcast ∨ m = 0 then [a] else []
def usesIssued (s : State) (x : Ctx) (g : Nat) : Nat := NMap.getD (((boltOf s x.core x.sk.bolt).map Bolt.collUses).getD []) g 0
def blockIndex (s : State) (x : Ctx) : Nat := ((boltOf s x.core x.sk.bolt).map Bolt.block).getD 0

/-- Nothing holds a member's use back, and none of its checks traps (R172, R178). -/
structure UseFits (s : State) (x : Ctx) (c : Ctl) (d a g m count : Nat) (op : CollOp) : Prop where
  rows : ¬(op = .gath ∧ (tileOf s x.core d).rows ≠ count * (tileOf s x.core a).rows)
  few : ¬4 ≤ (collOutstanding s x.core x.sk.bolt g).length
  clean : tilePoison s x.core (collSources a m op) = false
  room : (memHeld x true true || !copyRoom s x c 5 || packetsOut s g (usesIssued s x g % 4) m) = false
  free : tileWait s x (collSources a m op) [d] = none

/-- The copy of a member's use, from the form in which a copy begins. -/
def collCopy (s : State) (x : Ctx) (d a g m : Nat) (op : CollOp) (k : Copy) : Copy :=
  { k with kind := .coll g (usesIssued s x g % 4) m op, tile := d, tileA := a
           total := if op ≠ .bcast ∨ m = 0 then max 1 (cdiv (tileSize (x.launch s) (tileOf s x.core a)) 128) else 0 }
/-- The tiles of a use take their states. -/
def useTiles (s : State) (core d a m : Nat) (op : CollOp) : State := startFill (if (op ≠ .bcast ∨ m = 0) ∧ a ≠ d then startDrain s core a else s) core d

section
variable {c : Ctl} {d a b m : Nat} {op : CollOp} {e : GroupDesc} {s : State} {x y : Ctx} (hy : activeCtx x c = y)
  (ready : Ready { guard := .coll } (Instr.use (.coll c d a b op)) c x s) (early : collEarly d a op y s = none) (ha : quietTile y a) (hd : quietTile y d)
include hy ready early ha hd

/-- COLL of a member whose use fits. -/
theorem coll_joins (read : readGroup s y.core y.slot ((kget y.sk b).toNat % 4096) = (some (some e), s))
    (member : memberOf s e (y.launch s) (blockIndex s y) (partOf s y.core) = some m) (fits : UseFits s y c d a ((kget y.sk b).toNat % 4096) m e.members.length op) :
    let g := (kget y.sk b).toNat % 4096
    exec (.coll c d a b op) s = .next (retire y (beginCopy y c 5 (collCopy s y d a g m op)
      (useTiles (useBegun s y e g (usesIssued s y g % 4) (usesIssued s y g + 1) m a op) y.core d a m op))) := by
  obtain ⟨rows, few, clean, room, free⟩ := fits
  subst hy
  intro g
  rw [show exec (.coll c d a b op) s = execColl c d a b op s from rfl, execColl, issue_ready ready early]
  simp only [coll_unreported ha hd, read]
  simp only [blockIndex] at member
  simp only [usesIssued, collSources] at rows few clean room free
  simp only [Option.bind_some, member, if_neg rows, if_neg few, clean, room, Bool.false_eq_true, if_false, free]
  rfl

/-- COLL of a group that its bolt may not use. -/
theorem coll_refused {desc : Option GroupDesc} (read : readGroup s y.core y.slot ((kget y.sk b).toNat % 4096) = (some desc, s))
    (member : desc.bind (fun e => memberOf s e (y.launch s) (blockIndex s y) (partOf s y.core)) = none) (room : ¬(!flagRoom y c || !counterRoom y 5) = true)
    (free : tileWait s y [] [d] = none) : exec (.coll c d a b op) s = .next (refuseUse y d (endAgent s (.coll y.core y.slot))) := by
  subst hy
  rw [show exec (.coll c d a b op) s = execColl c d a b op s from rfl, execColl, issue_ready ready early]
  simp only [coll_unreported ha hd, read]
  simp only [blockIndex] at member
  simp only [member, if_neg room, free]

end

/-! The outcomes of COLL. -/

/-- The tiles of a use as they go filling and draining. -/
theorem useTiles_becomes (s : State) (core d a m : Nat) (op : CollOp) : TilesBecome s (useTiles s core d a m op) (fun k t => if k = core ∧ t = d then some (fillingTile (tileOf s core d))
    else if (op ≠ .bcast ∨ m = 0) ∧ k = core ∧ t = a then some (drainingTile (tileOf s core a)) else none) := by
  unfold useTiles
  split
  · rename_i both
    refine tilesBecome_of_eq (tilesBecome_trans (tilesBecome_updTile s core a _) (tilesBecome_updTile _ core d _)) fun k t => ?_
    simp only [tileOf_updTile, oneTile, Ne.symm both.2, and_false, if_false, Option.getD_none, both.1, true_and]
    split <;> rfl
  · rename_i one
    refine tilesBecome_of_eq (tilesBecome_updTile s core d _) fun k t => ?_
    simp only [oneTile]
    split
    · rfl
    · rename_i other
      refine (if_neg fun h => ?_).symm
      obtain ⟨source, hk, ht⟩ := h
      exact one ⟨source, fun eq => other ⟨hk, ht.trans eq⟩⟩

theorem refuseUse_eq {s : State} {x : Ctx} (h : skeinOf s x.core x.slot = some x.sk) (d : Nat) :
    refuseUse x d s = retire x (setSkein { fillDone s x.core d false true with nextId := s.nextId + 1 } x.core x.slot
      { x.sk with copyFaults := x.sk.copyFaults ++ [⟨5, d, 0x1F, 0, 0, s.nextId⟩] }) := by
  have h' : skeinOf (fillDone s x.core d false true) x.core x.slot = some x.sk :=
    (tilesBecome_skein (tilesBecome_updTile s x.core d _) x.core x.slot).trans h
  simp only [refuseUse, onSkein]
  rw [← updSkein_of { fillDone s x.core d false true with nextId := s.nextId + 1 } (fun sk => { sk with copyFaults := sk.copyFaults ++ [⟨5, d, 0x1F, 0, 0, s.nextId⟩] }) h']
  rfl

/-- Settles O34, by the group that the lines at hand hold: its member joins the use, and any other is refused. -/
theorem collectiveIssue : Obligations.CollectiveIssue := by
  unfold Obligations.CollectiveIssue
  intro c d a b op e m s x y l A D g block source srcs n v u refused ready ha hd qa qd plain code cols rows
  have here : skeinOf s x.core x.slot = some x.sk := ctxOf_skein ready.1
  have early : collEarly d a op y s = none := collEarly_none ha hd plain code cols rows
  have refuses : ∀ desc : Option GroupDesc, readGroup s x.core x.slot g = (some desc, s) → desc.bind (fun e => memberOf s e l block (partOf s x.core)) = none → refused := by
    intro desc read none' free flag counter
    have asked := coll_refused rfl ready early qa qd read none' (by simp [flag, counter, y]) free
    refine ⟨fillDone v x.core d false true, ?_, ?_⟩
    · exact tilesBecome_updTile v x.core d _
    · exact asked.trans (congrArg Host.Outcome.next (refuseUse_eq (x := y) (s := v) here d))
  refine ⟨fun held ctx ch here' first gath few clean fits packets free => ?_, fun bs held clear => ?_, fun held out => ?_⟩
  · have member := memberOf_eq_some (l := l) (part := partOf s x.core) ctx ch here' first
    have joins := coll_joins rfl ready early qa qd (readGroup_of_held held) member
      { rows := fun h => h.2 (gath h.1), few := Nat.not_le.2 few, clean := clean, room := by rw [fits.1, fits.2]; exact packets, free := free }
    have same := sameCores_useBegun s y e g (n % 4) (n + 1) m a op
    have tiles := useTiles_becomes (useBegun s y e g (n % 4) (n + 1) m a op) x.core d a m op
    rw [same.tile, same.tile] at tiles
    have launch : y.launch (useTiles (useBegun s y e g (n % 4) (n + 1) m a op) x.core d a m op) = y.launch s :=
      launchOf_congr ((tilesBecome_grids tiles).trans same.grids) ((congrArg _ (tilesBecome_bolt tiles x.core x.sk.bolt)).trans (same.grid x.core x.sk.bolt))
    refine ⟨_, tiles, joins.trans (congrArg Host.Outcome.next ((retire_beginCopy (x := y) c 5 _ ((tilesBecome_skein tiles _ _).trans ((same.skein _ _).trans here))).trans ?_))⟩
    rw [launch, (tilesBecome_clock tiles).trans same.clock]
    rfl
  · exact refuses none (readGroup_invalid held clear) rfl
  · exact refuses (some e) (readGroup_of_held held) (memberOf_eq_none out)

end Sys2Proof.Machine
end

section
/-! PROOFS. BASTE and HEM at issue (R185, R188, R246). -/

namespace Sys2Proof.Machine

/-- An instruction that passes the checks of every instruction takes the trap of its own that ranks before its effect. -/
theorem issue_early {k : Checks} {u : RU} {c : Ctl} {x : Ctx} {s : State} {early : Ctx → State → Option TrapInfo} {body : Ctx → State → State} {t : TrapInfo}
    (h : Ready k u c x s) (he : early (activeCtx x c) s = some t) : issue k u c early body s = .next (trapX (activeCtx x c) t s) := by
  unfold issue
  rw [h.1]
  simp only [gate1_ready h, show early { x with act := guardLanes x c } s = some t from he]
  rfl

/-- The pipe crosses packages. -/
def crossing (s : State) (pl n : Nat) : Bool := ((pipeOf s pl n).map Pipe.remote).getD false

theorem crossing_iff (s : State) (pl n : Nat) : crossing s pl n = true ↔ ∃ p, pipeOf s pl n = some p ∧ p.remote = true := by
  unfold crossing
  cases pipeOf s pl n <;> simp

/-- The copy will hold a slot of a pipe that crosses packages, or the tile of one. -/
theorem copyCrosses_iff (s : State) (k : Copy) : (match k.kind with | .ppush pl n _ | .ppop pl n _ _ => crossing s pl n | _ => false) = true ↔
    ∃ pl n a, crossing s pl n = true ∧ (k.kind = .ppush pl n a ∨ ∃ b, k.kind = .ppop pl n a b) := by
  cases k.kind <;> simp

/-- R246: the task holds, or will hold, a slot of a pipe that crosses packages. -/
theorem holdsRemote_iff (s : State) (core slot : Nat) (sk : Skein) : holdsRemote s core slot sk = true ↔
    (∃ h ∈ sk.held, crossing s h.2.1 h.2.2.1 = true) ∨ ∃ k ∈ (coreOf s core).copyq, k.slot = slot ∧ k.inTask = true ∧
      ∃ pl n a, crossing s pl n = true ∧ (k.kind = .ppush pl n a ∨ ∃ b, k.kind = .ppop pl n a b) := by
  simp only [← copyCrosses_iff]
  simp only [holdsRemote, Bool.or_eq_true, List.any_eq_true, Bool.and_eq_true, decide_eq_true_eq, and_assoc]
  rfl

variable {c : Ctl} {s : State} {x : Ctx} (ready : Ready { guard := .coll, single := true } {} c x s)
include ready

theorem baste_opens (shut : x.sk.taskOpen = false) (n : Nat) (next : n = if x.sk.taskCount = 2 ^ 18 - 1 then 1 else x.sk.taskCount + 1) :
    exec (.baste c) s = .next (retire (activeCtx x c) (setSkein { s with nextId := s.nextId + 1 } x.core x.slot
      { x.sk with taskCount := n, taskId := x.core * 2 ^ 24 + x.slot * 2 ^ 18 + n, taskOpen := true, taskKey := s.nextId })) := by
  subst next
  rw [show exec (.baste c) s = execBaste c s from rfl, execBaste, issue_ready ready (if_neg (by simp [activeCtx, shut]))]
  have here : skeinOf { s with nextId := s.nextId + 1 } x.core x.slot = some x.sk := ctxOf_skein ready.1
  exact congrArg (fun t => Host.Outcome.next (retire (activeCtx x c) t)) (updSkein_of _ _ here)

theorem baste_traps (open' : x.sk.taskOpen = true) : exec (.baste c) s = .next (trapX (activeCtx x c) { code := 0x0A } s) := by
  rw [show exec (.baste c) s = execBaste c s from rfl, execBaste]
  exact issue_early ready (if_pos open')

theorem hem_traps (shut : x.sk.taskOpen = false) : exec (.hem c) s = .next (trapX (activeCtx x c) { code := 0x0A } s) := by
  rw [show exec (.hem c) s = execHem c s from rfl, execHem]
  exact issue_early ready (if_neg (by simp [activeCtx, shut]))

theorem hem_begins (open' : x.sk.taskOpen = true) (first : x.sk.hemWaiting = false) (free : memHeld (activeCtx x c) true false = false) (flag : flagRoom (activeCtx x c) c = true)
    (sc : Scope) (scope : (if holdsRemote s x.core x.slot x.sk then .pod else .dev) = sc) :
    exec (.hem c) s = .next (pokeCore (stall (activeCtx x c) .other (setSkein { s with nextId := s.nextId + 1 } x.core x.slot
      { x.sk with hemWaiting := true, ops := NMap.insert x.sk.ops s.nextId { cls := .collective, path := x.path, body := .fence .rel sc { loads := pathLoads x.sk x.path } } })) x.core) := by
  subst scope
  rw [show exec (.hem c) s = execHem c s from rfl, execHem, issue_ready ready (if_pos open')]
  have here : skeinOf { s with nextId := s.nextId + 1 } x.core x.slot = some x.sk := ctxOf_skein ready.1
  simp only [show (activeCtx x c).sk = x.sk from rfl, first, free, flag, Bool.not_true, Bool.or_self, Bool.false_eq_true, if_false]
  exact congrArg (fun t => Host.Outcome.next (pokeCore (stall (activeCtx x c) .other t) x.core)) (updSkein_of _ _ here)

end Sys2Proof.Machine
end

section
/-! PROOFS. What a pipe's home does for a task that ends: the slot that a task held is filled, or free again, and the tile that it had popped is back in its
place (R188, R189, 06 Table 2). -/

namespace Sys2Proof.Machine

/-! A change of a pipe. -/

theorem pipeOf_updPipe (s : State) (pl n : Nat) (f : Pipe → Pipe) : pipeOf (updPipe s pl n f) pl n = (pipeOf s pl n).map f := by
  unfold pipeOf updPipe
  rw [get?_nupdate_self]
  cases NMap.get? s.plans pl <;> simp

/-- From `s` to `t` the plans change, and nothing else. -/
def OnlyPlans (s t : State) : Prop := t = { s with plans := t.plans }

theorem onlyPlans_trans {s t u : State} (h : OnlyPlans s t) (h' : OnlyPlans t u) : OnlyPlans s u := by
  unfold OnlyPlans at *
  rw [h', h]

/-- The pipe once it has settled: the state that its counters give it (R136). -/
def settled (p : Pipe) : Pipe :=
  if p.state = .closed ∧ nothingLeft p then { p with state := .exhausted }
  else if p.state = .exhausted ∧ !nothingLeft p then { p with state := .closed }
  else p

theorem settled_eq (p : Pipe) : settled p = { p with state := (settled p).state } := by
  unfold settled
  split
  · rfl
  · split <;> rfl

theorem pipeOf_settlePipe (s : State) (pl n : Nat) : pipeOf (settlePipe s pl n) pl n = (pipeOf s pl n).map settled := pipeOf_updPipe s pl n settled
theorem pipeOf_stampHome (s : State) (pl n : Nat) : pipeOf (stampHome s pl n) pl n = (pipeOf s pl n).map (fun p => { p with lastOp := some s.clock }) := pipeOf_updPipe s pl n _

/-! The publication at a home. -/

/-- A slot that a task held is committed at its pipe's home. -/
theorem publishPipe_slot {s : State} {pl n j : Nat} {p : Pipe} (hp : pipeOf s pl n = some p) (home : p.homeHere = true) :
    OnlyPlans s (publishPipe [(true, pl, n, j)] s (pl, n)) ∧
    pipeOf (publishPipe [(true, pl, n, j)] s (pl, n)) pl n = some { settled (commitSlot p j) with lastOp := some s.clock } := by
  have commit : publishPipe [(true, pl, n, j)] s (pl, n) = stampHome (settlePipe (updPipe s pl n (fun p => commitSlot p j)) pl n) pl n := by
    simp [publishPipe, commitPush, hp, home]
  rw [commit]
  refine ⟨rfl, ?_⟩
  rw [pipeOf_stampHome, pipeOf_settlePipe, pipeOf_updPipe, hp]
  rfl

/-! The discard at a home. -/

/-- A slot that a task held is free again: F rises (06 Table 2). -/
def freedSlot (p : Pipe) (j : Nat) : Pipe := { p with slots := NMap.erase p.slots j, free := p.free + 1 }
/-- A tile that a task had popped is in its place in the queue again: C rises. -/
def returnedTile (p : Pipe) (j : Nat) : Pipe :=
  { p with filled := p.filled + 1, queue := mapIf (sameTile false j) (fun t => { t with taken := false }) p.queue
           slots := NMap.insert p.slots j { NMap.getD p.slots j {} with state := .filled } }

theorem discardHeld_slot {s : State} {pl n j : Nat} {p : Pipe} (hp : pipeOf s pl n = some p) (home : p.homeHere = true) (here : p.remote = false) :
    OnlyPlans s (discardHeld s (true, pl, n, j)) ∧ pipeOf (discardHeld s (true, pl, n, j)) pl n = some (settled (freedSlot p j)) := by
  have erased : pipeOf (updPipe s pl n (fun p => { p with slots := NMap.erase p.slots j })) pl n = some { p with slots := NMap.erase p.slots j } := by
    rw [pipeOf_updPipe, hp]
    rfl
  have freed : discardHeld s (true, pl, n, j) =
      settlePipe (updPipe (updPipe s pl n (fun p => { p with slots := NMap.erase p.slots j })) pl n (fun p => { p with free := p.free + 1 })) pl n := by
    simp [discardHeld, freePush, hp, home, unreserve, raiseFree, erased, here]
  rw [freed]
  refine ⟨rfl, ?_⟩
  rw [pipeOf_settlePipe, pipeOf_updPipe, erased]
  rfl

theorem discardHeld_tile {s : State} {pl n j : Nat} {p : Pipe} (hp : pipeOf s pl n = some p) :
    OnlyPlans s (discardHeld s (false, pl, n, 2 * j)) ∧ pipeOf (discardHeld s (false, pl, n, 2 * j)) pl n = some (settled (returnedTile p j)) := by
  have returned : discardHeld s (false, pl, n, 2 * j) = settlePipe (updPipe s pl n (fun p => returnedTile p j)) pl n := by
    simp [discardHeld, returnTile, returnedTile]
  rw [returned]
  refine ⟨rfl, ?_⟩
  rw [pipeOf_settlePipe, pipeOf_updPipe, hp]
  rfl

/-! The pipes of a task. -/

theorem heldPipes_nil {sk : Skein} (h : sk.held = []) : heldPipes sk = [] := by rw [heldPipes, h]; rfl
theorem heldPipes_one {sk : Skein} {b : Bool} {pl n j : Nat} (h : sk.held = [(b, pl, n, j)]) : heldPipes sk = [(pl, n)] := by rw [heldPipes, h]; rfl

theorem farPipes_nil {s : State} {core : Nat} {sk : Skein} (h : sk.held = []) : farPipes s core sk = [] := by rw [farPipes, heldPipes_nil h]; rfl
/-- A pipe whose home is on the core's die is told nothing. -/
theorem farPipes_near {s : State} {core : Nat} {sk : Skein} {b : Bool} {pl n j : Nat} {p : Pipe} (h : sk.held = [(b, pl, n, j)]) (hp : pipeOf s pl n = some p)
    (near : dieOf core = p.homeDie) : farPipes s core sk = [] := by
  rw [farPipes, heldPipes_one h]
  simp [hp, farHome, near]

theorem tellHomes_none {s : State} {core slot : Nat} {sk : Skein} (h : farPipes s core sk = []) : tellHomes s core slot sk = s := by rw [tellHomes, h]; rfl
theorem homesTold_none {s : State} {core slot : Nat} {sk : Skein} (h : farPipes s core sk = []) : homesTold s core slot sk = true := by rw [homesTold, h]; rfl

end Sys2Proof.Machine
end

section
/-! PROOFS. The versions of a task reach their lines at its publication (R188, R113, R114). -/

namespace Sys2Proof.Machine

/-! What writing a line leaves. -/

/-- From `s` to `t` no plan changes, no message comes, and of the skein nothing but what its loads in flight will do. -/
structure Spares (core slot : Nat) (s t : State) : Prop where
  plans : t.plans = s.plans
  msgs : ∀ r ∈ t.reqs, ∀ m, r.kind = .msg m → ∃ q ∈ s.reqs, q.kind = .msg m
  skein : ∀ sk, skeinOf s core slot = some sk → ∃ ops, skeinOf t core slot = some { sk with ops := ops }

section
variable {core slot : Nat}

theorem Spares.trans {s t u : State} (h : Spares core slot s t) (h' : Spares core slot t u) : Spares core slot s u where
  plans := h'.plans.trans h.plans
  msgs r hr m kind := by
    obtain ⟨q, hq, kind'⟩ := h'.msgs r hr m kind
    exact h.msgs q hq m kind'
  skein sk hsk := by
    obtain ⟨ops, hops⟩ := h.skein sk hsk
    obtain ⟨ops', hops'⟩ := h'.skein { sk with ops := ops } hops
    exact ⟨ops', hops'⟩

theorem spares_of_cores {s t : State} (plans : t.plans = s.plans) (cores : t.cores = s.cores)
    (msgs : ∀ r ∈ t.reqs, ∀ m, r.kind = .msg m → ∃ q ∈ s.reqs, q.kind = .msg m) : Spares core slot s t where
  plans := plans
  msgs := msgs
  skein sk hsk := ⟨sk.ops, by rw [skeinOf, coreOf, cores]; exact hsk⟩

theorem spares_of_reqs {s t : State} (plans : t.plans = s.plans) (cores : t.cores = s.cores) (reqs : t.reqs = s.reqs) : Spares core slot s t :=
  spares_of_cores plans cores fun r hr _ kind => ⟨r, reqs ▸ hr, kind⟩

theorem Spares.refl (s : State) : Spares core slot s s := spares_of_reqs rfl rfl rfl

theorem spares_foldl {α : Type} (f : State → α → State) (hf : ∀ s a, Spares core slot s (f s a)) (l : List α) : ∀ s, Spares core slot s (l.foldl f s) := by
  induction l with
  | nil => exact Spares.refl
  | cons a r ih => exact fun s => (hf s a).trans (ih (f s a))

/-! Records of the monitor (R411, R412). -/

theorem spares_engineWrite (s : State) (who : ReqOwner) (die port owner : Nat) (pol : CPol) (pa : Nat) (bs : List Byte) :
    Spares core slot s (engineWrite s who die port owner pol pa bs) := by
  unfold engineWrite
  split
  · refine spares_of_cores rfl rfl fun r hr m kind => ?_
    rcases List.mem_append.1 hr with old | new
    · exact ⟨r, old, kind⟩
    · rw [List.mem_singleton.1 new] at kind
      cases kind
  · exact Spares.refl s

theorem spares_settleRecords (k : Nat) : ∀ s, Spares core slot s (settleRecords s k) := by
  induction k with
  | zero => exact Spares.refl
  | succ k ih =>
    intro s
    unfold settleRecords
    split
    · exact Spares.refl s
    · refine Spares.trans ?_ (ih _)
      split <;> exact spares_of_reqs rfl rfl rfl

theorem spares_eventRecord (s : State) (ty cause q seq : Nat) (payload : List Nat) : Spares core slot s (eventRecord s ty cause q seq payload) := by
  simp only [eventRecord, eventUnits, ringRecord, Bool.false_eq_true, if_false]
  split
  · exact Spares.refl s
  · split
    · exact spares_of_reqs rfl rfl rfl
    · refine Spares.trans ?_ (spares_settleRecords _ _)
      refine Spares.trans ?_ (spares_foldl (fun (u : State) (e : Nat × List Byte) => engineWrite u _ _ _ _ _ e.1 e.2) (fun _ _ => spares_engineWrite _ _ _ _ _ _ _ _) _ _)
      exact spares_of_reqs rfl rfl rfl

/-! A slice's write. -/

theorem besidesSlices_sliceTouch (s : State) (line owner : Nat) (pol : CPol) (write : Bool) :
    besidesSlices (sliceTouch s line owner pol write).2 = besidesSlices s := by
  unfold sliceTouch
  dsimp only
  split
  · rfl
  · split
    · split
      · rfl
      · exact besidesSlices_evictWay s _ _
    · rfl

theorem sliceOf_setSlice (s : State) (n k : Nat) (sl : Slice) : sliceOf (setSlice s n sl) k = if k = n then sl else sliceOf s k := by
  rw [sliceOf, setSlice, NMap.getD_insert, sliceOf]

/-! Looking a line up leaves the number of writes that each slice has accepted, and so the next stamp. -/

theorem seq_setSlice {s : State} {n : Nat} {sl : Slice} (same : sl.seq = (sliceOf s n).seq) (m : Nat) : (sliceOf (setSlice s n sl) m).seq = (sliceOf s m).seq := by
  rw [sliceOf_setSlice]
  split
  · rename_i h
    rw [same, h]
  · rfl

theorem seq_evictWay (s : State) (n k m : Nat) : (sliceOf (evictWay s n k) m).seq = (sliceOf s m).seq := by
  have erased := seq_setSlice (s := s) (n := n) (sl := { sliceOf s n with lines := NMap.erase (sliceOf s n).lines k }) rfl m
  unfold evictWay
  dsimp only
  split
  · rfl
  · split
    · split <;> exact erased
    · exact erased

theorem seq_sliceTouch (s : State) (line owner : Nat) (pol : CPol) (write : Bool) (m : Nat) :
    (sliceOf (sliceTouch s line owner pol write).2 m).seq = (sliceOf s m).seq := by
  unfold sliceTouch
  dsimp only
  split
  · exact seq_setSlice (by rfl) m
  · split
    · split
      · rfl
      · exact (seq_setSlice (by rfl) m).trans (seq_evictWay s _ _ m)
    · rfl

theorem spares_sliceTouch (s : State) (line owner : Nat) (pol : CPol) (write : Bool) : Spares core slot s (sliceTouch s line owner pol write).2 := by
  have same := besidesSlices_sliceTouch s line owner pol write
  exact spares_of_reqs (congrArg State.plans same :) (congrArg State.cores same :) (congrArg State.reqs same :)

theorem spares_setSlice (s : State) (n : Nat) (sl : Slice) : Spares core slot s (setSlice s n sl) := spares_of_reqs rfl rfl rfl

theorem spares_rawWrite (s : State) (line : Nat) (mask : LMask) (d : LineData) : Spares core slot s (rawWrite s line mask d) := by
  refine spares_of_cores rfl rfl fun r hr m kind => ?_
  obtain ⟨q, hq, eq⟩ := List.mem_map.1 hr
  refine ⟨q, hq, ?_⟩
  rw [← kind, ← eq]
  split <;> rfl

theorem spares_monitorWrite (s : State) (line n port : Nat) (stamp : DWord) : Spares core slot s (monitorWrite s line n port stamp) := by
  refine spares_foldl _ (fun u j => ?_) _ _
  dsimp only
  split
  · exact spares_eventRecord _ _ _ _ _ _
  · exact Spares.refl u

theorem spares_sliceWrite (s : State) (line : Nat) (mask : LMask) (d : LineData) (port : Nat) : Spares core slot s (sliceWrite s line mask d port).2 := by
  unfold sliceWrite
  dsimp only
  exact (spares_setSlice s _ _).trans ((spares_rawWrite _ _ _ _).trans (spares_monitorWrite _ _ _ _ _))

/-! Loads in flight. -/

/-- The operations of a skein once its loads of a line no longer allocate. -/
def staleOps (line : Option Nat) (ops : NMap Op) : NMap Op :=
  ops.map (fun o => (o.1, match o.2.body with
    | .load parts el sz sg dst => { o.2 with body := .load (mapIf (fun p => decide (line = none) || decide (line = some p.line)) (fun p => { p with dropped := true }) parts) el sz sg dst }
    | _ => o.2))

theorem spares_dropFills (s : State) (line : Option Nat) : Spares core slot s (dropFills s core line) where
  plans := by simp [dropFills, dropFillsIf, staleFills]
  msgs r hr m kind := by
    obtain ⟨q, hq, eq⟩ := List.mem_map.1 hr
    have hq' : q ∈ s.reqs := by simpa [staleFills] using hq
    refine ⟨q, hq', ?_⟩
    rw [← eq] at kind
    split at kind
    · dsimp only at kind
      split at kind
      · cases kind
      · exact kind
    · exact kind
  skein sk hsk := by
    refine ⟨staleOps line sk.ops, ?_⟩
    rw [skeinOf, show coreOf (dropFills s core line) core = coreOf (staleFills s core (fun q => decide (line = none) || decide (line = some q.line))) core from rfl,
      staleFills, coreOf_updCore_self]
    refine (NMap.get?_map (coreOf s core).skeins (fun k => { k with ops := staleOps line k.ops }) slot).trans ?_
    rw [← skeinOf, hsk]
    rfl

theorem spares_updL1 (s : State) (f : NMap L1Line → NMap L1Line) : Spares core slot s (updL1 s core f) where
  plans := by simp [updL1]
  msgs r hr m kind := ⟨r, by simpa [updL1] using hr, kind⟩
  skein sk hsk := ⟨sk.ops, by simpa [skeinOf, updL1] using hsk⟩

/-! The versions. -/

theorem spares_publishLine (s : State) (v : Nat × LMask × LineData) : Spares core slot s (publishLine core s v).2 := by
  unfold publishLine
  dsimp only
  exact (spares_sliceTouch s _ _ _ _).trans ((spares_sliceWrite _ _ _ _ _).trans ((spares_updL1 _ _).trans (spares_dropFills _ _)))

theorem publishLine_mem (s : State) (v : Nat × LMask × LineData) : (publishLine core s v).2.mem = memWriteMask s.mem v.1 v.2.1 v.2.2 := by
  simp only [publishLine, dropFills_mem, updL1_mem, sliceWrite_mem, sliceTouch_mem]

theorem publishLine_stamp (s : State) (v : Nat × LMask × LineData) :
    (publishLine core s v).1 = nextStamp (homeSlice s (128 * v.1)) (sliceOf s (homeSlice s (128 * v.1))).seq := by
  have dev : (sliceTouch s v.1 (partOf s core) .keep true).2.dev = s.dev := (congrArg State.dev (besidesSlices_sliceTouch s v.1 (partOf s core) .keep true) :)
  have home : homeSlice (sliceTouch s v.1 (partOf s core) .keep true).2 (128 * v.1) = homeSlice s (128 * v.1) := by simp only [homeSlice, pickSlice, dev]
  simp only [publishLine, sliceWrite, home, seq_sliceTouch]

/-- The lines of a task are written one after the other; the skein takes the greatest stamp (R232). -/
def publishLines (core : Nat) (a : Option DWord × State) (vs : NMap (LMask × LineData)) : Option DWord × State :=
  vs.foldl (fun a v => (some (a.1.elim (publishLine core a.2 v).1 (fun o => if o.toNat < (publishLine core a.2 v).1.toNat then (publishLine core a.2 v).1 else o)),
    (publishLine core a.2 v).2)) a

theorem publishLines_cons (a : Option DWord × State) (v : Nat × LMask × LineData) (r : NMap (LMask × LineData)) :
    ∃ o, publishLines core a (v :: r) = publishLines core (o, (publishLine core a.2 v).2) r := ⟨_, rfl⟩

theorem spares_publishLines (vs : NMap (LMask × LineData)) : ∀ a : Option DWord × State, Spares core slot a.2 (publishLines core a vs).2 := by
  induction vs with
  | nil => exact fun a => Spares.refl a.2
  | cons v r ih =>
    intro a
    obtain ⟨o, eq⟩ := publishLines_cons (core := core) a v r
    rw [eq]
    exact (spares_publishLine a.2 v).trans (ih (o, (publishLine core a.2 v).2))

theorem publishLines_mem (vs : NMap (LMask × LineData)) : ∀ a : Option DWord × State,
    (publishLines core a vs).2.mem = vs.foldl (fun m v => memWriteMask m v.1 v.2.1 v.2.2) a.2.mem := by
  induction vs with
  | nil => exact fun _ => rfl
  | cons v r ih =>
    intro a
    obtain ⟨o, eq⟩ := publishLines_cons (core := core) a v r
    rw [eq, ih, publishLine_mem, List.foldl_cons]

/-- A byte after the writes of the versions of different lines. -/
theorem memGet_versions (vs : NMap (LMask × LineData)) (addr : Nat) : ∀ m : List Host.Cell, (NMap.keys vs).Nodup →
    memGet (vs.foldl (fun m v => memWriteMask m v.1 v.2.1 v.2.2) m) addr = match NMap.get? vs (addr / 128) with
      | some (k, d) => if k.getLsbD (addr % 128) then lineByte d (addr % 128) else memGet m addr
      | none => memGet m addr := by
  induction vs with
  | nil => exact fun _ _ => rfl
  | cons v r ih =>
    obtain ⟨l, k, d⟩ := v
    intro m distinct
    obtain ⟨fresh, rest⟩ := List.nodup_cons.1 distinct
    rw [List.foldl_cons, ih _ rest, NMap.get?]
    by_cases here : l = addr / 128
    · have none' : NMap.get? r (addr / 128) = none := by
        refine Option.eq_none_iff_forall_ne_some.2 fun e he => fresh ?_
        exact List.mem_map.2 ⟨_, NMap.mem_of_get? he, here.symm⟩
      simp [none', here, memGet_memWriteMask]
    · have other : memGet (memWriteMask m l k d) addr = memGet m addr := by
        rw [memGet_memWriteMask, if_neg fun h => here h.1.symm]
      simp only [other, if_neg here]

end

end Sys2Proof.Machine
end

section
/-! PROOFS. A task that is ready to be published takes its turn at a pipe's home (R135, R188). -/

namespace Sys2Proof.Machine

/-! Entries of a map. -/

theorem NMap.mem_insert {α : Type} {m : NMap α} {n : Nat} {a : α} {e : Nat × α} (h : e ∈ NMap.insert m n a) : e = (n, a) ∨ e ∈ m := by
  induction m with
  | nil => exact .inl (List.mem_singleton.1 h)
  | cons b r ih =>
    rw [NMap.insert] at h
    split at h
    · exact List.mem_cons.1 h
    · split at h
      · exact (List.mem_cons.1 h).imp id (List.mem_cons_of_mem _)
      · rcases List.mem_cons.1 h with eq | old
        · exact .inr (eq ▸ List.mem_cons_self)
        · exact (ih old).imp id (List.mem_cons_of_mem _)

theorem NMap.mem_insert_of_mem {α : Type} {m : NMap α} {n : Nat} {a : α} {e : Nat × α} (h : e ∈ m) : e ∈ NMap.insert m n a ∨ (e.1 = n ∧ NMap.get? m n = some e.2) := by
  induction m with
  | nil => cases h
  | cons b r ih =>
    obtain ⟨k, b⟩ := b
    rw [NMap.insert, NMap.get?]
    split
    · exact .inl (List.mem_cons_of_mem _ h)
    · split
      · rename_i eq
        rcases List.mem_cons.1 h with rfl | old
        · exact .inr ⟨eq.symm, if_pos eq.symm⟩
        · exact .inl (List.mem_cons_of_mem _ old)
      · rename_i ne
        rw [if_neg (Ne.symm ne)]
        rcases List.mem_cons.1 h with rfl | old
        · exact .inl List.mem_cons_self
        · exact (ih old).imp (List.mem_cons_of_mem _) id

theorem NMap.mem_insert_self {α : Type} (m : NMap α) (n : Nat) (a : α) : (n, a) ∈ NMap.insert m n a := NMap.mem_of_get? (NMap.get?_insert_self m n a)

/-- A core that has a skein is there. -/
theorem core_of_skein {s : State} {core slot : Nat} {sk : Skein} (h : skeinOf s core slot = some sk) : NMap.get? s.cores core = some (coreOf s core) := by
  unfold skeinOf coreOf NMap.getD at *
  cases hc : NMap.get? s.cores core with
  | none => rw [hc] at h; cases h
  | some c => rfl

/-! What the turns at a home depend on. -/

/-- The copies in the queues of the cores. -/
def queued (s : State) : List (Nat × Copy) := s.cores.flatMap (fun e => e.2.copyq.map (fun k => (e.1, k)))

/-- Nothing that the turn of an operation at a home depends on differs, but for the tasks that are ready to be published. -/
structure SameTurns (s t : State) : Prop where
  clock : t.clock = s.clock
  plans : t.plans = s.plans
  reqs : t.reqs = s.reqs
  grids : t.grids = s.grids
  skein : ∀ n k, (skeinOf t n k).map (fun sk => (sk.bolt, sk.paths)) = (skeinOf s n k).map (fun sk => (sk.bolt, sk.paths))
  bolt : ∀ n b, boltOf t n b = boltOf s n b
  copies : ∀ e, e ∈ queued t ↔ e ∈ queued s

section
variable {s t : State} (h : SameTurns s t)
include h

theorem SameTurns.bolts (n k : Nat) : (skeinOf t n k).bind (fun sk => boltOf t n sk.bolt) = (skeinOf s n k).bind (fun sk => boltOf s n sk.bolt) := by
  have same := congrArg (fun o : Option (Nat × NMap Path) => o.bind (fun e => boltOf s n e.1)) (h.skein n k)
  simpa only [Option.bind_map, Function.comp_def, ← h.bolt] using same

theorem SameTurns.paths (n k p : Nat) : (skeinOf t n k).bind (fun sk => NMap.get? sk.paths p) = (skeinOf s n k).bind (fun sk => NMap.get? sk.paths p) := by
  have same := congrArg (fun o : Option (Nat × NMap Path) => o.bind (fun e => NMap.get? e.2 p)) (h.skein n k)
  simpa only [Option.bind_map, Function.comp_def] using same

theorem all_queued (P : Nat → Copy → Bool) : t.cores.all (fun e => e.2.copyq.all (P e.1)) = s.cores.all (fun e => e.2.copyq.all (P e.1)) := by
  have flat : ∀ u : State, u.cores.all (fun e => e.2.copyq.all (P e.1)) = (queued u).all (fun e => P e.1 e.2) := fun u => by
    simp only [queued, List.all_flatMap, List.all_map, Function.comp_def]
  rw [flat, flat, Bool.eq_iff_iff, List.all_eq_true, List.all_eq_true]
  exact forall_congr' fun e => by rw [h.copies]

theorem haltTurn_same (core : Nat) (c : Copy) : haltTurn t core c = haltTurn s core c := by
  unfold haltTurn
  dsimp only
  simp only [h.bolts, h.grids, h.plans]
  rw [all_queued h (fun n k => decide (c.op ≤ k.op) || decide (Option.map Bolt.grid ((skeinOf s n k.slot).bind fun sk => boltOf s n sk.bolt) ≠
    Option.map Bolt.grid ((skeinOf s core c.slot).bind fun sk => boltOf s core sk.bolt)))]

theorem copyKey_same (pl n : Nat) (p : Pipe) (core : Nat) (c : Copy) : copyKey t pl n p core c = copyKey s pl n p core c := by
  simp only [copyKey, copyArrival, haltTurn_same h, msgHere, h.reqs]

theorem nextWait_same (k : WaitKind) (l : List PipeWait) : nextWait t k l = nextWait s k l := by
  simp only [nextWait, waitLive, h.paths]

/-- An operation that could be performed now is one that could before, or the publication of a task. -/
theorem homeKeys_same {pl n k : Nat} {p : Pipe} (hk : k ∈ homeKeys t pl n p) : k ∈ homeKeys s pl n p ∨ k ∈ taskKeys t pl n := by
  have copies : ∀ u : State, ∀ k, k ∈ u.cores.flatMap (fun c => c.2.copyq.filterMap (copyKey u pl n p c.1)) ↔ ∃ e ∈ queued u, copyKey u pl n p e.1 e.2 = some k := fun u k => by
    simp only [queued, List.mem_flatMap, List.mem_filterMap, List.mem_map]
    constructor
    · rintro ⟨c, hc, q, hq, key⟩
      exact ⟨(c.1, q), ⟨c, hc, q, hq, rfl⟩, key⟩
    · rintro ⟨_, ⟨c, hc, q, hq, rfl⟩, key⟩
      exact ⟨c, hc, q, hq, key⟩
  have pops : popNext t pl n p = popNext s pl n p := by simp only [popNext, nextWait_same h]
  have pushes : pushNext t pl n p = pushNext s pl n p := by simp only [pushNext, nextWait_same h]
  simp only [homeKeys, List.mem_append, pops, pushes, copies] at hk ⊢
  simp only [copyKey_same h, h.copies] at hk
  rcases hk with ((((spill | task) | copy) | inbox) | pop) | push
  · simp only [spill, true_or]
  · exact .inr task
  · simp only [copy, or_true, true_or]
  · simp only [inbox, or_true, true_or]
  · simp only [pop, or_true, true_or]
  · simp only [push, or_true, true_or]

end

/-! A skein whose task is ready. -/

section
variable {s : State} {core slot : Nat} {sk : Skein} (here : skeinOf s core slot = some sk) (pub : Option Publish)
include here

theorem sameTurns_publish : SameTurns s (setSkein s core slot { sk with publish := pub }) where
  clock := by simp
  plans := by simp
  reqs := by simp
  grids := by simp
  skein n k := by
    by_cases at' : n = core ∧ k = slot
    · rw [at'.1, at'.2, skeinOf_setSkein_self, here]
      rfl
    · rw [skeinOf_setSkein_ne _ _ at']
  bolt n b := by simp
  copies e := by
    have there := NMap.mem_of_get? (core_of_skein here)
    simp only [queued, setSkein, updCore, setCore, List.mem_flatMap]
    constructor
    · rintro ⟨c, hc, he⟩
      rcases NMap.mem_insert hc with rfl | old
      · exact ⟨_, there, he⟩
      · exact ⟨c, old, he⟩
    · rintro ⟨c, hc, he⟩
      rcases NMap.mem_insert_of_mem hc with new | ⟨at', is⟩
      · exact ⟨c, new, he⟩
      · refine ⟨_, NMap.mem_insert_self _ _ _, ?_⟩
        obtain ⟨n, q⟩ := c
        dsimp only at at' is he
        rw [core_of_skein here] at is
        rw [at', ← Option.some.inj is] at he
        exact he

/-- The publications that could be performed are those before, and this one. -/
theorem taskKeys_ready {pl n k at' : Nat} (hk : k ∈ taskKeys (setSkein s core slot { sk with publish := some (.ready at') }) pl n) :
    k ∈ taskKeys s pl n ∨ k = opKey at' 0 (portOf core) := by
  have there := NMap.mem_of_get? (core_of_skein here)
  simp only [taskKeys, setSkein, updCore, setCore, List.mem_flatMap, List.mem_filterMap] at hk ⊢
  obtain ⟨c, hc, e, he, key⟩ := hk
  rcases NMap.mem_insert hc with rfl | old
  · rcases NMap.mem_insert he with rfl | old'
    · dsimp only at key
      split at key
      · exact .inr (Option.some.inj key).symm
      · cases key
    · exact .inl ⟨_, there, e, old', key⟩
  · exact .inl ⟨c, old, e, he, key⟩

/-- The publication of the task is at turn at a home at which nothing goes before it. -/
theorem myTurn_ready {pl n at' : Nat} {p : Pipe} (idle : p.lastOp ≠ some s.clock) (first : ∀ k ∈ homeKeys s pl n p, opKey at' 0 (portOf core) ≤ k) :
    myTurn (setSkein s core slot { sk with publish := some (.ready at') }) pl n p (opKey at' 0 (portOf core)) = true := by
  have same := sameTurns_publish here (some (.ready at'))
  simp only [myTurn, homeTurn, same.clock, decide_eq_true idle, Bool.true_and, List.all_eq_true, decide_eq_true_eq]
  intro k hk
  rcases homeKeys_same same hk with old | new
  · exact first k old
  · rcases taskKeys_ready here new with old | eq
    · exact first k (by simp only [homeKeys, List.mem_append]; tauto)
    · exact eq.ge

end

end Sys2Proof.Machine
end

section
/-! PROOFS. TASK_PUBLICATION and TASK_DISCARD (R188, R189). -/

namespace Sys2Proof.Machine

/-! The homes that a task tells. -/

theorem farPipes_of_plans {s t : State} (plans : t.plans = s.plans) (core : Nat) (sk : Skein) : farPipes t core sk = farPipes s core sk := by
  simp only [farPipes, pipeOf, plans]

/-! The publication, step by step. -/

/-- The task of a skein as it is ready to be published. -/
def readied (s : State) (core slot : Nat) (sk : Skein) : State := setSkein s core slot { sk with publish := some (.ready s.clock) }

/-- A HEM whose release and copies are done, of a task that wrote no window and holds nothing of a home on another die, is ready at once. -/
theorem publication_ready {s : State} {core slot : Nat} {sk : Skein} (here : skeinOf s core slot = some sk) (waits : sk.hemWaiting = true) (first : sk.publish = none)
    (released : ∀ e ∈ sk.ops, ∀ k sc pg, e.2.body ≠ .fence k sc pg) (copied : taskCopies s core slot = false) (main : ∀ v ∈ sk.versions, isMain (128 * v.1) = true)
    (near : farPipes s core sk = []) :
    readyPublish core slot (beginPublish core slot s) = readied s core slot sk := by
  have noWindow : sk.versions.filter (fun v => !isMain (128 * v.1)) = [] := List.filter_eq_nil_iff.2 fun v hv => by simp [main v hv]
  have begun : beginPublish core slot s = setSkein s core slot { sk with publish := some .begun } := by
    unfold beginPublish
    rw [here]
    dsimp only
    split
    · rename_i busy
      simp only [waits, first, copied, Bool.not_true, Option.isSome_none, Bool.or_false, Bool.false_or, List.any_eq_true] at busy
      obtain ⟨e, he, fence⟩ := busy
      split at fence
      · rename_i k sc pg body
        exact absurd body (released e he k sc pg)
      · cases fence
    · rw [noWindow, List.foldl_nil, updSkein_of _ _ here]
      exact tellHomes_none ((farPipes_of_plans (by simp) core sk).trans near)
  have written : ∀ t, windowLeft t core slot { sk with publish := some .begun } = false := fun t => by
    have none' : sk.versions.any (fun v => !isMain (128 * v.1)) = false := List.any_eq_false.2 fun v hv => by simp [main v hv]
    rw [windowLeft, none', Bool.false_and]
  have told : homesTold (setSkein s core slot { sk with publish := some .begun }) core slot { sk with publish := some .begun } = true :=
    homesTold_none ((farPipes_of_plans (by simp) core sk).trans near)
  rw [begun, readyPublish, skeinOf_setSkein_self]
  simp only [ne_eq, not_true_eq_false, written, told, Bool.false_eq_true, Bool.true_eq_false, or_self, if_false, updSkein_setSkein]
  simp [readied]

/-- A task after its publication point, its lines written. -/
def toldTask (r : Option DWord × State) (core slot key : Nat) : State :=
  unpinVersions (updSkein r.2 core slot (fun sk => { closeTask sk with lastStamp := r.1.getD sk.lastStamp, hemWaiting := true, publish := some .told })) key

/-- The publication point of a task whose turn it is at every home. -/
theorem publishTask_eq {u v : State} {core slot at' : Nat} {sk : Skein} (here : skeinOf u core slot = some sk) (ready : sk.publish = some (.ready at'))
    (turn : (heldPipes sk).all (fun e => (pipeOf u e.1 e.2).all (fun p => myTurn u e.1 e.2 p (opKey at' 0 (portOf core)))) = true)
    (near : farPipes u core sk = []) (main : ∀ w ∈ sk.versions, isMain (128 * w.1) = true)
    (homes : (heldPipes sk).foldl (publishPipe sk.held) (forgetTask u core slot) = v) :
    publishTask core slot u = toldTask (publishLines core (none, v) sk.versions) core slot sk.taskKey := by
  have all : sk.versions.filter (fun w => isMain (128 * w.1)) = sk.versions := List.filter_eq_self.2 main
  unfold publishTask
  rw [here]
  dsimp only
  rw [ready]
  dsimp only
  rw [turn, near, all, homes]
  rfl

/-! The state that a publication leaves. -/

/-- What every publication of a task does: the skein's task is closed, its paths go on past the HEM, it takes the stamp of its write, and memory holds
the versions. -/
def TaskClosed (s : State) (core slot : Nat) (sk : Skein) (t : State) : Prop :=
  ∃ sk', skeinOf t core slot = some sk' ∧
    sk' = { sk with taskOpen := false, taskId := 0, versions := [], held := [], hemWaiting := false, publish := none, discarding := false, lastStamp := sk'.lastStamp, ops := sk'.ops
                    paths := sk.paths.map (fun e => (e.1, { advancePath e.2 with wait := none, watchPass := false })) } ∧
    (sk.versions = [] → sk'.lastStamp = sk.lastStamp) ∧
    (∀ l m d, sk.versions = [(l, m, d)] → sk'.lastStamp = nextStamp (homeSlice s (128 * l)) (sliceOf s (homeSlice s (128 * l))).seq) ∧
    ((NMap.keys sk.versions).Nodup → s.dev.monitor = [] → ∀ addr, memGet t.mem addr = match NMap.get? sk.versions (addr / 128) with
      | some (m, d) => if m.getLsbD (addr % 128) then lineByte d (addr % 128) else memGet s.mem addr
      | none => memGet s.mem addr)

/-- The state at a publication point, once the homes have committed: memory, the slices and the device are those before. -/
structure AtPoint (s : State) (core slot : Nat) (sk : Skein) (v : State) : Prop where
  mem : v.mem = s.mem
  dev : v.dev = s.dev
  slices : v.slices = s.slices
  skein : ∃ pub, skeinOf v core slot = some { sk with publish := pub }
  quiet : ∀ r ∈ v.reqs, r.kind ≠ .msg (.taskDone core slot)

/-- The end of a publication that tells no home. -/
theorem endPublish_told {r : Option DWord × State} {core slot : Nat} {sk : Skein} (key : Nat) (here : skeinOf r.2 core slot = some sk)
    (quiet : ∀ q ∈ r.2.reqs, q.kind ≠ .msg (.taskDone core slot)) :
    skeinOf (endPublish core slot (toldTask r core slot key)) core slot = some { closeTask sk with
      lastStamp := r.1.getD sk.lastStamp, paths := sk.paths.map (fun e => (e.1, { advancePath e.2 with wait := none, watchPass := false })) } ∧
    (endPublish core slot (toldTask r core slot key)).plans = r.2.plans ∧ (endPublish core slot (toldTask r core slot key)).mem = r.2.mem := by
  have told : skeinOf (toldTask r core slot key) core slot = some { closeTask sk with lastStamp := r.1.getD sk.lastStamp, hemWaiting := true, publish := some .told } := by
    rw [toldTask, updSkein_of _ _ here]
    exact skeinOf_setSkein_self _ _ _ _
  have answered : (toldTask r core slot key).reqs.any (fun q => decide (q.kind = .msg (.taskDone core slot)) && decide (q.stage ≠ .done)) = false := by
    refine List.any_eq_false.2 fun q hq => ?_
    simp [quiet q (by simpa [toldTask, unpinVersions] using hq)]
  have ended : ∃ f, endPublish core slot (toldTask r core slot key) = setSkein { toldTask r core slot key with reqs := f } core slot { closeTask sk with
      lastStamp := r.1.getD sk.lastStamp, paths := sk.paths.map (fun e => (e.1, { advancePath e.2 with wait := none, watchPass := false })) } := by
    refine ⟨(toldTask r core slot key).reqs.filter (fun r => r.kind ≠ .msg (.taskDone core slot)), ?_⟩
    have told' : skeinOf { toldTask r core slot key with reqs := (toldTask r core slot key).reqs.filter (fun r => r.kind ≠ .msg (.taskDone core slot)) } core slot = _ := told
    unfold endPublish
    rw [told]
    simp only [ne_eq, not_true_eq_false, answered, Bool.false_eq_true, or_self, if_false]
    rw [updSkein_of _ _ told']
    rfl
  obtain ⟨f, eq⟩ := ended
  rw [eq]
  exact ⟨skeinOf_setSkein_self _ _ _ _, by simp [toldTask, unpinVersions], by simp [toldTask]⟩

theorem publication_closes {s v : State} {core slot : Nat} {sk : Skein} (h : AtPoint s core slot sk v) (key : Nat) :
    TaskClosed s core slot sk (endPublish core slot (toldTask (publishLines core (none, v) sk.versions) core slot key)) ∧
    (endPublish core slot (toldTask (publishLines core (none, v) sk.versions) core slot key)).plans = v.plans := by
  obtain ⟨pub, before⟩ := h.skein
  have spares : Spares core slot v (publishLines core (none, v) sk.versions).2 := spares_publishLines sk.versions (none, v)
  obtain ⟨ops, here⟩ := spares.skein _ before
  obtain ⟨skein, plans, mem⟩ := endPublish_told key here fun q hq eq => by
    obtain ⟨q', hq', kind⟩ := spares.msgs q hq _ eq
    exact h.quiet q' hq' kind
  refine ⟨⟨_, skein, rfl, fun none' => ?_, fun l m d one => ?_, fun distinct _ addr => ?_⟩, plans.trans spares.plans⟩
  · dsimp only
    rw [none']
    rfl
  · have stamp := publishLine_stamp (core := core) v (l, m, d)
    have home : homeSlice v (128 * l) = homeSlice s (128 * l) := by simp only [homeSlice, pickSlice, h.dev]
    dsimp only at stamp ⊢
    rw [one]
    refine stamp.trans ?_
    rw [home, sliceOf, h.slices, sliceOf]
  · rw [mem, publishLines_mem, memGet_versions _ _ _ distinct, h.mem]

/-! The publications of O38. -/

/-- What the homes do at a publication point leaves memory, the slices and the device as they are. -/
theorem atPoint_of_onlyPlans {s v : State} {core slot : Nat} {sk : Skein} (quiet : ∀ r ∈ s.reqs, r.kind ≠ .msg (.taskDone core slot))
    (h : OnlyPlans (forgetTask (readied s core slot sk) core slot) v) : AtPoint s core slot sk v := by
  have skein : skeinOf v core slot = some { sk with publish := some (.ready s.clock) } := by
    rw [h]
    exact skeinOf_setSkein_self s core slot _
  constructor
  · rw [h]
    simp [forgetTask, readied]
  · rw [h]
    simp [forgetTask, readied]
  · rw [h]
    simp [forgetTask, readied]
  · exact ⟨_, skein⟩
  · intro r hr
    rw [h] at hr
    exact quiet r (by simpa [readied] using (List.mem_filter.1 hr).1)

/-- A state whose homes have discarded, once the skein's task is closed and its versions are gone. -/
def discarded (v : State) (core slot : Nat) (sk : Skein) : State := unpinVersions (setSkein v core slot (closeTask sk)) sk.taskKey

theorem pipeOf_discarded (v : State) (core slot : Nat) (sk : Skein) (pl n : Nat) : pipeOf (discarded v core slot sk) pl n = pipeOf v pl n := by simp [pipeOf, discarded, unpinVersions]

section
variable {s : State} {core slot : Nat} {sk : Skein} (here : skeinOf s core slot = some sk) (copied : taskCopies s core slot = false) (first : sk.publish = none)
include here copied first

section
variable (waits : sk.hemWaiting = true) (released : ∀ e ∈ sk.ops, ∀ k sc pg, e.2.body ≠ .fence k sc pg) (main : ∀ v ∈ sk.versions, isMain (128 * v.1) = true)
  (quiet : ∀ r ∈ s.reqs, r.kind ≠ .msg (.taskDone core slot))
include waits released main quiet

/-- A publication whose turn it is at every home, each of which changes plans alone. -/
theorem taskPublication_closes {v : State} (near : farPipes s core sk = [])
    (turn : (heldPipes sk).all (fun e => (pipeOf (readied s core slot sk) e.1 e.2).all
      (fun p => myTurn (readied s core slot sk) e.1 e.2 p (opKey s.clock 0 (portOf core)))) = true)
    (homes : (heldPipes sk).foldl (publishPipe sk.held) (forgetTask (readied s core slot sk) core slot) = v)
    (plans : OnlyPlans (forgetTask (readied s core slot sk) core slot) v) :
    ∃ t, exec (.taskPublication core slot) s = .next t ∧ TaskClosed s core slot sk t ∧ t.plans = v.plans := by
  have ready := publication_ready here waits first released copied main near
  have point : publishTask core slot (readied s core slot sk) = toldTask (publishLines core (none, v) sk.versions) core slot sk.taskKey := publishTask_eq (at' := s.clock)
    (sk := { sk with publish := some (.ready s.clock) }) (skeinOf_setSkein_self s core slot _) rfl turn ((farPipes_of_plans (by simp [readied]) core sk).trans near) main homes
  obtain ⟨closed, plans'⟩ := publication_closes (atPoint_of_onlyPlans quiet plans) sk.taskKey
  refine ⟨_, ?_, closed, plans'⟩
  rw [show exec (.taskPublication core slot) s = .next (endPublish core slot (publishTask core slot (readyPublish core slot (beginPublish core slot s)))) from rfl, ready, point]

theorem taskPublication_free (free : sk.held = []) : ∃ t, exec (.taskPublication core slot) s = .next t ∧ TaskClosed s core slot sk t := by
  obtain ⟨t, run, closed, -⟩ := taskPublication_closes (v := forgetTask (readied s core slot sk) core slot) here copied first waits released main quiet (farPipes_nil free) (by rw [heldPipes_nil free]; rfl)
    (by rw [heldPipes_nil free]; rfl) rfl
  exact ⟨t, run, closed⟩

theorem taskPublication_slot {pl n j : Nat} {p : Pipe} (held : sk.held = [(true, pl, n, j)]) (hp : pipeOf s pl n = some p) (home : p.homeHere = true)
    (near : dieOf core = p.homeDie) (idle : p.lastOp ≠ some s.clock) (next : ∀ k ∈ homeKeys s pl n p, opKey s.clock 0 (portOf core) ≤ k) :
    ∃ t, exec (.taskPublication core slot) s = .next t ∧ TaskClosed s core slot sk t ∧ pipeOf t pl n = some { settled (commitSlot p j) with lastOp := some s.clock } := by
  have turn : myTurn (readied s core slot sk) pl n p (opKey s.clock 0 (portOf core)) = true := myTurn_ready here idle next
  have there : pipeOf (readied s core slot sk) pl n = some p := by
    rw [← hp]
    simp [pipeOf, readied]
  obtain ⟨plans, slot'⟩ := publishPipe_slot (s := forgetTask (readied s core slot sk) core slot) (j := j) there home
  obtain ⟨t, run, closed, plans'⟩ := taskPublication_closes here copied first waits released main quiet (farPipes_near held hp near)
    (by rw [heldPipes_one held]; simpa [there] using turn) (by rw [heldPipes_one held, held]; rfl) plans
  refine ⟨t, run, closed, ?_⟩
  rw [pipeOf, plans', ← pipeOf, slot']
  simp [forgetTask, readied]

end

/-! The discards of O38. -/

/-- What every discard of a task does: the skein's task is closed, and memory and the other cores stay. -/
def TaskDropped (s : State) (core slot : Nat) (sk : Skein) (t : State) : Prop :=
  t.mem = s.mem ∧ (∀ n, n ≠ core → coreOf t n = coreOf s n) ∧
    skeinOf t core slot = some { sk with taskOpen := false, taskId := 0, versions := [], held := [], hemWaiting := false, discarding := false }

variable (open' : sk.taskOpen = true) (discards : sk.discarding = true)
include open' discards

/-- A discard whose turn it is at every home, each of which changes plans alone. -/
theorem taskDiscard_drops {v : State} (near : farPipes s core sk = []) (turn : (heldPipes sk).all (fun e => (pipeOf s e.1 e.2).all (homeTurn s)) = true)
    (homes : (heldPipes sk).foldl (fun s e => stampHome s e.1 e.2) (sk.held.foldl discardHeld (forgetTask s core slot)) = v) (plans : OnlyPlans (forgetTask s core slot) v) :
    exec (.taskDiscard core slot) s = .next (discarded v core slot sk) ∧
    TaskDropped s core slot sk (discarded v core slot sk) := by
  have cores : v.cores = s.cores := by rw [plans]; rfl
  have here' : skeinOf v core slot = some sk := by rw [skeinOf, coreOf, cores]; exact here
  refine ⟨?_, ?_, fun n ne => ?_, ?_⟩
  · rw [show exec (.taskDiscard core slot) s = execTaskDiscard core slot s from rfl, execTaskDiscard, event, here]
    simp only [open', discards, copied, first, tellHomes_none near, homesTold_none near, turn, Bool.not_true, Bool.true_or, Option.isSome_none, Bool.or_self,
      Bool.false_eq_true, if_false]
    rw [discardTask, homes, updSkein_of _ _ here', discarded]
  · rw [discarded, unpinVersions_mem, setSkein_mem, plans]
    rfl
  · rw [show coreOf (discarded v core slot sk) n = coreOf (setSkein v core slot (closeTask sk)) n from rfl, coreOf_setSkein, if_neg ne,
      coreOf, cores, coreOf]
  · refine (skeinOf_setSkein_self v core slot (closeTask sk)).trans (congrArg some ?_)
    rw [closeTask, ← first]

theorem taskDiscard_free (free : sk.held = []) : ∃ t, exec (.taskDiscard core slot) s = .next t ∧ TaskDropped s core slot sk t ∧
    t = { s with cores := t.cores, slices := t.slices, reqs := s.reqs.filter (fun r => r.kind ≠ .msg (.task core slot)) } := by
  obtain ⟨run, dropped⟩ := taskDiscard_drops (v := forgetTask s core slot) here copied first open' discards (farPipes_nil free) (by rw [heldPipes_nil free]; rfl)
    (by rw [heldPipes_nil free, free]; rfl) rfl
  exact ⟨_, run, dropped, rfl⟩

/-- A discard of a task that holds one thing of a pipe of its die: the home is at turn, and the pipe is as the discard leaves it. -/
theorem taskDiscard_one {b : Bool} {pl n j : Nat} {p q : Pipe} (held : sk.held = [(b, pl, n, j)]) (hp : pipeOf s pl n = some p) (near : dieOf core = p.homeDie)
    (idle : p.lastOp ≠ some s.clock)
    (back : OnlyPlans (forgetTask s core slot) (discardHeld (forgetTask s core slot) (b, pl, n, j)) ∧ pipeOf (discardHeld (forgetTask s core slot) (b, pl, n, j)) pl n = some q) :
    ∃ t, exec (.taskDiscard core slot) s = .next t ∧ TaskDropped s core slot sk t ∧ pipeOf t pl n = some { q with lastOp := some s.clock } := by
  obtain ⟨plans, pipe⟩ := back
  have clock : (discardHeld (forgetTask s core slot) (b, pl, n, j)).clock = s.clock := by rw [plans]; rfl
  obtain ⟨run, dropped⟩ := taskDiscard_drops (v := stampHome (discardHeld (forgetTask s core slot) (b, pl, n, j)) pl n) here copied first open' discards (farPipes_near held hp near)
    (by rw [heldPipes_one held]; simp [hp, homeTurn, idle]) (by rw [heldPipes_one held, held]; rfl) (onlyPlans_trans plans rfl)
  refine ⟨_, run, dropped, ?_⟩
  rw [pipeOf_discarded, pipeOf_stampHome, pipe, clock]
  rfl

end

/-- Settles O38, by what each home does for the task, the writes of its versions, and what its skein is left with. -/
theorem tasks : Obligations.Tasks := by
  unfold Obligations.Tasks
  refine ⟨fun c s x => ?_, fun core slot s sk here copied => ?_⟩
  · intro y n ready
    refine ⟨fun shut => baste_opens ready shut n rfl, baste_traps ready, hem_traps ready, fun open' first free flag => ?_⟩
    intro far crosses begun
    have remote : holdsRemote s x.core x.slot x.sk = true ↔ crosses := by simpa only [crossing_iff] using holdsRemote_iff s x.core x.slot x.sk
    exact ⟨fun h => hem_begins ready open' first free flag .pod (if_pos (remote.2 h)), fun h => hem_begins ready open' first free flag .dev (if_neg (mt remote.1 h))⟩
  · intro near
    refine ⟨fun waits first released main quiet => ⟨?_, ?_⟩, fun open' discards first => ⟨?_, ?_, ?_⟩⟩
    · exact taskPublication_free here copied first waits released main quiet
    · rintro pl n j p held ⟨hp, home, die, idle⟩ next
      obtain ⟨t, run, closed, pipe⟩ := taskPublication_slot here copied first waits released main quiet held hp home die idle next
      refine ⟨t, _, run, closed, pipe, ?_⟩
      rw [settled_eq]
      exact ⟨rfl, rfl, by simp [commitSlot], by simp [commitSlot], _, rfl, rfl, rfl, rfl⟩
    · exact taskDiscard_free here copied first open' discards
    · rintro pl n j p held ⟨hp, home, die, idle⟩ local'
      obtain ⟨t, run, dropped, pipe⟩ := taskDiscard_one here copied first open' discards held hp die idle (discardHeld_slot (s := forgetTask s core slot) hp home local')
      refine ⟨t, _, run, dropped, pipe, ?_⟩
      rw [settled_eq]
      exact ⟨rfl, rfl, NMap.get?_erase_self _ _, rfl⟩
    · rintro pl n j p held ⟨hp, home, die, idle⟩
      obtain ⟨t, run, dropped, pipe⟩ := taskDiscard_one here copied first open' discards held hp die idle (discardHeld_tile (s := forgetTask s core slot) hp)
      refine ⟨t, _, run, dropped, pipe, ?_⟩
      rw [settled_eq]
      refine ⟨rfl, rfl, by simp [returnedTile], List.map_congr_left fun e _ => ?_⟩
      simp [sameTile]

end Sys2Proof.Machine
end

section
/-! PROOFS. GROW and SHRINK (O27). -/

namespace Sys2Proof

theorem NMap.get?_filter_key {α : Type} (p : Nat → Bool) (m : NMap α) (k : Nat) :
    NMap.get? (m.filter (fun e => p e.1)) k = if p k then NMap.get? m k else none := by
  induction m with
  | nil => simp [NMap.get?]
  | cons e r ih =>
    obtain ⟨n, a⟩ := e
    by_cases here : n = k
    · subst here
      cases hp : p n
      · simpa [hp] using ih
      · simp [hp, NMap.get?]
    · cases hp : p n <;> simp [hp, NMap.get?, here, ih]

namespace Machine

/-! Registers kept, and registers released. -/

/-- Of the vector registers kept by their number the others read zero. -/
theorem vget_filter (p : Nat → Bool) {sk kept : Skein} (h : kept.vregs = sk.vregs.filter (fun e => p e.1)) (key : Nat) :
    vget kept key = if p key then vget sk key else [] := by
  rw [vget, h, NMap.getD, NMap.get?_filter_key]
  split <;> rfl

/-- The skein once a path of it has another window. -/
def withWin (sk : Skein) (path : Nat) (w : Win) : Skein := updPathSk sk path (fun pa => { pa with win := w })

theorem vget_withWin_zeroAbove (sk : Skein) (path key : Nat) (w : Win) :
    vget (withWin (zeroAbove sk) path w) key = if key < 16 + topOf sk then vget sk key else [] := by
  simpa using vget_filter (fun k => decide (k < 16 + topOf sk)) (kept := withWin (zeroAbove sk) path w) (sk := sk) rfl key

theorem vget_releaseAbove (sk : Skein) (key : Nat) : vget (releaseAbove sk) key = if key < 16 + topOf (releaseAbove sk) then vget sk key else [] := by
  simpa using vget_filter (fun k => decide (k < 16 + topOf (releaseAbove sk))) (kept := releaseAbove sk) (sk := sk) rfl key

/-! A register request that need not wait (R203). -/

/-- The same state, or one with a core written back as it is. -/
def CoreKept (s : State) (core : Nat) (u : State) : Prop := u = s ∨ u = setCore s core (coreOf s core)

theorem updSkein_coreKept {s u : State} {core slot : Nat} {sk : Skein} (kept : CoreKept s core u) (here : skeinOf s core slot = some sk) (f : Skein → Skein) :
    updSkein u core slot f = setSkein s core slot (f sk) := by
  rcases kept with rfl | rfl
  · exact updSkein_of _ f here
  · have there : skeinOf (setCore s core (coreOf s core)) core slot = some sk := by simpa [skeinOf] using here
    rw [updSkein_of _ f there]
    simp [setSkein, updCore]

/-- The skein reaches up to the top already and its path asks for nothing, or no request waits and the free granules cover it. -/
def TopAtOnce (s : State) (x : Ctx) (top : Nat) : Prop :=
  (top ≤ topOf x.sk ∧ ∀ r ∈ (coreOf s x.core).regReqs, r.slot ≠ x.slot ∨ r.path ≠ x.path) ∨
  ((coreOf s x.core).regReqs = [] ∧ (top - topOf x.sk) / 8 ≤ freeGranules (coreOf s x.core))

theorem grantable_of_no_requests {c : Core} (h : c.regReqs = []) : grantable c = freeGranules c := by
  simp [grantable, promised, h]

theorem requestTop_at_once {s : State} {x : Ctx} {top : Nat} (h : TopAtOnce s x top) : ∃ u, requestTop x top s = (true, u) ∧ CoreKept s x.core u := by
  by_cases low : top ≤ topOf x.sk
  · have idle : (coreOf s x.core).regReqs.any (fun r => decide (r.slot = x.slot) && decide (r.path = x.path)) = false := by
      rcases h with ⟨-, others⟩ | ⟨empty, -⟩
      · simpa [imp_iff_not_or] using others
      · simp [empty]
    exact ⟨s, by simp [requestTop, low, idle], .inl rfl⟩
  · obtain ⟨empty, cover⟩ := h.resolve_left fun reached => low reached.1
    have same : { coreOf s x.core with regReqs := [] } = coreOf s x.core := by rw [← empty]
    exact ⟨_, by simp [requestTop, low, empty, same, grantable_of_no_requests empty, cover], .inr rfl⟩

/-! The two instructions. -/

section
variable {c : Ctl} {n : Word} {s : State} {x : Ctx} (ready : Ready { guard := .coll } {} c x s)
include ready

theorem grow_trap_size (h : n.toNat % 8 ≠ 0 ∨ 240 < x.pa.win.size + n.toNat) : exec (.grow c n) s = .next (trapX (activeCtx x c) { code := 0x03 } s) := by
  rw [show exec (.grow c n) s = execGrow c n s from rfl, execGrow, issue_ready ready rfl]
  exact congrArg Host.Outcome.next (if_pos h)

theorem grow_trap_stack (whole : n.toNat % 8 = 0) (fits : x.pa.win.size + n.toNat ≤ 240)
    (h : 8 * (x.launch s).backing < max (topOf x.sk) (x.pa.win.base + x.pa.win.size + n.toNat)) :
    exec (.grow c n) s = .next (trapX (activeCtx x c) { code := 0x06 } s) := by
  rw [show exec (.grow c n) s = execGrow c n s from rfl, execGrow, issue_ready ready rfl]
  exact congrArg Host.Outcome.next ((if_neg (by simp [activeCtx, whole, fits])).trans (if_pos h))

theorem grow_grows (whole : n.toNat % 8 = 0) (fits : x.pa.win.size + n.toNat ≤ 240)
    (room : max (topOf x.sk) (x.pa.win.base + x.pa.win.size + n.toNat) ≤ 8 * (x.launch s).backing)
    (free : TopAtOnce s x (max (topOf x.sk) (x.pa.win.base + x.pa.win.size + n.toNat))) :
    exec (.grow c n) s = .next (retire (activeCtx x c) (setSkein s x.core x.slot
      (withWin (zeroAbove x.sk) x.path ⟨x.pa.win.base, x.pa.win.size + n.toNat⟩))) := by
  obtain ⟨u, granted, kept⟩ := requestTop_at_once (x := activeCtx x c) free
  rw [show exec (.grow c n) s = execGrow c n s from rfl, execGrow, issue_ready ready rfl]
  refine congrArg Host.Outcome.next ((if_neg (by simp [activeCtx, whole, fits])).trans ((if_neg (Nat.not_lt.2 room)).trans ?_))
  simp only [activeCtx] at granted ⊢
  rw [granted]
  exact congrArg (retire (activeCtx x c)) (updSkein_coreKept (core := x.core) (slot := x.slot) kept (ctxOf_skein ready.1) _)

theorem shrink_trap (h : n.toNat % 8 ≠ 0 ∨ x.pa.win.size < 8 + n.toNat) : exec (.shrink c n) s = .next (trapX (activeCtx x c) { code := 0x03 } s) := by
  rw [show exec (.shrink c n) s = execShrink c n s from rfl, execShrink, issue_ready ready rfl]
  exact congrArg Host.Outcome.next (if_pos h)

theorem shrink_shrinks (whole : n.toNat % 8 = 0) (fits : 8 + n.toNat ≤ x.pa.win.size)
    (idle : ∀ key, .v key ∈ pendRegs x.sk → ¬(16 + x.pa.win.base + x.pa.win.size ≤ key + n.toNat ∧ key < 16 + x.pa.win.base + x.pa.win.size)) :
    exec (.shrink c n) s = .next (retire (activeCtx x c) (setSkein s x.core x.slot
      (releaseAbove (withWin x.sk x.path ⟨x.pa.win.base, x.pa.win.size - n.toNat⟩)))) := by
  rw [show exec (.shrink c n) s = execShrink c n s from rfl, execShrink, issue_ready ready rfl]
  refine congrArg Host.Outcome.next ((if_neg (by simp [activeCtx, whole, fits])).trans ((if_neg ?_).trans ?_))
  · intro busy
    obtain ⟨r, mem, hit⟩ := List.any_eq_true.1 busy
    cases r with
    | v key => exact idle key mem ((Bool.and_eq_true_iff.1 hit).imp of_decide_eq_true of_decide_eq_true)
    | k _ => cases hit
    | p _ => cases hit
  · exact congrArg (retire (activeCtx x c)) (onSkein_ready ready _)

end

/-- Settles O27: each size and each top takes its branch at issue; a register that is kept is one below the top. -/
theorem growAndShrink : Obligations.GrowAndShrink := by
  unfold Obligations.GrowAndShrink
  intro c n s x y w k top cap ready
  refine ⟨grow_trap_size ready, grow_trap_stack ready, fun whole fits room free => ?_, shrink_trap ready, fun whole fits idle => ?_⟩
  · exact ⟨_, grow_grows ready whole fits room free, rfl, fun key => vget_withWin_zeroAbove x.sk x.path key _⟩
  · exact ⟨_, shrink_shrinks ready whole fits idle, rfl, fun key => vget_releaseAbove _ key⟩

end Machine
end Sys2Proof
end

section
/-! PROOFS. What the reads and writes of an agent leave of the cores: all but their translation caches (for O48). -/

namespace Sys2Proof.Machine

/-- Each core but for its translation cache. -/
def besidesTlb (s : State) (n : Nat) : Core := { coreOf s n with tlb := [] }

theorem besidesTlb_of_cores {s t : State} (h : t.cores = s.cores) : besidesTlb t = besidesTlb s := by
  funext n
  simp only [besidesTlb, coreOf, h]

theorem skeinOf_of_besidesTlb {s t : State} (h : besidesTlb t = besidesTlb s) (core slot : Nat) : skeinOf t core slot = skeinOf s core slot :=
  (congrArg (fun c : Core => NMap.get? c.skeins slot) (congrFun h core) :)
theorem regReqs_of_besidesTlb {s t : State} (h : besidesTlb t = besidesTlb s) (core : Nat) : (coreOf t core).regReqs = (coreOf s core).regReqs :=
  (congrArg Core.regReqs (congrFun h core) :)
theorem regFill_of_besidesTlb {s t : State} (h : besidesTlb t = besidesTlb s) (core : Nat) : (coreOf t core).regFill = (coreOf s core).regFill :=
  (congrArg Core.regFill (congrFun h core) :)

theorem besidesTlb_tlbFill (s : State) (core : Option Nat) (die : Nat) (e : TlbEntry) : besidesTlb (tlbFill s core die e) = besidesTlb s := by
  cases core with
  | none => exact besidesTlb_of_cores rfl
  | some c =>
    funext n
    simp only [tlbFill, besidesTlb, coreOf, NMap.getD, get?_nupdate]
    split
    · cases NMap.get? s.cores n <;> rfl
    · rfl
theorem besidesTlb_tlbUse (s : State) (core : Option Nat) (die ctx va : Nat) : besidesTlb (tlbUse s core die ctx va) = besidesTlb s := by
  unfold tlbUse
  split
  · rfl
  · split
    · rfl
    · split
      · exact besidesTlb_tlbFill _ _ _ _
      · rfl
theorem besidesTlb_translate (s : State) (a : Agent) (core : Option Nat) (die owner ctx va : Nat) (kind : WalkKind) :
    besidesTlb (translate s a core die owner ctx va kind).2 = besidesTlb s := by
  unfold translate
  split
  · exact besidesTlb_tlbUse _ _ _ _ _
  · refine besidesTlb_of_cores ?_
    unfold postWalk
    dsimp only
    split <;> rfl
theorem besidesTlb_access (s : State) (a : Agent) (core : Option Nat) (die owner ctx va : Nat) (kind : WalkKind) (u : Use) :
    besidesTlb (access s a core die owner ctx va kind u).2 = besidesTlb s := by
  have t := besidesTlb_translate s a core die owner ctx (va57 va) kind
  unfold access
  split
  · rfl
  · split <;> rename_i h <;> rw [h] at t <;> exact t
theorem besidesTlb_virtMap (a : Agent) (core : Option Nat) (die owner ctx : Nat) (kind : WalkKind) (k : Nat) : ∀ (s : State) (va n : Nat),
    besidesTlb (virtMap s a core die owner ctx va n kind k).2 = besidesTlb s := by
  induction k with
  | zero => exact fun _ _ _ => rfl
  | succ k ih =>
    intro s va n
    unfold virtMap
    split
    · rfl
    · exact (ih _ _ _).trans (besidesTlb_access s a core die owner ctx va kind .other)

theorem lineGet_cores (s : State) (a : Agent) (pa die port owner : Nat) (pol : CPol) : (lineGet s a pa die port owner pol).2.cores = s.cores := by
  unfold lineGet
  repeat' split
  all_goals rfl
theorem readLines_cores (a : Agent) (die port owner : Nat) (l : List VLine) : ∀ s : State, (readLines s a die port owner l).2.cores = s.cores := by
  induction l with
  | nil => exact fun _ => rfl
  | cons v l ih =>
    intro s
    unfold readLines
    split
    · exact ih s
    · exact (ih _).trans (lineGet_cores s a _ die port owner .keep)
theorem writeLines_cores (a : Agent) (die port owner : Nat) (l : List VLine) : ∀ (s : State) (bs : List Byte), (writeLines s a die port owner l bs).cores = s.cores := by
  induction l with
  | nil => exact fun _ _ => rfl
  | cons v l ih =>
    intro s bs
    refine (ih _ _).trans ?_
    cases v.res with
    | ok x => simp only [engineWrite]; split <;> rfl
    | error _ => rfl

theorem besidesTlb_virtRead (s : State) (a : Agent) (core : Option Nat) (die owner ctx va n fuel : Nat) :
    besidesTlb (virtRead s a core die owner ctx va n fuel).2 = besidesTlb s := by
  have peek : besidesTlb (virtPeek s a core die owner ctx va n fuel).2 = besidesTlb s := by
    have map := besidesTlb_virtMap a core die owner ctx .read fuel s va n
    unfold virtPeek
    split <;> rename_i h <;> rw [h] at map
    · exact map
    · exact (besidesTlb_of_cores (readLines_cores _ _ _ _ _ _)).trans map
  unfold virtRead
  split <;> rename_i h <;> rw [h] at peek <;> exact peek
theorem besidesTlb_virtWrite (s : State) (a : Agent) (core : Option Nat) (die owner ctx va : Nat) (bs : List Byte) (fuel : Nat) :
    besidesTlb (virtWrite s a core die owner ctx va bs fuel).2 = besidesTlb s := by
  have map := besidesTlb_virtMap a core die owner ctx .write fuel s va bs.length
  unfold virtWrite
  split <;> rename_i h <;> rw [h] at map
  · exact map
  · exact (besidesTlb_of_cores (writeLines_cores _ _ _ _ _ _ _)).trans map

end Sys2Proof.Machine
end

section
/-! PROOFS. Windows and granules of a skein (R204, R206), and what a round over the skeins of a core does at one slot (for O48). -/

namespace Sys2Proof

theorem NMap.get?_of_mem_nodup {α : Type} {m : NMap α} (nodup : (NMap.keys m).Nodup) {n : Nat} {a : α} (h : (n, a) ∈ m) : NMap.get? m n = some a := by
  induction m with
  | nil => cases h
  | cons e r ih =>
    obtain ⟨new, rest⟩ := List.nodup_cons.1 nodup
    rcases List.mem_cons.1 h with rfl | later
    · exact if_pos rfl
    · have ne : e.1 ≠ n := fun eq => new (eq ▸ List.mem_map.2 ⟨_, later, rfl⟩)
      exact (if_neg ne).trans (ih rest later)

namespace Machine

/-! The lowest window. -/

theorem activeWins_subset_liveWins {sk : Skein} {w : Win} (h : w ∈ activeWins sk) : w ∈ liveWins sk := by
  cases hf : sk.frame with
  | none =>
    simp only [activeWins, hf, List.append_nil] at h
    simp only [liveWins, hf, List.append_nil]
    exact List.mem_append_left _ h
  | some f =>
    simp only [activeWins, hf, List.mem_append] at h
    simp only [liveWins, hf, List.mem_append]
    tauto

theorem base_le_topOf {sk : Skein} {w : Win} (h : w ∈ activeWins sk) : w.base ≤ topOf sk := by
  have upper := (foldl_max_spec ((liveWins sk).map (fun w => w.base + w.size))).1 _ (List.mem_map.2 ⟨w, activeWins_subset_liveWins h, rfl⟩)
  rw [List.foldl_map] at upper
  exact (Nat.le_add_right _ _).trans upper

/-- `low` is the lowest position of the windows that hold lanes; the top of a skein that has none. -/
def IsLowest (sk : Skein) (low : Nat) : Prop :=
  (∀ w ∈ activeWins sk, low ≤ w.base) ∧ ((activeWins sk = [] ∧ low = topOf sk) ∨ ∃ w ∈ activeWins sk, w.base = low)

theorem isLowest_lowWindow (sk : Skein) : IsLowest sk (lowWindow sk) := by
  have fold : ((topOf sk :: (activeWins sk).map Win.base)).min? = some (lowWindow sk) := by
    rw [List.min?_cons', List.foldl_map]
    rfl
  obtain ⟨attained, lower⟩ := List.min?_eq_some_iff.1 fold
  have bases : ∀ w ∈ activeWins sk, lowWindow sk ≤ w.base := fun w hw => lower _ (.tail _ (List.mem_map.2 ⟨w, hw, rfl⟩))
  refine ⟨bases, ?_⟩
  rcases List.mem_cons.1 attained with top | base
  · cases wins : activeWins sk with
    | nil => exact .inl ⟨rfl, top⟩
    | cons w r =>
      have hw : w ∈ activeWins sk := wins ▸ .head _
      exact .inr ⟨w, .head _, (top ▸ base_le_topOf hw).antisymm (bases w hw)⟩
  · exact .inr (List.mem_map.1 base)

theorem IsLowest.eq_lowWindow {sk : Skein} {low : Nat} (h : IsLowest sk low) : low = lowWindow sk := by
  obtain ⟨lower, attained⟩ := h
  obtain ⟨lower', attained'⟩ := isLowest_lowWindow sk
  rcases attained with ⟨none', top⟩ | ⟨w, hw, rfl⟩
  · rcases attained' with ⟨-, top'⟩ | ⟨v, hv, -⟩
    · exact top.trans top'.symm
    · simp [none'] at hv
  · rcases attained' with ⟨none', -⟩ | ⟨v, hv, eq⟩
    · simp [none'] at hw
    · exact (eq ▸ lower v hv).antisymm (lower' w hw)

/-- The resident granules of the windows are those from the lowest window upward. -/
theorem inWindows_eq (sk : Skein) :
    inWindows sk = (List.range (topOf sk / 8)).filter (fun g => decide (g ∉ sk.spilled) && decide (lowWindow sk / 8 ≤ g)) := by
  unfold inWindows
  refine List.filter_congr fun g _ => ?_
  by_cases spilled : g ∈ sk.spilled <;> simp [belowWindows, spilled]

/-! What changes in one core alone. -/

/-- From `s` to `t` one core changes, and nothing else of the machine. -/
def OnlyCore (core : Nat) (s t : State) : Prop := t = { s with cores := t.cores } ∧ ∀ n, n ≠ core → coreOf t n = coreOf s n

theorem OnlyCore.refl (core : Nat) (s : State) : OnlyCore core s s := ⟨rfl, fun _ _ => rfl⟩
theorem OnlyCore.trans {core : Nat} {s t u : State} (h : OnlyCore core s t) (h' : OnlyCore core t u) : OnlyCore core s u := by
  refine ⟨?_, fun n ne => (h'.2 n ne).trans (h.2 n ne)⟩
  rw [h'.1, h.1]
theorem OnlyCore.foldl {core : Nat} {α : Type} {f : State → α → State} (turn : ∀ s a, OnlyCore core s (f s a)) (l : List α) : ∀ s, OnlyCore core s (l.foldl f s) := by
  induction l with
  | nil => exact .refl core
  | cons a r ih => exact fun s => (turn s a).trans (ih _)
theorem onlyCore_setCore (core : Nat) (s : State) (c : Core) : OnlyCore core s (setCore s core c) :=
  ⟨rfl, fun n ne => (coreOf_setCore s core n c).trans (if_neg ne)⟩
theorem onlyCore_updSkein (core slot : Nat) (s : State) (f : Skein → Skein) : OnlyCore core s (updSkein s core slot f) := by
  unfold updSkein
  split
  · exact onlyCore_setCore core s _
  · exact .refl core s

/-- A core but for its skeins. -/
def besidesSkeins (c : Core) : Core := { c with skeins := [] }

theorem besidesSkeins_updSkein (s : State) (core slot : Nat) (f : Skein → Skein) :
    besidesSkeins (coreOf (updSkein s core slot f) core) = besidesSkeins (coreOf s core) := by
  unfold updSkein
  split
  · rw [coreOf_setSkein, if_pos rfl]
    rfl
  · rfl
theorem regReqs_updSkein (s : State) (core slot : Nat) (f : Skein → Skein) : (coreOf (updSkein s core slot f) core).regReqs = (coreOf s core).regReqs :=
  (congrArg Core.regReqs (besidesSkeins_updSkein s core slot f) :)
theorem spillQ_updSkein (s : State) (core slot : Nat) (f : Skein → Skein) : (coreOf (updSkein s core slot f) core).spillQ = (coreOf s core).spillQ :=
  (congrArg Core.spillQ (besidesSkeins_updSkein s core slot f) :)
theorem skeinOf_updSkein_ne (s : State) (core : Nat) {slot k : Nat} (f : Skein → Skein) (ne : k ≠ slot) : skeinOf (updSkein s core slot f) core k = skeinOf s core k := by
  unfold updSkein
  split
  · exact skeinOf_setSkein_ne s _ fun eq => ne eq.2
  · rfl
/-- A change to a core that leaves its skeins. -/
theorem skeinOf_updCore (s : State) {core : Nat} {f : Core → Core} (keeps : (f (coreOf s core)).skeins = (coreOf s core).skeins) (k : Nat) :
    skeinOf (updCore s core f) core k = skeinOf s core k := by
  rw [skeinOf, coreOf_updCore_self, keeps, skeinOf]

/-! A round over the skeins. -/

theorem foldl_keeps_mem {α β : Type} (g : State → β) (f : State → α → State) {l : List α} (turn : ∀ a ∈ l, ∀ s, g (f s a) = g s) : ∀ s, g (l.foldl f s) = g s := by
  induction l with
  | nil => exact fun _ => rfl
  | cons a r ih => exact fun s => (ih (fun b hb => turn b (.tail _ hb)) (f s a)).trans (turn a (.head _) s)

/-- A round whose other turns leave a view of slot `k` shows there what the turn of slot `k` makes of it. -/
theorem foldl_turn {β : Type} (g : State → β) (f : State → Nat × Skein → State) {k : Nat} (others : ∀ s e, e.1 ≠ k → g (f s e) = g s) {l : NMap Skein}
    (nodup : (NMap.keys l).Nodup) {v : Skein} (mem : (k, v) ∈ l) : ∀ s, ∃ u, g u = g s ∧ g (l.foldl f s) = g (f u (k, v)) := by
  induction l with
  | nil => cases mem
  | cons e r ih =>
    intro s
    obtain ⟨new, rest⟩ := List.nodup_cons.1 nodup
    rcases List.mem_cons.1 mem with rfl | later
    · exact ⟨s, rfl, foldl_keeps_mem g f (l := r) (fun b hb u => others u b fun eq => new (eq ▸ List.mem_map.2 ⟨b, hb, rfl⟩)) (f s (k, v))⟩
    · obtain ⟨u, same, shows⟩ := ih rest later (f s e)
      exact ⟨u, same.trans (others s e fun eq => new (eq ▸ List.mem_map.2 ⟨_, later, rfl⟩)), shows⟩

/-- What a round over the skeins may change at slot `k`: the skein and its requests; and the spills ordered. -/
def slotView (core k : Nat) (s : State) : Option Skein × List RegRequest × List (Nat × Nat) :=
  (skeinOf s core k, (coreOf s core).regReqs.filter (fun q => decide (q.slot = k)), (coreOf s core).spillQ)

/-- A turn at another slot changes a skein and requests of that slot. -/
theorem slotView_turn (s : State) {core slot k : Nat} (ne : k ≠ slot) (f : Skein → Skein) (g : List RegRequest → List RegRequest)
    (own : ∀ l, (g l).filter (fun q => decide (q.slot = k)) = l.filter (fun q => decide (q.slot = k))) :
    slotView core k (updCore (updSkein s core slot f) core (fun c => { c with regReqs := g c.regReqs })) = slotView core k s := by
  rw [slotView, skeinOf_updCore _ rfl, skeinOf_updSkein_ne s core f ne, coreOf_updCore_self, own, regReqs_updSkein, spillQ_updSkein, slotView]
theorem slotView_turn_self (s : State) (core k : Nat) (f : Skein → Skein) (g : List RegRequest → List RegRequest) :
    slotView core k (updCore (updSkein s core k f) core (fun c => { c with regReqs := g c.regReqs })) =
      ((skeinOf s core k).map f, (g (coreOf s core).regReqs).filter (fun q => decide (q.slot = k)), (coreOf s core).spillQ) := by
  rw [slotView, skeinOf_updCore _ rfl, skeinOf_updSkein, coreOf_updCore_self, regReqs_updSkein, spillQ_updSkein]

end Machine
end Sys2Proof
end

section
/-! PROOFS. REGISTER_REQUEST_GRANT and HEAD_REQUEST_TIMEOUT (R203, R204, R205; for O48). -/

namespace Sys2Proof.Machine

/-! The grant of the head request. -/

theorem grantHead_idle {core : Nat} {s : State} (none' : headRequest (coreOf s core) = none) : grantHead core s = s := by
  rw [grantHead, none']

/-- A core whose head request is granted: what is left of its spills is not made. -/
def withGrant (c : Core) (r : RegRequest) : Core :=
  { c with regReqs := mapIf (fun q => decide (q = r)) (fun q => { q with granted := true }) c.regReqs, spillQ := [], spillSent := false }

theorem grantHead_covered {core : Nat} {s : State} {r : RegRequest} (head : headRequest (coreOf s core) = some r)
    (covers : requestNeed (coreOf s core) r ≤ grantable (coreOf s core)) : grantHead core s = keepVictims core (setCore s core (withGrant (coreOf s core) r)) := by
  simp only [grantHead, head, if_neg (Nat.not_lt.2 covers), withGrant]

theorem grantHead_short {core : Nat} {s : State} {r : RegRequest} (head : headRequest (coreOf s core) = some r)
    (short : grantable (coreOf s core) < requestNeed (coreOf s core) r) : grantHead core s = s := by
  simp only [grantHead, head, if_pos short]

/-- The spills ordered of a core once as many of the candidates as the head request lacks have been ordered (R204, R206). -/
def ordersOf (c : Core) (r : RegRequest) (cands : List (Nat × Nat)) : List (Nat × Nat) :=
  c.spillQ ++ (cands.filter (fun e => e ∉ c.spillQ)).take (requestNeed c r - grantable c - c.spillQ.length)

theorem orderSpills_eq (core : Nat) (r : RegRequest) (cands : List (Nat × Nat)) (s : State) :
    orderSpills core r cands s = setCore s core { coreOf s core with spillQ := ordersOf (coreOf s core) r cands } := rfl

theorem ordersOf_covered {c : Core} {r : RegRequest} (covers : requestNeed c r ≤ grantable c) (cands : List (Nat × Nat)) : ordersOf c r cands = c.spillQ := by
  simp [ordersOf, Nat.sub_eq_zero_of_le covers]

section
variable {core : Nat} {s : State} {r : RegRequest} {sk : Skein} (head : headRequest (coreOf s core) = some r)
  (filled : ∀ q ∈ (coreOf s core).regReqs, q.granted = true → q.fills = []) (here : skeinOf s core r.slot = some sk)
  (path : r.path < 2 → (NMap.get? sk.paths r.path).isSome = true)
include head filled here path

/-- The arbiter, with nothing to fill and a head request whose path is there. -/
theorem registerRequestGrant_eq :
    exec (.registerRequestGrant core) s = .next (grantHead core (orderSpills core r ((belowWindows sk).map (fun g => (r.slot, g))) s)) := by
  have still : fillGranted core s = s := by
    have none' : (coreOf s core).regReqs.find? (fun r => r.granted && decide (r.fills ≠ [])) = none := by simpa using filled
    simp only [fillGranted, none']
  have there : (decide (r.path < 2) && (NMap.get? sk.paths r.path).isNone) = false := by
    by_cases main : r.path < 2
    · simp [Option.isNone_eq_false_iff, path main]
    · simp [main]
  rw [show exec (.registerRequestGrant core) s = execRegisterRequestGrant core s from rfl, execRegisterRequestGrant, event]
  simp only [still, head, here, there, Bool.false_eq_true, if_false]

theorem registerRequestGrant_grants (covers : requestNeed (coreOf s core) r ≤ grantable (coreOf s core)) :
    exec (.registerRequestGrant core) s = .next (keepVictims core (setCore s core (withGrant (coreOf s core) r))) := by
  rw [registerRequestGrant_eq head filled here path, orderSpills_eq, ordersOf_covered covers]
  rw [grantHead_covered (r := r) (by rwa [coreOf_setCore_self]) (by rwa [coreOf_setCore_self]), coreOf_setCore_self, setCore_setCore]

theorem registerRequestGrant_orders (short : grantable (coreOf s core) < requestNeed (coreOf s core) r) :
    exec (.registerRequestGrant core) s =
      .next (setCore s core { coreOf s core with spillQ := ordersOf (coreOf s core) r ((belowWindows sk).map (fun g => (r.slot, g))) }) := by
  rw [registerRequestGrant_eq head filled here path, orderSpills_eq]
  exact congrArg Host.Outcome.next (grantHead_short (r := r) (by rw [coreOf_setCore_self]; exact head) (by rw [coreOf_setCore_self]; exact short))

end

/-! Victims that have lost no position of their windows (R206). -/

/-- An evicted skein that has its windows back. -/
def Spared (sk : Skein) : Prop := sk.evicted = true ∧ ∀ g ∈ sk.spilled, 8 * g + 8 ≤ lowWindow sk

/-- The requests but for that of an evicted skein for its windows. -/
def dropRefill (slot : Nat) (l : List RegRequest) : List RegRequest := l.filter (fun r => decide (r.slot ≠ slot) || decide (r.path ≠ 2))

/-- The turn of one skein in `keepVictims`. -/
def keepVictim (core : Nat) (s : State) (e : Nat × Skein) : State :=
  if e.2.evicted && e.2.spilled.all (fun g => decide (8 * g + 8 ≤ lowWindow e.2)) then
    updCore (updSkein s core e.1 (fun sk => { sk with evicted := false })) core (fun c => { c with regReqs := dropRefill e.1 c.regReqs })
  else s

theorem keepVictims_eq (core : Nat) (s : State) : keepVictims core s = (coreOf s core).skeins.foldl (keepVictim core) s := rfl

theorem spared_iff (sk : Skein) : (sk.evicted && sk.spilled.all (fun g => decide (8 * g + 8 ≤ lowWindow sk))) = true ↔ Spared sk := by
  simp [Spared]
theorem keepVictim_spared {core : Nat} {s : State} {e : Nat × Skein} (h : Spared e.2) :
    keepVictim core s e = updCore (updSkein s core e.1 (fun sk => { sk with evicted := false })) core (fun c => { c with regReqs := dropRefill e.1 c.regReqs }) :=
  if_pos ((spared_iff e.2).2 h)
theorem keepVictim_stays {core : Nat} {s : State} {e : Nat × Skein} (h : ¬Spared e.2) : keepVictim core s e = s := if_neg fun c => h ((spared_iff e.2).1 c)

theorem onlyCore_keepVictims (core : Nat) (s : State) : OnlyCore core s (keepVictims core s) := by
  rw [keepVictims_eq]
  refine OnlyCore.foldl (fun s e => ?_) _ s
  by_cases h : Spared e.2
  · rw [keepVictim_spared h]
    exact (onlyCore_updSkein core e.1 s _).trans (onlyCore_setCore core _ _)
  · rw [keepVictim_stays h]
    exact .refl core s

/-- What the arbiter has ordered stands through the round. -/
theorem keepVictims_orders (core : Nat) (s : State) :
    (coreOf (keepVictims core s) core).spillQ = (coreOf s core).spillQ ∧ (coreOf (keepVictims core s) core).spillSent = (coreOf s core).spillSent := by
  have kept := foldl_keeps (fun s => ((coreOf s core).spillQ, (coreOf s core).spillSent)) (keepVictim core) (fun s e => ?_) (coreOf s core).skeins s
  · exact Prod.ext_iff.1 kept
  · by_cases h : Spared e.2
    · have same := besidesSkeins_updSkein s core e.1 (fun sk => { sk with evicted := false })
      rw [keepVictim_spared h, coreOf_updCore_self]
      exact (congrArg (fun c => (Core.spillQ c, Core.spillSent c)) same :)
    · rw [keepVictim_stays h]

theorem keepVictims_none {core : Nat} {s : State} (h : ∀ e ∈ (coreOf s core).skeins, ¬Spared e.2) : keepVictims core s = s :=
  foldl_keeps_mem id (keepVictim core) (fun e he _ => keepVictim_stays (h e he)) s

theorem dropRefill_others {slot k : Nat} (ne : k ≠ slot) (l : List RegRequest) :
    (dropRefill slot l).filter (fun q => decide (q.slot = k)) = l.filter (fun q => decide (q.slot = k)) := by
  rw [dropRefill, List.filter_filter]
  refine List.filter_congr fun q _ => ?_
  by_cases here : q.slot = k <;> simp [here, ne]

theorem keepVictims_spares {core : Nat} {s : State} (nodup : (NMap.keys (coreOf s core).skeins).Nodup) {k : Nat} {v : Skein} (here : skeinOf s core k = some v)
    (h : Spared v) : skeinOf (keepVictims core s) core k = some { v with evicted := false } ∧ ∀ q ∈ (coreOf (keepVictims core s) core).regReqs, q.slot = k → q.path ≠ 2 := by
  have others (s : State) (e : Nat × Skein) (ne : e.1 ≠ k) : slotView core k (keepVictim core s e) = slotView core k s := by
    by_cases h : Spared e.2
    · rw [keepVictim_spared h]
      exact slotView_turn s ne.symm _ _ (dropRefill_others ne.symm)
    · rw [keepVictim_stays h]
  obtain ⟨u, same, shows⟩ := foldl_turn (slotView core k) (keepVictim core) others nodup (NMap.mem_of_get? here) s
  rw [keepVictim_spared h, slotView_turn_self, ← keepVictims_eq] at shows
  obtain ⟨skein, reqs⟩ := Prod.ext_iff.1 shows
  have before : skeinOf u core k = some v := (congrArg Prod.fst same).trans here
  refine ⟨skein.trans (by rw [before]; rfl), fun q hq slot => ?_⟩
  have mem : q ∈ (coreOf (keepVictims core s) core).regReqs.filter (fun q => decide (q.slot = k)) := List.mem_filter.2 ⟨hq, decide_eq_true slot⟩
  rw [show (coreOf (keepVictims core s) core).regReqs.filter (fun q => decide (q.slot = k)) = _ from congrArg Prod.fst reqs] at mem
  have kept := (List.mem_filter.1 (List.mem_filter.1 mem).1).2
  simpa [slot] using kept

/-! The timeout of the head request (R205). -/

theorem headRequestTimeout_eq {core : Nat} {s : State} {r : RegRequest} (head : headRequest (coreOf s core) = some r) (late : 65536 * 144 ≤ (coreOf s core).phase - r.phase) :
    exec (.headRequestTimeout core) s = .next (setCore s core { coreOf s core with headTimeout := some (r.slot, r.path, r.since) }) := by
  rw [show exec (.headRequestTimeout core) s = execHeadRequestTimeout core s from rfl, execHeadRequestTimeout, event]
  simp only [head, if_pos late, updCore]

end Sys2Proof.Machine
end

section
/-! PROOFS. REGISTER_DEADLOCK_BREAK: the order of its victims, and the skeins that lose a window position (R205, R206; for O48). -/

namespace Sys2Proof.Machine

/-! Sorting, and lists without repeats. -/

theorem perm_insertBy {α : Type} (f : α → Nat) (a : α) : ∀ l : List α, (insertBy f a l).Perm (a :: l)
  | [] => .refl _
  | b :: r => by
    rw [insertBy]
    split
    · exact .refl _
    · exact ((perm_insertBy f a r).cons b).trans (.swap a b r)

theorem pairwise_insertBy {α : Type} (f : α → Nat) (a : α) : ∀ {l : List α}, l.Pairwise (fun x y => f x ≤ f y) → (insertBy f a l).Pairwise (fun x y => f x ≤ f y)
  | [], _ => List.pairwise_singleton _ a
  | b :: r, sorted => by
    obtain ⟨least, rest⟩ := List.pairwise_cons.1 sorted
    rw [insertBy]
    split
    · rename_i less
      exact List.pairwise_cons.2 ⟨List.forall_mem_cons.2 ⟨less.le, fun c hc => less.le.trans (least c hc)⟩, sorted⟩
    · rename_i more
      refine List.pairwise_cons.2 ⟨fun c hc => ?_, pairwise_insertBy f a rest⟩
      rcases List.mem_cons.1 ((perm_insertBy f a r).mem_iff.1 hc) with rfl | later
      · exact Nat.le_of_not_lt more
      · exact least c later

theorem sortBy_spec {α : Type} (f : α → Nat) (l : List α) : (sortBy f l).Perm l ∧ (sortBy f l).Pairwise (fun x y => f x ≤ f y) := by
  have gen : ∀ (l acc : List α), acc.Pairwise (fun x y => f x ≤ f y) →
      (l.foldl (fun acc a => insertBy f a acc) acc).Perm (acc ++ l) ∧ (l.foldl (fun acc a => insertBy f a acc) acc).Pairwise (fun x y => f x ≤ f y) := by
    intro l
    induction l with
    | nil => exact fun acc sorted => ⟨by simp, sorted⟩
    | cons a r ih =>
      intro acc sorted
      obtain ⟨perm, sorted'⟩ := ih (insertBy f a acc) (pairwise_insertBy f a sorted)
      exact ⟨perm.trans (((perm_insertBy f a acc).append_right r).trans List.perm_middle.symm), sorted'⟩
  exact gen l [] .nil

/-- A list in descending order of keys that tell its members apart is the sorted list read backward. -/
theorem reverse_sortBy {α : Type} {f : α → Nat} {l m : List α} (distinct : ∀ a ∈ l, ∀ b ∈ l, f a = f b → a = b) (perm : m.Perm l)
    (sorted : m.Pairwise (fun x y => f y ≤ f x)) : (sortBy f l).reverse = m := by
  obtain ⟨perm', sorted'⟩ := sortBy_spec f l
  refine List.Perm.eq_of_pairwise (le := fun x y => f y ≤ f x) (fun a b ha hb le ge => ?_) (List.pairwise_reverse.2 sorted') sorted
    ((List.reverse_perm _).trans (perm'.trans perm.symm))
  exact distinct a (perm'.mem_iff.1 (List.mem_reverse.1 ha)) b (perm.mem_iff.1 hb) (ge.antisymm le)

theorem mem_dedup {α : Type} [DecidableEq α] (l : List α) (a : α) : a ∈ dedup l ↔ a ∈ l := by
  have gen : ∀ (l acc : List α), a ∈ l.foldl (fun acc b => if b ∈ acc then acc else acc ++ [b]) acc ↔ a ∈ acc ∨ a ∈ l := by
    intro l
    induction l with
    | nil => simp
    | cons b r ih =>
      intro acc
      rw [List.foldl_cons, ih]
      split
      · rename_i old
        exact ⟨fun h => h.imp id (.tail _), fun h => h.elim .inl fun h => (List.mem_cons.1 h).elim (fun eq => .inl (eq ▸ old)) .inr⟩
      · simp [or_assoc]
  exact (gen l []).trans (by simp)

/-! The victims in their order (R206). -/

/-- The younger bolt first, and of one bolt the higher slot. -/
def Younger (a b : Nat × Skein) : Prop := b.2.born < a.2.born ∨ (a.2.born = b.2.born ∧ b.1 < a.1)

theorem victims_sorted {skeins : NMap Skein} (nodup : (NMap.keys skeins).Nodup) (slots : ∀ e ∈ skeins, e.1 < 64) {p : Nat × Skein → Bool} {vs : List (Nat × Skein)}
    (all : ∀ e, e ∈ vs ↔ e ∈ skeins ∧ p e = true) (order : vs.Pairwise Younger) :
    (sortBy (fun (e : Nat × Skein) => 64 * e.2.born + e.1) (skeins.filter p)).reverse = vs := by
  have mem (e : Nat × Skein) : e ∈ vs ↔ e ∈ skeins.filter p := (all e).trans List.mem_filter.symm
  have distinct : vs.Nodup := order.imp fun younger eq => by
    rw [eq, Younger] at younger
    omega
  refine reverse_sortBy (fun a ha b hb eq => ?_) ((List.perm_ext_iff_of_nodup distinct (nodup.of_map.filter p)).2 mem) ?_
  · have ha' := List.mem_of_mem_filter ha
    have hb' := List.mem_of_mem_filter hb
    have slot : a.1 = b.1 := by
      have := slots a ha'
      have := slots b hb'
      omega
    exact List.inj_on_of_nodup_map nodup ha' hb' slot
  · refine order.imp_of_mem fun {a b} ha hb younger => ?_
    have := slots a ((all a).1 ha).1
    have := slots b ((all b).1 hb).1
    rcases younger with older | ⟨same, higher⟩ <;> omega

/-! The request of an evicted skein for its windows (R207). -/

theorem mem_addRequest (r q : RegRequest) : ∀ l, q ∈ addRequest r l ↔ q = r ∨ q ∈ l
  | [] => by simp [addRequest]
  | a :: l => by
    rw [addRequest]
    split
    · simp
    · rw [List.mem_cons, mem_addRequest r q l, List.mem_cons]
      tauto

theorem filter_addRequest {p : RegRequest → Bool} {r : RegRequest} (out : p r = false) : ∀ l, (addRequest r l).filter p = l.filter p
  | [] => by simp [addRequest, out]
  | a :: l => by
    rw [addRequest]
    split
    · simp [out]
    · rw [List.filter_cons, List.filter_cons, filter_addRequest out l]

theorem refillRequest_others (s : State) (core : Nat) {slot k : Nat} (ne : k ≠ slot) (sk : Skein) (lost : List Nat) (l : List RegRequest) :
    (refillRequest s core slot sk lost l).filter (fun q => decide (q.slot = k)) = l.filter (fun q => decide (q.slot = k)) := by
  unfold refillRequest
  dsimp only
  split
  · rw [mapIf, List.filter_map]
    have keeps : ∀ r : RegRequest, (if decide (r.slot = slot) && decide (r.path = 2) then { r with fills := dedup (r.fills ++ lost), granted := false } else r).slot = r.slot :=
      fun r => by split <;> rfl
    simp only [Function.comp_def, keeps]
    refine (List.map_congr_left fun r hr => ?_).trans (List.map_id _)
    have own : r.slot = k := of_decide_eq_true (List.mem_filter.1 hr).2
    simp [own, ne]
  · exact filter_addRequest (by simp [ne.symm]) l

theorem refillRequest_asks (s : State) (core slot : Nat) (sk : Skein) (lost : List Nat) (l : List RegRequest) :
    ∃ q ∈ refillRequest s core slot sk lost l, q.slot = slot ∧ q.path = 2 ∧ q.granted = false ∧ ∀ g ∈ lost, g ∈ q.fills := by
  unfold refillRequest
  dsimp only
  split
  · rename_i waits
    obtain ⟨r, hr, mine⟩ := List.any_eq_true.1 waits
    obtain ⟨hs, hp⟩ := Bool.and_eq_true_iff.1 mine
    refine ⟨_, List.mem_map.2 ⟨r, hr, if_pos mine⟩, of_decide_eq_true hs, of_decide_eq_true hp, rfl, fun g hg => ?_⟩
    exact (mem_dedup _ g).2 (List.mem_append_right _ hg)
  · exact ⟨_, (mem_addRequest _ _ l).2 (.inl rfl), rfl, rfl, rfl, fun _ hg => hg⟩

/-! The skeins that lose a position of their windows (R206). -/

theorem mem_lostGranules (c : Core) (slot : Nat) (sk : Skein) (g : Nat) : g ∈ lostGranules c slot sk ↔ g ∈ inWindows sk ∧ (slot, g) ∈ c.spillQ := by
  simp [lostGranules, and_comm]

/-- The turn of one skein in `evictLosers`. -/
def evictLoser (core : Nat) (s : State) (e : Nat × Skein) : State :=
  if lostGranules (coreOf s core) e.1 e.2 = [] then s
  else updCore (updSkein s core e.1 (fun sk => { sk with evicted := true })) core
    (fun c => { c with regReqs := refillRequest s core e.1 e.2 (lostGranules (coreOf s core) e.1 e.2) c.regReqs })

theorem evictLosers_eq (core : Nat) (s : State) : evictLosers core s = (coreOf s core).skeins.foldl (evictLoser core) s := rfl

theorem onlyCore_evictLosers (core : Nat) (s : State) : OnlyCore core s (evictLosers core s) := by
  rw [evictLosers_eq]
  refine OnlyCore.foldl (fun s e => ?_) _ s
  unfold evictLoser
  split
  · exact .refl core s
  · exact (onlyCore_updSkein core e.1 s _).trans (onlyCore_setCore core _ _)

theorem evictLosers_orders (core : Nat) (s : State) :
    (coreOf (evictLosers core s) core).spillQ = (coreOf s core).spillQ ∧ (coreOf (evictLosers core s) core).regBreak = (coreOf s core).regBreak := by
  have kept := foldl_keeps (fun s => ((coreOf s core).spillQ, (coreOf s core).regBreak)) (evictLoser core) (fun s e => ?_) (coreOf s core).skeins s
  · exact Prod.ext_iff.1 kept
  · unfold evictLoser
    split
    · rfl
    · have same := besidesSkeins_updSkein s core e.1 (fun sk => { sk with evicted := true })
      rw [coreOf_updCore_self]
      exact (congrArg (fun c => (Core.spillQ c, Core.regBreak c)) same :)

theorem evictLosers_loses {core : Nat} {s : State} (nodup : (NMap.keys (coreOf s core).skeins).Nodup) {k : Nat} {v : Skein} (mem : (k, v) ∈ (coreOf s core).skeins) :
    ((∃ g ∈ inWindows v, (k, g) ∈ (coreOf s core).spillQ) → skeinOf (evictLosers core s) core k = some { v with evicted := true } ∧
      ∃ q ∈ (coreOf (evictLosers core s) core).regReqs, q.slot = k ∧ q.path = 2 ∧ q.granted = false ∧
        ∀ g ∈ inWindows v, (k, g) ∈ (coreOf s core).spillQ → g ∈ q.fills) ∧
    ((∀ g ∈ inWindows v, (k, g) ∉ (coreOf s core).spillQ) → skeinOf (evictLosers core s) core k = some v) := by
  have others (s : State) (e : Nat × Skein) (ne : e.1 ≠ k) : slotView core k (evictLoser core s e) = slotView core k s := by
    unfold evictLoser
    split
    · rfl
    · exact slotView_turn s ne.symm _ _ (refillRequest_others s core ne.symm e.2 _)
  obtain ⟨u, same, shows⟩ := foldl_turn (slotView core k) (evictLoser core) others nodup mem s
  rw [← evictLosers_eq] at shows
  obtain ⟨before, rest⟩ := Prod.ext_iff.1 same
  have here : skeinOf u core k = some v := before.trans (NMap.get?_of_mem_nodup nodup mem)
  have spills : (coreOf u core).spillQ = (coreOf s core).spillQ := congrArg Prod.snd rest
  have lost (g : Nat) : g ∈ lostGranules (coreOf u core) k v ↔ g ∈ inWindows v ∧ (k, g) ∈ (coreOf s core).spillQ := by rw [mem_lostGranules, spills]
  constructor
  · rintro ⟨g, hg, ordered⟩
    have some' : lostGranules (coreOf u core) k v ≠ [] := List.ne_nil_of_mem ((lost g).2 ⟨hg, ordered⟩)
    rw [show evictLoser core u (k, v) = _ from if_neg some', slotView_turn_self] at shows
    obtain ⟨skein, reqs⟩ := Prod.ext_iff.1 shows
    obtain ⟨q, hq, slot, path, open', fills⟩ := refillRequest_asks u core k v (lostGranules (coreOf u core) k v) (coreOf u core).regReqs
    refine ⟨skein.trans (by rw [here]; rfl), q, ?_, slot, path, open', fun g hg ordered => fills g ((lost g).2 ⟨hg, ordered⟩)⟩
    refine List.mem_of_mem_filter (p := fun q => decide (q.slot = k)) ?_
    rw [show (coreOf (evictLosers core s) core).regReqs.filter (fun q => decide (q.slot = k)) = _ from congrArg Prod.fst reqs]
    exact List.mem_filter.2 ⟨hq, decide_eq_true slot⟩
  · intro none'
    have nil : lostGranules (coreOf u core) k v = [] := List.eq_nil_iff_forall_not_mem.2 fun g hg => none' g ((lost g).1 hg).1 ((lost g).1 hg).2
    rw [show evictLoser core u (k, v) = u from if_pos nil] at shows
    exact (congrArg Prod.fst shows).trans here

/-! The event. -/

/-- A core whose arbiter breaks a deadlock: the spills ordered, and its count of breaks. -/
def withBreak (c : Core) (r : RegRequest) (sk : Skein) : Core :=
  { c with spillQ := ordersOf c r ((belowWindows sk).map (fun g => (r.slot, g)) ++ breakVictims c r), regBreak := min (c.regBreak + 1) (2 ^ 32 - 1) }

theorem registerDeadlockBreak_eq {core : Nat} {s : State} {r : RegRequest} {sk : Skein} (head : headRequest (coreOf s core) = some r) (due : breakDue s core = true)
    (here : skeinOf s core r.slot = some sk) :
    exec (.registerDeadlockBreak core) s = .next (evictLosers core (setCore s core (withBreak (coreOf s core) r sk))) := by
  rw [show exec (.registerDeadlockBreak core) s = execRegisterDeadlockBreak core s from rfl, execRegisterDeadlockBreak, event]
  simp only [due, head, here, Bool.not_true, Bool.false_eq_true, if_false, Option.map_some, Option.getD_some, orderSpills_eq, updCore_setCore, withBreak]

end Sys2Proof.Machine
end

section
/-! PROOFS. GRANULE_SPILL_COMPLETE and GRANULE_REFILL, and the register pool (R204, R207; O48). -/

namespace Sys2Proof.Machine

/-! The spill of a granule. -/

/-- A skein whose granule has been spilled. -/
def withoutGranule (g : Nat) (sk : Skein) : Skein :=
  { sk with spilled := sortedInsert g sk.spilled, vregs := sk.vregs.filter (fun e => decide (e.1 < 16 + 8 * g) || decide (16 + 8 * g + 8 ≤ e.1)) }

/-- The writes that spill a granule to the backing stack (R204). -/
def spillWrites (s : State) (core slot g : Nat) (sk : Skein) : Option (Option (Nat × Nat)) × State :=
  virtWrite s (.pool core slot) (some core) (dieOf core) (partOf s core) (launchOf s core sk.bolt).ctx (backingBase s core sk + 4096 * g)
    ((List.range 8).flatMap (fun i => regImage (vget sk (16 + 8 * g + i)))) (lineFuel 4096)

theorem granuleSpillComplete_eq {core slot g : Nat} {s t : State} {rest : List (Nat × Nat)} (first : (coreOf s core).spillQ = (slot, g) :: rest)
    (calm : headRequest (coreOf s core) = none) (spills : spillGranule core slot g s = t) (reqs : (coreOf t core).regReqs = (coreOf s core).regReqs) :
    exec (.granuleSpillComplete core) s = .next t := by
  rw [show exec (.granuleSpillComplete core) s = execGranuleSpillComplete core s from rfl, execGranuleSpillComplete, event]
  simp only [first, spills]
  exact congrArg Host.Outcome.next (grantHead_idle (by rw [headRequest, reqs]; exact calm))

section
variable {core slot g : Nat} {s : State} {sk : Skein} (here : skeinOf s core slot = some sk) (held : 8 * g < topOf sk) (resident : g ∉ sk.spilled)
include here held resident

theorem spillGranule_frees (sent : (coreOf s core).spillSent = true) (idle : agentBusy s (.pool core slot) = false) :
    spillGranule core slot g s = updCore (updSkein (endSpill core s) core slot (withoutGranule g)) core (fun c => { c with regSpill := min (c.regSpill + 1) (2 ^ 48 - 1) }) := by
  simp only [spillGranule, here, if_neg (not_or.2 ⟨Nat.not_le.2 held, resident⟩), sent, idle, if_true, Bool.false_eq_true, if_false]
  rfl

theorem spillGranule_sends {v : State} (unsent : (coreOf s core).spillSent = false) (settled : granulePending sk g = false)
    (quiet : ∀ q ∈ s.reqs, q.who ≠ .agent (.pool core slot))
    (writes : spillWrites s core slot g sk = (some none, v)) :
    spillGranule core slot g s = updCore v core (fun c => { c with spillSent := true }) := by
  have none' : s.reqs.any (fun r => decide (r.who = .agent (.pool core slot))) = false := by simpa using quiet
  simp only [spillGranule, here, if_neg (not_or.2 ⟨Nat.not_le.2 held, resident⟩), unsent, settled, none', Bool.or_self, Bool.false_eq_true, if_false]
  rw [← spillWrites, writes]

section
variable {rest : List (Nat × Nat)} (first : (coreOf s core).spillQ = (slot, g) :: rest) (calm : headRequest (coreOf s core) = none)
include first calm

theorem granuleSpillComplete_frees (sent : (coreOf s core).spillSent = true) (idle : agentBusy s (.pool core slot) = false) :
    ∃ t, exec (.granuleSpillComplete core) s = .next t ∧ t.mem = s.mem ∧ (coreOf t core).regSpill = min ((coreOf s core).regSpill + 1) (2 ^ 48 - 1) ∧
      skeinOf t core slot = some (withoutGranule g sk) := by
  have kept := besidesSkeins_updSkein (endSpill core s) core slot (withoutGranule g)
  rw [endSpill, coreOf_updCore_self, ← endSpill] at kept
  refine ⟨_, granuleSpillComplete_eq first calm (spillGranule_frees here held resident sent idle) ?_, ?_, ?_, ?_⟩
  · rw [coreOf_updCore_self]
    exact (congrArg Core.regReqs kept :)
  · rw [updCore_mem, updSkein_mem, endSpill, updCore_mem]
  · rw [coreOf_updCore_self]
    exact congrArg (fun n => min (n + 1) (2 ^ 48 - 1)) (congrArg Core.regSpill kept :)
  · rw [skeinOf_updCore _ rfl, skeinOf_updSkein, endSpill, skeinOf_updCore _ rfl, here, Option.map_some]

theorem granuleSpillComplete_sends {v : State} (unsent : (coreOf s core).spillSent = false) (settled : granulePending sk g = false)
    (quiet : ∀ q ∈ s.reqs, q.who ≠ .agent (.pool core slot))
    (writes : spillWrites s core slot g sk = (some none, v)) :
    exec (.granuleSpillComplete core) s = .next (updCore v core (fun c => { c with spillSent := true })) := by
  refine granuleSpillComplete_eq first calm (spillGranule_sends here held resident unsent settled quiet writes) ?_
  rw [coreOf_updCore_self]
  refine regReqs_of_besidesTlb ?_ core
  have kept : besidesTlb (spillWrites s core slot g sk).2 = besidesTlb s := besidesTlb_virtWrite ..
  rwa [writes] at kept

end
end

/-! The refill of a granule. -/

/-- The vector registers once `n` registers from number `b` have been read back. -/
def filledRegs (m : NMap VReg) (b n : Nat) (f : Nat → VReg) : NMap VReg := (List.range n).foldl (fun m i => NMap.insert m (b + i) (f i)) m

theorem getD_filledRegs (m : NMap VReg) (b : Nat) (f : Nat → VReg) (key : Nat) : ∀ n,
    NMap.getD (filledRegs m b n f) key [] = if b ≤ key ∧ key < b + n then f (key - b) else NMap.getD m key []
  | 0 => by rw [if_neg (by omega)]; rfl
  | n + 1 => by
    have step : filledRegs m b (n + 1) f = NMap.insert (filledRegs m b n f) (b + n) (f n) := by simp [filledRegs, List.range_succ]
    rw [step, NMap.getD_insert, getD_filledRegs m b f key n]
    by_cases last : key = b + n
    · rw [if_pos last, if_pos (by omega), last, Nat.add_sub_cancel_left]
    · rw [if_neg last]
      by_cases before : b ≤ key ∧ key < b + n
      · rw [if_pos before, if_pos (by omega)]
      · rw [if_neg before, if_neg (by omega)]

theorem foldl_insert_vregs (b : Nat) (f : Nat → VReg) (l : List Nat) : ∀ sk : Skein,
    l.foldl (fun (sk : Skein) i => { sk with vregs := NMap.insert sk.vregs (b + i) (f i) }) sk =
      { sk with vregs := l.foldl (fun m i => NMap.insert m (b + i) (f i)) sk.vregs } := by
  induction l with
  | nil => exact fun _ => rfl
  | cons i r ih => exact fun sk => ih _

/-- A skein that has a granule back from the bytes of the backing stack. -/
def withGranule (g : Nat) (bs : List Byte) (sk : Skein) : Skein :=
  { sk with vregs := filledRegs sk.vregs (16 + 8 * g) 8 (fun i => regOfImage ((bs.drop (512 * i)).take 512)), spilled := sk.spilled.filter (fun h => h ≠ g) }

theorem vget_withGranule (g : Nat) (bs : List Byte) (sk : Skein) (key : Nat) : vget (withGranule g bs sk) key =
    if 16 + 8 * g ≤ key ∧ key < 16 + 8 * g + 8 then regOfImage ((bs.drop (512 * (key - (16 + 8 * g)))).take 512) else vget sk key := by
  simp only [vget, withGranule, getD_filledRegs]

/-- The reads that refill a granule from the backing stack (R204). -/
def refillReads (s : State) (core k g : Nat) (sk : Skein) : Option (Except (Nat × Nat) (List Byte)) × State :=
  virtRead s (.pool core k) (some core) (dieOf core) (partOf s core) (launchOf s core sk.bolt).ctx (backingBase s core sk + 4096 * g) 4096 (lineFuel 4096)

section
variable {core k g : Nat} {s v : State} {sk : Skein} {bs : List Byte} (here : skeinOf s core k = some sk)
  (reads : refillReads s core k g sk = (some (.ok bs), v))
include here reads

theorem fillGranule_fills :
    fillGranule core k g s = updCore (updSkein v core k (withGranule g bs)) core (fun c => { c with regFill := min (c.regFill + 1) (2 ^ 48 - 1) }) := by
  rw [refillReads] at reads
  rw [show withGranule g bs = fun sk => withGranule g bs sk from rfl]
  simp only [fillGranule, here, reads, foldl_insert_vregs, withGranule, filledRegs]

theorem fillGranule_state : (fillGranule core k g s).mem = s.mem ∧ (coreOf (fillGranule core k g s) core).regFill = min ((coreOf s core).regFill + 1) (2 ^ 48 - 1) ∧
    skeinOf (fillGranule core k g s) core k = some (withGranule g bs sk) := by
  have kept : besidesTlb (refillReads s core k g sk).2 = besidesTlb s := besidesTlb_virtRead ..
  have mem : (refillReads s core k g sk).2.mem = s.mem := virtRead_mem ..
  rw [reads] at kept mem
  rw [fillGranule_fills here reads]
  refine ⟨?_, ?_, ?_⟩
  · rw [updCore_mem, updSkein_mem, mem]
  · have fills : (coreOf (updSkein v core k (withGranule g bs)) core).regFill = (coreOf s core).regFill :=
      ((congrArg Core.regFill (besidesSkeins_updSkein v core k (withGranule g bs)) :)).trans (regFill_of_besidesTlb kept core)
    rw [coreOf_updCore_self, fills]
  · rw [skeinOf_updCore _ rfl, skeinOf_updSkein, skeinOf_of_besidesTlb kept, here, Option.map_some]

end

theorem granuleRefill_eq {core k g : Nat} {s : State} {sk : Skein} (calm : (coreOf s core).regReqs = []) (free : grantable (coreOf s core) ≠ 0)
    (next : (coreOf s core).skeins.find? (fun e => decide (e.2.spilled ≠ []) && decide (e.2.run ≠ .ended) && decide (e.2.run ≠ .exited)) = some (k, sk))
    (highest : sk.spilled.getLast? = some g) : exec (.granuleRefill core) s = .next (fillGranule core k g s) := by
  rw [show exec (.granuleRefill core) s = execGranuleRefill core s from rfl, execGranuleRefill, event]
  have open' : ((coreOf s core).regReqs ≠ [] || decide (grantable (coreOf s core) = 0)) = false := by simp [calm, free]
  simp only [open', Bool.false_eq_true, if_false, next, highest]

end Sys2Proof.Machine
end

section
/-! PROOFS. The register pool and its arbiter (O48). -/

namespace Sys2Proof.Machine

/-! The grant (R203, R204). -/

/-- An evicted skein of the core that has its windows back. -/
def HasWindowsBack (s : State) (core k : Nat) : Prop :=
  ∃ v w, skeinOf s core k = some v ∧ v.evicted = true ∧ IsLowest v w ∧ ∀ g ∈ v.spilled, 8 * g + 8 ≤ w

theorem hasWindowsBack_iff {s : State} {core k : Nat} {v : Skein} (here : skeinOf s core k = some v) : HasWindowsBack s core k ↔ Spared v := by
  constructor
  · rintro ⟨v', w, here', evicted, low, back⟩
    obtain rfl := Option.some.inj (here.symm.trans here')
    exact ⟨evicted, low.eq_lowWindow ▸ back⟩
  · exact fun ⟨evicted, back⟩ => ⟨v, _, here, evicted, isLowest_lowWindow v, back⟩

section
variable {core : Nat} {s : State} {r : RegRequest} {sk : Skein} (head : headRequest (coreOf s core) = some r)
include head

theorem registerRequestGrant_covered (filled : ∀ q ∈ (coreOf s core).regReqs, q.granted = true → q.fills = []) (here : skeinOf s core r.slot = some sk)
    (path : r.path < 2 → (NMap.get? sk.paths r.path).isSome = true) (covers : requestNeed (coreOf s core) r ≤ grantable (coreOf s core))
    (nodup : (NMap.keys (coreOf s core).skeins).Nodup) :
    ∃ t, exec (.registerRequestGrant core) s = .next t ∧ OnlyCore core s t ∧ (coreOf t core).spillQ = [] ∧ (coreOf t core).spillSent = false ∧
      ((∀ k, ¬HasWindowsBack s core k) → coreOf t core = withGrant (coreOf s core) r) ∧
      ∀ k v, skeinOf s core k = some v → HasWindowsBack s core k →
        skeinOf t core k = some { v with evicted := false } ∧ ∀ q ∈ (coreOf t core).regReqs, q.slot = k → q.path ≠ 2 := by
  have run := registerRequestGrant_grants head filled here path covers
  have only := onlyCore_setCore core s (withGrant (coreOf s core) r)
  have at' : coreOf (setCore s core (withGrant (coreOf s core) r)) core = withGrant (coreOf s core) r := coreOf_setCore_self s core _
  generalize setCore s core (withGrant (coreOf s core) r) = u at run only at'
  have skeins : (coreOf u core).skeins = (coreOf s core).skeins := (congrArg Core.skeins at' :)
  obtain ⟨spills, sent⟩ := keepVictims_orders core u
  rw [at'] at spills sent
  refine ⟨_, run, only.trans (onlyCore_keepVictims core u), spills, sent, fun none' => ?_, fun k v hv back => ?_⟩
  · have still : ∀ e ∈ (coreOf u core).skeins, ¬Spared e.2 := fun e he spared =>
      none' e.1 ((hasWindowsBack_iff (NMap.get?_of_mem_nodup nodup (skeins ▸ he))).2 spared)
    rw [keepVictims_none still, at']
  · exact keepVictims_spares (skeins ▸ nodup) ((congrArg (NMap.get? · k) skeins).trans hv) ((hasWindowsBack_iff hv).1 back)

theorem registerRequestGrant_short (filled : ∀ q ∈ (coreOf s core).regReqs, q.granted = true → q.fills = []) (here : skeinOf s core r.slot = some sk)
    (path : r.path < 2 → (NMap.get? sk.paths r.path).isSome = true) (short : grantable (coreOf s core) < requestNeed (coreOf s core) r) :
    ∃ t, exec (.registerRequestGrant core) s = .next t ∧ OnlyCore core s t ∧
      coreOf t core = { coreOf s core with spillQ := ordersOf (coreOf s core) r ((belowWindows sk).map (fun g => (r.slot, g))) } :=
  ⟨_, registerRequestGrant_orders head filled here path short, onlyCore_setCore core s _, coreOf_setCore_self s core _⟩

theorem headRequestTimeout_times_out (late : 65536 * 144 ≤ (coreOf s core).phase - r.phase) :
    ∃ t, exec (.headRequestTimeout core) s = .next t ∧ OnlyCore core s t ∧ coreOf t core = { coreOf s core with headTimeout := some (r.slot, r.path, r.since) } :=
  ⟨_, headRequestTimeout_eq head late, onlyCore_setCore core s _, coreOf_setCore_self s core _⟩

end

/-! The deadlock break (R205, R206). -/

/-- The resident granules below a position, and those from it to the top, lowest first. -/
def granulesBelow (sk : Skein) (low : Nat) : List Nat := (List.range (low / 8)).filter (fun g => g ∉ sk.spilled)
def granulesFrom (sk : Skein) (low : Nat) : List Nat := (List.range (topOf sk / 8)).filter (fun g => decide (g ∉ sk.spilled) && decide (low / 8 ≤ g))

theorem granulesBelow_eq {sk : Skein} {low : Nat} (h : IsLowest sk low) : granulesBelow sk low = belowWindows sk := by
  rw [h.eq_lowWindow]
  rfl
theorem granulesFrom_eq {sk : Skein} {low : Nat} (h : IsLowest sk low) : granulesFrom sk low = inWindows sk := by
  rw [h.eq_lowWindow, inWindows_eq]
  rfl

section
variable {core : Nat} {s : State} {r : RegRequest} {sk : Skein} {low : Nat} {vs : List (Nat × Skein × Nat)}
  (nodup : (NMap.keys (coreOf s core).skeins).Nodup) (lowest : ∀ k v w, (k, v, w) ∈ vs → IsLowest v w)
  (all : ∀ k v, (∃ w, (k, v, w) ∈ vs) ↔ (k, v) ∈ (coreOf s core).skeins ∧ k ≠ r.slot ∧ v.run ≠ .ended)
include nodup lowest all

/-- The candidates of a break: the victims with their lowest windows, in order. -/
theorem breakVictims_eq (slots : ∀ e ∈ (coreOf s core).skeins, e.1 < 64) (order : vs.Pairwise (fun a b => b.2.1.born < a.2.1.born ∨ (a.2.1.born = b.2.1.born ∧ b.1 < a.1))) :
    breakVictims (coreOf s core) r = vs.flatMap (fun e => (granulesBelow e.2.1 e.2.2 ++ granulesFrom e.2.1 e.2.2).map (fun g => (e.1, g))) := by
  have members (e : Nat × Skein) : e ∈ vs.map (fun e => (e.1, e.2.1)) ↔ e ∈ (coreOf s core).skeins ∧ (decide (e.1 ≠ r.slot) && decide (e.2.run ≠ .ended)) = true := by
    rw [Bool.and_eq_true_iff, decide_eq_true_iff, decide_eq_true_iff, ← all e.1 e.2, List.mem_map]
    exact ⟨fun ⟨a, ha, eq⟩ => ⟨a.2.2, eq ▸ ha⟩, fun ⟨w, hw⟩ => ⟨(e.1, e.2, w), hw, rfl⟩⟩
  rw [breakVictims, victims_sorted nodup slots members (List.pairwise_map.2 order), List.flatMap_map]
  refine List.flatMap_congr fun e he => ?_
  have low := lowest e.1 e.2.1 e.2.2 he
  rw [granulesBelow_eq low, granulesFrom_eq low]

theorem registerDeadlockBreak_breaks (head : headRequest (coreOf s core) = some r) (due : breakDue s core = true) (slots : ∀ e ∈ (coreOf s core).skeins, e.1 < 64)
    (here : skeinOf s core r.slot = some sk) (low' : IsLowest sk low)
    (order : vs.Pairwise (fun a b => b.2.1.born < a.2.1.born ∨ (a.2.1.born = b.2.1.born ∧ b.1 < a.1))) {ordered : List (Nat × Nat)}
    (orders : ordersOf (coreOf s core) r ((granulesBelow sk low).map (fun g => (r.slot, g)) ++
      vs.flatMap (fun e => (granulesBelow e.2.1 e.2.2 ++ granulesFrom e.2.1 e.2.2).map (fun g => (e.1, g)))) = ordered) :
    ∃ t, exec (.registerDeadlockBreak core) s = .next t ∧ t.mem = s.mem ∧ (coreOf t core).regBreak = min ((coreOf s core).regBreak + 1) (2 ^ 32 - 1) ∧
      (coreOf t core).spillQ = ordered ∧ ∀ k v w, (k, v, w) ∈ vs →
        ((∃ g ∈ granulesFrom v w, (k, g) ∈ ordered) → skeinOf t core k = some { v with evicted := true } ∧
          ∃ q ∈ (coreOf t core).regReqs, q.slot = k ∧ q.path = 2 ∧ q.granted = false ∧ ∀ g ∈ granulesFrom v w, (k, g) ∈ ordered → g ∈ q.fills) ∧
        ((∀ g ∈ granulesFrom v w, (k, g) ∉ ordered) → skeinOf t core k = some v) := by
  rw [granulesBelow_eq low', ← breakVictims_eq nodup lowest all slots order] at orders
  subst orders
  have run := registerDeadlockBreak_eq head due here
  have only := onlyCore_setCore core s (withBreak (coreOf s core) r sk)
  have at' : coreOf (setCore s core (withBreak (coreOf s core) r sk)) core = withBreak (coreOf s core) r sk := coreOf_setCore_self s core _
  generalize setCore s core (withBreak (coreOf s core) r sk) = u at run only at'
  have skeins : (coreOf u core).skeins = (coreOf s core).skeins := (congrArg Core.skeins at' :)
  obtain ⟨spills, breaks⟩ := evictLosers_orders core u
  rw [at'] at spills breaks
  refine ⟨_, run, ?_, breaks, spills, fun k v w hv => ?_⟩
  · rw [(only.trans (onlyCore_evictLosers core u)).1]
  · have loses := evictLosers_loses (s := u) (k := k) (v := v) (skeins ▸ nodup) (skeins ▸ ((all k v).1 ⟨w, hv⟩).1)
    rw [at'] at loses
    rw [granulesFrom_eq (lowest k v w hv)]
    exact loses

end

/-- Settles O48, event by event: the head request is granted or its spills are ordered, a break orders its victims and evicts those that lose a position of
their windows, and a granule's registers go to the slices and come back. -/
theorem registerPool : Obligations.RegisterPool := by
  unfold Obligations.RegisterPool
  intro core s c same lowest below within
  refine ⟨fun r head => ⟨fun sk low filled here path low' => ⟨fun covers nodup => ?_, fun short => ?_⟩, ?_, ?_⟩, ?_, ?_⟩
  · exact registerRequestGrant_covered head filled here path covers nodup
  · obtain rfl := IsLowest.eq_lowWindow low'
    exact registerRequestGrant_short head filled here path short
  · intro sk low vs due nodup slots here low' lows _ all order
    exact registerDeadlockBreak_breaks nodup lows all head due slots here low' order rfl
  · exact headRequestTimeout_times_out head
  · intro slot g rest sk first here held resident
    exact ⟨fun sent idle calm => granuleSpillComplete_frees here held resident first calm sent idle,
      fun v unsent calm settled quiet writes => granuleSpillComplete_sends here held resident first calm unsent settled quiet writes⟩
  · intro k sk g bs v calm free next here highest reads
    obtain ⟨mem, fills, skein⟩ := fillGranule_state here reads
    exact ⟨_, _, granuleRefill_eq calm free next highest, mem, fills, skein, rfl, vget_withGranule g bs sk⟩

end Sys2Proof.Machine
end

section
/-! PROOFS. Bytes of a line: those that a merge, a mask and a number of bytes give, and lists of lines without repeats (for O29, O30, O31, O32, O39). -/

namespace Sys2Proof.Machine

/-! Bits and bytes of a line. -/

theorem getLsbD_lineByte (d : LineData) (b i : Nat) : (lineByte d b).getLsbD i = (decide (i < 8) && d.getLsbD (8 * b + i)) := by
  simp [lineByte, BitVec.getLsbD_extractLsb']

/-- A merge takes the masked bytes from the new line and the others from the old one. -/
theorem lineByte_mergeLine (old new : LineData) (m : LMask) (b : Nat) :
    lineByte (mergeLine old m new) b = if m.getLsbD b then lineByte new b else lineByte old b := by
  refine BitVec.eq_of_getLsbD_eq fun i hi => ?_
  have place : (8 * b + i) / 8 = b := by omega
  by_cases inside : 8 * b + i < 1024
  · simp only [apply_ite (fun z : Byte => z.getLsbD i), getLsbD_lineByte, mergeLine, byteMask, BitVec.getLsbD_or, BitVec.getLsbD_and, BitVec.getLsbD_not, getLsbD_bitsOf,
      place, inside, decide_true, Bool.true_and]
    cases m.getLsbD b <;> simp
  · have beyond (d : LineData) : d.getLsbD (8 * b + i) = false := BitVec.getLsbD_of_ge d _ (Nat.le_of_not_lt inside)
    simp only [apply_ite (fun z : Byte => z.getLsbD i), getLsbD_lineByte, beyond, ite_self]

theorem getLsbD_maskBytes (b n i : Nat) : (maskBytes b n).getLsbD i = decide (i < 128 ∧ b ≤ i ∧ i < b + n) := by
  rw [maskBytes, BitVec.getLsbD_ofNat, Nat.testBit_mul_two_pow, Nat.testBit_two_pow_sub_one]
  rw [Bool.eq_iff_iff]
  simp only [Bool.and_eq_true, decide_eq_true_eq]
  omega

theorem within_iff (a b : LMask) : within a b = true ↔ ∀ i, a.getLsbD i = true → b.getLsbD i = true := by
  rw [within, decide_eq_true_eq]
  refine ⟨fun h i hi => ?_, fun h => BitVec.eq_of_getLsbD_eq fun i lt => ?_⟩
  · have at' := congrArg (fun m : LMask => m.getLsbD i) h
    have lt : i < 128 := BitVec.lt_of_getLsbD hi
    simpa [hi, lt] using at'
  · have := h i
    cases ha : a.getLsbD i <;> simp_all

/-- The mask of the bytes that some of a list of accesses need. -/
theorem getLsbD_foldl_or {α : Type} (f : α → LMask) (i : Nat) (l : List α) : ∀ m : LMask,
    (l.foldl (fun m e => m ||| f e) m).getLsbD i = true ↔ m.getLsbD i = true ∨ ∃ e ∈ l, (f e).getLsbD i = true := by
  induction l with
  | nil => simp
  | cons a r ih =>
    intro m
    rw [List.foldl_cons, ih]
    simp [or_assoc]

/-! Numbers of bytes. -/

theorem testBit_leNat (bs : List Byte) : ∀ j i, i < 8 → (leNat bs).testBit (8 * j + i) = (bs.getD j 0).getLsbD i := by
  induction bs with
  | nil => simp [leNat]
  | cons b r ih =>
    intro j i hi
    have low : b.toNat < 2 ^ 8 := b.isLt
    rw [leNat, show 256 * leNat r = 2 ^ 8 * leNat r from rfl, Nat.add_comm, Nat.testBit_two_pow_mul_add _ low]
    cases j with
    | zero => simp [hi, BitVec.testBit_toNat]
    | succ j =>
      rw [if_neg (by omega), show 8 * (j + 1) + i - 8 = 8 * j + i by omega, ih j i hi]
      simp

/-- A line made of bytes from a place holds them there. -/
theorem lineByte_lineOf (b : Nat) (bs : List Byte) (j : Nat) (h : b + j < 128) : lineByte (lineOf b bs) (b + j) = bs.getD j 0 := by
  refine BitVec.eq_of_getLsbD_eq fun i hi => ?_
  rw [getLsbD_lineByte, lineOf, BitVec.getLsbD_ofNat, Nat.testBit_mul_two_pow, show 8 * (b + j) + i - 8 * b = 8 * j + i by omega, testBit_leNat bs j i hi]
  simp [hi, show 8 * (b + j) + i < 1024 by omega, show 8 * b ≤ 8 * (b + j) + i by omega]

/-! Lists of lines. -/

theorem nodup_dedup {α : Type} [DecidableEq α] (l : List α) : (dedup l).Nodup := by
  have gen : ∀ (l acc : List α), acc.Nodup → (l.foldl (fun acc b => if b ∈ acc then acc else acc ++ [b]) acc).Nodup := by
    intro l
    induction l with
    | nil => exact fun _ h => h
    | cons b r ih =>
      intro acc h
      rw [List.foldl_cons]
      refine ih _ ?_
      split
      · exact h
      · rename_i new
        exact List.nodup_append.2 ⟨h, List.nodup_singleton b, fun a ha c hc eq => new (by rw [List.mem_singleton.1 hc] at eq; exact eq ▸ ha)⟩
  exact gen l [] .nil

theorem findIdx?_of_mem {α : Type} [DecidableEq α] {l : List α} {a : α} (h : a ∈ l) : ∃ i, findIdx? (fun b => decide (b = a)) l = some i ∧ l[i]? = some a := by
  induction l with
  | nil => cases h
  | cons b r ih =>
    by_cases eq : b = a
    · exact ⟨0, by simp [findIdx?, eq], by simp [eq]⟩
    · obtain ⟨i, found, place⟩ := ih ((List.mem_cons.1 h).resolve_left fun e => eq e.symm)
      exact ⟨i + 1, by simp [findIdx?, eq, found], by simpa using place⟩

end Sys2Proof.Machine
end

section
/-! PROOFS. An access that passes its checks goes on at once (R219; for O29, O30, O32). -/

namespace Sys2Proof.Machine

theorem laneWith_none {p : Nat → Bool} {l : List (Nat × Nat)} (h : ∀ e ∈ l, p e.2 = false) (code : Nat) : laneWith p code l = none := by
  rw [laneWith, List.filter_eq_nil_iff.2 fun e he => by simp [h e he]]
  rfl

/-- Where no watchpoint matches an access, it goes on (R410). -/
theorem watchCheck_none {s : State} {x : Ctx} {reads writes : Bool} {size : Nat} {l : List (Nat × Nat)}
    (h : ∀ i, i < 8 → watchLane s x reads writes size i l = none) : watchCheck s x reads writes size l = (none, s) := by
  have hits : (List.range 8).filterMap (fun i => (watchLane s x reads writes size i l).map (fun e => (i, e))) = [] :=
    List.filterMap_eq_nil_iff.2 fun i hi => by rw [h i (List.mem_range.1 hi)]; rfl
  unfold watchCheck
  split
  · rfl
  · simp only [hits]
    rfl

/-- Watchpoints look at the device, the bolt and its launch alone. -/
theorem watchLane_congr {s t : State} (dev : t.dev = s.dev) (grids : t.grids = s.grids) {x : Ctx} (bolt : boltOf t x.core x.sk.bolt = boltOf s x.core x.sk.bolt)
    (reads writes : Bool) (size i : Nat) (l : List (Nat × Nat)) : watchLane t x reads writes size i l = watchLane s x reads writes size i l := by
  have launch : x.launch t = x.launch s := by simp only [Ctx.launch, launchOf, gridOf, bolt, grids]
  simp only [watchLane, watchHits, dev, bolt, launch]

theorem tlbUse_found {s : State} {core die ctx va : Nat} {p : TlbEntry} (h : tlbFind (coreOf s core).tlb ctx va = some p) : tlbUse s (some core) die ctx va = s := by
  have h' : tlbFind (NMap.getD s.cores core {}).tlb ctx va = some p := h
  simp only [tlbUse, h']

/-- What the translation cache of the core holds for an address is what a skein is given. -/
theorem tlbResult_found {s : State} {core die ctx va : Nat} {p : TlbEntry} (a : Agent) (kind : WalkKind) (h : tlbFind (coreOf s core).tlb ctx va = some p) :
    tlbResult s a (some core) die ctx va kind = some (tlbAccess p va kind) := by
  have h' : tlbFind (NMap.getD s.cores core {}).tlb ctx va = some p := h
  simp only [tlbResult, tlbLook, Option.bind_some, h']
  rfl

theorem useCheck_congr {s t : State} (dev : t.dev = s.dev) (die : Nat) (y : Xl) (u : Use) : useCheck t die y u = useCheck s die y u := by
  have present (z : Nat) : regionPresent t z = regionPresent s z := by simp only [regionPresent, dev]
  simp only [useCheck, present]

theorem firstFault_ok (p : Nat → Bool) (xs : Passed) : firstFault p (xs.map (fun e => (e.1, e.2.1, .ok e.2.2))) = none := by
  rw [firstFault, List.filter_eq_nil_iff.2 fun e he => by
    obtain ⟨z, -, rfl⟩ := List.mem_map.1 he
    simp]
  rfl

theorem foldl_fixed {α β : Type} {f : β → α → β} {b : β} {l : List α} (h : ∀ a ∈ l, f b a = b) : l.foldl f b = b := by
  induction l with
  | nil => rfl
  | cons a r ih =>
    rw [List.foldl_cons, h a (.head _)]
    exact ih fun c hc => h c (.tail _ hc)

/-- R219: an access that passes its checks, whose instruction can begin and which no watchpoint matches, goes on with its translations. -/
theorem memAccess_goes {x : Ctx} {c : Ctl} {k : Access} {bases acc : List (Nat × Nat)} {s u : State} {xs : Passed} {room : Passed → State → Room × State}
    (h : Accesses x c k bases acc s xs) (ready : room xs (clearWalkFaults s x.core x.slot) = (.ready, u))
    (watch : ∀ i, i < 8 → watchLane u x k.reads k.writes k.size i acc = none) (go : Passed → State → State) : memAccess x c k bases acc room go s = go xs u := by
  obtain ⟨free, flag, canon, aligned, lanes, held, -⟩ := h
  have noCanon : laneWith (fun a => !canonical a) tcNonCanonical (bases ++ acc) = none := laneWith_none (fun e he => by simp [canon e he]) _
  have noAlign : laneWith (fun a => decide (a % k.align ≠ 0)) 0x19 bases = none := laneWith_none (fun e he => by simp [aligned e he]) _
  have found : acc.map (fun e => (e.1, e.2, lookupVa s x.core x.slot (x.launch s).ctx (va57 e.2) k.kind)) =
      xs.map (fun e => (e.1, e.2.1, lookupVa s x.core x.slot (x.launch s).ctx (va57 e.2.1) k.kind)) := by
    rw [← lanes, List.map_map]
    rfl
  have given : ∀ e ∈ xs, ∃ y, lookupVa s x.core x.slot (x.launch s).ctx (va57 e.2.1) k.kind = some (.ok y) ∧ useCheck s x.die y k.use = .ok e.2.2 := by
    intro e he
    obtain ⟨p, y, hp, hy, hu⟩ := held e he
    exact ⟨y, by rw [lookupVa, tlbResult_found _ _ hp, hy], hu⟩
  have walked : (xs.map (fun e => (e.1, e.2.1, lookupVa s x.core x.slot (x.launch s).ctx (va57 e.2.1) k.kind))).find? (fun e => e.2.2.isNone) = none := by
    refine List.find?_eq_none.2 fun e he => ?_
    obtain ⟨z, hz, rfl⟩ := List.mem_map.1 he
    obtain ⟨y, hy, -⟩ := given z hz
    simp [hy]
  have used : acc.foldl (fun u e => tlbUse u (some x.core) x.die (x.launch s).ctx (va57 e.2)) (clearWalkFaults s x.core x.slot) = clearWalkFaults s x.core x.slot := by
    refine foldl_fixed fun e he => ?_
    obtain ⟨z, hz, rfl⟩ := List.mem_map.1 (lanes ▸ he)
    obtain ⟨p, -, hp, -⟩ := held z hz
    exact tlbUse_found (p := p) hp
  unfold memAccess
  rw [if_neg (by simp [free])]
  dsimp only
  rw [noCanon]
  dsimp only
  rw [noAlign]
  dsimp only
  rw [found, walked]
  dsimp only
  rw [used, List.map_map, List.map_congr_left (l := xs) (g := fun e => (e.1, e.2.1, .ok e.2.2)) fun e he => by
    obtain ⟨y, hy, hu⟩ := given e he
    simp only [Function.comp_apply, hy, useCheck_congr (s := s) (t := clearWalkFaults s x.core x.slot) rfl, hu]]
  rw [firstFault_ok, firstFault_ok, List.filterMap_map, List.filterMap_congr (l := xs) (g := some) fun _ _ => by rfl, List.filterMap_some]
  simp only [Option.or_none]
  rw [if_neg (by simp [flag]), ready]
  dsimp only
  rw [watchCheck_none watch]

/-- Forgetting the walk faults of a skein changes nothing that watchpoints look at. -/
theorem watchLane_clearWalkFaults (s : State) (x : Ctx) (core slot : Nat) (reads writes : Bool) (size i : Nat) (l : List (Nat × Nat)) :
    watchLane (clearWalkFaults s core slot) x reads writes size i l = watchLane s x reads writes size i l :=
  watchLane_congr rfl rfl rfl reads writes size i l

theorem Accesses.unwatched {x : Ctx} {c : Ctl} {k : Access} {bases acc : List (Nat × Nat)} {s : State} {xs : Passed} (h : Accesses x c k bases acc s xs) :
    ∀ i, i < 8 → watchLane s x k.reads k.writes k.size i acc = none := by
  obtain ⟨-, -, -, -, -, -, watch⟩ := h
  exact watch

/-- An access that asks for room alone. -/
theorem memAccess_room {x : Ctx} {c : Ctl} {k : Access} {bases acc : List (Nat × Nat)} {s : State} {xs : Passed} {p : Passed → State → Bool}
    (h : Accesses x c k bases acc s xs) (room : p xs (clearWalkFaults s x.core x.slot) = true) (go : Passed → State → State) :
    memAccess x c k bases acc (gateIf p) go s = go xs (clearWalkFaults s x.core x.slot) :=
  memAccess_goes h (by simp [gateIf, room]) (fun i hi => by rw [watchLane_clearWalkFaults]; exact h.unwatched i hi) go

end Sys2Proof.Machine
end

section
/-! PROOFS. LD, LDB and LDK begin their loads (O29). -/

namespace Sys2Proof.Machine

/-! Where a load finds its bytes (R216). -/

/-- One entry of a store queue adds its bytes of a line to those of the older entries. -/
def sqTurn (line : Nat) (a : LMask × LineData) (e : SqEntry) : LMask × LineData := if e.line = line then (a.1 ||| e.mask, mergeLine a.2 e.mask e.data) else a

theorem sqBytes_eq (q : List SqEntry) (line : Nat) : sqBytes q line = q.foldl (sqTurn line) (0, 0) := rfl

theorem getLsbD_foldl_sqTurn (line b : Nat) (q : List SqEntry) : ∀ a, (q.foldl (sqTurn line) a).1.getLsbD b = true ↔
    a.1.getLsbD b = true ∨ ∃ e ∈ q, e.line = line ∧ e.mask.getLsbD b = true := by
  induction q with
  | nil => simp
  | cons e r ih =>
    intro a
    rw [List.foldl_cons, ih]
    by_cases here : e.line = line <;> simp [sqTurn, here, or_assoc]

theorem lineByte_foldl_sqTurn (line b : Nat) (q : List SqEntry) (none' : ∀ e ∈ q, e.line = line → e.mask.getLsbD b = false) :
    ∀ a, lineByte (q.foldl (sqTurn line) a).2 b = lineByte a.2 b := by
  induction q with
  | nil => exact fun _ => rfl
  | cons e r ih =>
    intro a
    rw [List.foldl_cons, ih fun f hf => none' f (.tail _ hf)]
    by_cases here : e.line = line
    · simp [sqTurn, here, lineByte_mergeLine, none' e (.head _) here]
    · simp [sqTurn, here]

theorem getLsbD_sqBytes (q : List SqEntry) (line b : Nat) : (sqBytes q line).1.getLsbD b = true ↔ ∃ e ∈ q, e.line = line ∧ e.mask.getLsbD b = true := by
  rw [sqBytes_eq, getLsbD_foldl_sqTurn]
  simp

/-- The youngest entry that lists a byte gives it. -/
theorem lineByte_sqBytes {q r : List SqEntry} {e : SqEntry} {line b : Nat} (here : e.line = line) (lists : e.mask.getLsbD b = true)
    (youngest : ∀ f ∈ r, f.line = line → f.mask.getLsbD b = false) : lineByte (sqBytes (q ++ e :: r) line).2 b = lineByte e.data b := by
  rw [sqBytes_eq, List.foldl_append, List.foldl_cons, lineByte_foldl_sqTurn line b r youngest]
  simp [sqTurn, here, lineByte_mergeLine, lists]

/-- A part of a load with the bytes that the core holds of its line. -/
theorem foundInCore {s : State} {x : Ctx} {l1 : Bool} {p : LoadPart} {line : Nat} (at' : p.line = line) (found : (p.found, p.data) = foundBytes s x.core x.sk line (!l1))
    (strong : p.strong = strongBytes s x.core x.sk line) : FoundInCore s x l1 p := by
  obtain ⟨hf, hd⟩ := Prod.mk.inj found
  subst at'
  unfold FoundInCore
  rw [hf, hd, strong]
  simp only [strongBytes]
  cases hz : NMap.get? (coreOf s x.core).l1 p.line with
  | none =>
    refine ⟨fun b _ => ?_, fun b _ => ?_, fun q e r b hq _ => ?_, by simp⟩
    · simp [getLsbD_sqBytes]
    · simp [getLsbD_sqBytes]
    · intro here lists youngest
      rw [hq]
      exact lineByte_sqBytes here lists youngest
  | some z =>
    have own : (if (!l1) = true then z.dirty else z.valid) = if l1 = true then z.valid else z.dirty := by cases l1 <;> rfl
    simp only [own]
    refine ⟨fun b _ => ?_, fun b _ => ?_, fun q e r b hq _ => ?_, fun z' b eq _ => ?_⟩
    · simp [getLsbD_sqBytes]
    · simp [getLsbD_sqBytes]
    · intro here lists youngest
      have queued : (sqBytes x.sk.sq p.line).1.getLsbD b = true := (getLsbD_sqBytes _ _ _).2 ⟨e, by simp [hq], here, lists⟩
      rw [lineByte_mergeLine, if_pos queued, hq]
      exact lineByte_sqBytes here lists youngest
    · intro free held
      obtain rfl := Option.some.inj eq
      rw [lineByte_mergeLine, if_neg fun h => free ((getLsbD_sqBytes _ _ _).1 h), lineByte_mergeLine, if_pos held]

/-! The parts of a load (R216, R217). -/

/-- A part of a load that has begun, as LoadBegun describes it: `reqs` are the requests sent, `k` is its place. -/
def PartBegun (s : State) (x : Ctx) (op : Nat) (sc : Scope) (cp : CPol) (n : Nat) (xs : Passed) (reqs : List Req) (k : Nat) (p : LoadPart) : Prop :=
  p.arrived = false ∧ ∃ e ∈ xs, e.2.2.pa / 128 = p.line ∧
    ((∀ o, regionOf e.2.2.pa ≠ .regs o) → FoundInCore s x (usesL1 sc cp e.2.2) p ∧
      ((∀ b, b < 128 → Needs xs n p.line b → p.found.getLsbD b = true) → p.req = none) ∧
      ((∃ b, b < 128 ∧ Needs xs n p.line b ∧ p.found.getLsbD b = false) → p.allocate = usesL1 sc cp e.2.2 ∧
        ∃ r ∈ reqs, p.req = some r.id ∧ r.who = .load x.core x.slot op k ∧ r.line = p.line ∧ r.stage = .port ∧ r.port = portOf x.core ∧ r.policy = slicePol cp e.2.2 ∧
          ∃ need, r.kind = .read need ∧ ∀ b, b < 128 → (need.getLsbD b = true ↔ Needs xs n p.line b)))

theorem PartBegun.more {s : State} {x : Ctx} {op : Nat} {sc : Scope} {cp : CPol} {n : Nat} {xs : Passed} {reqs more : List Req} {k : Nat} {p : LoadPart}
    (h : PartBegun s x op sc cp n xs reqs k p) (sub : ∀ r ∈ reqs, r ∈ more) : PartBegun s x op sc cp n xs more k p := by
  obtain ⟨fresh, e, he, line, begun⟩ := h
  refine ⟨fresh, e, he, line, fun mem => ?_⟩
  obtain ⟨found, enough, lacks⟩ := begun mem
  refine ⟨found, enough, fun lack => ?_⟩
  obtain ⟨fills, r, hr, rest⟩ := lacks lack
  exact ⟨fills, r, sub r hr, rest⟩

/-- The bytes that the accesses to a line need. -/
def needMask (xs : Passed) (n line : Nat) : LMask := (xs.filter (fun e => e.2.2.pa / 128 = line)).foldl (fun m e => m ||| maskBytes (e.2.2.pa % 128) n) 0

theorem getLsbD_needMask (xs : Passed) (n line b : Nat) (hb : b < 128) : (needMask xs n line).getLsbD b = true ↔ Needs xs n line b := by
  rw [needMask, getLsbD_foldl_or]
  simp only [getLsbD_maskBytes, Needs, BitVec.ofNat_eq_ofNat, BitVec.getLsbD_zero, Bool.false_eq_true, false_or, List.mem_filter, decide_eq_true_eq, hb, true_and, and_assoc]

theorem within_needMask (xs : Passed) (n line : Nat) (m : LMask) :
    within (needMask xs n line) m = true ↔ ∀ b, b < 128 → Needs xs n line b → m.getLsbD b = true := by
  rw [within_iff]
  refine ⟨fun h b hb need => h b ((getLsbD_needMask xs n line b hb).2 need), fun h b hb => ?_⟩
  have lt : b < 128 := BitVec.lt_of_getLsbD hb
  exact h b lt ((getLsbD_needMask xs n line b lt).1 hb)

/-- The part of a load for a line that some access touches: the requests sent for it are its own. -/
theorem loadPart_begun {s u : State} (cores : u.cores = s.cores) (x : Ctx) (op : Nat) (sc : Scope) (cp : CPol) (n : Nat) (xs : Passed) (k : Nat) {line : Nat}
    (touched : ∃ e ∈ xs, e.2.2.pa / 128 = line) :
    ∃ p new next, loadPart x op sc cp n xs u k line = (p, { u with reqs := u.reqs ++ new, nextId := next }) ∧ u.nextId ≤ next ∧ p.line = line ∧
      PartBegun s x op sc cp n xs new k p ∧ ∀ r ∈ new, p.req = some r.id ∧ r.who = .load x.core x.slot op k := by
  obtain ⟨e, mine, hmine⟩ : ∃ e mine, xs.filter (fun e => e.2.2.pa / 128 = line) = e :: mine := by
    obtain ⟨e, he, hl⟩ := touched
    refine List.exists_cons_of_ne_nil fun none' => ?_
    have : e ∈ xs.filter (fun e => e.2.2.pa / 128 = line) := List.mem_filter.2 ⟨he, by simp [hl]⟩
    simp [none'] at this
  have he : e ∈ xs ∧ e.2.2.pa / 128 = line := by
    have : e ∈ xs.filter (fun e => e.2.2.pa / 128 = line) := hmine ▸ .head _
    simpa using this
  have head : (xs.filter (fun e => e.2.2.pa / 128 = line)).headD (0, 0, ⟨0, 0⟩) = e := by rw [hmine]; rfl
  have same (only : Bool) : foundBytes u x.core x.sk line only = foundBytes s x.core x.sk line only := by simp only [foundBytes, coreOf, cores]
  have sameStrong : strongBytes u x.core x.sk line = strongBytes s x.core x.sk line := by simp only [strongBytes, coreOf, cores]
  unfold loadPart
  dsimp only
  rw [head, same, sameStrong]
  by_cases enough : within ((xs.filter (fun e => e.2.2.pa / 128 = line)).foldl (fun m e => m ||| maskBytes (e.2.2.pa % 128) n) 0)
      (foundBytes s x.core x.sk line (!usesL1 sc cp e.2.2)).1 = true
  · rw [if_pos enough]
    refine ⟨_, [], u.nextId, by rw [List.append_nil], le_rfl, rfl, ⟨rfl, e, he.1, he.2, fun _ => ⟨foundInCore rfl rfl rfl, fun _ => rfl, ?_⟩⟩, by simp⟩
    rintro ⟨b, hb, need, lack⟩
    rw [(within_needMask xs n line _).1 enough b hb need] at lack
    cases lack
  · rw [if_neg enough]
    split
    · rename_i off region
      exact ⟨_, [], u.nextId, by rw [List.append_nil], le_rfl, rfl, ⟨rfl, e, he.1, he.2, fun mem => absurd region (mem off)⟩, by simp⟩
    · refine ⟨_, [_], u.nextId + 1, rfl, Nat.le_succ _, rfl, ⟨rfl, e, he.1, he.2, fun _ => ⟨foundInCore rfl rfl rfl, fun all => ?_, fun _ => ?_⟩⟩, ?_⟩
      · exact absurd ((within_needMask xs n line _).2 all) enough
      · exact ⟨rfl, _, .head _, rfl, rfl, rfl, rfl, rfl, rfl, _, rfl, fun b hb => getLsbD_needMask xs n line b hb⟩
      · rintro r hr
        rw [List.mem_singleton.1 hr]
        exact ⟨rfl, rfl⟩

/-- One line more of a load that begins. -/
def loadTurn (x : Ctx) (op : Nat) (sc : Scope) (cp : CPol) (n : Nat) (xs : Passed) (a : List LoadPart × State) (e : Nat × Nat) : List LoadPart × State :=
  (a.1 ++ [(loadPart x op sc cp n xs a.2 e.2 e.1).1], (loadPart x op sc cp n xs a.2 e.2 e.1).2)

/-- The parts of a load, one for each line, and the requests sent for them: `a` holds the parts of the lines before. -/
theorem loadParts_begun {s : State} {x : Ctx} {op : Nat} {sc : Scope} {cp : CPol} {n : Nat} {xs : Passed} (lines : List Nat) :
    ∀ {a : List LoadPart × State}, a.2.cores = s.cores → (∀ line ∈ lines, ∃ e ∈ xs, e.2.2.pa / 128 = line) →
    ∃ parts new next, (lines.zip (List.range' a.1.length lines.length)).foldl (loadTurn x op sc cp n xs) a =
        (a.1 ++ parts, { a.2 with reqs := a.2.reqs ++ new, nextId := next }) ∧ a.2.nextId ≤ next ∧ parts.map LoadPart.line = lines ∧
      (∀ k p, parts[k]? = some p → PartBegun s x op sc cp n xs new (a.1.length + k) p) ∧
      ∀ r ∈ new, ∃ k p, parts[k]? = some p ∧ p.req = some r.id ∧ r.who = .load x.core x.slot op (a.1.length + k) := by
  induction lines with
  | nil => exact fun {a} _ _ => ⟨[], [], a.2.nextId, by simp, le_rfl, rfl, by simp, by simp⟩
  | cons line rest ih =>
    intro a cores touched
    obtain ⟨p, mine, next, part, later, atLine, begun, own⟩ := loadPart_begun cores x op sc cp n xs a.1.length (touched line (.head _))
    obtain ⟨parts, new, next', fold, later', atLines, begun', own'⟩ :=
      ih (a := (a.1 ++ [p], { a.2 with reqs := a.2.reqs ++ mine, nextId := next })) cores fun l hl => touched l (.tail _ hl)
    have turn : loadTurn x op sc cp n xs a (line, a.1.length) = (a.1 ++ [p], { a.2 with reqs := a.2.reqs ++ mine, nextId := next }) := by
      rw [loadTurn, part]
    refine ⟨p :: parts, mine ++ new, next', ?_, later.trans later', by rw [List.map_cons, atLine, atLines], fun k q hq => ?_, fun r hr => ?_⟩
    · rw [List.length_cons, List.range'_succ, List.zip_cons_cons, List.foldl_cons, turn]
      rw [List.length_append] at fold
      refine fold.trans ?_
      simp only [List.append_assoc, List.singleton_append]
    · cases k with
      | zero =>
        obtain rfl := Option.some.inj hq
        exact begun.more fun r hr => List.mem_append_left _ hr
      | succ k =>
        have place := (begun' k q hq).more (more := mine ++ new) fun r hr => List.mem_append_right _ hr
        rwa [List.length_append, List.length_singleton, Nat.add_assoc, Nat.add_comm 1 k] at place
    · rcases List.mem_append.1 hr with hm | hn
      · exact ⟨0, p, rfl, own r hm⟩
      · obtain ⟨k, q, hq, req, who⟩ := own' r hn
        refine ⟨k + 1, q, hq, req, ?_⟩
        rw [who, List.length_append, List.length_singleton, Nat.add_assoc, Nat.add_comm 1 k]

/-! The elements of a load. -/

/-- The lines that a load touches, each once. -/
def loadLines (xs : Passed) : List Nat := dedup ((sortBy (fun e => e.1) xs).map (fun e => e.2.2.pa / 128))

theorem mem_loadLines (xs : Passed) (line : Nat) : line ∈ loadLines xs ↔ ∃ e ∈ xs, e.2.2.pa / 128 = line := by
  rw [loadLines, mem_dedup, List.mem_map]
  simp only [(sortBy_spec (fun e : Nat × Nat × Xl => e.1) xs).1.mem_iff]

/-- The element that a load delivers for an access. -/
def loadElem (lane : Nat → Option Nat) (n : Nat) (grp : Nat → Nat) (xs : Passed) (parts : List LoadPart) (e : Nat × Nat × Xl) : LoadElem :=
  { lane := lane e.1, part := (findIdx? (fun l => decide (l = e.2.2.pa / 128)) (loadLines xs)).getD 0, off := e.2.2.pa % 128, whole := wholeUnit parts n grp xs e }

/-- The part that an element names is the one of its line. -/
theorem loadElem_part {xs : Passed} {parts : List LoadPart} (lines : parts.map LoadPart.line = loadLines xs) (lane : Nat → Option Nat) (n : Nat) (grp : Nat → Nat)
    {e : Nat × Nat × Xl} (he : e ∈ xs) : ∃ p, parts[(loadElem lane n grp xs parts e).part]? = some p ∧ p.line = e.2.2.pa / 128 := by
  obtain ⟨i, found, place⟩ := findIdx?_of_mem ((mem_loadLines xs _).2 ⟨e, he, rfl⟩)
  rw [← lines, List.getElem?_map, Option.map_eq_some_iff] at place
  obtain ⟨p, hp, line⟩ := place
  exact ⟨p, by rw [loadElem, found]; exact hp, line⟩

/-- R242: a lane takes all its bytes of a unit from the core when the parts found there hold what its access needs of the unit. -/
theorem wholeUnit_iff {xs : Passed} {parts : List LoadPart} (lines : parts.map LoadPart.line = loadLines xs) (n : Nat) (grp : Nat → Nat) (e : Nat × Nat × Xl) :
    wholeUnit parts n grp xs e = true ↔ ∀ z ∈ xs, grp z.1 = grp e.1 → z.2.2.pa / 16 = e.2.2.pa / 16 → ∀ p ∈ parts, p.line = z.2.2.pa / 128 →
      ∀ b, b < 128 → z.2.2.pa % 128 ≤ b → b < z.2.2.pa % 128 + n → p.found.getLsbD b = true := by
  have bytes (z : Nat × Nat × Xl) (p : LoadPart) : within (maskBytes (z.2.2.pa % 128) n) p.found = true ↔
      ∀ b, b < 128 → z.2.2.pa % 128 ≤ b → b < z.2.2.pa % 128 + n → p.found.getLsbD b = true := by
    simp only [within_iff, getLsbD_maskBytes, decide_eq_true_eq, and_imp]
  have nodup : (parts.map LoadPart.line).Nodup := lines ▸ nodup_dedup _
  have one (z : Nat × Nat × Xl) (hz : z ∈ xs) : (parts.find? (fun p => p.line = z.2.2.pa / 128)).any (fun p => within (maskBytes (z.2.2.pa % 128) n) p.found) = true ↔
      ∀ p ∈ parts, p.line = z.2.2.pa / 128 → within (maskBytes (z.2.2.pa % 128) n) p.found = true := by
    obtain ⟨p, hp, line⟩ : ∃ p ∈ parts, p.line = z.2.2.pa / 128 := by
      have : z.2.2.pa / 128 ∈ parts.map LoadPart.line := lines ▸ (mem_loadLines xs _).2 ⟨z, hz, rfl⟩
      exact List.mem_map.1 this
    have only : ∀ q ∈ parts, q.line = z.2.2.pa / 128 → q = p := fun q hq eq => List.inj_on_of_nodup_map nodup hq hp (eq.trans line.symm)
    cases found : parts.find? (fun p => p.line = z.2.2.pa / 128) with
    | none => exact absurd line (by simpa using List.find?_eq_none.1 found p hp)
    | some q =>
      obtain rfl := only q (List.mem_of_find?_eq_some found) (by simpa using List.find?_some found)
      exact ⟨fun h r hr eq => only r hr eq ▸ h, fun h => h q hp line⟩
  rw [wholeUnit, List.all_eq_true]
  refine forall₂_congr fun z hz => ?_
  simp only [Bool.or_eq_true, one z hz, bytes, decide_eq_true_eq]
  by_cases access : grp z.1 = grp e.1 <;> by_cases unit : z.2.2.pa / 16 = e.2.2.pa / 16 <;> simp [access, unit]

/-! The beginning of a load. -/

theorem retire_withNextId (x : Ctx) (s : State) (m : Nat) : retire x { s with nextId := m } = { retire x s with nextId := m } := by
  have same : skeinOf { s with nextId := m } x.core x.slot = skeinOf s x.core x.slot := rfl
  simp only [retire, onPath, updPath, updSkein, same]
  split <;> rfl

/-- Beginning an operation, then numbering on from `m`, and stepping past its instruction. -/
theorem retire_beginOp_numbered {x : Ctx} {v : State} (c : Ctl) (h : skeinOf v x.core x.slot = some x.sk) (o : Op) (m : Nat) :
    retire x { (beginOp x c o v).2 with nextId := m } =
      { setSkein v x.core x.slot (skeinBegun x c v.nextId { o with path := x.path, fromStitch := x.inWord }) with nextId := m } := by
  rw [retire_withNextId, retire_beginOp c h]

theorem beginOp_nextId (x : Ctx) (c : Ctl) (o : Op) (v : State) : (beginOp x c o v).2.nextId = v.nextId + 1 := onSkein_nextId _ _ _

/-- The operation of a load with its parts. -/
def loadOp (x : Ctx) (dst : List RegRef) (lane : Nat → Option Nat) (n : Nat) (signed : Bool) (grp : Nat → Nat) (xs : Passed) (parts : List LoadPart) : Op :=
  { cls := .memory, path := x.path, isLoad := true, device := isDevice xs, pend := dst
    body := .load parts ((xs.filter (fun e => (lane e.1).isSome || decide (e.1 = oneOf x))).map (loadElem lane n grp xs parts)) n signed dst }

theorem beginLoad_eq (x : Ctx) (c : Ctl) (sc : Scope) (cp : CPol) (n : Nat) (signed : Bool) (dst : List RegRef) (lane : Nat → Option Nat) (grp : Nat → Nat) (xs : Passed)
    (u : State) : beginLoad x c sc cp n signed dst lane grp xs u =
      let r := ((loadLines xs).zip (List.range (loadLines xs).length)).foldl (loadTurn x u.nextId sc cp n xs) ([], { u with nextId := u.nextId + 1 })
      let v := (beginOp x c (loadOp x dst lane n signed grp xs r.1) { r.2 with nextId := u.nextId }).2
      retire x { v with nextId := max r.2.nextId v.nextId } := rfl

/-- A load that has passed its checks has begun. -/
theorem beginLoad_begun {i : Instr} {c : Ctl} {x : Ctx} {s : State} (here : skeinOf s x.core x.slot = some x.sk) {dst : List RegRef} {lane : Nat → Option Nat} {n : Nat}
    {signed : Bool} {sc : Scope} {cp : CPol} {grp : Nat → Nat} {xs : Passed}
    (runs : exec i s = .next (beginLoad x c sc cp n signed dst lane grp xs (clearWalkFaults s x.core x.slot))) :
    LoadBegun i c x s dst lane n signed sc cp grp xs := by
  obtain ⟨parts, new, next, fold, later, lines, begun, own⟩ := loadParts_begun (s := s) (x := x) (op := s.nextId) (sc := sc) (cp := cp) (n := n) (loadLines xs)
    (a := ([], { clearWalkFaults s x.core x.slot with nextId := s.nextId + 1 })) rfl fun line => (mem_loadLines xs line).1
  have folded : ((loadLines xs).zip (List.range (loadLines xs).length)).foldl (loadTurn x (clearWalkFaults s x.core x.slot).nextId sc cp n xs)
      ([], { clearWalkFaults s x.core x.slot with nextId := (clearWalkFaults s x.core x.slot).nextId + 1 }) =
      (parts, { clearWalkFaults s x.core x.slot with reqs := (clearWalkFaults s x.core x.slot).reqs ++ new, nextId := next }) := by
    rw [List.range_eq_range']
    exact fold
  have place (e : Nat × Nat × Xl) (he : e ∈ xs) := loadElem_part lines lane n grp he
  refine ⟨parts, (xs.filter (fun e => (lane e.1).isSome || decide (e.1 = oneOf x))).map (loadElem lane n grp xs parts), new, next, ?_, later,
    fun e he kept => ?_, fun el hel => ?_, lines ▸ nodup_dedup _, fun line => ?_, fun r hr => ?_, fun k p hp => ?_⟩
  · rw [runs, beginLoad_eq, folded]
    dsimp only
    rw [retire_beginOp_numbered c (by exact here), beginOp_nextId, max_eq_left (by exact later)]
    rfl
  · exact ⟨_, List.mem_map.2 ⟨e, List.mem_filter.2 ⟨he, by simpa using kept⟩, rfl⟩, rfl, rfl, place e he⟩
  · obtain ⟨e, kept, rfl⟩ := List.mem_map.1 hel
    obtain ⟨he, kept⟩ := List.mem_filter.1 kept
    exact ⟨e, he, by simpa using kept, rfl, rfl, place e he, wholeUnit_iff lines n grp e⟩
  · rw [← List.mem_map, lines]
    exact mem_loadLines xs line
  · obtain ⟨k, p, hp, req, who⟩ := own r hr
    exact ⟨k, p, hp, req, by rw [who, List.length_nil, Nat.zero_add]⟩
  · have part := begun k p hp
    rw [List.length_nil, Nat.zero_add] at part
    exact part

/-! The three instructions. -/

section
variable {c : Ctl} {xs : Passed} {s : State} {x : Ctx}

theorem ld_begins {d a : VK} {off : Word} {sz : ASize} {sc : Scope} {cp : CPol} (ready : Ready { activeMarks := true } (Instr.use (.ld c d a off sz sc cp)) c x s)
    (room : loadRoom (activeCtx x c) xs s = true) {acc : List (Nat × Nat)}
    (lanes : ∀ n, d = .v n → acc = laneEas (activeCtx x c) a off) (uniform : ∀ n, d = .k n → acc = oneEa (activeCtx x c) a off)
    (passes : Accesses (activeCtx x c) c { kind := .read, use := .plain (sizeOf8 sz), size := sizeOf8 sz, align := sizeOf8 sz, rel := false, acq := true, reads := true, writes := false }
      acc acc s xs) :
    exec (.ld c d a off sz sc cp) s = .next (beginLoad (activeCtx x c) c sc cp (sizeOf8 sz) (sizeSigned sz) (dstRefs (activeCtx x c) d sz.regs) (dstLane d) id xs
      (clearWalkFaults s x.core x.slot)) := by
  rw [show exec (.ld c d a off sz sc cp) s = execLd c d a off sz sc cp s from rfl, execLd, issue_ready ready rfl]
  cases d with
  | v k =>
    obtain rfl := lanes k rfl
    exact congrArg Host.Outcome.next (memAccess_room (p := loadRoom (activeCtx x c)) passes room _)
  | k k =>
    obtain rfl := uniform k rfl
    exact congrArg Host.Outcome.next (memAccess_room (p := loadRoom (activeCtx x c)) passes room _)

theorem ldb_begins {d a : VK} {off : Word} {sc : Scope} {cp : CPol} (ready : Ready { activeMarks := true } (Instr.use (.ldb c d a off sc cp)) c x s)
    (room : loadRoom (activeCtx x c) xs s = true)
    (passes : Accesses (activeCtx x c) c { kind := .read, use := .other, size := 4, align := 16, rel := false, acq := true, reads := true, writes := false }
      (blockBases (activeCtx x c) a off) (blockWords (activeCtx x c) a off) s xs) :
    exec (.ldb c d a off sc cp) s = .next (beginLoad (activeCtx x c) c sc cp 4 false (dstRefs (activeCtx x c) d 1) (dstLane d) (· / 32) xs (clearWalkFaults s x.core x.slot)) := by
  rw [show exec (.ldb c d a off sc cp) s = execLdb c d a off sc cp s from rfl, execLdb, issue_ready ready rfl]
  exact congrArg Host.Outcome.next (memAccess_room (p := loadRoom (activeCtx x c)) passes room _)

theorem ldk_begins {d a n : Nat} {off : Word} {wide : Bool} {sc : Scope} {cp : CPol} (size : n = if wide then 8 else 4)
    (ready : Ready { guard := .coll, activeMarks := true } (Instr.use (.ldk c d a off wide sc cp)) c x s) (room : loadRoom (activeCtx x c) xs s = true)
    (passes : Accesses (activeCtx x c) c { kind := .read, use := .other, size := n, align := n, rel := false, acq := true, reads := true, writes := false }
      (oneEa (activeCtx x c) (.k a) off) (oneEa (activeCtx x c) (.k a) off) s xs) :
    exec (.ldk c d a off wide sc cp) s = .next (beginLoad (activeCtx x c) c sc cp n false (dstRefs (activeCtx x c) (.k d) (wideRegs wide)) (dstLane (.k d)) id xs
      (clearWalkFaults s x.core x.slot)) := by
  subst size
  rw [show exec (.ldk c d a off wide sc cp) s = execLdk c d a off wide sc cp s from rfl, execLdk, issue_ready ready rfl]
  exact congrArg Host.Outcome.next (memAccess_room (p := loadRoom (activeCtx x c)) passes room _)

end

/-- An active lane has a word in the block of its group (R224). -/
theorem mem_blockWords (x : Ctx) (a : VK) (off : Word) {l : Nat} (active : x.act.getLsbD l = true) :
    ∃ b, blockBase x a off (l / 32) = some b ∧ (l, (b.2 + 4 * (l % 32)) % 2 ^ 64) ∈ blockWords x a off := by
  have mem : l ∈ lanesOf x.act := (mem_lanesOf _ _).2 active
  obtain ⟨first, found⟩ : ∃ first, (lanesOf x.act).find? (fun k => k / 32 = l / 32) = some first :=
    Option.isSome_iff_exists.1 (List.find?_isSome.2 ⟨l, mem, by simp⟩)
  have base : blockBase x a off (l / 32) = some (first, eaOf x a off first) := by rw [blockBase, found]; rfl
  exact ⟨_, base, List.mem_filterMap.2 ⟨l, mem, by rw [base]; rfl⟩⟩

/-- Settles O29: past its checks each of the three instructions begins its load, which has a part for each line and an element for each access. -/
theorem loads : Obligations.Loads := by
  unfold Obligations.Loads
  intro c d a dk ak off sz sc cp wide xs s x y n acc one nk room
  refine ⟨fun ready passes => ?_, fun ready passes => ?_, fun ready passes => ?_, fun l ⟨_, mem⟩ => ?_, fun l => mem_blockWords y a off⟩
  · have runs := ld_begins ready room (fun k eq => by subst eq; rfl) (fun k eq => by subst eq; rfl) passes
    exact ⟨⟨_, runs⟩, beginLoad_begun (x := y) (ctxOf_skein (x := x) ready.1) runs⟩
  · have runs := ldb_begins ready room passes
    exact ⟨⟨_, runs⟩, beginLoad_begun (x := y) (ctxOf_skein (x := x) ready.1) runs⟩
  · have runs := ldk_begins rfl ready room passes
    exact ⟨⟨_, runs⟩, beginLoad_begun (x := y) (ctxOf_skein (x := x) ready.1) runs⟩
  · obtain ⟨k, active, eq⟩ := List.mem_map.1 mem
    obtain rfl := (Prod.mk.inj eq).1
    exact (mem_lanesOf _ _).1 active

end Sys2Proof.Machine
end

section
/-! PROOFS. LDP and STP reach a tile store of the cluster, LDW the weight store (O31). -/

namespace Sys2Proof.Machine

/-! Lanes in order. -/

theorem lanesOf_ascending (m : LMask) : (lanesOf m).Pairwise (· < ·) := List.pairwise_lt_range.filter _

/-- Accesses of the lanes of a set, in the order of their lanes. -/
theorem lanes_ascending (m : LMask) (f : Nat → Nat) : ((lanesOf m).map (fun l => (l, f l))).Pairwise (fun e z => e.1 < z.1) :=
  List.pairwise_map.2 (lanesOf_ascending m)

theorem length_storeBytes (x : Ctx) (b : VK) (n l : Nat) : (storeBytes x b n l).length = n := length_leBytes _ _

/-! Bytes of a tile store. -/

theorem getD_putTileBytes (bs : List Byte) : ∀ (m : NMap Byte) (a addr : Nat),
    NMap.getD (putTileBytes m a bs) addr 0 = if a ≤ addr ∧ addr < a + bs.length then bs.getD (addr - a) 0 else NMap.getD m addr 0 := by
  induction bs with
  | nil => exact fun m a addr => (if_neg (by simp)).symm
  | cons b r ih =>
    intro m a addr
    have put : NMap.getD (if b = 0 then NMap.erase m a else NMap.insert m a b) addr 0 = if addr = a then b else NMap.getD m addr 0 := by
      by_cases zero : b = 0 <;> by_cases here : addr = a
      · simp [zero, here, NMap.getD]
      · simp [zero, here, NMap.getD, NMap.get?_erase_ne m here]
      · rw [if_neg zero, if_pos here, here, NMap.getD_insert_self]
      · rw [if_neg zero, if_neg here, NMap.getD_insert_ne m b 0 here]
    rw [putTileBytes, ih, put, List.length_cons]
    by_cases here : addr = a
    · rw [if_neg (by omega), if_pos here, if_pos (by omega), here, Nat.sub_self]
      rfl
    · rw [if_neg here]
      by_cases inside : a + 1 ≤ addr ∧ addr < a + 1 + r.length
      · rw [if_pos inside, if_pos (by omega), show addr - a = addr - (a + 1) + 1 by omega, List.getD_cons_succ]
      · rw [if_neg inside, if_neg (by omega)]

theorem tileByte_setTileBytes (s : State) (p a addr : Nat) (bs : List Byte) :
    tileByte (setTileBytes s p a bs) p addr = if a ≤ addr ∧ addr < a + bs.length then bs.getD (addr - a) 0 else tileByte s p addr := by
  rw [tileByte, setTileBytes, coreOf_updCore_self]
  exact getD_putTileBytes bs _ a addr

/-- From `s` to `t` bytes of the tile store of core `p` change, and nothing else. -/
def TileStoreOnly (p : Nat) (s t : State) : Prop :=
  t = { s with cores := t.cores } ∧ (∀ q, q ≠ p → coreOf t q = coreOf s q) ∧ coreOf t p = { coreOf s p with tileBytes := (coreOf t p).tileBytes }

theorem TileStoreOnly.skein {p : Nat} {s t : State} (h : TileStoreOnly p s t) (core slot : Nat) : skeinOf t core slot = skeinOf s core slot := by
  obtain ⟨-, others, own⟩ := h
  unfold skeinOf
  by_cases here : core = p
  · rw [here, own]
  · rw [others core here]

theorem TileStoreOnly.place {p : Nat} {s t : State} (h : TileStoreOnly p s t) (a : Nat) : peerByte t p a = peerByte s p a := by
  obtain ⟨-, -, own⟩ := h
  unfold peerByte tileOf
  rw [own]

theorem TileStoreOnly.write {p : Nat} {s t : State} (h : TileStoreOnly p s t) (a : Nat) (bs : List Byte) : TileStoreOnly p s (setTileBytes t p a bs) := by
  obtain ⟨rest, others, own⟩ := h
  refine ⟨by rw [rest]; rfl, fun q hq => ?_, ?_⟩
  · rw [setTileBytes, coreOf_updCore, if_neg hq, others q hq]
  · simp only [setTileBytes, coreOf_updCore_self]
    rw [own]

/-- The lanes of an STP write their bytes one after the other. -/
def stpTurn (x : Ctx) (b : VK) (n p : Nat) (t : State) (e : Nat × Nat) : State := setTileBytes t p (peerByte t p e.2) (storeBytes x b n e.1)

theorem TileStoreOnly.turn {p : Nat} {s t : State} (h : TileStoreOnly p s t) (x : Ctx) (b : VK) (n : Nat) (e : Nat × Nat) : TileStoreOnly p s (stpTurn x b n p t e) := h.write _ _

theorem TileStoreOnly.fold {p : Nat} {s : State} (x : Ctx) (b : VK) (n : Nat) (acc : List (Nat × Nat)) :
    ∀ {t}, TileStoreOnly p s t → TileStoreOnly p s (acc.foldl (stpTurn x b n p) t) := by
  induction acc with
  | nil => exact fun h => h
  | cons e r ih => exact fun h => ih (h.turn x b n e)

/-- A byte that no lane writes stays. -/
theorem tileByte_foldl_stpTurn {p : Nat} {s : State} {x : Ctx} {b : VK} {n addr : Nat} {acc : List (Nat × Nat)}
    (free : ∀ e ∈ acc, addr < peerByte s p e.2 ∨ peerByte s p e.2 + n ≤ addr) : ∀ {t}, TileStoreOnly p s t →
    tileByte (acc.foldl (stpTurn x b n p) t) p addr = tileByte t p addr := by
  induction acc with
  | nil => exact fun _ => rfl
  | cons e r ih =>
    intro t only
    have away := free e (.head _)
    rw [List.foldl_cons, ih (fun z hz => free z (.tail _ hz)) (only.turn x b n e), stpTurn, tileByte_setTileBytes, length_storeBytes, only.place, if_neg (by omega)]

/-- The highest lane that writes a byte gives it. -/
theorem tileByte_stp {p : Nat} {s : State} {x : Ctx} {b : VK} {n : Nat} {acc : List (Nat × Nat)} (ascending : acc.Pairwise (fun e z => e.1 < z.1)) {e : Nat × Nat}
    (he : e ∈ acc) {j : Nat} (hj : j < n)
    (highest : ∀ z ∈ acc, peerByte s p z.2 ≤ peerByte s p e.2 + j → peerByte s p e.2 + j < peerByte s p z.2 + n → z.1 ≤ e.1) :
    some (tileByte (acc.foldl (stpTurn x b n p) s) p (peerByte s p e.2 + j)) = (storeBytes x b n e.1)[j]? := by
  obtain ⟨before, after, rfl⟩ := List.append_of_mem he
  obtain ⟨-, later, -⟩ := List.pairwise_append.1 ascending
  have later : ∀ z ∈ after, e.1 < z.1 := (List.pairwise_cons.1 later).1
  have own : TileStoreOnly p s (before.foldl (stpTurn x b n p) s) := TileStoreOnly.fold x b n before ⟨rfl, fun _ _ => rfl, rfl⟩
  have free : ∀ z ∈ after, peerByte s p e.2 + j < peerByte s p z.2 ∨ peerByte s p z.2 + n ≤ peerByte s p e.2 + j := by
    intro z hz
    by_contra covers
    have high := highest z (List.mem_append_right _ (.tail _ hz)) (by omega) (by omega)
    have low := later z hz
    omega
  rw [List.foldl_append, List.foldl_cons, tileByte_foldl_stpTurn free (own.turn x b n e), stpTurn, tileByte_setTileBytes, own.place, length_storeBytes,
    if_pos (by omega), Nat.add_sub_cancel_left, List.getD_eq_getElem?_getD, List.getElem?_eq_getElem (by rw [length_storeBytes]; exact hj)]
  rfl

/-! The three instructions. -/

/-- R226: an access within the tiles of the peer meets no trap. -/
theorem peerCheck_none {s : State} {p n : Nat} {acc : List (Nat × Nat)} (h : ∀ e ∈ acc, e.2 < 2 ^ 27 ∧ e.2 % 2 ^ 19 % n = 0 ∧ tilePresent s p (e.2 / 2 ^ 19 % 2 ^ 8) = true ∧
    e.2 % 2 ^ 19 + n ≤ 128 * (tileOf s p (e.2 / 2 ^ 19 % 2 ^ 8)).size) : peerCheck s p n acc = none := by
  unfold peerCheck
  rw [laneWith_none fun e he => ?_, laneWith_none fun e he => ?_, laneWith_none fun e he => ?_]
  · rfl
  all_goals obtain ⟨range, aligned, present, fits⟩ := h e he
  · simp only [field, present, Bool.not_true]
  · simp only [field, present, Bool.true_and, Bool.or_eq_false_iff, decide_eq_false_iff_not]
    exact ⟨Nat.not_le.2 range, decide_eq_false (Nat.not_lt.2 fits)⟩
  · simp only [aligned, ne_eq, not_true_eq_false, decide_false]

theorem sizeOf8_le (sz : ASize) : sizeOf8 sz ≤ 16 := by cases sz <;> decide

theorem getD_tileRead (s : State) (core a : Nat) {n j : Nat} (h : j < n) : (tileRead s core a n).getD j 0 = tileByte s core (a + j) := by simp [tileRead, h]

/-- The value in place `k` of those that a load has in hand. -/
theorem mem_zip_range {α : Type} {l : List α} {k : Nat} {a : α} (h : l[k]? = some a) : (a, k) ∈ l.zip (List.range l.length) := by
  obtain ⟨lt, rfl⟩ := List.getElem?_eq_some_iff.1 h
  exact List.mem_of_getElem? (i := k) (by simp [lt])

section
variable {c : Ctl} {x : Ctx} {s : State} {off : Word} {sz : ASize} {peer : Nat}

theorem ldp_begins {d a : Nat} (ready : Ready { activeMarks := true } (Instr.use (.ldp c d a off sz peer)) c x s) (free : memHeld (activeCtx x c) false true = false)
    (flag : flagRoom (activeCtx x c) c = true) (tiles : peerCheck s (peerCore (activeCtx x c) peer) (sizeOf8 sz) (peerEas (activeCtx x c) a off) = none)
    (watch : ∀ i, i < 8 → watchLane s (activeCtx x c) true false (sizeOf8 sz) i (peerEas (activeCtx x c) a off) = none) :
    exec (.ldp c d a off sz peer) s = .next (beginTaken (activeCtx x c) c (sizeOf8 sz) (sizeSigned sz) (dstRefs (activeCtx x c) (.v d) sz.regs)
      ((peerEas (activeCtx x c) a off).map (fun e =>
        (e.1, tileRead s (peerCore (activeCtx x c) peer) (peerByte s (peerCore (activeCtx x c) peer) e.2) (sizeOf8 sz)))) s) := by
  rw [show exec (.ldp c d a off sz peer) s = execLdp c d a off sz peer s from rfl, execLdp, issue_ready ready rfl]
  dsimp only
  rw [if_neg (by simp [free]), tiles]
  dsimp only
  rw [if_neg (by simp [flag]), watchCheck_none watch]

theorem stp_begins {a : Nat} {b : VK} (ready : Ready { activeMarks := true } (Instr.use (.stp c a b off sz peer)) c x s) (free : memHeld (activeCtx x c) true true = false)
    (flag : flagRoom (activeCtx x c) c = true) (tiles : peerCheck s (peerCore (activeCtx x c) peer) (sizeOf8 sz) (peerEas (activeCtx x c) a off) = none)
    (watch : ∀ i, i < 8 → watchLane s (activeCtx x c) false true (sizeOf8 sz) i (peerEas (activeCtx x c) a off) = none) :
    exec (.stp c a b off sz peer) s = .next (beginPeerStore (activeCtx x c) c
      ((peerEas (activeCtx x c) a off).foldl (stpTurn (activeCtx x c) b (sizeOf8 sz) (peerCore (activeCtx x c) peer)) s)) := by
  rw [show exec (.stp c a b off sz peer) s = execStp c a b off sz peer s from rfl, execStp, issue_ready ready rfl]
  dsimp only
  rw [if_neg (by simp [free]), tiles]
  dsimp only
  rw [if_neg (by simp [flag]), watchCheck_none watch]
  rfl

/-- What LDW checks beyond its gate. -/
theorem weightChecks_none {n : Nat} {acc : List (Nat × Nat)} {die : Nat} (store : s.dev.wstore.getLsbD die = true) (inside : ∀ e ∈ acc, e.2 % n = 0 ∧ e.2 + n ≤ 0xC000000) :
    laneWith (fun w => decide (w % n ≠ 0)) 0x19 acc = none ∧ laneWith (fun w => decide (0xC000000 < w + n) || !s.dev.wstore.getLsbD die) tcHole acc = none :=
  ⟨laneWith_none (fun e he => by simp [(inside e he).1]) _, laneWith_none (fun e he => by simpa [store] using (inside e he).2) _⟩

theorem ldw_begins {d a : Nat} (ready : Ready { activeMarks := true } (Instr.use (.ldw c d a off sz)) c x s) (free : memHeld (activeCtx x c) false true = false)
    (flag : flagRoom (activeCtx x c) c = true) (watch : ∀ i, i < 8 → watchLane s (activeCtx x c) true false (sizeOf8 sz) i (peerEas (activeCtx x c) a off) = none)
    (gate : holdsGate s (activeCtx x c) = true) (store : s.dev.wstore.getLsbD (activeCtx x c).die = true)
    (inside : ∀ e ∈ peerEas (activeCtx x c) a off, e.2 % sizeOf8 sz = 0 ∧ e.2 + sizeOf8 sz ≤ 0xC000000) :
    exec (.ldw c d a off sz) s = .next (retire (activeCtx x c) (beginOp (activeCtx x c) c
      { cls := .memory, path := x.path, isLoad := true, pend := dstRefs (activeCtx x c) (.v d) sz.regs
        body := .weight (peerEas (activeCtx x c) a off) (sizeOf8 sz) (sizeSigned sz) (dstRefs (activeCtx x c) (.v d) sz.regs) } s).2) := by
  obtain ⟨aligned, hole⟩ := weightChecks_none store inside
  rw [show exec (.ldw c d a off sz) s = execLdw c d a off sz s from rfl, execLdw, issue_ready ready rfl]
  dsimp only
  rw [if_neg (by simp [free]), aligned, hole, if_pos gate]
  dsimp only [Option.or]
  rw [if_neg (by simp [flag]), watchCheck_none watch]
  rfl

theorem ldw_trap {d a : Nat} (ready : Ready { activeMarks := true } (Instr.use (.ldw c d a off sz)) c x s) (free : memHeld (activeCtx x c) false true = false)
    (gate : holdsGate s (activeCtx x c) = false) (store : s.dev.wstore.getLsbD (activeCtx x c).die = true)
    (inside : ∀ e ∈ peerEas (activeCtx x c) a off, e.2 % sizeOf8 sz = 0 ∧ e.2 + sizeOf8 sz ≤ 0xC000000) :
    exec (.ldw c d a off sz) s = .next (trapX (activeCtx x c)
      { code := 0x1F, lane := oneOf (activeCtx x c), va := ((peerEas (activeCtx x c) a off).headD (0, 0)).2 } s) := by
  obtain ⟨aligned, hole⟩ := weightChecks_none store inside
  rw [show exec (.ldw c d a off sz) s = execLdw c d a off sz s from rfl, execLdw, issue_ready ready rfl]
  dsimp only
  rw [if_neg (by simp [free]), aligned, hole, if_neg (by simp [gate])]
  rfl

end

/-- The part that a lane of an LDP has in hand. -/
def takenPart (bs : List Byte) : LoadPart :=
  { line := 0, found := allLanes, data := lineOf 0 bs, req := none, arrived := false, poison := 0, allocate := false, firstVictim := false }

/-- The acknowledgement that an STP awaits. -/
def peerAck : LoadPart := { line := 0, found := allLanes, data := 0, req := none, arrived := false, poison := 0, allocate := false, firstVictim := false }

/-- A load whose bytes are in hand has a part for every lane, with the lane's bytes. -/
theorem taken_part {vals : List (Nat × List Byte)} {v : Nat × List Byte} (h : v ∈ vals) :
    ∃ el ∈ (vals.zip (List.range vals.length)).map (fun e => { lane := some e.1.1, part := e.2, off := 0 : LoadElem }), el.lane = some v.1 ∧ el.off = 0 ∧
      (vals.map (fun e => takenPart e.2))[el.part]? = some (takenPart v.2) := by
  obtain ⟨k, at'⟩ := List.mem_iff_getElem?.1 h
  exact ⟨_, List.mem_map.2 ⟨(v, k), mem_zip_range at', rfl⟩, rfl, rfl, by simp [at']⟩

/-- Settles O31: lanes write in ascending order, so that the highest lane's byte stays. -/
theorem peerAndWeight : Obligations.PeerAndWeight := by
  unfold Obligations.PeerAndWeight
  intro c d a b off sz peer s x y n p acc inTile unwatched begun
  have here {k : Checks} {u : RU} (ready : Ready k u c x s) : skeinOf s y.core y.slot = some y.sk := ctxOf_skein (x := x) ready.1
  refine ⟨fun ready free flag tiles watch => ?_, fun ready free tiles watch flag => ?_, fun ready free flag watch gate store inside => ?_,
    fun ready free store gate inside => ldw_trap ready free gate store inside⟩
  · refine ⟨_, _, (ldp_begins ready free flag (peerCheck_none tiles) watch).trans (congrArg Host.Outcome.next (retire_beginOp c (here ready) _)), fun e he => ?_⟩
    obtain ⟨el, hel, lane, off', part⟩ := taken_part (List.mem_map.2 ⟨e, he, rfl⟩ :
      (e.1, tileRead s (peerCore y peer) (peerByte s (peerCore y peer) e.2) n) ∈
        acc.map (fun e => (e.1, tileRead s (peerCore y peer) (peerByte s (peerCore y peer) e.2) n)))
    refine ⟨el, hel, lane, off', _, part, rfl, rfl, fun j hj => ?_⟩
    have fits : 0 + j < 128 := by have := sizeOf8_le sz; omega
    have byte := lineByte_lineOf 0 (tileRead s (peerCore y peer) (peerByte s (peerCore y peer) e.2) n) j fits
    rw [Nat.zero_add, getD_tileRead s _ _ hj] at byte
    exact byte
  · have only : TileStoreOnly p s (acc.foldl (stpTurn y b n p) s) := TileStoreOnly.fold y b n acc ⟨rfl, fun _ _ => rfl, rfl⟩
    have number : (acc.foldl (stpTurn y b n p) s).nextId = s.nextId := by rw [only.1]
    refine ⟨acc.foldl (stpTurn y b n p) s, peerAck, ?_, only.1, only.2.1, only.2.2, fun addr away => tileByte_foldl_stpTurn away ⟨rfl, fun _ _ => rfl, rfl⟩,
      fun e he j hj highest => tileByte_stp (lanes_ascending _ _) he hj highest⟩
    rw [stp_begins ready free flag (peerCheck_none tiles) watch]
    refine congrArg Host.Outcome.next ((retire_beginOp c ((only.skein _ _).trans (here ready)) _).trans ?_)
    rw [number]
    rfl
  · exact (ldw_begins ready free flag watch gate store inside).trans (congrArg Host.Outcome.next (retire_beginOp c (here ready) _))

end Sys2Proof.Machine
end

section
/-! PROOFS. ST, STB and STK put their bytes into the store queue (O30). -/

namespace Sys2Proof.Machine

/-! The bytes of a store by lines (R215, R222). -/

/-- One lane more of a line: its bytes cover those of the lanes before. -/
def storeTurn (x : Ctx) (b : VK) (n : Nat) (a : LMask × LineData) (e : Nat × Nat × Xl) : LMask × LineData :=
  (a.1 ||| maskBytes (e.2.2.pa % 128) n, mergeLine a.2 (maskBytes (e.2.2.pa % 128) n) (lineOf (e.2.2.pa % 128) (storeBytes x b n e.1)))

/-- The accesses to a line, the lowest lane first. -/
def lineAccesses (xs : Passed) (line : Nat) : Passed := (sortBy (fun e => e.1) xs).filter (fun e => e.2.2.pa / 128 = line)

theorem storeLines_eq (x : Ctx) (b : VK) (n : Nat) (xs : Passed) : storeLines x b n xs = (loadLines xs).map (fun line =>
    (line, ((lineAccesses xs line).foldl (storeTurn x b n) (0, 0)).1, ((lineAccesses xs line).foldl (storeTurn x b n) (0, 0)).2,
      ((lineAccesses xs line).headD (0, 0, ⟨0, 0⟩)).2.2)) := rfl

theorem storeLines_fst (x : Ctx) (b : VK) (n : Nat) (xs : Passed) : (storeLines x b n xs).map Prod.fst = loadLines xs := by
  rw [storeLines_eq, List.map_map]
  exact List.map_id _

theorem mem_lineAccesses (xs : Passed) (line : Nat) (e : Nat × Nat × Xl) : e ∈ lineAccesses xs line ↔ e ∈ xs ∧ e.2.2.pa / 128 = line := by
  simp [lineAccesses, (sortBy_spec (fun e : Nat × Nat × Xl => e.1) xs).1.mem_iff]

/-- The lanes that access a line ascend, where no lane accesses twice. -/
theorem lineAccesses_ascending {xs : Passed} (lanes : (xs.map Prod.fst).Nodup) (line : Nat) : (lineAccesses xs line).Pairwise (fun e z => e.1 < z.1) := by
  obtain ⟨perm, sorted⟩ := sortBy_spec (fun e : Nat × Nat × Xl => e.1) xs
  have distinct : (sortBy (fun e : Nat × Nat × Xl => e.1) xs).Pairwise (fun e z => e.1 ≠ z.1) := List.pairwise_map.1 ((perm.map Prod.fst).nodup_iff.2 lanes)
  exact ((sorted.and distinct).imp fun h => lt_of_le_of_ne h.1 h.2).filter _

theorem getLsbD_foldl_storeTurn (x : Ctx) (b : VK) (n i : Nat) (l : Passed) : ∀ a, (l.foldl (storeTurn x b n) a).1.getLsbD i = true ↔
    a.1.getLsbD i = true ∨ ∃ e ∈ l, (maskBytes (e.2.2.pa % 128) n).getLsbD i = true := by
  induction l with
  | nil => simp
  | cons e r ih =>
    intro a
    rw [List.foldl_cons, ih]
    simp [storeTurn, or_assoc]

theorem lineByte_foldl_storeTurn (x : Ctx) (b : VK) (n i : Nat) (l : Passed) (free : ∀ e ∈ l, (maskBytes (e.2.2.pa % 128) n).getLsbD i = false) :
    ∀ a, lineByte (l.foldl (storeTurn x b n) a).2 i = lineByte a.2 i := by
  induction l with
  | nil => exact fun _ => rfl
  | cons e r ih =>
    intro a
    rw [List.foldl_cons, ih fun f hf => free f (.tail _ hf), storeTurn, lineByte_mergeLine, free e (.head _)]
    rfl

/-- A store's mask of a line lists the bytes that its lanes write. -/
theorem storeLines_mask {x : Ctx} {b : VK} {n : Nat} {xs : Passed} {e : Nat × LMask × LineData × Xl} (he : e ∈ storeLines x b n xs) {i : Nat} (hi : i < 128) :
    e.2.1.getLsbD i = true ↔ Needs xs n e.1 i := by
  rw [storeLines_eq] at he
  obtain ⟨line, -, rfl⟩ := List.mem_map.1 he
  dsimp only
  rw [getLsbD_foldl_storeTurn]
  simp only [getLsbD_maskBytes, decide_eq_true_eq, Needs, mem_lineAccesses, BitVec.ofNat_eq_ofNat, BitVec.getLsbD_zero, Bool.false_eq_true, false_or, hi, true_and, and_assoc]

/-- A store's bytes of a line are those of the highest lane that writes them. -/
theorem storeLines_byte {x : Ctx} {b : VK} {n : Nat} {xs : Passed} (lanes : (xs.map Prod.fst).Nodup) {e : Nat × LMask × LineData × Xl} (he : e ∈ storeLines x b n xs)
    {z : Nat × Nat × Xl} (hz : z ∈ xs) (line : e.1 = z.2.2.pa / 128) {j : Nat} (hj : j < n) (inside : z.2.2.pa % 128 + n ≤ 128)
    (highest : ∀ w ∈ xs, w.2.2.pa ≤ z.2.2.pa + j → z.2.2.pa + j < w.2.2.pa + n → w.1 ≤ z.1) :
    some (lineByte e.2.2.1 (z.2.2.pa % 128 + j)) = (storeBytes x b n z.1)[j]? := by
  rw [storeLines_eq] at he
  obtain ⟨_, -, rfl⟩ := List.mem_map.1 he
  dsimp only at line ⊢
  subst line
  obtain ⟨before, after, split⟩ := List.append_of_mem ((mem_lineAccesses xs _ z).2 ⟨hz, rfl⟩)
  have later : ∀ w ∈ after, z.1 < w.1 := by
    have ascending := lineAccesses_ascending lanes (z.2.2.pa / 128)
    rw [split] at ascending
    exact (List.pairwise_cons.1 (List.pairwise_append.1 ascending).2.1).1
  have free : ∀ w ∈ after, (maskBytes (w.2.2.pa % 128) n).getLsbD (z.2.2.pa % 128 + j) = false := by
    intro w hw
    obtain ⟨mem, here⟩ := (mem_lineAccesses xs (z.2.2.pa / 128) w).1 (split ▸ List.mem_append_right _ (.tail _ hw))
    rw [getLsbD_maskBytes, decide_eq_false_iff_not]
    intro covers
    have high := highest w mem (by omega) (by omega)
    have low := later w hw
    omega
  have own : (maskBytes (z.2.2.pa % 128) n).getLsbD (z.2.2.pa % 128 + j) = true := by
    rw [getLsbD_maskBytes, decide_eq_true_eq]
    omega
  rw [split, List.foldl_append, List.foldl_cons, lineByte_foldl_storeTurn x b n _ _ free, storeTurn, lineByte_mergeLine, own, if_pos rfl,
    lineByte_lineOf _ _ _ (by omega), List.getD_eq_getElem?_getD, List.getElem?_eq_getElem (by rw [length_storeBytes]; exact hj)]
  rfl

/-! What a step of the skein keeps. -/

/-- The queue and the registers of a skein, and the versions of its task, are as before. -/
def KeepsData (a b : Skein) : Prop := b.sq = a.sq ∧ b.sqWait = a.sqWait ∧ b.vregs = a.vregs ∧ b.kregs = a.kregs ∧ b.preds = a.preds ∧ b.versions = a.versions

theorem retire_skein {x : Ctx} {s : State} {sk : Skein} (h : skeinOf s x.core x.slot = some sk) :
    ∃ sk', retire x s = setSkein s x.core x.slot sk' ∧ KeepsData sk sk' :=
  ⟨_, updSkein_of _ _ h, rfl, rfl, rfl, rfl, rfl, rfl⟩

theorem beginOp_skein {x : Ctx} {s : State} {sk : Skein} (c : Ctl) (o : Op) (h : skeinOf s x.core x.slot = some sk) :
    ∃ sk', (beginOp x c o s).2 = { setSkein s x.core x.slot sk' with nextId := s.nextId + 1 } ∧ KeepsData sk sk' := by
  refine ⟨_, updSkein_of { s with nextId := s.nextId + 1 } _ h, ?_⟩
  cases flagOf x c <;> exact ⟨rfl, rfl, rfl, rfl, rfl, rfl⟩

/-- A skein's own change is no other's. -/
theorem onlySkein_setSkein (x : Ctx) (s : State) (sk : Skein) (m : Nat) : OnlySkein x s { { setSkein s x.core x.slot sk with nextId := m } with nextId := s.nextId } := by
  have core (n : Nat) : coreOf { { setSkein s x.core x.slot sk with nextId := m } with nextId := s.nextId } n = coreOf (setSkein s x.core x.slot sk) n := rfl
  have skein (k : Nat) : skeinOf { { setSkein s x.core x.slot sk with nextId := m } with nextId := s.nextId } x.core k = skeinOf (setSkein s x.core x.slot sk) x.core k := rfl
  refine ⟨rfl, fun n hn => ?_, ?_, fun r _ => ?_, fun e _ => ?_, fun k hk => ?_⟩
  · rw [core, coreOf_setSkein, if_neg hn]
  · simp only [core, coreOf_setSkein, if_true]
  · simp only [core, coreOf_setSkein, if_true]
  · simp only [core, coreOf_setSkein, if_true]
  · rw [skein, skeinOf_setSkein_ne (h := fun e => hk e.2)]

/-! The beginning of a store. -/

/-- What stands in the queue and behind it is what stood there. -/
theorem enterQueue_all (sk : Skein) : (enterQueue sk).sq ++ (enterQueue sk).sqWait = sk.sq ++ sk.sqWait := by
  simp [enterQueue, List.append_assoc, List.take_append_drop]

theorem enterQueue_room (sk : Skein) (h : sk.sq.length ≤ 32) : (enterQueue sk).sq.length ≤ 32 := by
  simp only [enterQueue, List.length_append, List.length_take]
  omega

/-- The entries of a store. -/
def storeEntries (x : Ctx) (b : VK) (sc : Scope) (cp : CPol) (n : Nat) (xs : Passed) (s : State) : List SqEntry :=
  let ents := (storeLines x b n xs).map (fun e =>
    { line := e.1, mask := e.2.1, data := e.2.2.1, through := !usesL1 sc cp e.2.2.2, firstVictim := firstOf cp
      policy := slicePol cp e.2.2.2, device := decide (e.2.2.2.type = 2), op := none, entered := s.clock, made := s.clock : SqEntry })
  (ents.zip (List.range ents.length)).map (fun e => if e.1.through || decide (32 - x.sk.sq.length ≤ e.2) then { e.1 with op := some s.nextId } else e.1)

/-- Each entry of a store is a line with its mask and its bytes. -/
theorem mem_storeEntries {x : Ctx} {b : VK} {sc : Scope} {cp : CPol} {n : Nat} {xs : Passed} {s : State} (t : Nat × LMask × LineData) :
    (∃ e ∈ storeEntries x b sc cp n xs s, (e.line, e.mask, e.data) = t) ↔ ∃ e ∈ storeLines x b n xs, (e.1, e.2.1, e.2.2.1) = t := by
  have same : (storeEntries x b sc cp n xs s).map (fun e => (e.line, e.mask, e.data)) = (storeLines x b n xs).map (fun e => (e.1, e.2.1, e.2.2.1)) := by
    rw [storeEntries, List.map_map, List.map_congr_left (l := List.zip _ _) (g := (fun e : SqEntry => (e.line, e.mask, e.data)) ∘ Prod.fst) fun e _ => by
      simp only [Function.comp_apply]; split <;> rfl]
    rw [← List.map_map, List.map_fst_zip (by simp), List.map_map]
    rfl
  rw [← List.mem_map, same, List.mem_map]

/-- The operation that a store leaves open, if it leaves one. -/
def storeOpened (x : Ctx) (c : Ctl) (xs : Passed) (ents : List SqEntry) (s : State) : State :=
  let left := (ents.filter (fun e => e.op.isSome)).length
  if left = 0 then s else (beginOp x c { cls := .memory, path := x.path, device := isDevice xs, body := .store left } s).2

theorem beginStore_plain {x : Ctx} {ver : Bool} (plain : ver = false ∨ x.sk.taskOpen = false) (c : Ctl) (b : VK) (sc : Scope) (cp : CPol) (n : Nat) (xs : Passed)
    (s : State) : beginStore x c b sc cp n ver xs s = retire x (onSkein x (fun sk => enterQueue { sk with sqWait := sk.sqWait ++ storeEntries x b sc cp n xs s })
      (storeOpened x c xs (storeEntries x b sc cp n xs s) s)) := by
  unfold beginStore
  rw [if_neg (by rintro ⟨hv, ht⟩; rcases plain with h | h <;> simp [h] at hv ht)]
  rfl

theorem storeOpened_skein {x : Ctx} {s : State} (here : skeinOf s x.core x.slot = some x.sk) (c : Ctl) (xs : Passed) (ents : List SqEntry) :
    storeOpened x c xs ents s = s ∨ ∃ sk, storeOpened x c xs ents s = { setSkein s x.core x.slot sk with nextId := s.nextId + 1 } ∧ KeepsData x.sk sk := by
  unfold storeOpened
  dsimp only
  split
  · exact .inl rfl
  · exact .inr (beginOp_skein c _ here)

/-- A store puts its entries behind those of the queue, and changes nothing else of the machine. -/
theorem beginStore_state {x : Ctx} {ver : Bool} {s : State} (here : skeinOf s x.core x.slot = some x.sk) (plain : ver = false ∨ x.sk.taskOpen = false) (c : Ctl) (b : VK)
    (sc : Scope) (cp : CPol) (n : Nat) (xs : Passed) : ∃ sk m, beginStore x c b sc cp n ver xs s = { setSkein s x.core x.slot sk with nextId := m } ∧ s.nextId ≤ m ∧
      sk.sq ++ sk.sqWait = x.sk.sq ++ x.sk.sqWait ++ storeEntries x b sc cp n xs s ∧ (x.sk.sq.length ≤ 32 → sk.sq.length ≤ 32) ∧
      sk.vregs = x.sk.vregs ∧ sk.kregs = x.sk.kregs ∧ sk.preds = x.sk.preds ∧ sk.versions = x.sk.versions := by
  generalize entries : storeEntries x b sc cp n xs s = ents
  have put (u : State) (k : Skein) (hu : skeinOf u x.core x.slot = some k) (keeps : KeepsData x.sk k) :
      ∃ sk, retire x (onSkein x (fun sk => enterQueue { sk with sqWait := sk.sqWait ++ ents }) u) = setSkein u x.core x.slot sk ∧
        sk.sq ++ sk.sqWait = x.sk.sq ++ x.sk.sqWait ++ ents ∧ (x.sk.sq.length ≤ 32 → sk.sq.length ≤ 32) ∧
        sk.vregs = x.sk.vregs ∧ sk.kregs = x.sk.kregs ∧ sk.preds = x.sk.preds ∧ sk.versions = x.sk.versions := by
    obtain ⟨sq, wait, vregs, kregs, preds, versions⟩ := keeps
    have entered : onSkein x (fun sk => enterQueue { sk with sqWait := sk.sqWait ++ ents }) u = setSkein u x.core x.slot (enterQueue { k with sqWait := k.sqWait ++ ents }) :=
      updSkein_of _ _ hu
    rw [entered]
    obtain ⟨sk, retired, sq', wait', vregs', kregs', preds', versions'⟩ := retire_skein (x := x) (skeinOf_setSkein_self u x.core x.slot (enterQueue { k with sqWait := k.sqWait ++ ents }))
    refine ⟨sk, by rw [retired, setSkein_setSkein], ?_, fun room => ?_, vregs'.trans vregs, kregs'.trans kregs, preds'.trans preds, versions'.trans versions⟩
    · rw [sq', wait', enterQueue_all, ← List.append_assoc, sq, wait]
    · rw [sq']
      exact enterQueue_room _ (by rw [sq]; exact room)
  rw [beginStore_plain plain, entries]
  rcases storeOpened_skein here c xs ents with same | ⟨k, opened, keeps⟩
  · rw [same]
    obtain ⟨sk, state, rest⟩ := put s x.sk here ⟨rfl, rfl, rfl, rfl, rfl, rfl⟩
    exact ⟨sk, s.nextId, by rw [state]; rfl, le_rfl, rest⟩
  · rw [opened]
    obtain ⟨sk, state, rest⟩ := put { setSkein s x.core x.slot k with nextId := s.nextId + 1 } k (skeinOf_setSkein_self s x.core x.slot k) keeps
    refine ⟨sk, s.nextId + 1, ?_, Nat.le_succ _, rest⟩
    rw [state]
    exact congrArg (fun v : State => { v with nextId := s.nextId + 1 }) (setSkein_setSkein s x.core x.slot k sk)

/-- A store that has passed its checks has begun. -/
theorem beginStore_begun {i : Instr} {c : Ctl} {x : Ctx} {s : State} {b : VK} {sc : Scope} {cp : CPol} {n : Nat} {ver : Bool} {xs : Passed}
    (here : skeinOf s x.core x.slot = some x.sk) (plain : ver = false ∨ x.sk.taskOpen = false) (inside : ∀ e ∈ xs, e.2.2.pa % 128 + n ≤ 128)
    (lanes : (xs.map Prod.fst).Nodup) (runs : exec i s = .next (beginStore x c b sc cp n ver xs (clearWalkFaults s x.core x.slot))) : StoreBegun i x s b n xs := by
  obtain ⟨sk, m, state, later, queue, room, keeps⟩ := beginStore_state (s := clearWalkFaults s x.core x.slot) here plain c b sc cp n xs
  have entry {e : SqEntry} (he : e ∈ storeEntries x b sc cp n xs (clearWalkFaults s x.core x.slot)) : ∃ f ∈ storeLines x b n xs, (f.1, f.2.1, f.2.2.1) = (e.line, e.mask, e.data) :=
    (mem_storeEntries _).1 ⟨e, he, rfl⟩
  obtain ⟨vregs, kregs, preds, versions⟩ := keeps
  rw [state] at runs
  refine ⟨_, sk, storeEntries x b sc cp n xs (clearWalkFaults s x.core x.slot), runs, onlySkein_setSkein x _ sk m, later,
    skeinOf_setSkein_self (clearWalkFaults s x.core x.slot) x.core x.slot sk, queue, room, vregs, kregs, preds, versions, fun addr => ⟨?_, ?_⟩, ?_⟩
  · rintro ⟨e, he, line, listed⟩
    obtain ⟨f, hf, eq⟩ := entry he
    obtain ⟨hl, hm, -⟩ : f.1 = e.line ∧ f.2.1 = e.mask ∧ f.2.2.1 = e.data := by simpa using eq
    rw [← hm] at listed
    obtain ⟨z, hz, at', low, high⟩ := (storeLines_mask hf (Nat.mod_lt _ (by decide))).1 listed
    exact ⟨z, hz, by omega, by omega⟩
  · rintro ⟨z, hz, low, high⟩
    have fits := inside z hz
    have touched : z.2.2.pa / 128 ∈ (storeLines x b n xs).map Prod.fst := by
      rw [storeLines_fst]
      exact (mem_loadLines xs _).2 ⟨z, hz, rfl⟩
    obtain ⟨f, hf, line⟩ := List.mem_map.1 touched
    obtain ⟨e, he, eq⟩ := (mem_storeEntries (sc := sc) (cp := cp) (s := clearWalkFaults s x.core x.slot) (f.1, f.2.1, f.2.2.1)).2 ⟨f, hf, rfl⟩
    obtain ⟨hl, hm, -⟩ : e.line = f.1 ∧ e.mask = f.2.1 ∧ e.data = f.2.2.1 := by simpa using eq
    refine ⟨e, he, by omega, ?_⟩
    rw [hm]
    exact (storeLines_mask hf (Nat.mod_lt _ (by decide))).2 ⟨z, hz, line.symm, by omega, by omega⟩
  · intro e he z hz j hj at' highest
    have fits := inside z hz
    obtain ⟨f, hf, eq⟩ := entry he
    obtain ⟨hl, -, hd⟩ : f.1 = e.line ∧ f.2.1 = e.mask ∧ f.2.2.1 = e.data := by simpa using eq
    have byte := storeLines_byte lanes hf hz (hl.trans (by omega)) hj fits highest
    rwa [hd, show z.2.2.pa % 128 + j = (z.2.2.pa + j) % 128 by omega] at byte

end Sys2Proof.Machine
end

section
/-! PROOFS. A store with `ver` puts its bytes into the versions of the open task (O30). -/

namespace Sys2Proof.Machine

/-! The home slice of a line and the ways of its set (R104, R106, R107). -/

theorem homeDie_eq (pa : Nat) : homeDie pa = if pa < 0xC000000000 then pa / 0x3000000000 else if pa < 0x10000000000 then 0
    else if pa < 0x20000000000 then (pa - 0x10000000000) / 0x4000000000
    else if pa < 0x20040000000 ∧ (pa - 0x20000000000) % 0x10000000 < 0xC000000 then (pa - 0x20000000000) / 0x10000000 else 0 := by
  unfold homeDie regionOf
  split_ifs
  any_goals rfl
  all_goals omega

theorem homeDie_line (pa : Nat) : homeDie (128 * (pa / 128)) = homeDie pa := by
  rw [homeDie_eq, homeDie_eq]
  split_ifs <;> omega

theorem fold107_line (pa : Nat) : fold107 (128 * (pa / 128)) = fold107 pa := by
  have above (j : Nat) : 128 * (pa / 128) / 2 ^ (7 + 4 * j) = pa / 2 ^ (7 + 4 * j) := by
    rw [pow_add, ← Nat.div_div_eq_div_mul, ← Nat.div_div_eq_div_mul, show (2 : Nat) ^ 7 = 128 from rfl, Nat.mul_div_cancel_left _ (by decide)]
  simp only [fold107, above]

theorem homeSlice_line (s : State) (pa : Nat) : homeSlice s (128 * (pa / 128)) = homeSlice s pa := by rw [homeSlice, homeDie_line, fold107_line, homeSlice]

theorem homeSlice_congr {s t : State} (dev : t.dev = s.dev) (pa : Nat) : homeSlice t pa = homeSlice s pa := by simp only [homeSlice, pickSlice, dev]

theorem allowedWays_lt {s : State} {die owner w : Nat} (h : w ∈ allowedWays s die owner) : w < 16 := by
  have general : generalWays s die ≤ 16 := by
    unfold generalWays waysOf
    split <;> split <;> omega
  have all : w ∈ List.range (generalWays s die) := by
    unfold allowedWays at h
    dsimp only at h
    split at h <;> exact (List.mem_filter.1 h).1
  exact (List.mem_range.1 all).trans_le general

/-- A way that a new line may take lies in the set of the line. -/
theorem sliceVictim_set {s : State} {n owner line k : Nat} (h : sliceVictim s n owner line = some k) : k / 16 = line % 8192 := by
  have way : k ∈ (allowedWays s (n / 16) owner).map (fun w => 16 * (line % 8192) + w) := by
    unfold sliceVictim at h
    dsimp only at h
    split at h
    · rename_i j found
      obtain rfl := Option.some.inj h
      exact (List.mem_filter.1 (List.mem_of_find?_eq_some found)).1
    · exact (List.mem_filter.1 (leastBy_mem h)).1
  obtain ⟨w, hw, rfl⟩ := List.mem_map.1 way
  have := allowedWays_lt hw
  omega

/-! Ways are cleared (R116). -/

theorem lineAt_pinVersion (s : State) (n k task line m j : Nat) : lineAt (pinVersion s n k task line) m j = lineAt s m j := by
  unfold lineAt pinVersion sliceOf setSlice
  by_cases here : m = n
  · rw [here, NMap.getD_insert_self]
  · rw [NMap.getD_insert_ne _ _ _ here]

theorem besidesSlices_pinVersion (s : State) (n k task line : Nat) : besidesSlices (pinVersion s n k task line) = besidesSlices s := rfl

theorem besidesSlices_clearWay (s : State) (n k : Nat) : besidesSlices (clearWay s n k) = besidesSlices s := by
  unfold clearWay
  split
  · rfl
  · dsimp only
    split
    · rfl
    · exact besidesSlices_evictWay s n k

theorem lineAt_clearWay {s : State} {n k m j : Nat} {l : SliceLine} (h : lineAt (clearWay s n k) m j = some l) : lineAt s m j = some l := by
  unfold clearWay at h
  split at h
  · exact h
  · dsimp only at h
    split at h
    · exact h
    · rw [lineAt_evictWay] at h
      split at h
      · cases h
      · exact h

/-- A way whose line is not dirty is cleared at once. -/
theorem wayClear_clearWay {s : State} {n k : Nat} (clean : ∀ l, lineAt s n k = some l → l.dirty = false) : wayClear (clearWay s n k) n k = true := by
  have goal (t : State) (h : lineAt t n k = none) : wayClear t n k = true := by
    unfold wayClear
    rw [show NMap.get? (sliceOf t n).lines k = none from h]
    rfl
  refine goal _ ?_
  cases at' : lineAt s n k with
  | none =>
    have same : clearWay s n k = s := by
      unfold clearWay
      rw [show NMap.get? (sliceOf s n).lines k = none from at']
    rw [same, at']
  | some l =>
    have evicted : clearWay s n k = evictWay s n k := by
      unfold clearWay
      rw [show NMap.get? (sliceOf s n).lines k = some l from at']
      simp [clean l at']
    rw [evicted, lineAt_evictWay, if_pos ⟨rfl, rfl⟩]

/-- One new version more finds its place; the second state looks ahead. -/
def roomTurn (x : Ctx) (a : Bool × State × State) (line : Nat) : Bool × State × State :=
  if (NMap.get? x.sk.versions line).isSome || !isMain (128 * line) then a else
  match sliceVictim a.2.2 (homeSlice a.2.2 (128 * line)) (partOf a.2.2 x.core) line with
  | none => a
  | some k => (a.1 && wayClear (clearWay a.2.2 (homeSlice a.2.2 (128 * line)) k) (homeSlice a.2.2 (128 * line)) k, clearWay a.2.1 (homeSlice a.2.2 (128 * line)) k,
      pinVersion (clearWay a.2.2 (homeSlice a.2.2 (128 * line)) k) (homeSlice a.2.2 (128 * line)) k x.sk.taskKey line)

theorem versionRoom_eq (x : Ctx) (s : State) (lines : List Nat) : versionRoom x s lines = ((lines.foldl (roomTurn x) (true, s, s)).1, (lines.foldl (roomTurn x) (true, s, s)).2.1) := rfl

/-- So far every new version has found its place, and only lines have left their ways. -/
def RoomSoFar (s : State) (a : Bool × State × State) : Prop :=
  a.1 = true ∧ besidesSlices a.2.1 = besidesSlices s ∧ besidesSlices a.2.2 = besidesSlices s ∧ ∀ m j l, lineAt a.2.2 m j = some l → lineAt s m j = some l

theorem RoomSoFar.turn {s : State} {x : Ctx} {a : Bool × State × State} (h : RoomSoFar s a) {line : Nat}
    (clean : ∀ k, k / 16 = line % 8192 → ∀ l, lineAt s (homeSlice s (128 * line)) k = some l → l.dirty = false) : RoomSoFar s (roomTurn x a line) := by
  obtain ⟨flag, now, ahead, lines⟩ := h
  have home : homeSlice a.2.2 (128 * line) = homeSlice s (128 * line) := homeSlice_congr (congrArg State.dev ahead) _
  unfold roomTurn
  split
  · exact ⟨flag, now, ahead, lines⟩
  · split
    · exact ⟨flag, now, ahead, lines⟩
    · rename_i k victim
      refine ⟨?_, (besidesSlices_clearWay _ _ _).trans now, (besidesSlices_pinVersion _ _ _ _ _).trans ((besidesSlices_clearWay _ _ _).trans ahead), fun m j l held => ?_⟩
      · dsimp only
        rw [flag, wayClear_clearWay fun l held => clean k (sliceVictim_set victim) l (lines _ _ _ (home ▸ held))]
        rfl
      · exact lines m j l (lineAt_clearWay (by rwa [lineAt_pinVersion] at held))

/-- Where no line of the sets is dirty, the versions of a store find their places at once. -/
theorem versionRoom_ready {s : State} (x : Ctx) {lines : List Nat}
    (clean : ∀ line ∈ lines, ∀ k, k / 16 = line % 8192 → ∀ l, lineAt s (homeSlice s (128 * line)) k = some l → l.dirty = false) :
    (versionRoom x s lines).1 = true ∧ besidesSlices (versionRoom x s lines).2 = besidesSlices s := by
  have room : RoomSoFar s (lines.foldl (roomTurn x) (true, s, s)) :=
    List.foldlRecOn lines (roomTurn x) ⟨rfl, rfl, rfl, fun _ _ _ h => h⟩ fun a h line hl => h.turn (clean line hl)
  rw [versionRoom_eq]
  exact ⟨room.1, room.2.1⟩

/-! The versions of the task (R186, R187). -/

/-- A version takes the bytes of a line. -/
def withVersion (x : Ctx) (e : Nat × LMask × LineData × Xl) (sk : Skein) : Skein :=
  let o := NMap.getD sk.versions e.1 (NMap.getD x.sk.versions e.1 (0, 0))
  { sk with versions := NMap.insert sk.versions e.1 (o.1 ||| e.2.1, mergeLine o.2 e.2.1 e.2.2.1) }

theorem besidesSlices_addVersion (x : Ctx) (s : State) (e : Nat × LMask × LineData × Xl) :
    besidesSlices (addVersion x s e.1 e.2.1 e.2.2.1) = besidesSlices (onSkein x (withVersion x e) s) := by
  unfold addVersion
  dsimp only
  split
  · split
    · rw [besidesSlices_pinVersion, besidesSlices_evictWay]
      rfl
    · rfl
  · rfl

/-- The versions of a store's lines join those of the task. -/
theorem addVersions_skein {x : Ctx} (es : List (Nat × LMask × LineData × Xl)) : ∀ {u : State} {k : Skein}, skeinOf u x.core x.slot = some k → (es.map Prod.fst).Nodup →
    (∀ e ∈ es, NMap.get? k.versions e.1 = NMap.get? x.sk.versions e.1) →
    ∃ k', skeinOf (es.foldl (fun s e => addVersion x s e.1 e.2.1 e.2.2.1) u) x.core x.slot = some k' ∧
      (es.foldl (fun s e => addVersion x s e.1 e.2.1 e.2.2.1) u).mem = u.mem ∧ (es.foldl (fun s e => addVersion x s e.1 e.2.1 e.2.2.1) u).reqs = u.reqs ∧
      k' = { k with versions := k'.versions } ∧ (∀ line, (∀ e ∈ es, e.1 ≠ line) → NMap.get? k'.versions line = NMap.get? k.versions line) ∧
      ∀ e ∈ es, NMap.get? k'.versions e.1 =
        some ((NMap.getD x.sk.versions e.1 (0, 0)).1 ||| e.2.1, mergeLine (NMap.getD x.sk.versions e.1 (0, 0)).2 e.2.1 e.2.2.1) := by
  induction es with
  | nil => exact fun here _ _ => ⟨_, here, rfl, rfl, rfl, fun _ _ => rfl, by simp⟩
  | cons e r ih =>
    intro u k here distinct fresh
    obtain ⟨new, distinct⟩ := List.nodup_cons.1 distinct
    have new : ∀ f ∈ r, f.1 ≠ e.1 := fun f hf eq => new (eq ▸ List.mem_map_of_mem hf)
    have besides := besidesSlices_addVersion x u e
    have changed : onSkein x (withVersion x e) u = setSkein u x.core x.slot (withVersion x e k) := updSkein_of _ _ here
    have skein : skeinOf (addVersion x u e.1 e.2.1 e.2.2.1) x.core x.slot = some (withVersion x e k) :=
      (congrArg (fun v : State => skeinOf v x.core x.slot) besides).trans (by rw [changed]; exact skeinOf_setSkein_self u x.core x.slot _)
    have taken (line : Nat) (h : line ≠ e.1) : NMap.get? (withVersion x e k).versions line = NMap.get? k.versions line := NMap.get?_insert_ne _ _ h
    obtain ⟨k', skein', mem, reqs, only, others, own⟩ := ih skein distinct fun f hf => (taken f.1 (new f hf)).trans (fresh f (.tail _ hf))
    refine ⟨k', skein', mem.trans ?_, reqs.trans ?_, only, fun line away => ?_, fun f hf => ?_⟩
    · exact (congrArg State.mem besides).trans (by rw [changed]; rfl)
    · exact (congrArg State.reqs besides).trans (by rw [changed]; rfl)
    · exact (others line fun f hf => away f (.tail _ hf)).trans (taken line (away e (.head _)).symm)
    · rcases List.mem_cons.1 hf with rfl | hf
      · have old : NMap.getD k.versions f.1 (NMap.getD x.sk.versions f.1 (0, 0)) = NMap.getD x.sk.versions f.1 (0, 0) := by
          simp only [NMap.getD, fresh f (.head _)]
          cases NMap.get? x.sk.versions f.1 <;> rfl
        rw [others f.1 new, withVersion, NMap.get?_insert_self, old]
      · exact own f hf

/-- A store into versions that has passed its checks: what its task's versions are then. -/
theorem beginStore_versions {x : Ctx} {c : Ctl} {s u : State} {b : VK} {sc : Scope} {cp : CPol} {n : Nat} {xs : Passed} (here : skeinOf u x.core x.slot = some x.sk)
    (mem : u.mem = s.mem) (open' : x.sk.taskOpen = true) (inside : ∀ e ∈ xs, e.2.2.pa % 128 + n ≤ 128) (lanes : (xs.map Prod.fst).Nodup) :
    ∃ sk, skeinOf (beginStore x c b sc cp n true xs u) x.core x.slot = some sk ∧ (beginStore x c b sc cp n true xs u).mem = s.mem ∧
      (beginStore x c b sc cp n true xs u).reqs = u.reqs ∧ sk.sq = x.sk.sq ∧ sk.sqWait = x.sk.sqWait ∧ sk.vregs = x.sk.vregs ∧ sk.kregs = x.sk.kregs ∧
      (∀ addr, (NMap.getD sk.versions (addr / 128) (0, 0)).1.getLsbD (addr % 128) = true ↔
        (NMap.getD x.sk.versions (addr / 128) (0, 0)).1.getLsbD (addr % 128) = true ∨ ∃ z ∈ xs, z.2.2.pa ≤ addr ∧ addr < z.2.2.pa + n) ∧
      (∀ z ∈ xs, ∀ j, j < n → (∀ w ∈ xs, w.2.2.pa ≤ z.2.2.pa + j ∧ z.2.2.pa + j < w.2.2.pa + n → w.1 ≤ z.1) →
        some (lineByte (NMap.getD sk.versions ((z.2.2.pa + j) / 128) (0, 0)).2 ((z.2.2.pa + j) % 128)) = (storeBytes x b n z.1)[j]?) ∧
      (∀ addr, (∀ z ∈ xs, ¬(z.2.2.pa ≤ addr ∧ addr < z.2.2.pa + n)) →
        lineByte (NMap.getD sk.versions (addr / 128) (0, 0)).2 (addr % 128) = lineByte (NMap.getD x.sk.versions (addr / 128) (0, 0)).2 (addr % 128)) := by
  have begun : beginStore x c b sc cp n true xs u = retire x ((storeLines x b n xs).foldl (fun s e => addVersion x s e.1 e.2.1 e.2.2.1) u) := by
    unfold beginStore
    rw [if_pos ⟨rfl, open'⟩]
  have distinct : ((storeLines x b n xs).map Prod.fst).Nodup := by
    rw [storeLines_fst]
    exact nodup_dedup _
  obtain ⟨k, skein, mem', reqs, only, others, own⟩ := addVersions_skein (storeLines x b n xs) here distinct fun _ _ => rfl
  obtain ⟨sk, retired, sq, wait, vregs, kregs, -, versions⟩ := retire_skein skein
  have fields : k.sq = x.sk.sq ∧ k.sqWait = x.sk.sqWait ∧ k.vregs = x.sk.vregs ∧ k.kregs = x.sk.kregs := by
    rw [only]
    exact ⟨rfl, rfl, rfl, rfl⟩
  obtain ⟨ksq, kwait, kvregs, kkregs⟩ := fields
  have written (z : Nat × Nat × Xl) (hz : z ∈ xs) : ∃ f ∈ storeLines x b n xs, f.1 = z.2.2.pa / 128 := by
    have touched : z.2.2.pa / 128 ∈ (storeLines x b n xs).map Prod.fst := by
      rw [storeLines_fst]
      exact (mem_loadLines xs _).2 ⟨z, hz, rfl⟩
    exact List.mem_map.1 touched
  have covered (addr : Nat) {f : Nat × LMask × LineData × Xl} (hf : f ∈ storeLines x b n xs) (line : f.1 = addr / 128) :
      f.2.1.getLsbD (addr % 128) = true ↔ ∃ z ∈ xs, z.2.2.pa ≤ addr ∧ addr < z.2.2.pa + n := by
    rw [storeLines_mask hf (Nat.mod_lt _ (by decide)), line]
    refine ⟨fun ⟨z, hz, at', low, high⟩ => ⟨z, hz, by omega, by omega⟩, fun ⟨z, hz, low, high⟩ => ⟨z, hz, ?_, ?_, ?_⟩⟩
    all_goals have fits := inside z hz; omega
  have joined {f : Nat × LMask × LineData × Xl} (hf : f ∈ storeLines x b n xs) : NMap.getD sk.versions f.1 (0, 0) =
      ((NMap.getD x.sk.versions f.1 (0, 0)).1 ||| f.2.1, mergeLine (NMap.getD x.sk.versions f.1 (0, 0)).2 f.2.1 f.2.2.1) := by
    rw [versions, NMap.getD, own f hf]
    rfl
  have kept (addr : Nat) (none' : ¬∃ f ∈ storeLines x b n xs, f.1 = addr / 128) : NMap.getD sk.versions (addr / 128) (0, 0) = NMap.getD x.sk.versions (addr / 128) (0, 0) := by
    rw [versions, NMap.getD, others _ fun f hf eq => none' ⟨f, hf, eq⟩, NMap.getD]
  have untouched (addr : Nat) (none' : ¬∃ f ∈ storeLines x b n xs, f.1 = addr / 128) : ¬∃ z ∈ xs, z.2.2.pa ≤ addr ∧ addr < z.2.2.pa + n := by
    rintro ⟨z, hz, low, high⟩
    obtain ⟨f, hf, line⟩ := written z hz
    have fits := inside z hz
    exact none' ⟨f, hf, by omega⟩
  rw [begun, retired]
  refine ⟨sk, skeinOf_setSkein_self _ _ _ _, mem'.trans mem, reqs, sq.trans ksq, wait.trans kwait, vregs.trans kvregs, kregs.trans kkregs, fun addr => ?_,
    fun z hz j hj highest => ?_, fun addr free => ?_⟩
  · by_cases line : ∃ f ∈ storeLines x b n xs, f.1 = addr / 128
    · obtain ⟨f, hf, line⟩ := line
      rw [← line, joined hf, line, BitVec.getLsbD_or, Bool.or_eq_true, covered addr hf line]
    · rw [kept addr line]
      exact (or_iff_left (untouched addr line)).symm
  · obtain ⟨f, hf, line⟩ := written z hz
    have fits := inside z hz
    have line' : f.1 = (z.2.2.pa + j) / 128 := by omega
    rw [← line', joined hf]
    dsimp only
    rw [lineByte_mergeLine, if_pos ((covered (z.2.2.pa + j) hf line').2 ⟨z, hz, by omega, by omega⟩)]
    have byte := storeLines_byte lanes hf hz line hj fits fun w hw low high => highest w hw ⟨low, high⟩
    rwa [show z.2.2.pa % 128 + j = (z.2.2.pa + j) % 128 by omega] at byte
  · by_cases line : ∃ f ∈ storeLines x b n xs, f.1 = addr / 128
    · obtain ⟨f, hf, line⟩ := line
      rw [← line, joined hf, line]
      dsimp only
      rw [lineByte_mergeLine, if_neg fun h => ?_]
      obtain ⟨z, hz, range⟩ := (covered addr hf line).1 h
      exact free z hz range
    · rw [kept addr line]

end Sys2Proof.Machine
end

section
/-! PROOFS. ST, STB and STK begin (O30). -/

namespace Sys2Proof.Machine

/-- Only a plain access may reach a page of type 10 (R222). -/
theorem useCheck_other_type {s : State} {die : Nat} {y w : Xl} (h : useCheck s die y .other = .ok w) : w.type ≠ 2 := by
  have hole (h : (if regionPresent s y.pa then Except.ok y else .error tcHole) = Except.ok w) : w = y := by
    split at h
    · exact (Except.ok.inj h).symm
    · cases h
  unfold useCheck at h
  dsimp only at h
  split at h
  · cases h
  · cases h
  · rename_i plain
    split at h
    · cases h
    · cases h
    · rw [if_neg (by decide)] at h
      exact hole h ▸ plain
    · exact hole h ▸ plain

/-- No lane accesses twice where the accesses are made lane by lane. -/
theorem Accesses.lanes {x : Ctx} {c : Ctl} {k : Access} {bases acc : List (Nat × Nat)} {s : State} {xs : Passed} (h : Accesses x c k bases acc s xs)
    (distinct : (acc.map Prod.fst).Nodup) : (xs.map Prod.fst).Nodup := by
  obtain ⟨-, -, -, -, lanes, -⟩ := h
  rw [← lanes, List.map_map] at distinct
  exact distinct

theorem Accesses.not_device {x : Ctx} {c : Ctl} {k : Access} {bases acc : List (Nat × Nat)} {s : State} {xs : Passed} (h : Accesses x c k bases acc s xs)
    (other : k.use = .other) : isDevice xs = false := by
  obtain ⟨-, -, -, -, -, held, -⟩ := h
  refine List.any_eq_false.2 fun e he => ?_
  obtain ⟨p, y, -, -, used⟩ := held e he
  rw [other] at used
  simpa using useCheck_other_type used

theorem laneEas_nodup (x : Ctx) (a : VK) (off : Word) : ((laneEas x a off).map Prod.fst).Nodup :=
  List.pairwise_map.2 ((lanes_ascending x.act (eaOf x a off)).imp fun h => Nat.ne_of_lt h)

theorem blockWords_nodup (x : Ctx) (a : VK) (off : Word) : ((blockWords x a off).map Prod.fst).Nodup := by
  refine List.pairwise_map.2 (List.Pairwise.filterMap _ (fun l m lt e he z hz => ?_) (lanesOf_ascending x.act))
  obtain ⟨_, -, rfl⟩ := Option.map_eq_some_iff.1 he
  obtain ⟨_, -, rfl⟩ := Option.map_eq_some_iff.1 hz
  exact Nat.ne_of_lt lt

/-! Room for a store. -/

theorem storeGate_plain {x : Ctx} {b : VK} {n : Nat} {ver : Bool} {xs : Passed} {s : State} (free : (isDevice xs && deviceBusy x) = false)
    (plain : ver = false ∨ x.sk.taskOpen = false) : storeGate x b n ver xs s = (.ready, s) := by
  unfold storeGate
  rw [if_neg (by simp [free]), if_neg (by rintro ⟨hv, ht⟩; rcases plain with h | h <;> simp [h] at hv ht)]

theorem storeGate_versions {x : Ctx} {b : VK} {n : Nat} {xs : Passed} {s : State} (free : (isDevice xs && deviceBusy x) = false) (open' : x.sk.taskOpen = true)
    (fits : (dedup (NMap.keys x.sk.versions ++ (storeLines x b n xs).map Prod.fst)).length ≤ 2048)
    (room : (versionRoom x s ((storeLines x b n xs).map Prod.fst)).1 = true) :
    storeGate x b n true xs s = (.ready, (versionRoom x s ((storeLines x b n xs).map Prod.fst)).2) := by
  unfold storeGate
  rw [if_neg (by simp [free]), if_pos ⟨rfl, open'⟩]
  dsimp only
  rw [if_neg (Nat.not_lt.2 fits), room]
  rfl

/-- The sets that a store's new versions take, as the obligation states them. -/
def SetsClean (s : State) (xs : Passed) : Prop :=
  ∀ z ∈ xs, ∀ k, k / 16 = z.2.2.pa / 128 % 8192 → ∀ l, NMap.get? (sliceOf s (homeSlice s z.2.2.pa)).lines k = some l → l.dirty = false

theorem versionRoom_store {s : State} {xs : Passed} (clear : SetsClean s xs) (x : Ctx) (b : VK) (n : Nat) :
    (versionRoom x s ((storeLines x b n xs).map Prod.fst)).1 = true ∧ besidesSlices (versionRoom x s ((storeLines x b n xs).map Prod.fst)).2 = besidesSlices s := by
  refine versionRoom_ready x fun line hl k set l held => ?_
  rw [storeLines_fst] at hl
  obtain ⟨z, hz, rfl⟩ := (mem_loadLines xs line).1 hl
  rw [homeSlice_line] at held
  exact clear z hz k set l held

/-- An access of a store goes on into the queue. -/
theorem memAccess_store {x : Ctx} {c : Ctl} {k : Access} {bases acc : List (Nat × Nat)} {s : State} {xs : Passed} {b : VK} {n : Nat} {ver : Bool}
    (h : Accesses x c k bases acc s xs) (free : (isDevice xs && deviceBusy x) = false) (plain : ver = false ∨ x.sk.taskOpen = false) (go : Passed → State → State) :
    memAccess x c k bases acc (storeGate x b n ver) go s = go xs (clearWalkFaults s x.core x.slot) :=
  memAccess_goes h (storeGate_plain free plain) (fun i hi => by rw [watchLane_clearWalkFaults]; exact h.unwatched i hi) go

/-- An access of a store goes on into the versions of the task. -/
theorem memAccess_versions {x : Ctx} {c : Ctl} {k : Access} {bases acc : List (Nat × Nat)} {s : State} {xs : Passed} {b : VK} {n : Nat}
    (h : Accesses x c k bases acc s xs) (free : (isDevice xs && deviceBusy x) = false) (open' : x.sk.taskOpen = true)
    (fits : (dedup (NMap.keys x.sk.versions ++ (storeLines x b n xs).map Prod.fst)).length ≤ 2048) (clear : SetsClean s xs) (go : Passed → State → State) :
    ∃ u, besidesSlices u = besidesSlices (clearWalkFaults s x.core x.slot) ∧ memAccess x c k bases acc (storeGate x b n true) go s = go xs u := by
  obtain ⟨room, besides⟩ := versionRoom_store (s := clearWalkFaults s x.core x.slot) clear x b n
  refine ⟨_, besides, memAccess_goes h (storeGate_versions free open' fits room) (fun i hi => ?_) go⟩
  have dev := congrArg State.dev besides
  have grids := congrArg State.grids besides
  have bolt := congrArg (fun v : State => boltOf v x.core x.sk.bolt) besides
  exact (watchLane_congr (s := s) dev grids bolt _ _ _ _ _).trans (h.unwatched i hi)

/-- The versions after a store into them, as the obligation states them. -/
def VersionsTake (i : Instr) (x : Ctx) (s : State) (b : VK) (n : Nat) (xs : Passed) : Prop :=
  let covers := fun (z : Nat × Nat × Xl) (addr : Nat) => z.2.2.pa ≤ addr ∧ addr < z.2.2.pa + n
  let bytesOf := fun (sk : Skein) (addr : Nat) => lineByte (NMap.getD sk.versions (addr / 128) (0, 0)).2 (addr % 128)
  ∃ t sk, exec i s = .next t ∧ skeinOf t x.core x.slot = some sk ∧ t.mem = s.mem ∧ t.reqs = (clearWalkFaults s x.core x.slot).reqs ∧
    sk.sq = x.sk.sq ∧ sk.sqWait = x.sk.sqWait ∧ sk.vregs = x.sk.vregs ∧ sk.kregs = x.sk.kregs ∧
    (∀ addr, (NMap.getD sk.versions (addr / 128) (0, 0)).1.getLsbD (addr % 128) = true ↔
      (NMap.getD x.sk.versions (addr / 128) (0, 0)).1.getLsbD (addr % 128) = true ∨ ∃ z ∈ xs, covers z addr) ∧
    (∀ z ∈ xs, ∀ j, j < n → (∀ w ∈ xs, covers w (z.2.2.pa + j) → w.1 ≤ z.1) → some (bytesOf sk (z.2.2.pa + j)) = (storeBytes x b n z.1)[j]?) ∧
    ∀ addr, (∀ z ∈ xs, ¬covers z addr) → bytesOf sk addr = bytesOf x.sk addr

theorem versionsTake {i : Instr} {x : Ctx} {c : Ctl} {s u : State} {b : VK} {sc : Scope} {cp : CPol} {n : Nat} {xs : Passed} (here : skeinOf s x.core x.slot = some x.sk)
    (open' : x.sk.taskOpen = true) (inside : ∀ e ∈ xs, e.2.2.pa % 128 + n ≤ 128) (lanes : (xs.map Prod.fst).Nodup)
    (besides : besidesSlices u = besidesSlices (clearWalkFaults s x.core x.slot)) (runs : exec i s = .next (beginStore x c b sc cp n true xs u)) :
    VersionsTake i x s b n xs := by
  have skein : skeinOf u x.core x.slot = some x.sk := (congrArg (fun v : State => skeinOf v x.core x.slot) besides).trans here
  have sameMem := congrArg State.mem besides
  have sameReqs := congrArg State.reqs besides
  obtain ⟨sk, here', mem, reqs, rest⟩ := beginStore_versions (c := c) (b := b) (sc := sc) (cp := cp) (s := s) skein sameMem open' inside lanes
  exact ⟨_, sk, runs, here', mem, reqs.trans sameReqs, rest⟩

/-! The three instructions. -/

section
variable {c : Ctl} {x : Ctx} {s : State} {off : Word} {sc : Scope} {cp : CPol}

theorem st_access {a b : VK} {sz : ASize} {ver : Bool} (ready : Ready { activeMarks := true } (Instr.use (.st c a b off sz sc cp ver)) c x s) :
    exec (.st c a b off sz sc cp ver) s = .next (memAccess (activeCtx x c) c
      { kind := .write, use := .plain (sizeOf8 sz), size := sizeOf8 sz, align := sizeOf8 sz, rel := true, acq := true, reads := false, writes := true }
      (laneEas (activeCtx x c) a off) (laneEas (activeCtx x c) a off) (storeGate (activeCtx x c) b (sizeOf8 sz) ver)
      (beginStore (activeCtx x c) c b sc cp (sizeOf8 sz) ver) s) := by
  rw [show exec (.st c a b off sz sc cp ver) s = execSt c a b off sz sc cp ver s from rfl, execSt, issue_ready ready rfl]

theorem stb_access {a b : VK} {ver : Bool} (ready : Ready { activeMarks := true } (Instr.use (.stb c a b off sc cp ver)) c x s) :
    exec (.stb c a b off sc cp ver) s = .next (memAccess (activeCtx x c) c
      { kind := .write, use := .other, size := 4, align := 16, rel := true, acq := true, reads := false, writes := true }
      (blockBases (activeCtx x c) a off) (blockWords (activeCtx x c) a off) (storeGate (activeCtx x c) b 4 ver) (beginStore (activeCtx x c) c b sc cp 4 ver) s) := by
  rw [show exec (.stb c a b off sc cp ver) s = execStb c a b off sc cp ver s from rfl, execStb, issue_ready ready rfl]

theorem stk_access {a b n : Nat} {wide : Bool} (size : n = if wide then 8 else 4) (ready : Ready { guard := .coll, activeMarks := true } (Instr.use (.stk c a b off wide sc cp)) c x s) :
    exec (.stk c a b off wide sc cp) s = .next (memAccess (activeCtx x c) c
      { kind := .write, use := .other, size := n, align := n, rel := true, acq := true, reads := false, writes := true }
      (oneEa (activeCtx x c) (.k a) off) (oneEa (activeCtx x c) (.k a) off) (storeGate (activeCtx x c) (.k b) n false)
      (beginStore (activeCtx x c) c (.k b) sc cp n false) s) := by
  subst size
  rw [show exec (.stk c a b off wide sc cp) s = execStk c a b off wide sc cp s from rfl, execStk, issue_ready ready rfl]

end

/-- Settles O30: past its checks a store puts a line's bytes into one entry of the queue, or into the version of the line. -/
theorem stores : Obligations.Stores := by
  unfold Obligations.Stores
  intro c a b ak bk off sz sc cp wide ver xs s x y n one nk plain whole clear covers bytesOf taskStore
  have here {k : Checks} {u : RU} (ready : Ready k u c x s) : skeinOf s y.core y.slot = some y.sk := ctxOf_skein (x := x) ready.1
  have versions : ¬plain → ver = true ∧ y.sk.taskOpen = true := fun h => by
    obtain ⟨hv, ht⟩ := not_or.1 h
    exact ⟨Bool.eq_true_of_not_eq_false hv, Bool.eq_true_of_not_eq_false ht⟩
  refine ⟨fun ready inside free passes => ⟨fun plain => ?_, fun task fits clean => ?_⟩, fun ready inside passes => ⟨fun plain => ?_, fun task fits clean => ?_⟩,
    fun ready inside passes => ?_⟩
  · have runs := (st_access ready).trans (congrArg Host.Outcome.next (memAccess_store passes free plain _))
    exact ⟨⟨_, runs⟩, beginStore_begun (here ready) plain inside (passes.lanes (laneEas_nodup y a off)) runs⟩
  · obtain ⟨rfl, open'⟩ := versions task
    obtain ⟨u, besides, goes⟩ := memAccess_versions passes free open' fits clean (beginStore y c b sc cp n true)
    exact versionsTake (here ready) open' inside (passes.lanes (laneEas_nodup y a off)) besides ((st_access ready).trans (congrArg Host.Outcome.next goes))
  · have free : (isDevice xs && deviceBusy y) = false := by rw [passes.not_device rfl, Bool.false_and]
    have runs := (stb_access ready).trans (congrArg Host.Outcome.next (memAccess_store passes free plain _))
    exact ⟨⟨_, runs⟩, beginStore_begun (here ready) plain inside (passes.lanes (blockWords_nodup y a off)) runs⟩
  · obtain ⟨rfl, open'⟩ := versions task
    have free : (isDevice xs && deviceBusy y) = false := by rw [passes.not_device rfl, Bool.false_and]
    obtain ⟨u, besides, goes⟩ := memAccess_versions passes free open' fits clean (beginStore y c b sc cp 4 true)
    exact versionsTake (here ready) open' inside (passes.lanes (blockWords_nodup y a off)) besides ((stb_access ready).trans (congrArg Host.Outcome.next goes))
  · have free : (isDevice xs && deviceBusy y) = false := by rw [passes.not_device rfl, Bool.false_and]
    have runs := (stk_access rfl ready).trans (congrArg Host.Outcome.next (memAccess_store passes free (.inl rfl) _))
    exact ⟨⟨_, runs⟩, beginStore_begun (here ready) (.inl rfl) inside (passes.lanes (List.nodup_singleton _)) runs⟩

end Sys2Proof.Machine
end

section
/-! PROOFS. Atomics, fences, flushes, SEQR and prefetches begin (O32). -/

namespace Sys2Proof.Machine

/-- An instruction that raises no trap has its effect (R231, R232). -/
theorem issue_quiet {u : RU} {c : Ctl} {x : Ctx} {s : State} {early : Ctx → State → Option TrapInfo} {body : Ctx → State → State} (h : QuietReady {} u c x s)
    (he : early (activeCtx x c) s = none) : issue { quiet := true } u c early body s = .next (body (activeCtx x c) s) := by
  obtain ⟨ctx, act, -, window, busy⟩ := h
  have inside : ((u.rv ++ u.wv).any (fun n => !vOkIn x.sk.globals x.pa.win n)) = false := by
    simp only [List.any_eq_false, Bool.not_eq_true', Bool.not_eq_false]
    simpa only [List.all_eq_true] using window
  have first : gate1 { quiet := true } u c x s = .go (guardLanes x c) := by
    unfold gate1
    simp only [act, inside, Bool.false_eq_true, false_and, if_false, List.any_nil, reduceCtorEq]
  have last : gateLast { quiet := true } u (activeCtx x c) s = .go (guardLanes x c) := by
    unfold gateLast
    rw [if_pos rfl, if_neg (by rw [show wordBusy (activeCtx x c) u = false from busy]; decide)]
    rfl
  have last' : gateLast { quiet := true } u { x with act := guardLanes x c } s = .go (guardLanes x c) := last
  have he' : early { x with act := guardLanes x c } s = none := he
  unfold issue
  rw [ctx]
  simp only [first, he', last']
  rfl

/-- Registers whose marks no lane at all has pass also where the active lanes' marks alone count (R220). -/
theorem Ready.activeMarks {u : RU} {c : Ctl} {x : Ctx} {s : State} {g : GuardKind} (h : Ready { guard := g } u c x s) : Ready { guard := g, activeMarks := true } u c x s := by
  obtain ⟨ctx, act, coll, single, full, window, accs, busy, pending, marks⟩ := h
  refine ⟨ctx, act, coll, single, full, window, accs, busy, pending, ?_⟩
  simp only [clean, Bool.and_eq_true, List.all_eq_true] at marks ⊢
  obtain ⟨vector, uniform⟩ := marks
  refine ⟨fun n hn => ?_, uniform⟩
  have free := vector n hn
  cases hm : NMap.get? x.sk.vmarks (vkey x.pa.win n) with
  | none => rfl
  | some m =>
    rw [hm] at free
    simp only [Option.all_some, Bool.and_eq_true] at free ⊢
    exact ⟨rfl, free.2⟩

section
variable {c : Ctl} {x : Ctx} {s : State} {off : Word} {sc : Scope}

/-- The beginning of an operation after which what waits in the core goes on: its state. -/
def begunState (x : Ctx) (c : Ctl) (s u : State) (o : Op) : State :=
  pokeCore { setSkein u x.core x.slot (skeinBegun (activeCtx x c) c s.nextId { o with path := x.path, fromStitch := (activeCtx x c).inWord }) with nextId := s.nextId + 1 } x.core

theorem begunState_eq {u : State} (here : skeinOf u x.core x.slot = some x.sk) (number : u.nextId = s.nextId) (o : Op) :
    pokeCore (retire (activeCtx x c) (beginOp (activeCtx x c) c o u).2) x.core = begunState x c s u o := by
  rw [retire_beginOp c (by exact here), number]
  rfl

/-- What an atomic asks of its lanes' lines. -/
def atomTodo (op : Option AtomOp) (ty : IType) (b cv : Nat → DWord) (xs : Passed) : List (Nat × Nat × AtomReq) :=
  xs.map (fun e => (e.1, e.2.2.pa / 128, { op := op.getD .exch, isCas := op.isNone, ty := ty, off := e.2.2.pa % 128, b := b e.1, c := cv e.1 : AtomReq }))

theorem atomicGo_begins {d a : VK} {o : Option AtomOp} {ty : IType} {b cv : Nat → DWord} {xs : Passed} (here : skeinOf s x.core x.slot = some x.sk)
    (passes : Accesses (activeCtx x c) c { kind := .write, use := .atomic (hostAtomicOk o ty), size := itWidth ty / 8, align := itWidth ty / 8, rel := true, acq := true, reads := true, writes := true }
      (laneEas (activeCtx x c) a off) (laneEas (activeCtx x c) a off) s xs) :
    atomicGo (activeCtx x c) c d a off o ty sc b cv s = begunState x c s (clearWalkFaults s x.core x.slot)
      { cls := .memory, path := x.path, isLoad := true, pend := dstRefs (activeCtx x c) d ty.regs
        body := .atomic (atomTodo o ty b cv xs) (atomTodo o ty b cv xs).length sc [] ty (dstRefs (activeCtx x c) d ty.regs) false { loads := pathLoads x.sk x.path } } := by
  unfold atomicGo
  dsimp only
  rw [memAccess_room (p := fun _ _ => true) passes rfl]
  exact begunState_eq (u := clearWalkFaults s x.core x.slot) here rfl _

/-- The operation of an atomic that begins. -/
def atomOp (x : Ctx) (d : Nat → List RegRef) (ty : IType) (sc : Scope) (todo : List (Nat × Nat × AtomReq)) : Op :=
  { cls := .memory, path := x.path, isLoad := true, pend := d ty.regs, body := .atomic todo todo.length sc [] ty (d ty.regs) false { loads := pathLoads x.sk x.path } }

theorem atom_begins {d a b : VK} {op : AtomOp} {ty : IType} {xs : Passed} (ready : Ready { activeMarks := true } (Instr.use (.atom c d a b off op ty sc)) c x s)
    (passes : Accesses (activeCtx x c) c { kind := .write, use := .atomic (hostAtomicOk (some op) ty), size := itWidth ty / 8, align := itWidth ty / 8, rel := true, acq := true, reads := true, writes := true }
      (laneEas (activeCtx x c) a off) (laneEas (activeCtx x c) a off) s xs) :
    exec (.atom c d a b off op ty sc) s = .next (begunState x c s (clearWalkFaults s x.core x.slot)
      (atomOp x (dstRefs (activeCtx x c) d) ty sc (atomTodo (some op) ty (vkBits (activeCtx x c) ty b) (fun _ => 0) xs))) := by
  rw [show exec (.atom c d a b off op ty sc) s = execAtom c d a b off op ty sc s from rfl, execAtom, issue_ready ready rfl]
  exact congrArg Host.Outcome.next (atomicGo_begins (ctxOf_skein ready.1) passes)

theorem atomc_begins {d a b cc : VK} {ty : IType} {xs : Passed} (ready : Ready { activeMarks := true } (Instr.use (.atomc c d a b cc ty sc)) c x s)
    (passes : Accesses (activeCtx x c) c { kind := .write, use := .atomic (hostAtomicOk none ty), size := itWidth ty / 8, align := itWidth ty / 8, rel := true, acq := true, reads := true, writes := true }
      (laneEas (activeCtx x c) a 0) (laneEas (activeCtx x c) a 0) s xs) :
    exec (.atomc c d a b cc ty sc) s = .next (begunState x c s (clearWalkFaults s x.core x.slot)
      (atomOp x (dstRefs (activeCtx x c) d) ty sc (atomTodo none ty (vkBits (activeCtx x c) ty b) (vkBits (activeCtx x c) ty cc) xs))) := by
  rw [show exec (.atomc c d a b cc ty sc) s = execAtomc c d a b cc ty sc s from rfl, execAtomc, issue_ready ready rfl]
  exact congrArg Host.Outcome.next (atomicGo_begins (ctxOf_skein ready.1) passes)

theorem fence_begins {k : FenceKind} (ready : Ready { guard := .any } {} c x s) (free : memHeld (activeCtx x c) false true = false) (flag : flagRoom (activeCtx x c) c = true) :
    exec (.fence c k sc) s = .next (begunState x c s s { cls := .memory, path := x.path, body := .fence k sc { loads := pathLoads x.sk x.path } }) := by
  rw [show exec (.fence c k sc) s = execFence c k sc s from rfl, execFence, issue_ready ready rfl]
  dsimp only
  rw [if_neg (by simp [free, flag])]
  exact congrArg Host.Outcome.next (begunState_eq (ctxOf_skein ready.1) rfl _)

/-- CFLUSH and CINV retire at once at a scope that needs nothing, and begin an operation otherwise (R230). -/
def flushBegun (x : Ctx) (c : Ctl) (inv : Bool) (sc : Scope) (s u : State) (lines : Option (List Nat)) : State :=
  if scopeRank sc ≤ 1 then retire (activeCtx x c) u else begunState x c s u { cls := .memory, path := x.path, body := .flush inv sc lines {} }

theorem flushBegun_eq {u : State} (here : skeinOf u x.core x.slot = some x.sk) (number : u.nextId = s.nextId) (inv : Bool) (lines : Option (List Nat)) :
    (if scopeRank sc ≤ 1 then retire (activeCtx x c) u
      else pokeCore (retire (activeCtx x c) (beginOp (activeCtx x c) c { cls := .memory, path := x.path, body := .flush inv sc lines {} } u).2) x.core) =
    flushBegun x c inv sc s u lines := by
  rw [begunState_eq here number, flushBegun]

theorem flushGo_all (here : skeinOf s x.core x.slot = some x.sk) (free : memHeld (activeCtx x c) false true = false) (flag : flagRoom (activeCtx x c) c = true) (inv : Bool) :
    flushGo (activeCtx x c) c inv none off sc s = flushBegun x c inv sc s s none := by
  unfold flushGo
  dsimp only
  rw [if_neg (by simp [free, flag])]
  exact flushBegun_eq here rfl inv none

theorem flushGo_some {a : VK} {xs : Passed} (here : skeinOf s x.core x.slot = some x.sk)
    (passes : Accesses (activeCtx x c) c { kind := .read, use := .other, size := 1, align := 1, rel := false, acq := true, reads := false, writes := false }
      (laneEas (activeCtx x c) a off) (laneEas (activeCtx x c) a off) s xs) (inv : Bool) :
    flushGo (activeCtx x c) c inv (some a) off sc s =
      flushBegun x c inv sc s (clearWalkFaults s x.core x.slot) (some (dedup (xs.map (fun e => e.2.2.pa / 128)))) := by
  unfold flushGo
  dsimp only
  rw [memAccess_room (p := fun _ _ => true) passes rfl]
  exact flushBegun_eq (u := clearWalkFaults s x.core x.slot) here rfl inv _

theorem cflush_issue {a : Option VK} (ready : Ready { guard := if a.isSome then .lane else .any, activeMarks := true } (Instr.use (.cflush c a off sc)) c x s) :
    exec (.cflush c a off sc) s = .next (flushGo (activeCtx x c) c false a off sc s) := by
  rw [show exec (.cflush c a off sc) s = execCflush c a off sc s from rfl, execCflush, issue_ready ready rfl]

theorem cinv_issue {a : Option VK} (ready : Ready { guard := if a.isSome then .lane else .any, activeMarks := true } (Instr.use (.cinv c a off sc)) c x s) :
    exec (.cinv c a off sc) s = .next (flushGo (activeCtx x c) c true a off sc s) := by
  rw [show exec (.cinv c a off sc) s = execCinv c a off sc s from rfl, execCinv, issue_ready ready rfl]

theorem seqr_begins {d : VK} (ready : QuietReady {} (Instr.use (.seqr c d)) c x s) (free : memHeld (activeCtx x c) false true = false) (flag : flagRoom (activeCtx x c) c = true) :
    exec (.seqr c d) s = .next (begunState x c s s
      { cls := .memory, path := x.path, isLoad := true, pend := dstRefs (activeCtx x c) d 2, body := .seqr (dstRefs (activeCtx x c) d 2) (activeCtx x c).act s.nextId }) := by
  rw [show exec (.seqr c d) s = execSeqr c d s from rfl, execSeqr, issue_quiet ready rfl]
  dsimp only
  rw [if_neg (by simp [free, flag])]
  exact congrArg Host.Outcome.next (begunState_eq (ctxOf_skein ready.1) rfl _)

end

/-! PREF (R231). -/

/-- From `s` to `t` requests are sent, and nothing else of the machine changes. -/
def Sends (s t : State) (new : List Req) : Prop := ∃ m, t = { s with reqs := s.reqs ++ new, nextId := m }

theorem Sends.refl (s : State) : Sends s s [] := ⟨s.nextId, by rw [List.append_nil]⟩

theorem Sends.trans {s t u : State} {a b : List Req} (h : Sends s t a) (g : Sends t u b) : Sends s u (a ++ b) := by
  obtain ⟨m, rfl⟩ := h
  obtain ⟨m', rfl⟩ := g
  exact ⟨m', by rw [← List.append_assoc]⟩

/-- A request that PREF sends. -/
def PrefetchOf (core : Nat) (l2 : Bool) (r : Req) : Prop := r.who = .prefetch core ∧ r.kind = .prefetch ∨ r.who = .prefetch core ∧ r.kind = .read allLanes ∧ l2 = false

theorem sendPrefetch_sends (s : State) (core : Nat) (l2 : Bool) (y : Xl) : ∃ new, Sends s (sendPrefetch s core l2 y) new ∧ (∀ r ∈ new, PrefetchOf core l2 r) ∧
    ∀ w, useCheck s (dieOf core) y .other = .ok w → isMain w.pa = true → ∃ r ∈ new, r.line = w.pa / 128 := by
  unfold sendPrefetch
  cases used : useCheck s (dieOf core) y .other with
  | error n => exact ⟨[], .refl s, by simp, by simp⟩
  | ok w =>
    dsimp only
    by_cases main : isMain w.pa = true
    · rw [if_pos main]
      refine ⟨[_], ⟨s.nextId + 1, rfl⟩, fun r hr => ?_, fun v hv _ => ⟨_, .head _, ?_⟩⟩
      · rw [List.mem_singleton.1 hr]
        cases l2 with
        | true => exact .inl ⟨rfl, rfl⟩
        | false =>
          by_cases other : w.type = 1
          · exact .inl ⟨rfl, by simp [other]⟩
          · exact .inr ⟨rfl, by simp [other], rfl⟩
      · rw [Except.ok.inj hv]
    · rw [if_neg main]
      exact ⟨[], .refl s, by simp, fun v hv isMain => absurd (Except.ok.inj hv ▸ isMain) main⟩

/-- One line of a PREF. -/
def prefTurn (x : Ctx) (l2 : Bool) (s : State) (va : Nat) : State :=
  match translate s (.prefetch x.core l2 va) (some x.core) x.die (partOf s x.core) (x.launch s).ctx va .read with
  | (some (.ok y), s) => sendPrefetch s x.core l2 y
  | (_, s) => s

theorem pref_issue {c : Ctl} {x : Ctx} {s : State} {a : VK} {off : Word} {l2 : Bool} (ready : QuietReady {} (Instr.use (.pref c a off l2)) c x s)
    (free : memHeld (activeCtx x c) false true = false) :
    exec (.pref c a off l2) s = .next (retire (activeCtx x c) ((prefLines (activeCtx x c) a off).foldl (prefTurn (activeCtx x c) l2) s)) := by
  rw [show exec (.pref c a off l2) s = execPref c a off l2 s from rfl, execPref, issue_quiet ready rfl]
  dsimp only
  rw [if_neg (by simp [free])]
  rfl

theorem translate_keeps (s : State) (a : Agent) (core : Option Nat) (die owner ctx va : Nat) (kind : WalkKind) :
    (translate s a core die owner ctx va kind).2.mem = s.mem ∧ (translate s a core die owner ctx va kind).2.reqs = s.reqs := by
  unfold translate
  split
  · dsimp only [tlbUse]
    repeat' split
    all_goals exact ⟨rfl, rfl⟩
  · unfold postWalk
    dsimp only
    split <;> exact ⟨rfl, rfl⟩

/-- What a PREF leaves as it was, and the requests that it sends. -/
def PrefSoFar (core : Nat) (l2 : Bool) (s t : State) (new : List Req) : Prop :=
  t.mem = s.mem ∧ t.reqs = s.reqs ++ new ∧ besidesTlb t = besidesTlb s ∧ ∀ r ∈ new, PrefetchOf core l2 r

theorem prefTurn_keeps (x : Ctx) (l2 : Bool) (s : State) (va : Nat) : ∃ new, PrefSoFar x.core l2 s (prefTurn x l2 s va) new := by
  have kept := translate_keeps s (.prefetch x.core l2 va) (some x.core) x.die (partOf s x.core) (x.launch s).ctx va .read
  have tlb := besidesTlb_translate s (.prefetch x.core l2 va) (some x.core) x.die (partOf s x.core) (x.launch s).ctx va .read
  unfold prefTurn
  generalize translate s (.prefetch x.core l2 va) (some x.core) x.die (partOf s x.core) (x.launch s).ctx va .read = r at kept tlb
  obtain ⟨found, u⟩ := r
  obtain ⟨mem, reqs⟩ := kept
  have idle : PrefSoFar x.core l2 s u [] := ⟨mem, by rw [List.append_nil]; exact reqs, tlb, by simp⟩
  match found with
  | none => exact ⟨[], idle⟩
  | some (.error n) => exact ⟨[], idle⟩
  | some (.ok y) =>
    obtain ⟨new, ⟨m, sent⟩, own, -⟩ := sendPrefetch_sends u x.core l2 y
    refine ⟨new, ?_⟩
    dsimp only
    rw [sent]
    exact ⟨mem, by rw [← reqs], (besidesTlb_of_cores rfl).trans tlb, own⟩

theorem prefTurns_keep (x : Ctx) (l2 : Bool) (vas : List Nat) : ∀ s, ∃ new, PrefSoFar x.core l2 s (vas.foldl (prefTurn x l2) s) new ∧ (vas = [] → new = []) := by
  induction vas with
  | nil => exact fun s => ⟨[], ⟨rfl, (List.append_nil _).symm, rfl, by simp⟩, fun _ => rfl⟩
  | cons va rest ih =>
    intro s
    obtain ⟨first, mem, reqs, tlb, own⟩ := prefTurn_keeps x l2 s va
    obtain ⟨more, ⟨mem', reqs', tlb', own'⟩, -⟩ := ih (prefTurn x l2 s va)
    refine ⟨first ++ more, ⟨mem'.trans mem, ?_, tlb'.trans tlb, fun r hr => (List.mem_append.1 hr).elim (own r) (own' r)⟩, by simp⟩
    rw [List.foldl_cons, reqs', reqs, List.append_assoc]

/-- Where the core has the translation of a line, PREF only sends its request. -/
theorem prefTurn_found {x : Ctx} {s : State} {va : Nat} {p : TlbEntry} (l2 : Bool) (found : tlbFind (coreOf s x.core).tlb (x.launch s).ctx va = some p) :
    ∃ new, Sends s (prefTurn x l2 s va) new ∧
      ∀ z w, tlbAccess p va .read = .ok z → useCheck s x.die z .other = .ok w → isMain w.pa = true → ∃ r ∈ new, r.line = w.pa / 128 := by
  have given : translate s (.prefetch x.core l2 va) (some x.core) x.die (partOf s x.core) (x.launch s).ctx va .read = (some (tlbAccess p va .read), s) := by
    unfold translate
    rw [tlbResult_found _ _ found]
    dsimp only
    rw [tlbUse_found found]
  unfold prefTurn
  rw [given]
  cases answer : tlbAccess p va .read with
  | error n => exact ⟨[], .refl s, fun z w hz => nomatch hz⟩
  | ok y =>
    obtain ⟨new, sends, -, sent⟩ := sendPrefetch_sends s x.core l2 y
    exact ⟨new, sends, fun z w hz used main => sent w (Except.ok.inj hz ▸ used) main⟩

theorem prefTurns_found {x : Ctx} {s : State} {l2 : Bool} (vas : List Nat) (found : ∀ va ∈ vas, (tlbFind (coreOf s x.core).tlb (x.launch s).ctx va).isSome = true) :
    ∀ {u : State} {before : List Req}, Sends s u before → ∃ new, Sends s (vas.foldl (prefTurn x l2) u) (before ++ new) ∧
      ∀ va ∈ vas, ∀ p z w, tlbFind (coreOf s x.core).tlb (x.launch s).ctx va = some p → tlbAccess p va .read = .ok z → useCheck s x.die z .other = .ok w →
        isMain w.pa = true → ∃ r ∈ new, r.line = w.pa / 128 := by
  induction vas with
  | nil => exact fun {u before} h => ⟨[], by simpa using h, by simp⟩
  | cons va rest ih =>
    intro u before h
    obtain ⟨p, hp⟩ := Option.isSome_iff_exists.1 (found va (.head _))
    have same : tlbFind (coreOf u x.core).tlb (x.launch u).ctx va = some p ∧ ∀ z, useCheck u x.die z .other = useCheck s x.die z .other := by
      obtain ⟨m, rfl⟩ := h
      exact ⟨hp, fun z => useCheck_congr rfl _ _ _⟩
    obtain ⟨first, sends, sent⟩ := prefTurn_found l2 same.1
    obtain ⟨more, sends', sent'⟩ := ih (fun v hv => found v (.tail _ hv)) (h.trans sends)
    refine ⟨first ++ more, by rw [← List.append_assoc]; exact sends', fun v hv q z w hq hz used main => ?_⟩
    rcases List.mem_cons.1 hv with rfl | hv
    · obtain rfl := Option.some.inj (hp.symm.trans hq)
      obtain ⟨r, hr, line⟩ := sent z w hz ((same.2 z).trans used) main
      exact ⟨r, List.mem_append_left _ hr, line⟩
    · obtain ⟨r, hr, line⟩ := sent' v hv q z w hq hz used main
      exact ⟨r, List.mem_append_right _ hr, line⟩

theorem mem_prefLines (x : Ctx) (a : VK) (off : Word) (va : Nat) :
    va ∈ prefLines x a off ↔ ∃ e ∈ laneEas x a off, canonical e.2 = true ∧ addrMarked x a e.1 = false ∧ va57 e.2 / 128 * 128 = va := by
  simp [prefLines, mem_dedup, and_assoc]

end Sys2Proof.Machine
end

section
/-! PROOFS. The registers that an operation writes when it ends (R220; for O32, O39). -/

namespace Sys2Proof.Machine

theorem ne_zero_iff {n : Nat} (m : BitVec n) : m ≠ 0 ↔ ∃ i, m.getLsbD i = true := by
  constructor
  · intro some'
    by_contra none'
    push Not at none'
    exact some' (BitVec.eq_of_getLsbD_eq fun i _ => by simpa using none' i)
  · rintro ⟨i, on⟩ zero
    rw [zero] at on
    simp at on

/-! One register after the other. -/

/-- One register of a result. -/
def resultTurn (lanes bad : LMask) (v : Nat → Nat) (sk : Skein) (e : RegRef × Nat) : Skein :=
  match e.1 with
  | .v key => vput sk key lanes (fun l => BitVec.ofNat 32 (v l / 2 ^ (32 * e.2))) bad
  | .k n => kput sk n (BitVec.ofNat 32 (v (lowest lanes) / 2 ^ (32 * e.2))) (decide (bad ≠ 0))
  | .p _ => sk

theorem writeResultsN_eq (sk : Skein) (dst : List RegRef) (lanes bad : LMask) (v : Nat → Nat) :
    writeResultsN sk dst lanes bad v = (dst.zip (List.range dst.length)).foldl (resultTurn lanes bad v) sk := rfl

/-- The value and the mark of a vector register are those that it had. -/
def SameV (a b : Skein) (key : Nat) : Prop := NMap.get? b.vregs key = NMap.get? a.vregs key ∧ NMap.getD b.vmarks key 0 = NMap.getD a.vmarks key 0
/-- The value and the mark of a uniform register are those that it had. -/
def SameK (a b : Skein) (n : Nat) : Prop := NMap.get? b.kregs n = NMap.get? a.kregs n ∧ (n ∈ b.kmarks ↔ n ∈ a.kmarks)

theorem SameV.trans {a b c : Skein} {key : Nat} (h : SameV a b key) (g : SameV b c key) : SameV a c key := ⟨g.1.trans h.1, g.2.trans h.2⟩
theorem SameK.trans {a b c : Skein} {n : Nat} (h : SameK a b n) (g : SameK b c n) : SameK a c n := ⟨g.1.trans h.1, g.2.trans h.2⟩

theorem NMap.getD_erase_ne {α : Type} (m : NMap α) {n k : Nat} (d : α) (h : k ≠ n) : NMap.getD (NMap.erase m n) k d = NMap.getD m k d := by
  rw [NMap.getD, NMap.get?_erase_ne m h, NMap.getD]

theorem getD_markV_ne (marks : NMap LMask) {key k : Nat} (act bad : LMask) (h : k ≠ key) : NMap.getD (markV marks key act bad) k 0 = NMap.getD marks k 0 := by
  unfold markV
  split
  · exact NMap.getD_erase_ne marks 0 h
  · exact NMap.getD_insert_ne marks _ 0 h

/-- A lane that is written carries a mark when it was written with one. -/
theorem getLsbD_markV (marks : NMap LMask) (key : Nat) {act bad : LMask} {l : Nat} (written : act.getLsbD l = true) :
    (NMap.getD (markV marks key act bad) key 0).getLsbD l = bad.getLsbD l := by
  unfold markV
  split
  · rename_i none'
    simp [NMap.getD, none']
  · simp [without, written]

theorem sameV_vput (sk : Skein) {key k : Nat} (act bad : LMask) (f : Nat → Word) (h : k ≠ key) : SameV sk (vput sk key act f bad) k := by
  unfold vput
  split
  · exact ⟨rfl, rfl⟩
  · exact ⟨NMap.get?_insert_ne _ _ h, getD_markV_ne _ _ _ h⟩

theorem sameK_vput (sk : Skein) (key n : Nat) (act bad : LMask) (f : Nat → Word) : SameK sk (vput sk key act f bad) n := by
  unfold vput
  split <;> exact ⟨rfl, Iff.rfl⟩

theorem sameV_kput (sk : Skein) (n key : Nat) (w : Word) (bad : Bool) : SameV sk (kput sk n w bad) key := ⟨rfl, rfl⟩

theorem mem_sortedInsert (n k : Nat) (l : List Nat) : k ∈ sortedInsert n l ↔ k = n ∨ k ∈ l := by
  induction l with
  | nil => simp [sortedInsert]
  | cons a r ih =>
    rw [sortedInsert]
    split
    · simp
    · split
      · rename_i same
        simp [same]
      · simp [ih, or_left_comm]

theorem mem_kmarks_kput (sk : Skein) (n k : Nat) (w : Word) (bad : Bool) : k ∈ (kput sk n w bad).kmarks ↔ if k = n then bad = true else k ∈ sk.kmarks := by
  cases bad with
  | true => by_cases h : k = n <;> simp [kput, mem_sortedInsert, h]
  | false => by_cases h : k = n <;> simp [kput, h]

theorem sameK_kput (sk : Skein) {n k : Nat} (w : Word) (bad : Bool) (h : k ≠ n) : SameK sk (kput sk n w bad) k :=
  ⟨NMap.get?_insert_ne _ _ h, by rw [mem_kmarks_kput, if_neg h]⟩

section
variable (lanes bad : LMask) (v : Nat → Nat)

theorem resultTurn_preds (sk : Skein) (e : RegRef × Nat) : (resultTurn lanes bad v sk e).preds = sk.preds := by
  unfold resultTurn
  split
  · unfold vput
    split <;> rfl
  · rfl
  · rfl

theorem resultTurn_sameV (sk : Skein) (e : RegRef × Nat) {key : Nat} (h : e.1 ≠ .v key) : SameV sk (resultTurn lanes bad v sk e) key := by
  unfold resultTurn
  split
  · rename_i k here
    exact sameV_vput sk lanes bad _ fun eq => h (by rw [here, eq])
  · exact sameV_kput sk _ key _ _
  · exact ⟨rfl, rfl⟩

theorem resultTurn_sameK (sk : Skein) (e : RegRef × Nat) {n : Nat} (h : e.1 ≠ .k n) : SameK sk (resultTurn lanes bad v sk e) n := by
  unfold resultTurn
  split
  · exact sameK_vput sk _ n lanes bad _
  · rename_i k here
    exact sameK_kput sk _ _ fun eq => h (by rw [here, eq])
  · exact ⟨rfl, Iff.rfl⟩

theorem results_preds (es : List (RegRef × Nat)) (sk : Skein) : (es.foldl (resultTurn lanes bad v) sk).preds = sk.preds :=
  List.foldlRecOn (motive := fun t : Skein => t.preds = sk.preds) es (resultTurn lanes bad v) rfl fun t h e _ => (resultTurn_preds lanes bad v t e).trans h

theorem results_sameV (es : List (RegRef × Nat)) (sk : Skein) {key : Nat} (h : ∀ e ∈ es, e.1 ≠ .v key) : SameV sk (es.foldl (resultTurn lanes bad v) sk) key :=
  List.foldlRecOn (motive := fun t => SameV sk t key) es (resultTurn lanes bad v) ⟨rfl, rfl⟩ fun t same e he => same.trans (resultTurn_sameV lanes bad v t e (h e he))

theorem results_sameK (es : List (RegRef × Nat)) (sk : Skein) {n : Nat} (h : ∀ e ∈ es, e.1 ≠ .k n) : SameK sk (es.foldl (resultTurn lanes bad v) sk) n :=
  List.foldlRecOn (motive := fun t => SameK sk t n) es (resultTurn lanes bad v) ⟨rfl, Iff.rfl⟩ fun t same e he => same.trans (resultTurn_sameK lanes bad v t e (h e he))

/-- A register named once is written once: what stood before it and what comes after it leave it alone. -/
theorem results_split {es : List (RegRef × Nat)} {r : RegRef} {j : Nat} (distinct : (es.map Prod.fst).Nodup) (mem : (r, j) ∈ es) (sk : Skein) :
    ∃ before after, es = before ++ (r, j) :: after ∧ (∀ e ∈ before, e.1 ≠ r) ∧ (∀ e ∈ after, e.1 ≠ r) ∧
      es.foldl (resultTurn lanes bad v) sk = after.foldl (resultTurn lanes bad v) (resultTurn lanes bad v (before.foldl (resultTurn lanes bad v) sk) (r, j)) := by
  obtain ⟨before, after, rfl⟩ := List.append_of_mem mem
  rw [List.map_append, List.map_cons] at distinct
  obtain ⟨-, tail, apart⟩ := List.nodup_append.1 distinct
  refine ⟨before, after, rfl, fun e he eq => apart e.1 (List.mem_map_of_mem he) r (.head _) eq, fun e he eq => ?_, by rw [List.foldl_append, List.foldl_cons]⟩
  exact (List.nodup_cons.1 tail).1 (List.mem_map.2 ⟨e, he, eq⟩)

theorem vget_of_sameV {a b : Skein} {key : Nat} (h : SameV a b key) : vget b key = vget a key := by rw [vget, NMap.getD, h.1, vget, NMap.getD]
theorem kget_of_sameK {a b : Skein} {n : Nat} (h : SameK a b n) : kget b n = kget a n := by rw [kget, NMap.getD, h.1, kget, NMap.getD]

theorem vget_results {es : List (RegRef × Nat)} {key j : Nat} (distinct : (es.map Prod.fst).Nodup) (mem : (.v key, j) ∈ es) (sk : Skein) {l : Nat} (hl : l < 128) :
    vlane (vget (es.foldl (resultTurn lanes bad v) sk) key) l = if lanes.getLsbD l then BitVec.ofNat 32 (v l / 2 ^ (32 * j)) else vlane (vget sk key) l := by
  obtain ⟨before, after, -, early, late, fold⟩ := results_split lanes bad v distinct mem sk
  rw [fold, vget_of_sameV (results_sameV lanes bad v after _ late)]
  refine (vget_vput _ key key lanes bad _ l hl).trans ?_
  rw [vget_of_sameV (results_sameV lanes bad v before sk early)]
  simp

theorem kget_results {es : List (RegRef × Nat)} {n j : Nat} (distinct : (es.map Prod.fst).Nodup) (mem : (.k n, j) ∈ es) (sk : Skein) :
    kget (es.foldl (resultTurn lanes bad v) sk) n = BitVec.ofNat 32 (v (lowest lanes) / 2 ^ (32 * j)) := by
  obtain ⟨before, after, -, early, late, fold⟩ := results_split lanes bad v distinct mem sk
  rw [fold, kget_of_sameK (results_sameK lanes bad v after _ late)]
  exact NMap.getD_insert_self _ _ _ _

theorem vmark_results {es : List (RegRef × Nat)} {key j : Nat} (distinct : (es.map Prod.fst).Nodup) (mem : (.v key, j) ∈ es) (sk : Skein) {l : Nat} (written : lanes.getLsbD l = true) :
    (NMap.getD (es.foldl (resultTurn lanes bad v) sk).vmarks key 0).getLsbD l = bad.getLsbD l := by
  obtain ⟨before, after, -, early, late, fold⟩ := results_split lanes bad v distinct mem sk
  rw [fold, (results_sameV lanes bad v after _ late).2]
  have some' : lanes ≠ 0 := (ne_zero_iff lanes).2 ⟨l, written⟩
  simp only [resultTurn, vput, if_neg some']
  exact getLsbD_markV _ key written

theorem kmark_results {es : List (RegRef × Nat)} {n j : Nat} (distinct : (es.map Prod.fst).Nodup) (mem : (.k n, j) ∈ es) (sk : Skein) :
    n ∈ (es.foldl (resultTurn lanes bad v) sk).kmarks ↔ bad ≠ 0 := by
  obtain ⟨before, after, -, early, late, fold⟩ := results_split lanes bad v distinct mem sk
  rw [fold, (results_sameK lanes bad v after _ late).2]
  refine (mem_kmarks_kput _ n n _ _).trans ?_
  rw [if_pos rfl, decide_eq_true_eq]

end

/-! The registers of a destination. -/

theorem zip_range_fst (dst : List RegRef) : (dst.zip (List.range dst.length)).map Prod.fst = dst := List.map_fst_zip (by simp)

theorem mem_zip_of_mem {dst : List RegRef} {r : RegRef} (h : r ∈ dst) : ∃ j, (r, j) ∈ dst.zip (List.range dst.length) := by
  obtain ⟨j, at'⟩ := List.mem_iff_getElem?.1 h
  exact ⟨j, mem_zip_range at'⟩

theorem ne_of_zip {dst : List RegRef} {r : RegRef} (h : r ∉ dst) : ∀ e ∈ dst.zip (List.range dst.length), e.1 ≠ r :=
  fun _ he eq => h (eq ▸ (List.of_mem_zip he).1)

section
variable {dst : List RegRef} (distinct : dst.Nodup) (lanes bad : LMask) (v : Nat → Nat) (sk : Skein)
include distinct

/-- A result reaches the lanes that it is for, or, once, its uniform registers. -/
theorem writeResultsN_dstTake :
    DstTake sk (writeResultsN sk dst lanes bad v) dst (fun l => if lanes.getLsbD l then some (v l) else none) (some (v (lowest lanes))) := by
  have names : ((dst.zip (List.range dst.length)).map Prod.fst).Nodup := by rwa [zip_range_fst]
  rw [writeResultsN_eq]
  refine ⟨fun j key l at' hl => ?_, fun j n at' => kget_results lanes bad v names (mem_zip_range at') sk, fun key free => ?_, fun n free => ?_, fun n => ?_⟩
  · rw [vget_results lanes bad v names (mem_zip_range at') sk hl]
    dsimp only
    cases lanes.getLsbD l <;> rfl
  · exact vget_of_sameV (results_sameV lanes bad v _ sk (ne_of_zip free))
  · exact kget_of_sameK (results_sameK lanes bad v _ sk (ne_of_zip free))
  · rw [pget, results_preds, pget]

/-- A result brings its own marks, and clears those that its lanes had. -/
theorem writeResultsN_marksTake :
    MarksTake sk (writeResultsN sk dst lanes bad v) dst (fun l => lanes.getLsbD l = true) (fun l => bad.getLsbD l = true) True (bad ≠ 0) False := by
  have names : ((dst.zip (List.range dst.length)).map Prod.fst).Nodup := by rwa [zip_range_fst]
  rw [writeResultsN_eq]
  refine ⟨fun key l mem _ written => ?_, fun n mem _ => ?_⟩
  · obtain ⟨j, at'⟩ := mem_zip_of_mem mem
    rw [vmark_results lanes bad v names at' sk written]
    simp
  · obtain ⟨j, at'⟩ := mem_zip_of_mem mem
    rw [kmark_results lanes bad v names at' sk]
    simp

end

/-- What a destination takes rests on the lanes of the machine where it has vector registers, and on one value where it has uniform ones. -/
theorem dstTake_congr {sk t : Skein} {dst : List RegRef} {f g : Nat → Option Nat} {one two : Option Nat} (h : DstTake sk t dst f one)
    (lanes : ∀ key, RegRef.v key ∈ dst → ∀ l, l < 128 → f l = g l) (uniform : ∀ n, RegRef.k n ∈ dst → one = two) : DstTake sk t dst g two := by
  obtain ⟨hv, hk, others⟩ := h
  refine ⟨fun j key l at' hl => ?_, fun j n at' => ?_, others⟩
  · rw [hv j key l at' hl, lanes key (List.mem_of_getElem? at') l hl]
  · rw [hk j n at', uniform n (List.mem_of_getElem? at')]

/-- A skein that has the register values of another takes what it takes. -/
theorem dstTake_of_regs {sk t t' : Skein} {dst : List RegRef} {f : Nat → Option Nat} {one : Option Nat} (h : DstTake sk t dst f one) (vregs : t'.vregs = t.vregs)
    (kregs : t'.kregs = t.kregs) (preds : t'.preds = t.preds) : DstTake sk t' dst f one := by
  unfold DstTake vget kget pget at *
  rw [vregs, kregs, preds]
  exact h

theorem dstTake_from_regs {sk sk' t : Skein} {dst : List RegRef} {f : Nat → Option Nat} {one : Option Nat} (h : DstTake sk t dst f one) (vregs : sk'.vregs = sk.vregs)
    (kregs : sk'.kregs = sk.kregs) (preds : sk'.preds = sk.preds) : DstTake sk' t dst f one := by
  unfold DstTake vget kget pget at *
  rw [vregs, kregs, preds]
  exact h

theorem marksTake_congr {sk t : Skein} {dst : List RegRef} {p p' q q' : Nat → Prop} {some_ some' any any' later : Prop} (h : MarksTake sk t dst p q some_ any later)
    (lanes : ∀ key, RegRef.v key ∈ dst → ∀ l, l < 128 → p' l → p l ∧ (q l ↔ q' l)) (uniform : ∀ n, RegRef.k n ∈ dst → some' → some_ ∧ (any ↔ any')) :
    MarksTake sk t dst p' q' some' any' later := by
  obtain ⟨hv, hk⟩ := h
  refine ⟨fun key l mem hl on => ?_, fun n mem on => ?_⟩
  · obtain ⟨on', same⟩ := lanes key mem l hl on
    rw [hv key l mem hl on', same]
  · obtain ⟨on', same⟩ := uniform n mem on
    rw [hk n mem on', same]

theorem marksTake_of_marks {sk t t' : Skein} {dst : List RegRef} {p q : Nat → Prop} {some_ any later : Prop} (h : MarksTake sk t dst p q some_ any later)
    (vmarks : t'.vmarks = t.vmarks) (kmarks : t'.kmarks = t.kmarks) : MarksTake sk t' dst p q some_ any later := by
  unfold MarksTake at *
  rw [vmarks, kmarks]
  exact h

theorem marksTake_from_marks {sk sk' t : Skein} {dst : List RegRef} {p q : Nat → Prop} {some_ any later : Prop} (h : MarksTake sk t dst p q some_ any later)
    (vmarks : sk'.vmarks = sk.vmarks) (kmarks : sk'.kmarks = sk.kmarks) : MarksTake sk' t dst p q some_ any later := by
  unfold MarksTake at *
  rw [vmarks, kmarks]
  exact h

end Sys2Proof.Machine
end

section
/-! PROOFS. The L1 and the writes of a core as what waits in it goes on (R214, R229, R230; for O32, O39). -/

namespace Sys2Proof.Machine

/-! What waiting in a core leaves as it is. -/

/-- From `s` to `t` numbers go on, no inbound write comes or goes, the copies of the core stay, a skein of it keeps all but what its loads in flight
will do, and every write on its way is still there. -/
structure CoreGoes (core : Nat) (s t : State) : Prop where
  number : s.nextId ≤ t.nextId
  pod : t.podBuf = s.podBuf
  host : t.hostBuf = s.hostBuf
  copies : (coreOf t core).copyq = (coreOf s core).copyq
  skein : ∀ slot sk, skeinOf s core slot = some sk → ∃ ops, skeinOf t core slot = some { sk with ops := ops }
  writes : ∀ r ∈ s.reqs, r.isWrite = true → r ∈ t.reqs

section
variable {core : Nat}

theorem CoreGoes.refl (s : State) : CoreGoes core s s := ⟨le_rfl, rfl, rfl, rfl, fun _ sk h => ⟨sk.ops, h⟩, fun _ h _ => h⟩

theorem CoreGoes.trans {s t u : State} (h : CoreGoes core s t) (g : CoreGoes core t u) : CoreGoes core s u where
  number := h.number.trans g.number
  pod := g.pod.trans h.pod
  host := g.host.trans h.host
  copies := g.copies.trans h.copies
  skein slot sk here := by
    obtain ⟨ops, hops⟩ := h.skein slot sk here
    obtain ⟨ops', hops'⟩ := g.skein slot _ hops
    exact ⟨ops', hops'⟩
  writes r hr write := g.writes r (h.writes r hr write) write

theorem CoreGoes.foldl {α : Type} {f : State → α → State} (hf : ∀ s a, CoreGoes core s (f s a)) (l : List α) (s : State) : CoreGoes core s (l.foldl f s) :=
  List.foldlRecOn (motive := CoreGoes core s) l f (.refl s) fun t h a _ => h.trans (hf t a)

theorem coreGoes_postCore (s : State) (kind : ReqKind) (who : ReqOwner) (line : Nat) (pol : CPol) (k : Nat) : CoreGoes core s (postCore s kind who line pol k).2 :=
  ⟨Nat.le_succ _, rfl, rfl, rfl, fun _ sk h => ⟨sk.ops, h⟩, fun _ h _ => List.mem_append_left _ h⟩

theorem coreGoes_updL1 (s : State) (f : NMap L1Line → NMap L1Line) : CoreGoes core s (updL1 s core f) where
  number := le_rfl
  pod := rfl
  host := rfl
  copies := by rw [updL1, coreOf_updCore_self]
  skein slot sk here := ⟨sk.ops, (skeinOf_updCore s (f := fun c => { c with l1 := f c.l1 }) rfl slot).trans here⟩
  writes _ h _ := h

theorem coreGoes_dropFills (s : State) (line : Option Nat) : CoreGoes core s (dropFills s core line) where
  number := le_rfl
  pod := rfl
  host := rfl
  copies := by
    rw [show coreOf (dropFills s core line) core = coreOf (staleFills s core (fun q => decide (line = none) || decide (line = some q.line))) core from rfl, staleFills, coreOf_updCore_self]
  skein slot sk here := (spares_dropFills s line).skein sk here
  writes r hr write := by
    refine List.mem_map.2 ⟨r, hr, ?_⟩
    split
    · have kept : (match r.kind with | .read _ => .prefetch | k => k) = r.kind := by
        cases hk : r.kind with
        | read need => simp [Req.isWrite, hk] at write
        | _ => rfl
      exact congrArg (fun k => { r with kind := k }) kept
    · rfl

theorem l1_dropFills (s : State) (line : Option Nat) : (coreOf (dropFills s core line) core).l1 = (coreOf s core).l1 := by
  rw [show coreOf (dropFills s core line) core = coreOf (staleFills s core (fun q => decide (line = none) || decide (line = some q.line))) core from rfl, staleFills, coreOf_updCore_self]

theorem l1_updL1 (s : State) (f : NMap L1Line → NMap L1Line) : (coreOf (updL1 s core f) core).l1 = f (coreOf s core).l1 := by rw [updL1, coreOf_updCore_self]

/-! Lines written back (R214). -/

/-- The request that writes a line back: on its way, with a new number. -/
def WrittenBack (core : Nat) (slot : Option Nat) (line : Nat) (e : L1Line) (n : Nat) (r : Req) : Prop :=
  r.who = .writeback core slot ∧ r.line = line ∧ r.kind = .write e.dirty e.data ∧ r.stage = .port ∧ n ≤ r.id

theorem WrittenBack.write {slot : Option Nat} {line n : Nat} {e : L1Line} {r : Req} (h : WrittenBack core slot line e n r) : r.isWrite = true := by
  obtain ⟨-, -, kind, -⟩ := h
  simp [Req.isWrite, kind]

variable (slot : Option Nat)

theorem writeBackLine_clean {s : State} {line : Nat} (clean : ∀ e, NMap.get? (coreOf s core).l1 line = some e → e.dirty = 0) : writeBackLine s core slot line = s := by
  unfold writeBackLine
  cases at' : NMap.get? (coreOf s core).l1 line with
  | none => rfl
  | some e => exact if_pos (clean e at')

theorem writeBackLine_dirty {s : State} {line : Nat} {e : L1Line} (at' : NMap.get? (coreOf s core).l1 line = some e) (dirty : e.dirty ≠ 0) :
    writeBackLine s core slot line = dropFills (updL1 (postCore s (.write e.dirty e.data) (.writeback core slot) line .keep core).2 core
      (fun l => NMap.insert l line { e with dirty := 0 })) core (some line) := by
  unfold writeBackLine
  rw [at']
  exact if_neg dirty

theorem coreGoes_writeBackLine (s : State) (line : Nat) : CoreGoes core s (writeBackLine s core slot line) := by
  by_cases clean : ∀ e, NMap.get? (coreOf s core).l1 line = some e → e.dirty = 0
  · rw [writeBackLine_clean slot clean]
    exact .refl s
  · push Not at clean
    obtain ⟨e, at', dirty⟩ := clean
    rw [writeBackLine_dirty slot at' dirty]
    exact ((coreGoes_postCore _ _ _ _ _ _).trans (coreGoes_updL1 _ _)).trans (coreGoes_dropFills _ _)

/-- A line written back is no longer dirty; the other lines stay. -/
theorem get?_writeBackLine (s : State) (line k : Nat) : NMap.get? (coreOf (writeBackLine s core slot line) core).l1 k =
    if k = line then (NMap.get? (coreOf s core).l1 line).map (fun e => { e with dirty := 0 }) else NMap.get? (coreOf s core).l1 k := by
  by_cases clean : ∀ e, NMap.get? (coreOf s core).l1 line = some e → e.dirty = 0
  · rw [writeBackLine_clean slot clean]
    split
    · rename_i here
      rw [here]
      cases at' : NMap.get? (coreOf s core).l1 line with
      | none => rfl
      | some e => rw [Option.map_some, ← clean e at']
    · rfl
  · push Not at clean
    obtain ⟨e, at', dirty⟩ := clean
    rw [writeBackLine_dirty slot at' dirty, l1_dropFills, l1_updL1, at']
    exact NMap.get?_insert _ _ _ _

theorem writeBackLine_posts {s : State} {line : Nat} {e : L1Line} (at' : NMap.get? (coreOf s core).l1 line = some e) (dirty : e.dirty ≠ 0) :
    ∃ r ∈ (writeBackLine s core slot line).reqs, WrittenBack core slot line e s.nextId r := by
  have sent : ∃ r ∈ (postCore s (.write e.dirty e.data) (.writeback core slot) line .keep core).2.reqs, WrittenBack core slot line e s.nextId r :=
    ⟨_, List.mem_append_right _ (.head _), rfl, rfl, rfl, rfl, le_rfl⟩
  obtain ⟨r, hr, back⟩ := sent
  rw [writeBackLine_dirty slot at' dirty]
  exact ⟨r, ((coreGoes_updL1 _ _).trans (coreGoes_dropFills _ _)).writes r hr back.write, back⟩

theorem coreGoes_writeBackLines (ls : List Nat) (s : State) : CoreGoes core s (ls.foldl (fun s l => writeBackLine s core slot l) s) :=
  .foldl (fun s l => coreGoes_writeBackLine slot s l) ls s

/-- Each dirty line among those that are written back is posted. -/
theorem writeBackLines_post (ls : List Nat) : ∀ {s : State} {line : Nat} {e : L1Line}, line ∈ ls → NMap.get? (coreOf s core).l1 line = some e → e.dirty ≠ 0 →
    ∃ r ∈ (ls.foldl (fun s l => writeBackLine s core slot l) s).reqs, WrittenBack core slot line e s.nextId r := by
  induction ls with
  | nil => exact fun mem => nomatch mem
  | cons l rest ih =>
    intro s line e mem at' dirty
    rw [List.foldl_cons]
    by_cases here : line = l
    · subst here
      obtain ⟨r, hr, back⟩ := writeBackLine_posts slot at' dirty
      exact ⟨r, (coreGoes_writeBackLines slot rest _).writes r hr back.write, back⟩
    · obtain ⟨r, hr, who, at'', kind, stage, new⟩ := ih ((List.mem_cons.1 mem).resolve_left here) (s := writeBackLine s core slot l) (by rw [get?_writeBackLine, if_neg here, at']) dirty
      exact ⟨r, hr, who, at'', kind, stage, (coreGoes_writeBackLine slot s l).number.trans new⟩

theorem writeBackLines_clean {s : State} (clean : ∀ l e, NMap.get? (coreOf s core).l1 l = some e → e.dirty = 0) (ls : List Nat) :
    ls.foldl (fun s l => writeBackLine s core slot l) s = s := foldl_fixed fun l _ => writeBackLine_clean slot (clean l)

variable {slot}

/-! Clean bytes cleared (R229, R230). -/

/-- No byte of a line of the L1 is clean. -/
def NoClean (l1 : NMap L1Line) (line : Nat) : Prop := ∀ e, NMap.get? l1 line = some e → ∀ b, e.valid.getLsbD b = true → e.dirty.getLsbD b = true

theorem noClean_cleanOut (m : NMap L1Line) (line : Nat) : NoClean (cleanOut m line) line := by
  intro e at' b valid
  unfold cleanOut at at'
  split at at'
  · rename_i none'
    rw [none'] at at'
    cases at'
  · split at at'
    · rw [NMap.get?_erase_self] at at'
      cases at'
    · rw [NMap.get?_insert_self] at at'
      obtain rfl := Option.some.inj at'
      simp only [BitVec.getLsbD_and, Bool.and_eq_true] at valid
      exact valid.2

theorem get?_cleanOut_ne (m : NMap L1Line) {line k : Nat} (h : k ≠ line) : NMap.get? (cleanOut m line) k = NMap.get? m k := by
  unfold cleanOut
  split
  · rfl
  · split
    · exact NMap.get?_erase_ne m h
    · exact NMap.get?_insert_ne m _ h

theorem NoClean.cleanOut {m : NMap L1Line} {k : Nat} (h : NoClean m k) (line : Nat) : NoClean (cleanOut m line) k := by
  by_cases here : k = line
  · exact here ▸ noClean_cleanOut m line
  · intro e at'
    rw [get?_cleanOut_ne m here] at at'
    exact h e at'

/-- The lines cleared have no clean byte left; a line that is none of them is as it was. -/
theorem noClean_cleanOuts (ls : List Nat) : ∀ {m : NMap L1Line} {k : Nat}, k ∈ ls ∨ NoClean m k → NoClean (ls.foldl Machine.cleanOut m) k := by
  induction ls with
  | nil => exact fun h => h.resolve_left (by simp)
  | cons l rest ih =>
    intro m k h
    rw [List.foldl_cons]
    refine ih ?_
    rcases h with mem | free
    · rcases List.mem_cons.1 mem with rfl | mem
      · exact .inr (noClean_cleanOut m k)
      · exact .inl mem
    · exact .inr (free.cleanOut l)

/-- Where every line of the L1 is cleared, no line has a clean byte. -/
theorem noClean_all (m : NMap L1Line) (k : Nat) : NoClean ((NMap.keys m).foldl Machine.cleanOut m) k := by
  refine noClean_cleanOuts _ ?_
  cases at' : NMap.get? m k with
  | none => exact .inr fun e h => by rw [at'] at h; cases h
  | some e => exact .inl (NMap.mem_keys_of_get? at')

theorem coreGoes_acquireL1 (s : State) : CoreGoes core s (acquireL1 s core) := (coreGoes_updL1 _ _).trans (coreGoes_dropFills _ _)

theorem noClean_acquireL1 (s : State) (k : Nat) : NoClean (coreOf (acquireL1 s core) core).l1 k := by
  rw [acquireL1, l1_dropFills, l1_updL1]
  exact noClean_all _ k

end

end Sys2Proof.Machine
end

section
/-! PROOFS. Release, acquire, and the end of a FENCE (R229, O32). -/

namespace Sys2Proof.Machine

/-! What a release waits for. -/

/-- A write that a core has sent, not one of a copy still under way. -/
def OfCore (s : State) (core : Nat) (r : Req) : Prop :=
  r.isWrite = true ∧ r.who.core = some core ∧ ∀ c n i, r.who = .copy c n i → ∀ q ∈ (coreOf s core).copyq, q.op ≠ n

theorem holdsRelease_iff (s : State) (core : Nat) (sc : Scope) (r : Req) : HoldsRelease s core sc r ↔ OfCore s core r ∧ releaseWaits sc r = true := by
  simp only [HoldsRelease, OfCore, and_assoc]

theorem mem_coreWrites (s : State) (core n : Nat) : n ∈ coreWrites s core ↔ ∃ r ∈ s.reqs, OfCore s core r ∧ r.id = n := by
  have copies (r : Req) : (match r.who with | .copy _ op _ => (coreOf s core).copyq.all (fun c => decide (c.op ≠ op)) | _ => true) = true ↔
      ∀ c n i, r.who = .copy c n i → ∀ q ∈ (coreOf s core).copyq, q.op ≠ n := by
    cases r.who with
    | copy c op i => simp
    | _ => simp
  unfold coreWrites
  rw [List.mem_map]
  refine exists_congr fun r => ?_
  rw [List.mem_filter, Bool.and_eq_true, Bool.and_eq_true, decide_eq_true_eq, OfCore, ← copies r]
  constructor
  · rintro ⟨⟨hr, ⟨write, own⟩, copy⟩, rfl⟩
    exact ⟨hr, ⟨write, own, copy⟩, rfl⟩
  · rintro ⟨hr, ⟨write, own, copy⟩, rfl⟩
    exact ⟨⟨hr, ⟨write, own⟩, copy⟩, rfl⟩

theorem waitsDone_iff (s : State) (sc : Scope) (l : List Nat) : waitsDone s sc l = true ↔ ∀ r ∈ s.reqs, r.id ∈ l → releaseWaits sc r = false := by
  unfold waitsDone
  rw [List.all_eq_true]
  refine forall₂_congr fun r _ => ?_
  by_cases mem : r.id ∈ l <;> simp [mem]

section
variable {core : Nat} {s t : State} {sc : Scope}

theorem OfCore.goes (h : CoreGoes core s t) {r : Req} (own : OfCore s core r) : OfCore t core r := by
  unfold OfCore
  rw [h.copies]
  exact own

/-- Once nothing is waited for, no write of the core held the release back. -/
theorem noHold_of_waitsDone (h : CoreGoes core s t) (done : waitsDone t sc (coreWrites t core) = true) : ∀ r ∈ s.reqs, ¬HoldsRelease s core sc r := by
  intro r hr holds
  obtain ⟨own, waits⟩ := (holdsRelease_iff s core sc r).1 holds
  have kept : r ∈ t.reqs := h.writes r hr own.1
  have free := (waitsDone_iff t sc _).1 done r kept ((mem_coreWrites t core r.id).2 ⟨r, kept, own.goes h, rfl⟩)
  rw [waits] at free
  cases free

/-- Where no write of the core holds the release back, nothing is waited for. -/
theorem waitsDone_of_noHold (ids : (s.reqs.map Req.id).Nodup) (free : ∀ r ∈ s.reqs, ¬HoldsRelease s core sc r) : waitsDone s sc (coreWrites s core) = true := by
  refine (waitsDone_iff s sc _).2 fun r hr listed => ?_
  obtain ⟨q, hq, own, id⟩ := (mem_coreWrites s core r.id).1 listed
  obtain rfl := List.inj_on_of_nodup_map ids hq hr id
  exact Bool.eq_false_of_not_eq_true fun waits => free q hr ((holdsRelease_iff s core sc q).2 ⟨own, waits⟩)

/-- A line of main memory written back holds the release back. -/
theorem WrittenBack.holds {slot : Option Nat} {line n : Nat} {e : L1Line} {r : Req} (h : WrittenBack core slot line e n r) (main : isMain (128 * line) = true)
    (hr : r ∈ s.reqs) : waitsDone s sc (coreWrites s core) = false := by
  have write := h.write
  obtain ⟨who, at', -, stage, -⟩ := h
  have own : OfCore s core r := ⟨write, by rw [who]; rfl, fun c n i copy => by rw [who] at copy; cases copy⟩
  have way : r.onWay = true := by simp [Req.onWay, stage]
  have waits : releaseWaits sc r = true := by
    unfold releaseWaits
    rw [write, at', Bool.true_and]
    unfold isMain at main
    cases hreg : regionOf (128 * line) <;> simp_all
  refine Bool.eq_false_of_not_eq_true fun done => ?_
  have free := (waitsDone_iff s sc _).1 done r hr ((mem_coreWrites s core r.id).2 ⟨r, hr, own, rfl⟩)
  rw [waits] at free
  cases free

end

/-! The release and the acquire (09 Table 3). -/

/-- The two stages of a release one after the other. -/
def releaseTwice (s : State) (core slot : Nat) (sk : Skein) (sc : Scope) (pg : Progress) : Progress × State :=
  releaseStep (releaseStep s core slot sk sc pg).2 core slot sk sc (releaseStep s core slot sk sc pg).1

theorem inboundDone_iff (s : State) (sc : Scope) (n : Nat) : inboundDone s sc n = true ↔ InboundIn s sc n := by
  unfold inboundDone InboundIn
  simp only [Bool.and_eq_true, Bool.or_eq_true, decide_eq_true_eq, List.all_eq_true]
  refine and_congr ⟨fun h far => h.resolve_left (by omega), fun h => ?_⟩ ⟨fun h sys => h.resolve_left (by simp [sys]), fun h => ?_⟩
  · by_cases far : 5 ≤ scopeRank sc
    · exact .inr (h far)
    · exact .inl (by omega)
  · by_cases sys : sc = .sys
    · exact .inr (h sys)
    · exact .inl sys

theorem inboundIn_before {core : Nat} {s t : State} {sc : Scope} {n m : Nat} (h : CoreGoes core s t) (le : m ≤ n) (inb : InboundIn t sc n) : InboundIn s sc m := by
  obtain ⟨pod, host⟩ := inb
  rw [h.pod] at pod
  rw [h.host] at host
  exact ⟨fun far w hw => le.trans (pod far w hw), fun sys w hw => le.trans (host sys w hw)⟩

theorem getD_inboundMark (s : State) (pg : Progress) : (inboundMark s pg).inbound.getD 0 = pg.inbound.getD s.nextId := by
  unfold inboundMark
  cases h : pg.inbound <;> simp [h]

section
variable {core slot : Nat} {s : State} {sk : Skein} {sc : Scope} {pg : Progress}

theorem loadsBack_iff (here : skeinOf s core slot = some sk) (l : List Nat) : loadsBack sk l = true ↔ ∀ n ∈ l, opOf s core slot n = none := by
  simp [loadsBack, opOf, here]

/-- What the first stage of a release waits for. -/
abbrev Releasable (sk : Skein) (sc : Scope) (pg : Progress) : Prop := (loadsBack sk pg.loads && (decide (sc = .sk) || decide (sk.sq = [] ∧ sk.sqWait = []))) = true

theorem releasable_iff (here : skeinOf s core slot = some sk) :
    Releasable sk sc pg ↔ (∀ n ∈ pg.loads, opOf s core slot n = none) ∧ (sc ≠ .sk → sk.sq = [] ∧ sk.sqWait = []) := by
  unfold Releasable
  rw [Bool.and_eq_true, loadsBack_iff here, Bool.or_eq_true, decide_eq_true_eq, decide_eq_true_eq]
  exact and_congr_right fun _ => ⟨fun h wide => h.resolve_left wide, fun h => Classical.or_iff_not_imp_left.2 h⟩

theorem releaseTwice_waits (start : pg.stage = 0) (waits : ¬Releasable sk sc pg) : releaseTwice s core slot sk sc pg = (pg, s) := by
  have once : releaseStep s core slot sk sc pg = (pg, s) := by
    unfold releaseStep
    rw [if_pos start, if_neg waits]
  rw [releaseTwice, once, once]

theorem releaseTwice_near (start : pg.stage = 0) (free : Releasable sk sc pg) (near : ¬2 ≤ scopeRank sc) : releaseTwice s core slot sk sc pg = ({ pg with stage := 2 }, s) := by
  have first : releaseStep s core slot sk sc pg = ({ pg with stage := 2 }, s) := by
    unfold releaseStep
    rw [if_pos start, if_pos free, if_neg near]
  rw [releaseTwice, first]
  rfl

theorem releaseTwice_far (start : pg.stage = 0) (free : Releasable sk sc pg) (far : 2 ≤ scopeRank sc) : ∃ stage, releaseTwice s core slot sk sc pg =
      ({ pg with stage := stage, waits := coreWrites (writeBackAll s core (some slot)) core }, writeBackAll s core (some slot)) ∧ stage ≤ 2 ∧
      (stage = 2 ↔ waitsDone (writeBackAll s core (some slot)) sc (coreWrites (writeBackAll s core (some slot)) core) = true) := by
  have first : releaseStep s core slot sk sc pg =
      ({ pg with stage := 1, waits := coreWrites (writeBackAll s core (some slot)) core }, writeBackAll s core (some slot)) := by
    unfold releaseStep
    rw [if_pos start, if_pos free, if_pos far]
  rw [releaseTwice, first]
  cases done : waitsDone (writeBackAll s core (some slot)) sc (coreWrites (writeBackAll s core (some slot)) core) with
  | true => exact ⟨2, by simp [releaseStep, done], le_rfl, by simp⟩
  | false => exact ⟨1, by simp [releaseStep, done], by omega, by simp⟩

/-- What a release leaves, and that it is complete only where nothing is left to wait for. -/
theorem releaseTwice_spec (here : skeinOf s core slot = some sk) (start : pg.stage = 0) :
    let r := releaseTwice s core slot sk sc pg
    CoreGoes core s r.2 ∧ r.1.stage ≤ 2 ∧ r.1.loads = pg.loads ∧ r.1.inbound = pg.inbound ∧ (r.1.stage = 2 → Released s core slot sk sc pg.loads) := by
  by_cases free : Releasable sk sc pg
  · obtain ⟨loads, queue⟩ := (releasable_iff here).1 free
    by_cases far : 2 ≤ scopeRank sc
    · obtain ⟨stage, eq, le, two⟩ := releaseTwice_far (s := s) (core := core) (slot := slot) start free far
      have goes : CoreGoes core s (writeBackAll s core (some slot)) := coreGoes_writeBackLines _ _ s
      rw [eq]
      refine ⟨goes, le, rfl, rfl, fun ended => ?_⟩
      have done := two.1 ended
      refine ⟨loads, queue, fun _ => ⟨noHold_of_waitsDone goes done, fun l e at' main => ?_⟩⟩
      by_contra dirty
      obtain ⟨r, hr, back⟩ := writeBackLines_post (some slot) _ (NMap.mem_keys_of_get? at') at' dirty
      cases (back.holds (sc := sc) main hr).symm.trans done
    · rw [releaseTwice_near start free far]
      exact ⟨.refl s, le_rfl, rfl, rfl, fun _ => ⟨loads, queue, fun h => absurd h far⟩⟩
  · rw [releaseTwice_waits start free]
    exact ⟨.refl s, by rw [start]; omega, rfl, rfl, fun ended => by rw [start] at ended; cases ended⟩

/-- A release that finds nothing to wait for, and no dirty line, is complete at once. -/
theorem releaseTwice_done (here : skeinOf s core slot = some sk) (start : pg.stage = 0) (ids : (s.reqs.map Req.id).Nodup) (free : Released s core slot sk sc pg.loads)
    (clean : 2 ≤ scopeRank sc → ∀ l e, NMap.get? (coreOf s core).l1 l = some e → e.dirty = 0) :
    ∃ waits, releaseTwice s core slot sk sc pg = ({ pg with stage := 2, waits := waits }, s) := by
  obtain ⟨loads, queue, writes⟩ := free
  have able : Releasable sk sc pg := (releasable_iff here).2 ⟨loads, queue⟩
  by_cases far : 2 ≤ scopeRank sc
  · have same : writeBackAll s core (some slot) = s := writeBackLines_clean _ (clean far) _
    obtain ⟨stage, eq, -, two⟩ := releaseTwice_far (s := s) (core := core) (slot := slot) start able far
    rw [same] at eq two
    obtain rfl := two.2 (waitsDone_of_noHold ids (writes far).1)
    exact ⟨_, eq⟩
  · exact ⟨pg.waits, releaseTwice_near start able far⟩

/-- What an acquire waits for. -/
def Acquirable (s : State) (sk : Skein) (sc : Scope) (pg : Progress) : Prop :=
  pg.stage = 2 ∧ loadsBack sk pg.loads = true ∧ inboundDone s sc (pg.inbound.getD s.nextId) = true

theorem acquireStep_done (free : Acquirable s sk sc pg) :
    acquireStep s core sk sc pg = ({ inboundMark s pg with stage := 3 }, if 2 ≤ scopeRank sc then acquireL1 s core else s) := by
  obtain ⟨stage, loads, inbound⟩ := free
  unfold acquireStep
  rw [if_pos ⟨stage, loads⟩]
  dsimp only
  rw [getD_inboundMark, if_pos inbound]

theorem acquireStep_waits (waits : ¬Acquirable s sk sc pg) : (acquireStep s core sk sc pg).1.stage = pg.stage ∧ (acquireStep s core sk sc pg).2 = s := by
  unfold acquireStep
  split
  · rename_i h
    dsimp only
    rw [getD_inboundMark, if_neg fun inbound => waits ⟨h.1, h.2, inbound⟩]
    refine ⟨?_, rfl⟩
    unfold inboundMark
    split <;> rfl
  · exact ⟨rfl, rfl⟩

theorem acquireStep_goes : CoreGoes core s (acquireStep s core sk sc pg).2 := by
  by_cases free : Acquirable s sk sc pg
  · rw [acquireStep_done free]
    dsimp only
    split
    · exact coreGoes_acquireL1 s
    · exact .refl s
  · rw [(acquireStep_waits (core := core) free).2]
    exact .refl s

/-- An acquire beyond the bolt leaves no clean byte in the L1. -/
theorem acquireStep_stage (before : pg.stage ≤ 2) : (acquireStep s core sk sc pg).1.stage = 3 ↔ Acquirable s sk sc pg := by
  by_cases free : Acquirable s sk sc pg
  · rw [acquireStep_done free]
    exact iff_of_true rfl free
  · rw [(acquireStep_waits (core := core) free).1]
    exact iff_of_false (by omega) free

theorem acquireStep_noClean (before : pg.stage ≤ 2) (ended : (acquireStep s core sk sc pg).1.stage = 3) (far : 2 ≤ scopeRank sc) (l : Nat) :
    NoClean (coreOf (acquireStep s core sk sc pg).2 core).l1 l := by
  rw [acquireStep_done ((acquireStep_stage before).1 ended), if_pos far]
  exact noClean_acquireL1 s l

end

/-! An operation that waits in a core goes on. -/

/-- An operation ends, or has come so far. -/
def closeOp (core slot op : Nat) (o : Op) (done : Bool) (b : OpBody) (s : State) : State :=
  if done then finishOp s core slot op else setOp s core slot op { o with body := b }

section
variable {core slot op : Nat} {s v : State} {sk k : Skein} {o : Op} {d : Bool} {b : OpBody}

theorem opOf_finishOp (v : State) (core slot op : Nat) : opOf (finishOp v core slot op) core slot op = none := by
  rw [opOf, finishOp, skeinOf_updSkein]
  cases skeinOf v core slot with
  | none => rfl
  | some k =>
    simp only [Option.map_some, Option.bind_some, finishOpSk]
    cases at' : NMap.get? k.ops op with
    | none => exact at'
    | some o => exact NMap.get?_erase_self _ _

theorem opOf_setOp (here : skeinOf v core slot = some k) (o : Op) : opOf (setOp v core slot op o) core slot op = some o := by
  rw [opOf, setOp, skeinOf_updSkein, here]
  exact NMap.get?_insert_self _ _ _

theorem opOf_closeOp (here : ∃ k, skeinOf v core slot = some k) : opOf (closeOp core slot op o d b v) core slot op = if d = true then none else some { o with body := b } := by
  obtain ⟨k, here⟩ := here
  unfold closeOp
  split
  · exact opOf_finishOp v core slot op
  · exact opOf_setOp here _

theorem done_closeOp (here : ∃ k, skeinOf v core slot = some k) : opOf (closeOp core slot op o d b v) core slot op = none ↔ d = true := by
  rw [opOf_closeOp here]
  cases d <;> simp

theorem coreOf_updSkein (s : State) (core slot n : Nat) (f : Skein → Skein) : coreOf (updSkein s core slot f) n = { coreOf s n with skeins := (coreOf (updSkein s core slot f) n).skeins } := by
  unfold updSkein
  split
  · rw [coreOf_setSkein]
    split
    · rename_i h
      rw [h]
    · rfl
  · rfl

theorem l1_updSkein (s : State) (core slot n : Nat) (f : Skein → Skein) : (coreOf (updSkein s core slot f) n).l1 = (coreOf s n).l1 := by rw [coreOf_updSkein]

theorem l1_closeOp : (coreOf (closeOp core slot op o d b v) core).l1 = (coreOf v core).l1 := by
  unfold closeOp
  split
  · exact l1_updSkein _ _ _ _ _
  · exact l1_updSkein _ _ _ _ _

theorem reqs_updSkein (s : State) (core slot : Nat) (f : Skein → Skein) : (updSkein s core slot f).reqs = s.reqs := by
  unfold updSkein
  split <;> rfl

theorem reqs_closeOp : (closeOp core slot op o d b v).reqs = v.reqs := by
  unfold closeOp
  split
  · exact reqs_updSkein _ _ _ _
  · exact reqs_updSkein _ _ _ _

/-- The end of an operation writes no register. -/
theorem finishOpSk_regs (sk : Skein) (op : Nat) : (finishOpSk sk op).vregs = sk.vregs ∧ (finishOpSk sk op).kregs = sk.kregs ∧ (finishOpSk sk op).preds = sk.preds ∧
    (finishOpSk sk op).vmarks = sk.vmarks ∧ (finishOpSk sk op).kmarks = sk.kmarks := by
  unfold finishOpSk
  split <;> exact ⟨rfl, rfl, rfl, rfl, rfl⟩

variable (here : skeinOf s core slot = some sk) (at' : opOf s core slot op = some o)
include here at'

theorem get?_op : NMap.get? sk.ops op = some o := by
  rw [opOf, here] at at'
  exact at'

theorem pokeOp_fence {f : FenceKind} {sc : Scope} {pg : Progress} (body : o.body = .fence f sc pg) :
    pokeOp core slot s op = closeOp core slot op o (fenceStep s core slot sk f sc pg).1 (.fence f sc (fenceStep s core slot sk f sc pg).2.1) (fenceStep s core slot sk f sc pg).2.2 := by
  unfold pokeOp
  rw [here]
  dsimp only
  rw [get?_op here at']
  dsimp only
  rw [body]
  rfl

theorem pokeOp_flush {inv : Bool} {sc : Scope} {ls : Option (List Nat)} {pg : Progress} (body : o.body = .flush inv sc ls pg) :
    pokeOp core slot s op = closeOp core slot op o (flushStep s core slot sk inv sc ls pg).1 (.flush inv sc ls (flushStep s core slot sk inv sc ls pg).2.1)
      (flushStep s core slot sk inv sc ls pg).2.2 := by
  unfold pokeOp
  rw [here]
  dsimp only
  rw [get?_op here at']
  dsimp only
  rw [body]
  rfl

theorem pokeOp_atomic {todo : List (Nat × Nat × AtomReq)} {left : Nat} {sc : Scope} {got : List (Nat × DWord × Bool)} {ty : IType} {dst : List RegRef} {sent : Bool}
    {pg : Progress} (body : o.body = .atomic todo left sc got ty dst sent pg) :
    pokeOp core slot s op = closeOp core slot op o (atomicStep s core slot op sk todo left sc got ty dst sent pg).1 (atomicStep s core slot op sk todo left sc got ty dst sent pg).2.1
      (atomicStep s core slot op sk todo left sc got ty dst sent pg).2.2 := by
  unfold pokeOp
  rw [here]
  dsimp only
  rw [get?_op here at']
  dsimp only
  rw [body]
  rfl

theorem pokeOp_seqr {dst : List RegRef} {lanes : LMask} {mark : Nat} (body : o.body = .seqr dst lanes mark) :
    pokeOp core slot s op = if seqrDone s core slot sk op mark then
        finishOp (updSkein s core slot (fun sk => writeResults sk dst lanes 0 (fun _ => sk.lastStamp))) core slot op
      else if seqrAlone sk op then s else setOp s core slot op { o with body := .seqr dst lanes s.nextId } := by
  unfold pokeOp
  rw [here]
  dsimp only
  rw [get?_op here at']
  dsimp only
  rw [body]

end

/-! FENCE. -/

section
variable {core slot : Nat} {s : State} {sk : Skein} {sc : Scope} {pg : Progress}

theorem fenceStep_acq (start : pg.stage = 0) : fenceStep s core slot sk .acq sc pg =
    (decide ((acquireStep s core sk sc { pg with stage := 2 }).1.stage = 3), (acquireStep s core sk sc { pg with stage := 2 }).1, (acquireStep s core sk sc { pg with stage := 2 }).2) := by
  unfold fenceStep
  rw [if_pos rfl, if_pos (by omega)]
  rfl

theorem fenceStep_rel : fenceStep s core slot sk .rel sc pg =
    (decide (2 ≤ (releaseTwice s core slot sk sc pg).1.stage), (releaseTwice s core slot sk sc pg).1, (releaseTwice s core slot sk sc pg).2) := rfl

theorem fenceStep_both {k : FenceKind} (rel : k ≠ .acq) (acq : k ≠ .rel) : fenceStep s core slot sk k sc pg =
    let r := releaseTwice s core slot sk sc pg
    let a := acquireStep r.2 core sk sc r.1
    (decide (a.1.stage = 3), a.1, a.2) := by
  cases k with
  | acq => exact absurd rfl rel
  | rel => exact absurd rfl acq
  | ar => rfl
  | sc => rfl

/-- An acquire whose conditions hold in a later state had them before. -/
theorem Acquirable.before {t : State} (here : skeinOf s core slot = some sk) (goes : CoreGoes core s t) (h : Acquirable t sk sc pg) (fresh : pg.inbound = none) :
    (∀ n ∈ pg.loads, opOf s core slot n = none) ∧ InboundIn s sc s.nextId := by
  obtain ⟨-, loads, inbound⟩ := h
  rw [fresh] at inbound
  exact ⟨(loadsBack_iff here _).1 loads, inboundIn_before goes goes.number ((inboundDone_iff t sc _).1 inbound)⟩

/-- A FENCE keeps its skein, and is complete only where its release and its acquire find nothing to wait for. -/
theorem fenceStep_spec (here : skeinOf s core slot = some sk) (start : pg.stage = 0) (fresh : pg.inbound = none) (k : FenceKind) :
    let r := fenceStep s core slot sk k sc pg
    CoreGoes core s r.2.2 ∧ (r.1 = true → (k ≠ .acq → Released s core slot sk sc pg.loads) ∧
      (k ≠ .rel → ((∀ n ∈ pg.loads, opOf s core slot n = none) ∧ InboundIn s sc s.nextId) ∧ (2 ≤ scopeRank sc → ∀ l, NoClean (coreOf r.2.2 core).l1 l))) := by
  obtain ⟨goes, le, loads, inbound, released⟩ := releaseTwice_spec (sc := sc) here start
  by_cases acq : k = .acq
  · subst acq
    rw [fenceStep_acq start]
    refine ⟨acquireStep_goes, fun ended => ⟨fun h => absurd rfl h, fun _ => ?_⟩⟩
    have ended := of_decide_eq_true ended
    have able := (acquireStep_stage (core := core) (pg := { pg with stage := 2 }) le_rfl).1 ended
    exact ⟨Acquirable.before (pg := { pg with stage := 2 }) here (.refl s) able fresh, fun far l => acquireStep_noClean le_rfl ended far l⟩
  · by_cases rel : k = .rel
    · subst rel
      rw [fenceStep_rel]
      refine ⟨goes, fun ended => ⟨fun _ => released ?_, fun h => absurd rfl h⟩⟩
      have ended := of_decide_eq_true ended
      omega
    · rw [fenceStep_both acq rel]
      refine ⟨goes.trans acquireStep_goes, fun ended => ?_⟩
      have ended := of_decide_eq_true ended
      have able := (acquireStep_stage le).1 ended
      have before := able.before here goes (inbound.trans fresh)
      rw [loads] at before
      exact ⟨fun _ => released able.1, fun _ => ⟨before, fun far l => acquireStep_noClean le ended far l⟩⟩

/-- A FENCE that finds nothing to wait for, and no dirty line, is complete. -/
theorem fenceStep_done (here : skeinOf s core slot = some sk) (start : pg.stage = 0) (fresh : pg.inbound = none) {k : FenceKind} (ids : (s.reqs.map Req.id).Nodup)
    (release : k ≠ .acq → Released s core slot sk sc pg.loads ∧ ∀ l e, NMap.get? (coreOf s core).l1 l = some e → e.dirty = 0)
    (acquire : k ≠ .rel → (∀ n ∈ pg.loads, opOf s core slot n = none) ∧ InboundIn s sc s.nextId) : (fenceStep s core slot sk k sc pg).1 = true := by
  have able (acq : k ≠ .rel) (waits : List Nat) : Acquirable s sk sc { pg with stage := 2, waits := waits } := by
    obtain ⟨loads, inbound⟩ := acquire acq
    exact ⟨rfl, (loadsBack_iff here _).2 loads, (inboundDone_iff s sc _).2 (by rw [fresh]; exact inbound)⟩
  by_cases acq : k = .acq
  · subst acq
    rw [fenceStep_acq start]
    exact decide_eq_true ((acquireStep_stage (core := core) le_rfl).2 (able (by decide) pg.waits))
  · obtain ⟨waits, done⟩ := releaseTwice_done here start ids (release acq).1 fun _ => (release acq).2
    by_cases rel : k = .rel
    · subst rel
      rw [fenceStep_rel, done]
      rfl
    · rw [fenceStep_both acq rel, done]
      exact decide_eq_true ((acquireStep_stage (core := core) le_rfl).2 (able rel waits))

end

end Sys2Proof.Machine
end

section
/-! PROOFS. CFLUSH, CINV and SEQR go on (R230, R232, O32). -/

namespace Sys2Proof.Machine

/-! CFLUSH and CINV. -/

section
variable {core slot : Nat} {s : State} {sk : Skein} {sc : Scope} {pg : Progress} {inv : Bool} {lines : Option (List Nat)}

/-- What a flush waits for before it writes lines back. -/
def FlushBegins (s : State) (sk : Skein) (inv : Bool) (sc : Scope) : Prop := sk.sq = [] ∧ sk.sqWait = [] ∧ (inv = true → InboundIn s sc s.nextId)

/-- The lines that a flush acts on. -/
def flushLines (s : State) (core : Nat) (lines : Option (List Nat)) : List Nat := lines.getD (NMap.keys (coreOf s core).l1)

/-- The lines of a flush are written back. -/
def flushed (s : State) (core slot : Nat) (lines : Option (List Nat)) : State := (flushLines s core lines).foldl (fun s l => writeBackLine s core (some slot) l) s

/-- The L1 once CINV has cleared its lines. -/
def invalidated (l1 : NMap L1Line) (lines : Option (List Nat)) (ls : List Nat) : NMap L1Line := (match lines with | some _ => ls | none => NMap.keys l1).foldl cleanOut l1

/-- CINV remembers what arrived before it began. -/
def flushMark (s : State) (inv : Bool) (pg : Progress) : Progress := if inv then inboundMark s pg else pg

theorem flushMark_stage (s : State) (inv : Bool) (pg : Progress) : (flushMark s inv pg).stage = pg.stage := by
  unfold flushMark inboundMark
  repeat' split
  all_goals rfl

/-- The first part of a flush: its lines are written back. -/
def flushFirst (s : State) (core slot : Nat) (sk : Skein) (inv : Bool) (sc : Scope) (lines : Option (List Nat)) (pg : Progress) : Progress × State :=
  if pg.stage = 0 ∧ sk.sq = [] ∧ sk.sqWait = [] ∧ (!inv ∨ inboundDone s sc (pg.inbound.getD 0)) then
    ({ pg with stage := 1, waits := coreWrites (flushed s core slot lines) core, lines := flushLines s core lines }, flushed s core slot lines)
  else (pg, s)

/-- A line is asked to be cleaned at its slice. -/
def cleanTurn (core : Nat) (a : List Nat × State) (l : Nat) : List Nat × State :=
  (a.1 ++ [(postCore a.2 .clean (.prefetch core) l .byp core).1], (postCore a.2 .clean (.prefetch core) l .byp core).2)

/-- The second part of a flush, once the writes are acknowledged. -/
def flushSecond (core : Nat) (inv : Bool) (sc : Scope) (lines : Option (List Nat)) (a : Progress × State) : Progress × State :=
  if a.1.stage = 1 ∧ waitsDone a.2 .dev a.1.waits then
    if inv then ({ a.1 with stage := 3 }, dropFills (updL1 a.2 core (fun l => invalidated l lines a.1.lines)) core none)
    else if sc = .sys then
      ({ a.1 with stage := 2, waits := ((a.1.lines.filter (fun l => isMain (128 * l))).foldl (cleanTurn core) ([], a.2)).1 },
        ((a.1.lines.filter (fun l => isMain (128 * l))).foldl (cleanTurn core) ([], a.2)).2)
    else ({ a.1 with stage := 3 }, a.2)
  else a

/-- The last part of a flush: the slices have cleaned the lines. -/
def flushThird (a : Progress × State) : Progress := if a.1.stage = 2 ∧ a.2.reqs.all (fun r => !decide (r.id ∈ a.1.waits)) then { a.1 with stage := 3 } else a.1

theorem flushStep_eq : flushStep s core slot sk inv sc lines pg =
    let a := flushSecond core inv sc lines (flushFirst s core slot sk inv sc lines (flushMark s inv pg))
    (decide ((flushThird a).stage = 3), flushThird a, a.2) := rfl

theorem flushBegins_iff (start : pg.stage = 0) (fresh : pg.inbound = none) :
    ((flushMark s inv pg).stage = 0 ∧ sk.sq = [] ∧ sk.sqWait = [] ∧ (!inv ∨ inboundDone s sc ((flushMark s inv pg).inbound.getD 0))) ↔ FlushBegins s sk inv sc := by
  rw [flushMark_stage, FlushBegins, ← inboundDone_iff]
  cases inv with
  | false => simp [start]
  | true => simp [start, flushMark, getD_inboundMark, fresh]

theorem flushStep_waits (start : pg.stage = 0) (fresh : pg.inbound = none) (waits : ¬FlushBegins s sk inv sc) :
    flushStep s core slot sk inv sc lines pg = (false, flushMark s inv pg, s) := by
  have stage : (flushMark s inv pg).stage = 0 := (flushMark_stage s inv pg).trans start
  have first : flushFirst s core slot sk inv sc lines (flushMark s inv pg) = (flushMark s inv pg, s) := if_neg (mt (flushBegins_iff start fresh).1 waits)
  rw [flushStep_eq, first]
  simp [flushSecond, flushThird, stage]

theorem coreGoes_cleans (ls : List Nat) (a : List Nat × State) : CoreGoes core a.2 (ls.foldl (cleanTurn core) a).2 :=
  List.foldlRecOn (motive := fun b : List Nat × State => CoreGoes core a.2 b.2) ls (cleanTurn core) (.refl a.2) fun _ h _ _ => h.trans (coreGoes_postCore _ _ _ _ _ _)

/-- Once a flush has begun, it is complete no sooner than its lines and the writes of the core are written; CINV then drops its lines. -/
theorem flushStep_begins (start : pg.stage = 0) (fresh : pg.inbound = none) (begins : FlushBegins s sk inv sc) :
    let v := flushed s core slot lines
    let r := flushStep s core slot sk inv sc lines pg
    CoreGoes core v r.2.2 ∧ (r.1 = true → waitsDone v .dev (coreWrites v core) = true) ∧ (waitsDone v .dev (coreWrites v core) = true → inv = true ∨ sc ≠ .sys → r.1 = true) ∧
      (r.1 = true → inv = true → (coreOf r.2.2 core).l1 = invalidated (coreOf v core).l1 lines (flushLines s core lines)) := by
  have first : flushFirst s core slot sk inv sc lines (flushMark s inv pg) =
      ({ flushMark s inv pg with stage := 1, waits := coreWrites (flushed s core slot lines) core, lines := flushLines s core lines }, flushed s core slot lines) :=
    if_pos ((flushBegins_iff start fresh).2 begins)
  intro v r
  have eq : r = flushStep s core slot sk inv sc lines pg := rfl
  rw [flushStep_eq, first] at eq
  rw [eq]
  dsimp only
  cases done : waitsDone v .dev (coreWrites v core) with
  | false =>
    have second : flushSecond core inv sc lines ({ flushMark s inv pg with stage := 1, waits := coreWrites v core, lines := flushLines s core lines }, v) =
        ({ flushMark s inv pg with stage := 1, waits := coreWrites v core, lines := flushLines s core lines }, v) := if_neg (by simp [done])
    rw [second]
    exact ⟨.refl v, by simp [flushThird], nofun, by simp [flushThird]⟩
  | true =>
    unfold flushSecond
    rw [if_pos ⟨rfl, done⟩]
    cases inv with
    | true =>
      rw [if_pos rfl]
      exact ⟨(coreGoes_updL1 v _).trans (coreGoes_dropFills _ _), fun _ => rfl, by simp [flushThird], fun _ _ => (l1_dropFills _ _).trans (l1_updL1 _ _)⟩
    | false =>
      rw [if_neg (by decide)]
      by_cases sys : sc = .sys
      · rw [if_pos sys]
        exact ⟨coreGoes_cleans _ ([], v), fun _ => rfl, fun _ h => absurd sys (h.resolve_left (by decide)), nofun⟩
      · rw [if_neg sys]
        exact ⟨.refl v, fun _ => rfl, by simp [flushThird], nofun⟩

end

end Sys2Proof.Machine
end

section
/-! PROOFS. SEQR and the atomics go on (R228, R232, O32). -/

namespace Sys2Proof.Machine

section
variable {core slot op : Nat} {s : State} {sk : Skein}

/-! SEQR. -/

/-- No operation that can still send a write precedes a SEQR. -/
theorem seqrAlone_iff (sk : Skein) (op : Nat) : seqrAlone sk op = true ↔ ∀ e ∈ sk.ops, e.1 < op →
    (∀ t l z g y d b p, e.2.body ≠ .atomic t l z g y d b p) ∧ (∀ n, e.2.body ≠ .store n) ∧ (∀ k z p, e.2.body ≠ .fence k z p) ∧ ∀ i z l p, e.2.body ≠ .flush i z l p := by
  unfold seqrAlone
  rw [List.all_eq_true]
  refine forall₂_congr fun e _ => ?_
  by_cases late : op ≤ e.1
  · simp [late]
  · have early := Nat.lt_of_not_le late
    cases e.2.body with
    | atomic t l z g y d b p => exact iff_of_false (by simp [late]) fun h => (h early).1 t l z g y d b p rfl
    | store n => exact iff_of_false (by simp [late]) fun h => (h early).2.1 n rfl
    | fence k z p => exact iff_of_false (by simp [late]) fun h => (h early).2.2.1 k z p rfl
    | flush i z l p => exact iff_of_false (by simp [late]) fun h => (h early).2.2.2 i z l p rfl
    | _ => exact iff_of_true (by simp) fun _ => by simp

theorem seqrDone_iff (s : State) (core slot : Nat) (sk : Skein) (op mark : Nat) : seqrDone s core slot sk op mark = true ↔
    seqrAlone sk op = true ∧ ∀ r ∈ s.reqs, r.who = .writeback core (some slot) → mark ≤ r.id := by
  unfold seqrDone
  rw [Bool.and_eq_true, List.all_eq_true]
  refine and_congr_right fun _ => forall₂_congr fun r _ => ?_
  rw [Bool.or_eq_true, decide_eq_true_eq, decide_eq_true_eq]
  exact ⟨fun h own => h.resolve_left (not_not_intro own), fun h => Classical.or_iff_not_imp_left.2 fun own => h (not_not.1 own)⟩

/-- A result written as an operation ends is there after it. -/
theorem skeinOf_finish_results {v : State} {k : Skein} (here : skeinOf v core slot = some k) (g : Skein → Skein) :
    skeinOf (finishOp (updSkein v core slot g) core slot op) core slot = some (finishOpSk (g k) op) := by
  rw [finishOp, skeinOf_updSkein, skeinOf_updSkein, here]
  rfl

/-! Atomics whose answers have come (R228). -/

/-- The lanes that an atomic has answers for, and those of them that came poisoned. -/
def atomLanes (got : List (Nat × DWord × Bool)) : LMask := lmask (fun l => got.any (fun g => decide (g.1 = l)))
def atomBads (got : List (Nat × DWord × Bool)) : LMask := lmask (fun l => got.any (fun g => decide (g.1 = l) && g.2.2))
/-- The value that a lane takes. -/
def atomValue (ty : IType) (got : List (Nat × DWord × Bool)) (l : Nat) : DWord := atomResult ty ((got.find? (fun g => g.1 = l)).elim 0 (fun g => g.2.1))

theorem lowest_le {m : LMask} {l : Nat} (h : m.getLsbD l = true) : lowest m ≤ l := by
  have mem := (mem_lanesOf m l).2 h
  have ascending := lanesOf_ascending m
  unfold lowest
  cases lanes : lanesOf m with
  | nil => simp
  | cons a r =>
    rw [lanes] at mem ascending
    rcases List.mem_cons.1 mem with rfl | later
    · exact le_rfl
    · exact ((List.pairwise_cons.1 ascending).1 l later).le

section
variable {got : List (Nat × DWord × Bool)} {ty : IType}

theorem getLsbD_atomLanes {l : Nat} (hl : l < 128) : (atomLanes got).getLsbD l = got.any (fun g => decide (g.1 = l)) := by
  rw [atomLanes, getLsbD_lmask, decide_eq_true hl, Bool.true_and]

theorem atomLanes_mem {l : Nat} (hl : l < 128) : (atomLanes got).getLsbD l = true ↔ ∃ g ∈ got, g.1 = l := by
  simp [getLsbD_atomLanes hl]

theorem atomBads_mem {l : Nat} (hl : l < 128) : (atomBads got).getLsbD l = true ↔ ∃ g ∈ got, g.1 = l ∧ g.2.2 = true := by
  rw [atomBads, getLsbD_lmask, decide_eq_true hl, Bool.true_and, List.any_eq_true]
  simp only [Bool.and_eq_true, decide_eq_true_eq]

theorem atomBads_some (lanes : ∀ g ∈ got, g.1 < 128) : atomBads got ≠ 0 ↔ ∃ g ∈ got, g.2.2 = true := by
  rw [ne_zero_iff]
  constructor
  · rintro ⟨l, hl⟩
    obtain ⟨g, hg, -, bad⟩ := (atomBads_mem (BitVec.lt_of_getLsbD hl)).1 hl
    exact ⟨g, hg, bad⟩
  · rintro ⟨g, hg, bad⟩
    exact ⟨g.1, (atomBads_mem (lanes g hg)).2 ⟨g, hg, rfl, bad⟩⟩

/-- A lane takes the old value of its own answer, extended. -/
theorem atomValue_holds (distinct : (got.map Prod.fst).Nodup) {g : Nat × DWord × Bool} (hg : g ∈ got) : HoldsPat ty g.2.1.toNat (atomValue ty got g.1) := by
  have own : got.find? (fun z => z.1 = g.1) = some g := by
    cases found : got.find? (fun z => z.1 = g.1) with
    | none =>
      have other := List.find?_eq_none.1 found g hg
      simp at other
    | some z =>
      have same : z.1 = g.1 := by simpa using List.find?_some found
      rw [List.inj_on_of_nodup_map distinct (List.mem_of_find?_eq_some found) hg same]
  rw [atomValue, own]
  exact holdsPat_patBits ty g.2.1.toNat

/-- The lowest lane that has an answer. -/
theorem atomLanes_first (some' : got ≠ []) (lanes : ∀ g ∈ got, g.1 < 128) : ∃ first ∈ got, first.1 = lowest (atomLanes got) ∧ ∀ g ∈ got, first.1 ≤ g.1 := by
  have on (g) (hg : g ∈ got) : (atomLanes got).getLsbD g.1 = true := (atomLanes_mem (lanes g hg)).2 ⟨g, hg, rfl⟩
  obtain ⟨g, hg⟩ := List.exists_mem_of_ne_nil got some'
  have nonzero : atomLanes got ≠ 0 := (ne_zero_iff _).2 ⟨g.1, on g hg⟩
  have low := lowest_mem _ nonzero
  obtain ⟨first, mem, eq⟩ := (atomLanes_mem (BitVec.lt_of_getLsbD low)).1 low
  exact ⟨first, mem, eq, fun z hz => eq ▸ lowest_le (on z hz)⟩

end

/-- The results of an atomic. -/
def atomWrites (got : List (Nat × DWord × Bool)) (ty : IType) (dst : List RegRef) (sk : Skein) : Skein := writeResults sk dst (atomLanes got) (atomBads got) (atomValue ty got)

section
variable {todo : List (Nat × Nat × AtomReq)} {left : Nat} {sc : Scope} {got : List (Nat × DWord × Bool)} {ty : IType} {dst : List RegRef} {pg : Progress}

/-- The acquire of an atomic at a scope. -/
def atomicAcquire (s : State) (core : Nat) (sk : Skein) (sc : Scope) (pg : Progress) : Progress × State :=
  if sc = .sk then ({ pg with stage := 3 }, s) else acquireStep s core sk sc { pg with stage := 2 }

theorem atomicAcquire_goes : CoreGoes core s (atomicAcquire s core sk sc pg).2 := by
  unfold atomicAcquire
  split
  · exact .refl s
  · exact acquireStep_goes

theorem atomicAcquire_stage (here : skeinOf s core slot = some sk) : (atomicAcquire s core sk sc pg).1.stage = 3 ↔
    sc = .sk ∨ (∀ n ∈ pg.loads, opOf s core slot n = none) ∧ InboundIn s sc (pg.inbound.getD s.nextId) := by
  unfold atomicAcquire
  split
  · rename_i near
    exact iff_of_true rfl (.inl near)
  · rename_i far
    rw [acquireStep_stage le_rfl, Acquirable, loadsBack_iff here, inboundDone_iff, or_iff_right far]
    exact and_iff_right rfl

theorem atomicStep_sent : atomicStep s core slot op sk todo left sc got ty dst true pg =
    if left ≠ 0 then (false, .atomic todo left sc got ty dst true pg, s) else
    let a := atomicAcquire s core sk sc pg
    if a.1.stage = 3 then (true, .atomic todo left sc got ty dst true a.1, updSkein a.2 core slot (atomWrites got ty dst)) else (false, .atomic todo left sc got ty dst true a.1, a.2) := rfl

/-- An atomic that has sent its requests is complete when all have answered and its acquire finds nothing to wait for. -/
theorem atomicStep_flag (here : skeinOf s core slot = some sk) : (atomicStep s core slot op sk todo left sc got ty dst true pg).1 = true ↔
    left = 0 ∧ (sc = .sk ∨ (∀ n ∈ pg.loads, opOf s core slot n = none) ∧ InboundIn s sc (pg.inbound.getD s.nextId)) := by
  rw [← atomicAcquire_stage here, atomicStep_sent]
  by_cases left0 : left = 0
  · rw [if_neg (not_not_intro left0)]
    dsimp only
    split
    · rename_i stage
      exact iff_of_true rfl ⟨left0, stage⟩
    · rename_i stage
      exact iff_of_false Bool.false_ne_true fun h => stage h.2
  · rw [if_pos left0]
    exact iff_of_false Bool.false_ne_true fun h => left0 h.1

theorem skein_updSkein {v : State} {k : Skein} (here : skeinOf v core slot = some k) (g : Skein → Skein) : skeinOf (updSkein v core slot g) core slot = some (g k) := by
  rw [skeinOf_updSkein, here]
  rfl

theorem atomicStep_skein (here : skeinOf s core slot = some sk) : ∃ k, skeinOf (atomicStep s core slot op sk todo left sc got ty dst true pg).2.2 core slot = some k := by
  rw [atomicStep_sent]
  split
  · exact ⟨sk, here⟩
  · obtain ⟨ops, acquired⟩ := (atomicAcquire_goes (sk := sk) (sc := sc) (pg := pg)).skein slot sk here
    dsimp only
    split
    · exact ⟨_, skein_updSkein acquired _⟩
    · exact ⟨_, acquired⟩

/-- The registers that an atomic writes as it ends: its lanes take their old values, extended, with their marks. -/
theorem atomic_results (here : skeinOf s core slot = some sk) (done : (atomicStep s core slot op sk todo left sc got ty dst true pg).1 = true) (distinct : dst.Nodup)
    (some' : got ≠ []) (gots : (got.map Prod.fst).Nodup) (lanes : ∀ g ∈ got, g.1 < 128) :
    ∃ (t : Skein) (w : Nat → DWord) (first : Nat × DWord × Bool), skeinOf (finishOp (atomicStep s core slot op sk todo left sc got ty dst true pg).2.2 core slot op) core slot = some t ∧
      first ∈ got ∧ (∀ g ∈ got, first.1 ≤ g.1 ∧ HoldsPat ty g.2.1.toNat (w g.1)) ∧
      DstTake sk t dst (fun l => if (got.any (fun g => decide (g.1 = l))) = true then some (w l).toNat else none) (some (w first.1).toNat) ∧
      MarksTake sk t dst (fun l => ∃ g ∈ got, g.1 = l) (fun l => ∃ g ∈ got, g.1 = l ∧ g.2.2 = true) True (∃ g ∈ got, g.2.2 = true) False := by
  obtain ⟨first, mem, low, least⟩ := atomLanes_first some' lanes
  obtain ⟨ops, acquired⟩ := (atomicAcquire_goes (sk := sk) (sc := sc) (pg := pg)).skein slot sk here
  have written : (atomicStep s core slot op sk todo left sc got ty dst true pg).2.2 = updSkein (atomicAcquire s core sk sc pg).2 core slot (atomWrites got ty dst) := by
    have free := (atomicStep_flag here).1 done
    rw [atomicStep_sent, if_neg (not_not_intro free.1)]
    dsimp only
    rw [if_pos ((atomicAcquire_stage here).2 free.2)]
  rw [written]
  obtain ⟨vregs, kregs, preds, vmarks, kmarks⟩ := finishOpSk_regs (atomWrites got ty dst { sk with ops := ops }) op
  refine ⟨_, atomValue ty got, first, skeinOf_finish_results acquired _, mem, fun g hg => ⟨least g hg, atomValue_holds gots hg⟩, ?_, ?_⟩
  · have take := writeResultsN_dstTake distinct (atomLanes got) (atomBads got) (fun l => (atomValue ty got l).toNat) { sk with ops := ops }
    refine dstTake_congr (dstTake_from_regs (sk' := sk) (dstTake_of_regs take vregs kregs preds) rfl rfl rfl) (fun _ _ l hl => ?_) fun n _ => by rw [low]
    rw [getLsbD_atomLanes hl]
  · have take := writeResultsN_marksTake distinct (atomLanes got) (atomBads got) (fun l => (atomValue ty got l).toNat) { sk with ops := ops }
    refine marksTake_congr (marksTake_from_marks (sk' := sk) (marksTake_of_marks take vmarks kmarks) rfl rfl) (fun _ _ l hl on => ⟨(atomLanes_mem hl).2 on, atomBads_mem hl⟩)
      fun _ _ _ => ⟨trivial, atomBads_some lanes⟩

/-! Atomics that send their requests. -/

/-- The release of an atomic at a scope. -/
def atomicRelease (s : State) (core slot : Nat) (sk : Skein) (sc : Scope) (pg : Progress) : Progress × State :=
  if sc = .sk then ({ pg with stage := 2 }, s) else releaseTwice s core slot sk sc pg

/-- One lane's request. -/
def atomSend (core slot op : Nat) (s : State) (t : Nat × Nat × AtomReq) : State := (postCore s (.atomic t.2.2) (.atomic core slot op t.1) t.2.1 .keep core).2

/-- The lines of an atomic are written back and its requests sent. -/
def atomicSent (s : State) (core slot op : Nat) (todo : List (Nat × Nat × AtomReq)) : State :=
  todo.foldl (atomSend core slot op) ((dedup (todo.map (fun t => t.2.1))).foldl (fun s l => writeBackLine s core none l) s)

theorem atomicStep_unsent : atomicStep s core slot op sk todo left sc got ty dst false pg =
    let r := atomicRelease s core slot sk sc pg
    if r.1.stage = 2 ∧ sk.sq = [] ∧ sk.sqWait = [] then (false, .atomic todo left sc got ty dst true r.1, atomicSent r.2 core slot op todo)
    else (false, .atomic todo left sc got ty dst false r.1, r.2) := rfl

theorem coreGoes_atomSends (todo : List (Nat × Nat × AtomReq)) (s : State) : CoreGoes core s (todo.foldl (atomSend core slot op) s) :=
  .foldl (fun _ _ => coreGoes_postCore _ _ _ _ _ _) todo s

theorem coreGoes_atomicSent (s : State) (todo : List (Nat × Nat × AtomReq)) : CoreGoes core s (atomicSent s core slot op todo) :=
  (coreGoes_writeBackLines none _ s).trans (coreGoes_atomSends todo _)

/-- The request of a lane of an atomic. -/
def AtomSentFor (core slot op n : Nat) (t : Nat × Nat × AtomReq) (r : Req) : Prop :=
  r.kind = .atomic t.2.2 ∧ r.who = .atomic core slot op t.1 ∧ r.line = t.2.1 ∧ r.stage = .port ∧ n ≤ r.id

/-- Each lane of an atomic sends its request. -/
theorem atomSends_post (todo : List (Nat × Nat × AtomReq)) : ∀ (s : State) {t : Nat × Nat × AtomReq}, t ∈ todo →
    ∃ r ∈ (todo.foldl (atomSend core slot op) s).reqs, AtomSentFor core slot op s.nextId t r := by
  induction todo with
  | nil => exact fun s t mem => nomatch mem
  | cons a rest ih =>
    intro s t mem
    rw [List.foldl_cons]
    rcases List.mem_cons.1 mem with rfl | mem
    · have sent : ∃ r ∈ (atomSend core slot op s t).reqs, AtomSentFor core slot op s.nextId t r :=
        ⟨_, List.mem_append_right _ (.head _), rfl, rfl, rfl, rfl, le_rfl⟩
      obtain ⟨r, hr, own⟩ := sent
      exact ⟨r, (coreGoes_atomSends (core := core) rest _).writes r hr (by simp [Req.isWrite, own.1]), own⟩
    · obtain ⟨r, hr, kind, who, line, stage, new⟩ := ih (atomSend core slot op s a) mem
      exact ⟨r, hr, kind, who, line, stage, (Nat.le_succ _).trans new⟩

theorem atomicSent_posts (s : State) {todo : List (Nat × Nat × AtomReq)} {t : Nat × Nat × AtomReq} (mem : t ∈ todo) :
    ∃ r ∈ (atomicSent s core slot op todo).reqs, AtomSentFor core slot op s.nextId t r := by
  obtain ⟨r, hr, kind, who, line, stage, new⟩ := atomSends_post (core := core) (slot := slot) (op := op) todo
    ((dedup (todo.map (fun t => t.2.1))).foldl (fun s l => writeBackLine s core none l) s) mem
  exact ⟨r, hr, kind, who, line, stage, (coreGoes_writeBackLines none _ s).number.trans new⟩

theorem atomicRelease_spec (here : skeinOf s core slot = some sk) (start : pg.stage = 0) :
    let r := atomicRelease s core slot sk sc pg
    CoreGoes core s r.2 ∧ (r.1.stage = 2 → sc ≠ .sk → Released s core slot sk sc pg.loads) := by
  unfold atomicRelease
  split
  · rename_i near
    exact ⟨.refl s, fun _ far => absurd near far⟩
  · obtain ⟨goes, -, -, -, released⟩ := releaseTwice_spec (sc := sc) here start
    exact ⟨goes, fun stage _ => released stage⟩

theorem atomicRelease_done (here : skeinOf s core slot = some sk) (start : pg.stage = 0) (ids : (s.reqs.map Req.id).Nodup)
    (free : sc ≠ .sk → Released s core slot sk sc pg.loads) (clean : 2 ≤ scopeRank sc → ∀ l e, NMap.get? (coreOf s core).l1 l = some e → e.dirty = 0) :
    ∃ q, atomicRelease s core slot sk sc pg = (q, s) ∧ q.stage = 2 := by
  unfold atomicRelease
  split
  · exact ⟨_, rfl, rfl⟩
  · rename_i far
    obtain ⟨waits, done⟩ := releaseTwice_done here start ids (free far) clean
    exact ⟨_, done, rfl⟩

end

end

end Sys2Proof.Machine
end

section
/-! PROOFS. How FENCE, CFLUSH, CINV, SEQR and the atomics begin and end (O32). -/

namespace Sys2Proof.Machine

/-- The lines that a flush is for, as the obligation names them. -/
theorem mem_flushLines {core : Nat} {s : State} {lines : Option (List Nat)} {l : Nat}
    (chosen : match lines with | some ls => l ∈ ls | none => (NMap.get? (coreOf s core).l1 l).isSome = true) : l ∈ flushLines s core lines := by
  cases lines with
  | some ls => exact chosen
  | none =>
    obtain ⟨e, at''⟩ := Option.isSome_iff_exists.1 chosen
    exact NMap.mem_keys_of_get? at''

theorem flush_skein {core slot : Nat} {s : State} {sk : Skein} {inv : Bool} {sc : Scope} {lines : Option (List Nat)} {pg : Progress}
    (here : skeinOf s core slot = some sk) (start : pg.stage = 0) (fresh : pg.inbound = none) (begins : FlushBegins s sk inv sc) :
    ∃ k, skeinOf (flushStep s core slot sk inv sc lines pg).2.2 core slot = some k := by
  obtain ⟨goes, -⟩ := flushStep_begins (core := core) (slot := slot) (lines := lines) start fresh begins
  obtain ⟨ops, left⟩ := ((coreGoes_writeBackLines (some slot) (flushLines s core lines) s).trans goes).skein slot sk here
  exact ⟨_, left⟩

section
variable {core slot op : Nat} {o : Op} {sk : Skein} {s : State} (here : skeinOf s core slot = some sk) (at' : opOf s core slot op = some o)
include here at'

/-- A FENCE that goes on is complete only where it finds nothing to wait for, and leaves no clean byte where its acquire goes beyond the bolt. -/
theorem fence_ends {k : FenceKind} {sc : Scope} {pg : Progress} (body : o.body = .fence k sc pg) (start : pg.stage = 0) (fresh : pg.inbound = none)
    (done : opOf (pokeOp core slot s op) core slot op = none) : (k ≠ .acq → Released s core slot sk sc pg.loads) ∧
      (k ≠ .rel → ((∀ n ∈ pg.loads, opOf s core slot n = none) ∧ InboundIn s sc s.nextId) ∧
        (2 ≤ scopeRank sc → ∀ l, NoClean (coreOf (pokeOp core slot s op) core).l1 l)) := by
  obtain ⟨goes, ends⟩ := fenceStep_spec (sc := sc) here start fresh k
  obtain ⟨ops, left⟩ := goes.skein slot sk here
  rw [pokeOp_fence here at' body] at done ⊢
  rw [l1_closeOp]
  exact ends ((done_closeOp ⟨_, left⟩).1 done)

theorem fence_done {k : FenceKind} {sc : Scope} {pg : Progress} (body : o.body = .fence k sc pg) (start : pg.stage = 0) (fresh : pg.inbound = none)
    (ids : (s.reqs.map Req.id).Nodup) (release : k ≠ .acq → Released s core slot sk sc pg.loads ∧ ∀ l e, NMap.get? (coreOf s core).l1 l = some e → e.dirty = 0)
    (acquire : k ≠ .rel → (∀ n ∈ pg.loads, opOf s core slot n = none) ∧ InboundIn s sc s.nextId) : opOf (pokeOp core slot s op) core slot op = none := by
  obtain ⟨goes, -⟩ := fenceStep_spec (sc := sc) here start fresh k
  obtain ⟨ops, left⟩ := goes.skein slot sk here
  rw [pokeOp_fence here at' body]
  exact (done_closeOp ⟨_, left⟩).2 (fenceStep_done here start fresh ids release acquire)

section
variable {inv : Bool} {sc : Scope} {lines : Option (List Nat)} {pg : Progress} (body : o.body = .flush inv sc lines pg) (start : pg.stage = 0) (fresh : pg.inbound = none)
include body start fresh

theorem flush_waits (waits : ¬FlushBegins s sk inv sc) : opOf (pokeOp core slot s op) core slot op ≠ none ∧ (pokeOp core slot s op).reqs = s.reqs := by
  rw [pokeOp_flush here at' body, flushStep_waits start fresh waits]
  exact ⟨fun done => Bool.false_ne_true ((done_closeOp ⟨sk, here⟩).1 done), reqs_closeOp⟩

theorem flush_posts (begins : FlushBegins s sk inv sc) {l : Nat} (chosen : l ∈ flushLines s core lines) {e : L1Line} (held : NMap.get? (coreOf s core).l1 l = some e)
    (dirty : e.dirty ≠ 0) : ∃ r ∈ (pokeOp core slot s op).reqs, WrittenBack core (some slot) l e s.nextId r := by
  obtain ⟨goes, -⟩ := flushStep_begins (core := core) (slot := slot) (lines := lines) start fresh begins
  obtain ⟨r, hr, back⟩ := writeBackLines_post (some slot) _ chosen held dirty
  rw [pokeOp_flush here at' body, reqs_closeOp]
  exact ⟨r, goes.writes r hr back.write, back⟩

theorem flush_begun (done : opOf (pokeOp core slot s op) core slot op = none) : FlushBegins s sk inv sc := by
  by_contra waits
  exact (flush_waits here at' body start fresh waits).1 done

/-- A flush that is complete has nothing left to wait for, and CINV has cleared its lines. -/
theorem flush_ends (done : opOf (pokeOp core slot s op) core slot op = none) : (∀ r ∈ s.reqs, ¬HoldsRelease s core .dev r) ∧
    (∀ l e, l ∈ flushLines s core lines → NMap.get? (coreOf s core).l1 l = some e → isMain (128 * l) = true → e.dirty = 0) ∧
    (inv = true → ∀ l, l ∈ flushLines s core lines → NoClean (coreOf (pokeOp core slot s op) core).l1 l) := by
  have begins := flush_begun here at' body start fresh done
  obtain ⟨goes, waited, -, cleared⟩ := flushStep_begins (core := core) (slot := slot) (lines := lines) start fresh begins
  rw [pokeOp_flush here at' body] at done ⊢
  have flag := (done_closeOp (flush_skein here start fresh begins)).1 done
  have quiet := waited flag
  refine ⟨noHold_of_waitsDone (coreGoes_writeBackLines _ _ s) quiet, fun l e mem held main => ?_, fun drops l mem => ?_⟩
  · by_contra dirty
    obtain ⟨r, hr, back⟩ := writeBackLines_post (some slot) _ mem held dirty
    cases (back.holds (sc := .dev) main hr).symm.trans quiet
  · rw [l1_closeOp, cleared flag drops]
    cases lines with
    | none => exact noClean_all _ l
    | some ls => exact noClean_cleanOuts ls (.inl mem)

theorem flush_done (begins : FlushBegins s sk inv sc) (ids : (s.reqs.map Req.id).Nodup) (free : ∀ r ∈ s.reqs, ¬HoldsRelease s core .dev r)
    (clean : ∀ l e, NMap.get? (coreOf s core).l1 l = some e → e.dirty = 0) (once : inv = true ∨ sc ≠ .sys) : opOf (pokeOp core slot s op) core slot op = none := by
  obtain ⟨-, -, ends, -⟩ := flushStep_begins (core := core) (slot := slot) (lines := lines) start fresh begins
  have same : flushed s core slot lines = s := writeBackLines_clean _ clean _
  rw [same] at ends
  rw [pokeOp_flush here at' body]
  exact (done_closeOp (flush_skein here start fresh begins)).2 (ends (waitsDone_of_noHold ids free) once)

end

/-- SEQR is complete exactly when every earlier write has been acknowledged. -/
theorem seqr_ends {dst : List RegRef} {lanes : LMask} {mark : Nat} (body : o.body = .seqr dst lanes mark) :
    opOf (pokeOp core slot s op) core slot op = none ↔ seqrDone s core slot sk op mark = true := by
  rw [pokeOp_seqr here at' body]
  split
  · rename_i done
    exact iff_of_true (opOf_finishOp _ _ _ _) done
  · rename_i waits
    refine iff_of_false (fun gone => ?_) waits
    split at gone
    · rw [at'] at gone
      cases gone
    · rw [opOf_setOp here] at gone
      cases gone

theorem seqr_takes {dst : List RegRef} {lanes : LMask} {mark : Nat} (body : o.body = .seqr dst lanes mark) (distinct : dst.Nodup) (done : seqrDone s core slot sk op mark = true) :
    ∃ t, skeinOf (pokeOp core slot s op) core slot = some t ∧
      DstTake sk t dst (fun l => if lanes.getLsbD l then some sk.lastStamp.toNat else none) (some sk.lastStamp.toNat) := by
  rw [pokeOp_seqr here at' body, if_pos done]
  obtain ⟨vregs, kregs, preds, -, -⟩ := finishOpSk_regs (writeResults sk dst lanes 0 (fun _ => sk.lastStamp)) op
  exact ⟨_, skeinOf_finish_results here _, dstTake_of_regs (writeResultsN_dstTake distinct lanes 0 (fun _ => sk.lastStamp.toNat) sk) vregs kregs preds⟩

section
variable {todo : List (Nat × Nat × AtomReq)} {left : Nat} {sc : Scope} {got : List (Nat × DWord × Bool)} {ty : IType} {dst : List RegRef} {pg : Progress}

theorem atomic_ends (body : o.body = .atomic todo left sc got ty dst true pg) : opOf (pokeOp core slot s op) core slot op = none ↔
    left = 0 ∧ (sc = .sk ∨ (∀ n ∈ pg.loads, opOf s core slot n = none) ∧ InboundIn s sc (pg.inbound.getD s.nextId)) := by
  rw [pokeOp_atomic here at' body, done_closeOp (atomicStep_skein here), atomicStep_flag here]

/-- An atomic that is complete has written its registers. -/
theorem atomic_takes (body : o.body = .atomic todo left sc got ty dst true pg) (distinct : dst.Nodup) (some' : got ≠ []) (gots : (got.map Prod.fst).Nodup)
    (lanes : ∀ g ∈ got, g.1 < 128) (done : opOf (pokeOp core slot s op) core slot op = none) :
    ∃ (t : Skein) (w : Nat → DWord) (first : Nat × DWord × Bool), skeinOf (pokeOp core slot s op) core slot = some t ∧
      first ∈ got ∧ (∀ g ∈ got, first.1 ≤ g.1 ∧ HoldsPat ty g.2.1.toNat (w g.1)) ∧
      DstTake sk t dst (fun l => if (got.any (fun g => decide (g.1 = l))) = true then some (w l).toNat else none) (some (w first.1).toNat) ∧
      MarksTake sk t dst (fun l => ∃ g ∈ got, g.1 = l) (fun l => ∃ g ∈ got, g.1 = l ∧ g.2.2 = true) True (∃ g ∈ got, g.2.2 = true) False := by
  have flag : (atomicStep s core slot op sk todo left sc got ty dst true pg).1 = true := (atomicStep_flag here).2 ((atomic_ends here at' body).1 done)
  have closed : pokeOp core slot s op = finishOp (atomicStep s core slot op sk todo left sc got ty dst true pg).2.2 core slot op := by
    rw [pokeOp_atomic here at' body, closeOp, if_pos flag]
  rw [closed]
  exact atomic_results here flag distinct some' gots lanes

/-- Where an atomic stands after it has gone on without having sent its requests before. -/
theorem atomic_unsent (body : o.body = .atomic todo left sc got ty dst false pg) (start : pg.stage = 0) :
    let r := atomicRelease s core slot sk sc pg
    let go := r.1.stage = 2 ∧ sk.sq = [] ∧ sk.sqWait = []
    (go → opOf (pokeOp core slot s op) core slot op = some { o with body := .atomic todo left sc got ty dst true r.1 } ∧
      (pokeOp core slot s op).reqs = (atomicSent r.2 core slot op todo).reqs) ∧
    (¬go → opOf (pokeOp core slot s op) core slot op = some { o with body := .atomic todo left sc got ty dst false r.1 }) := by
  obtain ⟨goes, -⟩ := atomicRelease_spec (sc := sc) here start
  intro r go
  rw [pokeOp_atomic here at' body, atomicStep_unsent]
  refine ⟨fun sends => ?_, fun waits => ?_⟩
  · rw [if_pos sends]
    obtain ⟨ops, left'⟩ := (goes.trans (coreGoes_atomicSent _ todo)).skein slot sk here
    exact ⟨opOf_closeOp ⟨_, left'⟩, reqs_closeOp⟩
  · rw [if_neg waits]
    obtain ⟨ops, left'⟩ := goes.skein slot sk here
    exact opOf_closeOp ⟨_, left'⟩

/-- An atomic sends its requests only after its release. -/
theorem atomic_sent_free (body : o.body = .atomic todo left sc got ty dst false pg) (start : pg.stage = 0)
    (sent : ∃ p' q, opOf (pokeOp core slot s op) core slot op = some p' ∧ p'.body = .atomic todo left sc got ty dst true q) :
    sk.sq = [] ∧ sk.sqWait = [] ∧ (sc ≠ .sk → Released s core slot sk sc pg.loads) := by
  obtain ⟨-, waits⟩ := atomic_unsent here at' body start
  obtain ⟨-, released⟩ := atomicRelease_spec (sc := sc) here start
  obtain ⟨p', q, now, body'⟩ := sent
  by_cases go : (atomicRelease s core slot sk sc pg).1.stage = 2 ∧ sk.sq = [] ∧ sk.sqWait = []
  · exact ⟨go.2.1, go.2.2, released go.1⟩
  · rw [waits go] at now
    obtain rfl := Option.some.inj now
    cases body'

theorem atomic_sends (body : o.body = .atomic todo left sc got ty dst false pg) (start : pg.stage = 0) (ids : (s.reqs.map Req.id).Nodup)
    (free : sk.sq = [] ∧ sk.sqWait = [] ∧ (sc ≠ .sk → Released s core slot sk sc pg.loads))
    (clean : 2 ≤ scopeRank sc → ∀ l e, NMap.get? (coreOf s core).l1 l = some e → e.dirty = 0) :
    (∃ p' q, opOf (pokeOp core slot s op) core slot op = some p' ∧ p'.body = .atomic todo left sc got ty dst true q) ∧
    ∀ t ∈ todo, ∃ r ∈ (pokeOp core slot s op).reqs, AtomSentFor core slot op s.nextId t r := by
  obtain ⟨sq, wait, released⟩ := free
  obtain ⟨q, release, two⟩ := atomicRelease_done here start ids released clean
  obtain ⟨sends, -⟩ := atomic_unsent here at' body start
  rw [release] at sends
  obtain ⟨now, reqs⟩ := sends ⟨two, sq, wait⟩
  exact ⟨⟨_, q, now, rfl⟩, fun t mem => reqs ▸ atomicSent_posts s mem⟩

end

end

/-- PREF posts prefetches, for all the lanes whose lines the core has translations of, and drops lanes that would fault. -/
theorem pref_begins {c : Ctl} {x : Ctx} {s : State} {a : VK} {off : Word} {l2 : Bool} (ready : QuietReady {} (Instr.use (.pref c a off l2)) c x s)
    (free : memHeld (activeCtx x c) false true = false) : ∃ t new, exec (.pref c a off l2) s = .next (retire (activeCtx x c) t) ∧
      t.mem = s.mem ∧ t.reqs = s.reqs ++ new ∧ (∀ r ∈ new, PrefetchOf x.core l2 r) ∧ skeinOf t x.core x.slot = some x.sk ∧
      ((∀ e ∈ laneEas (activeCtx x c) a off, canonical e.2 = true → (tlbFind (coreOf s x.core).tlb (x.launch s).ctx (va57 e.2 / 128 * 128)).isSome = true) →
        ∀ e ∈ laneEas (activeCtx x c) a off, ∀ p z w, canonical e.2 = true → addrMarked (activeCtx x c) a e.1 = false →
        tlbFind (coreOf s x.core).tlb (x.launch s).ctx (va57 e.2 / 128 * 128) = some p → tlbAccess p (va57 e.2 / 128 * 128) .read = .ok z →
        useCheck s x.die z .other = .ok w → isMain w.pa = true → ∃ r ∈ new, r.line = w.pa / 128) ∧
      ∀ r ∈ new, ∃ e ∈ laneEas (activeCtx x c) a off, canonical e.2 = true ∧ addrMarked (activeCtx x c) a e.1 = false := by
  obtain ⟨new, ⟨mem, reqs, tlb, own⟩, none'⟩ := prefTurns_keep (activeCtx x c) l2 (prefLines (activeCtx x c) a off) s
  refine ⟨_, new, pref_issue ready free, mem, reqs, own, (skeinOf_of_besidesTlb tlb _ _).trans (ctxOf_skein ready.1), fun found e he p z w canon mark hp hz used main => ?_,
    fun r hr => ?_⟩
  · have all : ∀ va ∈ prefLines (activeCtx x c) a off, (tlbFind (coreOf s x.core).tlb ((activeCtx x c).launch s).ctx va).isSome = true := by
      intro va hva
      obtain ⟨e, he, canon, -, rfl⟩ := (mem_prefLines _ _ _ _).1 hva
      exact found e he canon
    obtain ⟨sent, sends, lines⟩ := prefTurns_found (x := activeCtx x c) (l2 := l2) _ all (Sends.refl s)
    have same : new = sent := by
      obtain ⟨m, state⟩ := sends
      rw [state] at reqs
      exact (List.append_cancel_left reqs).symm
    rw [same]
    exact lines _ ((mem_prefLines _ _ _ _).2 ⟨e, he, canon, mark, rfl⟩) p z w hp hz used main
  · obtain ⟨va, hva⟩ := List.exists_mem_of_ne_nil _ fun empty => List.ne_nil_of_mem hr (none' empty)
    obtain ⟨e, he, canon, mark, -⟩ := (mem_prefLines _ _ _ _).1 hva
    exact ⟨e, he, canon, mark⟩

/-- Settles O32: what waits is complete exactly where its release and its acquire find nothing to wait for. -/
theorem atomicsAndFences : Obligations.AtomicsAndFences := by
  unfold Obligations.AtomicsAndFences
  refine ⟨fun c d a b cc off op ty k sc l2 xs s x => ?_, fun core slot op o sk s here at' => ?_⟩
  · intro y n whole line begun clear quiet refs atomic flushed
    have flushes {inv : Bool} {i : Instr} {u : State} {lines : Option (List Nat)} (h : exec i s = .next (flushBegun x c inv sc s u lines)) : flushed i inv u lines := by
      unfold flushBegun at h
      by_cases near : scopeRank sc ≤ 1
      · exact (if_pos near).mpr (h.trans (by rw [if_pos near]))
      · exact (if_neg near).mpr (h.trans (by rw [if_neg near]; rfl))
    refine ⟨fun ready passes => ⟨_, atom_begins ready passes, rfl⟩, fun ready passes => ⟨_, atomc_begins ready passes, rfl⟩, fun ready free flag => fence_begins ready free flag, fun ready free flag => ?_, fun ready passes => ?_,
      fun ready flag => seqr_begins ready.1 ready.2 flag, fun ready => pref_begins ready.1 ready.2⟩
    · have here : skeinOf s x.core x.slot = some x.sk := ctxOf_skein ready.1
      exact ⟨flushes ((cflush_issue (a := none) ready.activeMarks).trans (congrArg Host.Outcome.next (flushGo_all here free flag false))),
        flushes ((cinv_issue (a := none) ready.activeMarks).trans (congrArg Host.Outcome.next (flushGo_all here free flag true)))⟩
    · have here : skeinOf s x.core x.slot = some x.sk := ctxOf_skein ready.1
      exact ⟨flushes ((cflush_issue (a := some a) ready.activeMarks).trans (congrArg Host.Outcome.next (flushGo_some here passes false))),
        flushes ((cinv_issue (a := some a) ready.activeMarks).trans (congrArg Host.Outcome.next (flushGo_some here passes true)))⟩
  · intro u done noClean allClean
    refine ⟨fun k sc pg body start fresh => ⟨fun ended => ?_, fun ids release acquire => fence_done here at' body start fresh ids release acquire⟩,
      fun inv sc lines pg body start fresh => ⟨fun waits => flush_waits here at' body start fresh waits, fun begins l e chosen held dirty => ?_, fun ended => ?_,
        fun ids begins free clean once => flush_done here at' body start fresh begins ids free clean once⟩,
      fun dst lanes mark body distinct => ⟨?_, fun ended => seqr_takes here at' body distinct ((seqr_ends here at' body).1 ended)⟩,
      fun todo left sc got ty dst pg body distinct some' gots lanes =>
        ⟨atomic_ends here at' body, fun ended => atomic_takes here at' body distinct some' gots lanes ended⟩,
      fun todo left sc got ty dst pg body start => ⟨?_, atomic_sent_free here at' body start, fun ids free clean => atomic_sends here at' body start ids free clean⟩⟩
    · obtain ⟨release, acquire⟩ := fence_ends here at' body start fresh ended
      exact ⟨release, fun acq => ⟨(acquire acq).1, fun far l => (acquire acq).2 far l⟩⟩
    · obtain ⟨r, hr, who, at'', kind, -, new⟩ := flush_posts here at' body start fresh begins (mem_flushLines chosen) held dirty
      exact ⟨r, hr, who, at'', kind, new⟩
    · obtain ⟨free, clean, cleared⟩ := flush_ends here at' body start fresh ended
      exact ⟨flush_begun here at' body start fresh ended, free, fun l e chosen => clean l e (mem_flushLines chosen),
        fun drops l e chosen => cleared drops l (mem_flushLines chosen) e⟩
    · rw [← seqrAlone_iff, ← seqrDone_iff]
      exact seqr_ends here at' body
    · obtain ⟨sends, waits⟩ := atomic_unsent here at' body start
      by_cases go : (atomicRelease s core slot sk sc pg).1.stage = 2 ∧ sk.sq = [] ∧ sk.sqWait = []
      · exact fun gone => by cases gone.symm.trans (sends go).1
      · exact fun gone => by cases gone.symm.trans (waits go)

end Sys2Proof.Machine
end

section
/-! PROOFS. A part of a load reaches its registers (R216, R220, O39). -/

namespace Sys2Proof.Machine

/-! Poisoned bytes. -/

theorem getLsbD_unitsTouched (m : LMask) {u : Nat} (hu : u < 4) : (unitsTouched m).getLsbD u = true ↔ ∃ b, b < 128 ∧ b / 32 = u ∧ m.getLsbD b = true := by
  rw [unitsTouched, getLsbD_bitsOf, decide_eq_true hu, Bool.true_and, decide_eq_true_eq, ne_zero_iff]
  simp only [BitVec.getLsbD_extractLsb', Bool.and_eq_true, decide_eq_true_eq]
  constructor
  · rintro ⟨j, hj, on⟩
    exact ⟨32 * u + j, by omega, by omega, on⟩
  · rintro ⟨b, hb, rfl, on⟩
    exact ⟨b % 32, Nat.mod_lt _ (by decide), by rwa [Nat.div_add_mod]⟩

/-- A set of bytes touches a poisoned unit when one of its bytes lies in one. -/
theorem touches_iff (m : LMask) (poison : BitVec 4) : unitsTouched m &&& poison ≠ 0 ↔ ∃ b, b < 128 ∧ m.getLsbD b = true ∧ poison.getLsbD (b / 32) = true := by
  rw [ne_zero_iff]
  simp only [BitVec.getLsbD_and, Bool.and_eq_true]
  constructor
  · rintro ⟨u, touched, bad⟩
    obtain ⟨b, hb, rfl, on⟩ := (getLsbD_unitsTouched m (BitVec.lt_of_getLsbD bad)).1 touched
    exact ⟨b, hb, on, bad⟩
  · rintro ⟨b, hb, on, bad⟩
    exact ⟨b / 32, (getLsbD_unitsTouched m (by omega)).2 ⟨b, hb, rfl, on⟩, bad⟩

/-- The bytes of an element that come from the line. -/
theorem getLsbD_taken (own : LMask) (off size : Nat) {b : Nat} (hb : b < 128) :
    (without (maskBytes off size) own).getLsbD b = true ↔ off ≤ b ∧ b < off + size ∧ own.getLsbD b = false := by
  rw [without, BitVec.getLsbD_and, BitVec.getLsbD_not, decide_eq_true hb, Bool.true_and, Bool.and_eq_true, getLsbD_maskBytes, decide_eq_true_eq]
  simp [hb, and_assoc]

/-- An element is poisoned when a byte of it that comes from the line is (R220). -/
def Sick (p : LoadPart) (size : Nat) (poison : BitVec 4) (e : LoadElem) : Prop :=
  ∃ b, e.off ≤ b ∧ b < e.off + size ∧ b < 128 ∧ (p.own e).getLsbD b = false ∧ poison.getLsbD (b / 32) = true

theorem sick_iff (p : LoadPart) (size : Nat) (poison : BitVec 4) (e : LoadElem) :
    decide (unitsTouched (without (maskBytes e.off size) (p.own e)) &&& poison ≠ 0) = true ↔ Sick p size poison e := by
  rw [decide_eq_true_eq, touches_iff]
  refine exists_congr fun b => ⟨fun ⟨hb, on, bad⟩ => ?_, fun ⟨low, high, hb, own, bad⟩ => ⟨hb, (getLsbD_taken _ _ _ hb).2 ⟨low, high, own⟩, bad⟩⟩
  obtain ⟨low, high, own⟩ := (getLsbD_taken _ _ _ hb).1 on
  exact ⟨low, high, hb, own, bad⟩

/-! Marks that an earlier part of a load made (R220). -/

/-- One register keeps the mark it had. -/
def keepTurn (old sk : Skein) (r : RegRef) : Skein :=
  match r with
  | .v key => match NMap.get? old.vmarks key with
    | some m => { sk with vmarks := NMap.insert sk.vmarks key (NMap.getD sk.vmarks key 0 ||| m) }
    | none => sk
  | .k n => if n ∈ old.kmarks then { sk with kmarks := sortedInsert n (sk.kmarks.filter (fun k => k ≠ n)) } else sk
  | .p _ => sk

theorem keepMarks_eq (dst : List RegRef) (old sk : Skein) : keepMarks dst old sk = dst.foldl (keepTurn old) sk := rfl

theorem keepTurn_regs (old sk : Skein) (r : RegRef) : (keepTurn old sk r).vregs = sk.vregs ∧ (keepTurn old sk r).kregs = sk.kregs ∧ (keepTurn old sk r).preds = sk.preds := by
  unfold keepTurn
  split
  · split <;> exact ⟨rfl, rfl, rfl⟩
  · split <;> exact ⟨rfl, rfl, rfl⟩
  · exact ⟨rfl, rfl, rfl⟩

theorem keepMarks_regs (dst : List RegRef) (old sk : Skein) : (keepMarks dst old sk).vregs = sk.vregs ∧ (keepMarks dst old sk).kregs = sk.kregs ∧ (keepMarks dst old sk).preds = sk.preds :=
  List.foldlRecOn (motive := fun t : Skein => t.vregs = sk.vregs ∧ t.kregs = sk.kregs ∧ t.preds = sk.preds) dst (keepTurn old) ⟨rfl, rfl, rfl⟩ fun t h r _ => by
    obtain ⟨v, k, p⟩ := keepTurn_regs old t r
    exact ⟨v.trans h.1, k.trans h.2.1, p.trans h.2.2⟩

theorem vmark_keepTurn (old sk : Skein) (r : RegRef) (key l : Nat) : (NMap.getD (keepTurn old sk r).vmarks key 0).getLsbD l = true ↔
    (NMap.getD sk.vmarks key 0).getLsbD l = true ∨ (r = .v key ∧ (NMap.getD old.vmarks key 0).getLsbD l = true) := by
  cases r with
  | v k =>
    unfold keepTurn
    dsimp only
    cases had : NMap.get? old.vmarks k with
    | none =>
      refine (or_iff_left ?_).symm
      rintro ⟨here, mark⟩
      obtain rfl := RegRef.v.inj here
      simp [NMap.getD, had] at mark
    | some m =>
      by_cases here : key = k
      · subst here
        simp [NMap.getD, had]
      · have other : RegRef.v k ≠ .v key := fun eq => here (RegRef.v.inj eq).symm
        dsimp only
        rw [NMap.getD_insert_ne _ _ _ here]
        simp [other]
  | k n =>
    unfold keepTurn
    dsimp only
    split <;> simp
  | p n => simp [keepTurn]

theorem kmark_keepTurn (old sk : Skein) (r : RegRef) (n : Nat) : n ∈ (keepTurn old sk r).kmarks ↔ n ∈ sk.kmarks ∨ (r = .k n ∧ n ∈ old.kmarks) := by
  cases r with
  | v k =>
    unfold keepTurn
    dsimp only
    split <;> simp
  | k m =>
    unfold keepTurn
    dsimp only
    by_cases here : n = m
    · subst here
      by_cases had : n ∈ old.kmarks <;> simp [had, mem_sortedInsert]
    · have other : RegRef.k m ≠ .k n := fun eq => here (RegRef.k.inj eq).symm
      by_cases had : m ∈ old.kmarks <;> simp [had, mem_sortedInsert, here, other]
  | p m => simp [keepTurn]

theorem vmark_keepMarks (old : Skein) (key l : Nat) (dst : List RegRef) : ∀ sk : Skein, (NMap.getD (keepMarks dst old sk).vmarks key 0).getLsbD l = true ↔
    (NMap.getD sk.vmarks key 0).getLsbD l = true ∨ (RegRef.v key ∈ dst ∧ (NMap.getD old.vmarks key 0).getLsbD l = true) := by
  induction dst with
  | nil => simp [keepMarks_eq]
  | cons r rest ih =>
    intro sk
    refine (ih (keepTurn old sk r)).trans ?_
    rw [vmark_keepTurn, List.mem_cons, or_assoc, ← or_and_right, eq_comm (a := r)]

theorem kmark_keepMarks (old : Skein) (n : Nat) (dst : List RegRef) : ∀ sk : Skein, n ∈ (keepMarks dst old sk).kmarks ↔ n ∈ sk.kmarks ∨ (RegRef.k n ∈ dst ∧ n ∈ old.kmarks) := by
  induction dst with
  | nil => simp [keepMarks_eq]
  | cons r rest ih =>
    intro sk
    refine (ih (keepTurn old sk r)).trans ?_
    rw [kmark_keepTurn, List.mem_cons, or_assoc, ← or_and_right, eq_comm (a := r)]

/-! A part delivered. -/

/-- The skein once a part of a load is delivered; `more` says that a part of it was before. -/
def delivered (sk : Skein) (act : List LoadElem) (size : Nat) (signed : Bool) (dst : List RegRef) (p : LoadPart) (line : LineData) (poison : BitVec 4) (more : Bool) : Skein :=
  if more then keepMarks dst sk (deliver sk act size signed dst p line poison) else deliver sk act size signed dst p line poison

/-- The lanes, and those of them that are poisoned, of a part of a load. -/
def partLanes (act : List LoadElem) : LMask := lmask (fun l => act.any (fun e => decide (e.lane = some l)))
def partBads (p : LoadPart) (size : Nat) (poison : BitVec 4) (act : List LoadElem) : LMask :=
  lmask (fun l => act.any (fun e => decide (e.lane = some l) && decide (unitsTouched (without (maskBytes e.off size) (p.own e)) &&& poison ≠ 0)))

/-- The value of an element of a part. -/
def partValue (p : LoadPart) (size : Nat) (signed : Bool) (line : LineData) (e : LoadElem) : Nat := elemValue size signed (mergeLine line (p.own e) p.data) e

theorem find?_filter_part (elems : List LoadElem) (i : Nat) (q : LoadElem → Prop) [DecidablePred q] :
    (elems.filter (fun e => e.part = i)).find? (fun e => decide (q e)) = elems.find? (fun e => decide (e.part = i ∧ q e)) := by
  rw [List.find?_filter]
  exact congrArg (fun f => List.find? f elems) (funext fun e => by simp)

section
variable {sk : Skein} {elems : List LoadElem} {i size : Nat} {signed : Bool} {dst : List RegRef} {p : LoadPart} {line : LineData} {poison : BitVec 4}

theorem deliver_lanes (vector : ∀ e ∈ elems, e.lane.isSome = true) : deliver sk elems size signed dst p line poison =
    if partLanes elems = 0 then sk else
      writeResultsN sk dst (partLanes elems) (partBads p size poison elems) (fun l => (elems.find? (fun e => e.lane = some l)).elim 0 (partValue p size signed line)) := by
  have none' : elems.find? (fun e => e.lane.isNone) = none := List.find?_eq_none.2 fun e he => by
    obtain ⟨l, hl⟩ := Option.isSome_iff_exists.1 (vector e he)
    simp [hl]
  unfold deliver
  dsimp only
  rw [none']
  rfl

theorem deliver_one (uniform : ∀ e ∈ elems, e.lane = none) : deliver sk elems size signed dst p line poison =
    match elems.find? (fun e => decide (e.lane = none)) with
    | some e => writeResultsN sk dst 1 (if decide (unitsTouched (without (maskBytes e.off size) (p.own e)) &&& poison ≠ 0) then 1 else 0) (fun _ => partValue p size signed line e)
    | none => sk := by
  have lanes : lmask (fun l => elems.any (fun e => decide (e.lane = some l))) = 0 := BitVec.eq_of_getLsbD_eq fun l _ => by
    rw [getLsbD_lmask, List.any_eq_false.2 fun e he => by simp [uniform e he]]
    simp
  have same : (fun e : LoadElem => e.lane.isNone) = fun e => decide (e.lane = none) := funext fun e => by cases e.lane <;> rfl
  unfold deliver
  dsimp only
  rw [lanes, if_pos rfl, same]
  rfl

theorem partLanes_mem {l : Nat} (hl : l < 128) : (partLanes elems).getLsbD l = true ↔ ∃ e ∈ elems, e.lane = some l := by
  rw [partLanes, getLsbD_lmask, decide_eq_true hl, Bool.true_and, List.any_eq_true]
  simp only [decide_eq_true_eq]

theorem partBads_mem {l : Nat} (hl : l < 128) : (partBads p size poison elems).getLsbD l = true ↔ ∃ e ∈ elems, e.lane = some l ∧ Sick p size poison e := by
  rw [partBads, getLsbD_lmask, decide_eq_true hl, Bool.true_and, List.any_eq_true]
  refine exists_congr fun e => and_congr_right fun _ => ?_
  rw [Bool.and_eq_true, decide_eq_true_eq, sick_iff]

/-- A part of a load whose lanes each have their own element. -/
theorem deliver_vector (distinct : dst.Nodup) (vector : ∀ e ∈ elems, e.lane.isSome = true) (noK : ∀ n, RegRef.k n ∉ dst) :
    DstTake sk (deliver sk elems size signed dst p line poison) dst (fun l => (elems.find? (fun e => decide (e.lane = some l))).map (partValue p size signed line)) none ∧
    MarksTake sk (deliver sk elems size signed dst p line poison) dst (fun l => ∃ e ∈ elems, e.lane = some l) (fun l => ∃ e ∈ elems, e.lane = some l ∧ Sick p size poison e)
      False False False := by
  have value {l : Nat} (hl : l < 128) : (if (partLanes elems).getLsbD l = true then some ((elems.find? (fun e => e.lane = some l)).elim 0 (partValue p size signed line)) else none) =
      (elems.find? (fun e => decide (e.lane = some l))).map (partValue p size signed line) := by
    cases found : elems.find? (fun e => decide (e.lane = some l)) with
    | none =>
      refine if_neg fun on => ?_
      obtain ⟨e, he, lane⟩ := (partLanes_mem hl).1 on
      simpa [lane] using List.find?_eq_none.1 found e he
    | some e => exact if_pos ((partLanes_mem hl).2 ⟨e, List.mem_of_find?_eq_some found, by simpa using List.find?_some found⟩)
  rw [deliver_lanes vector]
  split
  · rename_i none'
    have off {l : Nat} (hl : l < 128) (e) (he : e ∈ elems) : e.lane ≠ some l := fun lane => by
      have on := (partLanes_mem hl).2 ⟨e, he, lane⟩
      rw [none'] at on
      simp at on
    refine ⟨⟨fun j key l _ hl => ?_, fun j n at' => absurd (List.mem_of_getElem? at') (noK n), fun _ _ => rfl, fun _ _ => rfl, fun _ => rfl⟩,
      fun key l _ hl ⟨e, he, lane⟩ => absurd lane (off hl e he), fun n _ h => h.elim⟩
    have nothing : elems.find? (fun e => decide (e.lane = some l)) = none := List.find?_eq_none.2 fun e he => by simpa using off hl e he
    dsimp only
    rw [nothing]
    rfl
  · exact ⟨dstTake_congr (writeResultsN_dstTake distinct _ _ _ sk) (fun _ _ l hl => value hl) fun n mem => absurd mem (noK n),
      marksTake_congr (writeResultsN_marksTake distinct _ _ _ sk) (fun _ _ l hl on => ⟨(partLanes_mem hl).2 on, partBads_mem hl⟩) fun n mem => absurd mem (noK n)⟩

/-- A part of a load that has one element, for uniform registers. -/
theorem deliver_uniform (distinct : dst.Nodup) (uniform : ∀ e ∈ elems, e.lane = none) (noV : ∀ n, RegRef.v n ∉ dst) (f : Nat → Option Nat) (lanes bads : Nat → Prop) :
    DstTake sk (deliver sk elems size signed dst p line poison) dst f ((elems.find? (fun e => decide (e.lane = none))).map (partValue p size signed line)) ∧
    MarksTake sk (deliver sk elems size signed dst p line poison) dst lanes bads (∃ e ∈ elems, e.lane = none)
      (∃ e, elems.find? (fun e => decide (e.lane = none)) = some e ∧ Sick p size poison e) False := by
  rw [deliver_one uniform]
  cases found : elems.find? (fun e => decide (e.lane = none)) with
  | none =>
    refine ⟨⟨fun j key l at' _ => absurd (List.mem_of_getElem? at') (noV key), fun j n _ => rfl, fun _ _ => rfl, fun _ _ => rfl, fun _ => rfl⟩,
      fun key l mem _ _ => absurd mem (noV key), fun n _ ⟨e, he, lane⟩ => ?_⟩
    simpa [lane] using List.find?_eq_none.1 found e he
  | some e =>
    have sick : (if decide (unitsTouched (without (maskBytes e.off size) (p.own e)) &&& poison ≠ 0) then 1 else 0 : LMask) ≠ 0 ↔ Sick p size poison e := by
      rw [← sick_iff]
      cases decide (unitsTouched (without (maskBytes e.off size) (p.own e)) &&& poison ≠ 0) <;> decide
    refine ⟨dstTake_congr (writeResultsN_dstTake distinct _ _ _ sk) (fun key mem => absurd mem (noV key)) fun _ _ => rfl,
      marksTake_congr (writeResultsN_marksTake distinct _ _ _ sk) (fun key mem => absurd mem (noV key)) fun n _ _ => ⟨trivial, sick.trans ⟨fun h => ⟨e, rfl, h⟩, ?_⟩⟩⟩
    rintro ⟨z, same, h⟩
    obtain rfl := Option.some.inj same
    exact h

/-- A later part of a load keeps the marks that the earlier ones made. -/
theorem keepMarks_marksTake {sk t : Skein} {p q : Nat → Prop} {some_ any : Prop} (h : MarksTake sk t dst p q some_ any False) :
    MarksTake sk (keepMarks dst sk t) dst p q some_ any True := by
  obtain ⟨hv, hk⟩ := h
  refine ⟨fun key l mem hl on => ?_, fun n mem one => ?_⟩
  · rw [vmark_keepMarks, hv key l mem hl on]
    simp [mem]
  · rw [kmark_keepMarks, hk n mem one]
    simp [mem]

end

/-- What the registers of a load take from one of its parts, as the obligation states it. -/
def PartTaken (sk t : Skein) (elems : List LoadElem) (i size : Nat) (signed : Bool) (dst : List RegRef) (p : LoadPart) (line : LineData) (poison : BitVec 4) (earlier : Prop) : Prop :=
  DstTake sk t dst (fun l => (elems.find? (fun e => decide (e.part = i ∧ e.lane = some l))).map (partValue p size signed line))
    ((elems.find? (fun e => decide (e.part = i ∧ e.lane = none))).map (partValue p size signed line)) ∧
  MarksTake sk t dst (fun l => ∃ e ∈ elems, e.part = i ∧ e.lane = some l) (fun l => ∃ e ∈ elems, e.part = i ∧ e.lane = some l ∧ Sick p size poison e)
    (∃ e ∈ elems, e.part = i ∧ e.lane = none) (∃ e, elems.find? (fun e => decide (e.part = i ∧ e.lane = none)) = some e ∧ Sick p size poison e) earlier

section
variable {sk : Skein} {elems : List LoadElem} {i size : Nat} {signed : Bool} {dst : List RegRef} {p : LoadPart} {line : LineData} {poison : BitVec 4}

theorem deliver_taken (distinct : dst.Nodup)
    (kinds : ((∀ e ∈ elems, e.lane.isSome = true) ∧ ∀ n, RegRef.k n ∉ dst) ∨ ((∀ e ∈ elems, e.lane = none) ∧ ∀ n, RegRef.v n ∉ dst)) :
    PartTaken sk (deliver sk (elems.filter (fun e => e.part = i)) size signed dst p line poison) elems i size signed dst p line poison False := by
  have mem (e : LoadElem) (he : e ∈ elems.filter (fun e => e.part = i)) : e ∈ elems := (List.mem_filter.1 he).1
  have part (q : LoadElem → Prop) : (∃ e ∈ elems.filter (fun e => e.part = i), q e) ↔ ∃ e ∈ elems, e.part = i ∧ q e := by simp [and_assoc]
  rcases kinds with ⟨vector, noK⟩ | ⟨uniform, noV⟩
  · obtain ⟨take, marks⟩ := deliver_vector (sk := sk) (size := size) (signed := signed) (p := p) (line := line) (poison := poison) distinct (fun e he => vector e (mem e he)) noK
    refine ⟨dstTake_congr take (fun _ _ l _ => ?_) fun n k => absurd k (noK n), marksTake_congr marks (fun _ _ l _ on => ⟨?_, ?_⟩) fun n k => absurd k (noK n)⟩
    · rw [find?_filter_part]
    · exact (part _).2 on
    · exact part _
  · obtain ⟨take, marks⟩ := deliver_uniform (sk := sk) (size := size) (signed := signed) (p := p) (line := line) (poison := poison) distinct (fun e he => uniform e (mem e he)) noV
      (fun l => (elems.find? (fun e : LoadElem => decide (e.part = i ∧ e.lane = some l))).map (partValue p size signed line)) (fun l => ∃ e ∈ elems, e.part = i ∧ e.lane = some l)
      (fun l => ∃ e ∈ elems, e.part = i ∧ e.lane = some l ∧ Sick p size poison e)
    have picks : (elems.filter (fun e => e.part = i)).find? (fun e => decide (e.lane = none)) = elems.find? (fun e => decide (e.part = i ∧ e.lane = none)) :=
      find?_filter_part elems i _
    rw [picks] at take marks
    exact ⟨take, marksTake_congr marks (fun key v => absurd v (noV key)) fun _ _ on => ⟨(part _).2 on, Iff.rfl⟩⟩

/-- A part of a load reaches its registers, whether a part of it came before or not. -/
theorem delivered_taken (distinct : dst.Nodup)
    (kinds : ((∀ e ∈ elems, e.lane.isSome = true) ∧ ∀ n, RegRef.k n ∉ dst) ∨ ((∀ e ∈ elems, e.lane = none) ∧ ∀ n, RegRef.v n ∉ dst)) {more : Bool} {earlier : Prop}
    (same : more = true ↔ earlier) :
    PartTaken sk (delivered sk (elems.filter (fun e => e.part = i)) size signed dst p line poison more) elems i size signed dst p line poison earlier := by
  have first := deliver_taken (sk := sk) (elems := elems) (i := i) (size := size) (signed := signed) (p := p) (line := line) (poison := poison) distinct kinds
  unfold delivered
  cases more with
  | false =>
    obtain rfl : earlier = False := eq_false fun h => Bool.false_ne_true (same.2 h)
    exact first
  | true =>
    obtain ⟨take, marks⟩ := first
    obtain ⟨vregs, kregs, preds⟩ := keepMarks_regs dst sk (deliver sk (elems.filter (fun e => e.part = i)) size signed dst p line poison)
    obtain rfl : earlier = True := eq_true (same.1 rfl)
    rw [if_pos rfl]
    exact ⟨dstTake_of_regs take vregs kregs preds, keepMarks_marksTake marks⟩

theorem PartTaken.of_skein {t t' : Skein} {earlier : Prop} (h : PartTaken sk t elems i size signed dst p line poison earlier) (vregs : t'.vregs = t.vregs) (kregs : t'.kregs = t.kregs)
    (preds : t'.preds = t.preds) (vmarks : t'.vmarks = t.vmarks) (kmarks : t'.kmarks = t.kmarks) : PartTaken sk t' elems i size signed dst p line poison earlier := by
  obtain ⟨take, marks⟩ := h
  exact ⟨dstTake_of_regs take vregs kregs preds, marksTake_of_marks marks vmarks kmarks⟩

end

end Sys2Proof.Machine
end

section
/-! PROOFS. A part of a load comes back (R216, R217, R238, O39). -/

namespace Sys2Proof.Machine

/-! What a line that comes to the L1 leaves as it is. -/

/-- From `s` to `t` only the L1 of a core changes, with what its loads in flight will do and the writes it sends: no operation comes or goes, and no request
comes back under a number that was given before. -/
structure FillGoes (core : Nat) (s t : State) : Prop where
  goes : CoreGoes core s t
  ops : ∀ slot op, (opOf t core slot op).isNone = (opOf s core slot op).isNone
  lost : ∀ id, (∀ r ∈ s.reqs, r.id ≠ id) → id < s.nextId → ∀ r ∈ t.reqs, r.id ≠ id

section
variable {core : Nat}

theorem FillGoes.refl (s : State) : FillGoes core s s := ⟨.refl s, fun _ _ => rfl, fun _ h _ => h⟩

theorem FillGoes.trans {s t u : State} (h : FillGoes core s t) (g : FillGoes core t u) : FillGoes core s u :=
  ⟨h.goes.trans g.goes, fun slot op => (g.ops slot op).trans (h.ops slot op), fun id gone old => g.lost id (h.lost id gone old) (old.trans_le h.goes.number)⟩

theorem opOf_of_skeins {s t : State} (same : ∀ slot, skeinOf t core slot = skeinOf s core slot) (slot op : Nat) : opOf t core slot op = opOf s core slot op := by
  rw [opOf, same slot, opOf]

theorem fillGoes_postCore (s : State) (kind : ReqKind) (who : ReqOwner) (line : Nat) (pol : CPol) (k : Nat) : FillGoes core s (postCore s kind who line pol k).2 where
  goes := coreGoes_postCore s kind who line pol k
  ops _ _ := rfl
  lost id gone old r hr := by
    rcases List.mem_append.1 hr with hr | hr
    · exact gone r hr
    · obtain rfl := List.mem_singleton.1 hr
      exact Nat.ne_of_gt old

theorem skeinOf_updL1 (s : State) (f : NMap L1Line → NMap L1Line) (slot : Nat) : skeinOf (updL1 s core f) core slot = skeinOf s core slot :=
  skeinOf_updCore s (f := fun c => { c with l1 := f c.l1 }) rfl slot

theorem fillGoes_updL1 (s : State) (f : NMap L1Line → NMap L1Line) : FillGoes core s (updL1 s core f) where
  goes := coreGoes_updL1 s f
  ops slot op := by rw [opOf_of_skeins (skeinOf_updL1 s f)]
  lost _ gone _ := gone

/-- A load in flight whose parts no longer allocate. -/
def staleOp (p : LoadPart → Bool) (o : Op) : Op :=
  match o.body with
  | .load parts el sz sg dst => { o with body := .load (mapIf p (fun p => { p with dropped := true }) parts) el sz sg dst }
  | _ => o

/-- The skein with its loads in flight so changed. -/
def staleSkein (p : LoadPart → Bool) (sk : Skein) : Skein := { sk with ops := sk.ops.map (fun o => (o.1, staleOp p o.2)) }

theorem skeinOf_staleFills (s : State) (p : LoadPart → Bool) (slot : Nat) : skeinOf (staleFills s core p) core slot = (skeinOf s core slot).map (staleSkein p) := by
  rw [skeinOf, staleFills, coreOf_updCore_self]
  exact NMap.get?_map (coreOf s core).skeins (staleSkein p) slot

theorem opOf_staleFills (s : State) (p : LoadPart → Bool) (slot op : Nat) : opOf (staleFills s core p) core slot op = (opOf s core slot op).map (staleOp p) := by
  rw [opOf, skeinOf_staleFills, opOf]
  cases skeinOf s core slot with
  | none => rfl
  | some sk => exact NMap.get?_map sk.ops (staleOp p) op

theorem coreGoes_staleFills (s : State) (p : LoadPart → Bool) : CoreGoes core s (staleFills s core p) where
  number := le_rfl
  pod := rfl
  host := rfl
  copies := by rw [staleFills, coreOf_updCore_self]
  skein slot sk here := by
    rw [skeinOf_staleFills, here]
    exact ⟨_, rfl⟩
  writes _ h _ := h

theorem fillGoes_staleFills (s : State) (p : LoadPart → Bool) : FillGoes core s (staleFills s core p) where
  goes := coreGoes_staleFills s p
  ops slot op := by rw [opOf_staleFills, Option.isNone_map]
  lost _ gone _ := gone

theorem l1_staleFills (s : State) (p : LoadPart → Bool) : (coreOf (staleFills s core p) core).l1 = (coreOf s core).l1 := by rw [staleFills, coreOf_updCore_self]

theorem opOf_dropFills (s : State) (line : Option Nat) (slot op : Nat) : opOf (dropFills s core line) core slot op =
    (opOf s core slot op).map (staleOp (fun q => decide (line = none) || decide (line = some q.line))) := opOf_staleFills s _ slot op

/-- Fills that no longer come change no number of a request. -/
theorem ids_dropFills (s : State) (line : Option Nat) : (dropFills s core line).reqs.map Req.id = s.reqs.map Req.id := by
  refine (List.map_map ..).trans (List.map_congr_left fun r _ => ?_)
  rw [Function.comp_apply]
  split <;> rfl

theorem fillGoes_dropFills (s : State) (line : Option Nat) : FillGoes core s (dropFills s core line) where
  goes := coreGoes_dropFills s line
  ops slot op := by rw [opOf_dropFills, Option.isNone_map]
  lost id gone _ r hr eq := by
    have mem : id ∈ (dropFills s core line).reqs.map Req.id := List.mem_map.2 ⟨r, hr, eq⟩
    rw [ids_dropFills] at mem
    obtain ⟨q, hq, same⟩ := List.mem_map.1 mem
    exact gone q hq same

theorem fillGoes_writeBackLine (slot : Option Nat) (s : State) (line : Nat) : FillGoes core s (writeBackLine s core slot line) := by
  by_cases clean : ∀ e, NMap.get? (coreOf s core).l1 line = some e → e.dirty = 0
  · rw [writeBackLine_clean slot clean]
    exact .refl s
  · push Not at clean
    obtain ⟨e, at', dirty⟩ := clean
    rw [writeBackLine_dirty slot at' dirty]
    exact ((fillGoes_postCore _ _ _ _ _ _).trans (fillGoes_updL1 _ _)).trans (fillGoes_dropFills _ _)

theorem fillGoes_l1Room (s : State) (line : Nat) : FillGoes core s (l1Room s core line) := by
  unfold l1Room
  dsimp only
  split
  · exact .refl s
  · split
    · exact .refl s
    · split
      · exact .refl s
      · exact (fillGoes_writeBackLine none s _).trans (fillGoes_updL1 _ _)

/-- Room for a line is made among the others. -/
theorem get?_l1Room (s : State) (line : Nat) : NMap.get? (coreOf (l1Room s core line) core).l1 line = NMap.get? (coreOf s core).l1 line := by
  unfold l1Room
  dsimp only
  split
  · rfl
  · rename_i absent
    have none' : NMap.get? (coreOf s core).l1 line = none := Option.not_isSome_iff_eq_none.1 absent
    split
    · rfl
    · split
      · rfl
      · rename_i v _
        rw [l1_updL1]
        by_cases here : line = v.1
        · rw [none', here, NMap.get?_erase_self]
        · rw [NMap.get?_erase_ne _ here, get?_writeBackLine, if_neg here]

/-- The line that a change of the L1 starts from. -/
def l1Old (s : State) (core line : Nat) : L1Line := NMap.getD (coreOf s core).l1 line { data := 0, valid := 0, dirty := 0, used := 0, firstVictim := false }

theorem l1Put_eq (s : State) (line : Nat) (f : L1Line → L1Line) : l1Put s core line f = updCore (l1Room s core line) core (fun c =>
    { c with l1clock := c.l1clock + 1
             l1 := NMap.insert c.l1 line { f (NMap.getD c.l1 line { data := 0, valid := 0, dirty := 0, used := 0, firstVictim := false }) with used := c.l1clock } }) := rfl

theorem get?_l1Put (s : State) (line : Nat) (f : L1Line → L1Line) : ∃ used, NMap.get? (coreOf (l1Put s core line f) core).l1 line = some { f (l1Old s core line) with used := used } := by
  have same : NMap.getD (coreOf (l1Room s core line) core).l1 line { data := 0, valid := 0, dirty := 0, used := 0, firstVictim := false } = l1Old s core line := by
    rw [NMap.getD, get?_l1Room, l1Old, NMap.getD]
  refine ⟨(coreOf (l1Room s core line) core).l1clock, ?_⟩
  rw [l1Put_eq, coreOf_updCore_self, ← same]
  exact NMap.get?_insert_self _ _ _

theorem fillGoes_l1Put (s : State) (line : Nat) (f : L1Line → L1Line) : FillGoes core s (l1Put s core line f) := by
  rw [l1Put_eq]
  refine (fillGoes_l1Room s line).trans ⟨⟨le_rfl, rfl, rfl, by rw [coreOf_updCore_self], fun slot sk here => ⟨sk.ops, ?_⟩, fun _ h _ => h⟩, fun slot op => ?_, fun _ gone _ => gone⟩
  · refine (skeinOf_updCore _ ?_ slot).trans here
    rfl
  · rw [opOf_of_skeins fun slot => skeinOf_updCore _ (by rfl) slot]

theorem fillGoes_partFill (s : State) (p : LoadPart) (line : LineData) (poison : BitVec 4) (took : Nat) : FillGoes core s (partFill s core p line poison took) := by
  unfold partFill
  split
  · exact .refl s
  · split
    · exact fillGoes_updL1 s _
    · exact (fillGoes_l1Put s _ _).trans (fillGoes_staleFills _ _)

/-- A fill replaces every byte of its line that is not dirty (R238). -/
theorem partFill_fills {s : State} {p : LoadPart} {line : LineData} {poison : BitVec 4} (took : Nat) (fills : p.allocate = true) (clean : poison = 0) (timely : p.dropped = false) :
    ∃ l, NMap.get? (coreOf (partFill s core p line poison took) core).l1 p.line = some l ∧ l.valid = allLanes ∧
      ∀ b, lineByte l.data b = if (l1Old s core p.line).dirty.getLsbD b = true then lineByte (l1Old s core p.line).data b else lineByte line b := by
  obtain ⟨used, at'⟩ := get?_l1Put (core := core) s p.line (fun e => { e with data := mergeLine line e.dirty e.data, valid := allLanes, firstVictim := p.firstVictim })
  have filled : partFill s core p line poison took = fillNewer (l1Fill s core p.line line p.firstVictim) core p.line took := by
    unfold partFill
    rw [if_neg (by simp [fills]), if_neg (by simp [clean, timely])]
  rw [filled, fillNewer, l1_staleFills]
  exact ⟨_, at', rfl, fun b => lineByte_mergeLine line (l1Old s core p.line).data (l1Old s core p.line).dirty b⟩

/-- A line that came poisoned or too late leaves no clean byte. -/
theorem partFill_drops {s : State} {p : LoadPart} {line : LineData} {poison : BitVec 4} (took : Nat) (fills : p.allocate = true) (late : poison ≠ 0 ∨ p.dropped = true) :
    NoClean (coreOf (partFill s core p line poison took) core).l1 p.line := by
  have dropped : partFill s core p line poison took = updL1 s core (fun l => cleanOut l p.line) := by
    unfold partFill
    rw [if_neg (by simp [fills]), if_pos (by rw [Bool.or_eq_true, decide_eq_true_eq]; exact late.symm)]
  rw [dropped, l1_updL1]
  exact noClean_cleanOut _ _

end

/-! A part done. -/

section
variable {core slot op : Nat} {o : Op} {parts : List LoadPart} {elems : List LoadElem} {size : Nat} {signed : Bool} {dst : List RegRef} {i : Nat} {p : LoadPart}
  {line : LineData} {poison : BitVec 4} {took : Nat} {s : State} {sk : Skein}

/-- The parts of a load once one has arrived, and its operation then. -/
def partsAfter (parts : List LoadPart) (i : Nat) (p : LoadPart) : List LoadPart := parts.set i { p with arrived := true }
def loadAfter (o : Op) (parts : List LoadPart) (elems : List LoadElem) (size : Nat) (signed : Bool) (dst : List RegRef) (i : Nat) (p : LoadPart) : Op :=
  { o with body := .load (partsAfter parts i p) elems size signed dst }

/-- The skein after a part of a load is delivered. -/
def partSkein (sk : Skein) (op : Nat) (o : Op) (parts : List LoadPart) (elems : List LoadElem) (size : Nat) (signed : Bool) (dst : List RegRef) (i : Nat) (p : LoadPart)
    (line : LineData) (poison : BitVec 4) : Skein :=
  let new := delivered sk (elems.filter (fun e => e.part = i)) size signed dst p line poison (parts.any (fun q => q.arrived))
  { new with ops := NMap.insert new.ops op (loadAfter o parts elems size signed dst i p) }

/-- The core after a part of a load is delivered, before its line comes to the L1. -/
def partGiven (s : State) (core slot op : Nat) (o : Op) (parts : List LoadPart) (elems : List LoadElem) (size : Nat) (signed : Bool) (dst : List RegRef) (i : Nat) (p : LoadPart)
    (line : LineData) (poison : BitVec 4) : State :=
  setOp (updSkein s core slot (fun sk => delivered sk (elems.filter (fun e => e.part = i)) size signed dst p line poison (parts.any (fun q => q.arrived)))) core slot op
    (loadAfter o parts elems size signed dst i p)

theorem partDone_eq : partDone s core slot op o parts elems size signed dst i p line poison took =
    if (partsAfter parts i p).all (fun q => q.arrived) then finishOp (partFill (partGiven s core slot op o parts elems size signed dst i p line poison) core p line poison took) core slot op
    else partFill (partGiven s core slot op o parts elems size signed dst i p line poison) core p line poison took := rfl

theorem partGiven_eq (here : skeinOf s core slot = some sk) :
    partGiven s core slot op o parts elems size signed dst i p line poison = setSkein s core slot (partSkein sk op o parts elems size signed dst i p line poison) := by
  rw [partGiven, setOp, updSkein_of _ _ here, updSkein_setSkein]
  rfl

variable (here : skeinOf s core slot = some sk)
include here

theorem opOf_partGiven : opOf (partGiven s core slot op o parts elems size signed dst i p line poison) core slot op = some (loadAfter o parts elems size signed dst i p) := by
  rw [partGiven_eq here, opOf, skeinOf_setSkein_self]
  exact NMap.get?_insert_self _ _ _

/-- The registers of a load take its part, whatever the L1 does with the line. -/
theorem partDone_taken (distinct : dst.Nodup)
    (kinds : ((∀ e ∈ elems, e.lane.isSome = true) ∧ ∀ n, RegRef.k n ∉ dst) ∨ ((∀ e ∈ elems, e.lane = none) ∧ ∀ n, RegRef.v n ∉ dst)) :
    ∃ t, skeinOf (partDone s core slot op o parts elems size signed dst i p line poison took) core slot = some t ∧
      PartTaken sk t elems i size signed dst p line poison (∃ q ∈ parts, q.arrived = true) := by
  have taken := delivered_taken (sk := sk) (elems := elems) (i := i) (size := size) (signed := signed) (p := p) (line := line) (poison := poison) distinct kinds
    (more := parts.any (fun q => q.arrived)) List.any_eq_true
  have given : skeinOf (partGiven s core slot op o parts elems size signed dst i p line poison) core slot = some (partSkein sk op o parts elems size signed dst i p line poison) := by
    rw [partGiven_eq here, skeinOf_setSkein_self]
  obtain ⟨ops, filled⟩ := (fillGoes_partFill _ p line poison took).goes.skein slot _ given
  rw [partDone_eq]
  split
  · obtain ⟨vregs, kregs, preds, vmarks, kmarks⟩ := finishOpSk_regs { partSkein sk op o parts elems size signed dst i p line poison with ops := ops } op
    exact ⟨_, skein_updSkein filled _, taken.of_skein vregs kregs preds vmarks kmarks⟩
  · exact ⟨_, filled, taken.of_skein rfl rfl rfl rfl rfl⟩

/-- The load is complete with its last part. -/
theorem partDone_ends : (opOf (partDone s core slot op o parts elems size signed dst i p line poison took) core slot op).isNone = true ↔
    (partsAfter parts i p).all LoadPart.arrived = true := by
  rw [partDone_eq]
  split
  · rename_i last
    rw [opOf_finishOp]
    exact iff_of_true rfl last
  · rename_i more
    rw [(fillGoes_partFill _ p line poison took).ops, opOf_partGiven here]
    exact iff_of_false Bool.false_ne_true more

/-- Where the line does not come to the L1, the load has arrived so far. -/
theorem partDone_op (stays : p.allocate = false) : opOf (partDone s core slot op o parts elems size signed dst i p line poison took) core slot op =
    if (partsAfter parts i p).all LoadPart.arrived = true then none else some (loadAfter o parts elems size signed dst i p) := by
  have same (v : State) : partFill v core p line poison took = v := by
    unfold partFill
    rw [if_pos (by simp [stays])]
  rw [partDone_eq]
  split
  · rename_i last
    exact opOf_finishOp _ _ _ _
  · rename_i more
    rw [same, opOf_partGiven here]

omit here

theorem l1_partDone : (coreOf (partDone s core slot op o parts elems size signed dst i p line poison took) core).l1 =
    (coreOf (partFill (partGiven s core slot op o parts elems size signed dst i p line poison) core p line poison took) core).l1 := by
  rw [partDone_eq]
  split
  · exact l1_updSkein _ _ _ _ _
  · rfl

theorem l1_partGiven : (coreOf (partGiven s core slot op o parts elems size signed dst i p line poison) core).l1 = (coreOf s core).l1 := by
  rw [partGiven, setOp, l1_updSkein, l1_updSkein]

theorem reqs_partGiven : (partGiven s core slot op o parts elems size signed dst i p line poison).reqs = s.reqs := by
  rw [partGiven, setOp, reqs_updSkein, reqs_updSkein]

theorem nextId_partGiven : (partGiven s core slot op o parts elems size signed dst i p line poison).nextId = s.nextId := by
  simp [partGiven, setOp]

/-- A request that has been answered stays away, whatever the L1 writes back. -/
theorem partDone_lost {id : Nat} (gone : ∀ r ∈ s.reqs, r.id ≠ id) (old : p.allocate = true → id < s.nextId) :
    reqOf (partDone s core slot op o parts elems size signed dst i p line poison took) id = none := by
  have after : ∀ r ∈ (partFill (partGiven s core slot op o parts elems size signed dst i p line poison) core p line poison took).reqs, r.id ≠ id := by
    cases fills : p.allocate with
    | true => exact (fillGoes_partFill _ p line poison took).lost id (by rwa [reqs_partGiven]) (by rw [nextId_partGiven]; exact old fills)
    | false =>
      unfold partFill
      rw [if_pos (by simp [fills]), reqs_partGiven]
      exact gone
  refine List.find?_eq_none.2 fun r hr => ?_
  rw [partDone_eq] at hr
  have mem : r ∈ (partFill (partGiven s core slot op o parts elems size signed dst i p line poison) core p line poison took).reqs := by
    split at hr
    · rwa [finishOp, reqs_updSkein] at hr
    · exact hr
  simpa using after r mem

end

end Sys2Proof.Machine
end

section
/-! PROOFS. The replies to loads (R106, R216, R220, R238, O39). -/

namespace Sys2Proof.Machine

/-! Requests by their numbers. -/

theorem reqOf_dropReq (s : State) (id : Nat) : ∀ r ∈ (dropReq s id).reqs, r.id ≠ id := fun r hr => by simpa using (List.mem_filter.1 hr).2

/-- A request found by its number has it. -/
theorem id_of_reqOf {s : State} {id : Nat} {r : Req} (h : reqOf s id = some r) : r.id = id := by simpa using List.find?_some h

theorem mem_of_reqOf {s : State} {id : Nat} {r : Req} (h : reqOf s id = some r) : r ∈ s.reqs := List.mem_of_find?_eq_some h

theorem find?_mapIf {f : Req → Req} {id : Nat} {r : Req} (keeps : (f r).id = id) : ∀ {l : List Req}, l.find? (fun r => decide (r.id = id)) = some r →
    (mapIf (fun r => decide (r.id = id)) f l).find? (fun r => decide (r.id = id)) = some (f r) := by
  intro l
  induction l with
  | nil => exact fun h => nomatch h
  | cons a rest ih =>
    intro found
    rw [mapIf, List.map_cons]
    by_cases here : a.id = id
    · rw [List.find?_cons_of_pos (by simpa using here)] at found
      obtain rfl := Option.some.inj found
      rw [if_pos (decide_eq_true here), List.find?_cons_of_pos (by simpa using keeps)]
    · rw [List.find?_cons_of_neg (by simpa using here)] at found
      rw [if_neg (by simpa using here), List.find?_cons_of_neg (by simpa using here)]
      exact ih found

theorem reqOf_updReq {s : State} {id : Nat} {f : Req → Req} {r : Req} (found : reqOf s id = some r) (keeps : (f r).id = id) : reqOf (updReq s id f) id = some (f r) :=
  find?_mapIf keeps found

/-! The answer of the host or of another package. -/

/-- A request of a load that has come so far, with its answer: `r` with another stage. -/
def Moved (r q : Req) : Prop := q = { r with stage := q.stage, since := q.since }

/-- A read of a load at its requester's port waits there for its turn. -/
theorem arrive_load {s : State} {r : Req} {core slot op i : Nat} {need : LMask} (who : r.who = .load core slot op i) (kind : r.kind = .read need) :
    arrive s r = { s with reqs := s.reqs.filter (fun x => x.id ≠ r.id) ++ [{ r with stage := .done, since := s.clock }] } := by
  unfold arrive absorb
  dsimp only
  rw [who, kind]

theorem reqOf_arrive {s : State} {r : Req} {core slot op i : Nat} {need : LMask} (who : r.who = .load core slot op i) (kind : r.kind = .read need) :
    reqOf (arrive s r) r.id = some { r with stage := .done, since := s.clock } := by
  have gone : (s.reqs.filter (fun x => x.id ≠ r.id)).find? (fun x => decide (x.id = r.id)) = none := List.find?_eq_none.2 fun x hx => by simpa using (List.mem_filter.1 hx).2
  rw [arrive_load who kind, reqOf, List.find?_append, gone]
  simp

theorem cores_arrive {s : State} {r : Req} {core slot op i : Nat} {need : LMask} (who : r.who = .load core slot op i) (kind : r.kind = .read need) : (arrive s r).cores = s.cores := by
  rw [arrive_load who kind]

/-- A read of a load that moves on in the networks stays a read, and goes back to no host. -/
theorem advanceReq_moves {s : State} {id : Nat} {r : Req} {core slot op i : Nat} {need : LMask} (found : reqOf s id = some r) (who : r.who = .load core slot op i)
    (kind : r.kind = .read need) (stage : r.stage ≠ .remote) :
    (advanceReq s id).cores = s.cores ∧ ∃ q, reqOf (advanceReq s id) id = some q ∧ Moved r q ∧ q.stage ≠ .remote := by
  have number := id_of_reqOf found
  have stays : s.cores = s.cores ∧ ∃ q, reqOf s id = some q ∧ Moved r q ∧ q.stage ≠ .remote := ⟨rfl, r, found, rfl, stage⟩
  have goes (st : Stage) (far : st ≠ .remote) : (updReq s id (fun q => { q with stage := st, since := s.clock })).cores = s.cores ∧
      ∃ q, reqOf (updReq s id (fun q => { q with stage := st, since := s.clock })) id = some q ∧ Moved r q ∧ q.stage ≠ .remote :=
    ⟨rfl, { r with stage := st, since := s.clock }, reqOf_updReq found number, rfl, far⟩
  have comes : (arrive s r).cores = s.cores ∧ ∃ q, reqOf (arrive s r) id = some q ∧ Moved r q ∧ q.stage ≠ .remote :=
    ⟨cores_arrive who kind, { r with stage := .done, since := s.clock }, number ▸ reqOf_arrive who kind, rfl, nofun⟩
  unfold advanceReq
  rw [found]
  dsimp only
  split
  · exact stays
  · split
    case h_1 | h_2 | h_3 | h_4 | h_6 | h_7 =>
      split
      · exact goes _ nofun
      · exact stays
    case h_5 =>
      split <;> split
      · exact comes
      · exact stays
      · exact goes _ nofun
      · exact stays
    case h_8 =>
      split
      · exact comes
      · exact stays
    case h_9 => exact stays

/-- The request with the answer of the host or of another package. -/
def answered (r : Req) (ext : List Byte) (bad : List Nat) : Req :=
  { r with rdata := lineOf 0 ext, rpoison := bitsOf 4 (fun u => decide (4 * r.line + u ∈ bad)), rold := BitVec.ofNat 64 (leNat (ext.take 8))
           stamp := (match regionOf (128 * r.line) with | .host => r.stamp | _ => BitVec.ofNat 64 (leNat ((ext.drop 8).take 8))) }

theorem answerRemote_read {s : State} {r : Req} {ext : List Byte} {bad : List Nat} {need : LMask} (stage : r.stage = .remote) (kind : r.kind = .read need) (length : ext.length = 128) :
    answerRemote s r ext bad = match regionOf (128 * r.line) with
      | .host => if backRoom1 (updReq s r.id (fun _ => answered r ext bad)) (answered r ext bad) true then
          advanceReq (advanceReq (updReq (updReq s r.id (fun _ => answered r ext bad)) r.id (fun q => { q with stage := .reply, since := s.clock })) r.id) r.id
        else updReq (updReq s r.id (fun _ => answered r ext bad)) r.id (fun _ => r)
      | _ => arrive (updReq s r.id (fun _ => answered r ext bad)) (answered r ext bad) := by
  have enough : (match r.kind with
    | .atomic _ => (match regionOf (128 * r.line) with | .host => decide (8 ≤ ext.length) | _ => decide (16 ≤ ext.length))
    | .read _ => decide (ext.length = 128)
    | _ => false) = true := by
    rw [kind]
    exact decide_eq_true length
  unfold answerRemote
  dsimp only
  rw [if_neg]
  · rfl
  · rintro (h | h)
    · exact h stage
    · rw [Bool.not_eq_true'] at h
      cases h.symm.trans enough

/-- A request with its answer takes no room that it did not take before. -/
theorem backRoom1_answered {s : State} {r : Req} (ext : List Byte) (bad : List Nat) (stage : r.stage = .remote) (mem : r ∈ s.reqs) (ids : (s.reqs.map Req.id).Nodup) :
    backRoom1 (updReq s r.id (fun _ => answered r ext bad)) (answered r ext bad) true = backRoom1 s r true := by
  have idle : (answered r ext bad).back1 = none := by simp [Req.back1, answered, stage]
  have idle' : r.back1 = none := by simp [Req.back1, stage]
  unfold backRoom1
  refine congrArg (fun n => decide (n < 4)) ?_
  rw [updReq, mapIf, List.filter_map, List.length_map]
  refine congrArg List.length (List.filter_congr fun q hq => ?_)
  rw [Function.comp_apply]
  by_cases same : q.id = r.id
  · obtain rfl := List.inj_on_of_nodup_map ids hq mem same
    rw [if_pos (decide_eq_true rfl), idle, idle']
  · rw [if_neg (by simpa using same)]
    rfl

/-- R106: the answer of the host or of another package comes to a request of a load. -/
theorem answerRemote_load {s : State} {r : Req} {ext : List Byte} {bad : List Nat} {core slot op i : Nat} {need : LMask} (found : reqOf s r.id = some r)
    (who : r.who = .load core slot op i) (stage : r.stage = .remote) (kind : r.kind = .read need) (length : ext.length = 128) (ids : (s.reqs.map Req.id).Nodup)
    (room : regionOf (128 * r.line) = .host → backRoom1 s r true = true) :
    (answerRemote s r ext bad).cores = s.cores ∧ ∃ q, reqOf (answerRemote s r ext bad) r.id = some q ∧ Moved (answered r ext bad) q ∧ q.stage ≠ .remote ∧
      (regionOf (128 * r.line) ≠ .host → q.stage = .done) := by
  have given : reqOf (updReq s r.id (fun _ => answered r ext bad)) r.id = some (answered r ext bad) := reqOf_updReq found rfl
  have whoA : (answered r ext bad).who = .load core slot op i := who
  have kindA : (answered r ext bad).kind = .read need := kind
  rw [answerRemote_read stage kind length]
  by_cases host : regionOf (128 * r.line) = .host
  · rw [host]
    dsimp only
    rw [if_pos ((backRoom1_answered ext bad stage (mem_of_reqOf found) ids).trans (room host))]
    have back : reqOf (updReq (updReq s r.id (fun _ => answered r ext bad)) r.id (fun q => { q with stage := .reply, since := s.clock })) r.id =
        some { answered r ext bad with stage := .reply, since := s.clock } := reqOf_updReq given rfl
    obtain ⟨cores, q, foundQ, moved, far⟩ := advanceReq_moves back whoA kindA nofun
    have whoQ : q.who = .load core slot op i := by rw [moved]; exact whoA
    have kindQ : q.kind = .read need := by rw [moved]; exact kindA
    obtain ⟨cores', q', foundQ', moved', far'⟩ := advanceReq_moves foundQ whoQ kindQ far
    refine ⟨cores'.trans cores, q', foundQ', ?_, far', fun other => absurd rfl other⟩
    rw [Moved, moved', moved]
  · have comes : answerRemote s r ext bad = arrive (updReq s r.id (fun _ => answered r ext bad)) (answered r ext bad) := by
      rw [answerRemote_read stage kind length]
      split
      · rename_i h
        exact absurd h host
      · rfl
    rw [← answerRemote_read stage kind length, comes]
    exact ⟨cores_arrive whoA kindA, _, reqOf_arrive whoA kindA, rfl, nofun, fun _ => rfl⟩

/-! LOAD_REPLY for a load. -/

section
variable {core slot op i corrected : Nat} {ext : List Byte} {bad : List Nat} {o : Op} {sk : Skein} {s : State} {parts : List LoadPart} {elems : List LoadElem} {size : Nat}
  {signed : Bool} {dst : List RegRef} {p : LoadPart} (at' : opOf s core slot op = some o) (body : o.body = .load parts elems size signed dst) (part : parts[i]? = some p)
  (waits : p.arrived = false)
include at' body part waits

theorem loadReply_comes {id : Nat} {r : Req} (sent : p.req = some id) (found : reqOf s id = some r) (stage : r.stage = .done) (turn : replyTurn s r = true) :
    exec (.loadReply core slot op i ⟨ext, corrected, bad⟩) s =
      .next (pokeCore (partDone (dropReq s id) core slot op o parts elems size signed dst i p r.rdata r.rpoison r.took) core) := by
  refine congrArg Host.Outcome.next ?_
  dsimp only
  rw [at']
  dsimp only
  rw [body]
  dsimp only
  rw [part]
  dsimp only
  rw [if_neg (by simp [waits]), sent]
  dsimp only
  rw [found]
  dsimp only
  rw [if_pos ⟨stage, turn⟩]

theorem loadReply_answer {id : Nat} {r : Req} (sent : p.req = some id) (found : reqOf s id = some r) (stage : r.stage = .remote) :
    exec (.loadReply core slot op i ⟨ext, corrected, bad⟩) s = .next (answerRemote s r ext bad) := by
  refine congrArg Host.Outcome.next ?_
  dsimp only
  rw [at']
  dsimp only
  rw [body]
  dsimp only
  rw [part]
  dsimp only
  rw [if_neg (by simp [waits]), sent]
  dsimp only
  rw [found]
  dsimp only
  rw [if_neg (by simp [stage])]

theorem loadReply_core (none' : p.req = none) (mem : ∀ off, regionOf (128 * p.line) ≠ .regs off) :
    exec (.loadReply core slot op i ⟨ext, corrected, bad⟩) s = .next (pokeCore (partDone s core slot op o parts elems size signed dst i p p.data 0 0) core) := by
  refine congrArg Host.Outcome.next ?_
  dsimp only
  rw [at']
  dsimp only
  rw [body]
  dsimp only
  rw [part]
  dsimp only
  rw [if_neg (by simp [waits]), none']
  dsimp only
  cases region : regionOf (128 * p.line) with
  | regs off => exact absurd region (mem off)
  | _ => rfl

end

end Sys2Proof.Machine
end

section
/-! PROOFS. The other replies, acknowledgements, and entries that leave a store queue (R215, R220, R221, R227, R228, R232, O39). -/

namespace Sys2Proof.Machine

/-! LDW. -/

section
variable {core slot op i corrected : Nat} {ext : List Byte} {bad : List Nat} {o : Op} {sk : Skein} {s : State} {elems : List (Nat × Nat)} {size : Nat} {signed : Bool}
  {dst : List RegRef}

/-- The poisoned units that a reply to an LDW brings for what it reads. -/
def weightHit (core : Nat) (elems : List (Nat × Nat)) (bad : List Nat) : List Nat := bad.filter (fun u => elems.any (fun e => decide (wsAddr (dieOf core) e.2 / 32 = u)))

theorem mem_sortedInserts (units : List Nat) : ∀ (l : List Nat) (k : Nat), k ∈ units.foldl (fun p u => sortedInsert u p) l ↔ k ∈ l ∨ k ∈ units := by
  induction units with
  | nil => simp
  | cons u rest ih =>
    intro l k
    rw [List.foldl_cons, ih, mem_sortedInsert, List.mem_cons]
    tauto

/-- The state once the ECC of what an LDW reads is counted. -/
def weightRead (s : State) (core : Nat) (elems : List (Nat × Nat)) (corrected : Nat) (bad : List Nat) : State :=
  let dd : Die := NMap.getD s.dies (dieOf core) {}
  { s with poison := (weightHit core elems bad).foldl (fun p u => sortedInsert u p) s.poison
           dies := NMap.insert s.dies (dieOf core) { dd with corrected := dd.corrected + corrected } }

/-- The lanes of an LDW, those of them that are poisoned, and their values. -/
def weightLanes (elems : List (Nat × Nat)) : LMask := lmask (fun l => elems.any (fun e => decide (e.1 = l)))
def weightBads (s : State) (core : Nat) (elems : List (Nat × Nat)) : LMask :=
  lmask (fun l => elems.any (fun e => decide (e.1 = l) && decide (wsAddr (dieOf core) e.2 / 32 ∈ s.poison)))
def weightValue (s : State) (core size : Nat) (signed : Bool) (e : Nat × Nat) : Nat :=
  let v := leNat (devRead s (wsAddr (dieOf core) e.2) size)
  if signed then (BitVec.ofInt 32 (readInt (8 * size) true v)).toNat else v
def weightPick (s : State) (core size : Nat) (signed : Bool) (elems : List (Nat × Nat)) (l : Nat) : Nat :=
  match elems.find? (fun e => e.1 = l) with
  | some e => weightValue s core size signed e
  | none => 0

theorem weightReply_eq (here : skeinOf s core slot = some sk) (alone : ∀ e ∈ sk.ops, e.1 < op → ∀ a b c d, e.2.body ≠ .weight a b c d)
    (awake : ∀ e ∈ elems, inRefresh s.clock e.2 = false) : weightReply s core slot op elems size signed dst corrected bad =
      finishOp (updSkein (weightRead s core elems corrected bad) core slot (fun sk => writeResultsN sk dst (weightLanes elems) (weightBads (weightRead s core elems corrected bad) core elems)
        (weightPick (weightRead s core elems corrected bad) core size signed elems))) core slot op := by
  have first : (((skeinOf s core slot).map Skein.ops |>.getD []).any (fun e => decide (e.1 < op) && (match e.2.body with
    | .weight _ _ _ _ => true
    | _ => false))) = false := by
    rw [here]
    refine List.any_eq_false.2 fun e he => ?_
    by_cases early : e.1 < op
    · have other := alone e he early
      cases body : e.2.body with
      | weight a b c d => exact absurd body (other a b c d)
      | _ => simp
    · simp [early]
  have second : elems.any (fun e => inRefresh s.clock e.2) = false := List.any_eq_false.2 fun e he => by simp [awake e he]
  unfold weightReply
  dsimp only
  rw [if_neg]
  · rfl
  · rw [second, Bool.or_false]
    exact fun h => Bool.false_ne_true (first.symm.trans h)

theorem weightLanes_mem {l : Nat} (hl : l < 128) : (weightLanes elems).getLsbD l = true ↔ ∃ e ∈ elems, e.1 = l := by
  rw [weightLanes, getLsbD_lmask, decide_eq_true hl, Bool.true_and, List.any_eq_true]
  simp only [decide_eq_true_eq]

/-- A lane of an LDW is poisoned when its unit was, or came so. -/
theorem weightBads_mem {l : Nat} (hl : l < 128) : (weightBads (weightRead s core elems corrected bad) core elems).getLsbD l = true ↔
    ∃ e ∈ elems, e.1 = l ∧ (wsAddr (dieOf core) e.2 / 32 ∈ s.poison ∨ wsAddr (dieOf core) e.2 / 32 ∈ bad) := by
  rw [weightBads, getLsbD_lmask, decide_eq_true hl, Bool.true_and, List.any_eq_true]
  refine exists_congr fun e => and_congr_right fun he => ?_
  rw [Bool.and_eq_true, decide_eq_true_eq, decide_eq_true_eq]
  refine and_congr_right fun _ => (mem_sortedInserts _ _ _).trans (or_congr_right ?_)
  rw [weightHit, List.mem_filter, List.any_eq_true]
  exact and_iff_left ⟨e, he, decide_eq_true rfl⟩

/-- R227: the words of an LDW reach their lanes. -/
theorem weight_delivers (here : skeinOf s core slot = some sk) (at' : opOf s core slot op = some o) (body : o.body = .weight elems size signed dst) (distinct : dst.Nodup)
    (noK : ∀ n, RegRef.k n ∉ dst) (alone : ∀ e ∈ sk.ops, e.1 < op → ∀ a b c d, e.2.body ≠ .weight a b c d) (awake : ∀ e ∈ elems, inRefresh s.clock e.2 = false) :
    ∃ u t, exec (.loadReply core slot op i ⟨ext, corrected, bad⟩) s = .next (pokeCore u core) ∧ skeinOf u core slot = some t ∧ u.mem = s.mem ∧ opOf u core slot op = none ∧
      (NMap.getD u.dies (core / 48) {}).corrected = (NMap.getD s.dies (core / 48) {}).corrected + corrected ∧
      DstTake sk t dst (fun l => (elems.find? (fun e => decide (e.1 = l))).map (weightValue s core size signed)) none ∧
      MarksTake sk t dst (fun l => ∃ e ∈ elems, e.1 = l)
        (fun l => ∃ e ∈ elems, e.1 = l ∧ (wsAddr (dieOf core) e.2 / 32 ∈ s.poison ∨ wsAddr (dieOf core) e.2 / 32 ∈ bad)) False False False := by
  have runs : exec (.loadReply core slot op i ⟨ext, corrected, bad⟩) s = .next (pokeCore (weightReply s core slot op elems size signed dst corrected bad) core) := by
    refine congrArg Host.Outcome.next ?_
    dsimp only
    rw [at']
    dsimp only
    rw [body]
  have reads : skeinOf (weightRead s core elems corrected bad) core slot = some sk := here
  obtain ⟨vregs, kregs, preds, vmarks, kmarks⟩ := finishOpSk_regs (writeResultsN sk dst (weightLanes elems) (weightBads (weightRead s core elems corrected bad) core elems)
    (weightPick (weightRead s core elems corrected bad) core size signed elems)) op
  have value {l : Nat} (hl : l < 128) : (if (weightLanes elems).getLsbD l = true then some (weightPick (weightRead s core elems corrected bad) core size signed elems l) else none) =
      (elems.find? (fun e => decide (e.1 = l))).map (weightValue s core size signed) := by
    unfold weightPick
    cases found : elems.find? (fun e => decide (e.1 = l)) with
    | none =>
      refine if_neg fun on => ?_
      obtain ⟨e, he, lane⟩ := (weightLanes_mem hl).1 on
      simpa [lane] using List.find?_eq_none.1 found e he
    | some e => exact if_pos ((weightLanes_mem hl).2 ⟨e, List.mem_of_find?_eq_some found, by simpa using List.find?_some found⟩)
  rw [weightReply_eq here alone awake] at runs
  refine ⟨_, _, runs, skeinOf_finish_results reads _, ?_, opOf_finishOp _ _ _ _, ?_, ?_, ?_⟩
  · rw [finishOp_mem, updSkein_mem]
    rfl
  · have dies : (finishOp (updSkein (weightRead s core elems corrected bad) core slot (fun sk => writeResultsN sk dst (weightLanes elems)
        (weightBads (weightRead s core elems corrected bad) core elems) (weightPick (weightRead s core elems corrected bad) core size signed elems))) core slot op).dies =
        (weightRead s core elems corrected bad).dies := by simp [finishOp]
    rw [dies]
    exact congrArg Die.corrected (NMap.getD_insert_self _ _ _ _)
  · exact dstTake_congr (dstTake_of_regs (writeResultsN_dstTake distinct _ _ _ sk) vregs kregs preds) (fun _ _ l hl => value hl) fun n mem => absurd mem (noK n)
  · exact marksTake_congr (marksTake_of_marks (writeResultsN_marksTake distinct _ _ _ sk) vmarks kmarks)
      (fun _ _ l hl on => ⟨(weightLanes_mem hl).2 on, weightBads_mem hl⟩) fun n mem => absurd mem (noK n)

end

/-! PSTAT. -/

section
variable {core slot op i corrected : Nat} {ext : List Byte} {bad : List Nat} {o : Op} {sk : Skein} {s : State}

theorem get?_finishOpSk (sk : Skein) (op : Nat) : NMap.get? (finishOpSk sk op).ops op = none := by
  unfold finishOpSk
  split
  · rename_i none'
    exact none'
  · exact NMap.get?_erase_self _ _

theorem pstat_delivers (here : skeinOf s core slot = some sk) (at' : opOf s core slot op = some o) {k plan pipe : Nat} {what : PstatWhat} {p : Pipe}
    (body : o.body = .pstat k plan pipe what) (found : pipeOf s plan pipe = some p) (home : dieOf core = p.homeDie) :
    ∃ t, exec (.loadReply core slot op i ⟨ext, corrected, bad⟩) s = .next (setSkein s core slot t) ∧
      (∀ n, kget t n = if n = k then BitVec.ofNat 32 (pstatValue p what) else kget sk n) ∧ NMap.get? t.ops op = none ∧ t.vregs = sk.vregs ∧ t.preds = sk.preds := by
  have runs : exec (.loadReply core slot op i ⟨ext, corrected, bad⟩) s = .next (pstatReply s core slot op k plan pipe what) := by
    refine congrArg Host.Outcome.next ?_
    dsimp only
    rw [at']
    dsimp only
    rw [body]
  have near : farHome p core = false := by simp [farHome, home]
  have answers : pstatReply s core slot op k plan pipe what =
      finishOp (updSkein s core slot (fun sk => kput sk k (BitVec.ofNat 32 (pstatValue p what)))) core slot op := by
    unfold pstatReply
    rw [found]
    dsimp only
    rw [if_pos (by simp [near])]
  obtain ⟨vregs, kregs, preds, -, -⟩ := finishOpSk_regs (kput sk k (BitVec.ofNat 32 (pstatValue p what))) op
  refine ⟨finishOpSk (kput sk k (BitVec.ofNat 32 (pstatValue p what))) op, ?_, fun n => ?_, get?_finishOpSk _ op, vregs, preds⟩
  · rw [runs, answers, finishOp, updSkein_of _ _ here, updSkein_setSkein]
  · rw [kget, kregs]
    exact NMap.getD_insert _ _ _ _ _

/-! The answer of a lane of an atomic. -/

theorem atomBad_iff {r : Req} {a : AtomReq} (kind : r.kind = .atomic a) :
    r.atomBad = true ↔ ∃ b, a.off ≤ b ∧ b < a.off + itWidth a.ty / 8 ∧ b < 128 ∧ r.rpoison.getLsbD (b / 32) = true := by
  unfold Req.atomBad
  rw [kind]
  dsimp only
  rw [decide_eq_true_eq, touches_iff]
  refine exists_congr fun b => ?_
  rw [getLsbD_maskBytes, decide_eq_true_eq]
  tauto

theorem find?_ids {s : State} {id : Nat} (gone : ∀ r ∈ s.reqs, r.id ≠ id) : reqOf s id = none := List.find?_eq_none.2 fun r hr => by simpa using gone r hr

/-- The core once a lane of an atomic has answered. -/
def atomAnswered (s : State) (core slot op : Nat) (r : Req) (o : Op) : State :=
  setOp (dropFills (updL1 (dropReq (takeStamp s r.who r.stamp) r.id) core (fun l => cleanOut l r.line)) core (some r.line)) core slot op o

theorem atomicReply_eq {r : Req} {old : DWord} {bad : Bool} {lane : Nat} {todo : List (Nat × Nat × AtomReq)} {left : Nat} {sc : Scope} {got : List (Nat × DWord × Bool)} {ty : IType}
    {dst : List RegRef} {sent : Bool} {pg : Progress} (body : o.body = .atomic todo left sc got ty dst sent pg) :
    atomicReply (takeStamp s r.who r.stamp) core slot op o r old bad lane =
      pokeCore (atomAnswered s core slot op r { o with body := .atomic todo (left - 1) sc (got ++ [(lane, old, bad)]) ty dst sent pg }) core := by
  unfold atomicReply
  rw [body]
  rfl

theorem takeStamp_own (s : State) {who : ReqOwner} (stamp : DWord) (own : who.skein = some (core, slot)) : takeStamp s who stamp = updSkein s core slot (fun sk => { sk with lastStamp := stamp }) := by
  unfold takeStamp
  rw [own]

/-- R228, R232: an atomic's lane takes its old value and the skein its stamp; the L1 keeps no clean byte of the line. -/
theorem atom_answers (here : skeinOf s core slot = some sk) (at' : opOf s core slot op = some o) {todo : List (Nat × Nat × AtomReq)} {left : Nat} {sc : Scope}
    {got : List (Nat × DWord × Bool)} {ty : IType} {dst : List RegRef} {sent : Bool} {pg : Progress} {r : Req} {a : AtomReq} (body : o.body = .atomic todo left sc got ty dst sent pg)
    (found : s.reqs.find? (fun q => decide (q.who = .atomic core slot op i)) = some r) (kind : r.kind = .atomic a) (stage : r.stage = .done) (turn : replyTurn s r = true)
    (ack : ackTurn s r = true) :
    ∃ u t sick, exec (.loadReply core slot op i ⟨ext, corrected, bad⟩) s = .next (pokeCore u core) ∧ u.mem = s.mem ∧ reqOf u r.id = none ∧ skeinOf u core slot = some t ∧
      t.lastStamp = r.stamp ∧ (sick = true ↔ ∃ b, a.off ≤ b ∧ b < a.off + itWidth a.ty / 8 ∧ b < 128 ∧ r.rpoison.getLsbD (b / 32) = true) ∧
      opOf u core slot op = some { o with body := .atomic todo (left - 1) sc (got ++ [(i, r.rold, sick)]) ty dst sent pg } ∧
      ∀ l, NMap.get? (coreOf u core).l1 r.line = some l → ∀ b, l.valid.getLsbD b = true → l.dirty.getLsbD b = true := by
  have own : r.who = .atomic core slot op i := by simpa using List.find?_some found
  have stamped : skeinOf (takeStamp s r.who r.stamp) core slot = some { sk with lastStamp := r.stamp } := by
    rw [takeStamp_own s r.stamp (by rw [own]; rfl)]
    exact skein_updSkein here _
  obtain ⟨ops, dropped⟩ := ((coreGoes_updL1 (core := core) (dropReq (takeStamp s r.who r.stamp) r.id) (fun l => cleanOut l r.line)).trans (coreGoes_dropFills _ (some r.line))).skein slot _ stamped
  refine ⟨atomAnswered s core slot op r { o with body := .atomic todo (left - 1) sc (got ++ [(i, r.rold, r.atomBad)]) ty dst sent pg }, _, r.atomBad, ?_, ?_, ?_,
    skein_updSkein dropped _, rfl, atomBad_iff kind, opOf_setOp dropped _, ?_⟩
  · rw [← atomicReply_eq body]
    refine congrArg Host.Outcome.next ?_
    dsimp only
    rw [at']
    dsimp only
    rw [body]
    dsimp only
    rw [found]
    dsimp only
    rw [if_pos ⟨stage, turn, ack⟩]
  · simp [atomAnswered]
  · refine find?_ids fun q hq => ?_
    rw [atomAnswered, setOp, reqs_updSkein] at hq
    have mem : q.id ∈ (dropFills (updL1 (dropReq (takeStamp s r.who r.stamp) r.id) core (fun l => cleanOut l r.line)) core (some r.line)).reqs.map Req.id := List.mem_map_of_mem hq
    rw [ids_dropFills] at mem
    obtain ⟨z, hz, same⟩ := List.mem_map.1 mem
    exact same ▸ reqOf_dropReq _ _ z hz
  · rw [atomAnswered, setOp, l1_updSkein, l1_dropFills, l1_updL1]
    exact noClean_cleanOut _ _

/-! WRITE_ACKNOWLEDGEMENT. -/

/-- R221, R232: an acknowledgement carries its stamp to the skein, and completes the store with its last entry. -/
theorem ack_completes (here : skeinOf s core slot = some sk) (at' : opOf s core slot op = some o) {id left : Nat} {r : Req} {m : LMask} {d : LineData} (found : reqOf s id = some r)
    (kind : r.kind = .write m d) (stage : r.stage = .done) (turn : replyTurn s r = true) (ack : ackTurn s r = true) (who : r.who = .store core slot op) (body : o.body = .store left) :
    ∃ u t, exec (.writeAcknowledgement id) s = .next (pokeCore u core) ∧ skeinOf u core slot = some t ∧ u = { s with reqs := u.reqs, cores := u.cores } ∧ reqOf u id = none ∧
      t.lastStamp = r.stamp ∧ t.vregs = sk.vregs ∧ t.kregs = sk.kregs ∧ opOf u core slot op = if left ≤ 1 then none else some { o with body := .store (left - 1) } := by
  have stamped : takeStamp (dropReq s id) r.who r.stamp = setSkein (dropReq s id) core slot { sk with lastStamp := r.stamp } := by
    rw [takeStamp_own _ r.stamp (by rw [who]; rfl)]
    exact updSkein_of _ _ here
  have still : opOf (setSkein (dropReq s id) core slot { sk with lastStamp := r.stamp }) core slot op = some o := by
    rw [opOf, skeinOf_setSkein_self, ← at', opOf, here]
    rfl
  have runs : exec (.writeAcknowledgement id) s = .next (pokeCore (storeEntryDone (takeStamp (dropReq s id) r.who r.stamp) core slot op) core) := by
    refine congrArg Host.Outcome.next ?_
    dsimp only
    rw [found]
    dsimp only
    rw [kind]
    dsimp only
    rw [if_neg (by simp [stage, turn, ack]), if_pos stage, who]
    rfl
  have entry (w : State) (hw : opOf w core slot op = some o) : storeEntryDone w core slot op = if left ≤ 1 then finishOp w core slot op else setOp w core slot op { o with body := .store (left - 1) } := by
    unfold storeEntryDone
    rw [hw]
    dsimp only
    rw [body]
  have gone (k : Skein) : reqOf (setSkein (dropReq s id) core slot k) id = none := find?_ids (reqOf_dropReq s id)
  rw [stamped, entry _ still] at runs
  by_cases last : left ≤ 1
  · rw [if_pos last, finishOp, updSkein_setSkein] at runs
    obtain ⟨vregs, kregs, -, -, -⟩ := finishOpSk_regs { sk with lastStamp := r.stamp } op
    have stamp : (finishOpSk { sk with lastStamp := r.stamp } op).lastStamp = r.stamp := by
      unfold finishOpSk
      split <;> rfl
    refine ⟨_, _, runs, skeinOf_setSkein_self _ _ _ _, rfl, gone _, stamp, vregs, kregs, ?_⟩
    rw [if_pos last, opOf, skeinOf_setSkein_self]
    exact get?_finishOpSk _ op
  · rw [if_neg last, setOp, updSkein_setSkein] at runs
    refine ⟨_, _, runs, skeinOf_setSkein_self _ _ _ _, rfl, gone _, rfl, rfl, rfl, ?_⟩
    rw [if_neg last, opOf, skeinOf_setSkein_self]
    exact NMap.get?_insert_self _ _ _

end

/-! STORE_QUEUE_ENTRY_TO_L1 (R215). -/

section
variable {core quarter slot : Nat} {e : SqEntry} {rest : List SqEntry} {sk : Skein} {s : State}

/-- The core once the head of a queue is taken out. -/
def headTaken (s : State) (core quarter slot : Nat) : State :=
  updSkein (updCore s core (fun c => { c with sqTaken := NMap.insert c.sqTaken quarter ((coreOf s core).phase / 144) })) core slot (fun sk => { sk with sq := sk.sq.drop 1 })

theorem storeQueue_runs (turn : ∀ z ∈ (coreOf s core).sqTaken, z.2 = (coreOf s core).phase / 144 → z.1 < quarter) (head : earliestHead s core quarter = some (slot, e)) :
    exec (.storeQueueEntryToL1 core quarter) s = .next (pokeCore (admitEntries (leaveQueue (headTaken s core quarter slot) core slot e) core slot) core) := by
  have free : (coreOf s core).sqTaken.any (fun e => decide (e.2 = (coreOf s core).phase / 144) && decide (quarter ≤ e.1)) = false := List.any_eq_false.2 fun z hz => by
    by_cases now : z.2 = (coreOf s core).phase / 144
    · simp [Nat.not_le.2 (turn z hz now)]
    · simp [now]
  refine congrArg Host.Outcome.next ?_
  dsimp only
  rw [free, if_neg (by decide), head]
  rfl

theorem headTaken_skein (here : skeinOf s core slot = some sk) (queue : sk.sq = e :: rest) : skeinOf (headTaken s core quarter slot) core slot = some { sk with sq := rest } := by
  have taken : skeinOf (updCore s core (fun c => { c with sqTaken := NMap.insert c.sqTaken quarter ((coreOf s core).phase / 144) })) core slot = some sk :=
    (skeinOf_updCore s (by rfl) slot).trans here
  refine (skein_updSkein taken _).trans ?_
  rw [queue]
  rfl

/-- Where no entry waits for the queue, none enters. -/
theorem admitEntries_idle {v : State} {k : Skein} (here : skeinOf v core slot = some k) (none' : k.sqWait = []) : admitEntries v core slot = setSkein v core slot k := by
  have same : { k with sq := k.sq ++ [], sqWait := [] } = k := by
    rw [List.append_nil, ← none']
  unfold admitEntries
  rw [here]
  dsimp only
  rw [none', List.take_nil, List.drop_nil]
  exact congrArg (setSkein v core slot) same

theorem reqs_headTaken : (headTaken s core quarter slot).reqs = s.reqs := by
  rw [headTaken, reqs_updSkein]
  rfl

/-- An entry written back merges its bytes, dirty, into its line. -/
theorem storeQueue_back (turn : ∀ z ∈ (coreOf s core).sqTaken, z.2 = (coreOf s core).phase / 144 → z.1 < quarter) (head : earliestHead s core quarter = some (slot, e))
    (here : skeinOf s core slot = some sk) (queue : sk.sq = e :: rest) (idle : sk.sqWait = []) (back : e.through = false) :
    ∃ u t l, exec (.storeQueueEntryToL1 core quarter) s = .next (pokeCore u core) ∧ u.mem = s.mem ∧ skeinOf u core slot = some t ∧ t = { sk with sq := rest, ops := t.ops } ∧
      NMap.get? (coreOf u core).l1 e.line = some l ∧
      ∀ b, b < 128 → e.mask.getLsbD b = true → lineByte l.data b = lineByte e.data b ∧ l.valid.getLsbD b = true ∧ l.dirty.getLsbD b = true := by
  have merges : leaveQueue (headTaken s core quarter slot) core slot e = l1Merge (headTaken s core quarter slot) core e := by
    unfold leaveQueue
    rw [if_pos (by simp [back])]
  obtain ⟨ops, merged⟩ := (fillGoes_l1Put (core := core) (headTaken s core quarter slot) e.line (fun l =>
    { l with data := mergeLine l.data e.mask e.data, valid := l.valid ||| e.mask, dirty := l.dirty ||| e.mask, firstVictim := e.firstVictim })).goes.skein slot _ (headTaken_skein here queue)
  obtain ⟨used, held⟩ := get?_l1Put (core := core) (headTaken s core quarter slot) e.line (fun l =>
    { l with data := mergeLine l.data e.mask e.data, valid := l.valid ||| e.mask, dirty := l.dirty ||| e.mask, firstVictim := e.firstVictim })
  have runs := storeQueue_runs turn head
  rw [merges, l1Merge, admitEntries_idle merged idle] at runs
  refine ⟨_, _, _, runs, ?_, skeinOf_setSkein_self _ _ _ _, rfl, (congrArg (NMap.get? · e.line) ?_).trans held, fun b _ on => ⟨?_, ?_, ?_⟩⟩
  · simp [headTaken]
  · rw [coreOf_setSkein, if_pos rfl]
  · exact (lineByte_mergeLine _ _ _ _).trans (if_pos on)
  · simp [BitVec.getLsbD_or, on]
  · simp [BitVec.getLsbD_or, on]

/-- An entry written through goes on as a write to its slice. -/
theorem storeQueue_through (turn : ∀ z ∈ (coreOf s core).sqTaken, z.2 = (coreOf s core).phase / 144 → z.1 < quarter) (head : earliestHead s core quarter = some (slot, e))
    (here : skeinOf s core slot = some sk) (queue : sk.sq = e :: rest) (idle : sk.sqWait = []) {o : Nat} (through : e.through = true) (entry : e.op = some o)
    (main : isMain (128 * e.line) = true) :
    ∃ u r, exec (.storeQueueEntryToL1 core quarter) s = .next (pokeCore u core) ∧ u.mem = s.mem ∧ (skeinOf u core slot).map Skein.sq = some rest ∧
      u.reqs.getLast? = some r ∧ u.reqs.length = s.reqs.length + 1 ∧ r.kind = .write e.mask e.data ∧ r.line = e.line ∧ r.stage = .port ∧ r.who = .store core slot o ∧
      r.policy = e.policy := by
  have sends : leaveQueue (headTaken s core quarter slot) core slot e =
      (postCore (l1Through (headTaken s core quarter slot) core e) (.write e.mask e.data) (.store core slot o) e.line e.policy core).2 := by
    unfold leaveQueue
    rw [if_neg (by simp [through])]
    unfold isMain at main
    split
    · rename_i off region
      rw [region] at main
      cases main
    · dsimp only
      rw [entry]
  obtain ⟨ops, sent⟩ := (((coreGoes_updL1 _ _).trans (coreGoes_dropFills _ (some e.line))).trans (coreGoes_postCore (core := core) (l1Through (headTaken s core quarter slot) core e)
    (.write e.mask e.data) (.store core slot o) e.line e.policy core)).skein slot _ (headTaken_skein here queue)
  have length : (l1Through (headTaken s core quarter slot) core e).reqs.length = s.reqs.length := by
    have ids := congrArg List.length (ids_dropFills (core := core) (updL1 (headTaken s core quarter slot) core (fun l => nupdate l e.line (fun x =>
      { x with data := mergeLine x.data (e.mask &&& x.valid) e.data, dirty := without x.dirty e.mask }))) (some e.line))
    rw [List.length_map, List.length_map] at ids
    exact ids.trans (congrArg List.length reqs_headTaken)
  have runs := storeQueue_runs turn head
  rw [sends, admitEntries_idle sent idle] at runs
  refine ⟨_, _, runs, ?_, by rw [skeinOf_setSkein_self]; rfl, List.getLast?_concat, ?_, rfl, rfl, rfl, rfl, rfl⟩
  · simp [headTaken]
  · exact (List.length_append).trans (by rw [length]; rfl)

end

end Sys2Proof.Machine
end

section
/-! PROOFS. LOAD_REPLY, WRITE_ACKNOWLEDGEMENT and STORE_QUEUE_ENTRY_TO_L1 (R215 to R217, R220, R221, R227, R228, R232, R238, O39). -/

namespace Sys2Proof.Machine

section
variable {core slot op i corrected : Nat} {ext : List Byte} {bad : List Nat} {o : Op} {sk : Skein} {s : State} {parts : List LoadPart} {elems : List LoadElem} {size : Nat}
  {signed : Bool} {dst : List RegRef} {p : LoadPart}

section
variable {line : LineData} {poison : BitVec 4} {took : Nat}

/-- A byte of a filled line: the dirty bytes that the L1 held stay. -/
theorem l1Old_byte (s : State) (core n : Nat) (line : LineData) (b : Nat) :
    (if (l1Old s core n).dirty.getLsbD b = true then lineByte (l1Old s core n).data b else lineByte line b) =
      match NMap.get? (coreOf s core).l1 n with
      | some e => if e.dirty.getLsbD b then lineByte e.data b else lineByte line b
      | none => lineByte line b := by
  unfold l1Old NMap.getD
  cases NMap.get? (coreOf s core).l1 n with
  | none => simp
  | some e => rfl

/-- R238: the line of a load fills the L1 as its part is done. -/
theorem partDone_fills (fills : p.allocate = true) (clean : poison = 0) (timely : p.dropped = false) :
    ∃ l, NMap.get? (coreOf (partDone s core slot op o parts elems size signed dst i p line poison took) core).l1 p.line = some l ∧ l.valid = allLanes ∧
      ∀ b, lineByte l.data b = if (l1Old s core p.line).dirty.getLsbD b = true then lineByte (l1Old s core p.line).data b else lineByte line b := by
  have same : l1Old (partGiven s core slot op o parts elems size signed dst i p line poison) core p.line = l1Old s core p.line := by rw [l1Old, l1_partGiven, l1Old]
  rw [l1_partDone, ← same]
  exact partFill_fills took fills clean timely

/-- A line that came poisoned or too late leaves no clean byte in the L1 as its part is done. -/
theorem partDone_drops (fills : p.allocate = true) (late : poison ≠ 0 ∨ p.dropped = true) :
    NoClean (coreOf (partDone s core slot op o parts elems size signed dst i p line poison took) core).l1 p.line := by
  rw [l1_partDone]
  exact partFill_drops took fills late

end

/-- The answer that a request then holds. -/
theorem answered_poison (r : Req) (ext : List Byte) (bad : List Nat) {k : Nat} (hk : k < 4) : (answered r ext bad).rpoison.getLsbD k = true ↔ 4 * r.line + k ∈ bad := by
  unfold answered
  rw [getLsbD_bitsOf, decide_eq_true hk, Bool.true_and, decide_eq_true_eq]

end

/-- Settles O39: a reply to a load is one part done (`partDone`), whose registers, operation and line in the L1 have each their own rule; the other events have one each. -/
theorem memoryReplies : Obligations.MemoryReplies := by
  unfold Obligations.MemoryReplies
  refine ⟨fun core slot op i corrected ext bad o sk s here at' => ?_, fun core quarter slot e rest sk s turn head here queue idle =>
    ⟨storeQueue_back turn head here queue idle, fun o through entry main => storeQueue_through turn head here queue idle through entry main⟩⟩
  refine ⟨fun parts elems size signed dst p body part waits distinct kinds => ⟨?_, ?_, ?_, ?_⟩, fun elems size signed dst body distinct noK alone awake => ?_,
    fun k plan pipe what p body found home => pstat_delivers here at' body found home, fun todo left sc got ty dst sent pg r a body found kind stage turn ack _ => ?_,
    fun id r m d left found kind stage turn ack who body => ack_completes here at' found kind stage turn ack who body⟩
  · intro id r sent stays found stage turn
    obtain ⟨t, skein, taken⟩ := partDone_taken (s := dropReq s id) (o := o) (slot := slot) (op := op) (took := r.took) (line := r.rdata) (poison := r.rpoison) (p := p) (i := i) here distinct kinds
    exact ⟨_, t, loadReply_comes at' body part waits sent found stage turn, skein, by simp, partDone_lost (reqOf_dropReq s id) (by simp [stays]), partDone_op here stays, taken⟩
  · intro id r sent fills old found stage turn
    obtain ⟨t, skein, taken⟩ := partDone_taken (s := dropReq s id) (o := o) (slot := slot) (op := op) (took := r.took) (line := r.rdata) (poison := r.rpoison) (p := p) (i := i) here distinct kinds
    refine ⟨_, t, loadReply_comes at' body part waits sent found stage turn, skein, by simp, partDone_lost (reqOf_dropReq s id) fun _ => old, taken, partDone_ends here,
      fun clean timely => ?_, partDone_drops fills⟩
    obtain ⟨l, held, valid, bytes⟩ := partDone_fills (s := dropReq s id) (core := core) (slot := slot) (op := op) (o := o) (parts := parts) (elems := elems) (size := size) (signed := signed)
      (dst := dst) (i := i) (line := r.rdata) (took := r.took) fills clean timely
    exact ⟨l, held, valid, fun b _ => (bytes b).trans (l1Old_byte s core p.line r.rdata b)⟩
  · intro id r sent found who stage ⟨need, kind⟩ length ids room
    obtain rfl := id_of_reqOf found
    obtain ⟨cores, q, foundQ, moved, far, near⟩ := answerRemote_load (bad := bad) found who stage kind length ids room
    exact ⟨_, q, loadReply_answer at' body part waits sent found stage, by simp, cores, foundQ, by rw [moved]; rfl, far, fun k hk => by rw [moved]; exact answered_poison r ext bad hk, near⟩
  · intro none' stays mem
    obtain ⟨t, skein, taken⟩ := partDone_taken (s := s) (o := o) (slot := slot) (op := op) (took := 0) (line := p.data) (poison := 0) (p := p) (i := i) here distinct kinds
    exact ⟨_, t, loadReply_core at' body part waits none' mem, skein, by simp, partDone_op here stays, taken⟩
  · exact weight_delivers here at' body distinct noK alone awake
  · exact atom_answers here at' body found kind stage turn ack

end Sys2Proof.Machine
end
